-- ==== Sys2Proof/Word.lean ====
section
/-!
DEFINITION. Sys2Proof/Word.lean: the word types of HJA-1152-M44. A register is 32 bits unless its map gives 64 (R10);
memory is addressed by bytes. Field extraction and byte order stand in Machine/Bits.lean.
-/
namespace Sys2Proof

/-- One byte of memory, or of a message. -/
abbrev Byte := BitVec 8

/-- One 32-bit register or word (R10). -/
abbrev Word := BitVec 32

/-- One 64-bit register (R10). -/
abbrev DWord := BitVec 64

/-- The bits of an FP32 value (Table 3-1). -/
abbrev F32 := BitVec 32

/-- The bits of an FP64 value, as the norm taps hold it (Table 6-7). -/
abbrev F64 := BitVec 64

end Sys2Proof
end

