-- ==== Sys2Proof/Syntax.lean ====
section
/-!
DEFINITION. Sys2Proof/Syntax.lean: the commands of the block, one constructor per row of spec/opcode_table.json. Operands
name the instance the step acts on (k core, p partition, n link, c die, e DMA engine, st stack, g galley) and carry what
arrives from outside: the word written, a record, a flit, a message, a sample. A descriptor is not an operand: the sequencer
fetches it from command memory at the running list's cursor.
-/
namespace Sys2Proof

/-- The commands of HJA-1152-M44. -/
inductive Instr
  /-- NOP (R198): Control operation that does nothing for one CORE_c cycle. -/
  | nop (k : Nat)
  /-- SET (R198): Control operation that loads an immediate into an a or c register. -/
  | set (k : Nat)
  /-- ADD (R198): Control operation that adds a source register, an optional second source and an immediate into a
    destination register. -/
  | add (k : Nat)
  /-- LOOP (R198): Control operation that decrements a c register and jumps while it is non-zero; a target outside the
    list abandons the list. -/
  | loop (k : Nat)
  /-- BR (R198): Control operation that jumps when its condition on a c register or predicate holds. -/
  | br (k : Nat)
  /-- WAIT_TICK (R197): Control operation that parks its list until a target impression number is reached, opening a
    new segment. -/
  | waitTick (k : Nat)
  /-- END (R198): Control operation that ends the list, so the sequencer passes to the next admitted list. -/
  | listEnd (k : Nat)
  /-- F_MATMUL (R75): Issue of a narrow-format matrix command to the F-array, with validation, passes, exact
    accumulation, rounding and rescale. -/
  | fMatmul (k : Nat)
  /-- FUSED (R156): Issue of a matrix command with a row-caster epilogue or prologue on the F-array or B-array. -/
  | fused (k : Nat)
  /-- B_MATMUL (R134): Issue of a BF16 or FP16 matrix command to the B-array with chunk accumulation and the chunk
    tree. -/
  | bMatmul (k : Nat)
  /-- B_ADD (R140): Issue of an element-wise sum of two to eight source tensors in listed order. -/
  | bAdd (k : Nat)
  /-- CONVERT (R173): Issue of a conversion of FP32, BF16 or FP16 tiles into a storage format under a slot's scales. -/
  | convert (k : Nat)
  /-- CONVERT_CALIBRATED (R129): Second calibration pass that sets TSCALE from the measured amax and converts the
    tiles of the calibration area to their destinations. -/
  | convertCalibrated (k : Nat)
  /-- ROW_NORM_FWD (R152): Row-caster normalisation forward that writes a statistics set of KIND 1. -/
  | rowNormFwd (k : Nat)
  /-- ROW_NORM_BWD (R154): Row-caster normalisation backward in two sweeps producing dx and parameter gradients. -/
  | rowNormBwd (k : Nat)
  /-- ROW_SOFTMAX_FWD (R152): Row-caster softmax forward that writes a statistics set of KIND 2. -/
  | rowSoftmaxFwd (k : Nat)
  /-- ROW_SOFTMAX_BWD (R155): Row-caster softmax backward computing dx from p and the row sum D. -/
  | rowSoftmaxBwd (k : Nat)
  /-- ROW_ACT (R188): Row-caster activation, forward or backward, with optional dropout addressed by element. -/
  | rowAct (k : Nat)
  /-- ROW_DRAW (R189): Gumbel-max draw of one index per row of scores at a given temperature. -/
  | rowDraw (k : Nat)
  /-- MSG_SEND (R220): Issue of a message of LEN bytes to a destination core, waiting at the sender while the
    destination table is full. -/
  | msgSend (k : Nat)
  /-- MSG_RECV (R220): Posting of a receive buffer that matches one arriving send by source and TAG. -/
  | msgRecv (k : Nat)
  /-- MESSAGE_ARRIVAL (R221): A send arrives at its destination, is matched against posted receives, checked against
    BOUND and written. -/
  | messageArrival (src : Nat) (seq : Nat)
  /-- GALLEY_PUSH (R234): Push of one slug into a galley, waiting for room until the whole slug is accepted. -/
  | galleyPush (k : Nat)
  /-- GALLEY_POP (R238): Pop of one slug from a galley into memory after header checks of length and tag. -/
  | galleyPop (k : Nat)
  /-- DMA_COPY (R262): Issue of a strided copy descriptor into a DMA engine queue, waiting while the queue is full. -/
  | dmaCopy (k : Nat)
  /-- DMA_TCOPY (R265): Issue of a transposing copy that builds BF16 or wide tiles of the transposed tensor. -/
  | dmaTcopy (k : Nat)
  /-- DMA_DRAIN (R266): DMA descriptor with DRAIN that retires only when earlier background transfers of the core have
    completed. -/
  | dmaDrain (k : Nat)
  /-- GAUGE_SET_IMAGE_LOAD (R106): GAUGE.SET mode 0 loading slot images from memory. -/
  | gaugeSetImageLoad (k : Nat)
  /-- GAUGE_SET_MERGE (R112): GAUGE.SET mode 1 folding summary records into the slots they name. -/
  | gaugeSetMerge (k : Nat)
  /-- GAUGE_SET_CLEAR_COUNTERS (R116): GAUGE.SET mode 2 clearing the counters of consecutive slots. -/
  | gaugeSetClearCounters (k : Nat)
  /-- GAUGE_SET_CLEAR_HISTORY (R127): GAUGE.SET mode 3 clearing VALID and HEAD so the slots enter calibration. -/
  | gaugeSetClearHistory (k : Nat)
  /-- GAUGE_READ_IMAGES (R106): GAUGE.READ mode 0 writing slot images to memory. -/
  | gaugeReadImages (k : Nat)
  /-- GAUGE_READ_SUMMARY (R112): GAUGE.READ mode 1 writing one 16-byte summary record per slot. -/
  | gaugeReadSummary (k : Nat)
  /-- PLATEN_SUBMIT (R272): Submission of a single-pass optimiser update of parameter tiles to the Platen of one
    stack. -/
  | platenSubmit (k : Nat)
  /-- PLATEN_SUBMIT_LAMB_NORM (R279): Submission of a LAMB PHASE 1 pass that updates moments and accumulates the norm
    record. -/
  | platenSubmitLambNorm (k : Nat)
  /-- PLATEN_SUBMIT_LAMB_APPLY (R279): Submission of a LAMB PHASE 2 pass that applies the trust value to the
    parameters. -/
  | platenSubmitLambApply (k : Nat)
  /-- PLATEN_DRAIN (R275): Submit with DRAIN that retires once every earlier submit of the core to that Platen has
    completed. -/
  | platenDrain (k : Nat)
  /-- PASS_START (R91): An array pass begins once a staging buffer is free, holding it until its tile commits. -/
  | passStart (k : Nat) (arr : Nat)
  /-- TILE_CONVERT (R117): The output converter takes a fully staged tile, scans it, re-sets or recasts it as needed
    and commits it. -/
  | tileConvert (k : Nat) (unit : Nat)
  /-- LANE_GENERATORS_ACQUIRE (R180): A waiting SR converter or ROW command takes the shared lane generators when they
    free. -/
  | laneGeneratorsAcquire (k : Nat) (holder : Nat)
  /-- COMMAND_RETIRE (R203): A command retires when its completion condition is met, writing its command record and
    raising CMD. -/
  | commandRetire (k : Nat) (seq : Nat)
  /-- GLOBAL_RECAST_UPDATE (R125): A change of a core's ALL_RECAST reaches the partition state on H and may raise
    GLOBAL_RECAST. -/
  | globalRecastUpdate (k : Nat)
  /-- IMPR_RUN_START (R29): Software writes RUN from 0 to 1; the start is checked and the first tick scheduled. -/
  | imprRunStart (p : Nat) (w : Word)
  /-- FIRST_IMPRESSION_START (R29): The time base reaches START_TIME and the first impression begins with its start
    number, step and position. -/
  | firstImpressionStart (p : Nat)
  /-- STOP_PRESS (R450): Software clears RUN; the partition halts at the next announcement, or the pending start is
    cancelled. -/
  | stopPress (p : Nat) (w : Word)
  /-- ANNOUNCEMENT (R33): At T minus GUARD the partition forms its outcome for the ending impression and the next
    multiplier and sends it on group links. -/
  | announcement (p : Nat)
  /-- TICK_RECORD (R34): A TICK record arrives on a link and is checked, forwarded once or discarded. -/
  | tickRecord (n : Nat) (rec : List Byte)
  /-- TICK (R34): At the scheduled end T the partition combines announcements and ticks, defers or halts. -/
  | tick (p : Nat)
  /-- HALT_TICK (R37): The halting tick fires once the partition's incomplete admitted work has retired. -/
  | haltTick (p : Nat)
  /-- LISTS_BEGIN (R31): At T plus 500 ns every core of the partition begins its admitted lists. -/
  | listsBegin (p : Nat)
  /-- TIME_LOAD (R41): Write of LOAD_GO loads the time base from LOAD if no partition runs. -/
  | timeLoad (w : Word)
  /-- GAUGE_WINDOW_WRITE (R131): A write through the Gauge slot window, refused if the slot is in use or out of range.
    -/
  | gaugeWindowWrite (k : Nat) (off : Nat) (w : Word)
  /-- SLAB_CLR (R168): Write of SLAB_CLR clears NONFIN, FILLED and the update count of the selected slab. -/
  | slabClr (k : Nat) (w : Word)
  /-- TAP_CLR (R168): Write of TAP_CLR clears the live sums and count of the selected tap. -/
  | tapClr (k : Nat) (w : Word)
  /-- LANE_PROBE_GO (R191): Write of PROBE_GO starts computing the generator state and draw for the probe inputs. -/
  | laneProbeGo (k : Nat) (w : Word)
  /-- LANE_PROBE_DONE (R191): The probe finishes, PROBE_GO falls and PROBE_DONE is raised. -/
  | laneProbeDone (k : Nat)
  /-- CMEM_LOAD (R225): Write of CMEM_GO starts copying descriptors into command memory, after checks. -/
  | cmemLoad (k : Nat) (w : Word)
  /-- CMEM_LOAD_DONE (R226): The last descriptor of a CMEM load is written, CMEM_GO falls and CMEM_DONE is raised. -/
  | cmemLoadDone (k : Nat)
  /-- LIST_ENTRY_WRITE (R224): A write to a list entry returns the list to IDLE, unless the list is protected. -/
  | listEntryWrite (k : Nat) (off : Nat) (w : Word)
  /-- GALLEY_CFG_WRITE (R248): A write to a galley set that enables or disables the galley, granting credits on
    enable. -/
  | galleyCfgWrite (k : Nat) (g : Nat) (w : Word)
  /-- GALLEY_FLUSH (R243): Write of FLUSH empties a galley, returns credits and cuts short commands in progress. -/
  | galleyFlush (k : Nat) (g : Nat) (w : Word)
  /-- GALLEY_FLIT_ARRIVAL (R240): A galley flit arrives at a receiving galley and enters its tail, or is discarded
    during resync or from a stray source. -/
  | galleyFlitArrival (k : Nat) (g : Nat)
  /-- GALLEY_CREDIT_ARRIVAL (R240): A credit returns to a forwarding sender and raises its credit count. -/
  | galleyCreditArrival (k : Nat) (g : Nat)
  /-- GALLEY_CONSUMER_START (R237): A pop or forwarding sink begins a slug once THRESH slots or the whole slug are
    present. -/
  | galleyConsumerStart (k : Nat) (g : Nat)
  /-- GALLEY_FORWARD_FLIT (R240): A forwarding sink sends one flit toward its downstream galley against a credit. -/
  | galleyForwardFlit (k : Nat) (g : Nat)
  /-- GALLEY_RING_READ (R236): A spilled ring slot returns from HBM into the head, checked for ECC. -/
  | galleyRingRead (k : Nat) (g : Nat)
  /-- DMA_TRANSFER_START (R262): A DMA engine starts its next queued descriptor, checking the proof reserve. -/
  | dmaTransferStart (c : Nat) (e : Nat)
  /-- DMA_TRANSFER_DONE (R266): A DMA transfer writes its last byte, retiring it or ending its background count and
    releasing waiting drains. -/
  | dmaTransferDone (c : Nat) (e : Nat)
  /-- PLATEN_UPDATE_START (R274): A Platen starts its next queued submit, capturing the profile and checking tiles. -/
  | platenUpdateStart (st : Nat)
  /-- PLATEN_UPDATE_DONE (R275): A Platen finishes a submit, writing any norm record and releasing drains. -/
  | platenUpdateDone (st : Nat)
  /-- ZEROING_DONE (R253): Zeroing of a claimed die's stacks, cases and command memories completes and its cores leave
    reset. -/
  | zeroingDone (p : Nat)
  /-- LINK_CFG_WRITE (R307): A write of a link's CFG that enables it into training or disables it and discards its
    buffers. -/
  | linkCfgWrite (n : Nat) (w : Word)
  /-- LANE_LOCK (R306): A link receiver locks its first lane in a training attempt, starting the retrain limit. -/
  | laneLock (n : Nat) (lane : Nat)
  /-- LINK_TRAINING_DONE (R303): Link training completes and the link enters HELLO. -/
  | linkTrainingDone (n : Nat)
  /-- HELLO_TIMER (R303): Every 1 microsecond in HELLO a link sends its HELLO record. -/
  | helloTimer (n : Nat)
  /-- LINK_RETRAIN (R299): A link leaves ACTIVE for RETRAIN on repeated resends, uncorrectable codewords or loss of
    lock. -/
  | linkRetrain (n : Nat) (cause : Nat)
  /-- LINK_RETRAIN_DONE (R305): Retraining completes and each sender replays from the partner's RX_NEXT. -/
  | linkRetrainDone (n : Nat)
  /-- RETRAIN_LIMIT_EXPIRY (R306): Training or retraining fails to complete within RETRAIN_LIMIT and the link goes
    DOWN. -/
  | retrainLimitExpiry (n : Nat)
  /-- LINK_FLIT_RECEIVE (R297): A flit arrives on a link and is checked for CRC and sequence, with ACK and NAK
    handled. -/
  | linkFlitReceive (n : Nat) (flit : List Byte)
  /-- GALLEY_LINK_FLIT (R293): A GALLEY flit's slot-stream bytes are rebuilt into slots of the receiving galley. -/
  | galleyLinkFlit (n : Nat) (flit : List Byte)
  /-- COLL_FLIT (R323): A COLL flit delivers collective stream bytes to a running channel, which combines and forwards
    them. -/
  | collFlit (n : Nat) (flit : List Byte)
  /-- HELLO (R304): A HELLO record is received and the exchange is accepted or fails on trunking or skew. -/
  | hello (n : Nat) (rec : List Byte)
  /-- LC_CREDIT (R300): An LC_CREDIT record returns link-channel credits to the sender. -/
  | lcCredit (n : Nat) (rec : List Byte)
  /-- GALLEY_CREDIT (R301): A GALLEY_CREDIT record updates the sender's credit toward one receiving galley. -/
  | galleyCredit (n : Nat) (rec : List Byte)
  /-- GALLEY_ABORT (R293): A GALLEY_ABORT record is treated by the receiving galley as an ABORT flit. -/
  | galleyAbort (n : Nat) (rec : List Byte)
  /-- BOUNDARY (R343): A BOUNDARY record updates RX_BOUNDARY and on a group link holds later flits until the local
    tick. -/
  | boundary (n : Nat) (rec : List Byte)
  /-- TSYNC_REQ (R310): A time-exchange request is answered with TSYNC_RESP carrying T3 and the turnaround. -/
  | tsyncReq (n : Nat) (rec : List Byte)
  /-- TSYNC_RESP (R311): A time-exchange response yields offset and delay and drives the time servo. -/
  | tsyncResp (n : Nat) (rec : List Byte)
  /-- TIME_EXCHANGE_TIMER (R310): Every 125 microseconds an active link starts a time exchange. -/
  | timeExchangeTimer (n : Nat)
  /-- COLL_START (R318): A neighbour's COLL_START is received and compared, enabling data toward it or failing the
    run. -/
  | collStart (n : Nat) (rec : List Byte)
  /-- COLL_WAVE (R326): A READY or GO wave record of a permute is received and forwarded. -/
  | collWave (n : Nat) (rec : List Byte)
  /-- COLL_KICK (R317): A kick message reaches a collective engine and is counted or discarded. -/
  | collKick (c : Nat) (src : Nat) (tag : Nat) (payload : List Byte)
  /-- COLL_RUN_START (R318): A fully kicked entry starts on a free channel after its entry checks. -/
  | collRunStart (c : Nat) (e : Nat)
  /-- PERMUTE_COPY_DONE (R326): A rank's outgoing tiles are in scratch and READY is sent or forwarded. -/
  | permuteCopyDone (c : Nat) (ch : Nat)
  /-- COLL_RUN_DONE (R319): A rank's part of a run completes or fails and completion messages are sent. -/
  | collRunDone (c : Nat) (ch : Nat)
  /-- PROOF_ORDER_WARM (R338): Write of ORDER with GO orders a warm proof for a boundary, or an immediate cut when
    stopped. -/
  | proofOrderWarm (p : Nat) (w : Word)
  /-- PROOF_ORDER_COLD (R339): Write of ORDER with GO and COLD orders a cold proof, checking quiescence for an
    immediate cut. -/
  | proofOrderCold (p : Nat) (w : Word)
  /-- PROOF_CANCEL (R340): Write of CANCEL withdraws a pending order or fails a generation in COPY or SIGN. -/
  | proofCancel (p : Nat) (w : Word)
  /-- QUIESCE_DONE (R344): Quiesce completes and the HBM controllers are armed for copy-on-write. -/
  | quiesceDone (p : Nat)
  /-- QUIESCE_TIMEOUT (R344): Quiesce does not complete within QUIESCE_LIMIT and the proof fails with 0x0B04. -/
  | quiesceTimeout (p : Nat)
  /-- CAPTURE_DONE (R346): Save images and records are written, movers are released and CUT is raised. -/
  | captureDone (p : Nat)
  /-- SHADOW_COPY_DONE (R350): A held write to a PENDING page proceeds once its page is copied into a shadow slot. -/
  | shadowCopyDone (st : Nat) (page : Nat)
  /-- COPY_DONE (R358): Every frame of a generation is written and the manifest is written for signing. -/
  | copyDone (p : Nat)
  /-- MANIFEST_SIGNED (R360): The security processor signs the manifest and the generation becomes COMPLETE. -/
  | manifestSigned (p : Nat) (sig : List Byte)
  /-- PROOF_DRAIN_START (R361): A COMPLETE generation begins draining to storage as PROOF_DATA messages. -/
  | proofDrainStart
  /-- PROOF_DRAIN_DONE (R361): A drain sends its last frame and the generation is marked DRAINED and unpinned. -/
  | proofDrainDone
  /-- DRAIN_ACK_TIMEOUT (R362): A drain whose acknowledgements stop for 1 s stops with 0x0B0D. -/
  | drainAckTimeout
  /-- GEN_PIN (R371): GEN_CTL PIN pins the selected generation. -/
  | genPin (w : Word)
  /-- GEN_UNPIN (R371): GEN_CTL UNPIN unpins the selected generation. -/
  | genUnpin (w : Word)
  /-- GEN_DELETE (R371): GEN_CTL DELETE deletes the selected generation unless pinned or in use. -/
  | genDelete (w : Word)
  /-- DRAIN_NOW (R371): GEN_CTL DRAIN_NOW requests a drain of the selected generation. -/
  | drainNow (w : Word)
  /-- RESTORE_LOAD (R366): RESTORE in MODE 0 loads a generation of the same shape back into the partition. -/
  | restoreLoad (p : Nat) (w : Word)
  /-- RESTORE_RELOCATE (R367): RESTORE in MODE 1 writes a cold generation's pages as the load map names them. -/
  | restoreRelocate (p : Nat) (w : Word)
  /-- RESTORE_IMPORT (R368): RESTORE in MODE 2 receives a generation from the host into reserve frames. -/
  | restoreImport (p : Nat) (w : Word)
  /-- RESTORE_DONE (R366): A restore completes, sets the IMPR start registers and raises RESTORED. -/
  | restoreDone (p : Nat)
  /-- ETH_FRAME_RECEIVE (R376): An Ethernet frame is accepted or discarded, MACsec is checked and ARP, neighbour and
    echo are answered. -/
  | ethFrameReceive (frame : List Byte)
  /-- MACSEC_OLD_AN_EXPIRY (R377): One second after a new association number the old one is no longer accepted. -/
  | macsecOldAnExpiry
  /-- REG_RD (R382): A Railjor register read request returns COUNT words. -/
  | regRd (msg : List Byte)
  /-- REG_WR (R382): A Railjor register write request writes its words whole after permit checks. -/
  | regWr (msg : List Byte)
  /-- DMA_WR (R383): A Railjor memory write message writes its data and the transaction responds once all bytes are
    visible. -/
  | dmaWr (msg : List Byte)
  /-- DMA_RD (R383): A Railjor memory read request returns its data in ordered response messages. -/
  | dmaRd (msg : List Byte)
  /-- CMD_SUBMIT (R385): A Railjor submission appends ring entries and advances TAIL. -/
  | cmdSubmit (msg : List Byte)
  /-- PROOF_DATA (R388): A PROOF_DATA message delivers generation bytes to an import. -/
  | proofData (msg : List Byte)
  /-- ACK (R390): A Railjor ACK from the peer acknowledges messages and may trigger fast retransmission. -/
  | ack (msg : List Byte)
  /-- OPEN_REQ (R394): A handshake OPEN_REQ is verified and answered with a CHALLENGE or refused. -/
  | openReq (msg : List Byte)
  /-- OPEN_FIN (R394): A handshake OPEN_FIN is verified and the session opens bound to its partition. -/
  | openFin (msg : List Byte)
  /-- HANDSHAKE_REASSEMBLY_TIMEOUT (R394): A handshake incomplete for 1 s is discarded. -/
  | handshakeReassemblyTimeout (h : Nat)
  /-- ACK_DELAY_EXPIRY (R390): ACK_DELAY after accepting a sequenced message the device sends an ACK. -/
  | ackDelayExpiry (slot : Nat)
  /-- ACK_IDLE_REPEAT (R390): Every 100 ms while idle the device repeats its ACK. -/
  | ackIdleRepeat (slot : Nat)
  /-- RETRANSMIT_TIMEOUT (R391): A message unacknowledged for RTO is retransmitted and the congestion window resets. -/
  | retransmitTimeout (slot : Nat)
  /-- SESSION_TIMEOUT (R392): A session with no valid message for TIMEOUT closes with 0x0C0D. -/
  | sessionTimeout (slot : Nat)
  /-- SESSION_CLOSE (R392): Write of CLOSE closes the session and frees its slot. -/
  | sessionClose (w : Word)
  /-- EVENT_SEND (R387): Pending event records are sent as an EVENT message when the session window allows. -/
  | eventSend (slot : Nat)
  /-- PARTITION_CLAIM (R395): CLAIM with GO claims dies for a partition under the layout rules and starts zeroing. -/
  | partitionClaim (p : Nat) (w : Word)
  /-- PARTITION_RELEASE (R395): RELEASE returns the partition's cores to reset and its dies to unclaimed. -/
  | partitionRelease (p : Nat) (w : Word)
  /-- MAINT_WRITE (R439): Write of MAINT enters or leaves maintenance mode when the partition is stopped. -/
  | maintWrite (p : Nat) (w : Word)
  /-- POINT_RAMP_DONE (R404): A rising core rail reaches the new voltage and the die switches to the faster frequency.
    -/
  | pointRampDone (c : Nat)
  /-- ENERGY_OVER_BUDGET (R411): A partition's metered energy passes Eb and every die steps down one point. -/
  | energyOverBudget (p : Nat)
  /-- ENERGY_STEPDOWN_REPEAT (R411): Every 20 microseconds while energy keeps growing the dies step down again. -/
  | energyStepdownRepeat (p : Nat)
  /-- PIN_SAMPLE (R412): Every 10 microseconds the averaged input power is compared with LIMIT. -/
  | pinSample (watts : Nat)
  /-- POWER_CAP_STEPDOWN (R412): Every 20 microseconds while PIN exceeds LIMIT one die steps down. -/
  | powerCapStepdown
  /-- CLOCK_GATE_ENGAGE (R412): After 1 ms above LIMIT with every die at SLOW the CORE_c clocks are gated. -/
  | clockGateEngage
  /-- CLOCK_GATE_RELEASE (R412): After 1 ms at or below 95 percent of LIMIT gating ends. -/
  | clockGateRelease
  /-- VIN_ALERT (R401): The input voltage crosses 41.0 V or 49.0 V and VIN_LOW or VIN_HIGH changes. -/
  | vinAlert (mv : Nat)
  /-- THERMAL_WARN (R415): A die or stack sensor reaches its warning threshold, capping the die and setting
    THERM_WARN. -/
  | thermalWarn (sensor : Nat) (temp : Int)
  /-- THERMAL_HOT (R415): A die or stack sensor reaches its hot threshold and the die steps toward index 3 at once. -/
  | thermalHot (sensor : Nat) (temp : Int)
  /-- THERMAL_HOT_STEPDOWN (R415): Every 20 microseconds a hot die steps down one further point until capped. -/
  | thermalHotStepdown (c : Nat)
  /-- THERMAL_TRIP (R418): A sensor reaches the trip threshold and hardware drives THERM_TRIP_N and removes every
    rail. -/
  | thermalTrip (sensor : Nat) (temp : Int)
  /-- RAIL_FAULT (R422): A rail or DIMM power leaves regulation, setting 0x0D06 and starting a warm reset. -/
  | railFault
  /-- VIN_APPLY (R405): 44 V is applied and the module enters STANDBY. -/
  | vinApply (mv : Nat)
  /-- VIN_REMOVE (R405): 44 V is removed and all state is lost. -/
  | vinRemove
  /-- PWR_EN_ASSERT (R423): PWR_EN is asserted and BOOT begins with the power-on sequence. -/
  | pwrEnAssert
  /-- BOOT_DELAY_EXPIRY (R492): BOOT begins 5 ms after VIN reached 40 V when PWR_EN asserted early. -/
  | bootDelayExpiry
  /-- PWR_EN_DEASSERT (R495): PWR_EN is deasserted, leading to a cold reset after 10 ms or release of a trip. -/
  | pwrEnDeassert (ns : Nat)
  /-- FIRMWARE_VERIFIED (R428): The boot ROM finishes verifying a firmware slot, extends measurements or enters
    recovery. -/
  | firmwareVerified (slot : Nat)
  /-- MEMORY_TRAINING_DONE (R426): HBM and DDR5 training complete, the generation table is built and the module enters
    READY. -/
  | memoryTrainingDone (failing : Nat) (dimms : List Nat) (bad : Nat)
  /-- BOOT_TIMEOUT (R426): READY is not reached within 3 s, FAULT_N is asserted and 0x0E0B set. -/
  | bootTimeout
  /-- D2D_RETRAIN (R484): A die-to-die port leaves ACTIVE and retrains, holding its flits. -/
  | d2dRetrain (c : Nat) (port : Nat)
  /-- D2D_RETRAIN_TIMEOUT (R484): A die-to-die port not ACTIVE within 1 ms marks its dies unusable and asserts
    FAULT_N. -/
  | d2dRetrainTimeout (c : Nat) (port : Nat)
  /-- WATCHDOG_EXPIRY (R423): The management watchdog expires and a warm reset begins with 0x0E0A. -/
  | watchdogExpiry
  /-- DDR_SELF_REFRESH_ENTERED (R432): During a warm reset the DDR5 writes in flight complete and each channel enters
    self-refresh. -/
  | ddrSelfRefreshEntered
  /-- WARM_RESET_RAILS_OFF (R432): At W plus 60 microseconds every rail except the DIMM rails switches off. -/
  | warmResetRailsOff
  /-- WARM_RESET_RESTART (R432): At W plus 10 ms the rails restart and the boot sequence runs again. -/
  | warmResetRestart
  /-- BMB_READ (R497): Bus READ returns one word of a hub page. -/
  | bmbRead (page : Nat) (off : Nat)
  /-- BMB_WRITE (R497): Bus WRITE writes one word of the Ethernet, MACsec or LIMIT registers. -/
  | bmbWrite (page : Nat) (off : Nat) (w : Word)
  /-- BMB_WARM_RESET (R425): Bus WARM_RESET starts a warm reset, also while frozen. -/
  | bmbWarmReset
  /-- RECOVERY_LOAD (R429): In recovery the boot ROM takes 256 bytes of an image at an offset. -/
  | recoveryLoad (off : Nat) (bytes : List Byte)
  /-- RECOVERY_GO (R429): In recovery the loaded image is verified and run. -/
  | recoveryGo
  /-- TRUST_WRITE (R393): Bus TRUST_WRITE writes one trust slot and extends a type 5 measurement. -/
  | trustWrite (slot : Nat) (image : List Byte)
  /-- DEBUG_OPEN (R438): Bus DEBUG_OPEN opens the debug port until reset and extends a type 6 measurement. -/
  | debugOpen
  /-- FLASH_WRITE (R497): Bus FLASH_WRITE writes 256 bytes of the non-running slot or the boot record. -/
  | flashWrite (target : Nat) (off : Nat) (bytes : List Byte)
  /-- SVN_COMMIT (R430): Bus SVN_COMMIT raises the fused SVN to the running image's SVN. -/
  | svnCommit
  /-- SEC_RESET_WRITE (R440): A keyed write of SEC.RESET from a permitted session starts a warm reset. -/
  | secResetWrite (w : Word)
  /-- ATTEST_GO (R437): Write of ATT_CTL GO forms an attestation report from the log and chain for signing. -/
  | attestGo (w : Word)
  /-- ATTEST_SIGNED (R437): The report signature completes, GO falls and ATTESTED is raised. -/
  | attestSigned (sig : List Byte)
  /-- FREEZE (R453): A falling FREEZE_N is recognised and every domain stops around the freeze instant. -/
  | freeze
  /-- FREEZE_REFRESH_KEEPER (R455): One microsecond after the freeze instant DDR5 enters self-refresh and FAULT_N is
    driven low. -/
  | freezeRefreshKeeper
  /-- EXTEST (R457): Debug-port instruction selecting boundary scan drive of the covered pins. -/
  | extest (bits : List Byte)
  /-- SAMPLE_PRELOAD (R457): Debug-port instruction sampling or preloading the boundary-scan cells. -/
  | samplePreload (bits : List Byte)
  /-- DBG_ADDR (R457): Debug-port instruction loading the address and direction of a debug access. -/
  | dbgAddr (addr : DWord)
  /-- DBG_DATA (R458): Debug-port access to a register or SRAM window performed at Update-DR. -/
  | dbgData (w : Word)
  /-- DUMP_CTL (R459): Debug-port GO of a dump of one page or all pages over the dump lanes while frozen. -/
  | dumpCtl (w : Word)
  /-- DUMP_DONE (R459): A dump sends its trailer and DUMP_BYTES is updated. -/
  | dumpDone
  /-- BYPASS (R457): Debug-port instruction selecting the one-bit bypass register. -/
  | bypass
  /-- ERR_CLR (R448): A write to ERR_CLR clears a page's error code and information fields. -/
  | errClr (page : Nat) (w : Word)
  /-- EVT_FLAG_CLEAR (R475): A write of 1 to EVT_FLAG clears the flag and raw bit of an event. -/
  | evtFlagClear (page : Nat) (w : Word)
  /-- EVT_FORCE (R475): A write of 1 to EVT_FORCE raises an event as hardware would. -/
  | evtForce (page : Nat) (w : Word)
  /-- SOFT_RESET (R473): A write of SOFT_RESET resets the page's block as its table gives, or is refused. -/
  | softReset (page : Nat) (w : Word)
  /-- ENABLE (R472): A write of CTRL.ENABLE stops or resumes the starting of work on an honouring page. -/
  | enable (page : Nat) (w : Word)
  /-- REGISTER_WRITE (R7): A write to any register without a row of its own, under its access type and chapter checks.
    -/
  | registerWrite (page : Nat) (off : Nat) (w : Word)
  /-- COPIER_PAGE_WRITTEN (R351): The proof copier finishes writing one page to its DDR5 frame: the page goes DONE, a
    shadow slot may be freed for a waiting write, and a copy error fails the generation. -/
  | copierPageWritten (st : Nat) (page : Nat)
  /-- ETH_LINK_CHANGE (R375): The Ethernet port finishes training or loses its link, changing LINK_UP and raising
    LINK_CHANGE. -/
  | ethLinkChange (up : Bool)
  /-- HUB_RAILS_IN_REGULATION (R434): The hub rails reach regulation at 3 ms after BOOT begins: the time base starts
    counting, the boot ROM starts, the fuses are read and locked, and the identity key is derived. -/
  | hubRailsInRegulation
  /-- DIE_RAILS_IN_REGULATION (R433): The compute-die and memory rails reach regulation about 8 ms into BOOT, PWR_GOOD
    is released and die-to-die training begins. -/
  | dieRailsInRegulation
  /-- D2D_TRAINING_DONE (R484): Start-up training of a die-to-die or hub port completes, and a port that failed sets
    0x0A80 and marks its dies unusable. -/
  | d2dTrainingDone (c : Nat) (port : Nat) (ok : Bool)
  /-- HANDSHAKE_SIGNATURE_DONE (R436): The security processor finishes signing a session CHALLENGE, and the device
    sends it or, if signing fails, refuses with 0x0C0B. -/
  | handshakeSignatureDone (h : Nat) (sig : List Byte)
  deriving DecidableEq, Repr

end Sys2Proof
end

