-- ==== Sys2Proof/Decode.lean ====
section
/-!
DEFINITION. Sys2Proof/Decode.lean: commands as words of the table. The table gives no row of this block any bits: a command
is an event with operands, so no word spells one.
-/
namespace Sys2Proof

/-- The command that a table word spells: none, for every word. DESIGN CHOICE, log entry 3. -/
def decodeTableWord (_nbits _w : Nat) : Option Instr := none

end Sys2Proof
end

