-- ==== Sys2Proof/Machine/Bits.lean ====
section
/-!
DEFINITION. Sys2Proof/Machine/Bits.lean: bit fields, sign extension and little-endian byte order, decided once.
-/
namespace Sys2Proof.Machine

/-- Bits [hi:lo] of a natural number, as the register maps write a field. -/
def bits (n hi lo : Nat) : Nat := (n >>> lo) % 2 ^ (hi + 1 - lo)

/-- Bit b of a natural number. -/
def bit (n b : Nat) : Bool := (n >>> b) % 2 == 1

/-- A Bool as the bit it is. -/
def b2n (b : Bool) : Nat := if b then 1 else 0

/-- A field of `w` bits read as two's complement. -/
def signed (w n : Nat) : Int := if n % 2 ^ w < 2 ^ (w - 1) then (n % 2 ^ w : Nat) else (n % 2 ^ w : Nat) - (2 ^ w : Nat)

/-- The two's complement image of an integer in `w` bits. -/
def unsigned (w : Nat) (i : Int) : Nat := (i % (2 ^ w : Nat)).toNat

/-- `n` saturated at `2 ^ w - 1`: a counter that holds its largest value (R480). -/
def sat (w n : Nat) : Nat := min n (2 ^ w - 1)

/-- Little-endian bytes to a number. -/
def leNat : List Byte → Nat
  | [] => 0
  | b :: bs => b.toNat + 256 * leNat bs

/-- The `n` low bytes of a number, little-endian. -/
def natLe : Nat → Nat → List Byte
  | 0, _ => []
  | n + 1, x => BitVec.ofNat 8 x :: natLe n (x / 256)

/-- Big-endian bytes to a number. -/
def beNat (bs : List Byte) : Nat := leNat bs.reverse

/-- The `n` low bytes of a number, big-endian. -/
def natBe (n x : Nat) : List Byte := (natLe n x).reverse

/-- The `n`-byte little-endian field at offset `off` of a byte list; bytes past the end read 0. -/
def field (bs : List Byte) (off n : Nat) : Nat := leNat ((bs.drop off).take n)

/-- The `n`-byte big-endian field at offset `off`. -/
def fieldBe (bs : List Byte) (off n : Nat) : Nat := beNat ((bs.drop off).take n)

/-- A byte list cut or zero-filled to exactly `n` bytes. -/
def padTo (n : Nat) (bs : List Byte) : List Byte := (bs ++ List.replicate (n - bs.length) 0#8).take n

/-- `bs` with the bytes from `off` on replaced by `x` (which must end inside `bs` to keep its length). -/
def splice (bs : List Byte) (off : Nat) (x : List Byte) : List Byte :=
  bs.take off ++ x ++ bs.drop (off + x.length)

/-- The list cut into pieces of `n` (`n` pieces at most `k`). -/
def chunks {α : Type} (n : Nat) : Nat → List α → List (List α)
  | 0, _ => []
  | k + 1, xs => xs.take n :: chunks n k (xs.drop n)

/-- `k` successive words of `n` bytes each. -/
def wordsOf (n k : Nat) (bs : List Byte) : List Nat := (chunks n k bs).map leNat

/-- Set bits of a number among its low `w`. -/
def popcount : Nat → Nat → Nat
  | 0, _ => 0
  | w + 1, n => n % 2 + popcount w (n / 2)

/-- The indices below `w` whose bit is set, rising. -/
def setBits (w n : Nat) : List Nat := (List.range w).filter (bit n ·)

/-- Bits of `old` under `mask` replaced by those of `new`. -/
def mergeMask (mask old new : Nat) : Nat := (old &&& (mask ^^^ (mask ||| old))) ||| (new &&& mask)

/-- Element `i` of a list of numbers, 0 past its end. -/
def nth (xs : List Nat) (i : Nat) : Nat := xs.getD i 0

/-- Element `i` of a list replaced; the list is unchanged past its end. -/
def setNth {α : Type} (xs : List α) (i : Nat) (x : α) : List α := xs.set i x

end Sys2Proof.Machine
end

