-- ==== Sys2Proof/Machine/RegReset.lean ====
section
/-!
DEFINITION. Sys2Proof/Machine/RegReset.lean: page indices (Tables 17-1 to 17-3) and the reset values the register maps
give; every other register resets to 0 (R480).
-/
namespace Sys2Proof.Machine

/-- Hub pages (Table 17-1). -/
def pgHubId : Nat := 0x0000
def pgTime : Nat := 0x0001
def pgImpr : Nat := 0x0002
def pgGov : Nat := 0x0003
def pgPwr : Nat := 0x0004
def pgDdr (n : Nat) : Nat := 0x0008 + n
def pgProof : Nat := 0x0020
def pgEth : Nat := 0x0028
def pgRailjor : Nat := 0x0029
def pgStream : Nat := 0x002A
def pgSec : Nat := 0x0030
def pgDbg : Nat := 0x0038
def pgPart : Nat := 0x0040

/-- Pages of compute die c (Table 17-2). -/
def pgDie (c : Nat) : Nat := 0x0100 + 0x40 * c
def pgMesh (c : Nat) : Nat := pgDie c + 1
/-- Controller and Platen pages of stack st. -/
def pgHbmc (st : Nat) : Nat := pgDie (st / 2) + 2 + st % 2
def pgPlaten (st : Nat) : Nat := pgDie (st / 2) + 4 + st % 2
def pgDma (c e : Nat) : Nat := pgDie c + 8 + e
/-- Page of link n (Table 1-5). -/
def pgLink (n : Nat) : Nat := pgDie (n / 9) + 24 + n % 9
def pgColl (c : Nat) : Nat := pgDie c + 0x21
def pgD2d (c : Nat) : Nat := pgDie c + 0x22

/-- The i-th page of core k (R468). -/
def pgOfCore (k i : Nat) : Nat := 0x20000 + 8 * k + i
def pgCore (k : Nat) : Nat := pgOfCore k 0
def pgFwd (k : Nat) : Nat := pgOfCore k 1
def pgBwd (k : Nat) : Nat := pgOfCore k 2
def pgRow (k : Nat) : Nat := pgOfCore k 3
def pgGauge (k : Nat) : Nat := pgOfCore k 4
def pgGalley (k : Nat) : Nat := pgOfCore k 5
def pgLane (k : Nat) : Nat := pgOfCore k 6
def pgCnt (k : Nat) : Nat := pgOfCore k 7

/-- What kind of page an index is: its block type code (Tables 17-1 to 17-3), 0 for a reserved index. -/
def pageType (i : Nat) : Nat :=
  if 0x20000 ≤ i ∧ i < 0x22400 then 0x20 + i % 8
  else if 0x100 ≤ i ∧ i < 0x200 then
    let o := i % 0x40
    if o = 0 then 0x10 else if o = 1 then 0x11 else if o ≤ 3 then 0x12 else if o ≤ 5 then 0x13
    else if 8 ≤ o ∧ o < 0x18 then 0x14 else if 0x18 ≤ o ∧ o ≤ 0x20 then 0x15
    else if o = 0x21 then 0x16 else if o = 0x22 then 0x17 else 0
  else if 8 ≤ i ∧ i ≤ 0x13 then 6
  else match i with
    | 0 => 1 | 1 => 2 | 2 => 3 | 3 => 4 | 4 => 5 | 0x20 => 7 | 0x28 => 8 | 0x29 => 9 | 0x2A => 10
    | 0x30 => 11 | 0x38 => 12 | 0x40 => 13
    | _ => 0

/-- The instance of a page (Tables 17-1 to 17-3). -/
def pageInstance (i : Nat) : Nat :=
  match pageType i with
  | 0x10 | 0x11 | 0x16 | 0x17 => (i - 0x100) / 0x40
  | 0x12 | 0x13 => 2 * ((i - 0x100) / 0x40) + i % 2
  | 0x14 => 16 * ((i - 0x100) / 0x40) + i % 0x40 - 8
  | 0x15 => 9 * ((i - 0x100) / 0x40) + i % 0x40 - 24
  | 6 => i - 8
  | t => if 0x20 ≤ t then (i - 0x20000) / 8 else 0

/-- The word a register holds after reset, where its map gives a value (R480). DESIGN CHOICE, log entry 5. -/
def resetWord (page off : Nat) : Nat :=
  match pageType page with
  | 3 => -- IMPR sets (Table 2-3)
    if off < 0x100 then 0
    else match (off - 0x100) % 0x80 with
      | 0x04 => 1000000
      | 0x08 => 2000
      | 0x0C => 0x24
      | 0x10 => 1
      | 0x1C => 1
      | _ => 0
  | 4 => -- GOV (Table 14-6)
    if off = 0x104 then 240
    else if 0x140 ≤ off ∧ off < 0x1C0 then (if (off - 0x140) % 0x20 = 0x14 then 0x30 else 0)
    else if 0x200 ≤ off ∧ off < 0x300 then
      (match (off - 0x200) % 0x40 with | 0 => 0xFFFFFFFF | 8 => 0x401 | _ => 0)
    else 0
  | 5 => -- PWR (Table 14-7)
    if off = 0x110 then 2400 else if off = 0x120 then 380 else if off = 0x124 then 420 else 0
  | 7 => -- PROOF partition sets (Table 12-15)
    if off < 0x200 then 0
    else (match (off - 0x200) % 0x100 with | 0x14 => 100 | 0x18 => 4 | _ => 0)
  | 10 => -- STREAM: COUNT, and BASE of each slot (Table 13-9), kept by slot
    if 0x820 ≤ off ∧ off < 0x840 then 32768 * ((off - 0x820) / 4) else if 0x840 ≤ off ∧ off < 0x860 then 32768 else 0
  | 0x15 => if off = 0x104 then 10 else 0 -- LINK (Table 11-11)
  | 8 => if off = 0x114 then 9216 else if off = 0x11C then 18515 else 0
  | 9 =>
    if off = 0x104 then 1024 else if off = 0x108 then 50 else if off = 0x10C then 10000
    else if off = 0x110 then 2000 else if off = 0x114 then 1000 else 0
  | _ => 0

end Sys2Proof.Machine
end

