-- ==== Sys2Proof/Config.lean ====
section
/-!
DEFINITION. Sys2Proof/Config.lean: what the spec leaves open. Each constant is opaque and has no body, so no proof can
see its value and a claim holds whatever it is. Each is named in the assumption log.
-/
namespace Sys2Proof

/-- Free value n of the run: a value the spec does not state and the machine goes on with. `Machine.State.freeCount`
numbers them. DESIGN CHOICE, log entry 6. -/
opaque Config.freeValue : Nat → BitVec 64

/-- FP32 quotient where the divisor is zero: R153 states only the value nearest a true result. DESIGN CHOICE, log entry 11. -/
opaque Config.divUnstated : F32 → F32 → F32

/-- FP32 square root of a negative value: R153 states only the value nearest a true result. DESIGN CHOICE, log entry 11. -/
opaque Config.sqrtUnstated : F32 → F32

/-- FP32 natural logarithm of zero or of a negative value: R153 states only the value nearest a true result.
DESIGN CHOICE, log entry 11. -/
opaque Config.lnUnstated : F32 → F32

/-- What one element adds to the row sum behind the deviation of a row (Table 6-4): the spec states no formula for it.
Arguments: RMS mode, mean, the element. DESIGN CHOICE, log entry 12. -/
opaque Config.normTerm : Bool → F32 → F32 → F32

/-- Reciprocal deviation r of a row (Table 6-4): the spec names it and states no order of operations for it.
Arguments: RMS mode, ε, the row sum of the elements' terms, the row length. DESIGN CHOICE, log entry 12. -/
opaque Config.normRecip : Bool → F32 → F32 → Nat → F32

/-- One normalised output element: x, μ, r, γ, β. The spec states no order of operations for it.
DESIGN CHOICE, log entry 12. -/
opaque Config.normOut : F32 → F32 → F32 → F32 → F32 → F32

/-- Activation functions 2 to 5 of Table 8-8 (GELU tanh form, SiLU, sigmoid, tanh): no rounding order is stated.
DESIGN CHOICE, log entry 12. -/
opaque Config.actValue : Nat → F32 → F32

/-- Derivative of an activation function where the spec states no value: functions 2 to 5, and ReLU at zero.
DESIGN CHOICE, log entry 12. -/
opaque Config.actDeriv : Nat → F32 → F32

/-- γ of a column in the apply prologue of a FUSED command: Table 8-8 names no field that holds it there.
DESIGN CHOICE, log entry 13. -/
opaque Config.applyGamma : Nat → F32

/-- ε of a FUSED norm epilogue: the matrix body and the extension block name no field for it. DESIGN CHOICE, log entry 13. -/
opaque Config.fusedEps : F32

/-- A quotient that a register holds as a whole number where it is not one (E_ADMIT, R409): no rounding is stated.
DESIGN CHOICE, log entry 14. -/
opaque Config.roundDiv : Nat → Nat → Nat

/-- Half of an odd number of nanoseconds, where a register holds whole ones (R310, R311): no rounding is stated.
DESIGN CHOICE, log entry 14. -/
opaque Config.roundHalf : Int → Int

/-- Whether square-and-multiply of R278 takes the exponent's bits from the highest: its order is not stated.
DESIGN CHOICE, log entry 15. -/
opaque Config.powHighFirst : Bool

/-- SHAKE256 with `n` output bytes (FIPS 202): named by the spec and not written out in it. DESIGN CHOICE, log entry 7. -/
opaque Config.shake256 : List Byte → Nat → List Byte

/-- ML-DSA-65 verification (FIPS 204): public key, message, context, signature. DESIGN CHOICE, log entry 7. -/
opaque Config.mldsa65Verify : List Byte → List Byte → List Byte → List Byte → Bool

/-- The device's identity key: its public half, and the certificate that chains to Kereapor (R434).
DESIGN CHOICE, log entry 7. -/
opaque Config.identityKey : List Byte
opaque Config.identityCert : List Byte

/-- A public key whose certificate, named by its digest, chains to the Kereapor root (R365): no rule says where a
reader finds that certificate. DESIGN CHOICE, log entry 7. -/
opaque Config.keyChains : List Byte → List Byte → Bool

/-- The two firmware-key digests held in the boot ROM (R428). DESIGN CHOICE, log entry 7. -/
opaque Config.fwKeyDigest : Nat → List Byte

/-- Boot ROM: revision and digest (Table 15-4). DESIGN CHOICE, log entry 7. -/
opaque Config.romRevision : Nat
opaque Config.romDigest : List Byte

/-- The fuse image as SHAKE256 takes it (Table 15-4): fused SVN and revocation fuses, with the fuses no rule lays out.
DESIGN CHOICE, log entry 7. -/
opaque Config.fuseImage : Nat → Nat → List Byte

/-- Bytes of the flash as manufactured: target (slot 0 or 1, or 2 for the boot record) and offset.
DESIGN CHOICE, log entry 7. -/
opaque Config.flashByte : Nat → Nat → Byte

/-- The slot a boot record names as preferred (Chapter 15): no rule gives the record's layout. True for slot B.
DESIGN CHOICE, log entry 75. -/
opaque Config.preferB : List Byte → Bool

/-- What a sensor the model does not follow reads, and what a metered counter counts in one cycle: key, and the free values
used so far.
DESIGN CHOICE, log entry 10. -/
opaque Config.metered : Nat → Nat → Word

/-- The MAC address of the Ethernet port, fixed at manufacture (R376). DESIGN CHOICE, log entry 7. -/
opaque Config.macAddress : BitVec 48

/-- The entropy source of the security processor (R436): the n-th 64 bytes drawn. DESIGN CHOICE, log entry 7. -/
opaque Config.entropy : Nat → List Byte

/-- AES-GCM opening of a MACsec frame (IEEE 802.1AE): key material, frame; none when the tag fails.
DESIGN CHOICE, log entry 7. -/
opaque Config.macsecOpen : List Byte → List Byte → Option (List Byte)

end Sys2Proof
end

