-- ==== Sys2Proof/Machine/Float.lean ====
section
/-!
DEFINITION. Sys2Proof/Machine/Float.lean: IEEE 754 arithmetic in FP32, FP64, BF16 and FP16 (Table 3-1, R57), every result
formed exactly and rounded once, and the position of an exact value on a format's grid of code magnitudes (R175).
-/
namespace Sys2Proof.Machine

/-- An unpacked value: NaN, an infinity, or (−1)^neg × m × 2^e. -/
inductive Fl
  | nan
  | inf (neg : Bool)
  | fin (neg : Bool) (m : Nat) (e : Int)
  deriving DecidableEq, Repr

/-- An IEEE interchange format: precision with the hidden bit, exponent of the smallest subnormal, exponent bits. -/
structure FpFmt where
  prec : Nat
  emin : Int
  ebits : Nat
  deriving DecidableEq, Repr

/-- FP32 (Table 3-1, code 0xA). -/
def fp32 : FpFmt := ⟨24, -149, 8⟩
/-- FP64, used by the norm taps (R165). -/
def fp64 : FpFmt := ⟨53, -1074, 11⟩
/-- BF16 (Table 3-1, code 0x8). -/
def bf16 : FpFmt := ⟨8, -133, 8⟩
/-- FP16 (Table 3-1, code 0x9). -/
def fp16 : FpFmt := ⟨11, -24, 5⟩

/-- The magnitude code of infinity. -/
def FpFmt.infCode (f : FpFmt) : Nat := (2 ^ f.ebits - 1) <<< (f.prec - 1)

/-- The canonical positive quiet NaN (R57). -/
def FpFmt.nanCode (f : FpFmt) : Nat := f.infCode + 2 ^ (f.prec - 2)

/-- The weight of the sign bit. -/
def FpFmt.signBit (f : FpFmt) : Nat := 2 ^ (f.ebits + f.prec - 1)

/-- Unpack a code. -/
def fpDecode (f : FpFmt) (c : Nat) : Fl :=
  let neg := f.signBit ≤ c % (2 * f.signBit)
  let mag := c % f.signBit
  let ex := mag >>> (f.prec - 1)
  let fr := mag % 2 ^ (f.prec - 1)
  if f.infCode < mag then .nan
  else if mag = f.infCode then .inf neg
  else if ex = 0 then .fin neg fr f.emin
  else .fin neg (fr + 2 ^ (f.prec - 1)) (f.emin + ex - 1)

/-- Where a magnitude stands on a grid of codes: the largest code not above it, and the fraction rem/den of the step
to the next (R175: lo and ρ). -/
structure GridPos where
  idx : Nat
  rem : Nat
  den : Nat
  deriving DecidableEq, Repr

/-- ⌊log₂ (num/den × 2^e)⌋ for positive num and den. -/
def floorLog2 (num den : Nat) (e : Int) : Int :=
  let l : Int := (num.log2 : Int) - den.log2
  let below := if 0 ≤ l then decide (num < den <<< l.toNat) else decide (num <<< (-l).toNat < den)
  (if below then l - 1 else l) + e

/-- The position of num/den × 2^e on the grid of `prec`-bit significands whose smallest step is 2^emin. -/
def gridPos (prec : Nat) (emin : Int) (num den : Nat) (e : Int) : GridPos :=
  if num = 0 then ⟨0, 0, 1⟩
  else
    let q := max (floorLog2 num den e - (prec - 1)) emin
    let n := if q ≤ e then num <<< (e - q).toNat else num
    let d := if q ≤ e then den else den <<< (q - e).toNat
    ⟨((q - emin).toNat <<< (prec - 1)) + n / d, n % d, d⟩

/-- Round to nearest, ties to the even code. -/
def GridPos.nearest (g : GridPos) : Nat :=
  if g.den < 2 * g.rem ∨ (2 * g.rem = g.den ∧ g.idx % 2 = 1) then g.idx + 1 else g.idx

/-- Round up to the next code. -/
def GridPos.ceil (g : GridPos) : Nat := if g.rem = 0 then g.idx else g.idx + 1

/-- Round the exact value (−1)^neg × num/den × 2^e to nearest even in `f`; overflow gives infinity. -/
def fpRound (f : FpFmt) (neg : Bool) (num den : Nat) (e : Int) : Nat :=
  (if neg then f.signBit else 0) + min ((gridPos f.prec f.emin num den e).nearest) f.infCode

/-- Pack an unpacked value, rounding to nearest even. -/
def fpEncode (f : FpFmt) : Fl → Nat
  | .nan => f.nanCode
  | .inf neg => (if neg then f.signBit else 0) + f.infCode
  | .fin neg m e => fpRound f neg m 1 e

/-- Exact sum of two unpacked values, with the signs of zero IEEE 754 gives under round to nearest. -/
def flAdd : Fl → Fl → Fl
  | .nan, _ => .nan
  | _, .nan => .nan
  | .inf a, .inf b => if a = b then .inf a else .nan
  | .inf a, _ => .inf a
  | _, .inf b => .inf b
  | .fin a ma ea, .fin b mb eb =>
    let e := min ea eb
    let x : Int := (if a then -1 else 1) * (ma <<< (ea - e).toNat : Nat)
    let y : Int := (if b then -1 else 1) * (mb <<< (eb - e).toNat : Nat)
    let s := x + y
    if s = 0 then .fin (a && b) 0 0 else .fin (decide (s < 0)) s.natAbs e

/-- Exact product of two unpacked values. -/
def flMul : Fl → Fl → Fl
  | .nan, _ => .nan
  | _, .nan => .nan
  | .inf a, .inf b => .inf (a != b)
  | .inf a, .fin b m _ => if m = 0 then .nan else .inf (a != b)
  | .fin a m _, .inf b => if m = 0 then .nan else .inf (a != b)
  | .fin a ma ea, .fin b mb eb => .fin (a != b) (ma * mb) (ea + eb)

/-- The negation of an unpacked value. -/
def flNeg : Fl → Fl
  | .nan => .nan
  | .inf a => .inf (!a)
  | .fin a m e => .fin (!a) m e

/-- Neither an infinity nor a NaN. -/
def Fl.finite : Fl → Bool
  | .fin _ _ _ => true
  | _ => false

/-- x < y as IEEE 754 orders values; false when either is NaN. -/
def flLt (x y : Fl) : Bool :=
  match x, y with
  | .nan, _ => false
  | _, .nan => false
  | .inf a, .inf b => a && !b
  | .inf a, .fin _ _ _ => a
  | .fin _ _ _, .inf b => !b
  | .fin a ma ea, .fin b mb eb =>
    let e := min ea eb
    let x : Int := (if a then -1 else 1) * (ma <<< (ea - e).toNat : Nat)
    let y : Int := (if b then -1 else 1) * (mb <<< (eb - e).toNat : Nat)
    decide (x < y)

/-- Unpack an FP32 word. -/
def f32 (x : F32) : Fl := fpDecode fp32 x.toNat
/-- Pack into an FP32 word, rounding to nearest even. -/
def toF32 (v : Fl) : F32 := BitVec.ofNat 32 (fpEncode fp32 v)
/-- Unpack an FP64 word. -/
def f64 (x : F64) : Fl := fpDecode fp64 x.toNat
/-- Pack into an FP64 word, rounding to nearest even. -/
def toF64 (v : Fl) : F64 := BitVec.ofNat 64 (fpEncode fp64 v)

/-- FP32 addition, RNE. -/
def fadd (x y : F32) : F32 := toF32 (flAdd (f32 x) (f32 y))
/-- FP32 subtraction, RNE. -/
def fsub (x y : F32) : F32 := toF32 (flAdd (f32 x) (flNeg (f32 y)))
/-- FP32 multiplication, RNE. -/
def fmul (x y : F32) : F32 := toF32 (flMul (f32 x) (f32 y))
/-- FP32 fused multiply-add, one rounding (R135). -/
def ffma (x y z : F32) : F32 := toF32 (flAdd (flMul (f32 x) (f32 y)) (f32 z))
/-- FP64 addition of an FP32 value, RNE (R165). -/
def faddD (x : F64) (y : F32) : F64 := toF64 (flAdd (f64 x) (f32 y))
/-- FP32 negation. -/
def fneg (x : F32) : F32 := toF32 (flNeg (f32 x))
/-- x < y. -/
def flt (x y : F32) : Bool := flLt (f32 x) (f32 y)
/-- The value is a NaN or an infinity. -/
def nonFin (x : F32) : Bool := match f32 x with | .fin _ _ _ => false | _ => true
/-- The value is a NaN. -/
def isNan (x : F32) : Bool := match f32 x with | .nan => true | _ => false
/-- The value is +0 or −0. -/
def isZero (x : F32) : Bool := x.toNat % 2 ^ 31 == 0
/-- The value is a subnormal. -/
def isSubnormal (x : F32) : Bool := !isZero x && decide (x.toNat % 2 ^ 31 < 2 ^ 23)
/-- |x| as an FP32 word. -/
def fabs (x : F32) : F32 := BitVec.ofNat 32 (x.toNat % 2 ^ 31)
/-- The larger of two non-negative finite FP32 magnitudes. -/
def maxMag (x y : F32) : F32 := if x.toNat < y.toNat then y else x
/-- An integer as FP32, RNE. -/
def fofNat (n : Nat) : F32 := toF32 (.fin false n 0)
/-- 1.0 -/
def fone : F32 := 0x3F800000#32
/-- −0, the identity of addition (R135). -/
def fnegZero : F32 := 0x80000000#32
/-- Canonical NaN (R57). -/
def fnan : F32 := 0x7FC00000#32
/-- +infinity. -/
def finf : F32 := 0x7F800000#32

/-- FP32 division, the value nearest the true quotient (R153); a zero divisor is left open. DESIGN CHOICE, log entry 11. -/
def fdiv (x y : F32) : F32 :=
  match f32 x, f32 y with
  | .nan, _ => fnan
  | _, .nan => fnan
  | .inf _, .inf _ => fnan
  | .inf a, .fin b _ _ => toF32 (.inf (a != b))
  | .fin a _ _, .inf b => toF32 (.fin (a != b) 0 0)
  | .fin a ma ea, .fin b mb eb =>
    if mb = 0 then Config.divUnstated x y
    else BitVec.ofNat 32 (fpRound fp32 (a != b) ma mb (ea - eb))

/-- ⌊√n⌋ by bits from weight 2^b down. -/
def isqrtAux (n : Nat) : Nat → Nat → Nat
  | 0, r => if (r + 1) * (r + 1) ≤ n then r + 1 else r
  | b + 1, r =>
    let t := r + 2 ^ (b + 1)
    isqrtAux n b (if t * t ≤ n then t else r)

/-- ⌊√n⌋. -/
def isqrt (n : Nat) : Nat := isqrtAux n (n.log2 / 2) 0

/-- FP32 square root, the value nearest the true root (R153); a negative argument is left open.
DESIGN CHOICE, log entry 11. -/
def fsqrt (x : F32) : F32 :=
  match f32 x with
  | .nan => fnan
  | .inf false => finf
  | .inf true => Config.sqrtUnstated x
  | .fin neg m e =>
    if m = 0 then x
    else if neg then Config.sqrtUnstated x
    else
      -- a root to 60 further bits, with a sticky bit, decides the rounding
      let odd := e % 2 != 0
      let m' := (if odd then 2 * m else m) <<< 120
      let e' := (if odd then e - 1 else e) - 120
      let r := isqrt m'
      let sticky := if r * r = m' then 0 else 1
      BitVec.ofNat 32 (fpRound fp32 false (2 * r + sticky) 1 (e' / 2 - 1))

/-- Fraction bits of the fixed-point values behind exp and ln. -/
def fxBits : Nat := 320

/-- Σ z^(2i+1)/(2i+1) over `k` terms, the powers z^(2i+1) from `zp` on. -/
def atanhSum (z2 : Nat) : Nat → Nat → Nat → Nat
  | 0, _, _ => 0
  | k + 1, i, zp => zp / (2 * i + 1) + atanhSum z2 k (i + 1) ((zp * z2) >>> fxBits)

/-- atanh(num/den) in fixed point, for 3 × num ≤ den. -/
def fxAtanh (num den : Nat) : Nat :=
  let z := (num <<< fxBits) / den
  atanhSum ((z * z) >>> fxBits) 110 0 z

/-- ln 2 in fixed point. -/
def fxLn2 : Nat := 2 * fxAtanh 1 3

/-- Σ r^i / i! over `k` terms, `t` the current term. -/
def expSum (r : Nat) : Nat → Nat → Nat → Nat
  | 0, _, _ => 0
  | k + 1, i, t => t + expSum r k (i + 1) ((t * r / (i + 1)) >>> fxBits)

/-- FP32 exponential, the value nearest the true result (R153). -/
def fexp (x : F32) : F32 :=
  match f32 x with
  | .nan => fnan
  | .inf false => finf
  | .inf true => 0#32
  | .fin neg m e =>
    if m = 0 then fone
    else if floorLog2 m 1 e ≥ 8 then (if neg then 0#32 else finf)
    else
      let fx : Nat := if 0 ≤ e + fxBits then m <<< (e + fxBits).toNat else m >>> (-(e + fxBits)).toNat
      let v : Int := if neg then -(fx : Int) else fx
      let k := v / (fxLn2 : Int)
      let r := (v - k * fxLn2).toNat
      -- the sum is exact to some 2^-300; a sticky bit keeps it off the ties no non-zero argument has
      BitVec.ofNat 32 (fpRound fp32 false (2 * expSum r 80 0 (1 <<< fxBits) + 1) 1 (k - fxBits - 1))

/-- FP32 natural logarithm, the value nearest the true result (R153); arguments without one are left open.
DESIGN CHOICE, log entry 11. -/
def fln (x : F32) : F32 :=
  match f32 x with
  | .nan => fnan
  | .inf false => finf
  | .inf true => Config.lnUnstated x
  | .fin neg m e =>
    if m = 0 then Config.lnUnstated x
    else if neg then Config.lnUnstated x
    else
      let l := m.log2
      let v : Int := (e + l) * fxLn2 + 2 * fxAtanh (m - 2 ^ l) (m + 2 ^ l)
      if v = 0 then 0#32
      else BitVec.ofNat 32 (fpRound fp32 (decide (v < 0)) (2 * v.natAbs + 1) 1 (-(fxBits : Int) - 1))

end Sys2Proof.Machine
end

