-- ==== Sys2Proof/Machine/Stipple.lean ====
section
/-!
DEFINITION. Sys2Proof/Machine/Stipple.lean: the lane generators (R181–R185). A state is a number below 2^128.
-/
namespace Sys2Proof.Machine

/-- The multiplier A of R181. -/
def stippleA : Nat := 0xE2F16B3D9A574C2D

/-- The increment C(k) of class k (R181). -/
def stippleC (k : Nat) : Nat := 2 * (k % 256) + 1

/-- One step of the generator (R181). -/
def stippleNext (s k : Nat) : Nat := (stippleA * s + stippleC k) % 2 ^ 128

/-- The 64-bit output (R181): the halves' xor rotated right by the top six bits. -/
def stippleOut (s : Nat) : Nat :=
  let h := s >>> 64
  let v := h ^^^ (s % 2 ^ 64)
  let r := h >>> 58
  ((v >>> r) ||| (v <<< (64 - r))) % 2 ^ 64

/-- The 32-bit draw slot of a state (R181). -/
def stippleSlot (s : Nat) : Nat := stippleOut s >>> 32

/-- The first state for a seed, tag, step number and class (R182). -/
def stippleInit (seed tag step k : Nat) : Nat :=
  stippleNext (seed % 2 ^ 64 * 2 ^ 64 + tag % 2 ^ 32 * 2 ^ 32 + step % 2 ^ 32) k

/-- Jump over the low `n` bits of `d`, with the pair (G_b, H_b) of R185 at the current bit. -/
def stippleJumpAux (k : Nat) : Nat → Nat → Nat → Nat → Nat → Nat
  | 0, _, _, _, s => s
  | n + 1, d, g, h, s =>
    let s' := if d % 2 = 1 then (g * s + h * stippleC k) % 2 ^ 128 else s
    stippleJumpAux k n (d / 2) (g * g % 2 ^ 128) (h * (1 + g) % 2 ^ 128) s'

/-- The state `d` steps on (R185), d below 2^64. -/
def stippleJump (s d k : Nat) : Nat := stippleJumpAux k 64 d stippleA 1 s

/-- The position of logical row r and column c (R183). -/
def drawPos (r c : Nat) : Nat := r % 2 ^ 32 * 2 ^ 32 + c % 2 ^ 32

/-- The draw inputs of R182 but the position. -/
structure DrawKey where
  seed : Nat := 0
  tag : Nat := 0
  step : Nat := 0
  cls : Nat := 0
  deriving DecidableEq, Repr

/-- The state s(e) behind the draw at position e (R182). -/
def DrawKey.stateAt (d : DrawKey) (e : Nat) : Nat := stippleJump (stippleInit d.seed d.tag d.step d.cls) e d.cls

/-- The draw D(e) (R182). DESIGN CHOICE, log entry 84. -/
def DrawKey.draw (d : DrawKey) (e : Nat) : Nat := stippleSlot (d.stateAt e)

end Sys2Proof.Machine
end

