-- ==== Sys2Proof/Machine/Formats.lean ====
section
/-!
DEFINITION. Sys2Proof/Machine/Formats.lean: the element formats, the UE5M3 block scale, expansion, and the stored tile
(03_number_formats.md; R77–R79).
-/
namespace Sys2Proof.Machine

/-- The formats of Table 3-1. -/
inductive Fmt
  | fp4 | ndosa4 | fp6e2m3 | fp6e3m2 | fp8e4m3 | fp8e5m2 | bf16 | fp16 | fp32
  deriving DecidableEq, Repr

/-- The 4-bit format code (R50). -/
def Fmt.code : Fmt → Nat
  | .fp4 => 0 | .ndosa4 => 1 | .fp6e2m3 => 2 | .fp6e3m2 => 3 | .fp8e4m3 => 4 | .fp8e5m2 => 5
  | .bf16 => 8 | .fp16 => 9 | .fp32 => 10

/-- The format of a code; none for a reserved code (R50). -/
def Fmt.ofCode : Nat → Option Fmt
  | 0 => some .fp4 | 1 => some .ndosa4 | 2 => some .fp6e2m3 | 3 => some .fp6e3m2
  | 4 => some .fp8e4m3 | 5 => some .fp8e5m2 | 8 => some .bf16 | 9 => some .fp16 | 10 => some .fp32
  | _ => none

/-- A narrow format: one that carries block scales. -/
def Fmt.narrow : Fmt → Bool
  | .bf16 | .fp16 | .fp32 => false
  | _ => true

/-- FP4 and Ndosa-4 (the four-bit pair). -/
def Fmt.four : Fmt → Bool
  | .fp4 | .ndosa4 => true
  | _ => false

/-- FP8 in either form. -/
def Fmt.eight : Fmt → Bool
  | .fp8e4m3 | .fp8e5m2 => true
  | _ => false

/-- Precision with the hidden bit, exponent of the smallest subnormal, and largest finite magnitude code of a
narrow format (Table 3-1). -/
def Fmt.grid : Fmt → Nat × Int × Nat
  | .fp4 | .ndosa4 => (2, -1, 0x7)
  | .fp6e2m3 => (4, -3, 0x1F)
  | .fp6e3m2 => (3, -4, 0x1F)
  | .fp8e4m3 => (4, -9, 0x7E)
  | .fp8e5m2 => (3, -16, 0x7B)
  | .bf16 => (8, -133, 0x7F7F)
  | .fp16 => (11, -24, 0x7BFF)
  | .fp32 => (24, -149, 0x7F7FFFFF)

/-- The interchange format of a wide format. -/
def Fmt.ieee : Fmt → FpFmt
  | .bf16 => Machine.bf16
  | .fp16 => Machine.fp16
  | _ => Machine.fp32

/-- maxcode as numerator and power of two (Table 5-2): maxcode = m × 2^e. -/
def Fmt.maxcode : Fmt → Nat × Int
  | .fp4 | .ndosa4 => (6, 0)
  | .fp6e2m3 => (15, -1)
  | .fp6e3m2 => (28, 0)
  | .fp8e4m3 => (448, 0)
  | .fp8e5m2 => (57344, 0)
  | .bf16 => (255, 120)
  | .fp16 => (65504, 0)
  | .fp32 => (2 ^ 24 - 1, 104)

/-- G = ⌊log₂ maxcode⌋ (Table 5-2). -/
def Fmt.g : Fmt → Int
  | .fp4 | .ndosa4 => 2
  | .fp6e2m3 => 2
  | .fp6e3m2 => 4
  | .fp8e4m3 => 8
  | .fp8e5m2 => 15
  | _ => 0

/-- wider() of Table 5-2. -/
def Fmt.wider : Fmt → Option Fmt
  | .fp4 | .ndosa4 => some .fp8e4m3
  | .fp6e2m3 | .fp6e3m2 | .fp8e4m3 | .fp8e5m2 => some .bf16
  | _ => none

/-- The cut width n (Table 7-2). -/
def Fmt.cut : Fmt → Nat
  | .fp4 | .ndosa4 => 22
  | .fp6e3m2 | .fp8e5m2 => 21
  | .fp6e2m3 | .fp8e4m3 => 20
  | .bf16 => 16
  | .fp16 => 13
  | .fp32 => 0

/-- Bytes of one row of the element area (Table 3-8). -/
def Fmt.rowBytes : Fmt → Nat
  | .fp4 | .ndosa4 => 16
  | .fp6e2m3 | .fp6e3m2 => 24
  | .fp8e4m3 | .fp8e5m2 => 32
  | .bf16 | .fp16 => 64
  | .fp32 => 128

/-- Bytes of the scale area (R69). -/
def Fmt.scaleBytes : Fmt → Nat
  | .ndosa4 => 128
  | f => if f.narrow then 64 else 0

/-- Bytes of a stored tile (Table 3-8). -/
def Fmt.tileBytes (f : Fmt) : Nat := 64 + f.scaleBytes + 64 * f.rowBytes

/-- The value of a narrow code, as an unpacked value before scaling (Tables 3-2 to 3-5); negative zero is zero (R52). -/
def Fmt.codeValue (f : Fmt) (c : Nat) : Fl :=
  let (p, emin, top) := f.grid
  let sb := match f with
    | .fp4 | .ndosa4 => 8
    | .fp6e2m3 | .fp6e3m2 => 32
    | _ => 128
  let neg := decide (sb ≤ c % (2 * sb))
  let mag := c % sb
  let ex := mag >>> (p - 1)
  let fr := mag % 2 ^ (p - 1)
  if top < mag then (if f = .fp8e5m2 ∧ mag = 0x7C then .inf neg else .nan)
  else if ex = 0 then .fin (neg && fr != 0) fr emin
  else .fin neg (fr + 2 ^ (p - 1)) (emin + ex - 1)

/-- The sign bit of a narrow code. -/
def Fmt.codeSign : Fmt → Nat
  | .fp4 | .ndosa4 => 8
  | .fp6e2m3 | .fp6e3m2 => 32
  | .fp8e4m3 | .fp8e5m2 => 128
  | .bf16 | .fp16 => 2 ^ 15
  | .fp32 => 2 ^ 31

/-- The elements of one stored row of `f` (R53, R54, R57). -/
def unpackRow (f : Fmt) (bs : List Byte) : List Nat :=
  match f with
  | .fp4 | .ndosa4 => bs.flatMap fun b => [b.toNat % 16, b.toNat / 16]
  | .fp6e2m3 | .fp6e3m2 => (wordsOf 3 8 bs).flatMap fun g => [g % 64, g / 64 % 64, g / 4096 % 64, g / 262144 % 64]
  | .fp8e4m3 | .fp8e5m2 => bs.map BitVec.toNat
  | .bf16 | .fp16 => wordsOf 2 32 bs
  | .fp32 => wordsOf 4 32 bs

/-- Pairs of nibbles to bytes. -/
def packNibbles : List Nat → List Byte
  | a :: b :: r => BitVec.ofNat 8 (a % 16 + 16 * b) :: packNibbles r
  | _ => []

/-- Fours of six-bit codes to three bytes. -/
def packSixes : List Nat → List Byte
  | a :: b :: c :: d :: r => natLe 3 (a % 64 + 64 * (b % 64) + 4096 * (c % 64) + 262144 * (d % 64)) ++ packSixes r
  | _ => []

/-- The bytes of one stored row of 32 codes (R53, R54, R57). -/
def packRow (f : Fmt) (cs : List Nat) : List Byte :=
  match f with
  | .fp4 | .ndosa4 => packNibbles cs
  | .fp6e2m3 | .fp6e3m2 => packSixes cs
  | .fp8e4m3 | .fp8e5m2 => cs.map (BitVec.ofNat 8)
  | .bf16 | .fp16 => cs.flatMap (natLe 2)
  | .fp32 => cs.flatMap (natLe 4)

/-- The tile header's fields (Table 3-9); reserved bytes are ignored on read and written 0. -/
structure TileHdr where
  fmt : Nat := 0
  shift : Nat := 0
  tscale : Nat := 127
  nonfinite : Bool := false
  wide : Bool := false
  recast : Bool := false
  ver : Nat := 1
  rows : Nat := 64
  cols : Nat := 32
  slot : Nat := 0
  tag : Nat := 0
  sortIndex : Nat := 0
  entries : Nat := 0
  tileRow : Nat := 0
  tileCol : Nat := 0
  deriving DecidableEq, Repr

/-- Read a tile header (R70). -/
def TileHdr.parse (bs : List Byte) : TileHdr where
  fmt := field bs 0 1 / 16
  shift := field bs 0 1 % 16
  tscale := field bs 1 1
  nonfinite := bit (field bs 2 1) 7
  wide := bit (field bs 2 1) 6
  recast := bit (field bs 2 1) 5
  ver := field bs 3 1
  rows := field bs 4 1
  cols := field bs 5 1
  slot := field bs 6 2 % 512
  tag := field bs 8 4
  sortIndex := field bs 12 4
  entries := field bs 16 2
  tileRow := field bs 20 4
  tileCol := field bs 24 4

/-- Write a tile header (R70). -/
def TileHdr.bytes (h : TileHdr) : List Byte :=
  natLe 1 (16 * h.fmt + h.shift % 16) ++ natLe 1 h.tscale ++
  natLe 1 (128 * b2n h.nonfinite + 64 * b2n h.wide + 32 * b2n h.recast) ++ natLe 1 h.ver ++
  natLe 1 h.rows ++ natLe 1 h.cols ++ natLe 2 h.slot ++ natLe 4 h.tag ++ natLe 4 h.sortIndex ++
  natLe 2 h.entries ++ natLe 2 0 ++ natLe 4 h.tileRow ++ natLe 4 h.tileCol ++ natLe 36 0

/-- The header check of Table 3-11, first row. -/
def TileHdr.valid (h : TileHdr) : Bool :=
  match Fmt.ofCode h.fmt with
  | none => false
  | some f => h.ver == 1 && decide (1 ≤ h.rows ∧ h.rows ≤ 64) && decide (1 ≤ h.cols ∧ h.cols ≤ 32) &&
    decide (1 ≤ h.tscale ∧ h.tscale ≤ 254) && (f.narrow || h.shift == 0)

/-- A stored tile taken apart: header, block headers (SCALE, WIDE, ENTRIES) and codes, row by row. -/
structure Tile where
  hdr : TileHdr := {}
  blocks : List (Nat × Bool × Nat) := []
  codes : List (List Nat) := []
  deriving DecidableEq, Repr

/-- The format of a parsed tile whose header is valid. -/
def Tile.fmt (t : Tile) : Fmt := (Fmt.ofCode t.hdr.fmt).getD .fp32

/-- Take a stored tile apart (R64, R69). -/
def Tile.parse (bs : List Byte) : Tile :=
  let h := TileHdr.parse bs
  let f := (Fmt.ofCode h.fmt).getD .fp32
  let scale := (bs.drop 64).take f.scaleBytes
  let blocks := match f with
    | .ndosa4 => (wordsOf 2 64 scale).map fun w => (w / 256, bit w 7, w % 16)
    | _ => scale.map fun b => (b.toNat, false, 0)
  let rows := chunks f.rowBytes 64 (bs.drop (64 + f.scaleBytes))
  ⟨h, blocks, rows.map (unpackRow f)⟩

/-- Put a stored tile together (R64, R69). -/
def Tile.bytes (t : Tile) : List Byte :=
  let f := t.fmt
  let scale : List Byte := match f with
    | .ndosa4 => t.blocks.flatMap fun b => natLe 2 (256 * b.1 + 128 * b2n b.2.1 + b.2.2)
    | _ => if f.narrow then t.blocks.map fun b => BitVec.ofNat 8 b.1 else []
  t.hdr.bytes ++ scale ++ t.codes.flatMap (packRow f)

/-- An expanded float (Table 4-1): CLASS, sign, significand, exponent. -/
structure Exp where
  cls : Nat := 0
  neg : Bool := false
  m : Nat := 0
  q : Int := 0
  deriving DecidableEq, Repr

/-- The expanded value of an unpacked value whose exponent is shifted by `d` and significand scaled by `s`. -/
def Exp.ofFl (v : Fl) (s : Nat) (d : Int) : Exp :=
  match v with
  | .nan => { cls := 3 }
  | .inf neg => { cls := if neg then 2 else 1, neg := neg }
  | .fin neg m e => { neg := neg, m := m * s, q := e + d }

/-- The expanded float as an unpacked value. -/
def Exp.toFl (x : Exp) : Fl :=
  match x.cls with
  | 0 => .fin x.neg x.m x.q
  | 1 => .inf false
  | 2 => .inf true
  | _ => .nan

/-- A scale byte that makes its block invalid: 0xFF or a reserved code (R61). -/
def scaleInvalid (s : Nat) : Bool := s == 0xFF || decide (1 ≤ s ∧ s ≤ 7)

/-- Expansion of a narrow code under a block scale and SHIFT (R78). -/
def expandCode (f : Fmt) (scale shift c : Nat) : Exp :=
  if scale = 0 then {}
  else if scaleInvalid scale then { cls := 3 }
  else
    -- ci and qc are those of Table 4-2; an E = 0 code has the same unit as E = 1
    Exp.ofFl (f.codeValue c) (8 + scale % 8) ((scale / 8 : Nat) - 18 + shift)

/-- Expansion of an Ndosa-4 escape from its sort-list entry (R79). -/
def expandEscape (entry : Nat) : Exp := Exp.ofFl (fpDecode Machine.bf16 entry) 1 0

/-- The escapes of a row in element order, given its entries; other codes expand under the scale (R65). -/
def expandNdosaRow (scale shift : Nat) : List Nat → List Nat → List Exp
  | [], _ => []
  | c :: cs, es =>
    if c = 8 then expandEscape (es.headD 0) :: expandNdosaRow scale shift cs es.tail
    else expandCode .fp4 scale shift c :: expandNdosaRow scale shift cs es

/-- The 32 elements of an Ndosa-4 wide block (R67). -/
def wideCodes (codes entries : List Nat) : List Nat :=
  (packNibbles codes).map BitVec.toNat ++ entries.flatMap fun e => [e % 256, e / 256]

/-- Index of each row's first entry, counted from the tile's SORT_INDEX (R65). -/
def entryOffsets : Nat → List (Nat × Bool × Nat) → List Nat
  | _, [] => []
  | o, b :: bs => o :: entryOffsets (o + b.2.2) bs

/-- Sort-list entries a tile counts. -/
def Tile.entrySum (t : Tile) : Nat := (t.blocks.map fun b => b.2.2).foldl (· + ·) 0

/-- The expanded elements of row `i`, masked to the tile's extent (R71); `es` are the tile's sort-list entries. -/
def Tile.expandRow (t : Tile) (es : List Nat) (i : Nat) : List Exp :=
  let f := t.fmt
  let cs := t.codes.getD i []
  let b := t.blocks.getD i (0, false, 0)
  let xs : List Exp :=
    if !f.narrow then cs.map fun c => Exp.ofFl (fpDecode f.ieee c) 1 0
    else if f = .ndosa4 then
      let first := (entryOffsets 0 t.blocks).getD i 0
      let my := (es.drop first).take b.2.2
      if b.1 = 0 then cs.map fun _ => ({} : Exp)
      else if scaleInvalid b.1 then cs.map fun _ => ({ cls := 3 } : Exp)
      else if b.2.1 then (wideCodes cs my).map (expandCode .fp8e4m3 b.1 t.hdr.shift)
      else expandNdosaRow b.1 t.hdr.shift (cs.take t.hdr.cols) my
    else cs.map (expandCode f b.1 t.hdr.shift)
  if i < t.hdr.rows then
    (xs.take t.hdr.cols) ++ List.replicate (32 - t.hdr.cols) ({} : Exp)
  else List.replicate 32 ({} : Exp)

/-- A BF16 escape entry within R68's range: finite, magnitude from 2^−26 up to 2^32. -/
def escapeInRange (e : Nat) : Bool := decide (101 ≤ bits e 14 7 ∧ bits e 14 7 ≤ 158)

/-- The checks of R68 on the blocks of an Ndosa-4 tile that are read, all but those of the rows `unread`; `es` are the
tile's entries. -/
def Tile.sortOk (t : Tile) (es : List Nat) (unread : List Nat) : Bool :=
  (List.range 64).all fun i => unread.contains i ||
    let b := t.blocks.getD i (0, false, 0)
    let shape := if b.2.1 then b.2.2 == 8 else decide (b.2.2 ≤ 4)
    shape && (b.1 == 0 || scaleInvalid b.1 || b.2.1 ||
      (let my := (es.drop ((entryOffsets 0 t.blocks).getD i 0)).take b.2.2
       let n := if i < t.hdr.rows then (((t.codes.getD i []).take t.hdr.cols).filter (· == 8)).length else 0
       n == b.2.2 && my.all escapeInRange))

/-- The value of an element of a wide tile as FP32, exact (R173). -/
def widen (f : Fmt) (c : Nat) : F32 :=
  if f = .fp32 then (match fpDecode Machine.fp32 c with | .nan => fnan | _ => BitVec.ofNat 32 c)
  else toF32 (fpDecode f.ieee c)

/-- A wide tile's values as FP32, elements outside the extent zero (R71). -/
def Tile.values (t : Tile) : List (List F32) :=
  (List.range 64).map fun i =>
    (List.range 32).map fun j =>
      if i < t.hdr.rows ∧ j < t.hdr.cols then widen t.fmt ((t.codes.getD i []).getD j 0) else 0#32

end Sys2Proof.Machine
end

