-- ==== Sys2Proof/Machine/Convert.lean ====
section
/-!
DEFINITION. Sys2Proof/Machine/Convert.lean: the output converters: block scales (R108), rounding (R174–R178), re-set and
tile recast (R117), and what a committed tile counts (R114).
-/
namespace Sys2Proof.Machine

/-- What a conversion captures when its command is issued (R109), with its descriptor's mode and the draw inputs. -/
structure Conv where
  /-- the format conversions begin in: CUR_FMT of the slot, or the descriptor's output format -/
  fmt : Fmt := .fp32
  /-- BASE_FMT, or the output format when no slot is named -/
  base : Fmt := .fp32
  slotEn : Bool := false
  slot : Nat := 0
  /-- biased tensor-scale exponent -/
  tscale : Nat := 127
  esc : F32 := 0#32
  resetK : Nat := 2
  resetMax : Nat := 2
  recastEn : Bool := false
  normEn : Bool := false
  rnd : Nat := 0
  key : DrawKey := {}
  deriving DecidableEq, Repr

/-- The counts of one committed tile (Table 5-4). -/
structure Counts where
  zero : Nat := 0
  under : Nat := 0
  clip : Nat := 0
  nonfin : Nat := 0
  esc : Nat := 0
  blank : Nat := 0
  reset : Nat := 0
  recast : Nat := 0
  wide : Nat := 0
  deriving DecidableEq, Repr

/-- Sum of counts. -/
def Counts.add (a b : Counts) : Counts :=
  ⟨a.zero + b.zero, a.under + b.under, a.clip + b.clip, a.nonfin + b.nonfin, a.esc + b.esc, a.blank + b.blank,
   a.reset + b.reset, a.recast + b.recast, a.wide + b.wide⟩

/-- Biased scale exponent to the exponent t of R62. -/
def unbias (ts : Nat) : Int := (ts : Int) - 127

/-- A staged value in tensor units, x ÷ 2^t (R63, R66). -/
def tensorUnits (c : Conv) (x : F32) : Fl :=
  match f32 x with
  | .fin neg m e => .fin neg m (e - unbias c.tscale)
  | v => v

/-- The escape entry of a staged value (R66): the RNE BF16 code of its value in tensor units, since a reader takes the
entry times 2^t (R63). DEDUCED, log entry 18. -/
def escapeEntry (c : Conv) (x : F32) : Nat := fpEncode bf16 (tensorUnits c x)

/-- An element is written as an escape (R66): above the threshold in tensor units and in range as BF16. -/
def isEscape (c : Conv) (x : F32) : Bool :=
  match tensorUnits c x with
  | .fin _ m e => !isZero c.esc && m != 0 && flLt (f32 c.esc) (.fin false m e) && escapeInRange (escapeEntry c x)
  | _ => false

/-- Outcome of block_scale for one row (R108): the scale code, or overset, and whether the block is wide. -/
inductive BlockScale
  | code (s : Nat) (wide : Bool)
  | overset (wide : Bool)
  deriving DecidableEq, Repr

/-- The smallest scale code whose value is at least a ÷ (maxcode × 2^shift × 2^t) (R108). -/
def scaleFor (f : Fmt) (ts shift : Nat) (a : F32) : Option Nat :=
  match f32 a with
  | .fin _ m e =>
    let (mc, me) := f.maxcode
    let c := max 8 (gridPos 4 (-17) m mc (e - me - shift - unbias ts)).ceil
    if 0xFE < c then none else some c
  | _ => none

/-- block_scale of R108 for the valid elements `v` of a row, in format `f`. -/
def blockScale (c : Conv) (f : Fmt) (shift : Nat) (v : List F32) : BlockScale :=
  if !f.eight && v.any nonFin then .code 0xFF false
  else if v.isEmpty then .code 0 false
  else if v.all nonFin then .code 0x78 false
  else if v.all isZero then .code 0 false
  else
    let escs := if f = .ndosa4 then (v.filter (isEscape c)).length else 0
    let wide := decide (5 ≤ escs)
    let f' := if wide then Fmt.fp8e4m3 else f
    let xs := v.filter fun x => !nonFin x && !(f == Fmt.ndosa4 && !wide && isEscape c x)
    let a := xs.foldl (fun m x => maxMag m (fabs x)) 0#32
    if isZero a then .code 8 false
    else match scaleFor f' c.tscale shift a with
      | none => .overset wide
      | some s => .code s wide

/-- Round a grid position under a rounding mode (R174, R177): `n` is the cut width and `slot` the draw slot. -/
def GridPos.round (g : GridPos) (rnd n slot : Nat) : Nat :=
  match rnd with
  | 0 => g.nearest
  | 1 => g.idx
  | _ => if 2 ^ n ≤ (g.rem <<< n) / g.den + slot >>> (32 - n) then g.idx + 1 else g.idx

/-- One narrow element's code under a scale (R175–R178), and whether it is clipped. `cut` is the cut width. -/
def narrowCode (f : Fmt) (ts shift s rnd cut slot : Nat) (x : F32) : Nat × Bool :=
  let (p, emin, top) := f.grid
  match f32 x with
  | .nan => (0x7F, false)
  | .inf neg => (if f = .fp8e5m2 then (if neg then 0xFC else 0x7C) else 0x7F, false)
  | .fin neg m e =>
    let g := gridPos p emin m (8 + s % 8) (e - ((s / 8 : Nat) - 18) - shift - unbias ts)
    let clip := decide (top < g.idx ∨ (g.idx = top ∧ g.rem ≠ 0))
    let mag := if clip then top else g.round rnd cut slot
    (if mag = 0 then 0 else mag + (if neg then f.codeSign else 0), clip)

/-- One wide element's code (R175, Table 7-4), and whether it is clipped. -/
def wideCode (f : Fmt) (rnd slot : Nat) (x : F32) : Nat × Bool :=
  let g0 := f.ieee
  match f32 x with
  | .nan => (g0.nanCode, false)
  | .inf neg => ((if neg then g0.signBit else 0) + g0.infCode, false)
  | .fin neg m e =>
    let g := gridPos g0.prec g0.emin m 1 e
    let top := g0.infCode - 1
    let beyond := decide (top < g.idx ∨ (g.idx = top ∧ g.rem ≠ 0))
    let mag :=
      if f = .fp32 then g.idx
      else if rnd = 1 then min g.idx top
      else if g0.infCode ≤ g.idx then g0.infCode
      else g.round rnd f.cut slot
    (mag + (if neg then g0.signBit else 0), beyond && f != .fp32)

/-- The draw slot of the element at row `i`, column `j` of a tile (R183); no draw outside SR mode. -/
def drawSlot (c : Conv) (tileRow tileCol i j : Nat) : Nat :=
  if c.rnd = 2 then c.key.draw (drawPos (tileRow * 64 + i) (tileCol * 32 + j)) else 0

/-- One converted row: block header, 32 codes, sort-list entries, counts. -/
structure ConvRow where
  block : Nat × Bool × Nat := (0, false, 0)
  codes : List Nat := []
  entries : List Nat := []
  counts : Counts := {}
  nonfinite : Bool := false
  deriving DecidableEq, Repr

/-- A row written with a settled scale (R66, R67, R72, R114, R178). `v` are the valid elements of row `i`.
DEDUCED, log entry 18. -/
def convRow (c : Conv) (f : Fmt) (shift tileRow tileCol i : Nat) (v : List F32) (s : Nat) (wide : Bool) : ConvRow :=
  let pad := List.replicate (32 - v.length) 0
  if s = 0 then { codes := List.replicate 32 0, counts := { zero := v.length, blank := 1 } }
  else if s = 0xFF then
    { block := (0xFF, false, 0), codes := List.replicate 32 0, counts := { nonfin := v.length }, nonfinite := true }
  else
    let f' := if wide then Fmt.fp8e4m3 else f
    let cells : List (F32 × Nat × Bool × Bool) := (List.range v.length).zip v |>.map fun (j, x) =>
      if f == Fmt.ndosa4 && !wide && isEscape c x then (x, 8, false, true)
      else
        let r := narrowCode f' c.tscale shift s c.rnd f.cut (drawSlot c tileRow tileCol i j) x
        (x, r.1, r.2, false)
    let codes := cells.map (fun t => t.2.1) ++ pad
    let es := cells.filter (fun t => t.2.2.2) |>.map fun t => escapeEntry c t.1
    let counts : Counts := {
      zero := (cells.filter fun t => isZero t.1).length
      under := (cells.filter fun t => !isZero t.1 && !nonFin t.1 && t.2.1 == 0).length
      clip := (cells.filter fun t => t.2.2.1).length
      nonfin := (cells.filter fun t => nonFin t.1).length
      esc := es.length
      wide := b2n wide }
    if wide then
      { block := (s, true, 8)
        codes := (codes.take 16).flatMap fun b => [b % 16, b / 16]
        entries := (chunks 2 8 (codes.drop 16)).map fun p => p.headD 0 + 256 * p.getD 1 0
        counts, nonfinite := false }
    else
      { block := (s, false, es.length), codes, entries := es, counts, nonfinite := v.any nonFin }

/-- A tile in a wide format (no block scales; R175). -/
def convWideRow (c : Conv) (f : Fmt) (tileRow tileCol i : Nat) (v : List F32) : ConvRow :=
  let cells := (List.range v.length).zip v |>.map fun (j, x) =>
    let r := wideCode f c.rnd (drawSlot c tileRow tileCol i j) x
    (x, r.1, r.2)
  { codes := cells.map (fun t => t.2.1) ++ List.replicate (32 - v.length) 0
    counts := {
      zero := (cells.filter fun t => isZero t.1).length
      under := (cells.filter fun t => !isZero t.1 && !nonFin t.1 && t.2.1 % f.ieee.signBit == 0).length
      clip := (cells.filter fun t => t.2.2).length
      nonfin := (cells.filter fun t => nonFin t.1).length }
    nonfinite := cells.any fun t => decide (f.ieee.infCode ≤ t.2.1 % f.ieee.signBit) }

/-- What a conversion yields: the tile, its sort-list entries, its counts, a recast request, and a tile recast. -/
structure ConvOut where
  tile : Tile := {}
  entries : List Nat := []
  counts : Counts := {}
  resets : Nat := 0
  request : Option Fmt := none
  tileRecast : Bool := false
  deriving DecidableEq, Repr

/-- A staged output: FP32 values with the valid extent and the output identity (R511). -/
structure Staged where
  rows : Nat := 0
  cols : Nat := 0
  vals : List (List F32) := []
  tag : Nat := 0
  tileRow : Nat := 0
  tileCol : Nat := 0
  deriving DecidableEq, Repr

/-- The valid elements of each of the 64 rows; rows at or beyond ROWS have none. -/
def Staged.valid (s : Staged) : List (List F32) :=
  (List.range 64).map fun i => if i < s.rows then (s.vals.getD i []).take s.cols else []

/-- Commit the tile in format `f` at `shift`, OVERSET rows given scale 0xFE (R117). -/
def commitTile (c : Conv) (f : Fmt) (shift : Nat) (st : Staged) (scales : List BlockScale) : ConvOut :=
  let rows : List ConvRow := (List.range 64).zip (st.valid.zip scales) |>.map fun (i, v, b) =>
    if f.narrow then
      let (s, w) := match b with | .code s w => (s, w) | .overset w => (0xFE, w)
      if v.isEmpty then { codes := List.replicate 32 0, counts := { blank := 1 } }
      else convRow c f shift st.tileRow st.tileCol i v s w
    else convWideRow c f st.tileRow st.tileCol i v
  let recast := f != c.base
  { tile := {
      hdr := {
        fmt := f.code, shift := if f.narrow then shift else 0
        tscale := if f.narrow then c.tscale else 127
        nonfinite := rows.any (·.nonfinite), wide := rows.any (·.block.2.1), recast := recast
        rows := st.rows, cols := st.cols, slot := if c.slotEn then c.slot else 0, tag := st.tag
        entries := (rows.map fun r => r.block.2.2).foldl (· + ·) 0
        tileRow := st.tileRow, tileCol := st.tileCol }
      blocks := if f.narrow then rows.map (·.block) else []
      codes := rows.map (·.codes) }
    entries := rows.flatMap (·.entries)
    counts := { (rows.map (·.counts)).foldl Counts.add {} with recast := b2n recast } }

/-- convert_tile (R117); `fuel` bounds the attempts, eight at most. -/
def convertLoop (c : Conv) (st : Staged) : Nat → Fmt → Nat → Nat → Nat → Option Fmt → Bool → ConvOut
  | 0, f, shift, _, _, _, _ => commitTile c f shift st (st.valid.map (blockScale c f shift))
  | fuel + 1, f, shift, n, resets, req, tr =>
    let scales := st.valid.map (blockScale c f shift)
    let beyond := f.narrow && scales.any fun b => match b with | .overset _ => true | _ => false
    if !beyond then { commitTile c f shift st scales with resets := resets, request := req, tileRecast := tr }
    else if n < c.resetMax ∧ shift + c.resetK ≤ 15 then
      convertLoop c st fuel f (shift + c.resetK) (n + 1) (resets + 1) req tr
    else if c.recastEn ∧ f.wider = some .fp8e4m3 then
      convertLoop c st fuel .fp8e4m3 0 0 resets (some .fp8e4m3) true
    else
      let req' := if c.recastEn ∧ f.wider = some .bf16 then some Fmt.bf16 else req
      { commitTile c f shift st scales with resets := resets, request := req', tileRecast := tr }

/-- The conversion of a staged tile (R117). -/
def convertTile (c : Conv) (st : Staged) : ConvOut :=
  let o := convertLoop c st 16 c.fmt 0 0 0 none false
  { o with counts := { o.counts with reset := o.resets } }

/-- The largest finite magnitude among the staged values (R110). -/
def Staged.amax (st : Staged) : F32 :=
  (st.valid.flatMap id).foldl (fun m x => if nonFin x then m else maxMag m (fabs x)) 0#32

/-- The tile RMS of the norm monitor (R124); none when no value is finite. -/
def Staged.rms (st : Staged) : Option F32 :=
  let xs := (st.valid.flatMap id).filter fun x => !nonFin x
  if xs.isEmpty then none
  else
    let q := xs.foldl (fun a x => fadd a (fmul x x)) 0#32
    some (if nonFin q then 0x7F7FFFFF#32 else fsqrt (fdiv q (fofNat xs.length)))

end Sys2Proof.Machine
end

