-- ==== Sys2Proof/Machine/Arrays.lean ====
section
/-!
DEFINITION. Sys2Proof/Machine/Arrays.lean: the arithmetic of the two arrays: exact long registers (R81–R90), chunk
accumulation and the chunk tree (R135, R136), long and wide partials (R99–R101, R141–R145).
-/
namespace Sys2Proof.Machine

/-- One long register: its value in units of 2^−66 and its CLASS (R81). -/
structure LReg where
  v : Int := 0
  cls : Nat := 0
  deriving DecidableEq, Repr

/-- The CLASS a product contributes (R85's list before R87). -/
def prodClass (a b : Exp) : Nat :=
  if a.cls = 0 ∧ b.cls = 0 then 0
  else if a.cls = 3 ∨ b.cls = 3 then 3
  else if (a.cls = 0 ∧ a.m = 0) ∨ (b.cls = 0 ∧ b.m = 0) then 3
  else if a.neg != b.neg then 2 else 1

/-- Add one product into a register (R81). -/
def LReg.mac (r : LReg) (a b : Exp) : LReg :=
  let p : Int := ((a.m * b.m) <<< (a.q + b.q + 66).toNat : Nat)
  ⟨if a.neg != b.neg then r.v - p else r.v + p, r.cls ||| prodClass a b⟩

/-- One row's block as it enters the F-array: blank (scale 0x00) or its expanded elements. -/
structure ExpBlock where
  blank : Bool := true
  xs : List Exp := []
  deriving DecidableEq, Repr

/-- Accumulate one row pair over all blocks; blank pairs are skipped (R85). -/
def LReg.dot (r : LReg) : List ExpBlock → List ExpBlock → LReg
  | a :: as, b :: bs =>
    LReg.dot (if a.blank || b.blank then r else (a.xs.zip b.xs).foldl (fun r p => r.mac p.1 p.2) r) as bs
  | _, _ => r

/-- Block pairs skipped under R85 between two rows. -/
def blankPairs (as bs : List ExpBlock) : Nat := ((as.zip bs).filter fun p => p.1.blank || p.2.blank).length

/-- The register kept in 160 bits, two's complement (R81, R101). -/
def LReg.wrap (r : LReg) : LReg := ⟨signed 160 (unsigned 160 r.v), r.cls % 4⟩

/-- Rounding to FP32 (R87, R88). -/
def LReg.round (r : LReg) : F32 :=
  match r.cls with
  | 0 => BitVec.ofNat 32 (fpRound fp32 (decide (r.v < 0)) r.v.natAbs 1 (-66))
  | 1 => 0x7F800000#32
  | 2 => 0xFF800000#32
  | _ => fnan

/-- Adding two long partials' registers (R101). -/
def LReg.add (a b : LReg) : LReg := LReg.wrap ⟨a.v + b.v, a.cls ||| b.cls⟩

/-- An FP32 result entering a long register (R122). -/
def LReg.ofF32 (y : F32) : LReg :=
  match f32 y with
  | .nan => ⟨0, 3⟩
  | .inf neg => ⟨0, if neg then 2 else 1⟩
  | .fin neg m e =>
    if m ≠ 0 ∧ 92 ≤ floorLog2 m 1 e then ⟨0, if neg then 2 else 1⟩
    else
      let sh := e + 66
      let n := if 0 ≤ sh then m <<< sh.toNat
        else
          let d := (-sh).toNat
          (GridPos.mk (m >>> d) (m % 2 ^ d) (2 ^ d)).nearest
      ⟨if neg then -(n : Int) else n, 0⟩

/-- The combined rescale entry w × 2^(tA + tB), exponents biased by 127 (R89); none when it must be refused. -/
def rescaleEntry (w : F32) (tA tB : Nat) : Option F32 :=
  if nonFin w || isSubnormal w then none
  else if isZero w then some w
  else
    let ex : Int := bits w.toNat 30 23 + unbias tA + unbias tB
    if 1 ≤ ex ∧ ex ≤ 254 then some (BitVec.ofNat 32 (mergeMask 0x7F800000 w.toNat (ex.toNat * 2 ^ 23))) else none

/-! ### Long partials -/

/-- A long partial in memory (R99, Table 4-7). -/
structure LongPartial where
  typ : Nat := 0x4C
  ver : Nat := 1
  rows : Nat := 0
  cols : Nat := 0
  tag : Nat := 0
  tileRow : Nat := 0
  tileCol : Nat := 0
  kTotal : Nat := 0
  kFirst : Nat := 0
  kCount : Nat := 0
  tsA : Nat := 127
  tsB : Nat := 127
  seq : Nat := 0
  core : Nat := 0
  regs : List LReg := []
  deriving DecidableEq, Repr

/-- Size of a stored long partial (R99). -/
def longPartialBytes : Nat := 41536

/-- Read a long partial. -/
def LongPartial.parse (bs : List Byte) : LongPartial :=
  let cl := bs.drop 41024
  { typ := field bs 0 1, ver := field bs 1 1, rows := field bs 2 1, cols := field bs 3 1
    tag := field bs 4 4, tileRow := field bs 8 4, tileCol := field bs 12 4
    kTotal := field bs 16 4, kFirst := field bs 20 4, kCount := field bs 24 4
    tsA := field bs 28 1, tsB := field bs 29 1, seq := field bs 32 4, core := field bs 36 2
    regs := ((wordsOf 20 2048 (bs.drop 64)).zip (cl.flatMap fun b => [b.toNat % 4, b.toNat / 4 % 4, b.toNat / 16 % 4, b.toNat / 64])).map
      fun (v, c) => ⟨signed 160 v, c⟩ }

/-- Fours of two-bit classes to a byte. -/
def packClasses : List Nat → List Byte
  | a :: b :: c :: d :: r => BitVec.ofNat 8 (a + 4 * b + 16 * c + 64 * d) :: packClasses r
  | _ => []

/-- Write a long partial (R99). -/
def LongPartial.bytes (p : LongPartial) : List Byte :=
  natLe 1 p.typ ++ natLe 1 p.ver ++ natLe 1 p.rows ++ natLe 1 p.cols ++ natLe 4 p.tag ++ natLe 4 p.tileRow ++
  natLe 4 p.tileCol ++ natLe 4 p.kTotal ++ natLe 4 p.kFirst ++ natLe 4 p.kCount ++ natLe 1 p.tsA ++ natLe 1 p.tsB ++
  natLe 2 0 ++ natLe 4 p.seq ++ natLe 2 p.core ++ natLe 26 0 ++
  p.regs.flatMap (fun r => natLe 20 (unsigned 160 r.v)) ++ packClasses (p.regs.map (·.cls))

/-- Registers of a 64 × 32 grid with those outside the extent zero (R99). -/
def maskRegs (rows cols : Nat) (g : List (List LReg)) : List LReg :=
  (List.range 64).flatMap fun i => (List.range 32).map fun j =>
    if i < rows ∧ j < cols then (g.getD i []).getD j {} else {}

/-- The checks of R100 in header order: the offset of the first field that fails, against what the absorbing
pass (or run) expects and `k`, the elements it adds itself. -/
def LongPartial.check (p : LongPartial) (rows cols tag tileRow tileCol kTotal tsA tsB k : Nat) : Option Nat :=
  if p.typ ≠ 0x4C then some 0
  else if p.ver ≠ 1 then some 1
  else if p.rows ≠ rows then some 2
  else if p.cols ≠ cols then some 3
  else if p.tag ≠ tag then some 4
  else if p.tileRow ≠ tileRow then some 8
  else if p.tileCol ≠ tileCol then some 12
  else if p.kTotal ≠ kTotal then some 16
  else if kTotal < p.kCount + k then some 24
  else if p.tsA ≠ tsA then some 28
  else if p.tsB ≠ tsB then some 29
  else none

/-! ### Chunk tree and wide partials -/

/-- One entry of an accumulation: a tree node or a fragment of a chunk (Table 6-2), with its plane of values. -/
structure Entry where
  frag : Bool := false
  level : Nat := 0
  index : Nat := 0
  first : Nat := 0
  count : Nat := 0
  plane : List F32 := []
  deriving DecidableEq, Repr

/-- N of R136. -/
def treeN (kTotal : Nat) : Nat := (kTotal + 255) / 256

/-- D = ⌈log₂ N⌉ of R136. -/
def treeD (n : Nat) : Nat := if n ≤ 1 then 0 else (n - 1).log2 + 1

/-- Elements of chunk m that lie below K_TOTAL. -/
def chunkLen (kTotal m : Nat) : Nat := min 256 (kTotal - 256 * m)

/-- Serial sum of one chunk's products for one element (R135), from −0. -/
def chunkDot (as bs : List Fl) : F32 :=
  (as.zip bs).foldl (fun acc p => toF32 (flAdd (flMul p.1 p.2) (f32 acc))) fnegZero

/-- Serial sum of one chunk of terms (R153), from −0. -/
def chunkSum (ts : List F32) : F32 := ts.foldl fadd fnegZero

/-- Element-wise RNE sum of two planes. -/
def planeAdd (a b : List F32) : List F32 := List.zipWith fadd a b

/-- Insert an entry in order of (index, first). -/
def Entry.insert (e : Entry) : List Entry → List Entry
  | [] => [e]
  | x :: xs =>
    if e.index < x.index ∨ (e.index = x.index ∧ e.first < x.first) then e :: x :: xs else x :: Entry.insert e xs

/-- Do the fragments, in order, cover [from, upto) without a gap? -/
def fragsCover (upto : Nat) : Nat → List Entry → Bool
  | o, [] => o == upto
  | o, e :: es => e.first == o && fragsCover upto (o + e.count) es

/-- The leaf of a fragment group: the sum in ascending FIRST (R142). -/
def fragLeaf (m : Nat) : List Entry → Entry
  | [] => {}
  | e :: es => { index := m, plane := es.foldl (fun p x => planeAdd p x.plane) e.plane }

/-- Replace complete fragment groups by leaves (R142); with `all`, incomplete groups too (R145). -/
def closeFrags (kTotal : Nat) (all : Bool) (es : List Entry) : List Entry :=
  let frags := (es.filter (·.frag)).foldl (fun a e => e.insert a) []
  let nodes := es.filter fun e => !e.frag
  let idxs := (frags.map (·.index)).eraseDups
  nodes ++ idxs.flatMap fun m =>
    let g := frags.filter fun e => e.index == m
    if all || fragsCover (chunkLen kTotal m) 0 g then [fragLeaf m g] else g

/-- One level of merge (R142): pass up right-childless nodes and combine sibling pairs. -/
def mergeLevel (n level : Nat) (es : List Entry) : List Entry :=
  let here := es.filter fun e => !e.frag && e.level == level
  let rest := es.filter fun e => e.frag || e.level != level
  rest ++ here.flatMap fun e =>
    if e.index % 2 = 0 then
      if n ≤ (e.index + 1) * 2 ^ level then [{ e with level := level + 1, index := e.index / 2 }]
      else match here.find? fun x => x.index == e.index + 1 with
        | some r => [{ e with level := level + 1, index := e.index / 2, plane := planeAdd e.plane r.plane }]
        | none => [e]
    else if here.any fun x => x.index + 1 == e.index then [] else [e]

/-- merge of R142, levels from 0 up to D − 1. -/
def mergeEntries (kTotal : Nat) (es : List Entry) : List Entry :=
  (List.range (treeD (treeN kTotal))).foldl (fun s l => mergeLevel (treeN kTotal) l s) (closeFrags kTotal false es)

/-- First chunk an entry covers. -/
def Entry.firstChunk (e : Entry) : Nat := if e.frag then e.index else e.index * 2 ^ e.level

/-- The K indices an entry covers, as a half-open range. -/
def Entry.span (kTotal : Nat) (e : Entry) : Nat × Nat :=
  if e.frag then (256 * e.index + e.first, 256 * e.index + e.first + e.count)
  else (256 * (e.index * 2 ^ e.level), min kTotal (256 * ((e.index + 1) * 2 ^ e.level)))

/-- Finish an accumulation to its root plane (R145): missing leaves are +0 and incomplete groups are summed as they
stand. `size` is the plane's size. -/
def finishEntries (kTotal size : Nat) (es : List Entry) : List F32 :=
  let n := treeN kTotal
  let d := treeD n
  let root (xs : List Entry) := xs.find? fun e => !e.frag && e.level == d && e.index == 0
  match root (mergeEntries kTotal es) with
  | some e => e.plane
  | none =>
    let es' := closeFrags kTotal true es
    let have_ (m : Nat) := es'.any fun e => let (a, b) := e.span kTotal; decide (a ≤ 256 * m ∧ 256 * m < b)
    let fill := ((List.range n).filter fun m => !have_ m).map fun m =>
      ({ index := m, plane := List.replicate size 0#32 } : Entry)
    match root (mergeEntries kTotal (es' ++ fill)) with
    | some e => e.plane
    | none => List.replicate size 0#32

/-- The (chunk, first offset, count) pieces of the share [k0, k0 + len). -/
def sharePieces (k0 len : Nat) : List (Nat × Nat × Nat) :=
  let lo := k0 / 256
  let hi := (k0 + len + 255) / 256
  (List.range (hi - lo)).map fun i =>
    let m := lo + i
    let a := max k0 (256 * m)
    let b := min (k0 + len) (256 * (m + 1))
    (m, a - 256 * m, b - a)

/-- The entries of a share whose element values are given by `sum` on a piece's local range (start, count)
(R135, R142). -/
def shareEntries (kTotal k0 len : Nat) (sum : Nat → Nat → List F32) : List Entry :=
  (sharePieces k0 len).map fun (m, f, c) =>
    let plane := sum (256 * m + f - k0) c
    if f = 0 ∧ c = chunkLen kTotal m then { index := m, plane }
    else { frag := true, index := m, first := f, count := c, plane }

/-- A row sum of terms in FP32 through the chunk tree (R153). -/
def rowSum (ts : List F32) : F32 :=
  let n := ts.length
  let es := shareEntries n 0 n fun s c => [chunkSum ((ts.drop s).take c)]
  (finishEntries n 1 es).headD 0#32

/-- A wide partial in memory (R141, Tables 6-1 and 6-2). -/
structure WidePartial where
  typ : Nat := 0x57
  ver : Nat := 1
  rows : Nat := 0
  cols : Nat := 0
  tag : Nat := 0
  tileRow : Nat := 0
  tileCol : Nat := 0
  kTotal : Nat := 0
  kFirst : Nat := 0
  kCount : Nat := 0
  fmt : Nat := 8
  count : Nat := 0
  seq : Nat := 0
  core : Nat := 0
  entries : List Entry := []
  deriving DecidableEq, Repr

/-- Header and entry table length of a wide partial. -/
def widePartialHead : Nat := 320

/-- Size of a stored wide partial (R141). -/
def widePartialBytes (entries cols : Nat) : Nat := widePartialHead + entries * 256 * cols

/-- Read a wide partial. -/
def WidePartial.parse (bs : List Byte) : WidePartial :=
  let cols := field bs 3 1
  let n := min 32 (field bs 29 1)
  { typ := field bs 0 1, ver := field bs 1 1, rows := field bs 2 1, cols := cols
    tag := field bs 4 4, tileRow := field bs 8 4, tileCol := field bs 12 4
    kTotal := field bs 16 4, kFirst := field bs 20 4, kCount := field bs 24 4
    fmt := field bs 28 1, count := field bs 29 1, seq := field bs 32 4, core := field bs 36 2
    entries := (List.range n).map fun i =>
      let e := field bs (64 + 8 * i) 8
      { frag := bits e 63 56 == 1, level := bits e 55 48, index := bits e 47 32
        first := bits e 31 16, count := bits e 15 0
        plane := (wordsOf 4 (64 * cols) (bs.drop (widePartialHead + i * 256 * cols))).map (BitVec.ofNat 32) } }

/-- Write a wide partial: entries ascending in first chunk (R141). -/
def WidePartial.bytes (p : WidePartial) : List Byte :=
  let es := p.entries
  natLe 1 p.typ ++ natLe 1 p.ver ++ natLe 1 p.rows ++ natLe 1 p.cols ++ natLe 4 p.tag ++ natLe 4 p.tileRow ++
  natLe 4 p.tileCol ++ natLe 4 p.kTotal ++ natLe 4 p.kFirst ++ natLe 4 p.kCount ++ natLe 1 p.fmt ++
  natLe 1 es.length ++ natLe 2 0 ++ natLe 4 p.seq ++ natLe 2 p.core ++ natLe 26 0 ++
  padTo 256 (es.flatMap fun e => natLe 2 e.count ++ natLe 2 e.first ++ natLe 2 e.index ++ natLe 1 e.level ++
    natLe 1 (b2n e.frag)) ++
  es.flatMap fun e => e.plane.flatMap fun v => natLe 4 v.toNat

/-- Insert an entry in order of the first K index it covers. -/
def Entry.insertK (kTotal : Nat) (e : Entry) : List Entry → List Entry
  | [] => [e]
  | x :: xs => if (e.span kTotal).1 < (x.span kTotal).1 then e :: x :: xs else x :: Entry.insertK kTotal e xs

/-- Entries in ascending order of the K they cover. -/
def sortEntries (kTotal : Nat) (es : List Entry) : List Entry :=
  es.foldl (fun a e => e.insertK kTotal a) []

/-- Do two sets of entries cover a common K index? The index in `xs` of the first entry that does. -/
def overlapAt (kTotal : Nat) (ys : List Entry) : Nat → List Entry → Option Nat
  | _, [] => none
  | i, x :: xs =>
    let (a, b) := x.span kTotal
    if ys.any fun y => let (c, d) := y.span kTotal; decide (max a c < min b d) then some i
    else overlapAt kTotal ys (i + 1) xs

/-- A plane with its values in rows at or beyond ROWS zero (R141). -/
def maskPlane (rows cols : Nat) (p : List F32) : List F32 :=
  p.take (rows * cols) ++ List.replicate ((64 - rows) * cols) 0#32

/-- The checks of R144: header offset and entry index of the first failure (offset 0xFF for an entry). -/
def WidePartial.check (p : WidePartial) (rows cols tag tileRow tileCol kTotal fmt k : Nat) (own : List Entry) :
    Option (Nat × Nat) :=
  if p.typ ≠ 0x57 then some (0, 0)
  else if p.ver ≠ 1 then some (1, 0)
  else if p.rows ≠ rows then some (2, 0)
  else if p.cols ≠ cols then some (3, 0)
  else if p.tag ≠ tag then some (4, 0)
  else if p.tileRow ≠ tileRow then some (8, 0)
  else if p.tileCol ≠ tileCol then some (12, 0)
  else if p.kTotal ≠ kTotal then some (16, 0)
  else if kTotal < p.kCount + k then some (24, 0)
  else if p.fmt ≠ fmt then some (28, 0)
  else if p.count = 0 ∨ 32 < p.count then some (29, 0)
  else (overlapAt kTotal own 0 p.entries).map fun i => (0xFF, i)

/-- A plane as a 64 × 32 grid, elements outside COLS zero. -/
def planeGrid (cols : Nat) (p : List F32) : List (List F32) :=
  (chunks cols 64 p).map fun r => r ++ List.replicate (32 - cols) 0#32

/-- Rescale one element (R90). -/
def rescale (y r : F32) : F32 := fmul y r

end Sys2Proof.Machine
end

