-- ==== Sys2Proof/Machine/Table.lean ====
section
/-!
DEFINITION. Sys2Proof/Machine/Table.lean: sparse plain data. A table lists (key, value) pairs in ONE canonical form:
keys strictly rising, and no value equal to what an unlisted key reads as; so equal contents are equal data.
Memory is the table of bytes whose unlisted address reads 0.
-/
namespace Sys2Proof.Machine

/-- The pairs of a sparse table. -/
abbrev Table (α : Type) := List (Nat × α)

/-- The value at key `k`; an unlisted key reads `d`. -/
def tget {α : Type} (d : α) : Table α → Nat → α
  | [], _ => d
  | (j, v) :: t, k => if j == k then v else tget d t k

/-- The pair (k, v) as a list, left out where `v` is the value of an unlisted key. -/
def tcell {α : Type} [DecidableEq α] (d : α) (k : Nat) (v : α) : Table α := if v = d then [] else [(k, v)]

/-- The table without key `k`. -/
def tdrop {α : Type} (t : Table α) (k : Nat) : Table α := t.filter fun c => c.1 != k

/-- The table with key `k` holding `v`; a canonical table stays so. -/
def tset {α : Type} [DecidableEq α] (d : α) : Table α → Nat → α → Table α
  | [], k, v => tcell d k v
  | (j, w) :: t, k, v =>
    if j == k then tcell d k v ++ tdrop t k
    else if k < j then tcell d k v ++ (j, w) :: tdrop t k
    else (j, w) :: tset d t k v

/-- The canonical form: keys strictly rising, none below `lo`, no value equal to `d`. -/
def twf {α : Type} [DecidableEq α] (d : α) : Nat → Table α → Bool
  | _, [] => true
  | lo, (k, v) :: t => decide (lo ≤ k) && decide (v ≠ d) && twf d (k + 1) t

/-- Memory: (address, byte) pairs over the 48-bit map; an unlisted address reads 0. -/
abbrev Memory := List Host.Cell

/-- What an address that nothing has written reads as: zero, as R253 leaves claimed memory. DESIGN CHOICE, log entry 4. -/
def Memory.blank : Byte := 0#8

/-- One byte of memory. DESIGN CHOICE, log entry 4. -/
def Memory.readByte (m : Memory) (a : Nat) : Byte := tget Memory.blank m a

/-- Memory with one byte written. -/
def Memory.writeByte (m : Memory) (a : Nat) (b : Byte) : Memory := tset Memory.blank m a b

/-- `n` bytes from address `a`. -/
def Memory.read (m : Memory) (a : Nat) : Nat → List Byte
  | 0 => []
  | n + 1 => m.readByte a :: m.read (a + 1) n

/-- The cells of a byte list laid at `a`, blanks left out. -/
def Memory.cells (a : Nat) : List Byte → Memory
  | [] => []
  | b :: bs => tcell Memory.blank a b ++ Memory.cells (a + 1) bs

/-- Memory with the bytes `bs` laid from address `a`. -/
def Memory.write (m : Memory) (a : Nat) (bs : List Byte) : Memory :=
  let e := a + bs.length
  m.filter (fun c => decide (c.1 < a)) ++ (Memory.cells a bs ++ m.filter fun c => decide (e ≤ c.1))

/-- Memory with every byte of [a, a + n) blank. -/
def Memory.erase (m : Memory) (a n : Nat) : Memory :=
  m.filter (fun c => decide (c.1 < a) || decide (a + n ≤ c.1))

/-- Memory with [t, t + n) holding what [a, a + n) holds. -/
def Memory.copy (m : Memory) (a t n : Nat) : Memory :=
  m.filter (fun c => decide (c.1 < t)) ++
    ((m.filter fun c => decide (a ≤ c.1 ∧ c.1 < a + n)).map fun c => (c.1 - a + t, c.2)) ++
    m.filter fun c => decide (t + n ≤ c.1)

/-- The canonical form of memory. -/
def Memory.wf (m : Memory) : Bool := twf Memory.blank 0 m

/-- The table without the keys of [a, a + n). -/
def tclear {α : Type} (t : Table α) (a n : Nat) : Table α :=
  t.filter (fun c => decide (c.1 < a) || decide (a + n ≤ c.1))

end Sys2Proof.Machine
end

