-- ==== Sys2Proof/Machine/CoreTypes.lean ====
section
/-!
DEFINITION. Sys2Proof/Machine/CoreTypes.lean: the state of one core as plain data (Table 1-3): sequencer, command queues,
Gauge, slabs, taps, statistics store, galleys, message engine; and the queues of DMA engines and Platens.
Registers that only hold what is written to them, and counters, stand in the register table of the state instead.
-/
namespace Sys2Proof.Machine

/-- LSTATE of a list (Table 8-15). -/
inductive LState
  | idle | running | parked | ended | abandoned | admitted
  deriving DecidableEq, Repr

/-- The code LSTATE shows. -/
def LState.code : LState → Nat
  | .idle => 0 | .running => 1 | .parked => 2 | .ended => 3 | .abandoned => 4 | .admitted => 5

/-- One of a core's sixteen lists (R194–R207). -/
structure ListSt where
  /-- CFG word of the list entry -/
  cfg : Word := 0#32
  /-- RANGE word of the list entry -/
  range : Word := 0#32
  cursor : Nat := 0
  state : LState := .idle
  /-- predicate ERR of the list (R198) -/
  err : Bool := false
  /-- class and energy declared for the segment the list runs next (R196) -/
  segClass : Nat := 0
  segEnergy : Nat := 0
  /-- target of the WAIT.TICK the list is parked at, and whether it has completed (R45) -/
  target : Nat := 0
  ready : Bool := false
  /-- made eligible by the host ring, with the force flag (R386, R410) -/
  eligible : Bool := false
  /-- ticks the segment has been withheld (R410) -/
  withheld : Nat := 0
  deriving DecidableEq, Repr

/-- The per-command counts of Table 16-1. -/
structure CmdCounts where
  fMac : Nat := 0
  fMacRecast : Nat := 0
  bMac : Nat := 0
  rowOps : Nat := 0
  converted : Nat := 0
  bytes : Nat := 0
  kCount : Nat := 0
  stall : Nat := 0
  msgs : Nat := 0
  tiles : Counts := {}
  deriving DecidableEq, Repr

/-- An error with the page it is set on and its information fields. -/
structure ErrRec where
  page : Nat := 0
  code : Nat := 0
  info0 : Nat := 0
  info1 : Nat := 0
  /-- the 32-byte unit that read uncorrectable, where that is the cause -/
  ue : Option Nat := none
  deriving DecidableEq, Repr

/-- An issued, unretired command (R200–R203). Address fields of `desc` hold effective addresses (R209). -/
structure Cmd where
  seq : Nat := 0
  list : Nat := 0
  idx : Nat := 0
  desc : List Byte := []
  /-- the extension block as read at issue (R214), empty when EXT_EN is 0 -/
  ext : List Byte := []
  unit : Nat := 0
  started : Bool := false
  startTime : Nat := 0
  /-- IMPR.STEP at issue, or the descriptor's step (R182) -/
  step : Nat := 0
  conv : Conv := {}
  /-- combined rescale entries r_n of the channels used (R89, R97) -/
  rescale : Table F32 := []
  /-- display channels of the command, rising (R96) -/
  display : List Nat := []
  tsA : Nat := 127
  tsB : Nat := 127
  /-- runs on the B-array under R121 -/
  onB : Bool := false
  /-- units of work started and committed (R74) -/
  pos : Nat := 0
  done : Nat := 0
  /-- staged tiles awaiting the converter, oldest first, with the order of staging and their unit of work -/
  staged : List (Nat × Nat × Staged) := []
  /-- sort-list entries assigned so far (R510) -/
  sortUsed : Nat := 0
  err : Option ErrRec := none
  /-- nothing more to do but retire -/
  complete : Bool := false
  counts : CmdCounts := {}
  /-- tiles whose invalid blocks have been counted once (R115) -/
  invalidSeen : List Nat := []
  /-- gathered row terms of fused epilogues and row-caster sweeps, by row group -/
  gather : List (List (List F32)) := []
  /-- tag and tile row of each gathered row group -/
  gatherId : List (Nat × Nat) := []
  /-- bytes of a slug moved, or of a POP the offset reached -/
  moved : Nat := 0
  /-- dx tiles to be written when their unit of work commits (DX_OUT, R156): unit, address, bytes -/
  dxTiles : List (Nat × Nat × List Byte) := []
  deriving DecidableEq, Repr

/-- One Gauge slot (Table 5-1). -/
structure GSlot where
  used : Bool := false
  shared : Bool := false
  member : Bool := false
  recastEn : Bool := false
  baseFmt : Nat := 0
  hM1 : Nat := 0
  margin : Nat := 0
  resetK : Nat := 2
  resetMax : Nat := 2
  hold : Nat := 1
  tag : Nat := 0
  esc : F32 := 0#32
  normEn : Bool := false
  linkEn : Bool := false
  link : Nat := 0
  j : Nat := 0
  aM1 : Nat := 0
  curFmt : Nat := 0
  pendFmt : Nat := 15
  holdLeft : Nat := 0
  valid : Nat := 0
  head : Nat := 0
  normValid : Bool := false
  tileRecast : Bool := false
  produced : Bool := false
  calDone : Bool := false
  tscale : Nat := 127
  normAvg : F32 := 0#32
  pendAmax : F32 := 0#32
  pendNorm : F32 := 0#32
  calCnt : Nat := 0
  calBase : Nat := 0
  calBound : Nat := 0
  hist : List F32 := List.replicate 16 0#32
  zero : Nat := 0
  under : Nat := 0
  clip : Nat := 0
  nonfin : Nat := 0
  escCnt : Nat := 0
  blank : Nat := 0
  reset : Nat := 0
  recast : Nat := 0
  wide : Nat := 0
  jump : Nat := 0
  deriving DecidableEq, Repr

/-- One gradient-slab binding (R159). -/
structure Slab where
  valid : Bool := false
  tag : Nat := 0
  base : Nat := 0
  bound : Nat := 0
  nonfin : Bool := false
  filled : Bool := false
  count : Nat := 0
  deriving DecidableEq, Repr

/-- One norm tap (R165, R166). -/
structure Tap where
  en : Bool := false
  latch : Bool := false
  tag : Nat := 0
  mb : F64 := 0#64
  acc : F64 := 0#64
  n : Nat := 0
  mbL : F64 := 0#64
  accL : F64 := 0#64
  nL : Nat := 0
  deriving DecidableEq, Repr

/-- The header of one statistics set (R152). -/
structure SetHdr where
  tag : Nat := 0
  row : Nat := 0
  kind : Nat := 0
  rms : Bool := false
  count : Nat := 0
  deriving DecidableEq, Repr

/-- One 64-byte slot of a galley with its sideband (R235, Table 9-2). `bad`: uncorrectable. -/
structure GFlit where
  data : List Byte := []
  valid : Nat := 64
  sos : Bool := false
  eos : Bool := false
  abort : Bool := false
  poison : Bool := false
  deriving DecidableEq, Repr

/-- A slot of the spill ring: its place in the ring; the bytes lie in HBM. -/
structure RingSlot where
  place : Nat := 0
  valid : Nat := 64
  sos : Bool := false
  eos : Bool := false
  poison : Bool := false
  deriving DecidableEq, Repr

/-- One galley (R232–R247): set registers, stores, and the slugs in progress at either end. -/
structure Galley where
  cfg : Word := 0#32
  srcid : Word := 0#32
  dest : Word := 0#32
  ringBase : Nat := 0
  ringSize : Nat := 0
  credit : Nat := 0
  peak : Nat := 0
  resync : Bool := false
  stalled : Bool := false
  pushCnt : Nat := 0
  popCnt : Nat := 0
  stallCnt : Nat := 0
  partialCnt : Nat := 0
  wholeCnt : Nat := 0
  lateCnt : Nat := 0
  head : List GFlit := []
  ring : List RingSlot := []
  tail : List GFlit := []
  /-- next free place of the ring -/
  ringNext : Nat := 0
  /-- slots of the slug at the front that the consumer has taken, and whether one is being taken -/
  taking : Bool := false
  taken : Nat := 0
  /-- the slug being taken is being discarded to its end (R246) -/
  dropping : Bool := false
  /-- a slug is partly received at the tail -/
  receiving : Bool := false
  /-- an ABORT flit is owed downstream (R244) -/
  owesAbort : Bool := false
  /-- slot being rebuilt from a link's slot stream: its bytes, SOS and POISON, and bytes of the slug still to come (R293) -/
  part : List Byte := []
  partSos : Bool := false
  partPoison : Bool := false
  /-- a flush or an ABORT came between its bytes: it is discarded when it is complete -/
  partVoid : Bool := false
  left : Nat := 0
  /-- cumulative slots freed toward a sender on a link, and slots sent on a link since the last RESET (R301) -/
  freed : Nat := 0
  sent : Nat := 0
  deriving DecidableEq, Repr

/-- A message on its way, or arrived and unmatched (R220). Source cores are below 1,152. -/
structure Send where
  src : Nat := 0
  seq : Nat := 0
  dest : Nat := 0
  tag : Nat := 0
  len : Nat := 0
  addr : Nat := 0
  /-- payload of a message no core sent (a collective engine's completion message) -/
  payload : List Byte := []
  deriving DecidableEq, Repr

/-- A receive that has been posted, in order (R220). -/
structure Recv where
  seq : Nat := 0
  any : Bool := false
  src : Nat := 0
  tag : Nat := 0
  bound : Nat := 0
  addr : Nat := 0
  lenToC : Option Nat := none
  deriving DecidableEq, Repr

/-- One core. -/
structure CoreSt where
  lists : Table ListSt := []
  /-- registers a0–a15 and c0–c15 -/
  a : Table Nat := []
  c : Table Nat := []
  /-- command memory, 64 KiB -/
  cmem : Memory := []
  /-- lists admitted, in run order, and those of them still to run -/
  admitted : List Nat := []
  todo : List Nat := []
  running : Option Nat := none
  seqNext : Nat := 0
  seqRetired : Nat := 0
  /-- issued, unretired commands in issue order -/
  cmds : List Cmd := []
  recvs : List Recv := []
  arrivals : List Send := []
  slots : Table GSlot := []
  slabs : Table Slab := []
  taps : Table Tap := []
  sets : Table SetHdr := []
  /-- statistics data, word 128 × set + 2i + w -/
  stats : Table Word := []
  galleys : Table Galley := []
  /-- sequence number of the command in or last in the F-array, B-array and row caster (CUR_SEQ) -/
  curSeq : Table Nat := []
  /-- last count and tag of each live counter (R446) -/
  live : Table (Nat × Nat) := []
  /-- unit holding the lane generators: 0 none, 1 F converter, 2 B converter, 3 row caster (R180); holders waiting,
  first come first -/
  laneHolder : Nat := 0
  laneWait : List Nat := []
  /-- tiles staged so far by the core's arrays, the order the converters take them in -/
  stamp : Nat := 0
  /-- the long registers of the F-array after its last pass, row-major (R81), and its escape buffers: operand A in 0 and 1,
  operand B in 2 and 3 (R80) -/
  longRegs : List LReg := []
  escapes : Table (List Nat) := []
  /-- a B command has begun to wait for the B-array (R98, R169) -/
  bWaits : Bool := false
  /-- SEED as PROBE_GO found it while the probe runs; CMEM_SRC and CMEM_DST of the load in progress -/
  probe : Option Nat := none
  cmemJob : Option (Nat × Nat) := none
  allRecast : Bool := false
  deriving DecidableEq, Repr

/-- A DMA descriptor in an engine's queue (R262). -/
structure DmaJob where
  core : Nat := 0
  seq : Nat := 0
  list : Nat := 0
  desc : List Byte := []
  bg : Bool := false
  deriving DecidableEq, Repr

/-- One DMA engine. -/
structure DmaSt where
  queue : List DmaJob := []
  running : Option DmaJob := none
  /-- 64-byte units, or tiles of a transposing copy, that the head descriptor has done -/
  done : Nat := 0
  curSeq : Nat := 0
  curCore : Nat := 0
  deriving DecidableEq, Repr

/-- A submit in a Platen's queue (R272), with its captured profile once it runs. -/
structure PlatenJob where
  core : Nat := 0
  seq : Nat := 0
  desc : List Byte := []
  deriving DecidableEq, Repr

/-- One Platen. -/
structure PlatenSt where
  queue : List PlatenJob := []
  running : Option PlatenJob := none
  /-- words of the profile captured when the running submit started -/
  profile : List Word := []
  phi : F32 := 0#32
  curSeq : Nat := 0
  curCore : Nat := 0
  /-- tiles of the running submit that are complete, and its norm sums so far (R279, R352) -/
  next : Nat := 0
  sp : F64 := 0#64
  sq : F64 := 0#64
  /-- submits that ended with an error, by core and sequence number, and no later DRAIN since (R275) -/
  failed : List (Nat × Nat) := []
  deriving DecidableEq, Repr

end Sys2Proof.Machine
end

