-- ==== Sys2Proof/Machine/HubTypes.lean ====
section
/-!
DEFINITION. Sys2Proof/Machine/HubTypes.lean: the state of the hub as plain data: page headers, error log, partitions and
their impressions, sessions, proofs, power and start-up.
-/
namespace Sys2Proof.Machine

/-- The common header of one page (Table 17-4). -/
structure Hdr where
  freezeMask : Bool := false
  enable : Bool := true
  raw : Word := 0#32
  en : Word := 0#32
  flag : Word := 0#32
  errCode : Nat := 0
  errInfo0 : Word := 0#32
  errInfo1 : Word := 0#32
  deriving DecidableEq, Repr

/-- One entry of the hub error log (Table 16-4). -/
structure LogEntry where
  time : Nat := 0
  page : Nat := 0
  code : Nat := 0
  info0 : Word := 0#32
  info1 : Word := 0#32
  impr : Nat := 0
  deriving DecidableEq, Repr

/-- Who writes a register, for the rules that name a writer and for R400: a session's slot, with the stream and the SEQ of its
request, or slot 8 for the bus and the debug port. -/
structure Writer where
  slot : Nat := 8
  stream : Nat := 0
  seq : Nat := 0
  deriving DecidableEq, Repr

/-- STATE of a partition's impressions (Table 2-3). -/
inductive PState
  | stopped | running | pause | halted
  deriving DecidableEq, Repr

/-- The code PSTATUS shows. -/
def PState.code : PState → Nat
  | .stopped => 0 | .running => 1 | .pause => 2 | .halted => 3

/-- Outcome of an announcement (R33). -/
inductive Outc
  | onTime | defer | halt
  deriving DecidableEq, Repr

/-- An announcement received for the current impression (R34, R35). -/
structure AnnRx where
  link : Nat := 0
  origin : Nat := 0
  num : Nat := 0
  out : Outc := .onTime
  m : Nat := 1
  /-- a second copy: it counts for its link and not otherwise -/
  copy : Bool := false
  deriving DecidableEq, Repr

/-- A die: claim, health, and the time of the last Gauge commit. DEDUCED, log entry 33. -/
structure DieSt where
  /-- partition that holds the die -/
  part : Option Nat := none
  unusable : Bool := false
  /-- cores out of reset -/
  live : Bool := false
  /-- step number of the last Gauge commit of the die's cores -/
  commitStep : Nat := 0
  /-- CORE_c point: current index, target, and whether the rail is rising toward it (R404) -/
  point : Nat := 0
  target : Nat := 0
  ramp : Bool := false
  deriving DecidableEq, Repr

/-- One event record (Table 13-5). -/
structure EvRec where
  page : Nat := 0
  bits : Word := 0#32
  code : Nat := 0
  info0 : Word := 0#32
  info1 : Word := 0#32
  impr : Nat := 0
  time : Nat := 0
  deriving DecidableEq, Repr

/-- Where a session's peer is: the source of the latest message accepted on it (R376, R378). -/
structure Peer where
  v6 : Bool := false
  ip : List Byte := []
  port : Nat := 0
  mac : List Byte := []
  /-- the VLAN ID of its 802.1Q tag -/
  vlan : Option Nat := none
  deriving DecidableEq, Repr

/-- A sequenced Railjor message the device sends (R378, R389). -/
structure RjMsg where
  seq : Nat := 0
  typ : Nat := 0
  flags : Nat := 0
  stream : Nat := 0
  payload : List Byte := []
  /-- later messages reported received while this one was not (R391) -/
  passed : Nat := 0
  deriving DecidableEq, Repr

/-- A transaction that occupies a stream (R381): its request's type and preamble, and bytes received. -/
structure Trans where
  stream : Nat := 0
  typ : Nat := 0
  addr : Nat := 0
  total : Nat := 0
  got : Nat := 0
  deriving DecidableEq, Repr

/-- One Railjor session slot (R389–R396). -/
structure Session where
  /-- 0 FREE, 1 OPENING, 2 OPEN -/
  state : Nat := 0
  id : Nat := 0
  /-- partition the session is bound to, 4 for none -/
  part : Nat := 4
  admin : Bool := false
  trust : Nat := 0
  evmask : Nat := 0
  permit : Nat := 0
  peer : Peer := {}
  /-- event records waiting to be sent, oldest first (R387) -/
  events : List EvRec := []
  /-- next SEQ of each direction; messages formed and not sent; sent and not acknowledged, oldest first -/
  txNext : Nat := 1
  rxNext : Nat := 1
  waiting : List RjMsg := []
  unacked : List RjMsg := []
  /-- messages accepted ahead of their turn, by SEQ -/
  ahead : List (Nat × List Byte) := []
  /-- arrivals since the last ACK sent; a CE mark since then -/
  pendAcks : Nat := 0
  ce : Bool := false
  cwnd : Nat := 0
  acked : Nat := 0
  window : Nat := 0
  /-- retransmission timeouts in a row -/
  backoff : Nat := 0
  trans : List Trans := []
  /-- while OPENING: OPEN_REQ and the CHALLENGE sent -/
  openReq : List Byte := []
  challenge : List Byte := []
  /-- the handshake's handle, and when the CHALLENGE was sent (R394) -/
  handle : Nat := 0
  since : Nat := 0
  /-- accepted requests that wait for an open transaction (R384), oldest first -/
  deferred : List (List Byte) := []
  deriving DecidableEq, Repr

/-- A handshake message being reassembled (R394): its sender, handle, bytes so far by offset, and bytes once LAST came. -/
structure Shake where
  peer : Peer := {}
  handle : Nat := 0
  bytes : Table (Option Byte) := []
  total : Option Nat := none
  deriving DecidableEq, Repr

/-- One partition: claim, impressions, and its share of the hub engines. -/
structure PartSt where
  /-- 0 UNCLAIMED, 1 CLAIMING, 2 CLAIMED (Table 13-9) -/
  claim : Nat := 0
  /-- die mask of the claim -/
  mask : Nat := 0
  maint : Bool := false
  state : PState := .stopped
  run : Bool := false
  /-- a start was accepted and START_TIME has not come (R39) -/
  starting : Bool := false
  num : Nat := 0
  step : Nat := 0
  pos : Nat := 0
  /-- multiplier in force, and the one announced for the next impression -/
  m : Nat := 0
  nextM : Nat := 1
  /-- deferrals of the current impression -/
  d : Nat := 0
  tickTime : Nat := 0
  nextTick : Nat := 0
  /-- the outcome announced for the current impression and round (R33) -/
  ann : Option Outc := none
  rx : List AnnRx := []
  /-- a combined HALT waits for the partition's own work to retire; true when R35 caused it -/
  halting : Option Bool := none
  /-- the lists of this impression have begun (R31) -/
  begun : Bool := false
  globalRecast : Bool := false
  /-- the announcement was formed after RUN was cleared (R39) -/
  stopAnn : Bool := false
  /-- the capture of a pause impression has been released (R347), and STATE once it is -/
  released : Bool := false
  afterCut : PState := .running
  /-- ring entries with EVT whose lists are still to end (Table 13-3) -/
  orders : List (List Byte) := []
  /-- the movers hold for a cut (R342) -/
  moversHeld : Bool := false
  /-- a LOAD restore is complete and no impression has begun since: engines, Platens and channels wait (R366) -/
  restored : Bool := false
  deriving DecidableEq, Repr

/-- A galley flit on VC2 of the mesh, with the galley that sent it (Table 9-2). -/
structure MeshFlit where
  core : Nat := 0
  galley : Nat := 0
  srcCore : Nat := 0
  srcGalley : Nat := 0
  flit : GFlit := {}
  deriving DecidableEq, Repr

/-- Galley credits on VC0, with the core that returns them. -/
structure MeshCredit where
  core : Nat := 0
  galley : Nat := 0
  n : Nat := 0
  srcCore : Nat := 0
  deriving DecidableEq, Repr

/-- STATE of a link (Table 11-4). -/
inductive LnState
  | disabled | training | hello | active | retrain | down
  deriving DecidableEq, Repr

def LnState.code : LnState → Nat
  | .disabled => 0 | .training => 1 | .hello => 2 | .active => 3 | .retrain => 4 | .down => 5

/-- A sequenced flit waiting for room or credit, or kept for replay: its words A and B and its payload. -/
structure LnFlit where
  kind : Nat := 3
  seq : Nat := 0
  wordA : Nat := 0
  wordB : Nat := 0
  payload : List Byte := []
  /-- times it has been resent (R299) -/
  resent : Nat := 0
  deriving DecidableEq, Repr

/-- One link, or trunk at its member 0 (R292–R314). Counters and measured values stand in its registers. -/
structure LinkSt where
  state : LnState := .disabled
  epoch : Nat := 0
  /-- epoch of the partner's latest HELLO -/
  rxEpoch : Nat := 0
  /-- the partner's HELLO has come, and one that confirms ours -/
  heard : Bool := false
  confirmed : Bool := false
  txSeq : Nat := 0
  rxNext : Nat := 0
  nak : Bool := false
  /-- sent and not acknowledged, oldest first; the ACK of the last NAK acted on -/
  retry : List LnFlit := []
  nakAt : Option Nat := none
  nakUntil : Nat := 0
  /-- formed and not yet sent -/
  waiting : List LnFlit := []
  /-- the link channel of the last data flit, and the galley and the collective that had the last turns (R302) -/
  lastLc : Nat := 2
  turn1 : Nat := 0
  turn2 : Nat := 0
  /-- flits of a trunk that arrived ahead of their turn on other members (R308) -/
  ahead : List LnFlit := []
  /-- who each member's HELLO came from: node, die and trunk of the partner, by link (R307) -/
  peers : Table Nat := []
  /-- twice the delay of each member's last accepted exchange, by link (R304) -/
  memberOwd : Table Int := []
  /-- credits granted to galleys that no galley here is set to send to yet: count by receiving core × 16 + galley (R240) -/
  grants : Table (Option Nat) := []
  /-- link-channel flits sent, and freed as the partner says; flits freed here, for LC1 and LC2 -/
  lcSent : Nat := 0
  lcFree : Nat := 0
  lcSent2 : Nat := 0
  lcFree2 : Nat := 0
  lcGone : Nat := 0
  lcGone2 : Nat := 0
  /-- GALLEY and COLL flits accepted and held undelivered (R343), and GALLEY_ABORT records behind them -/
  held : List LnFlit := []
  holding : Bool := false
  /-- an uncorrectable codeword touches the next flit to arrive (R290) -/
  hit : Bool := false
  /-- lanes locked in this attempt, and when its limit ends -/
  locked : Nat := 0
  deadline : Option Nat := none
  /-- ID of the next time exchange -/
  tsId : Nat := 0
  /-- time exchanges sent and unanswered: ID and T1 -/
  asked : List (Nat × Nat) := []
  /-- twice the delay, and the round trip, of the last accepted exchanges, newest first, at most sixteen -/
  owds : List Int := []
  rtts : List Int := []
  deriving DecidableEq, Repr

/-- One collective run on a channel (R315–R327). -/
structure CollRun where
  entry : Nat := 0
  arm : Nat := 0
  /-- the entry as read at the start -/
  ent : List Byte := []
  /-- the neighbour's COLL_START has come -/
  upReady : Bool := false
  downReady : Bool := false
  /-- data flits waiting for the neighbour's COLL_START, or for a cut to be over (R342) -/
  upWait : List LnFlit := []
  downWait : List LnFlit := []
  /-- received and unprocessed bytes, and bytes received, travelling up and down -/
  inUp : List Byte := []
  inDown : List Byte := []
  rUp : Nat := 0
  rDown : Nat := 0
  /-- bytes formed and not yet in a flit, and bytes sent, travelling up and down -/
  pendUp : List Byte := []
  pendDown : List Byte := []
  sUp : Nat := 0
  sDown : Nat := 0
  /-- own units done; units done that came from below; units done that came from above -/
  units : Nat := 0
  unitsUp : Nat := 0
  unitsDown : Nat := 0
  written : Nat := 0
  /-- permute: copied to scratch, READY seen from below, GO seen, tiles received (entry index and bytes so far) -/
  copied : Bool := false
  ready : Bool := false
  go : Bool := false
  tilesDone : List Nat := []
  /-- READY forwarded; the outgoing tiles sent; flits received and not yet taken, and whether they travel up -/
  told : Bool := false
  sent : Bool := false
  inFlits : List (Bool × LnFlit) := []
  done : Bool := false
  fail : Nat := 0
  deriving DecidableEq, Repr

/-- One collective engine. Ports: link 0–35 (a trunk by its member 0), and 36 + c for die c's engine. -/
structure CollSt where
  chans : Table (Option CollRun) := []
  arms : Table Nat := []
  kicks : Table Nat := []
  /-- entries fully kicked, in order, that wait for a channel -/
  ready : List Nat := []
  /-- COLL_START and COLL_WAVE records that came before their run: port and record -/
  early : List (Nat × List Byte) := []
  /-- on their way from another die's engine: port and flit -/
  inbox : List (Nat × LnFlit) := []
  /-- completion messages sent -/
  msgs : Nat := 0
  deriving DecidableEq, Repr

/-- A set of pages: those listed, or all but those listed. The list is rising. -/
structure PageSet where
  all : Bool := false
  but : List Nat := []
  deriving DecidableEq, Repr

def PageSet.has (s : PageSet) (p : Nat) : Bool := s.all != s.but.contains p

/-- A number put into a rising list. -/
def insertNat (x : Nat) : List Nat → List Nat
  | [] => [x]
  | y :: ys => if x < y then x :: y :: ys else if x = y then y :: ys else y :: insertNat x ys

def PageSet.add (s : PageSet) (p : Nat) : PageSet :=
  if s.all then { s with but := s.but.filter (· != p) } else { s with but := insertNat p s.but }

/-- Copy-on-write of one stack (R349, R350): DIRTY bits, the copy set, and where its pages stand. -/
structure CowSt where
  armed : Bool := false
  dirty : PageSet := {}
  copySet : PageSet := {}
  /-- SHADOWED pages and their shadow slots -/
  shadow : Table Nat := []
  done : List Nat := []
  /-- writes that wait, oldest first -/
  held : List (Nat × List Byte) := []
  deriving DecidableEq, Repr

/-- One frame of a generation (Table 12-6), with the die window that holds it. -/
structure FrameEnt where
  kind : Nat := 0
  unit : Nat := 0
  slot : Nat := 0
  index : Nat := 0
  fgen : Nat := 0
  win : Nat := 0
  frame : Nat := 0
  digest : List Byte := []
  deriving DecidableEq, Repr

/-- What a LOAD restore brings back of cores and engines (Table 12-1), and registers by key. -/
structure Snap where
  cores : Table CoreSt := []
  dmas : Table DmaSt := []
  platens : Table PlatenSt := []
  colls : Table CollSt := []
  regs : Table Word := []
  /-- partner of each link by link, node × 256 + die and link -/
  partners : Table Nat := []
  deriving DecidableEq, Repr

/-- The fields of a manifest header a generation takes at its cut (Table 12-3). -/
structure GenHdr where
  flags : Nat := 0
  parent : Nat := 0
  impr : Nat := 0
  step : Nat := 0
  pos : Nat := 0
  stepLen : Nat := 0
  period : Nat := 0
  cutTime : Nat := 0
  armTime : Nat := 0
  node : Nat := 0
  imprState : Nat := 0
  shape : List Byte := []
  firmware : List Byte := []
  deriving DecidableEq, Repr

/-- One generation slot (R355–R362). -/
structure GenSt where
  id : Nat := 0
  /-- 0 FREE, 1 COPYING, 2 SIGNING, 3 COMPLETE, 4 FAILED, 5 IMPORTING -/
  state : Nat := 0
  pinned : Bool := false
  drained : Bool := false
  cold : Bool := false
  mask : Nat := 0
  part : Nat := 0
  reason : Nat := 0
  code : Nat := 0
  /-- 0 not in use, 1 being drained, 2 being restored -/
  use : Nat := 0
  /-- the order asked for a drain -/
  drain : Bool := false
  hdr : GenHdr := {}
  frames : List FrameEnt := []
  /-- manifest frames, of window `manWin` -/
  manWin : Nat := 0
  man : List Nat := []
  records : List (List Byte) := []
  tdir : List Byte := []
  /-- what it holds of its cores that their control images do not spell -/
  snap : Table CoreSt := []
  /-- the manifest once written; signed when the state is COMPLETE -/
  manifest : List Byte := []
  deriving DecidableEq, Repr

/-- PHASE of a partition's proof (Table 12-15). -/
inductive Phase
  | idle | ordered | quiesce | capture | copy | sign | restore
  deriving DecidableEq, Repr

def Phase.code : Phase → Nat
  | .idle => 0 | .ordered => 1 | .quiesce => 2 | .capture => 3 | .copy => 4 | .sign => 5 | .restore => 6

/-- One partition's proof in progress. -/
structure ProofSt where
  phase : Phase := .idle
  cold : Bool := false
  drain : Bool := false
  pin : Bool := false
  immediate : Bool := false
  /-- the impression ordered, or the current one for an immediate cut -/
  b : Nat := 0
  cutTime : Nat := 0
  prior : Nat := 0
  /-- generation slot of the proof or restore -/
  slot : Nat := 0
  mode : Nat := 0
  /-- IMPORT: the session slot its data came on (8 before any); bytes received in all, and of the piece being received -/
  sess : Nat := 8
  got : Nat := 0
  buf : List Byte := []
  /-- an order stood when the restore began, and stands again when it is over -/
  keep : Bool := false
  deriving DecidableEq, Repr

/-- The drain in progress (R361): generation, session slot, stream offset reached and stream length. -/
structure DrainSt where
  gen : Nat := 0
  session : Nat := 0
  off : Nat := 0
  total : Nat := 0
  deriving DecidableEq, Repr

/-- Where something the module sends goes. -/
inductive Port
  | link (n : Nat)
  /-- a UDP payload, an ICMP or ICMPv6 message, or an ARP packet, to a peer -/
  | udp (peer : Peer) | icmp (peer : Peer) | arp (peer : Peer)
  | bmb | debug | dump
  deriving DecidableEq, Repr

/-- One thing the module has sent. DESIGN CHOICE, log entry 17. -/
structure Out where
  port : Port := .bmb
  bytes : List Byte := []
  deriving DecidableEq, Repr

/-- An entry of the measurement log (R431). -/
structure Meas where
  typ : Nat := 0
  info : Nat := 0
  digest : List Byte := []
  deriving DecidableEq, Repr

/-- The security processor and what it holds (Chapter 15). -/
structure Sec where
  /-- the chain value C and the measurement log, oldest first -/
  chain : List Byte := List.replicate 64 0#8
  log : List Meas := []
  /-- slot B booted; debug port open; recovered boot; signing withheld (R435) -/
  slotB : Bool := false
  debugOpen : Bool := false
  recovery : Bool := false
  signingOff : Bool := false
  /-- RESET_CAUSE: cause and warm resets since power-on -/
  cause : Nat := 0
  warmResets : Nat := 0
  /-- fuses: SVN, and revoked firmware keys (bit n for key n) -/
  fusedSvn : Nat := 0
  revoked : Nat := 0
  /-- the running image -/
  imageSvn : Nat := 0
  fwVersion : Nat := 0
  fwDigest : List Byte := List.replicate 64 0#8
  /-- firmware slots tried since the ROM started -/
  tried : Nat := 0
  /-- bytes of the flash written since manufacture, by target × 2^25 + offset -/
  flash : Table (Option Byte) := []
  /-- the image loaded in recovery -/
  image : Memory := []
  /-- ATT_CTL.GO reads 1; the report being signed, and the last report -/
  attGo : Bool := false
  attBody : List Byte := []
  attReport : List Byte := []
  deriving DecidableEq, Repr

/-- Power states (Table 14-3). -/
inductive PwrMode
  | off | standby | boot | ready | run | warmReset | tripped
  deriving DecidableEq, Repr

/-- Power, start-up, freeze and the debug port's own registers. DESIGN CHOICE, log entry 5. -/
structure Pow where
  mode : PwrMode := .boot
  /-- BOOT_STAGE: 0 ROM, 1 VERIFY, 2 TRAIN, 3 READY, 4 RECOVERY -/
  stage : Nat := 0
  vin : Nat := 44000
  pwrEn : Bool := true
  /-- VIN reached 40 V less than 5 ms ago; PWR_EN was asserted and BOOT waits for that (R492) -/
  fresh : Bool := false
  waiting : Bool := false
  hubRails : Bool := false
  dieRails : Bool := false
  /-- the next BOOT follows a cold reset -/
  cold : Bool := false
  /-- FAULT_N driven low; a unit failed training -/
  faultN : Bool := false
  unitFailed : Bool := false
  /-- READY was not reached within 3 s (R426) -/
  stuck : Bool := false
  /-- CORE_c of the claimed dies gated (R412) -/
  gated : Bool := false
  /-- step of Table 15-5 reached in a warm reset: 0 none, 1 at W, 2 DDR5 in self-refresh, 3 rails off -/
  warm : Nat := 0
  frozen : Bool := false
  /-- DDR5 in self-refresh by the freeze's refresh keeper (R455) -/
  keeper : Bool := false
  /-- F of the last freeze since power-on -/
  freezeTime : Nat := 0
  /-- debug port: instruction, boundary-scan cells, DBG_ADDR, DBG_DATA read out -/
  ir : Nat := 0xFF
  scan : List Byte := []
  driven : Bool := false
  dbgAddr : DWord := 0#64
  dbgData : Word := 0#32
  /-- DUMP_CTL: state 0 idle, 1 running, 2 done, 3 refused; what was asked; units sent; DUMP_BYTES -/
  dump : Nat := 0
  dumpAsk : Word := 0#32
  dumpUnits : Nat := 0
  dumpBytes : Nat := 0
  deriving DecidableEq, Repr

end Sys2Proof.Machine
end

