-- ==== Sys2Proof/Machine/State.lean ====
section
/-!
DEFINITION. Sys2Proof/Machine/State.lean: the state of the block as plain data, its reset value, and the reasons a step can
stop.
-/
namespace Sys2Proof.Machine

/-- Everything of the module but the security processor's own state and the queue of commands. -/
structure Dev where
  /-- registers that hold a word: key page × 4096 + offset; an unlisted one holds its reset value (R480) -/
  regs : Table Word := []
  /-- common headers by page index -/
  hdrs : Table Hdr := []
  /-- the hub error log, newest first, 256 entries kept (R449), and entries logged -/
  elog : List LogEntry := []
  elogWr : Nat := 0
  /-- HBM, the core SRAM windows and the DDR5 die windows, by address (R252) -/
  mem : Memory := []
  /-- 32-byte units that read uncorrectable, by first address (R219, R256, R261) -/
  ecc : List Nat := []
  /-- the time base in ns (R41), and the slew fraction carried (R42) -/
  time : Nat := 0
  timeFrac : Nat := 0
  dies : Table DieSt := []
  /-- temperature sensors in 0.25 degrees C: dies 0-3, stacks 4-11, hub 12; those that set a warning or a hot cap (R415) -/
  temps : Table Int := []
  warned : List Nat := []
  hots : List Nat := []
  parts : Table PartSt := []
  cores : Table CoreSt := []
  /-- messages in flight between message engines -/
  flights : List Send := []
  /-- DMA engines by 16 × die + engine, and background transfers that failed, by core and sequence number (R269) -/
  dmas : Table DmaSt := []
  bgFailed : List (Nat × Nat) := []
  /-- the DDR5 channels over which the contents of the die windows are laid out (R259) -/
  ddrLaid : List Nat := []
  platens : Table PlatenSt := []
  /-- galley flits and credits on the mesh -/
  vc2 : List MeshFlit := []
  vc0 : List MeshCredit := []
  links : Table LinkSt := []
  /-- copy-on-write by stack -/
  cows : Table CowSt := []
  colls : Table CollSt := []
  /-- twice the integral term of the time servo (R311) -/
  servo : Int := 0
  /-- what the module has sent, newest first -/
  out : List Out := []
  sessions : Table Session := []
  /-- sessions opened since reset (R394) -/
  opens : Nat := 0
  /-- handshakes being reassembled, at most eight (R394) -/
  shakes : List Shake := []
  /-- requests the security processor has to sign, in order of arrival (R436): 0 proof of a partition, 1 handshake of a
  session slot, 2 attestation -/
  signQ : List (Nat × Nat) := []
  /-- the MACsec words of the association number written before the present one, while it is accepted, and its lowest
  acceptable packet number (R377) -/
  oldSa : List Nat := []
  /-- proofs by partition; generation slots; the next generation number (R355) -/
  proofs : Table ProofSt := []
  gens : Table GenSt := []
  genNext : Nat := 1
  /-- parent of the next generation of a die mask (R356); generations completed since the last drained one (R361) -/
  parents : Table Nat := []
  sinceDrain : Table Nat := []
  /-- generations waiting for the drain, in order, and the drain in progress -/
  drainQ : List Nat := []
  drain : Option DrainSt := none
  /-- save areas that refuse writes while a proof captures and copies (R353) -/
  saveHold : List (Nat × Nat) := []
  /-- counters of what the hardware meters and no command tells, by key (R219, R256, R261, R282, R283, R290) -/
  meters : Table Nat := []
  /-- how many free values the run has used (Config.freeValue) -/
  freeCount : Nat := 0
  deriving DecidableEq, Repr

/-- The module: everything but the queue of commands. -/
structure Chip where
  dev : Dev := {}
  sec : Sec := {}
  pow : Pow := {}
  deriving DecidableEq, Repr

/-- The state of the block: the module, and the commands that wait, first in, first out. -/
structure State where
  chip : Chip := {}
  pending : List Instr := []
  deriving DecidableEq, Repr

/-- Why a step can stop for good. DESIGN CHOICE, log entry 83. -/
inductive Fault
  /-- Raised by the input and power commands whose operands lie outside the limits of the specification, where R6 gives no
  outcome. Safe: nothing is claimed of what follows. -/
  | outOfSpec
  deriving DecidableEq, Repr

/-- Why a command is refused. -/
inductive Refusal
  /-- A command of the table that has no meaning yet. No arm raises it. Safe. -/
  | notModelled (mnemonic : String)
  deriving DecidableEq, Repr

/-- The machine right after reset: power-on, time 0 of Table 15-2, every register at its reset value (R423, R480), nothing in
memory, no partition claimed, and no command waiting. DESIGN CHOICE, log entries 3 and 5. -/
def State.reset : State := {}

end Sys2Proof.Machine
end

