-- ==== Sys2Proof/Machine/Ops.lean ====
section
/-!
DEFINITION. Sys2Proof/Machine/Ops.lean: the named operations over the state's tables, registers and memory, and the
address map (R12, R13, R252).
-/
namespace Sys2Proof.Machine

/-! ### Tables -/

def Dev.core (d : Dev) (k : Nat) : CoreSt := tget {} d.cores k
def Dev.setCore (d : Dev) (k : Nat) (c : CoreSt) : Dev := { d with cores := tset {} d.cores k c }
def Dev.modCore (d : Dev) (k : Nat) (f : CoreSt → CoreSt) : Dev := d.setCore k (f (d.core k))
def Dev.die (d : Dev) (c : Nat) : DieSt := tget {} d.dies c
def Dev.modDie (d : Dev) (c : Nat) (f : DieSt → DieSt) : Dev := { d with dies := tset {} d.dies c (f (d.die c)) }
def Dev.part (d : Dev) (p : Nat) : PartSt := tget {} d.parts p
def Dev.modPart (d : Dev) (p : Nat) (f : PartSt → PartSt) : Dev := { d with parts := tset {} d.parts p (f (d.part p)) }
def Dev.dma (d : Dev) (i : Nat) : DmaSt := tget {} d.dmas i
def Dev.modDma (d : Dev) (i : Nat) (f : DmaSt → DmaSt) : Dev := { d with dmas := tset {} d.dmas i (f (d.dma i)) }
def Dev.platen (d : Dev) (i : Nat) : PlatenSt := tget {} d.platens i
def Dev.modPlaten (d : Dev) (i : Nat) (f : PlatenSt → PlatenSt) : Dev :=
  { d with platens := tset {} d.platens i (f (d.platen i)) }
def Dev.hdr (d : Dev) (page : Nat) : Hdr := tget {} d.hdrs page
def Dev.modHdr (d : Dev) (page : Nat) (f : Hdr → Hdr) : Dev := { d with hdrs := tset {} d.hdrs page (f (d.hdr page)) }

def Dev.link (d : Dev) (n : Nat) : LinkSt := tget {} d.links n
def Dev.modLink (d : Dev) (n : Nat) (f : LinkSt → LinkSt) : Dev :=
  { d with links := tset {} d.links n (f (d.link n)) }
def Dev.coll (d : Dev) (c : Nat) : CollSt := tget {} d.colls c
def Dev.modColl (d : Dev) (c : Nat) (f : CollSt → CollSt) : Dev :=
  { d with colls := tset {} d.colls c (f (d.coll c)) }
def Dev.cow (d : Dev) (st : Nat) : CowSt := tget {} d.cows st
def Dev.modCow (d : Dev) (st : Nat) (f : CowSt → CowSt) : Dev := { d with cows := tset {} d.cows st (f (d.cow st)) }
/-- Something leaves the module. DESIGN CHOICE, log entry 17. -/
def Dev.send (d : Dev) (p : Port) (bs : List Byte) : Dev := { d with out := ⟨p, bs⟩ :: d.out }

def Dev.sess (d : Dev) (i : Nat) : Session := tget {} d.sessions i
def Dev.modSess (d : Dev) (i : Nat) (f : Session → Session) : Dev :=
  { d with sessions := tset {} d.sessions i (f (d.sess i)) }

def Dev.proof (d : Dev) (p : Nat) : ProofSt := tget {} d.proofs p
def Dev.modProof (d : Dev) (p : Nat) (f : ProofSt → ProofSt) : Dev :=
  { d with proofs := tset {} d.proofs p (f (d.proof p)) }
def Dev.gen (d : Dev) (i : Nat) : GenSt := tget {} d.gens i
def Dev.modGen (d : Dev) (i : Nat) (f : GenSt → GenSt) : Dev := { d with gens := tset {} d.gens i (f (d.gen i)) }

/-- Descriptors an engine's queue of 64 holds: the running one is its head (R262, Table 12-8). DEDUCED, log entry 42. -/
def DmaSt.accepted (x : DmaSt) : Nat := x.queue.length + b2n x.running.isSome

def CoreSt.list (c : CoreSt) (l : Nat) : ListSt := tget {} c.lists l
def CoreSt.modList (c : CoreSt) (l : Nat) (f : ListSt → ListSt) : CoreSt :=
  { c with lists := tset {} c.lists l (f (c.list l)) }
def CoreSt.slot (c : CoreSt) (i : Nat) : GSlot := tget {} c.slots i
def CoreSt.modSlot (c : CoreSt) (i : Nat) (f : GSlot → GSlot) : CoreSt :=
  { c with slots := tset {} c.slots i (f (c.slot i)) }
def CoreSt.slab (c : CoreSt) (i : Nat) : Slab := tget {} c.slabs i
def CoreSt.modSlab (c : CoreSt) (i : Nat) (f : Slab → Slab) : CoreSt :=
  { c with slabs := tset {} c.slabs i (f (c.slab i)) }
def CoreSt.tap (c : CoreSt) (i : Nat) : Tap := tget {} c.taps i
def CoreSt.modTap (c : CoreSt) (i : Nat) (f : Tap → Tap) : CoreSt := { c with taps := tset {} c.taps i (f (c.tap i)) }
def CoreSt.setHdr (c : CoreSt) (i : Nat) : SetHdr := tget {} c.sets i
def CoreSt.modSet (c : CoreSt) (i : Nat) (f : SetHdr → SetHdr) : CoreSt :=
  { c with sets := tset {} c.sets i (f (c.setHdr i)) }
def CoreSt.galley (c : CoreSt) (g : Nat) : Galley := tget {} c.galleys g
def CoreSt.modGalley (c : CoreSt) (g : Nat) (f : Galley → Galley) : CoreSt :=
  { c with galleys := tset {} c.galleys g (f (c.galley g)) }
def CoreSt.areg (c : CoreSt) (i : Nat) : Nat := tget 0 c.a i
def CoreSt.creg (c : CoreSt) (i : Nat) : Nat := tget 0 c.c i
/-- Address registers have 48 bits and count registers 32; both wrap. -/
def CoreSt.setA (c : CoreSt) (i v : Nat) : CoreSt := { c with a := tset 0 c.a i (v % 2 ^ 48) }
def CoreSt.setC (c : CoreSt) (i v : Nat) : CoreSt := { c with c := tset 0 c.c i (v % 2 ^ 32) }
/-- Replace the command of a sequence number. -/
def CoreSt.modCmd (c : CoreSt) (seq : Nat) (f : Cmd → Cmd) : CoreSt :=
  { c with cmds := c.cmds.map fun x => if x.seq == seq then f x else x }
def CoreSt.cmd? (c : CoreSt) (seq : Nat) : Option Cmd := c.cmds.find? fun x => x.seq == seq

/-! ### Registers -/

/-- Key of a register in the register table. -/
def regKey (page off : Nat) : Nat := page * 4096 + off

/-- The word a register holds. -/
def Dev.reg (d : Dev) (page off : Nat) : Nat :=
  (tget (BitVec.ofNat 32 (resetWord page off)) d.regs (regKey page off)).toNat

/-- A register set to a word. -/
def Dev.setReg (d : Dev) (page off w : Nat) : Dev :=
  { d with regs := tset (BitVec.ofNat 32 (resetWord page off)) d.regs (regKey page off) (BitVec.ofNat 32 w) }

/-- A 64-bit register. -/
def Dev.reg64 (d : Dev) (page off : Nat) : Nat := d.reg page off + 2 ^ 32 * d.reg page (off + 4)

/-- A 64-bit register set. -/
def Dev.setReg64 (d : Dev) (page off v : Nat) : Dev := (d.setReg page off v).setReg page (off + 4) (v / 2 ^ 32)

/-- A saturating 32-bit counter advanced by `n` (R480). -/
def Dev.bump (d : Dev) (page off n : Nat) : Dev :=
  if n = 0 then d else d.setReg page off (sat 32 (d.reg page off + n))

/-- A 64-bit counter advanced by `n`. -/
def Dev.bump64 (d : Dev) (page off n : Nat) : Dev :=
  if n = 0 then d else d.setReg64 page off ((d.reg64 page off + n) % 2 ^ 64)

/-- A pair of 16-bit saturating counters in one register: the high half advanced. -/
def Dev.bumpHi (d : Dev) (page off n : Nat) : Dev :=
  let w := d.reg page off
  d.setReg page off (sat 16 (w / 2 ^ 16 + n) * 2 ^ 16 + w % 2 ^ 16)

/-- The low half advanced. -/
def Dev.bumpLo (d : Dev) (page off n : Nat) : Dev :=
  let w := d.reg page off
  d.setReg page off (w / 2 ^ 16 * 2 ^ 16 + sat 16 (w % 2 ^ 16 + n))

/-- The registers of [off, off + n) of a page back to their reset values. -/
def Dev.resetRegs (d : Dev) (page off n : Nat) : Dev := { d with regs := tclear d.regs (regKey page off) n }

/-! ### Places (R12, R13, R17) -/

/-- Cores of the module. -/
def numCores : Nat := 1152

/-- The compute die of a core (R13). -/
def coreDie (k : Nat) : Nat := 2 * (k / 48 / 12) + k % 48 / 24

/-- Local index of a core within its die (R13). -/
def coreLocal (k : Nat) : Nat := (k / 48 % 12) * 24 + k % 48 % 24

/-- The core at local index i of die c. -/
def coreAt (c i : Nat) : Nat := (12 * (c / 2) + i / 24) * 48 + 24 * (c % 2) + i % 24

/-- The cores of a die, rising. -/
def dieCores (c : Nat) : List Nat := (List.range 288).map (coreAt c)

/-- The partition that owns a core. -/
def Dev.partOf (d : Dev) (k : Nat) : Option Nat := (d.die (coreDie k)).part

/-- Is die c in partition p? -/
def Dev.owns (d : Dev) (p c : Nat) : Bool := decide (c < 4) && ((d.die c).part == some p)

/-- The dies of a partition. -/
def Dev.diesOf (d : Dev) (p : Nat) : List Nat := (List.range 4).filter (d.owns p ·)

/-- Is core k in partition p? -/
def Dev.ownsCore (d : Dev) (p k : Nat) : Bool := decide (k < numCores) && d.owns p (coreDie k)

/-- Every core the state lists that belongs to partition p, with its number. -/
def Dev.coresOf (d : Dev) (p : Nat) : List Nat := (d.cores.map (·.1)).filter (d.ownsCore p ·)

/-- What any reset leaves of a core: the statistics data keep their contents (R170). -/
def CoreSt.atReset (c : CoreSt) : CoreSt := { stats := c.stats }

/-- The cores of a table that `mine` picks are reset. -/
def resetTable (mine : Nat → Bool) (t : Table CoreSt) : Table CoreSt :=
  (t.map fun x => (x.1, if mine x.1 then x.2.atReset else x.2)).filter fun x => !mine x.1 || !x.2.stats.isEmpty

/-- Every core of partition p. -/
def Dev.coresIn (d : Dev) (p : Nat) : List Nat := (d.diesOf p).flatMap dieCores

/-- Bytes of one stack, of one core's case, and of one DDR5 die window. -/
def stackBytes : Nat := 0x1400000000
def caseBytes : Nat := 0x200000
def ddrWindow : Nat := 0x10000000000
/-- First address of the DDR5 region and of the SRAM windows. -/
def ddrBase : Nat := 0x100000000000
def sramBase : Nat := 0x200000000000

/-- Base of core k's window (R12). -/
def caseBase (k : Nat) : Nat := sramBase + k * caseBytes

/-- GiB of the DIMM in channel n, as found at training (0 when unpopulated): `DDR.CAP` [15:0] while POPULATED. -/
def Dev.dimm (d : Dev) (n : Nat) : Nat := if bit (d.reg (pgDdr n) 0x100) 31 then d.reg (pgDdr n) 0x100 % 2 ^ 16 else 0

/-- Populated home channels of die c (R18, R257). -/
def Dev.homeChannels (d : Dev) (c : Nat) : List Nat := ([3 * c, 3 * c + 1, 3 * c + 2]).filter fun n => d.dimm n != 0

/-- The mapped extent of die window c in bytes: P × C (R258). -/
def Dev.ddrMapped (d : Dev) (c : Nat) : Nat :=
  match (d.homeChannels c).map d.dimm with
  | [] => 0
  | x :: xs => (xs.length + 1) * (xs.foldl min x) * 2 ^ 30

/-- The proof reserve of die window c: the top RES_FRAMES_c frames of 2 MiB (R260, R268). -/
def Dev.ddrReserve (d : Dev) (c : Nat) : Nat × Nat :=
  let n := min (d.ddrMapped c) (d.reg pgProof (0x110 + 4 * c) * 2 ^ 21)
  (ddrBase + c * ddrWindow + d.ddrMapped c - n, n)

/-- A region of the address map: first address and length. -/
abbrev Region := Nat × Nat

/-- The regions a command of core k reaches: its case and the HBM stacks of its partition (R211). -/
def Dev.cmdRegions (d : Dev) (k : Nat) : List Region :=
  (caseBase k, caseBytes) ::
  (match d.partOf k with
   | none => []
   | some p => (d.diesOf p).flatMap fun c =>
      [(2 * c * stackBytes, stackBytes), ((2 * c + 1) * stackBytes, stackBytes)])

/-- The regions of a partition's DMA (R264). -/
def Dev.dmaRegions (d : Dev) (p : Nat) : List Region :=
  (d.diesOf p).flatMap fun c =>
    [(2 * c * stackBytes, stackBytes), ((2 * c + 1) * stackBytes, stackBytes)] ++
    (if d.ddrMapped c = 0 then [] else [(ddrBase + c * ddrWindow, d.ddrMapped c)]) ++
    (dieCores c).map fun k => (caseBase k, caseBytes)

/-- Where a range stands against a list of regions: the region that holds its first byte, or none. -/
def findRegion (rs : List Region) (a : Nat) : Option Region := rs.find? fun r => decide (r.1 ≤ a ∧ a < r.1 + r.2)

/-- Outcome of a range check (R211): inside; passing its region's end (0x0102); starting in no region (0x0103). -/
def rangeCode (rs : List Region) (a len : Nat) : Nat :=
  match findRegion rs a with
  | none => 0x0103
  | some r => if r.1 + r.2 < a + len then 0x0102 else 0

/-- The range lies within one region. -/
def inRegions (rs : List Region) (a len : Nat) : Bool := rangeCode rs a len == 0

/-- The stack that holds an HBM address. -/
def stackOf (a : Nat) : Nat := a / stackBytes

/-- Does [a, a+n) share a byte with [b, b+m)? -/
def overlaps (a n b m : Nat) : Bool := decide (a < b + m ∧ b < a + n)

/-- A range lies in a save area that refuses writes (R353). -/
def Dev.inHold (d : Dev) (a n : Nat) : Bool := n != 0 && d.saveHold.any fun h => overlaps a n h.1 h.2

/-- State of a die-to-die port (R485): registers of port `q` of die c, beside the window that shows the selected one. -/
def d2dKey (q off : Nat) : Nat := 0x800 + 0x40 * q + off
def Dev.d2d (d : Dev) (c q : Nat) : Nat := d.reg (pgD2d c) (d2dKey q 8)
def Dev.setD2d (d : Dev) (c q v : Nat) : Dev := d.setReg (pgD2d c) (d2dKey q 8) v

/-- The ports a flit crosses from die a to die b are ACTIVE (R14, R484). -/
def Dev.meshOpen (d : Dev) (a b : Nat) : Bool :=
  (!bit (a ^^^ b) 0 || d.d2d a 0 == 2) && (!bit (a ^^^ b) 1 || d.d2d (b % 2 + a / 2 * 2) 1 == 2)

/-! ### Memory -/

/-- The bytes `bs` at address `a` with the part that a write covers as it writes it. -/
def overlay (a : Nat) (bs : List Byte) (h : Nat × List Byte) : List Byte :=
  bs.mapIdx fun i b => if h.1 ≤ a + i then h.2.getD (a + i - h.1) b else b

/-- Writes that copy-on-write holds, oldest first (R350). DEDUCED, log entry 92. -/
def Dev.heldWrites (d : Dev) : List (Nat × List Byte) := d.cows.flatMap fun x => x.2.held

/-- `n` bytes at address `a`. A read is never delayed and returns live contents: those that a held write puts there too
(R350). DEDUCED, log entry 92. -/
def Dev.read (d : Dev) (a n : Nat) : List Byte := d.heldWrites.foldl (overlay a) (d.mem.read a n)

/-- A number of `n` bytes at address `a`, little-endian. -/
def Dev.readNat (d : Dev) (a n : Nat) : Nat := leNat (d.read a n)

/-- Bytes put at address `a`; a written unit reads good again (R256). DESIGN CHOICE, log entry 16. -/
def Dev.poke (d : Dev) (a : Nat) (bs : List Byte) : Dev :=
  { d with mem := d.mem.write a bs, ecc := d.ecc.filter fun u => !overlaps u 32 a bs.length }

/-- Bytes of a page, and pages of a stack (R349). -/
def pageBytes : Nat := 0x200000
def stackPages : Nat := 40960

/-- Pages of its stack that a range touches. -/
def pagesOf (a n : Nat) : List Nat :=
  let o := a % stackBytes
  if n = 0 then [] else (List.range ((o + n - 1) / pageBytes + 1 - o / pageBytes)).map (o / pageBytes + ·)

/-- The page lies in the shadow reserve of its stack (R353). -/
def Dev.inReserve (d : Dev) (st p : Nat) : Bool :=
  let base := d.reg (pgHbmc st) 0x184 % 2 ^ 16
  decide (base ≤ p ∧ p < base + d.reg (pgHbmc st) 0x188 % 2 ^ 16)

/-- Image pages of a stack (R353, R357). -/
def Dev.imagePages (d : Dev) (st : Nat) : List Nat := (List.range stackPages).filter fun q => !d.inReserve st q

/-- Image pages of a stack in a page set: the reserve is never DIRTY and never copied (R349, R353). -/
def Dev.imageCount (d : Dev) (st : Nat) (s : PageSet) : Nat := ((d.imagePages st).filter s.has).length

/-- The page is PENDING: in the copy set, not shadowed and not copied (R349). -/
def CowSt.pending (c : CowSt) (p : Nat) : Bool :=
  c.armed && c.copySet.has p && !(c.shadow.any fun s => s.1 == p) && !c.done.contains p

/-- A write of these pages must wait (R350): a page is PENDING, or an earlier write to one waits. -/
def CowSt.mustHold (c : CowSt) (ps : List Nat) : Bool :=
  ps.any fun p => c.pending p || c.held.any fun h => (pagesOf h.1 h.2.length).contains p

/-- A write to HBM: it sets DIRTY, and waits where copy-on-write holds it (R349, R350). -/
def Dev.writeHbm (d : Dev) (a : Nat) (bs : List Byte) : Dev :=
  let st := stackOf a
  let ps := (pagesOf a bs.length).filter fun p => !d.inReserve st p
  let d := if ps.isEmpty then d else d.modCow st fun c => { c with dirty := ps.foldl PageSet.add c.dirty }
  if (d.cow st).mustHold ps then d.modCow st fun c => { c with held := c.held ++ [(a, bs)] } else d.poke a bs

/-- Bytes written at address `a`. -/
def Dev.write (d : Dev) (a : Nat) (bs : List Byte) : Dev := if a < ddrBase then d.writeHbm a bs else d.poke a bs

/-- A write that waits overlaps the range. -/
def Dev.heldWrite (d : Dev) (a n : Nat) : Bool := d.heldWrites.any fun h => overlaps h.1 h.2.length a n

/-- Some write into the HBM of partition p waits. -/
def Dev.anyHeld (d : Dev) (p : Nat) : Bool :=
  (d.diesOf p).any fun c => !(d.cow (2 * c)).held.isEmpty || !(d.cow (2 * c + 1)).held.isEmpty

/-- Units that read uncorrectable, but those that a held write makes good. DESIGN CHOICE, log entry 16;
DEDUCED, log entry 92. -/
def Dev.badUnits (d : Dev) : List Nat := d.ecc.filter fun u => !d.heldWrites.any fun h => overlaps u 32 h.1 h.2.length

/-- Does a range read uncorrectable?. DESIGN CHOICE, log entry 16. -/
def Dev.bad (d : Dev) (a n : Nat) : Bool := d.badUnits.any fun u => overlaps u 32 a n

/-- The first bad unit of a range. -/
def Dev.badAt (d : Dev) (a n : Nat) : Option Nat := d.badUnits.find? fun u => overlaps u 32 a n

/-- The first bad unit of a range as it is stored, whatever waits to be written. -/
def Dev.storedBad (d : Dev) (a n : Nat) : Option Nat := d.ecc.find? fun u => overlaps u 32 a n

/-- Stored bytes copied elsewhere; a unit written so reads good again. -/
def Dev.moveBytes (d : Dev) (src dst n : Nat) : Dev :=
  { d with mem := d.mem.copy src dst n, ecc := d.ecc.filter fun u => !overlaps u 32 dst n }

/-- One free value (Config.freeValue), and the state with it used. DESIGN CHOICE, log entry 6. -/
def Dev.free (d : Dev) : DWord × Dev := (Config.freeValue d.freeCount, { d with freeCount := d.freeCount + 1 })

/-! ### Partition registers of the impressions (Table 2-3) -/

/-- A register of partition p's IMPR set. -/
def Dev.impr (d : Dev) (p off : Nat) : Nat := d.reg pgImpr (0x100 + 0x80 * p + off)

/-- PERIOD, GUARD, STEPLEN of a partition. -/
def Dev.period (d : Dev) (p : Nat) : Nat := d.impr p 0x04
def Dev.guardNs (d : Dev) (p : Nat) : Nat := d.impr p 0x08
def Dev.stepLen (d : Dev) (p : Nat) : Nat := d.impr p 0x10
/-- STRETCH.MAX and STRETCH.RECAST. -/
def Dev.stretchMax (d : Dev) (p : Nat) : Nat := d.impr p 0x0C % 8
def Dev.stretchRecast (d : Dev) (p : Nat) : Nat := bits (d.impr p 0x0C) 6 4

/-- The impression and step numbers the cores of partition p see. -/
def Dev.imprNum (d : Dev) (k : Nat) : Nat := match d.partOf k with | some p => (d.part p).num | none => 0
def Dev.imprStep (d : Dev) (k : Nat) : Nat := match d.partOf k with | some p => (d.part p).step | none => 0

/-- Serial-number arithmetic in a 2^(w−1) window (R43, R44): b later than a. DEDUCED, log entry 35. -/
def serialLater (w a b : Nat) : Bool :=
  let diff := (b + 2 ^ w - a % 2 ^ w) % 2 ^ w
  decide (1 ≤ diff ∧ diff < 2 ^ (w - 1))

/-- b is exactly half the range from a, and so stale (R43). DEDUCED, log entry 35. -/
def serialStale (w a b : Nat) : Bool := (b + 2 ^ w - a % 2 ^ w) % 2 ^ w == 2 ^ (w - 1)

end Sys2Proof.Machine
end

