-- ==== Sys2Proof/Machine/Flags.lean ====
section
/-!
DEFINITION. Sys2Proof/Machine/Flags.lean: event bits, error fields, the hub error log and the event records sessions
receive (R387, R448, R449, R475–R477).
-/
namespace Sys2Proof.Machine

/-- Which bit of EVMASK selects a page for a session of partition `p` (R387). -/
def Dev.evSelect (d : Dev) (p page : Nat) : Option Nat :=
  if page < 0x100 then some 2
  else if page < 0x200 then (if d.owns p ((page - 0x100) / 0x40) then some 1 else none)
  else if 0x20000 ≤ page then (if d.ownsCore p ((page - 0x20000) / 8) then some 0 else none)
  else none

/-- The session can send an event message now: its window and congestion window are open (R387). -/
def Session.windowOpen (s : Session) : Bool := s.waiting.isEmpty && decide (s.unacked.length < min s.window s.cwnd)

/-- Put a record into a session's pending records: one per page while the window is closed (R387). The count says
whether a record was merged. -/
def Session.addEvent (s : Session) (r : EvRec) : Session × Nat :=
  if !s.windowOpen && s.events.any (fun e => e.page == r.page) then
    let w := (s.events.filter fun e => e.page == r.page).foldl (fun w e => w ||| e.bits) r.bits
    ({ s with events := (s.events.filter fun e => e.page != r.page) ++ [{ r with bits := w }] }, 1)
  else ({ s with events := s.events ++ [r] }, 0)

/-- The streams a session occupies (R381): of open transactions, of requests that wait their turn, and of responses whose
LAST message is not sent. DEDUCED, log entry 70. -/
def Session.busyStreams (s : Session) : List Nat :=
  (s.trans.map (·.stream) ++
    (s.deferred.filter fun m => bit (field m 2 2) 6 && field m 1 1 != 7).map (fun m => field m 0x14 4) ++
    (s.waiting.filter fun m => bit m.flags 7).map (·.stream)).eraseDups

/-- Offset of EVT_MERGED of a session slot in the register table; the window of Table 13-9 shows the selected slot. -/
def evMergedKey (slot : Nat) : Nat := 0x800 + 4 * slot

/-- Impression number of the partition a page belongs to, 0 outside any (Table 16-4). -/
def Dev.pageImpr (d : Dev) (page : Nat) : Nat :=
  if 0x20000 ≤ page then d.imprNum ((page - 0x20000) / 8)
  else if 0x100 ≤ page ∧ page < 0x200 then
    (match (d.die ((page - 0x100) / 0x40)).part with | some p => (d.part p).num | none => 0)
  else 0

/-- A rise of a flag bit is noted to every session that selects the page (R387). -/
def Dev.notify (d : Dev) (page : Nat) (w : Word) : Dev :=
  let h := d.hdr page
  (List.range 8).foldl (fun d i =>
    let s := d.sess i
    if s.state = 2 then
      match d.evSelect s.part page with
      | some b =>
        if bit s.evmask b then
          let r := s.addEvent ⟨page, w, h.errCode, h.errInfo0, h.errInfo1, d.pageImpr page, d.time⟩
          (d.modSess i fun _ => r.1).bump pgRailjor (evMergedKey i) r.2
        else d
      | none => d
    else d) d

/-- Raise event bit b of a page (R475): EVT_RAW, and EVT_FLAG where enabled, with its record. -/
def Dev.raise (d : Dev) (page b : Nat) : Dev :=
  let h := d.hdr page
  let w : Word := BitVec.ofNat 32 (2 ^ b)
  let rises := bit h.en.toNat b && !bit h.flag.toNat b
  let d := d.modHdr page fun h =>
    { h with raw := h.raw ||| w, flag := if bit h.en.toNat b then h.flag ||| w else h.flag }
  if rises then d.notify page w else d

/-- Raise an event when a condition holds. -/
def Dev.raiseIf (d : Dev) (c : Bool) (page b : Nat) : Dev := if c then d.raise page b else d

/-- The page assigns bit 0 to ERROR (R476). -/
def hasErrorBit (page : Nat) : Bool :=
  match pageType page with
  | 0 | 1 | 3 | 7 | 13 | 0x10 | 0x11 => false
  | _ => true

/-- Set an error on a page (R448, R449, R476): its fields, its ERROR event, and an entry of the hub log. -/
def Dev.setError (d : Dev) (page code info0 info1 : Nat) : Dev :=
  let i0 : Word := BitVec.ofNat 32 info0
  let i1 : Word := BitVec.ofNat 32 info1
  let d := d.modHdr page fun h => { h with errCode := code, errInfo0 := i0, errInfo1 := i1 }
  let d := d.raiseIf (hasErrorBit page) page 0
  let e : LogEntry := ⟨d.time, page, code, i0, i1, d.pageImpr page⟩
  let d := { d with elog := (e :: d.elog).take 256, elogWr := (d.elogWr + 1) % 2 ^ 32 }
  d.raise pgDbg 1

/-- An uncorrectable read is counted where it happened (R219, R256): in the case's core, or in the stack with its
address and event. -/
def Dev.noteUncorr (d : Dev) (u : Nat) : Dev :=
  if sramBase ≤ u then d.bumpHi (pgCore ((u - sramBase) / caseBytes)) 0x128 1
  else if u < ddrBase then
    let pg := pgHbmc (stackOf u)
    (((d.bump pg 0x110 1).setReg64 pg 0x118 u).raise pg 2)
  else d

/-- Set an error given as a record. -/
def Dev.setErr (d : Dev) (e : ErrRec) : Dev :=
  (match e.ue with | some u => d.noteUncorr u | none => d).setError e.page e.code e.info0 e.info1

/-- An error record. -/
def errOn (page code info0 seq : Nat) : ErrRec := { page, code, info0, info1 := seq }

end Sys2Proof.Machine
end

