-- ==== Sys2Proof/Machine/Meter.lean ====
section
/-!
DEFINITION. Sys2Proof/Machine/Meter.lean: the counters of what the hardware meters and no command tells: bytes moved, corrected
reads and codewords, flits of routers, energy (R219, R256, R261, R282, R283, R290, R459, R485). They count in TIME cycles, by free
amounts; resets set them to 0 as they do every counter.
-/
namespace Sys2Proof.Machine

/-- Key of a metered counter: its page, the part of the page it is shown for, and its offset. -/
def meterKey (page sel off : Nat) : Nat := page * 2 ^ 24 + sel * 4096 + off

/-- Counters of corrected reads with an event (R286): ECC_CORR of the HBMC and DDR pages. -/
def meterCorr : List (Nat × Nat) :=
  ((List.range 12).map fun n => (pgDdr n, 0x110)) ++ (List.range 8).map fun st => (pgHbmc st, 0x10C)

/-- The metered counters of die c. -/
def dieMeters (c : Nat) : List Nat :=
  ((List.range 288).flatMap fun r => [0x10C, 0x110, 0x118, 0x120, 0x128, 0x130].map (meterKey (pgMesh c) r)) ++
  ([2 * c, 2 * c + 1].flatMap fun st => [0x10C, 0x120, 0x128, 0x130].map (meterKey (pgHbmc st) 0)) ++
  ((List.range 9).flatMap fun i => [0x120, 0x128].map (meterKey (pgLink (9 * c + i)) 0)) ++
  (List.range 3).flatMap fun q => [0x10C, 0x110, 0x118, 0x120].map (meterKey (pgD2d c) q)

/-- Every metered counter by key, rising. -/
def meterKeys : List Nat :=
  ((List.range 4).map fun c => meterKey pgGov 0 (0x148 + 0x20 * c)) ++ [meterKey pgPwr 0 0x118] ++
  ((List.range 12).flatMap fun n => [0x110, 0x120, 0x128].map (meterKey (pgDdr n) 0)) ++
  [0x144, 0x148, 0x150].map (meterKey pgEth 0) ++
  (List.range 4).flatMap dieMeters ++
  (List.range numCores).map fun k => meterKey (pgCore k) 0 0x128

/-- What a metered counter has counted. DESIGN CHOICE, log entry 10. -/
def Dev.metered (d : Dev) (page sel off : Nat) : Nat := tget 0 d.meters (meterKey page sel off)

/-- What a metered counter counts in the present cycle. DESIGN CHOICE, log entry 10. -/
def Dev.metering (d : Dev) (key : Nat) : Nat := (Config.metered key d.freeCount).toNat

/-- The metered counters of a range of pages back to 0. -/
def Dev.clearMeters (d : Dev) (page n : Nat) : Dev := { d with meters := tclear d.meters (meterKey page 0 0) (n * 2 ^ 24) }

/-- One cycle of the meters: each counts a free amount; a corrected read raises its event (R286); on a link whose
FEC found an uncorrectable codeword, the next flit is touched by it (R290). DESIGN CHOICE, log entry 10. -/
def Dev.meterCycle (d : Dev) : Dev :=
  let next : Table Nat := (meterKeys.map fun k => (k, tget 0 d.meters k + d.metering k)).filter fun x => x.2 != 0
  let hit := (List.range 36).filter fun n => d.metering (meterKey (pgLink n) 0 0x128) != 0
  let e : Dev := { d with meters := next, freeCount := d.freeCount + 1 }
  let e := hit.foldl (fun e n => e.modLink n fun s => { s with hit := true }) e
  meterCorr.foldl (fun e x => e.raiseIf (d.metering (meterKey x.1 0 x.2) != 0) x.1 1) e

end Sys2Proof.Machine
end

