-- ==== Sys2Proof/Machine/LinkTx.lean ====
section
/-!
DEFINITION. Sys2Proof/Machine/LinkTx.lean: the sending side of the Skovger links: trunks (R307, R308), flits and CRC (R292),
records (R294), the retry buffer (R296–R298), and credits (R300–R302).
-/
namespace Sys2Proof.Machine

/-! ### CRC-32 -/

/-- One bit of the CRC-32 of IEEE 802.3, reflected. -/
def crcBit (c : BitVec 32) : BitVec 32 := if c.getLsbD 0 then (c >>> 1) ^^^ 0xEDB88320#32 else c >>> 1

/-- One byte. -/
def crcByte (c : BitVec 32) (b : Byte) : BitVec 32 :=
  crcBit (crcBit (crcBit (crcBit (crcBit (crcBit (crcBit (crcBit (c ^^^ b.setWidth 32))))))))

/-- The CRC-32 of a byte list. PRESUMED, log entry 48. -/
def crc32 (bs : List Byte) : BitVec 32 := bs.foldl crcByte 0xFFFFFFFF#32 ^^^ 0xFFFFFFFF#32

/-! ### Links and trunks -/

/-- Fields of LINK.CFG. -/
def Dev.lnCfg (d : Dev) (n : Nat) : Nat := d.reg (pgLink n) 0x104
def Dev.lnEn (d : Dev) (n : Nat) : Bool := bit (d.lnCfg n) 31
def Dev.lnWidth (d : Dev) (n : Nat) : Nat := if bits (d.lnCfg n) 26 24 < 2 then 1 else bits (d.lnCfg n) 26 24
def Dev.lnTrunk (d : Dev) (n : Nat) : Nat := bits (d.lnCfg n) 23 22
def Dev.lnMember (d : Dev) (n : Nat) : Nat := bits (d.lnCfg n) 21 20

/-- Links of a die. -/
def dieLinks (c : Nat) : List Nat := (List.range 9).map (9 * c + ·)

/-- Links of the die of n with its trunk ID that are trunk members (R307). DEDUCED, log entry 50. -/
def Dev.trunkMates (d : Dev) (n : Nat) : List Nat :=
  (dieLinks (n / 9)).filter fun i => decide (2 ≤ d.lnWidth i) && d.lnTrunk i == d.lnTrunk n

/-- The members of link n's trunk in member order; a single link is its own (R308). -/
def Dev.lnMembers (d : Dev) (n : Nat) : List Nat :=
  if d.lnWidth n < 2 then [n]
  else (List.range (d.lnWidth n)).filterMap fun m => (d.trunkMates n).find? fun i => d.lnMember i == m

/-- The link whose state a trunk keeps: its member 0. -/
def Dev.lnHome (d : Dev) (n : Nat) : Nat := (d.lnMembers n).headD n

/-- The state of the link or trunk that n belongs to. -/
def Dev.ln (d : Dev) (n : Nat) : LinkSt := d.link (d.lnHome n)
def Dev.modLn (d : Dev) (n : Nat) (f : LinkSt → LinkSt) : Dev := d.modLink (d.lnHome n) f

/-- STATE as a link shows it: a member that is not enabled is DISABLED. -/
def Dev.lnState (d : Dev) (n : Nat) : LnState := if d.lnEn n then (d.ln n).state else .disabled

/-- The link is ACTIVE (R303). -/
def Dev.lnActive (d : Dev) (n : Nat) : Bool := (d.ln n).state == .active

/-- Flits of the retry buffer, and of each link channel (R298, R300, R308). -/
def Dev.lnRoom (d : Dev) (n : Nat) : Nat := 1024 * d.lnWidth n

/-! ### Sending -/

/-- The 256 bytes of a flit (Table 11-1). PRESUMED, log entry 48. -/
def LnFlit.bytes (f : LnFlit) (ack : Nat) (nak : Bool) : List Byte :=
  let h := natLe 2 (f.kind * 2 ^ 14 + f.seq) ++ natLe 2 (b2n nak * 2 ^ 15 + ack) ++ natLe 4 f.wordA ++ natLe 4 f.wordB
  let p := padTo 240 f.payload
  h ++ natLe 4 (crc32 (h ++ p)).toNat ++ p

/-- A flit put on the wire: it travels on member SEQ mod W (R308). DESIGN CHOICE, log entry 81. -/
def Dev.wire (d : Dev) (n : Nat) (f : LnFlit) : Dev :=
  let s := d.ln n
  let m := (d.lnMembers n).getD (f.seq % d.lnWidth n) n
  d.send (.link m) (f.bytes ((s.rxNext + 2 ^ 14 - 1) % 2 ^ 14) s.nak)

/-- A flit is first sent: it takes the next SEQ and stays in the retry buffer (R296). -/
def Dev.firstSend (d : Dev) (n : Nat) (f : LnFlit) : Dev :=
  let f := { f with seq := (d.ln n).txSeq }
  let d := d.modLn n fun s =>
    { s with txSeq := (s.txSeq + 1) % 2 ^ 14, retry := s.retry ++ [f]
             lcSent := if f.kind = 1 then (s.lcSent + 1) % 2 ^ 32 else s.lcSent
             lcSent2 := if f.kind = 2 then (s.lcSent2 + 1) % 2 ^ 32 else s.lcSent2 }
  (d.bump64 (pgLink (d.lnHome n)) 0x140 1).wire n f

/-- Does a link serve a claimed die? -/
def Dev.lnPart (d : Dev) (n : Nat) : Option Nat := (d.die (n / 9)).part

/-- The link's partition holds its movers for a cut: no data flit leaves (R342). DEDUCED, log entry 60. -/
def Dev.lnMute (d : Dev) (n : Nat) : Bool := match d.lnPart n with | some p => (d.part p).moversHeld | none => false

/-- The flit may be sent now: the link is ACTIVE, the retry buffer has room, and a data flit has its link credit, is not
held for a cut, and leaves a claimed die (R306). -/
def Dev.maySend (d : Dev) (n : Nat) (f : LnFlit) : Bool :=
  let s := d.ln n
  let room := d.lnRoom n
  s.state == .active && decide (s.retry.length < room) &&
    (match f.kind with
     | 1 => (d.lnPart n).isSome && !d.lnMute n && decide ((s.lcSent + 2 ^ 32 - s.lcFree) % 2 ^ 32 < room)
     | 2 => (d.lnPart n).isSome && !d.lnMute n && decide ((s.lcSent2 + 2 ^ 32 - s.lcFree2) % 2 ^ 32 < room)
     | _ => true)

/-- The records that wait and may go now, each in a flit of its own; a GALLEY_ABORT stays behind the galley flits formed
before it (R293). -/
def recordsNow : Bool → List LnFlit → List LnFlit
  | _, [] => []
  | g, f :: fs =>
    if f.kind = 3 then (if g && field f.payload 0 1 == 4 then [] else f :: recordsNow g fs) else recordsNow (g || f.kind == 1) fs

/-- One CTRL flit with up to fifteen records (R302). -/
def gathered (fs : List LnFlit) : LnFlit :=
  { kind := 3, wordA := fs.length * 2 ^ 28, payload := fs.flatMap (·.payload) }

/-- Whose turn a data flit takes: its galley's, or its collective's (R302). -/
def LnFlit.turn (f : LnFlit) : Nat := if f.kind = 1 then f.wordA / 2 ^ 17 else f.wordA / 2 ^ 16

/-- The waiting flit of a link channel whose turn is next after `last`; of one galley or collective, the oldest.
DEDUCED, log entry 50. -/
def nextTurn (last kind : Nat) (w : List LnFlit) : Option LnFlit :=
  let far (f : LnFlit) : Nat := (f.turn + 2 ^ 16 - last - 1) % 2 ^ 16
  (w.filter fun f => f.kind == kind).foldl (fun b f =>
    match b with
    | none => some f
    | some g => if far f < far g then some f else some g) none

/-- The data flit to send next: LC1 and LC2 alternate, among those with their credits (R302). -/
def Dev.nextData (d : Dev) (n : Nat) : Option LnFlit :=
  let s := d.ln n
  let of_ (k : Nat) : Option LnFlit := (nextTurn (if k = 1 then s.turn1 else s.turn2) k s.waiting).filter (d.maySend n ·)
  match of_ (3 - s.lastLc) with
  | some f => some f
  | none => of_ s.lastLc

/-- Send what waits: records first, gathered, then data flits in turn (R302). `fuel` bounds the flits sent.
DEDUCED, log entry 50. -/
def Dev.drainLink (d : Dev) (n : Nat) : Nat → Dev
  | 0 => d
  | fuel + 1 =>
    let rs := (recordsNow false (d.ln n).waiting).take 15
    if !rs.isEmpty && d.maySend n (gathered rs) then
      ((d.modLn n fun s => { s with waiting := rs.foldl List.erase s.waiting }).firstSend n (gathered rs)).drainLink n fuel
    else match d.nextData n with
      | none => d
      | some f =>
        let d := d.modLn n fun s =>
          { s with waiting := s.waiting.erase f, lastLc := f.kind, turn1 := if f.kind = 1 then f.turn else s.turn1
                   turn2 := if f.kind = 2 then f.turn else s.turn2 }
        (d.firstSend n f).drainLink n fuel

/-- A flit is formed for a link or trunk. -/
def Dev.pushFlit (d : Dev) (n : Nat) (f : LnFlit) : Dev :=
  let d := d.modLn n fun s => { s with waiting := s.waiting ++ [f] }
  d.drainLink n (d.ln n).waiting.length

/-- A control record: TYPE, EPOCH, body (Table 11-3). -/
def lnRecord (ty epoch : Nat) (body : List Byte) : List Byte :=
  padTo 16 (natLe 1 ty ++ natLe 1 0 ++ natLe 2 epoch ++ body)

/-- A record sent in a CTRL flit of its own. -/
def Dev.sendRecord (d : Dev) (n ty : Nat) (body : List Byte) : Dev :=
  d.pushFlit n { kind := 3, wordA := 2 ^ 28, payload := lnRecord ty (d.ln n).epoch body }

/-- NODE_ID as the die of link n holds it (R334). -/
def Dev.nodeId (d : Dev) (c : Nat) : Nat := d.reg (pgColl c) 0x104

/-- The link is set in a partition's group mask while GROUP is 1 (R343). -/
def Dev.groupLink (d : Dev) (p n : Nat) : Bool :=
  bit (d.impr p 0x00) 2 && bit (d.impr p 0x14 + 2 ^ 32 * d.impr p 0x18) n

/-- The group links of a partition. -/
def Dev.groupLinks (d : Dev) (p : Nat) : List Nat := (List.range 36).filter (d.groupLink p ·)

end Sys2Proof.Machine
end

