-- ==== Sys2Proof/Machine/Operands.lean ====
section
/-!
DEFINITION. Sys2Proof/Machine/Operands.lean: the descriptor's header and bodies, the extension block, effective addresses,
and the malformed-field checks of R211 (Tables 8-1 to 8-12, 10-2 to 10-4).
-/
namespace Sys2Proof.Machine

/-- The 48-bit address part and the 16 bits above it of an address field. -/
def addrOf (v : Nat) : Nat := v % 2 ^ 48
def strideOf (v : Nat) : Nat := v / 2 ^ 48

/-! ### Header (Table 8-4) -/

def dOp (d : List Byte) : Nat := field d 0 1
def dClass (d : List Byte) : Nat := field d 1 1 / 16
def dWaitMask (d : List Byte) : Nat := field d 2 1
def dEnergy (d : List Byte) : Nat := field d 4 2
def dFence (d : List Byte) : Bool := bit (field d 6 1) 7
def dEvt (d : List Byte) : Bool := bit (field d 6 1) 6
def dBg (d : List Byte) : Bool := bit (field d 6 1) 5
def dCont (d : List Byte) : Bool := bit (field d 6 1) 4
def dAsel (d : List Byte) (i : Nat) : Nat := field d (8 + i) 1
def dUserTag (d : List Byte) : Nat := field d 12 4

/-- Body address fields of an opcode, by offset (R209). -/
def addrFields (op : Nat) : List Nat :=
  if op = 0x10 ∨ op = 0x11 ∨ op = 0x18 then [0x10, 0x18, 0x20]
  else if op = 0x19 then [0x10]
  else if op = 0x20 then [0x10, 0x18]
  else if 0x21 ≤ op ∧ op ≤ 0x26 then [0x10, 0x18, 0x20]
  else if op = 0x30 ∨ op = 0x31 ∨ op = 0x34 ∨ op = 0x35 ∨ op = 0x3C ∨ op = 0x3D then [0x10]
  else if op = 0x38 ∨ op = 0x39 then [0x10, 0x18]
  else if op = 0x40 then [0x10, 0x18, 0x20, 0x28]
  else []

/-- The descriptor with its address fields made effective (R209). -/
def resolve (c : CoreSt) (d : List Byte) : List Byte :=
  let fs := addrFields (dOp d)
  ((List.range fs.length).zip fs).foldl (fun d (i, off) =>
    let s := dAsel d i
    if bit s 7 then
      let v := field d off 8
      splice d off (natLe 8 (strideOf v * 2 ^ 48 + (addrOf v + c.areg (s % 16)) % 2 ^ 48))
    else d) d

/-- The unit of an opcode (Table 8-5, bits of WAITMASK); none for control operations and reserved opcodes.
FUSED runs on the array its operand format selects. -/
def unitOf (d : List Byte) : Option Nat :=
  let op := dOp d
  if op = 0x10 then some 0
  else if op = 0x11 then some (if (Fmt.ofCode (field d 0x38 1 / 16)).any (fun f => !f.narrow) then 1 else 0)
  else if op = 0x18 ∨ op = 0x19 then some 1
  else if 0x20 ≤ op ∧ op ≤ 0x26 then some 2
  else if op = 0x30 ∨ op = 0x31 then some 3
  else if op = 0x34 ∨ op = 0x35 then some 4
  else if op = 0x38 ∨ op = 0x39 then some 5
  else if op = 0x3C ∨ op = 0x3D then some 6
  else if op = 0x40 then some 7
  else none

/-! ### Bodies -/

/-- The MODE, SLOT and EXT fields the compute bodies share. -/
structure Modes where
  pIn : Bool := false
  pOut : Bool := false
  rnd : Nat := 0
  keep : Bool := false
  stepSrc : Bool := false
  slotEn : Bool := false
  slot : Nat := 0
  randClass : Nat := 0
  extOff : Nat := 0
  extEn : Bool := false
  fmtIn : Nat := 0
  fmtOut : Nat := 0
  deriving DecidableEq, Repr

/-- Read the shared fields: offsets of FMT, MODE, SLOT, EXT. -/
def Modes.parse (d : List Byte) (fo mo so eo : Nat) : Modes :=
  let m := field d mo 1
  let s := field d so 2
  let e := field d eo 4
  -- the incoming partial and the explicit step lie in the extension block, and are off without it (R214)
  { pIn := bit m 7 && bit e 0, pOut := bit m 6, rnd := bits m 3 2, keep := bit m 1, stepSrc := bit m 0 && bit e 0
    slotEn := bit s 15, slot := s % 512, randClass := e / 2 ^ 24, extOff := bits e 20 6 * 64, extEn := bit e 0
    fmtIn := field d fo 1 / 16, fmtOut := field d fo 1 % 16 }

/-- Offsets of FMT, MODE, SLOT and EXT in the body of a compute opcode (Tables 8-7, 8-9 to 8-11). -/
def modesOf (d : List Byte) : Modes :=
  let op := dOp d
  if op = 0x19 then { Modes.parse d 0x1D 0x1E 0x20 0x24 with pIn := false, pOut := false, fmtIn := 0 }
  else if op = 0x20 then { Modes.parse d 0x24 0x25 0x26 0x28 with pIn := false, pOut := false }
  else if 0x21 ≤ op ∧ op ≤ 0x26 then Modes.parse d 0x2E 0x2F 0x36 0x38
  else if op = 0x10 ∨ op = 0x11 ∨ op = 0x18 then Modes.parse d 0x38 0x39 0x3A 0x3C
  else {}

/-- The matrix body (Table 8-7). Strides in bytes. -/
structure Mx where
  aAddr : Nat := 0
  aStride : Nat := 0
  bAddr : Nat := 0
  bStride : Nat := 0
  cAddr : Nat := 0
  cStride : Nat := 0
  k : Nat := 0
  kTot : Nat := 0
  kFirst : Nat := 0
  mt : Nat := 0
  nt : Nat := 0
  half : Nat := 0
  deriving DecidableEq, Repr

def Mx.parse (d : List Byte) : Mx :=
  { aAddr := addrOf (field d 0x10 8), aStride := strideOf (field d 0x10 8) * 64
    bAddr := addrOf (field d 0x18 8), bStride := strideOf (field d 0x18 8) * 64
    cAddr := addrOf (field d 0x20 8), cStride := strideOf (field d 0x20 8) * 64
    k := field d 0x28 4, kTot := field d 0x2C 4, kFirst := field d 0x30 4
    mt := field d 0x34 2, nt := field d 0x36 2, half := bits (field d 0x39 1) 5 4 }

/-- KB = ⌈K ÷ 32⌉ (R212). -/
def Mx.kb (m : Mx) : Nat := (m.k + 31) / 32

/-- The halves of a B tile a command runs, in HALF order (R212). -/
def Mx.halves (m : Mx) : List Nat := (if bit m.half 0 then [0] else []) ++ (if bit m.half 1 then [1] else [])

/-- Passes of the command: over A rows, then B tile rows, then halves (R212). -/
def Mx.passes (m : Mx) : Nat := if m.k = 0 then 0 else m.mt * m.nt * m.halves.length

/-- Pass u: its A tile row, B tile row and half. -/
def Mx.passAt (m : Mx) (u : Nat) : Nat × Nat × Nat :=
  let oh := m.halves.length
  (u / (m.nt * oh), u / oh % m.nt, m.halves.getD (u % oh) 0)

/-- Address of the output tile of pass u (R212). -/
def Mx.outAddr (m : Mx) (u : Nat) : Nat := m.cAddr + u * m.cStride

/-- The extension block (Table 8-8). -/
structure Ext where
  sortA : Nat := 0
  sortB : Nat := 0
  sortABound : Nat := 0
  sortBBound : Nat := 0
  rescaleEn : Bool := false
  rescale : Nat := 0
  rescaleBound : Nat := 0
  dispEn : Bool := false
  disp : Nat := 0
  dispW : Nat := 0
  dispWStride : Nat := 0
  partialIn : Nat := 0
  partialStride : Nat := 0
  slab : Nat := 0
  tap : Nat := 0
  epi : Nat := 0
  dxOut : Bool := false
  rms : Bool := false
  stats : Nat := 0
  statsIo : Nat := 0
  act : Nat := 0
  step : Nat := 0
  class2 : Nat := 0
  dropP : Nat := 0
  dropF : F32 := 0#32
  aux0 : Nat := 0
  aux0Stride : Nat := 0
  aux1 : Nat := 0
  aux1Stride : Nat := 0
  aux2 : Nat := 0
  sortOut : Nat := 0
  sortOutBound : Nat := 0
  sortOutFirst : Nat := 0
  outTag : Nat := 0
  /-- for B.ADD, the sources SRC0–SRC7: address and stride in bytes -/
  srcs : List (Nat × Nat) := []
  /-- a reserved bit of a field that the command uses is set (R211) -/
  reserved : Bool := false
  deriving DecidableEq, Repr

/-- Read an extension block; the empty list reads as a block of zeros. -/
def Ext.parse (b : List Byte) : Ext :=
  let q (o : Nat) := field b o 8
  { sortA := addrOf (q 0), sortB := addrOf (q 8), sortABound := field b 0x10 4, sortBBound := field b 0x14 4
    rescaleEn := bit (q 0x18) 63, rescale := addrOf (q 0x18), rescaleBound := field b 0x20 4
    dispEn := bit (field b 0x24 4) 31, disp := bits (field b 0x24 4) 20 6 * 64
    dispW := addrOf (q 0x28), dispWStride := strideOf (q 0x28) * 64
    partialIn := addrOf (q 0x30), partialStride := strideOf (q 0x30) * 64
    slab := field b 0x38 2, tap := field b 0x3A 2
    epi := field b 0x3C 1 / 16, dxOut := bit (field b 0x3C 1) 3, rms := bit (field b 0x3C 1) 2
    stats := field b 0x3D 1 % 128, statsIo := field b 0x3E 1 % 4, act := field b 0x3F 1
    step := field b 0x40 4, class2 := field b 0x44 1, dropP := field b 0x48 4, dropF := BitVec.ofNat 32 (field b 0x4C 4)
    aux0 := addrOf (q 0x50), aux0Stride := strideOf (q 0x50) * 64
    aux1 := addrOf (q 0x58), aux1Stride := strideOf (q 0x58) * 64, aux2 := addrOf (q 0x60)
    sortOut := addrOf (q 0x68), sortOutBound := field b 0x70 4, sortOutFirst := field b 0x74 4
    outTag := field b 0x78 4
    srcs := (wordsOf 8 8 b).map fun v => (addrOf v, strideOf v * 64) }

/-- Reserved bits set in an extension block (Table 8-8), in the fields that the command uses: the others are ignored (R211,
R214). -/
def extReserved (d b : List Byte) : Bool :=
  let op := dOp d
  let m := modesOf d
  let set (o s mask : Nat) : Bool := field b o s &&& mask != 0
  let mx := op == 0x10 || op == 0x11 || op == 0x18
  let row := decide (0x21 ≤ op ∧ op ≤ 0x25)
  set 0x45 3 0xFFFFFF || set 0x7C 4 0xFFFFFFFF ||
  (mx && (set 0x18 8 0x7FFF000000000000 || ((Fmt.ofCode m.fmtIn).any Fmt.narrow && set 0x24 4 0x7FE0003F))) ||
  ((op == 0x18 || row) && set 0x38 2 0x1FE0) || ((mx || op == 0x20 || row) && set 0x3A 2 0x1FF0) ||
  (op == 0x11 && (set 0x3C 1 0x03 || set 0x3D 1 0x80)) || ((op == 0x11 || row) && set 0x3E 1 0xFC) ||
  ((mx || op == 0x19 || op == 0x20 || row) && m.fmtOut == 1 && set 0x68 8 0xFFFF000000000000)

/-- The features B.ADD's sources displace are off for it (R214). -/
def extOf (d b : List Byte) : Ext :=
  let e := { Ext.parse b with reserved := extReserved d b }
  if dOp d = 0x19 then
    { e with sortA := 0, sortB := 0, sortABound := 0, sortBBound := 0, rescaleEn := false, dispEn := false
             slab := field d 0x28 2, tap := field d 0x2A 2, epi := 0, statsIo := 0 }
  else e

def Ext.slabEn (e : Ext) : Bool := bit e.slab 15
def Ext.slabFirst (e : Ext) : Bool := bit e.slab 14
def Ext.slabLast (e : Ext) : Bool := bit e.slab 13
def Ext.slabIdx (e : Ext) : Nat := e.slab % 32
def Ext.tapEn (e : Ext) : Bool := bit e.tap 15
def Ext.tapKind (e : Ext) : Bool := bit e.tap 14
def Ext.tapEnd (e : Ext) : Bool := bit e.tap 13
def Ext.tapIdx (e : Ext) : Nat := e.tap % 16

/-- The row body (Table 8-9). -/
structure RowB where
  inAddr : Nat := 0
  inStride : Nat := 0
  in2Addr : Nat := 0
  in2Stride : Nat := 0
  outAddr : Nat := 0
  outStride : Nat := 0
  n : Nat := 0
  rt : Nat := 0
  rms : Bool := false
  bwd : Bool := false
  param : F32 := 0#32
  stats : Nat := 0
  deriving DecidableEq, Repr

def RowB.parse (d : List Byte) : RowB :=
  { inAddr := addrOf (field d 0x10 8), inStride := strideOf (field d 0x10 8) * 64
    in2Addr := addrOf (field d 0x18 8), in2Stride := strideOf (field d 0x18 8) * 64
    outAddr := addrOf (field d 0x20 8), outStride := strideOf (field d 0x20 8) * 64
    n := field d 0x28 4, rt := field d 0x2C 2
    rms := bit (field d 0x2F 1) 5, bwd := bit (field d 0x2F 1) 4
    param := BitVec.ofNat 32 (field d 0x30 4), stats := field d 0x34 1 % 128 }

/-- Tiles along a row of length n. -/
def RowB.tilesPerRow (r : RowB) : Nat := (r.n + 31) / 32

/-- The B.ADD body (Table 8-10). -/
structure AddB where
  dst : Nat := 0
  dstStride : Nat := 0
  count : Nat := 0
  nsrc : Nat := 0
  deriving DecidableEq, Repr

def AddB.parse (d : List Byte) : AddB :=
  { dst := addrOf (field d 0x10 8), dstStride := strideOf (field d 0x10 8) * 64
    count := field d 0x18 4, nsrc := field d 0x1C 1 }

/-- The CONVERT body (Table 8-11). -/
structure CvtB where
  src : Nat := 0
  srcStride : Nat := 0
  dst : Nat := 0
  dstStride : Nat := 0
  count : Nat := 0
  calibrated : Bool := false
  deriving DecidableEq, Repr

def CvtB.parse (d : List Byte) : CvtB :=
  { src := addrOf (field d 0x10 8), srcStride := strideOf (field d 0x10 8) * 64
    dst := addrOf (field d 0x18 8), dstStride := strideOf (field d 0x18 8) * 64
    count := field d 0x20 4, calibrated := bit (field d 0x25 1) 7 }

/-- The bodies of Table 8-12. For galleys `peer` is the galley; for Gauge commands `len` is COUNT, `peer` the first slot
and `tag` the MODE. -/
structure MsgB where
  addr : Nat := 0
  len : Nat := 0
  peer : Nat := 0
  any : Bool := false
  tag : Nat := 0
  lenToC : Option Nat := none
  deriving DecidableEq, Repr

def MsgB.parse (d : List Byte) : MsgB :=
  let op := dOp d
  let p := field d 0x1C 2
  { addr := addrOf (field d 0x10 8), len := field d 0x18 4
    peer := if op = 0x30 ∨ op = 0x31 then p % 2048 else if op = 0x34 ∨ op = 0x35 then p % 16 else p % 512
    any := op == 0x31 && bit p 15, tag := field d 0x1E 2
    lenToC := if (op = 0x31 ∨ op = 0x35) ∧ bit (field d 0x20 1) 7 then some (field d 0x20 1 % 16) else none }

/-- The DMA bodies (Tables 10-2, 10-3). -/
structure DmaB where
  src : Nat := 0
  srcStride : Nat := 0
  dst : Nat := 0
  dstStride : Nat := 0
  len : Nat := 0
  rows : Nat := 0
  spitch : Nat := 0
  dpitch : Nat := 0
  tcopy : Bool := false
  engine : Nat := 0
  drain : Bool := false
  sortEn : Bool := false
  fmt : Nat := 0
  tag : Nat := 0
  sort : Nat := 0
  deriving DecidableEq, Repr

/-- For DMA.TCOPY `len`, `rows`, `spitch`, `dpitch` hold TROWS, TCOLS, VROWS, VCOLS. -/
def DmaB.parse (d : List Byte) : DmaB :=
  { src := addrOf (field d 0x10 8), srcStride := strideOf (field d 0x10 8) * 64
    dst := addrOf (field d 0x18 8), dstStride := strideOf (field d 0x18 8) * 64
    len := field d 0x20 4, rows := field d 0x24 4, spitch := field d 0x28 4, dpitch := field d 0x2C 4
    tcopy := dOp d == 0x39, engine := field d 0x30 1 % 16, drain := bit (field d 0x31 1) 7
    sortEn := bit (field d 0x31 1) 6, fmt := field d 0x32 1 / 16, tag := field d 0x34 4
    sort := addrOf (field d 0x38 8) }

/-- The PLATEN.SUBMIT body (Table 10-4). -/
structure PltB where
  p : Nat := 0
  pStride : Nat := 0
  g : Nat := 0
  gStride : Nat := 0
  m1 : Nat := 0
  count : Nat := 0
  m2 : Nat := 0
  profile : Nat := 0
  drain : Bool := false
  phase : Nat := 0
  sr : Bool := false
  masterBf16 : Bool := false
  m1fmt : Nat := 0
  m2fmt : Nat := 0
  randClass : Nat := 0
  aux : Nat := 0
  lr : F32 := 0#32
  step : Nat := 0
  deriving DecidableEq, Repr

def PltB.parse (d : List Byte) : PltB :=
  let v := field d 0x28 8
  { p := addrOf (field d 0x10 8), pStride := strideOf (field d 0x10 8) * 64
    g := addrOf (field d 0x18 8), gStride := strideOf (field d 0x18 8) * 64
    m1 := addrOf (field d 0x20 8), count := strideOf (field d 0x20 8)
    m2 := addrOf v, profile := bits v 63 60, drain := bit v 59, phase := bits v 58 57, sr := bit v 56
    masterBf16 := bit v 55, m1fmt := bits v 54 53, m2fmt := bits v 52 51
    randClass := field d 0x37 1, aux := addrOf (field d 0x30 8)
    lr := BitVec.ofNat 32 (field d 0x38 4), step := field d 0x3C 4 }

/-! ### Malformed descriptors (R211) -/

/-- Reserved bits of an opcode's body: offset, size, mask. -/
def reservedBits (op : Nat) : List (Nat × Nat × Nat) :=
  if op = 0 ∨ op = 6 then [(0x10, 48, 2 ^ 384 - 1)]
  else if op = 1 then [(0x10, 1, 0xE0), (0x11, 7, 2 ^ 56 - 1), (0x20, 32, 2 ^ 256 - 1)]
  else if op = 2 then [(0x10, 1, 0xE0), (0x11, 1, 0xE0), (0x12, 1, 0x60), (0x13, 5, 2 ^ 40 - 1), (0x20, 32, 2 ^ 256 - 1)]
  else if op = 3 then [(0x10, 1, 0xF0), (0x11, 1, 0xFF), (0x14, 44, 2 ^ 352 - 1)]
  else if op = 4 then [(0x14, 4, 2 ^ 32 - 1), (0x20, 32, 2 ^ 256 - 1)]
  else if op = 5 then [(0x14, 4, 2 ^ 32 - 2), (0x1C, 1, 0xF0), (0x1D, 35, 2 ^ 280 - 1)]
  else if op = 0x10 ∨ op = 0x11 ∨ op = 0x18 then
    [(0x28, 4, 0xFFE00000), (0x2C, 4, 0xFFE00000), (0x30, 4, 0xFFF00000), (0x3A, 2, 0x7E00), (0x3C, 4, 0x00E0003E)]
  else if 0x21 ≤ op ∧ op ≤ 0x26 then
    [(0x28, 4, 0xFFE00000), (0x34, 1, 0x80), (0x35, 1, 0xFF), (0x36, 2, 0x7E00), (0x38, 4, 0x00E0003E),
     (0x3C, 4, 2 ^ 32 - 1)]
  else if op = 0x19 then
    [(0x1C, 1, 0xF0), (0x1D, 1, 0xF0), (0x1E, 1, 0xF0), (0x1F, 1, 0xFF), (0x20, 2, 0x7E00), (0x22, 2, 0xFFFF),
     (0x24, 4, 0x00E0003E), (0x28, 2, 0x1FE0), (0x2A, 2, 0x1FF0), (0x2C, 20, 2 ^ 160 - 1)]
  else if op = 0x20 then
    [(0x25, 1, 0x70), (0x26, 2, 0x7E00), (0x28, 4, 0x00E0003E), (0x2C, 20, 2 ^ 160 - 1)]
  else if op = 0x30 then [(0x16, 2, 0xFFFF), (0x1C, 2, 0xF800), (0x20, 32, 2 ^ 256 - 1)]
  else if op = 0x31 then [(0x16, 2, 0xFFFF), (0x1C, 2, 0x7800), (0x20, 1, 0x70), (0x21, 31, 2 ^ 248 - 1)]
  else if op = 0x34 then [(0x16, 2, 0xFFFF), (0x1C, 2, 0xFFF0), (0x20, 32, 2 ^ 256 - 1)]
  else if op = 0x35 then [(0x16, 2, 0xFFFF), (0x1C, 2, 0xFFF0), (0x20, 1, 0x70), (0x21, 31, 2 ^ 248 - 1)]
  else if op = 0x3C ∨ op = 0x3D then
    [(0x16, 2, 0xFFFF), (0x18, 4, 0xFFFFFC00), (0x1C, 2, 0xFE00), (0x20, 32, 2 ^ 256 - 1)]
  else if op = 0x38 then
    [(0x16, 2, 0xFFFF), (0x1E, 2, 0xFFFF), (0x30, 1, 0xF0), (0x31, 1, 0x7F), (0x32, 14, 2 ^ 112 - 1)]
  else if op = 0x39 then [(0x30, 1, 0xF0), (0x31, 1, 0x3F), (0x32, 1, 0x0F), (0x33, 1, 0xFF), (0x3E, 2, 0xFFFF)]
  else if op = 0x40 then [(0x28, 8, 0x0007000000000000), (0x30, 8, 0x00FF000000000000)]
  else []

/-- Malformed in the header or in a reserved bit, or a reserved opcode (R198, R208, R211). -/
def badHeader (d : List Byte) : Bool :=
  let op := dOp d
  let ctl := decide (op ≤ 6)
  let n := (addrFields op).length
  (!ctl && (unitOf d).isNone) || field d 1 1 % 16 != 0 || decide (8 ≤ dClass d) || field d 3 1 != 0 ||
  field d 6 1 % 16 != 0 || field d 7 1 != 0 ||
  (dBg d && op != 0x38 && op != 0x39) ||
  (List.range 4).any (fun i => dAsel d i != 0 && (decide (n ≤ i) || bits (dAsel d i) 6 4 != 0)) ||
  (reservedBits op).any fun (o, s, m) => field d o s &&& m != 0

/-- A format code in use. -/
def fmtOk (c : Nat) : Bool := (Fmt.ofCode c).isSome
def fmtNarrow (c : Nat) : Bool := (Fmt.ofCode c).any Fmt.narrow
/-- BF16, FP16 or FP32. -/
def fmtWide (c : Nat) : Bool := c == 8 || c == 9 || c == 10

/-- The operand and output format codes of a compute command are none of them reserved; B.ADD names no operand format. -/
def fmtsKnown (d : List Byte) : Bool :=
  let m := modesOf d
  (fmtOk m.fmtIn || dOp d == 0x19) && fmtOk m.fmtOut

/-- Fields of a command outside their stated ranges (R211, R212, R215, R216, R264, R265, R272, R275). A reserved format code
and a mixed pair are no such field: they have the codes of Table 3-11 (R50, R73). -/
def badFields (d : List Byte) (e : Ext) : Bool :=
  let op := dOp d
  let m := modesOf d
  let compute := decide (0x10 ≤ op ∧ op ≤ 0x26)
  (compute && (m.rnd == 3 || (m.extEn && e.reserved))) ||
  (if op = 0x10 ∨ op = 0x11 ∨ op = 0x18 then
     (op == 0x10 && fmtWide m.fmtIn) || (op == 0x18 && fmtNarrow m.fmtIn) ||
     (Mx.parse d).half == 0 || (fmtNarrow m.fmtIn && (Mx.parse d).kFirst != 0) ||
     (op == 0x11 && m.extEn && (decide (8 ≤ e.epi) || (e.epi == 7 && decide (6 ≤ e.act)) ||
       (e.epi != 0 && e.epi != 7 && e.statsIo == 3)))
   else if op = 0x19 then !m.extEn || decide ((AddB.parse d).nsrc < 2 ∨ 8 < (AddB.parse d).nsrc)
   else if op = 0x20 then fmtNarrow m.fmtIn
   else if 0x21 ≤ op ∧ op ≤ 0x26 then
     m.extEn && ((decide (op ≤ 0x24) && e.statsIo == 3) || (op == 0x25 && decide (6 ≤ e.act)))
   else if op = 0x3C ∨ op = 0x3D then
     let b := MsgB.parse d
     let mode := b.tag
     decide (512 < b.len) || (if op = 0x3C then decide (3 < mode) else decide (1 < mode)) ||
     (!(op == 0x3C && mode == 1) && decide (512 < b.peer + b.len))
   else if op = 0x38 then
     let b := DmaB.parse d
     decide (1 < b.rows ∧ b.dpitch < b.len)
   else if op = 0x39 then
     let b := DmaB.parse d
     b.len == 0 || b.rows == 0 || !fmtOk b.fmt
   else if op = 0x40 then
     let b := PltB.parse d
     b.phase == 3 || b.m1fmt == 3 || b.m2fmt == 3 || (b.drain && b.count != 0)
   else false)

/-- The class a descriptor must declare (R210, Table 8-6); a reserved operand format, and FP32, have none. -/
def classOf (d : List Byte) (e : Ext) : Nat :=
  let op := dOp d
  let f := (Fmt.ofCode (modesOf d).fmtIn).getD .fp32
  if op = 0x10 ∨ op = 0x11 then
    if f = .fp32 then dClass d
    else if !f.narrow then 4 else if e.dispEn then 7 else if f.four then 6 else 5
  else if op = 0x18 ∨ op = 0x19 then 4
  else if 0x20 ≤ op ∧ op ≤ 0x26 then 3
  else if op = 0x40 then 2
  else if 0x30 ≤ op then 1
  else 0

end Sys2Proof.Machine
end

