-- ==== Sys2Proof/Machine/Gauge.lean ====
section
/-!
DEFINITION. Sys2Proof/Machine/Gauge.lean: slot images, their range checks, the step commit, the norm monitor, summary
records, and global recast (05_gauge.md).
-/
namespace Sys2Proof.Machine

/-! ### Slot images (Table 5-1) -/

/-- H of a slot. -/
def GSlot.h (s : GSlot) : Nat := s.hM1 + 1

/-- CALIB: the slot is in calibration (R127). -/
def GSlot.calib (s : GSlot) : Bool := decide (s.valid < s.h)

/-- BASE_FMT and CUR_FMT as formats; a reserved CUR_FMT code stands for BASE_FMT. -/
def GSlot.base (s : GSlot) : Fmt := (Fmt.ofCode s.baseFmt).getD .fp4
def GSlot.cur (s : GSlot) : Fmt := (Fmt.ofCode s.curFmt).getD s.base

/-- The image of a slot, 192 bytes. -/
def GSlot.image (s : GSlot) : List Byte :=
  natLe 4 (b2n s.used * 2 ^ 31 + b2n s.shared * 2 ^ 30 + b2n s.member * 2 ^ 29 + b2n s.recastEn * 2 ^ 28 +
    s.baseFmt * 2 ^ 24 + s.hM1 * 2 ^ 20 + s.margin * 2 ^ 17 + s.resetK * 2 ^ 14 + s.resetMax * 2 ^ 12 + s.hold * 16) ++
  natLe 4 s.tag ++ natLe 4 s.esc.toNat ++
  natLe 4 (b2n s.normEn * 2 ^ 31 + b2n s.linkEn * 2 ^ 30 + s.link * 2 ^ 18 + s.j * 2 ^ 14 + s.aM1 * 2 ^ 11) ++
  natLe 4 (s.curFmt * 2 ^ 28 + s.pendFmt * 2 ^ 24 + s.holdLeft * 2 ^ 16 + s.valid * 2 ^ 11 + s.head * 2 ^ 7 +
    b2n s.calib * 64 + b2n s.normValid * 32 + b2n s.tileRecast * 16 + b2n s.produced * 8 + b2n s.calDone * 4) ++
  natLe 4 (s.tscale * 2 ^ 24) ++ natLe 4 s.normAvg.toNat ++ natLe 4 s.pendAmax.toNat ++ natLe 4 s.pendNorm.toNat ++
  natLe 4 s.calCnt ++ natLe 8 s.calBase ++ natLe 4 s.calBound ++ natLe 12 0 ++
  s.hist.flatMap (fun x => natLe 4 x.toNat) ++
  [s.zero, s.under, s.clip, s.nonfin, s.escCnt, s.blank, s.reset, s.recast, s.wide, s.jump].flatMap (natLe 4) ++
  natLe 24 0

/-- The slot an image describes (R119: with HOLD_LEFT 0, CUR_FMT is BASE_FMT; R131: −0 is taken as 0). -/
def GSlot.ofImage (b : List Byte) : GSlot :=
  let c := field b 0 4
  let n := field b 0x0C 4
  let st := field b 0x10 4
  let w (o : Nat) : F32 := BitVec.ofNat 32 (field b o 4)
  { used := bit c 31, shared := bit c 30, member := bit c 29, recastEn := bit c 28, baseFmt := bits c 27 24
    hM1 := bits c 23 20, margin := bits c 19 17, resetK := bits c 16 14, resetMax := bits c 13 12, hold := bits c 11 4
    tag := field b 4 4, esc := if isZero (w 8) then 0#32 else w 8
    normEn := bit n 31, linkEn := bit n 30, link := bits n 26 18, j := bits n 17 14, aM1 := bits n 13 11
    curFmt := if bits st 23 16 = 0 then bits c 27 24 else bits st 31 28
    pendFmt := bits st 27 24, holdLeft := bits st 23 16, valid := bits st 15 11, head := bits st 10 7
    normValid := bit st 5, tileRecast := bit st 4, produced := bit st 3, calDone := bit st 2
    tscale := bits (field b 0x14 4) 31 24, normAvg := w 0x18, pendAmax := w 0x1C, pendNorm := w 0x20
    calCnt := field b 0x24 4 % 1024, calBase := field b 0x28 8 % 2 ^ 48, calBound := field b 0x30 4
    hist := (wordsOf 4 16 (b.drop 0x40)).map (BitVec.ofNat 32)
    zero := field b 0x80 4, under := field b 0x84 4, clip := field b 0x88 4, nonfin := field b 0x8C 4
    escCnt := field b 0x90 4, blank := field b 0x94 4, reset := field b 0x98 4, recast := field b 0x9C 4
    wide := field b 0xA0 4, jump := field b 0xA4 4 }

/-- ESC_THRESH outside its range (R131). -/
def escBad (x : F32) : Bool := nonFin x || (bit x.toNat 31 && !isZero x)

/-- The image offset of the first CONFIG, ESC_THRESH or NORM_CFG field of an image that is outside its range, among
the words from offset `lo` up to `hi` (R131). -/
def CoreSt.slotBad (c : CoreSt) (idx : Nat) (s : GSlot) (lo hi : Nat) : Option Nat :=
  let at_ (o : Nat) : Bool := decide (lo ≤ o ∧ o ≤ hi)
  if at_ 0 && (s.resetK == 0 || s.hold == 0 || !fmtOk s.baseFmt) then some 0
  else if at_ 8 && escBad s.esc then some 8
  else if at_ 0x0C && s.linkEn && !(if s.link = idx then s.used else (c.slot s.link).used) then some 0x0C
  else none

/-- A word of a slot's image replaced. -/
def GSlot.setWord (s : GSlot) (off : Nat) (w : Word) : GSlot := GSlot.ofImage (splice s.image off (natLe 4 w.toNat))

/-- ⌊log₂ x⌋ + 1 − 16 − G + MARGIN, clamped and biased (R110). -/
def GSlot.scaleFrom (s : GSlot) (a : F32) : Nat :=
  match f32 a with
  | .fin _ m e =>
    let t : Int := floorLog2 m 1 e + 1 - 16 - s.base.g + s.margin
    ((min (max t (-126)) 127) + 127).toNat
  | _ => s.tscale

/-- Order of width: none < FP8 E4M3 < BF16 (R107). -/
def widthRank (c : Nat) : Nat := if c = 8 then 2 else if c = 4 then 1 else 0

/-- The wider of two format codes, 0xF for none. -/
def widerOf (a b : Nat) : Nat :=
  if widthRank a < widthRank b then b else if widthRank a = 0 then 0xF else a

/-! ### The step commit (R110, R124) -/

/-- Phase one for one slot: the slot updated, and whether a jump is detected. -/
def GSlot.monitor (s : GSlot) : GSlot × Bool :=
  if !(s.used && s.normEn && s.produced) then (s, false)
  else if !s.normValid then ({ s with normAvg := s.pendNorm, normValid := true }, false)
  else
    let limit := match f32 s.normAvg with
      | .fin n m e => Fl.fin n m (e + s.j)
      | x => x
    let jump := flLt limit (f32 s.pendNorm)
    let step := fmul (fsub s.pendNorm s.normAvg) (toF32 (.fin false 1 (-(s.aM1 + 1 : Nat))))
    ({ s with normAvg := fadd s.normAvg step, jump := if jump then sat 32 (s.jump + 1) else s.jump }, jump)

/-- Phase two for one slot, given the jump request folded into it; and whether HOLD_LEFT was reloaded.
DEDUCED, log entry 32. -/
def GSlot.commit (s : GSlot) (jumpReq : Nat) : GSlot × Bool :=
  let s1 := if s.produced then
      let hd := (s.head + 1) % 16
      { s with head := hd, hist := setNth s.hist hd s.pendAmax, valid := min (s.valid + 1) 16 }
    else s
  let a := (List.range s1.h).foldl (fun m i => maxMag m (s1.hist.getD ((s1.head + 16 - i) % 16) 0#32)) 0#32
  let s2 := if !s1.calib && s1.base.narrow && !isZero a then { s1 with tscale := s1.scaleFrom a } else s1
  let req := widerOf s2.pendFmt jumpReq
  let reload := s2.recastEn && widthRank req != 0
  let s3 :=
    if reload then
      { s2 with curFmt := if widthRank s2.curFmt < widthRank req then req else s2.curFmt, holdLeft := s2.hold }
    else if 0 < s2.holdLeft then
      { s2 with holdLeft := s2.holdLeft - 1, curFmt := if s2.holdLeft = 1 then s2.baseFmt else s2.curFmt }
    else s2
  ({ s3 with pendAmax := 0#32, pendNorm := 0#32, pendFmt := 0xF, produced := false, tileRecast := false
             calDone := false }, reload)

/-- The jump requests of phase one: target slot and code. -/
def CoreSt.jumpRequests (c : CoreSt) : List (Nat × Nat) :=
  c.slots.filterMap fun (i, s) =>
    if s.monitor.2 then
      let t := if s.linkEn then s.link else i
      let target := c.slot t
      match target.cur.wider with
      | some f => if target.used then some (t, f.code) else none
      | none => none
    else none

/-- The commit of every used slot of a core. Returns the core, jumps detected, and whether any slot reloaded HOLD_LEFT. -/
def CoreSt.gaugeCommit (c : CoreSt) : CoreSt × Nat × Bool :=
  let reqs := c.jumpRequests
  let upd := c.slots.map fun (i, s) =>
    if s.used then
      let (s1, j) := s.monitor
      let r := (reqs.filter fun (q : Nat × Nat) => q.1 == i).foldl (fun a (q : Nat × Nat) => widerOf a q.2) 0xF
      let (s2, re) := s1.commit r
      (i, s2, j, re)
    else (i, s, false, false)
  (upd.foldl (fun c u => { c with slots := tset {} c.slots u.1 u.2.1 }) c,
   (upd.filter fun u => u.2.2.1).length, upd.any fun u => u.2.2.2)

/-! ### Conversions -/

/-- PEND_AMAX and PRODUCED of a conversion (R110); with `m`, its requests and counts too (R114, R117, R124).
DEDUCED, log entry 80. -/
def GSlot.note (s : GSlot) (st : Staged) (o : Option ConvOut) : GSlot :=
  let s1 := { s with pendAmax := maxMag s.pendAmax st.amax, produced := true }
  match o with
  | none => s1
  | some o =>
    let n := o.counts
    { s1 with
      pendNorm := if s.normEn then (match st.rms with | some r => maxMag s.pendNorm r | none => s.pendNorm) else s.pendNorm
      pendFmt := match o.request with | some f => widerOf s.pendFmt f.code | none => s.pendFmt
      tileRecast := s.tileRecast || o.tileRecast
      zero := sat 32 (s.zero + n.zero), under := sat 32 (s.under + n.under), clip := sat 32 (s.clip + n.clip)
      nonfin := sat 32 (s.nonfin + n.nonfin), escCnt := sat 32 (s.escCnt + n.esc), blank := sat 32 (s.blank + n.blank)
      reset := sat 32 (s.reset + n.reset), recast := sat 32 (s.recast + n.recast), wide := sat 32 (s.wide + n.wide) }

/-- Clear the counters of a slot (R116). DEDUCED, log entry 32. -/
def GSlot.clearCounters (s : GSlot) : GSlot :=
  { s with zero := 0, under := 0, clip := 0, nonfin := 0, escCnt := 0, blank := 0, reset := 0, recast := 0, wide := 0
           jump := 0 }

/-- Clear the history of a slot (R127). DEDUCED, log entry 32. -/
def GSlot.clearHistory (s : GSlot) : GSlot := { s with valid := 0, head := 0 }

/-! ### Summary records (Table 5-3) -/

def GSlot.summary (s : GSlot) (idx : Nat) : List Byte :=
  natLe 4 s.tag ++ natLe 4 s.pendAmax.toNat ++ natLe 4 s.pendNorm.toNat ++ natLe 2 idx ++
  natLe 1 (s.pendFmt * 16 + b2n s.produced * 8 + b2n s.tileRecast * 4) ++ natLe 1 0

/-- Fold a record into the slot it names (R112). -/
def GSlot.fold (s : GSlot) (r : List Byte) : GSlot :=
  let fl := field r 0x0E 1
  { s with pendAmax := maxMag s.pendAmax (BitVec.ofNat 32 (field r 4 4))
           pendNorm := maxMag s.pendNorm (BitVec.ofNat 32 (field r 8 4))
           pendFmt := widerOf s.pendFmt (fl / 16), produced := s.produced || bit fl 3
           tileRecast := s.tileRecast || bit fl 2 }

/-! ### Recast of a core and of a partition (R125, R126) -/

/-- Member slots of a core. -/
def CoreSt.members (c : CoreSt) : List GSlot := (c.slots.map (·.2)).filter fun s => s.used && s.member

/-- The slot is in tile or slot recast. -/
def GSlot.inRecast (s : GSlot) : Bool := s.tileRecast || s.curFmt != s.baseFmt

/-- The core asserts ALL_RECAST. -/
def CoreSt.assertsAll (c : CoreSt) : Bool := !c.members.isEmpty && c.members.all (·.inRecast)

/-- The condition of GLOBAL_RECAST over a partition's cores, by the ALL_RECAST state that has reached H. -/
def Dev.globalCondition (d : Dev) (p : Nat) : Bool :=
  let cs := (d.coresOf p).map d.core |>.filter fun c => !c.members.isEmpty
  !cs.isEmpty && cs.all (·.allRecast)

/-- Put a slot in place of the old one: CALIB when it enters calibration (R127). -/
def Dev.putSlot (d : Dev) (k i : Nat) (s : GSlot) : Dev :=
  let old := (d.core k).slot i
  let enters := s.calib && (!old.calib || (s.used && !old.used))
  (d.modCore k fun c => c.modSlot i fun _ => s).raiseIf enters (pgGauge k) 7

end Sys2Proof.Machine
end

