-- ==== Sys2Proof/Machine/Sequencer.lean ====
section
/-!
DEFINITION. Sys2Proof/Machine/Sequencer.lean: the sequencer of a core (R194–R207): fetch, waits, lists and segments,
abandonment, retirement and the command record (R443–R446).
-/
namespace Sys2Proof.Machine

/-! ### Lists -/

/-- First and last index of a list (Table 8-15). -/
def ListSt.first (s : ListSt) : Nat := s.cfg.toNat % 1024
def ListSt.last (s : ListSt) : Nat := bits s.range.toNat 25 16

/-- The list may be admitted (R224). -/
def ListSt.admissible (s : ListSt) : Bool :=
  bit s.cfg.toNat 31 && decide (s.first ≤ s.last) && decide (bits s.cfg.toNat 27 24 < 8)

/-- Descriptor `i` of command memory. -/
def CoreSt.fetch (c : CoreSt) (i : Nat) : List Byte := c.cmem.read (64 * i) 64

/-- Some list of the core is abandoned: CORE.STATUS.FAULT (R206). -/
def CoreSt.fault (c : CoreSt) : Bool := c.lists.any fun l => l.2.state == .abandoned

/-- Units with commands issued and not retired, as WAITMASK numbers them. -/
def CoreSt.busyUnits (c : CoreSt) : Nat := c.cmds.foldl (fun m x => m ||| 2 ^ x.unit) 0

/-- WAITMASK and FENCE are satisfied (R202). -/
def CoreSt.mayIssue (c : CoreSt) (desc : List Byte) : Bool :=
  c.busyUnits &&& dWaitMask desc == 0 && (!dFence desc || c.cmds.isEmpty)

/-- ERR_INFO0 of the sequencer's codes (R227). -/
def seqInfo (list idx : Nat) : Nat := list * 2 ^ 28 + idx

/-- Descriptors of the current segment from index `i`: up to the next WAIT.TICK, or END included (R205). `n` bounds the
list. DEDUCED, log entry 37. -/
def CoreSt.segmentRest (c : CoreSt) : Nat → Nat → Nat
  | 0, _ => 0
  | n + 1, i =>
    let op := dOp (c.fetch i)
    if op = 5 then 0 else if op = 6 then 1 else 1 + c.segmentRest n (i + 1)

/-- One of the `n` descriptors from index `i` has EVT set. -/
def CoreSt.evtAmong (c : CoreSt) (i n : Nat) : Bool := (List.range n).any fun j => dEvt (c.fetch (i + j))

/-- Mark a list abandoned: its skipped descriptors retire, are counted, and raise CMD where EVT asks; FAULT is raised (R204,
R205). -/
def Dev.markAbandoned (d : Dev) (k l : Nat) : Dev :=
  let c := d.core k
  let s := c.list l
  let n := if s.state = .running then c.segmentRest (s.last + 1 - s.cursor) s.cursor else 0
  let d := d.modCore k fun c => c.modList l fun s => { s with state := .abandoned }
  ((d.bump (pgCore k) 0x120 n).raiseIf (c.evtAmong s.cursor n) (pgCore k) 2).raise (pgCore k) 1

/-- Start the first of the admitted lists still to run; a list whose cursor stands past its last index is abandoned
with 0x0108 (R199). -/
def Dev.beginLists (d : Dev) (k : Nat) : List Nat → Dev
  | [] => d.modCore k fun c => { c with running := none, todo := [] }
  | l :: ls =>
    let s := (d.core k).list l
    if s.last < s.cursor then
      ((d.setError (pgCore k) 0x0108 (seqInfo l s.last) 0).markAbandoned k l).beginLists k ls
    else
      d.modCore k fun c => { (c.modList l fun s => { s with state := .running }) with running := some l, todo := ls }

/-- Pass to the next admitted list (R195). -/
def Dev.nextList (d : Dev) (k : Nat) : Dev := d.beginLists k (d.core k).todo

/-- Abandon a list (R205); the sequencer passes on when it was the running one. -/
def Dev.abandon (d : Dev) (k l : Nat) : Dev :=
  let d' := d.markAbandoned k l
  if (d.core k).running = some l then d'.nextList k else d'

/-- Move the running list's cursor; past the last index the list is abandoned with 0x0108 (R199). DEDUCED, log entry 36. -/
def Dev.moveCursor (d : Dev) (k l idx : Nat) : Dev :=
  let s := (d.core k).list l
  let d := d.modCore k fun c => c.modList l fun s => { s with cursor := idx }
  if s.last < idx then (d.setError (pgCore k) 0x0108 (seqInfo l s.last) 0).abandon k l else d

/-- The running list of a core and the descriptor at its cursor. DESIGN CHOICE, log entry 38. -/
def Dev.atCursor (d : Dev) (k : Nat) : Option (Nat × ListSt × List Byte) :=
  let c := d.core k
  c.running.map fun l => (l, c.list l, c.fetch (c.list l).cursor)

/-- A waiting issue cycle (R200, R202). DESIGN CHOICE, log entry 9. -/
def Dev.stallIssue (d : Dev) (k : Nat) : Dev := d.bump (pgCore k) 0x11C 1

/-! ### Command records -/

/-- FMT byte of a record (Table 16-2). -/
def recordFmt (desc : List Byte) : Nat :=
  let m := modesOf desc
  if 0x10 ≤ dOp desc ∧ dOp desc ≤ 0x26 then m.fmtIn * 16 + m.fmtOut
  else if dOp desc = 0x39 then (DmaB.parse desc).fmt * 16 else 0

/-- The 128-byte record of a retired command; `cycles` is a timing value. DESIGN CHOICE, log entry 9. -/
def Cmd.record (c : Cmd) (k impr cycles : Nat) : List Byte :=
  let n := c.counts
  let t := n.tiles
  let q (x : Nat) := natLe 8 (sat 48 x)
  let w (x : Nat) := natLe 4 (sat 32 x)
  let h (x : Nat) := natLe 2 (sat 16 x)
  natLe 4 c.seq ++ natLe 4 (dUserTag c.desc) ++ natLe 1 (dOp c.desc) ++ natLe 1 (recordFmt c.desc) ++
  natLe 2 ((c.err.map (·.code)).getD 0) ++ natLe 2 (c.list * 2 ^ 12 + c.idx) ++ natLe 2 k ++ natLe 8 c.startTime ++
  w cycles ++ natLe 4 impr ++ q n.fMac ++ q n.fMacRecast ++ q n.bMac ++ q n.rowOps ++ q n.converted ++ q n.bytes ++
  natLe 4 (sat 21 n.kCount) ++ w n.stall ++ w t.zero ++ w t.under ++ w t.clip ++ w t.nonfin ++ w t.esc ++ w t.blank ++
  h t.reset ++ h t.recast ++ h t.wide ++ h (sat 1 n.msgs) ++ natLe 2 (dEnergy c.desc) ++ natLe 6 0

/-- Write a command's record (R444, R445). -/
def Dev.writeRecord (d : Dev) (k : Nat) (c : Cmd) : Dev :=
  let cfg := d.reg (pgCnt k) 0x104
  if !bit cfg 31 then d
  else
    let len := 2 ^ (cfg % 32)
    let wr := d.reg (pgCnt k) 0x110
    let rd := d.reg (pgCnt k) 0x114
    let full := decide (len ≤ (wr + 2 ^ 32 - rd) % 2 ^ 32)
    let lost (d : Dev) := (d.bump (pgCnt k) 0x118 1).raise (pgCnt k) 1
    if full && bit cfg 30 then lost d
    else
      let a := d.reg64 (pgCnt k) 0x108 % 2 ^ 48 / 128 * 128 + wr % len * 128
      if d.saveHold.any fun r => overlaps a 128 r.1 r.2 then
        (d.bump (pgCnt k) 0x118 1).setError (pgCnt k) 0x0F04 (wr % len) c.seq
      else
        let (cy, d) := d.free
        let cycles := if c.started then cy.toNat % 2 ^ 32 else 0
        let d := if full then lost (d.setReg (pgCnt k) 0x114 ((rd + 1) % 2 ^ 32)) else d
        (d.write a (c.record k (d.imprNum k) cycles)).setReg (pgCnt k) 0x110 ((wr + 1) % 2 ^ 32)

/-! ### Retirement -/

/-- A command retires (R203–R205): its record, event CMD, and what its error does to its list. -/
def Dev.retire (d : Dev) (k : Nat) (c : Cmd) : Dev :=
  let d := d.modCore k fun x =>
    { x with cmds := x.cmds.filter (fun y => y.seq != c.seq), seqRetired := c.seq
             recvs := x.recvs.filter (fun r => r.seq != c.seq) }
  let d := (d.writeRecord k c).raiseIf (dEvt c.desc) (pgCore k) 2
  if c.err.isNone then d
  else if dCont c.desc then d.modCore k fun x => x.modList c.list fun s => { s with err := true }
  else d.abandon k c.list

/-- The live counter of an array, the row caster or the message engine (R446): value and tag. -/
def Dev.setLive (d : Dev) (k i seq v : Nat) : Dev :=
  d.modCore k fun c => { c with live := tset (0, 0) c.live i (v % 2 ^ 48, seq % 2 ^ 16) }

/-- A block starts a command (R443, R444). -/
def Dev.startCmd (d : Dev) (k : Nat) (c : Cmd) (live : Nat) : Dev :=
  if c.started then d
  else
    let d := d.modCore k fun x =>
      { (x.modCmd c.seq fun y => { y with started := true, startTime := d.time }) with
        curSeq := tset 0 x.curSeq live c.seq }
    d.setLive k live c.seq 0

/-- Replace a command in flight. -/
def Dev.putCmd (d : Dev) (k : Nat) (c : Cmd) : Dev := d.modCore k fun x => x.modCmd c.seq fun _ => c

/-- An issued command fails: its error is set on its page now, and it commits nothing more. It retires once its
earlier tiles have committed (R74). -/
def Dev.failCmd (d : Dev) (k : Nat) (c : Cmd) (e : ErrRec) : Dev :=
  (d.setErr e).putCmd k { c with err := some e, complete := c.staged.isEmpty }

/-- Commands issued to a unit and not yet started (R200). -/
def CoreSt.queued (c : CoreSt) (u : Nat) : Nat := (c.cmds.filter fun x => x.unit == u && !x.started).length

end Sys2Proof.Machine
end

