-- ==== Sys2Proof/Machine/Validate.lean ====
section
/-!
DEFINITION. Sys2Proof/Machine/Validate.lean: the checks a command passes when it issues: the sequencer's in the order of
R211, then those of its block in the order of the block's chapter.
-/
namespace Sys2Proof.Machine

/-- The first error of a list of checks. -/
def firstErr : List (Option ErrRec) → Option ErrRec
  | [] => none
  | some e :: _ => some e
  | none :: es => firstErr es

/-- A check as an error. -/
def errIf (c : Bool) (e : ErrRec) : Option ErrRec := if c then some e else none

/-- Header of the tile at an address. -/
def Dev.hdrAt (d : Dev) (a : Nat) : TileHdr := TileHdr.parse (d.read a 64)

/-! ### Ranges and strides -/

/-- Widest stored size an output can reach (R213): with a slot, that of its present format, and with RECAST_EN of the last
format of the wider() chain from its BASE_FMT. -/
def CoreSt.outReach (c : CoreSt) (m : Modes) : Nat :=
  let f := (Fmt.ofCode m.fmtOut).getD .fp4
  if m.slotEn then
    let s := c.slot m.slot
    max s.cur.tileBytes (if s.recastEn && s.base.narrow then Fmt.bf16.tileBytes else s.base.tileBytes)
  else f.tileBytes

/-- Stored size of an input format; a reserved one has none. -/
def inBytes (m : Modes) : Nat := ((Fmt.ofCode m.fmtIn).map Fmt.tileBytes).getD 0

/-- Bytes of `n` consecutive tiles of `size` bytes at a stride: whole strides, and a last tile larger than its stride to its
end (R211). -/
def tileSpan (n stride size : Nat) : Nat := if n = 0 then 0 else (n - 1) * stride + max stride size

/-- The command updates a slab and commits no tile of its own (R160, R161). -/
def slabOnly (e : Ext) : Bool := e.slabEn && !e.slabLast

/-- Does this command take part in slabs? B.MATMUL, B.ADD and ROW commands do (R159). -/
def slabOp (op : Nat) : Bool := op == 0x18 || op == 0x19 || decide (0x21 ≤ op ∧ op ≤ 0x26)

/-- The command's result tiles go into the slab it names (R160). ROW.NORM.BWD adds its parameter gradients instead (R154),
and ROW.DRAW has no tiles. -/
def slabTiles (op : Nat) (e : Ext) : Bool := slabOp op && e.slabEn && op != 0x22 && op != 0x26

/-- Bytes a moment array takes for `n` tiles in format code `f` (R273). -/
def momentBytes (f n : Nat) : Nat := if f = 0 then 8192 * n else if f = 1 then 4096 * n else 2112 * n

/-- KIND of a Platen's profile, and whether the kind uses a second moment. -/
def Dev.profileKind (d : Dev) (st prof : Nat) : Nat := d.reg (pgPlaten st) (0x200 + 32 * prof) % 8
def kindUsesM2 (kind : Nat) : Bool := kind == 2 || kind == 4

/-- The ranges of a PLATEN.SUBMIT in use, by address field (R272); a DRAIN has no array but P (R275). -/
def Dev.platenRanges (d : Dev) (b : PltB) : List (Nat × Nat × Nat) :=
  if b.drain then [(0, b.p, 0)] else
  let kind := d.profileKind (stackOf b.p) b.profile
  [(0, b.p, b.count * b.pStride), (1, b.g, b.count * b.gStride), (2, b.m1, momentBytes b.m1fmt b.count)] ++
  (if kindUsesM2 kind then [(3, b.m2, momentBytes b.m2fmt b.count)] else [])

/-- U's tile rows and columns (R265). -/
def DmaB.uRows (b : DmaB) : Nat := (b.dpitch + 63) / 64
def DmaB.uCols (b : DmaB) : Nat := (b.spitch + 31) / 32

/-- Source and destination ranges of a DMA descriptor (R264, R265); VROWS and VCOLS of TCOPY stand in spitch, dpitch. -/
def DmaB.ranges (b : DmaB) : (Nat × Nat) × (Nat × Nat) :=
  if b.tcopy then
    if b.spitch = 0 ∨ b.dpitch = 0 then ((b.src, 0), (b.dst, 0))
    else ((b.src, b.len * b.rows * b.srcStride), (b.dst, b.uRows * b.uCols * b.dstStride))
  else if b.len = 0 ∨ b.rows = 0 then ((b.src, 0), (b.dst, 0))
  else ((b.src, b.spitch * (b.rows - 1) + b.len), (b.dst, b.dpitch * (b.rows - 1) + b.len))

/-- The body's ranges, in field order (R211). -/
def Dev.bodyRanges (d : Dev) (desc : List Byte) (e : Ext) : List (Nat × Nat) :=
  let op := dOp desc
  if op = 0x10 ∨ op = 0x11 ∨ op = 0x18 then
    let b := Mx.parse desc
    [(b.aAddr, b.mt * b.kb * b.aStride), (b.bAddr, b.nt * b.kb * b.bStride)] ++
    (if slabOp op && slabOnly e then [] else [(b.cAddr, b.passes * b.cStride)])
  else if op = 0x19 then
    let b := AddB.parse desc
    if slabOnly e then [] else [(b.dst, b.count * b.dstStride)]
  else if op = 0x20 then
    let b := CvtB.parse desc
    if b.calibrated then [] else [(b.src, b.count * b.srcStride), (b.dst, b.count * b.dstStride)]
  else if 0x21 ≤ op ∧ op ≤ 0x26 then
    let b := RowB.parse desc
    let t := b.rt * b.tilesPerRow
    [(b.inAddr, t * b.inStride)] ++
    (if op = 0x22 ∨ op = 0x24 ∨ (op = 0x25 ∧ b.bwd) then [(b.in2Addr, t * b.in2Stride)] else []) ++
    if slabTiles op e && slabOnly e then [] else
    [(b.outAddr, if op = 0x26 then b.rt * b.outStride else t * b.outStride)]
  else if op = 0x38 ∨ op = 0x39 then
    let r := (DmaB.parse desc).ranges
    [r.1, r.2]
  else if op = 0x3C then
    let b := MsgB.parse desc
    if b.tag = 0 then [(b.addr, 192 * b.len)] else if b.tag = 1 then [(b.addr, 16 * b.len)] else []
  else if op = 0x3D then
    let b := MsgB.parse desc
    [(b.addr, (if b.tag = 0 then 192 else 16) * b.len)]
  else if op = 0x40 then (d.platenRanges (PltB.parse desc)).map (·.2)
  else if 0x30 ≤ op then
    let b := MsgB.parse desc
    [(b.addr, b.len)]
  else []

/-- Some range has a range code; a range of length 0 is checked at its start only. DEDUCED, log entry 29. -/
def rangesCode (rs : List Region) (code : Nat) (xs : List (Nat × Nat)) : Bool :=
  xs.any fun x => (if x.2 = 0 then (if (findRegion rs x.1).isNone then 0x0103 else 0) else rangeCode rs x.1 x.2) == code

/-- Keep banks of a core (R149), and the first that a range of its case touches. -/
def Dev.keepMask (d : Dev) (k : Nat) : Nat := d.reg (pgBwd k) 0x12C % 2 ^ 16
def Dev.keepHit (d : Dev) (k a n : Nat) : Option Nat :=
  (List.range 16).find? fun b => bit (d.keepMask k) b && overlaps a n (caseBase k + b * 0x20000) 0x20000

/-- A stride below its minimum (R213, R189, R265, R273). `mem` gives the byte at an address, where the FORMAT of a B.ADD
source stands (R140). -/
def CoreSt.strideBad (c : CoreSt) (mem : Nat → List Byte) (desc : List Byte) (e : Ext) : Bool :=
  let op := dOp desc
  let m := modesOf desc
  if op = 0x10 ∨ op = 0x11 ∨ op = 0x18 then
    let b := Mx.parse desc
    decide (b.aStride < inBytes m ∨ b.bStride < inBytes m) ||
    (if slabOp op && slabOnly e then false
     else if m.pOut then fmtNarrow m.fmtIn && decide (b.cStride < longPartialBytes)
     else decide (b.cStride < c.outReach m)) ||
    (e.dispEn && fmtNarrow m.fmtIn && decide (e.dispWStride < Fmt.bf16.tileBytes))
  else if op = 0x19 then
    let b := AddB.parse desc
    (!slabOnly e && decide (b.dstStride < c.outReach m)) ||
    (e.srcs.take b.nsrc).any fun s =>
      decide (s.2 < Fmt.bf16.tileBytes ∨ (s.2 < Fmt.fp32.tileBytes ∧ field (mem s.1) 0 1 / 16 = 10))
  else if op = 0x20 then
    let b := CvtB.parse desc
    !b.calibrated && decide (b.srcStride < inBytes m ∨ b.dstStride < c.outReach m)
  else if op = 0x26 then
    let b := RowB.parse desc
    decide (b.inStride < inBytes m ∨ b.outStride < 256)
  else if 0x21 ≤ op ∧ op ≤ 0x25 then
    let b := RowB.parse desc
    decide (b.inStride < inBytes m) ||
    ((op == 0x22 || op == 0x24 || (op == 0x25 && b.bwd)) && decide (b.in2Stride < inBytes m)) ||
    (!(m.pOut && (op == 0x22 || op == 0x24)) && !(slabTiles op e && slabOnly e) && decide (b.outStride < c.outReach m))
  else if op = 0x39 then
    let b := DmaB.parse desc
    let f := (Fmt.ofCode b.fmt).getD .fp32
    decide (b.srcStride < f.tileBytes ∨ b.dstStride < (if f = .fp32 then f else Fmt.bf16).tileBytes)
  else if op = 0x40 then
    let b := PltB.parse desc
    !b.drain && decide (b.pStride < (if b.masterBf16 then Fmt.bf16 else Fmt.fp32).tileBytes ∨
      b.gStride < Fmt.bf16.tileBytes)
  else false

/-- The sequencer's checks (R211), in its order. -/
def Dev.seqChecks (d : Dev) (k l idx seq segClass : Nat) (raw desc : List Byte) (e : Ext) : Option ErrRec :=
  let op := dOp desc
  let err (code : Nat) := errOn (pgCore k) code (seqInfo l idx) seq
  if badHeader raw || badFields desc e then some (err 0x0101)
  else
    let rs := match d.partOf k with
      | some p => if op = 0x38 ∨ op = 0x39 then d.dmaRegions p else d.cmdRegions k
      | none => []
    let xs := d.bodyRanges desc e
    let m := modesOf desc
    let b := MsgB.parse desc
    let dma := DmaB.parse desc
    let far := decide (op = 0x30) && !(match d.partOf k with
      | some p => d.ownsCore p b.peer || (decide (0x7F8 ≤ b.peer ∧ b.peer < 0x7FC) && d.owns p (b.peer - 0x7F8))
      | none => false)
    firstErr [
      errIf (rangesCode rs 0x0102 xs || (m.extEn && decide (caseBytes < m.extOff + 128)) ||
        ((op == 0x30 || op == 0x34) && decide (2 ^ 24 ≤ b.len)) ||
        ((op == 0x31 || op == 0x35) && b.len != 0 && (d.keepHit k b.addr b.len).isSome)) (err 0x0102),
      errIf (rangesCode rs 0x0103 xs || far ||
        (op == 0x39 && dma.sortEn && (findRegion rs dma.sort).isNone)) (err 0x0103),
      errIf (dClass desc != classOf desc e) (err 0x0104),
      errIf ((d.core k).strideBad (fun a => d.read a 1) desc e) (err 0x0105),
      errIf (decide (segClass < dClass desc)) (err 0x0107)]

/-! ### Matrix commands -/

/-- A command that reads its operands with display channels. -/
def displayOn (desc : List Byte) (e : Ext) : Bool := e.dispEn && fmtNarrow (modesOf desc).fmtIn

/-- Display channels: the set bits of the mask among the command's channels, rising (R96). -/
def Dev.displayOf (d : Dev) (k : Nat) (desc : List Byte) (e : Ext) : List Nat :=
  if displayOn desc e then
    let nt := (Mx.parse desc).nt
    let bs := d.read (caseBase k + e.disp) (8 * nt)
    (List.range (64 * nt)).filter fun n => bit (bs.getD (n / 8) 0#8).toNat (n % 8)
  else []

/-- Address of tile b of the display weight tensor's tile row R (R96, R212). -/
def dispTile (m : Mx) (e : Ext) (r b : Nat) : Nat := e.dispW + (r * m.kb + b) * e.dispWStride

/-- Valid rows of B tile row `b`, by its first tile. -/
def Dev.bRows (d : Dev) (m : Mx) (b : Nat) : Nat := min 64 (d.hdrAt (m.bAddr + b * m.kb * m.bStride)).rows

/-- Channels the passes of a command use, rising (R89). -/
def Dev.channels (d : Dev) (m : Mx) : List Nat :=
  (List.range m.nt).flatMap fun b =>
    m.halves.flatMap fun h => (List.range (min 32 (d.bRows m b - 32 * h))).map fun j => 64 * b + 32 * h + j

/-- Combined rescale entries of the channels used (R89, R97): a channel and its entry, or the first channel refused. -/
def Dev.rescaleOf (d : Dev) (m : Mx) (e : Ext) (tsA tsB : Nat) (disp : List Nat) : Except Nat (Table F32) :=
  let rec go : List Nat → Except Nat (Table F32)
    | [] => .ok []
    | n :: ns =>
      let w : Option F32 :=
        if !e.rescaleEn then some fone
        else if n < e.rescaleBound then some (BitVec.ofNat 32 (d.readNat (e.rescale + 4 * n) 4)) else none
      match w.bind fun w => rescaleEntry w tsA (if disp.contains n then 127 else tsB) with
      | none => .error n
      | some r => match go ns with
        | .ok rs => .ok ((n, r) :: rs)
        | .error x => .error x
  go (d.channels m)

/-- What a matrix command captures at issue. -/
structure MxSetup where
  onB : Bool := false
  tsA : Nat := 127
  tsB : Nat := 127
  display : List Nat := []
  rescale : Table F32 := []
  deriving DecidableEq, Repr

/-- The first tiles decide the tensor scales and whether a narrow command runs on the B-array (R89, R121). -/
def Dev.mxSetup (d : Dev) (k : Nat) (desc : List Byte) (e : Ext) : Except Nat MxSetup :=
  let m := Mx.parse desc
  let ha := d.hdrAt m.aAddr
  let hb := d.hdrAt m.bAddr
  let disp := d.displayOf k desc e
  let onB := fmtNarrow (modesOf desc).fmtIn && ((ha.fmt == 8 && ha.recast) || (hb.fmt == 8 && hb.recast))
  match d.rescaleOf m e ha.tscale hb.tscale disp with
  | .ok rs => .ok ⟨onB, ha.tscale, hb.tscale, disp, rs⟩
  | .error n => .error n

/-- Slot check of a converting command (R105). DEDUCED, log entry 80. -/
def CoreSt.slotCheck (c : CoreSt) (k seq : Nat) (m : Modes) (converts : Bool) : Option ErrRec :=
  let s := c.slot m.slot
  errIf (if m.slotEn then !s.used || s.baseFmt != m.fmtOut else converts && fmtNarrow m.fmtOut)
    (errOn (pgGauge k) 0x0301 m.slot seq)

/-- TENSOR_TAG of a command's output where a slot or the extension block names it (R511). -/
def CoreSt.outTagOf (c : CoreSt) (m : Modes) (e : Ext) (src : Nat) : Nat :=
  if m.slotEn then (c.slot m.slot).tag else if m.extEn then e.outTag else src

/-- Result tiles a ROW.NORM.BWD adds into a slab: dγ, then dβ (R154). -/
def rowSlabTiles (b : RowB) : Nat := 2 * b.tilesPerRow

/-- ROW commands that name statistics sets (R152). -/
def rowStats (op : Nat) : Bool := decide (0x21 ≤ op ∧ op ≤ 0x24)

/-- The command has an epilogue or prologue that names statistics sets (R156). -/
def fusedStats (op : Nat) (e : Ext) : Bool := op == 0x11 && e.epi != 0 && e.epi != 7

/-- Bytes of one transferred statistics set: a 16-byte header and its 128 words. -/
def setBytes : Nat := 528

/-- The command writes the dx of its apply prologue (R156). -/
def dxOn (op : Nat) (e : Ext) : Bool := op == 0x11 && (e.epi == 5 || e.epi == 6) && e.dxOut

/-- Ranges a command writes results into, its body's and its extension block's (R149); `reach` is the widest tile its output
can become. -/
def resultRanges (desc : List Byte) (m : Modes) (e : Ext) (slab : Option Slab) (k reach : Nat) : List (Nat × Nat) :=
  let op := dOp desc
  let sort := if m.fmtOut = 1 ∧ m.extEn then [(e.sortOut, 2 * e.sortOutBound)] else []
  let sl := match slab with | some s => [(caseBase k + s.base, s.bound)] | none => []
  if op = 0x10 ∨ op = 0x11 ∨ op = 0x18 then
    let b := Mx.parse desc
    (if slabOp op && slabOnly e then [] else [(b.cAddr, b.passes * b.cStride)]) ++ sort ++ sl ++
    (if dxOn op e then [(e.aux1, tileSpan (b.mt * b.kb) e.aux1Stride (max (inBytes m) Fmt.bf16.tileBytes))] else []) ++
    (if fusedStats op e && e.statsIo == 2 then [(e.aux2, b.mt * setBytes)] else [])
  else if op = 0x19 then
    let b := AddB.parse desc
    (if slabOnly e then [] else [(b.dst, b.count * b.dstStride)]) ++ sort ++ sl
  else if op = 0x20 then
    let b := CvtB.parse desc
    (if b.calibrated then [] else [(b.dst, b.count * b.dstStride)]) ++ sort
  else if 0x21 ≤ op ∧ op ≤ 0x26 then
    let b := RowB.parse desc
    (if slabTiles op e && slabOnly e then []
     else [(b.outAddr, if op = 0x26 then b.rt * b.outStride else b.rt * b.tilesPerRow * b.outStride)]) ++ sort ++ sl ++
    (if op = 0x22 ∧ e.slabEn ∧ e.slabLast then [(e.aux1, tileSpan (rowSlabTiles b) e.aux1Stride reach)] else []) ++
    (if rowStats op && e.statsIo == 2 then [(e.aux2, b.rt * setBytes)] else [])
  else if op = 0x3D then
    let b := MsgB.parse desc
    [(b.addr, (if b.tag = 0 then 192 else 16) * b.len)]
  else []

/-- Ranges of a command that converts under slot `m.slot`: its results, the calibration area where it runs the first pass
(R128), and with CALIBRATED the recorded destinations (R129). -/
def Dev.keepRanges (d : Dev) (k : Nat) (desc : List Byte) (m : Modes) (e : Ext) (slab : Option Slab) : List (Nat × Nat) :=
  let q := d.core k
  let s := q.slot m.slot
  let reach := q.outReach m
  let calibrated := dOp desc == 0x20 && (CvtB.parse desc).calibrated
  resultRanges desc m e slab k reach ++
  (if m.slotEn && s.calib && !s.calDone && !calibrated then [(s.calBase, s.calBound)] else []) ++
  (if calibrated then (List.range s.calCnt).map fun i => (d.readNat (s.calBase + 8 * i) 8 % 2 ^ 48, reach) else [])

/-- A result range in a keep bank without KEEP (R149). -/
def Dev.keepCheck (d : Dev) (k seq : Nat) (keep : Bool) (rs : List (Nat × Nat)) : Option ErrRec :=
  if keep then none
  else match rs.findSome? fun r => if r.2 = 0 then none else d.keepHit k r.1 r.2 with
    | some b => some (errOn (pgBwd k) 0x0408 (b * 2 ^ 16) seq)
    | none => none

/-- Slab check (R159): `tag` of the output and the number of result tiles. -/
def Dev.slabCheck (d : Dev) (k seq : Nat) (e : Ext) (pOut : Bool) (tag tiles : Nat) : Option ErrRec :=
  if !e.slabEn then none
  else
    let s := (d.core k).slab e.slabIdx
    if pOut || !s.valid || s.tag != tag || decide (s.bound < tiles * Fmt.fp32.tileBytes) then
      some (errOn (pgBwd k) 0x040A e.slabIdx seq)
    else errIf (decide (caseBytes < s.base + tiles * Fmt.fp32.tileBytes)) (errOn (pgBwd k) 0x040B (5 * 2 ^ 28) seq)

/-- Tap check (R165). -/
def Dev.tapCheck (d : Dev) (k seq : Nat) (e : Ext) (pOut : Bool) (tag : Nat) : Option ErrRec :=
  let t := (d.core k).tap e.tapIdx
  errIf (e.tapEn && (pOut || !t.en || t.tag != tag)) (errOn (pgBwd k) 0x040C e.tapIdx seq)

/-- The first of (which, address, length) outside the case and the partition's HBM (0x0208, 0x040B, 0x0508). -/
def Dev.outside (d : Dev) (k page code seq : Nat) (xs : List (Nat × Nat × Nat)) : Option ErrRec :=
  match xs.find? fun x => x.2.2 != 0 && !inRegions (d.cmdRegions k) x.2.1 x.2.2 with
  | some x => some (errOn page code (x.1 * 2 ^ 28) seq)
  | none => none

/-- Bytes of the wide partial that stands at an address, by its header (R141). -/
def Dev.widePartialAt (d : Dev) (a : Nat) : Nat := widePartialBytes (min 32 (d.readNat (a + 29) 1)) (d.readNat (a + 3) 1)

/-- The incoming partials of `n` units of work, with their sizes (R99, R141): (which, address, length). -/
def Dev.partialRanges (d : Dev) (long : Bool) (which n : Nat) (e : Ext) : List (Nat × Nat × Nat) :=
  if long then [(which, e.partialIn, tileSpan n e.partialStride longPartialBytes)]
  else (List.range n).map fun u => (which, e.partialIn + u * e.partialStride, d.widePartialAt (e.partialIn + u * e.partialStride))

/-- Row groups whose statistics a command names, from its first set (R152). -/
def statsCheck (k seq first groups : Nat) (used : Bool) : Option ErrRec :=
  errIf (used && decide (128 < first + groups)) (errOn (pgRow k) 0x0502 (groups * 2 ^ 8 + first) seq)

/-- An array of `n` input tiles of the row caster, each in a wide format of its own, by the FORMAT of its first tile. -/
def Dev.wideTiles (d : Dev) (a stride n : Nat) : Nat × Nat × Nat :=
  (0, a, tileSpan n stride (((Fmt.ofCode (d.hdrAt a).fmt).map Fmt.tileBytes).getD 64))

/-- Addresses of a FUSED command's epilogue or prologue (R156). -/
def Dev.fusedRanges (d : Dev) (m : Mx) (o : Modes) (e : Ext) : List (Nat × Nat × Nat) :=
  let n := m.nt * m.halves.length
  (match e.epi with
   | 3 => [d.wideTiles e.aux0 e.aux0Stride n, d.wideTiles e.aux1 e.aux1Stride (m.mt * n)]
   | 4 => [d.wideTiles e.aux1 e.aux1Stride (m.mt * n)]
   | 5 | 6 => [d.wideTiles e.aux0 e.aux0Stride (m.mt * m.kb)] ++
      (if e.dxOut then [(1, e.aux1, tileSpan (m.mt * m.kb) e.aux1Stride (max (inBytes o) Fmt.bf16.tileBytes))] else [])
   | 7 => if e.aux0 = 0 then [] else [d.wideTiles e.aux0 e.aux0Stride n]
   | _ => []) ++
  (if e.epi = 0 ∨ e.epi = 7 ∨ e.statsIo = 0 then [] else [(2, e.aux2, m.mt * setBytes)])

/-- Reserved format codes and mixed pairs in a descriptor (R50, R73): the codes of Table 3-11 on the block's page. -/
def fmtCheck (k seq : Nat) (desc : List Byte) : Option ErrRec :=
  let op := dOp desc
  let (page, code) := match unitOf desc with
    | some 0 => (pgFwd k, 0x02F0)
    | some 1 => (pgBwd k, 0x04F0)
    | _ => (pgRow k, 0x05F0)
  if !fmtsKnown desc then some (errOn page code 0 seq)
  else errIf ((op == 0x11 || op == 0x18) && (modesOf desc).fmtIn == 10) (errOn page (code + 1) 0 seq)

/-- Checks of F.MATMUL, FUSED and B.MATMUL (R82, R89, R96, R105, R134, R138, R149, R152, R159, R165).
DEDUCED, log entry 19. -/
def Dev.mxChecks (d : Dev) (k seq : Nat) (desc : List Byte) (e : Ext) : Option ErrRec :=
  let m := Mx.parse desc
  let o := modesOf desc
  let c := d.core k
  let f := fmtNarrow o.fmtIn
  let page := if f then pgFwd k else pgBwd k
  let disp := d.displayOf k desc e
  let drows := (disp.length + 63) / 64
  let nd := o.fmtIn == 1
  let slabs := slabOp (dOp desc)
  let tag := c.outTagOf o e 0
  let which (a b : Nat) := if f then a else b
  let rescaleErr := match d.mxSetup k desc e with
    | .error n => if m.passes = 0 ∨ o.pOut then none else some (errOn page (if f then 0x0206 else 0x0406) n seq)
    | .ok _ => none
  let displayErr := errIf (displayOn desc e && (decide (64 < disp.length) || o.pIn || o.pOut ||
      (List.range drows).any fun r => (List.range m.kb).any fun b => (d.hdrAt (dispTile m e r b)).fmt != 8))
    (errOn (pgFwd k) 0x0207 disp.length seq)
  let addresses := d.outside k page (if f then 0x0208 else 0x040B) seq
      ((if nd then [(2, e.sortA, 2 * e.sortABound), (2, e.sortB, 2 * e.sortBBound)] else []) ++
       (if e.rescaleEn then [(3, e.rescale, 4 * e.rescaleBound)] else []) ++
       (if displayOn desc e then [(4, caseBase k + e.disp, 8 * m.nt),
          (5, e.dispW, tileSpan (drows * m.kb) e.dispWStride Fmt.bf16.tileBytes)] else []) ++
       (if o.pIn then d.partialRanges f (which 6 4) m.passes e else []) ++
       (if o.fmtOut = 1 ∧ o.extEn then [(2, e.sortOut, 2 * e.sortOutBound)] else []))
  firstErr [
    errIf (decide (2 ^ 20 < m.k ∨ m.kTot < m.k ∨ 2 ^ 20 < m.kTot ∨ (!f ∧ m.kTot < m.kFirst + m.k)))
      (errOn page (if f then 0x0201 else 0x0401) m.kTot seq),
    rescaleErr, displayErr, addresses,
    c.slotCheck k seq o (!o.pOut),
    d.keepCheck k seq o.keep (d.keepRanges k desc o e (if slabs && e.slabEn then some (c.slab e.slabIdx) else none)),
    statsCheck k seq e.stats m.mt (fusedStats (dOp desc) e),
    d.outside k (pgRow k) 0x0508 seq (if dOp desc = 0x11 then d.fusedRanges m o e else []),
    (if slabs then d.slabCheck k seq e o.pOut tag m.passes else none),
    d.tapCheck k seq e o.pOut tag]

/-- Checks of B.ADD (R105, R140, R149, R159, R165). Its tag is the first source tile's. -/
def Dev.addChecks (d : Dev) (k seq : Nat) (desc : List Byte) (e : Ext) : Option ErrRec :=
  let b := AddB.parse desc
  let o := modesOf desc
  let c := d.core k
  let srcs := e.srcs.take b.nsrc
  let tag := (d.hdrAt (srcs.headD (0, 0)).1).tag
  firstErr [
    d.outside k (pgBwd k) 0x040B seq (srcs.map (fun s => (0, s.1, b.count * s.2)) ++
      (if o.fmtOut = 1 then [(2, e.sortOut, 2 * e.sortOutBound)] else [])),
    c.slotCheck k seq o true,
    d.keepCheck k seq o.keep (d.keepRanges k desc o e (if e.slabEn then some (c.slab e.slabIdx) else none)),
    d.slabCheck k seq e false tag b.count,
    d.tapCheck k seq e false tag]

/-- Checks of CONVERT (R105, R129, R149). -/
def Dev.cvtChecks (d : Dev) (k seq : Nat) (desc : List Byte) (e : Ext) : Option ErrRec :=
  let b := CvtB.parse desc
  let o := modesOf desc
  let c := d.core k
  let s := c.slot o.slot
  firstErr [
    d.outside k (pgRow k) 0x0508 seq (if o.fmtOut = 1 ∧ o.extEn then [(1, e.sortOut, 2 * e.sortOutBound)] else []),
    c.slotCheck k seq o true,
    errIf (b.calibrated && (!o.slotEn || !s.calib || s.calCnt == 0 || s.calDone)) (errOn (pgGauge k) 0x0305 o.slot seq),
    d.keepCheck k seq o.keep (d.keepRanges k desc o e none),
    d.tapCheck k seq e false (if o.slotEn then s.tag else (d.hdrAt b.src).tag)]

/-- Dropout is enabled (R188, Table 8-8). -/
def Ext.dropout (e : Ext) : Bool := !isZero e.dropF

/-- Checks of the ROW commands (R105, R149, R152, R153, R159, R165, R190). -/
def Dev.rowChecks (d : Dev) (k seq : Nat) (desc : List Byte) (e : Ext) : Option ErrRec :=
  let b := RowB.parse desc
  let o := modesOf desc
  let op := dOp desc
  let c := d.core k
  let tag := if o.slotEn then (c.slot o.slot).tag else (d.hdrAt b.inAddr).tag
  let pOut := o.pOut && (op == 0x22 || op == 0x24)
  let nd := o.fmtIn == 1
  let two := op == 0x22 || op == 0x24 || (op == 0x25 && b.bwd)
  let tiles := if op = 0x22 then rowSlabTiles b else if op = 0x26 then 0 else b.rt * b.tilesPerRow
  firstErr [
    statsCheck k seq b.stats b.rt (rowStats op),
    errIf (decide (2 ^ 20 < b.n)) (errOn (pgRow k) 0x0501 b.n seq),
    errIf (op == 0x26 && (nonFin b.param || isSubnormal b.param || (bit b.param.toNat 31 && !isZero b.param)))
      (errOn (pgRow k) 0x0506 b.param.toNat seq),
    d.outside k (pgRow k) 0x0508 seq
      ((if nd then [(0, e.sortA, 2 * e.sortABound)] else []) ++
       (if nd ∧ two then [(0, e.sortB, 2 * e.sortBBound)] else []) ++
       (if op = 0x21 ∨ op = 0x22 ∨ (op = 0x25 ∧ e.aux0 ≠ 0) then [d.wideTiles e.aux0 e.aux0Stride b.tilesPerRow] else []) ++
       (if op = 0x21 then [d.wideTiles e.aux1 e.aux1Stride b.tilesPerRow] else []) ++
       (if op = 0x22 ∧ e.slabEn ∧ e.slabLast then [(1, e.aux1, tileSpan (rowSlabTiles b) e.aux1Stride (c.outReach o))]
        else []) ++
       (if o.fmtOut = 1 ∧ o.extEn ∧ op ≠ 0x26 then [(1, e.sortOut, 2 * e.sortOutBound)] else []) ++
       (if rowStats op && e.statsIo != 0 then [(2, e.aux2, b.rt * setBytes)] else []) ++
       (if (op = 0x22 ∨ op = 0x24) ∧ o.pIn then d.partialRanges false 3 b.rt e else [])),
    (if op = 0x26 then none else c.slotCheck k seq o (!pOut)),
    d.keepCheck k seq o.keep (d.keepRanges k desc o e (if e.slabEn && op != 0x26 then some (c.slab e.slabIdx) else none)),
    d.slabCheck k seq e pOut tag tiles,
    (if op = 0x26 then none else d.tapCheck k seq e pOut tag)]

/-! ### The other blocks -/

/-- Checks of the DMA descriptors (R265, R266), on the engine's page. -/
def Dev.dmaChecks (k seq : Nat) (desc : List Byte) : Option ErrRec :=
  let b := DmaB.parse desc
  let page := pgDma (coreDie k) b.engine
  let (s, t) := b.ranges
  firstErr [
    errIf (b.tcopy && decide (64 * b.len < b.spitch ∨ 32 * b.rows < b.dpitch)) (errOn page 0x0705 b.spitch seq),
    errIf (s.2 != 0 && t.2 != 0 && overlaps s.1 s.2 t.1 t.2) (errOn page 0x0704 0 seq)]

/-- The stack whose Platen a submit goes to, or is rejected on: the first that its address fields name (R272). Where they
name none, a stack of the core's die. DESIGN CHOICE, log entry 93. -/
def Dev.platenStack (d : Dev) (k : Nat) (b : PltB) : Nat :=
  match (d.platenRanges b).find? fun r => decide (stackOf r.2.1 < 8) with | some r => stackOf r.2.1 | none => 2 * coreDie k

/-- Checks of PLATEN.SUBMIT (R272): every range in one stack, AUX in reach. -/
def Dev.platenChecks (d : Dev) (k seq : Nat) (desc : List Byte) : Option ErrRec :=
  let b := PltB.parse desc
  let st := d.platenStack k b
  let page := pgPlaten st
  let bad := (d.platenRanges b).find? fun r => r.2.2 != 0 && stackOf r.2.1 != st
  let drainBad := b.drain && !((d.partOf k).any fun p => stackOf b.p == st && d.owns p (st / 2))
  let aux := if b.phase = 1 then 16 else if b.phase = 2 then 4 else 0
  firstErr [
    (match bad with | some r => some (errOn page 0x0801 (r.1 * 2 ^ 28 + k) seq) | none => none),
    errIf drainBad (errOn page 0x0801 k seq),
    errIf (aux != 0 && b.count != 0 && !inRegions (d.cmdRegions k) b.aux aux) (errOn page 0x0801 (4 * 2 ^ 28 + k) seq)]

/-- Checks of the galley commands (R249). -/
def Dev.galleyChecks (d : Dev) (k seq : Nat) (desc : List Byte) : Option ErrRec :=
  let b := MsgB.parse desc
  let cfg := ((d.core k).galley b.peer).cfg.toNat
  let used := if dOp desc = 0x34 then bits cfg 27 26 else bits cfg 25 24
  errIf (!bit cfg 31 || used != 0) (errOn (pgGalley k) 0x0601 (b.peer * 2 ^ 28) seq)

/-- The checks of the command's block, which follow those of R211. -/
def Dev.blockChecks (d : Dev) (k : Nat) (desc : List Byte) (e : Ext) : Option ErrRec :=
  let seq := (d.core k).seqNext
  let op := dOp desc
  if decide (0x10 ≤ op ∧ op ≤ 0x26) && (fmtCheck k seq desc).isSome then fmtCheck k seq desc
  else if op = 0x10 ∨ op = 0x11 ∨ op = 0x18 then d.mxChecks k seq desc e
  else if op = 0x19 then d.addChecks k seq desc e
  else if op = 0x20 then d.cvtChecks k seq desc e
  else if 0x21 ≤ op ∧ op ≤ 0x26 then d.rowChecks k seq desc e
  else if op = 0x34 ∨ op = 0x35 then d.galleyChecks k seq desc
  else if op = 0x38 ∨ op = 0x39 then Dev.dmaChecks k seq desc
  else if op = 0x3D then d.keepCheck k seq false (resultRanges desc {} e none k 0)
  else if op = 0x40 then d.platenChecks k seq desc
  else none

/-- Ranges a command writes, of every unit (R353). -/
def Dev.writtenRanges (d : Dev) (desc : List Byte) (e : Ext) (k : Nat) : List (Nat × Nat) :=
  let op := dOp desc
  if op = 0x38 ∨ op = 0x39 then [(DmaB.parse desc).ranges.2]
  else if op = 0x31 ∨ op = 0x35 then [((MsgB.parse desc).addr, (MsgB.parse desc).len)]
  else if op = 0x40 then
    let b := PltB.parse desc
    ((d.platenRanges b).filter fun r => r.1 != 1).map (·.2) ++ (if b.phase = 1 then [(b.aux, 16)] else [])
  else d.keepRanges k desc (modesOf desc) e
    (if slabOp op && e.slabEn && op != 0x26 then some ((d.core k).slab e.slabIdx) else none)

/-- A write into a save area while a proof captures or copies is a bounds violation (R353). -/
def Dev.saveCheck (d : Dev) (k l idx seq : Nat) (desc : List Byte) (e : Ext) : Option ErrRec :=
  errIf ((d.writtenRanges desc e k).any fun r => r.2 != 0 && d.saveHold.any fun h => overlaps r.1 r.2 h.1 h.2)
    (errOn (pgCore k) 0x0102 (seqInfo l idx) seq)

/-- A length or tile count of 0: the command retires at once as a no-op (R82, R211, R234). The row length of ROW.DRAW is none
of these: R189 says what its rows return then. DEDUCED, log entries 29, 39 and 80. -/
def noWork (desc : List Byte) : Bool :=
  let op := dOp desc
  if op = 0x10 ∨ op = 0x11 ∨ op = 0x18 then (Mx.parse desc).passes == 0
  else if op = 0x19 then (AddB.parse desc).count == 0
  else if op = 0x20 then !(CvtB.parse desc).calibrated && (CvtB.parse desc).count == 0
  else if 0x21 ≤ op ∧ op ≤ 0x26 then (op != 0x26 && (RowB.parse desc).n == 0) || (RowB.parse desc).rt == 0
  else if op = 0x30 ∨ op = 0x34 ∨ op = 0x3C ∨ op = 0x3D then (MsgB.parse desc).len == 0
  else if op = 0x38 ∨ op = 0x39 then
    let b := DmaB.parse desc
    !b.drain && (b.ranges.1.2 == 0)
  else if op = 0x40 then !(PltB.parse desc).drain && (PltB.parse desc).count == 0
  else false

end Sys2Proof.Machine
end

