-- ==== Sys2Proof/Machine/Issue.lean ====
section
/-!
DEFINITION. Sys2Proof/Machine/Issue.lean: issue of a command: waits, checks, rejection, no-ops, room, capture, and entry
into its unit's queue (R200–R216, R109, R182).
-/
namespace Sys2Proof.Machine

/-- The extension block a command reads when it issues; empty when EXT_EN is 0 (R214). -/
def Dev.extBlock (d : Dev) (k : Nat) (desc : List Byte) : List Byte :=
  let m := modesOf desc
  if m.extEn then d.read (caseBase k + m.extOff) 128 else []

/-- Step number of a command's draws (R182). -/
def Dev.drawStep (d : Dev) (k : Nat) (m : Modes) (e : Ext) : Nat := if m.stepSrc then e.step else d.imprStep k

/-- LANE.SEED of a core. -/
def Dev.seed (d : Dev) (k : Nat) : Nat := d.reg64 (pgLane k) 0x108

/-- The class of a command's conversion draws: RAND_CLASS2 where dropout takes RAND_CLASS (R188). -/
def convClass (desc : List Byte) (e : Ext) : Nat :=
  let m := modesOf desc
  if (dOp desc == 0x25 || (dOp desc == 0x11 && e.epi == 7)) && e.dropout then e.class2 else m.randClass

/-- What a conversion captures at issue (R109). -/
def Dev.convOf (d : Dev) (k : Nat) (desc : List Byte) (e : Ext) : Conv :=
  let m := modesOf desc
  let s := (d.core k).slot m.slot
  let out := (Fmt.ofCode m.fmtOut).getD .fp32
  let key : DrawKey := { seed := d.seed k, tag := 0, step := d.drawStep k m e, cls := convClass desc e }
  if m.slotEn then
    { fmt := s.cur, base := s.base, slotEn := true, slot := m.slot, tscale := s.tscale, esc := s.esc
      resetK := s.resetK, resetMax := s.resetMax, recastEn := s.recastEn, normEn := s.normEn, rnd := m.rnd, key }
  else { fmt := out, base := out, rnd := m.rnd, key }

/-- The command as it enters its queue. -/
def Dev.mkCmd (d : Dev) (k l idx : Nat) (desc ext : List Byte) : Cmd :=
  let e := extOf desc ext
  let u := (unitOf desc).getD 0
  let base : Cmd :=
    { seq := (d.core k).seqNext, list := l, idx, desc, ext, unit := u, step := d.drawStep k (modesOf desc) e
      startTime := d.time }
  let op := dOp desc
  if op = 0x10 ∨ op = 0x11 ∨ op = 0x18 then
    let su := match d.mxSetup k desc e with | .ok x => x | .error _ => {}
    { base with conv := d.convOf k desc e, rescale := su.rescale, display := su.display, tsA := su.tsA, tsB := su.tsB
                onB := su.onB }
  else if 0x19 ≤ op ∧ op ≤ 0x26 then { base with conv := d.convOf k desc e }
  else base

/-- The command takes its sequence number (R201). -/
def Dev.takeSeq (d : Dev) (k : Nat) : Dev := d.modCore k fun c => { c with seqNext := (c.seqNext + 1) % 2 ^ 32 }

/-- Does the unit's queue have room (R200, R222, R262, R275)? -/
def Dev.hasRoom (d : Dev) (k : Nat) (desc : List Byte) : Bool :=
  let c := d.core k
  let op := dOp desc
  if op = 0x31 then decide (c.recvs.length < 32)
  else if op = 0x30 then decide ((d.flights.filter fun f => f.src == k).length < 4)
  else if op = 0x38 ∨ op = 0x39 then
    decide ((d.dma (16 * coreDie k + (DmaB.parse desc).engine)).accepted < 64)
  else if op = 0x40 then
    let x := d.platen (stackOf (PltB.parse desc).p)
    decide (x.queue.length + b2n x.running.isSome < 256)
  else decide (c.queued ((unitOf desc).getD 0) < 4)

/-- A command enters its unit's queue. -/
def Dev.enqueue (d : Dev) (k : Nat) (c : Cmd) : Dev := d.modCore k fun x => { x with cmds := x.cmds ++ [c] }

/-- A command whose opcode fits `fits` issues at the cursor of core k; `accept` is what its unit does with it.
DEDUCED, log entry 29; DESIGN CHOICE, log entry 38. -/
def Dev.issue (d : Dev) (k : Nat) (fits : List Byte → Bool) (accept : Dev → Cmd → Dev) : Dev :=
  match d.atCursor k with
  | none => d
  | some (l, s, raw) =>
    let c := d.core k
    if !fits raw then d
    else if !(d.hdr (pgCore k)).enable || !c.mayIssue raw then d.stallIssue k
    else
      let desc := resolve c raw
      let ext := d.extBlock k desc
      let e := extOf desc ext
      let cmd := d.mkCmd k l s.cursor desc ext
      let issued (d : Dev) := (d.takeSeq k).moveCursor k l (s.cursor + 1)
      let reject (x : ErrRec) :=
        -- with CONT 0 the list is abandoned from the next descriptor on
        ((((d.takeSeq k).setErr x).modCore k fun c => c.modList l fun s => { s with cursor := s.cursor + 1 }).retire k
          { cmd with err := some x })
      match (d.seqChecks k l s.cursor c.seqNext s.segClass raw desc e).or (d.saveCheck k l s.cursor c.seqNext desc e) with
      | some x =>
        let d' := reject x
        if dCont desc then d'.moveCursor k l (s.cursor + 1) else d'
      | none =>
        if noWork desc then issued (d.retire k cmd)
        else match d.blockChecks k desc e with
          | some x =>
            let d' := reject x
            if dCont desc then d'.moveCursor k l (s.cursor + 1) else d'
          | none =>
            if d.hasRoom k desc then accept (issued (d.enqueue k cmd)) cmd
            else
              let dm := pgDma (coreDie k) (DmaB.parse desc).engine
              (if dOp raw = 0x38 ∨ dOp raw = 0x39 then d.bump dm 0x120 1 else d).stallIssue k

/-- The command only enters its queue: its unit starts it in a later step. -/
def keepQueued (d : Dev) (_ : Cmd) : Dev := d

/-- The opcode of a descriptor is one of these, or reserved: a reserved opcode issues as any command and is rejected.
DESIGN CHOICE, log entry 38. -/
def opIn (ops : List Nat) (raw : List Byte) : Bool :=
  ops.contains (dOp raw) || ((unitOf raw).isNone && decide (6 < dOp raw))

end Sys2Proof.Machine
end

