-- ==== Sys2Proof/Machine/Message.lean ====
section
/-!
DEFINITION. Sys2Proof/Machine/Message.lean: messages between cores (R220–R223).
-/
namespace Sys2Proof.Machine

/-- First source number of the collective engines: engine c of the module sends as 0x7F8 + c (R319). DEDUCED, log entry 52. -/
def collSource : Nat := 0x7F8

/-- The die of a message's end: a core, or a collective engine. -/
def placeDie (k : Nat) : Nat := if collSource ≤ k then k - collSource else coreDie k

/-- The receive accepts the send (R220). -/
def Recv.accepts (r : Recv) (s : Send) : Bool := (r.any || r.src == s.src) && r.tag == s.tag

/-- An issued command has done its work and waits to retire, with an error or without. -/
def Dev.endCmd (d : Dev) (k seq : Nat) (e : Option ErrRec) : Dev :=
  (match e with | some x => d.setErr x | none => d).modCore k fun c =>
    c.modCmd seq fun y => { y with err := if e.isSome then e else y.err, complete := true }

/-- The sequencer's error record of an issued command. -/
def Cmd.coreErr (c : Cmd) (k code : Nat) : ErrRec := errOn (pgCore k) code (seqInfo c.list c.idx) c.seq

/-- The bytes of a message: read from the sender's buffer at the match; or the unit there that reads uncorrectable.
DEDUCED, log entry 39. -/
def Dev.sendData (d : Dev) (s : Send) : Except Nat (List Byte) :=
  if numCores ≤ s.src then .ok s.payload
  else match d.badAt s.addr s.len with
    | some u => .error u
    | none => .ok (d.read s.addr s.len)

/-- The send command of a message ends. -/
def Dev.endSend (d : Dev) (s : Send) (f : Cmd → Option ErrRec) : Dev :=
  match (d.core s.src).cmd? s.seq with
  | some c =>
    let d := if (f c).isNone then d.modCore s.src fun x => x.modCmd s.seq fun y =>
      { y with counts := { y.counts with bytes := s.len, msgs := 1 } } else d
    d.endCmd s.src s.seq (f c)
  | none => d

/-- A send meets the receive that takes it (R221). The receive is already out of the table. -/
def Dev.deliver (d : Dev) (k : Nat) (s : Send) (r : Recv) : Dev :=
  match (d.core k).cmd? r.seq with
  | none => d
  | some rc =>
    if r.bound < s.len then
      (d.endCmd k r.seq (some (rc.coreErr k 0x0109))).endSend s fun c => some (c.coreErr s.src 0x0109)
    else match d.sendData s with
      | .error u =>
        -- the sender's word is uncorrectable: its command ends, and the receive waits again (R219)
        (d.endSend s fun c => some { c.coreErr s.src 0x0110 with ue := some u }).modCore k fun x =>
          { x with recvs := r :: x.recvs }
      | .ok bs =>
        let d := d.write r.addr bs
        let d := d.modCore k fun x =>
          let x := x.modCmd r.seq fun y => { y with counts := { y.counts with bytes := s.len, msgs := 1 } }
          match r.lenToC with | some i => x.setC i s.len | none => x
        let d := (d.setLive k 3 r.seq s.len).endCmd k r.seq none
        let d := if s.src < numCores then d.setLive s.src 3 s.seq s.len else d
        d.endSend s fun _ => none

/-- Take the earliest-posted receive that matches a send. -/
def takeRecv (s : Send) : List Recv → Option (Recv × List Recv)
  | [] => none
  | r :: rs => if r.accepts s then some (r, rs) else (takeRecv s rs).map fun q => (q.1, r :: q.2)

/-- Take the earliest arrival a receive accepts. -/
def takeArrival (r : Recv) : List Send → Option (Send × List Send)
  | [] => none
  | s :: ss => if r.accepts s then some (s, ss) else (takeArrival r ss).map fun q => (q.1, s :: q.2)

/-- A send reaches its destination (R220): matched at once, or entered in the table of unmatched arrivals. -/
def Dev.arrive (d : Dev) (s : Send) : Dev :=
  let c := d.core s.dest
  match takeRecv s c.recvs with
  | some (r, rs) => (d.modCore s.dest fun c => { c with recvs := rs }).deliver s.dest s r
  | none => d.modCore s.dest fun c => { c with arrivals := c.arrivals ++ [s] }

/-- A send finds its destination's table full, and waits (R222). DEDUCED, log entry 39. -/
def Dev.mustWait (d : Dev) (s : Send) : Bool := decide (32 ≤ (d.core s.dest).arrivals.length)

/-- The message of a source's command arrives, unless an earlier one on its route is still on its way (R222, R231), its ends
are no longer of one partition (R24), or it must wait (R222). A message to a collective engine goes to `engine`, and its send ends (R317). -/
def Dev.messageArrives (d : Dev) (src seq : Nat) (engine : Dev → Nat → Send → Dev) : Dev :=
  match d.flights.find? fun f => f.src == src && f.seq == seq with
  | none => d
  | some s =>
    let same (f : Send) : Bool := f.src == s.src && f.dest == s.dest
    let gone : Dev := { d with flights := d.flights.filter fun f => !(f.src == src && f.seq == seq) }
    if (d.flights.find? same).any (fun f => f.seq != seq) then d
    else if !d.meshOpen (placeDie s.src) (placeDie s.dest) || (d.die (placeDie s.src)).part != (d.die (placeDie s.dest)).part then d
    else if 0x7F8 ≤ s.dest then (engine gone (s.dest - 0x7F8) s).endSend s fun _ => none
    else if d.mustWait s then d
    else gone.arrive s

/-- MSG.SEND issues (R220): the message is on its way from here on. DEDUCED, log entry 39. -/
def Dev.msgSend (d : Dev) (k : Nat) : Dev :=
  d.issue k (opIn [0x30]) fun d c =>
    let b := MsgB.parse c.desc
    let d := d.startCmd k c 3
    { d with flights := d.flights ++ [{ src := k, seq := c.seq, dest := b.peer, tag := b.tag, len := b.len, addr := b.addr }] }

/-- MSG.RECV issues (R220): it takes the earliest unmatched arrival that matches, or is posted. DEDUCED, log entry 39. -/
def Dev.msgRecv (d : Dev) (k : Nat) : Dev :=
  d.issue k (opIn [0x31]) fun d c =>
    let b := MsgB.parse c.desc
    let d := d.startCmd k c 3
    let r : Recv := ⟨c.seq, b.any, b.peer, b.tag, b.len, b.addr, b.lenToC⟩
    match takeArrival r (d.core k).arrivals with
    | some (s, ss) => (d.modCore k fun c => { c with arrivals := ss }).deliver k s r
    | none => d.modCore k fun c => { c with recvs := c.recvs ++ [r] }

end Sys2Proof.Machine
end

