-- ==== Sys2Proof/Machine/GalleyOps.lean ====
section
/-!
DEFINITION. Sys2Proof/Machine/GalleyOps.lean: galleys (R232–R251): stores, credits, push and pop, forwarding, flush and ABORT.
-/
namespace Sys2Proof.Machine

/-! ### Fields (Table 9-7) -/

def Galley.en (g : Galley) : Bool := bit g.cfg.toNat 31
def Galley.src (g : Galley) : Nat := bits g.cfg.toNat 27 26
def Galley.sink (g : Galley) : Nat := bits g.cfg.toNat 25 24
def Galley.thresh (g : Galley) : Nat := bits g.cfg.toNat 23 16
def Galley.srcLink (g : Galley) : Nat := bits g.srcid.toNat 25 20
def Galley.srcGalley (g : Galley) : Nat := bits g.srcid.toNat 14 11
def Galley.srcCore (g : Galley) : Nat := g.srcid.toNat % 2048
def Galley.destLink (g : Galley) : Nat := bits g.dest.toNat 25 20
def Galley.destGalley (g : Galley) : Nat := bits g.dest.toNat 14 11
def Galley.destCore (g : Galley) : Nat := g.dest.toNat % 2048

/-- Slots of the ring, capacity and occupancy (R232). -/
def Galley.ringSlots (g : Galley) : Nat := g.ringSize / 64
def Galley.capacity (g : Galley) : Nat := 16 + g.ringSlots
def Galley.occ (g : Galley) : Nat := g.head.length + g.ring.length + g.tail.length

/-- Marks of every slot held, oldest first: SOS and EOS. -/
def Galley.marks (g : Galley) : List (Bool × Bool) :=
  g.head.map (fun f => (f.sos, f.eos)) ++ g.ring.map (fun r => (r.sos, r.eos)) ++ g.tail.map fun f => (f.sos, f.eos)

/-- Slots of the slug at the front, and whether its last slot is among them. -/
def Galley.front (g : Galley) : Nat × Bool :=
  match g.marks.findIdx? (·.2) with
  | some i => (i + 1, true)
  | none => (g.occ, false)

/-- Change galley g of core k. -/
def Dev.modGalley (d : Dev) (k g : Nat) (f : Galley → Galley) : Dev := d.modCore k fun c => c.modGalley g f

/-- Word 0 of an error's information: the galley and a detail (R251). DEDUCED, log entry 44. -/
def galleyInfo (g detail : Nat) : Nat := g * 2 ^ 28 + detail % 2 ^ 28

/-! ### Slots moving on (R236) -/

/-- Move tail slots on: to the head while the ring is empty and the head has room, else to the ring. -/
def Dev.settleGalley (d : Dev) (k g : Nat) : Nat → Dev
  | 0 => d
  | fuel + 1 =>
    let x := (d.core k).galley g
    match x.tail with
    | [] => d
    | f :: fs =>
      if x.ring.isEmpty && decide (x.head.length < 8) then
        (d.modGalley k g fun x => { x with head := x.head ++ [f], tail := fs }).settleGalley k g fuel
      else if x.ring.length < x.ringSlots then
        let at_ := x.ringNext
        let a := x.ringBase + 64 * at_
        -- a ring in a save area that a proof has taken is not written (R353)
        let d := if d.inHold a 64 then d.setError (pgGalley k) 0x0602 (galleyInfo g 0) 0 else d.write a (padTo 64 f.data)
        (d.modGalley k g fun x =>
          { x with tail := fs, ringNext := (at_ + 1) % x.ringSlots
                   ring := x.ring ++ [⟨at_, f.valid, f.sos, f.eos, f.poison⟩] }).settleGalley k g fuel
      else d

/-- The oldest ring slot moves to the head, if that has room (R236); a slot that reads uncorrectable is marked (R246). -/
def Dev.ringToHead (d : Dev) (k g : Nat) : Dev :=
  let x := (d.core k).galley g
  match x.ring with
  | [] => d
  | r :: rs =>
    let a := x.ringBase + 64 * r.place
    if 8 ≤ x.head.length then d
    else
      let bad := d.badAt a 64
      let d := match bad with | some u => d.noteUncorr u | none => d
      let f : GFlit := ⟨d.read a 64, r.valid, r.sos, r.eos, false, r.poison || bad.isSome⟩
      let d := d.modGalley k g fun x => { x with head := x.head ++ [f], ring := rs }
      d.settleGalley k g ((d.core k).galley g).tail.length

/-- A slot enters the tail, which holds eight (R232): with every one of them taken a ring slot moves on first. -/
def Dev.enterSlot (d : Dev) (k g : Nat) (f : GFlit) : Dev :=
  let d := if ((d.core k).galley g).tail.length < 8 then d else d.ringToHead k g
  let d := d.modGalley k g fun x =>
    let x := { x with tail := x.tail ++ [f], receiving := !f.eos
                      pushCnt := if f.eos then sat 32 (x.pushCnt + 1) else x.pushCnt }
    { x with peak := max x.peak x.occ }
  d.settleGalley k g ((d.core k).galley g).tail.length

/-- Credits for `n` slots that left or were discarded go back to a forwarding source (R240, R241). -/
def Dev.creditBack (d : Dev) (k g n : Nat) : Dev :=
  let x := (d.core k).galley g
  if n = 0 then d
  else if x.src = 1 then { d with vc0 := d.vc0 ++ [⟨x.srcCore, x.srcGalley, n, k⟩] }
  else if x.src = 2 then
    let total := (x.freed + n) % 2 ^ 32
    (d.modGalley k g fun x => { x with freed := total }).sendRecord x.srcLink 3
      (natLe 2 k ++ natLe 1 g ++ natLe 1 0 ++ natLe 4 total)
  else d

/-- The stall state of a galley's producer (R242). A cycle of waiting is one attempt. DESIGN CHOICE, log entry 9. -/
def Dev.stallGalley (d : Dev) (k g : Nat) : Dev :=
  let rises := !((d.core k).galley g).stalled
  (d.modGalley k g fun x => { x with stalled := true, stallCnt := sat 32 (x.stallCnt + 1) }).raiseIf rises (pgGalley k) 1

/-! ### Commands at work (R235, R238, R239, R242) -/

/-- The running command on galley g: opcode `op`, started and not over. -/
def CoreSt.galleyCmd (c : CoreSt) (op g : Nat) : Option Cmd :=
  c.cmds.find? fun x => dOp x.desc == op && (MsgB.parse x.desc).peer == g && x.started && !x.complete

/-- Start galley commands in issue order: at most four at once, one to a galley. -/
def Dev.startGalleys (d : Dev) (k : Nat) : Nat → Dev
  | 0 => d
  | fuel + 1 =>
    let c := d.core k
    let mine := c.cmds.filter fun x => x.unit == 4
    let run := mine.filter fun x => x.started
    match mine.find? fun x => !x.started with
    | none => d
    | some x =>
      let g := (MsgB.parse x.desc).peer
      if 4 ≤ run.length ∨ run.any (fun y => (MsgB.parse y.desc).peer == g) = true then d
      else (d.modCore k fun c => c.modCmd x.seq fun y => { y with started := true, startTime := d.time }).startGalleys k fuel

/-- The header of a pushed slug (Table 9-4). -/
def slugHeader (k g impr : Nat) (c : Cmd) : List Byte :=
  let b := MsgB.parse c.desc
  natLe 3 b.len ++ natLe 1 1 ++ natLe 2 b.tag ++ natLe 2 impr ++ natLe 2 k ++ natLe 1 g ++ natLe 1 0 ++ natLe 4 c.seq

/-- Slot i of a slug whose header is `h` and payload lies at `a`. -/
def Dev.slugSlot (d : Dev) (h : List Byte) (a len i : Nat) : GFlit :=
  let total := 16 + len
  let n := min 64 (total - 64 * i)
  { data := if i = 0 then h ++ d.read a (n - 16) else d.read (a + 64 * i - 16) n
    valid := n, sos := i == 0, eos := decide (total ≤ 64 * i + 64) }

/-- A running push puts slots into the galley while there is room. `moved` counts its slots. -/
def Dev.pushSlots (d : Dev) (k g seq : Nat) : Nat → Dev
  | 0 => d
  | fuel + 1 =>
    match (d.core k).cmd? seq with
    | none => d
    | some c =>
      let b := MsgB.parse c.desc
      let x := (d.core k).galley g
      if c.complete then d
      else match if c.moved = 0 then d.badAt b.addr b.len else none with
        | some u => d.endCmd k seq (some { c.coreErr k 0x0110 with ue := some u })
        | none =>
          if x.capacity ≤ x.occ then
            (d.stallGalley k g).modCore k fun z => z.modCmd seq fun y =>
              { y with counts := { y.counts with stall := y.counts.stall + 1 } }
          else
            let f := d.slugSlot (slugHeader k g (d.imprNum k) c) b.addr b.len c.moved
            let d := (d.modGalley k g fun x => { x with stalled := false }).enterSlot k g f
            let d := d.modCore k fun z => z.modCmd seq fun y =>
              { y with moved := y.moved + 1, complete := f.eos
                       counts := if f.eos then { y.counts with bytes := b.len } else y.counts }
            d.pushSlots k g seq fuel

/-- Slots of the slug at the front are discarded to its end; true when its end was met. -/
def Galley.dropFront (g : Galley) : Galley × Nat × Bool :=
  let (n, whole) := g.front
  let h := min n g.head.length
  let r := min (n - h) g.ring.length
  ({ g with head := g.head.drop h, ring := g.ring.drop r, tail := g.tail.drop (n - h - r) }, n, whole)

/-- Discard the rest of a slug whose delivery failed (R246). -/
def Dev.dropSlug (d : Dev) (k g : Nat) : Dev :=
  let (x, n, whole) := ((d.core k).galley g).dropFront
  let d := d.modGalley k g fun _ =>
    if whole then { x with taking := false, taken := 0, dropping := false } else { x with taking := false, dropping := true }
  (d.creditBack k g n).settleGalley k g ((d.core k).galley g).tail.length

/-- The consumer of a galley takes the next head slot: the slot and the galley after it. -/
def Galley.takeHead (g : Galley) : Option (GFlit × Galley) :=
  match g.head with
  | [] => none
  | f :: fs =>
    some (f, { g with head := fs, taken := if f.eos then 0 else g.taken + 1, taking := !f.eos
                      popCnt := if f.eos then sat 32 (g.popCnt + 1) else g.popCnt })

/-- A running pop writes the head's slots to its buffer. `moved` counts payload bytes written. -/
def Dev.popSlots (d : Dev) (k g : Nat) : Nat → Dev
  | 0 => d
  | fuel + 1 =>
    let x := (d.core k).galley g
    match (d.core k).galleyCmd 0x35 g with
    | none => d
    | some c =>
      if !x.taking then d
      else match x.takeHead with
        | none => d
        | some (f, x') =>
          let first := if x.taken = 0 then 16 else 0
          let off := 64 * x.taken + first - 16
          let d := (d.modGalley k g fun _ => x').creditBack k g 1
          if f.poison then
            let d := d.endCmd k c.seq (some (errOn (pgGalley k) 0x0608 (galleyInfo g off) c.seq))
            let d := d.modGalley k g fun y =>
              { y with partialCnt := sat 16 (y.partialCnt + 1), popCnt := x.popCnt }
            if f.eos then d.modGalley k g fun x => { x with taking := false, taken := 0 } else d.dropSlug k g
          else
            let bs := (f.data.take f.valid).drop first
            let d := d.write ((MsgB.parse c.desc).addr + off) bs
            let d := d.modCore k fun z => z.modCmd c.seq fun y =>
              { y with moved := y.moved + bs.length, complete := f.eos
                       counts := { y.counts with bytes := y.counts.bytes + bs.length } }
            (d.settleGalley k g ((d.core k).galley g).tail.length).popSlots k g fuel

/-- Let the pushes and pops of core k go as far as their galleys allow. -/
def Dev.pumpGalleys (d : Dev) (k : Nat) : Dev :=
  let d := d.startGalleys k 4
  let d := (d.core k).cmds.foldl (fun d x =>
    if x.unit = 4 ∧ x.started ∧ ¬x.complete then
      let g := (MsgB.parse x.desc).peer
      if dOp x.desc = 0x34 then d.pushSlots k g x.seq (((d.core k).galley g).capacity + 1)
      else d.popSlots k g (((d.core k).galley g).capacity + 1)
    else d) d
  (List.range 16).foldl (fun d g => if ((d.core k).galley g).dropping then d.dropSlug k g else d) d

/-! ### The consumer begins (R237, R238, R245) -/

/-- The slug's stamp is earlier than, or half a range from, the current number (R44, R245). -/
def stampLate (stamp num : Nat) : Bool := serialLater 16 stamp (num % 2 ^ 16) || serialStale 16 stamp (num % 2 ^ 16)

/-- Count a late slug. DEDUCED, log entry 44. -/
def Dev.noteStamp (d : Dev) (k g : Nat) (hdr : List Byte) : Dev :=
  if stampLate (field hdr 6 2) (d.imprNum k) then (d.bump (pgCnt k) (0x140 + 4 * g) 1).raise (pgGalley k) 3 else d

/-- THRESH slots of the slug at the front, or all of it, are present (R237). -/
def Galley.canBegin (g : Galley) : Bool :=
  let (n, whole) := g.front
  g.en && !g.taking && !g.dropping && !g.head.isEmpty && (whole || (g.thresh != 0 && decide (g.thresh ≤ n)))

/-- GALLEY_CONSUMER_START. -/
def Dev.galleyConsumerStart (d : Dev) (k g : Nat) : Dev :=
  let x := (d.core k).galley g
  if 16 ≤ g ∨ x.canBegin = false then d
  else
    let hdr := (x.head.headD {}).data
    let begin_ (d : Dev) : Dev := (d.noteStamp k g hdr).modGalley k g fun x => { x with taking := true, taken := 0 }
    if x.sink = 0 then
      match (d.core k).galleyCmd 0x35 g with
      | none => d
      | some c =>
        let b := MsgB.parse c.desc
        let len := field hdr 0 3
        let tag := field hdr 4 2
        if (x.head.headD {}).poison then (begin_ d).pumpGalleys k
        else if b.len < len then (d.endCmd k c.seq (some (errOn (pgGalley k) 0x0604 (galleyInfo g len) c.seq)))
        else if b.tag ≠ 0xFFFF ∧ b.tag ≠ tag then
          d.endCmd k c.seq (some (errOn (pgGalley k) 0x0605 (galleyInfo g tag) c.seq))
        else (begin_ d).pumpGalleys k
    else begin_ d

/-! ### Forwarding (R240–R242, R293) -/

/-- Send one flit of a galley downstream. -/
def Dev.sendGalleyFlit (d : Dev) (k g : Nat) (f : GFlit) : Dev :=
  let x := (d.core k).galley g
  if x.sink = 1 then
    { d with vc2 := d.vc2 ++ [{ core := x.destCore, galley := x.destGalley, srcCore := k, srcGalley := g, flit := f }] }
  else if f.abort then d.sendRecord x.destLink 4 (natLe 2 x.destCore ++ natLe 1 x.destGalley)
  else
    (d.modGalley k g fun x => { x with sent := (x.sent + 1) % 2 ^ 32 }).pushFlit x.destLink
      { kind := 1
        wordA := x.destCore * 2 ^ 21 + x.destGalley * 2 ^ 17 + b2n f.sos * 2 ^ 6 + b2n f.poison * 2
        wordB := 64 * 2 ^ 24, payload := padTo 64 f.data }

/-- The partition of core k holds its movers: a cut is in QUIESCE or CAPTURE (R342). -/
def Dev.holds (d : Dev) (k : Nat) : Bool := match d.partOf k with | some p => (d.part p).moversHeld | none => false

/-- GALLEY_FORWARD_FLIT. An ABORT flit owed goes first, on a credit of its own (R244). DEDUCED, log entry 44. -/
def Dev.galleyForwardFlit (d : Dev) (k g : Nat) : Dev :=
  let x := (d.core k).galley g
  let link := x.sink == 2
  if 16 ≤ g ∨ x.en = false ∨ (x.sink ≠ 1 ∧ x.sink ≠ 2) ∨ d.holds k = true then d
  else if x.owesAbort then
    (d.modGalley k g fun x => { x with owesAbort := false }).sendGalleyFlit k g { valid := 1, eos := true, abort := true }
  else if !x.taking then d
  else match x.takeHead with
    | none => d
    | some (f, x') =>
      -- on a link a flit is formed when it can be sent at once
      let blocked := x.credit == 0 || (link && !(d.lnActive x.destLink && d.maySend x.destLink { kind := 1 } &&
        (d.ln x.destLink).waiting.all fun f => f.kind != 1))
      if blocked then d.stallGalley k g
      else
        let d := d.modGalley k g fun _ => { x' with credit := x.credit - 1, stalled := false }
        let d := (d.sendGalleyFlit k g f).creditBack k g 1
        (d.settleGalley k g ((d.core k).galley g).tail.length).pumpGalleys k

/-- GALLEY_RING_READ (R236, R246). -/
def Dev.galleyRingRead (d : Dev) (k g : Nat) : Dev :=
  let x := (d.core k).galley g
  if 16 ≤ g ∨ 8 ≤ x.head.length ∨ x.ring = [] then d else (d.ringToHead k g).pumpGalleys k

/-! ### Arrival (R240, R244, R249) -/

/-- Remove the unfinished slug at the back: the galley, and the slots discarded. -/
def Galley.dropBack (g : Galley) : Galley × Nat :=
  let keep := g.marks.length - (g.marks.reverse.takeWhile (fun m => !m.2)).length
  let h := min keep g.head.length
  let r := min (keep - h) g.ring.length
  ({ g with head := g.head.take h, ring := g.ring.take r, tail := g.tail.take (keep - h - r), receiving := false
            partVoid := !g.part.isEmpty, left := 0 }, g.occ - keep)

/-- A slug has begun to arrive with part of its first slot, and no whole slot of it is here (R293). -/
def Galley.halfSlug (g : Galley) : Bool := !g.part.isEmpty && g.partSos && !g.partVoid

/-- An ABORT flit cuts short the slug being received (R244). DEDUCED, log entry 44. -/
def Dev.abortSlug (d : Dev) (k g : Nat) : Dev :=
  let x := (d.core k).galley g
  if !x.receiving && !x.halfSlug then d
  else
    let (x', n) := x.dropBack
    -- the slug is the one being taken when no earlier whole slug stands before it
    let atFront := !x.marks.any (·.2)
    let inUse := atFront && x.taking
    let cut : Galley := { x' with
      partialCnt := sat 16 (x.partialCnt + 1)
      taking := if inUse then false else x.taking, taken := if inUse then 0 else x.taken
      dropping := if atFront then false else x.dropping
      owesAbort := x.owesAbort || (inUse && x.sink != 0 && decide (0 < x.taken)) }
    let cmd := if inUse then (d.core k).galleyCmd 0x35 g else none
    let d := (d.modGalley k g fun _ => cut).raise (pgGalley k) 4
    let d := match cmd with
      | some c => d.endCmd k c.seq (some (errOn (pgGalley k) 0x0609 (galleyInfo g c.moved) c.seq))
      | none => d
    d.creditBack k g n

/-- A galley flit reaches a galley from the right source; `own` is 1 where a flit discarded returns its credit (R240). -/
def Dev.acceptFlit (d : Dev) (k g own : Nat) (f : GFlit) : Dev :=
  let x := (d.core k).galley g
  if x.resync && !f.sos then (if f.abort then d else d.creditBack k g own)
  else
    let d := if x.resync then d.modGalley k g fun x => { x with resync := false } else d
    if f.abort then (d.abortSlug k g).pumpGalleys k
    else (d.enterSlot k g f).pumpGalleys k

/-- The oldest flit on VC2 toward a galley that is the first of its route: within one virtual channel, flits on one route
arrive in the order sent (R231). -/
def Dev.flitFor (d : Dev) (k g : Nat) : Option MeshFlit :=
  d.vc2.find? fun m => m.core == k && m.galley == g &&
    (d.vc2.find? fun x => x.core == m.core && x.srcCore == m.srcCore) == some m

/-- The same of credits on VC0. -/
def Dev.creditFor (d : Dev) (k g : Nat) : Option MeshCredit :=
  d.vc0.find? fun m => m.core == k && m.galley == g &&
    (d.vc0.find? fun x => x.core == m.core && x.srcCore == m.srcCore) == some m

/-- GALLEY_FLIT_ARRIVAL. -/
def Dev.galleyFlitArrival (d : Dev) (k g : Nat) : Dev :=
  match d.flitFor k g with
  | none => d
  | some m =>
    if !d.meshOpen (coreDie m.srcCore) (coreDie k) then d else
    let d := { d with vc2 := d.vc2.erase m }
    let x := (d.core k).galley g
    if !x.en || x.src != 1 || x.srcCore != m.srcCore || x.srcGalley != m.srcGalley then
      d.setError (pgGalley k) 0x0607 (galleyInfo g m.srcCore) 0
    else d.acceptFlit k g 1 m.flit

/-- GALLEY_CREDIT_ARRIVAL. -/
def Dev.galleyCreditArrival (d : Dev) (k g : Nat) : Dev :=
  match d.creditFor k g with
  | none => d
  | some m =>
    if !d.meshOpen (coreDie m.srcCore) (coreDie k) then d else
    { d with vc0 := d.vc0.erase m }.modGalley k g fun x => { x with credit := x.credit + m.n }

/-! ### Flush (R243, R244) -/

/-- Slugs a flush cuts: partial and whole ones. A slug that is being dropped was counted when that began (R246). -/
def Galley.flushCounts (g : Galley) : Nat × Nat :=
  let eos := (g.marks.filter (·.2)).length
  let frontCut := g.taking && decide (0 < g.taken)
  let frontWhole := g.front.2
  let whole := if (frontCut || g.dropping) && frontWhole then eos - 1 else eos
  -- the slug at the back is partly received; it is the front one when no slug before it has ended
  let back := (g.receiving || g.halfSlug) && !(g.dropping && !frontWhole)
  let partials := (if frontCut && frontWhole then 1 else 0) + (if back || (frontCut && !frontWhole) then 1 else 0)
  (partials, whole)

/-- GALLEY_FLUSH. DEDUCED, log entry 44. -/
def Dev.flushGalley (d : Dev) (k g : Nat) : Dev :=
  let x := (d.core k).galley g
  let (np, nw) := x.flushCounts
  let push := (d.core k).galleyCmd 0x34 g
  let pop := (d.core k).galleyCmd 0x35 g
  let n := x.occ
  let d := d.modGalley k g fun x =>
    { x with
      head := [], ring := [], tail := [], ringNext := 0, peak := 0, partVoid := !x.part.isEmpty, left := 0
      partialCnt := sat 16 (x.partialCnt + np), wholeCnt := sat 16 (x.wholeCnt + nw)
      owesAbort := x.owesAbort || (x.sink != 0 && x.taking && decide (0 < x.taken))
      taking := false, taken := 0, dropping := false, receiving := false, stalled := false
      resync := x.src != 0 }
  let d := d.creditBack k g n
  let d := match push with
    | some c =>
      let b := MsgB.parse c.desc
      d.endCmd k c.seq (some (errOn (pgGalley k) 0x0609 (galleyInfo g (min b.len (64 * c.moved - 16))) c.seq))
    | none => d
  let d := match pop with
    | some c => d.endCmd k c.seq (some (errOn (pgGalley k) 0x0609 (galleyInfo g c.moved) c.seq))
    | none => d
  (d.raise (pgGalley k) 2).pumpGalleys k

/-! ### Configuration (R248) -/

/-- The galley is named by an issued command (STAT.BUSY). -/
def CoreSt.galleyBusy (c : CoreSt) (g : Nat) : Bool := c.cmds.any fun x => x.unit == 4 && (MsgB.parse x.desc).peer == g

/-- A galley set to send over a link takes up the credit that its receiver granted before (R240, R301). -/
def Dev.takeGrant (d : Dev) (k g : Nat) : Dev :=
  let y := (d.core k).galley g
  let key := y.destCore * 16 + y.destGalley
  match if y.sink = 2 then tget none (d.ln y.destLink).grants key else none with
  | none => d
  | some n =>
    (d.modGalley k g fun y => { y with credit := n, sent := 0 }).modLn y.destLink fun s => { s with grants := tset none s.grants key none }

/-- The range lies in HBM of the partition of core k; its stacks may be adjacent ones (R248). -/
def Dev.inPartHbm (d : Dev) (k a n : Nat) : Bool :=
  let mine (st : Nat) : Bool := (d.partOf k).any fun p => decide (st < 8) && d.owns p (st / 2)
  mine (stackOf a) && mine (stackOf (a + n - 1))

/-- Bits of CFG, SRCID and DEST that are not reserved. -/
def galleyCfgMask : Nat := 0x8FFF0000
def galleyEndMask : Nat := 0x03F07FFF

/-- A configuration write of galley g at offset `off` of its set, or the code that refuses it and its detail.
DEDUCED, log entry 64. -/
def Dev.galleyConfig (d : Dev) (k g off : Nat) (w : Word) : Except (Nat × Nat) Dev :=
  let x := (d.core k).galley g
  let v := w.toNat
  if off = 0 then
    let v := v &&& galleyCfgMask
    let y := { x with cfg := BitVec.ofNat 32 v }
    let other := (v ^^^ x.cfg.toNat) &&& 0x0F000000 != 0
    if (x.en && (other || (!y.en && (x.occ != 0 || (d.core k).galleyBusy g)))) || decide (y.capacity < y.thresh) then
      .error (0x0606, off)
    else if y.en && !x.en then
      let mine (j : Nat) : Bool := match d.partOf k with | some p => d.ownsCore p j | none => false
      let badSrc := y.src == 3 || (y.src == 1 && !mine y.srcCore) || (y.src == 2 && y.srcLink / 9 != coreDie k)
      let badSink := y.sink == 3 || (y.sink == 1 && !mine y.destCore) || (y.sink == 2 && y.destLink / 9 != coreDie k)
      if y.ringSize % 4096 ≠ 0 ∨ 0x1000000 < y.ringSize ∨ (y.ringSize ≠ 0 ∧ d.inPartHbm k y.ringBase y.ringSize = false) then
        .error (0x0602, 0)
      else if badSrc then .error (0x0603, y.srcCore)
      else if badSink then .error (0x0603, y.destCore)
      else
        let d := (d.modGalley k g fun _ => { y with peak := y.occ, freed := if y.src = 2 then y.capacity else 0 }).takeGrant k g
        .ok (if y.src = 1 then { d with vc0 := d.vc0 ++ [⟨y.srcCore, y.srcGalley, y.capacity, k⟩] }
             else if y.src = 2 then
               d.sendRecord y.srcLink 3 (natLe 2 k ++ natLe 1 (0x80 + g) ++ natLe 1 0 ++ natLe 4 y.capacity)
             else d)
    else
      let drops := x.en && !y.en
      let d := d.modGalley k g fun _ => { y with peak := y.occ, credit := if drops then 0 else y.credit }
      .ok ((if drops then d else d.takeGrant k g).pumpGalleys k)
  else if x.en then .error (0x0606, off)
  else
    let lo (old : Nat) : Nat := old / 2 ^ 32 * 2 ^ 32 + v
    .ok (Dev.takeGrant (k := k) (g := g) <| d.modGalley k g fun x =>
      match off with
      | 0x04 => { x with srcid := BitVec.ofNat 32 (v &&& galleyEndMask) }
      | 0x08 => { x with dest := BitVec.ofNat 32 (v &&& galleyEndMask) }
      | 0x10 => { x with ringBase := lo x.ringBase / 4096 * 4096 }
      | 0x14 => { x with ringBase := x.ringBase % 2 ^ 32 + v % 2 ^ 16 * 2 ^ 32 }
      | 0x18 => { x with ringSize := v % 2 ^ 25 }
      | _ => x)

/-- A write to a set of the GALLEY page: the register at `off` of galley g's set. DEDUCED, log entry 44. -/
def Dev.galleySetWrite (d : Dev) (k g off : Nat) (w : Word) : Dev :=
  if off = 0x28 then (if bit w.toNat 0 then d.flushGalley k g else d)
  else if off = 0 ∨ off = 4 ∨ off = 8 ∨ off = 0x10 ∨ off = 0x14 ∨ off = 0x18 then
    match d.galleyConfig k g off w with
    | .ok d => d
    | .error (code, i) => d.setError (pgGalley k) code (galleyInfo g i) 0
  else d

/-- GALLEY_CFG_WRITE and GALLEY_FLUSH. -/
def Dev.galleyCfgWrite (d : Dev) (k g : Nat) (w : Word) : Dev := if g < 16 then d.galleySetWrite k g 0 w else d
def Dev.galleyFlush (d : Dev) (k g : Nat) (w : Word) : Dev := if g < 16 then d.galleySetWrite k g 0x28 w else d

/-! ### The commands -/

/-- GALLEY.PUSH and GALLEY.POP issue, then run as far as their galleys allow. DEDUCED, log entry 39. -/
def Dev.galleyPush (d : Dev) (k : Nat) : Dev := d.issue k (opIn [0x34]) fun d _ => d.pumpGalleys k
def Dev.galleyPop (d : Dev) (k : Nat) : Dev := d.issue k (opIn [0x35]) fun d _ => d.pumpGalleys k

/-! ### From a link (R293) -/

/-- A whole slot rebuilt from a link's slot stream. -/
def Galley.rebuild (x : Galley) (data : List Byte) (sos poison : Bool) : Galley × GFlit :=
  let total := if sos then 16 + field data 0 3 else x.left
  let v := min 64 total
  ({ x with left := total - v, part := [], partSos := false, partPoison := false, partVoid := false }
   , ⟨data, v, sos, decide (total ≤ 64), false, poison⟩)

/-- A slot begins before the one in progress is complete: what there is of it is discarded, with its credit (R244). -/
def Dev.dropPart (d : Dev) (k g : Nat) : Dev :=
  (d.modGalley k g fun x => { x with part := [], partSos := false, partPoison := false, partVoid := false }).creditBack k g 1

/-- Pieces of a GALLEY flit enter the galley: k-th piece, which begins at byte `off` of its slot, its SOS and POISON bits in
`wa` (Table 11-2). The rest of a slot whose start is not here is passed over. -/
def Dev.galleyPieces (d : Dev) (k g wa : Nat) : Nat → Nat → Nat → List Byte → Dev
  | 0, _, _, _ => d
  | fuel + 1, piece, off, bs =>
    let d := if off = 0 ∧ ((d.core k).galley g).part ≠ [] then d.dropPart k g else d
    let x := (d.core k).galley g
    let now := bs.take (64 - off)
    if now.isEmpty then d
    else if off ≠ x.part.length then d.galleyPieces k g wa fuel (piece + 1) 0 (bs.drop (64 - off))
    else
      let sos := x.partSos || (x.part.isEmpty && bit wa (6 + piece))
      let poison := x.partPoison || bit wa (1 + piece)
      let data := x.part ++ now
      let rest := bs.drop (64 - off)
      if data.length < 64 then
        d.modGalley k g fun x => { x with part := data, partSos := sos, partPoison := poison }
      else if x.partVoid then (d.dropPart k g).galleyPieces k g wa fuel (piece + 1) 0 rest
      else
        let (x', f) := x.rebuild data sos poison
        ((d.modGalley k g fun _ => x').acceptFlit k g 1 f).galleyPieces k g wa fuel (piece + 1) 0 rest

end Sys2Proof.Machine
end

