-- ==== Sys2Proof/Machine/Image.lean ====
section
/-!
DEFINITION. Sys2Proof/Machine/Image.lean: what a generation holds of a core: its control image (Table 12-7), written at a cut
and read back from an imported generation, and the part of a core's state a LOAD restore brings back (R366).
-/
namespace Sys2Proof.Machine

/-! ### Words of a core's register sets -/

/-- A word of a list entry (R224). -/
def ListSt.word (s : ListSt) (off : Nat) : Nat :=
  match off with | 0 => s.cfg.toNat | 4 => s.range.toNat | 8 => s.cursor % 1024 | _ => s.state.code

/-- A word of a galley set (Table 9-7). -/
def Galley.word (x : Galley) (busy : Bool) (off : Nat) : Nat :=
  match off with
  | 0x00 => x.cfg.toNat
  | 0x04 => x.srcid.toNat
  | 0x08 => x.dest.toNat
  | 0x10 => x.ringBase % 2 ^ 32
  | 0x14 => x.ringBase / 2 ^ 32
  | 0x18 => x.ringSize
  | 0x1C => x.credit
  | 0x20 => x.occ
  | 0x24 => x.peak
  | 0x2C => b2n x.stalled * 2 ^ 31 + b2n x.resync * 2 ^ 30 + b2n busy * 2 ^ 29
  | 0x30 => x.pushCnt
  | 0x34 => x.popCnt
  | 0x38 => x.stallCnt
  | 0x3C => x.partialCnt * 2 ^ 16 + x.wholeCnt
  | _ => 0

/-- SET_INFO of a statistics set (Table 6-8). -/
def SetHdr.info (s : SetHdr) : Nat := s.kind % 4 * 2 ^ 30 + b2n s.rms * 2 ^ 29 + s.count % 2 ^ 21

/-- A slab's four registers, and a tap's registers (Table 6-7). -/
def Slab.word (s : Slab) (off : Nat) : Nat :=
  match off with
  | 0x0 => b2n s.valid * 2 ^ 31 | 0x4 => s.tag | 0x8 => s.base | 0xC => s.bound
  | _ => b2n s.nonfin * 2 ^ 31 + b2n s.filled * 2 ^ 30 + s.count % 2 ^ 30
def Tap.cfg (t : Tap) : Nat := b2n t.en * 2 ^ 31 + b2n t.latch * 2 ^ 30
def Tap.bytes (t : Tap) : List Byte :=
  natLe 4 t.cfg ++ natLe 4 t.tag ++ natLe 8 t.mb.toNat ++ natLe 8 t.acc.toNat ++ natLe 4 t.n ++ natLe 8 t.mbL.toNat ++
  natLe 8 t.accL.toNat ++ natLe 4 t.nL

/-! ### The control image (Table 12-7) -/

/-- The reserved word of a galley's set in its image: slots of the head [3:0] and of the tail [7:4], and the ring's place of its
oldest slot [31:8]. DESIGN CHOICE, log entry 62. -/
def Galley.counts (x : Galley) : Nat :=
  x.head.length % 16 + 16 * (x.tail.length % 16) + 256 * (match x.ring with | r :: _ => r.place | [] => x.ringNext)

/-- One galley's 1,088 bytes: its set, with the counts in the reserved word, then the slots of head and tail. -/
def Galley.image (x : Galley) : List Byte :=
  (List.range 16).flatMap (fun i => natLe 4 (if i = 3 then x.counts else x.word false (4 * i))) ++
  padTo 512 ((x.head.take 8).flatMap fun f => padTo 64 f.data) ++
  padTo 512 ((x.tail.take 8).flatMap fun f => padTo 64 f.data)

/-- The control image of core k, 256 KiB. -/
def Dev.controlImage (d : Dev) (k : Nat) : List Byte :=
  let c := d.core k
  let r16 := List.range 16
  padTo 0x40000 (
    c.cmem.read 0 0x10000 ++
    ((List.range 16384).flatMap fun i => natLe 4 (tget 0#32 c.stats i).toNat) ++
    ((List.range 512).flatMap fun i => padTo 192 (c.slot i).image) ++
    (r16.flatMap fun g => (c.galley g).image) ++
    ((List.range 128).flatMap fun i =>
      let s := c.setHdr i
      natLe 4 s.tag ++ natLe 4 s.row ++ natLe 4 s.info ++ natLe 4 0) ++
    padTo 1024 (
      (r16.flatMap fun l => [0, 4, 8, 12].flatMap fun o => natLe 4 ((c.list l).word o)) ++
      (r16.flatMap fun i => natLe 8 (c.areg i)) ++ (r16.flatMap fun i => natLe 4 (c.creg i)) ++
      natLe 4 c.seqNext ++ natLe 4 c.seqRetired ++ natLe 4 (d.reg (pgCore k) 0x12C)) ++
    padTo 2048 (
      ((List.range 32).flatMap fun i => [0, 4, 8, 12].flatMap fun o => natLe 4 ((c.slab i).word o)) ++
      (r16.flatMap fun i => (c.tap i).bytes) ++ natLe 4 (d.keepMask k)) ++
    padTo 64 (natLe 4 k ++ natLe 8 (d.reg64 (pgLane k) 0x108) ++ natLe 4 (d.reg (pgFwd k) 0x130) ++
      natLe 4 (d.reg (pgBwd k) 0x130) ++ natLe 4 (d.reg (pgBwd k) 0x134)))

/-- What a generation holds of a core that the bytes of its control image do not spell out: the marks of its galleys' slots, and
the impressions its parked lists wait for (R366). DESIGN CHOICE, log entry 62. -/
def CoreSt.kept (c : CoreSt) : CoreSt :=
  { galleys := c.galleys.map fun g => (g.1, { g.2 with lateCnt := 0 })
    lists := c.lists.map fun l =>
      (l.1, { cfg := l.2.cfg, range := l.2.range, cursor := l.2.cursor, state := l.2.state, segClass := l.2.segClass
              segEnergy := l.2.segEnergy, target := l.2.target }) }

/-- A core from its control image, with what its generation holds beside that. -/
def CoreSt.withKept (c kept : CoreSt) : CoreSt := { c with galleys := kept.galleys, lists := kept.lists }

/-- Registers that Table 12-1 holds of core k, by key: CMEM_SEL, LANE.SEED, FWD.MODE, KEEP_MASK, SLAB_SEL, TAP_SEL. -/
def keptRegs (k : Nat) : List Nat :=
  [regKey (pgCore k) 0x12C, regKey (pgLane k) 0x108, regKey (pgLane k) 0x10C, regKey (pgFwd k) 0x130,
   regKey (pgBwd k) 0x12C, regKey (pgBwd k) 0x130, regKey (pgBwd k) 0x134]

/-! ### Reading an imported image back -/

/-- Flits of consecutive slots of a slug stream, marks rebuilt from the headers (Table 9-4): `left` slots remain of the
slug in progress, the last of which holds `last` bytes. -/
def flitsOf : Nat → Nat → List (List Byte) → List GFlit
  | _, _, [] => []
  | 0, _, s :: ss =>
    let len := 16 + field s 0 3
    let n := max 1 ((len + 63) / 64)
    let v := len - 64 * (n - 1)
    { data := s, valid := if n = 1 then v else 64, sos := true, eos := n == 1 } :: flitsOf (n - 1) v ss
  | n + 1, v, s :: ss => { data := s, valid := if n = 0 then v else 64, eos := n == 0 } :: flitsOf n v ss

/-- A galley from its 1,088 bytes, and its ring's slots from memory. -/
def Galley.ofImage (rd : Nat → List Byte) (b : List Byte) : Galley :=
  let w (o : Nat) := field b o 4
  let hd := w 0xC % 16
  let tl := w 0xC / 16 % 16
  let slots := chunks 64 16 (b.drop 64)
  let size := max 1 (w 0x18 / 64)
  let n := w 0x20 - hd - tl
  let places := (List.range n).map fun i => (w 0xC / 256 + i) % size
  let fs := flitsOf 0 0 (slots.take hd ++ places.map (fun i => rd (field b 0x10 8 + 64 * i)) ++ (slots.drop 8).take tl)
  { cfg := BitVec.ofNat 32 (w 0), srcid := BitVec.ofNat 32 (w 4), dest := BitVec.ofNat 32 (w 8), ringBase := field b 0x10 8
    ringSize := w 0x18, credit := w 0x1C, peak := w 0x24, resync := bit (w 0x2C) 30, pushCnt := w 0x30, popCnt := w 0x34
    stallCnt := w 0x38, partialCnt := w 0x3C / 2 ^ 16, wholeCnt := w 0x3C % 2 ^ 16
    head := fs.take hd, tail := fs.drop (hd + n), ringNext := (w 0xC / 256 + n) % size
    ring := ((fs.drop hd).zip places).map fun (f, i) => ⟨i, f.valid, f.sos, f.eos, f.poison⟩ }

/-- The state of a list by its code. -/
def LState.ofCode : Nat → LState
  | 1 => .running | 2 => .parked | 3 => .ended | 4 => .abandoned | 5 => .admitted | _ => .idle

/-- A list entry from its 16 bytes. A parked list's segment and target stand in the WAIT.TICK before its cursor; a
relative target counts from the impression of the cut. -/
def listOf (cmem : Memory) (impr : Nat) (b : List Byte) : ListSt :=
  let st := LState.ofCode (field b 12 4)
  let cur := field b 8 4
  let w := cmem.read (64 * (cur - 1)) 64
  let s : ListSt := { cfg := BitVec.ofNat 32 (field b 0 4), range := BitVec.ofNat 32 (field b 4 4), cursor := cur, state := st }
  if st = .parked then
    { s with segClass := field w 0x1C 1 % 16, segEnergy := field w 0x18 4
             target := if bit (field w 0x14 1) 0 then (impr + field w 0x10 4) % 2 ^ 32 else field w 0x10 4 }
  else s

/-- A table from a list of values. -/
def tableOf {α : Type} [DecidableEq α] (dflt : α) (xs : List α) : Table α :=
  ((List.range xs.length).zip xs).filter fun x => x.2 ≠ dflt

/-- A slab and a tap from their bytes. -/
def slabOf (b : List Byte) : Slab :=
  { valid := bit (field b 0 4) 31, tag := field b 4 4, base := field b 8 4, bound := field b 12 4 }
def tapOf (b : List Byte) : Tap :=
  { en := bit (field b 0 4) 31, latch := bit (field b 0 4) 30, tag := field b 4 4, mb := BitVec.ofNat 64 (field b 8 8)
    acc := BitVec.ofNat 64 (field b 0x10 8), n := field b 0x18 4, mbL := BitVec.ofNat 64 (field b 0x1C 8)
    accL := BitVec.ofNat 64 (field b 0x24 8), nL := field b 0x2C 4 }

/-- A statistics set's header from its words. -/
def setHdrOf (tag row info : Nat) : SetHdr :=
  { tag, row, kind := bits info 31 30, rms := bit info 29, count := info % 2 ^ 21 }

/-- A core, and its registers, from a control image and the memory that holds its rings. -/
def coreOfImage (k impr : Nat) (rd : Nat → List Byte) (b : List Byte) : CoreSt × List (Nat × Word) :=
  let cmem : Memory := Memory.cells 0 (b.take 0x10000)
  let at_ (o n i : Nat) : List Byte := (b.drop (o + n * i)).take n
  let x : CoreSt :=
    { cmem
      stats := tableOf 0#32 ((List.range 16384).map fun i => BitVec.ofNat 32 (field b (0x10000 + 4 * i) 4))
      slots := tableOf {} ((List.range 512).map fun i => GSlot.ofImage (at_ 0x20000 192 i))
      galleys := tableOf {} ((List.range 16).map fun i => Galley.ofImage rd (at_ 0x38000 1088 i))
      sets := tableOf {} ((List.range 128).map fun i =>
        let h := at_ 0x3C400 16 i
        setHdrOf (field h 0 4) (field h 4 4) (field h 8 4))
      lists := tableOf {} ((List.range 16).map fun i => listOf cmem impr (at_ 0x3CC00 16 i))
      a := tableOf 0 ((List.range 16).map fun i => field b (0x3CD00 + 8 * i) 8 % 2 ^ 48)
      c := tableOf 0 ((List.range 16).map fun i => field b (0x3CD80 + 4 * i) 4)
      seqNext := field b 0x3CDC0 4, seqRetired := field b 0x3CDC4 4
      slabs := tableOf {} ((List.range 32).map fun i => slabOf (at_ 0x3D000 16 i))
      taps := tableOf {} ((List.range 16).map fun i => tapOf (at_ 0x3D200 48 i)) }
  let w (o : Nat) : Word := BitVec.ofNat 32 (field b o 4)
  (x, [(regKey (pgCore k) 0x12C, w 0x3CDC8), (regKey (pgLane k) 0x108, w 0x3D804), (regKey (pgLane k) 0x10C, w 0x3D808),
       (regKey (pgFwd k) 0x130, w 0x3D80C), (regKey (pgBwd k) 0x12C, w 0x3D500), (regKey (pgBwd k) 0x130, w 0x3D810),
       (regKey (pgBwd k) 0x134, w 0x3D814)])

end Sys2Proof.Machine
end

