-- ==== Sys2Proof/Machine/Matrix.lean ====
section
/-!
DEFINITION. Sys2Proof/Machine/Matrix.lean: one pass of a matrix command: operand tiles and their checks (R73–R79, R120,
R121), exact sums on the F-array (R81–R90), chunk sums on the B-array (R135–R145), display columns (R97), partials.
-/
namespace Sys2Proof.Machine

/-! ### Reading tiles -/

/-- An uncorrectable word in a range a command reads (R219, R256). -/
def Dev.uncorr (d : Dev) (k page : Nat) (c : Cmd) (a n : Nat) : Option ErrRec :=
  (d.badAt a n).map fun u =>
    if sramBase ≤ u then { errOn (pgCore k) 0x0110 (seqInfo c.list c.idx) c.seq with ue := some u }
    else { errOn page 0x0804 0 c.seq with ue := some u }

/-- How a command reads an operand: its block's page and codes, what the tiles must be, and the sort list. -/
structure TileReq where
  page : Nat := 0
  /-- 0x02F0, 0x04F0 or 0x05F0 (Table 3-11) -/
  code : Nat := 0
  operand : Nat := 0
  fmtOk : List (Nat × Option Bool) := []
  ts : Option Nat := none
  sort : Nat := 0
  bound : Nat := 0
  /-- rows of the tile that the command does not read -/
  unread : List Nat := []
  deriving DecidableEq, Repr

/-- ERR_INFO0 of a tile error (R74). -/
def tileInfo (operand idx : Nat) : Nat := operand * 2 ^ 30 + idx % 2 ^ 30

/-- A tile's FORMAT, with its RECAST flag where that decides, is one the operand takes. -/
def TileReq.takes (q : TileReq) (h : TileHdr) : Bool :=
  q.fmtOk.any fun f => f.1 == h.fmt && (match f.2 with | some r => h.recast == r | none => true)

/-- Read tile `idx` of an operand at address `a`: the tile and its sort-list entries, or its error (R68, R74). An address
that is not on a 64-byte boundary is taken as it is. DESIGN CHOICE, log entry 86. -/
def Dev.readTile (d : Dev) (k : Nat) (c : Cmd) (q : TileReq) (idx a : Nat) : Except ErrRec (Tile × List Nat) :=
  let err (n : Nat) := errOn q.page (q.code + n) (tileInfo q.operand idx) c.seq
  let h := d.hdrAt a
  match d.uncorr k q.page c a 64 with
  | some x => .error x
  | none =>
    if !h.valid then .error (err 0)
    else if !q.takes h then .error (err 1)
    else if (match q.ts with | some t => t != h.tscale | none => false) then .error (err 2)
    else
      let n := ((Fmt.ofCode h.fmt).getD .fp32).tileBytes
      match d.uncorr k q.page c a n with
      | some x => .error x
      | none =>
        let t := Tile.parse (d.read a n)
        if h.fmt != 1 then .ok (t, [])
        else if t.entrySum != 0 && decide (q.bound < h.sortIndex + t.entrySum) then .error (err 3)
        else
          let sa := q.sort + 2 * h.sortIndex
          match d.uncorr k q.page c sa (2 * t.entrySum) with
          | some x => .error x
          | none =>
            let es := wordsOf 2 t.entrySum (d.read sa (2 * t.entrySum))
            if t.sortOk es q.unread then .ok (t, es) else .error (err 3)

/-- One row of a tile as a block of the F-array: blank where its scale is 0x00 (R85). -/
def expBlock (t : Tile) (es : List Nat) (i : Nat) : ExpBlock :=
  { blank := t.fmt.narrow && (t.blocks.getD i (0, false, 0)).1 == 0, xs := t.expandRow es i }

/-- Valid elements of a tile's invalid blocks among the rows that are read (R61, R115). DEDUCED, log entry 19. -/
def invalidElems (t : Tile) (unread : List Nat) : Nat :=
  if t.fmt.narrow then
    ((List.range t.hdr.rows).filter fun i =>
      !unread.contains i && scaleInvalid (t.blocks.getD i (0, false, 0)).1).length * t.hdr.cols
  else 0

/-- Invalid elements read from a tile enter S_NONFIN of the slot it names on the consuming core, if that is in use (R115). -/
def Dev.countInvalid (d : Dev) (k : Nat) (t : Tile) (n : Nat) : Dev :=
  if n ≠ 0 ∧ ((d.core k).slot t.hdr.slot).used then
    d.modCore k fun x => x.modSlot t.hdr.slot fun s => { s with nonfin := sat 32 (s.nonfin + n) }
  else d

/-- Count a tile's invalid blocks once per command (R115): `key` names the blocks read. DEDUCED, log entry 19. -/
def Dev.noteInvalid (d : Dev) (k seq key : Nat) (t : Tile) (unread : List Nat) : Dev :=
  let n := invalidElems t unread
  match (d.core k).cmd? seq with
  | none => d
  | some c =>
    if n = 0 || c.invalidSeen.contains key then d
    else (d.modCore k fun x => x.modCmd seq fun y => { y with invalidSeen := key :: y.invalidSeen }).countInvalid k t n

/-! ### Operands of a pass -/

/-- The tiles of a pass: block by block, A tile and B tile with their entries. -/
structure PassIn where
  a : List (Tile × List Nat) := []
  b : List (Tile × List Nat) := []
  rows : Nat := 0
  cols : Nat := 0
  tileRow : Nat := 0
  tileCol : Nat := 0
  deriving DecidableEq, Repr

/-- What an operand takes: the descriptor's format, with FP8 E4M3 recast tiles for the four-bit formats (R120), or BF16
recast tiles where the operand is recast (R121). -/
def operandTakes (fmtIn : Nat) (recast : Bool) : List (Nat × Option Bool) :=
  if recast then [(8, some true)]
  else if fmtIn = 0 ∨ fmtIn = 1 then [(fmtIn, none), (4, some true)] else [(fmtIn, none)]

/-- ⌈log₂ n⌉. -/
def clog2 (n : Nat) : Nat := if n ≤ 1 then 0 else (n - 1).log2 + 1

/-- Rows of a B tile that a pass over half `h` does not read: the other half's, and those of display channels (R75, R97). -/
def unreadB (c : Cmd) (j h : Nat) : List Nat :=
  (List.range 64).filter fun r => r / 32 != h || c.display.contains (64 * j + r)

/-- Read the blocks of a pass with the checks of R74, R76 and R83, in block order. The check of R83 is made in a pass
without valid columns too. DESIGN CHOICE, log entry 87. -/
def Dev.readPass (d : Dev) (k : Nat) (c : Cmd) (u : Nat) : Except ErrRec PassIn :=
  let m := Mx.parse c.desc
  let e := extOf c.desc c.ext
  let fmtIn := (modesOf c.desc).fmtIn
  let narrow := fmtNarrow fmtIn
  let page := if narrow then pgFwd k else pgBwd k
  let code := if narrow then 0x02F0 else 0x04F0
  let extent := if narrow then 0x0203 else 0x0403
  let (i, j, h) := m.passAt u
  let aRec := c.onB && (let t := d.hdrAt m.aAddr; t.fmt == 8 && t.recast)
  let bRec := c.onB && (let t := d.hdrAt m.bAddr; t.fmt == 8 && t.recast)
  let qa : TileReq :=
    { page, code, operand := 0, fmtOk := operandTakes fmtIn aRec, ts := some c.tsA, sort := e.sortA, bound := e.sortABound }
  let qb : TileReq :=
    { page, code, operand := 1, fmtOk := operandTakes fmtIn bRec, ts := some c.tsB, sort := e.sortB, bound := e.sortBBound
      unread := unreadB c j h }
  let cols (b : Nat) := if b + 1 = m.kb then m.k - 32 * b else 32
  let rec go : List Nat → PassIn → Except ErrRec PassIn
    | [], p => .ok p
    | b :: bs, p =>
      let ia := i * m.kb + b
      let ib := j * m.kb + b
      match d.readTile k c qa ia (m.aAddr + ia * m.aStride) with
      | .error x => .error x
      | .ok ta =>
        let ra := match p.a with | t :: _ => t.1.hdr.rows | [] => ta.1.hdr.rows
        if ta.1.hdr.rows != ra || ta.1.hdr.cols != cols b then .error (errOn page extent (tileInfo 0 ia) c.seq)
        else match d.readTile k c qb ib (m.bAddr + ib * m.bStride) with
          | .error x => .error x
          | .ok tb =>
            let rb := match p.b with | t :: _ => t.1.hdr.rows | [] => tb.1.hdr.rows
            if tb.1.hdr.rows != rb || tb.1.hdr.cols != cols b then .error (errOn page extent (tileInfo 1 ib) c.seq)
            else if narrow && !c.onB && decide (27 < clog2 m.kTot + ta.1.hdr.shift + tb.1.hdr.shift) then
              .error (errOn page 0x0202 (ta.1.hdr.shift * 2 ^ 24 + tb.1.hdr.shift * 2 ^ 16 + sat 16 b) c.seq)
            else go bs { p with a := p.a ++ [ta], b := p.b ++ [tb] }
  match go (List.range m.kb) {} with
  | .error x => .error x
  | .ok p =>
    match p.a, p.b with
    | ta :: _, tb :: _ =>
      .ok { p with rows := ta.1.hdr.rows, cols := min 32 (tb.1.hdr.rows - 32 * h)
                   tileRow := ta.1.hdr.tileRow, tileCol := (2 * tb.1.hdr.tileRow + h) % 2 ^ 32 }
    | _, _ => .ok p

/-! ### Results of a pass -/

/-- What a pass yields before rescale: the FP32 results, or the registers or entries of a partial. -/
structure PassOut where
  y : List (List F32) := []
  regs : List (List LReg) := []
  entries : List Entry := []
  kFirst : Nat := 0
  kCount : Nat := 0
  fMac : Nat := 0
  fMacRecast : Nat := 0
  bMac : Nat := 0
  blanks : Nat := 0
  nonfin : Nat := 0
  deriving DecidableEq, Repr

/-- The rows 0 … n−1 of an operand's tiles as lists of blocks; row `i` of the operand is row `f i` of its tiles. -/
def rowsOf (ts : List (Tile × List Nat)) (n : Nat) (f : Nat → Nat) : List (List ExpBlock) :=
  (List.range n).map fun i => ts.map fun t => expBlock t.1 t.2 (f i)

/-- The K elements of one row as unpacked values, in order. -/
def rowVals (k : Nat) (bs : List ExpBlock) : List Fl := (bs.flatMap fun b => b.xs.map Exp.toFl).take k

/-- A row's values as they meet the blocks of the other operand on the B-array: a zero block there contributes zero
whatever it meets, an infinity or a NaN too (R97, R121). -/
def meetBlocks (bs : List ExpBlock) (ws : List Fl) : List Fl :=
  if ws.all Fl.finite then ws
  else ((bs.flatMap fun b => List.replicate 32 b.blank).zip ws).map fun (blank, w) =>
    if blank && !w.finite then .fin false 0 0 else w

/-- MACs of a row pair: in-extent products of the blocks that are not skipped, split by whether the pair is carried as
FP8 E4M3 under R120. -/
def pairMacs (ka : List (Nat × Bool)) : List ExpBlock → List ExpBlock → Nat × Nat
  | a :: as, b :: bs =>
    let (n, r) := ka.headD (0, false)
    let (x, y) := pairMacs ka.tail as bs
    if a.blank || b.blank then (x, y) else if r then (x, y + n) else (x + n, y)
  | _, _ => (0, 0)

/-- Output identity (R511). -/
def Dev.passTag (d : Dev) (k : Nat) (c : Cmd) : Nat :=
  (d.core k).outTagOf (modesOf c.desc) (extOf c.desc c.ext) 0

/-- The incoming long partial of a pass (R100). -/
def Dev.longIn (d : Dev) (k : Nat) (c : Cmd) (u : Nat) (p : PassIn) : Except ErrRec LongPartial :=
  let m := Mx.parse c.desc
  let e := extOf c.desc c.ext
  let a := e.partialIn + u * e.partialStride
  match d.uncorr k (pgFwd k) c a longPartialBytes with
  | some x => .error x
  | none =>
    let lp := LongPartial.parse (d.read a longPartialBytes)
    match lp.check p.rows p.cols (d.passTag k c) p.tileRow p.tileCol m.kTot c.tsA c.tsB m.k with
    | some off => .error (errOn (pgFwd k) 0x0205 (off * 2 ^ 24) c.seq)
    | none => .ok lp

/-- Display columns of a pass: column and the row of its weights. -/
def displayCols (c : Cmd) (base cols : Nat) : List (Nat × Nat) :=
  ((List.range c.display.length).zip c.display).filterMap fun (i, n) =>
    if base ≤ n ∧ n < base + cols then some (n - base, i) else none

/-- The weights of display row `r` along K, or the error of its tiles. -/
def Dev.displayRow (d : Dev) (k : Nat) (c : Cmd) (m : Mx) (e : Ext) (r : Nat) : Except ErrRec (List Fl) :=
  let q : TileReq :=
    { page := pgBwd k, code := 0x04F0, operand := 2, fmtOk := [(8, none)], ts := some (d.hdrAt (dispTile m e 0 0)).tscale }
  let rec go : List Nat → Except ErrRec (List Fl)
    | [] => .ok []
    | b :: bs =>
      match d.readTile k c q (r / 64 * m.kb + b) (dispTile m e (r / 64) b) with
      | .error x => .error x
      | .ok t =>
        match go bs with
        | .error x => .error x
        | .ok vs => .ok ((t.1.expandRow [] (r % 64)).map Exp.toFl ++ vs)
  go (List.range m.kb)

/-- A sum over a share [k0, k0 + len) of an accumulation of kTotal, finished to its root (R135, R136, R145). -/
def treeDot (kTotal k0 : Nat) (xs ys : List Fl) : F32 :=
  (finishEntries kTotal 1 (shareEntries kTotal k0 xs.length fun s n =>
    [chunkDot ((xs.drop s).take n) ((ys.drop s).take n)])).headD 0#32

/-- Entries of a share for a whole tile: one plane of 64 rows by `cols`, rows past the extent zero (R141). -/
def tileEntries (kTotal k0 k cols : Nat) (as bs : List (List Fl)) : List Entry :=
  shareEntries kTotal k0 k fun s n =>
    (List.range 64).flatMap fun i =>
      if i < as.length then
        let a := ((as.getD i []).drop s).take n
        bs.map fun b => chunkDot a ((b.drop s).take n)
      else List.replicate cols 0#32

/-- A pass on the F-array, or on the B-array for a narrow command under R121 (R75–R90, R97, R100, R122). -/
def Dev.narrowPass (d : Dev) (k : Nat) (c : Cmd) (u : Nat) (p : PassIn) (aVals : Option (List (List Fl))) :
    Except ErrRec PassOut :=
  let m := Mx.parse c.desc
  let e := extOf c.desc c.ext
  let o := modesOf c.desc
  let (_, j, h) := m.passAt u
  let as := rowsOf p.a p.rows id
  let bs := rowsOf p.b p.cols fun x => 32 * h + x
  let zeros := List.replicate 64 (List.replicate 32 ({} : LReg))
  let incoming : Except ErrRec (Option LongPartial) :=
    if o.pIn then (match d.longIn k c u p with | .ok x => .ok (some x) | .error x => .error x) else .ok none
  match incoming with
  | .error x => .error x
  | .ok lp? =>
    let start := match lp? with | some lp => chunks 32 64 lp.regs | none => zeros
    let kFirst := match lp? with | some lp => min lp.kFirst m.kFirst | none => m.kFirst
    let kCount := m.k + (match lp? with | some lp => lp.kCount | none => 0)
    let disp := displayCols c (64 * j + 32 * h) p.cols
    let av := as.map fun a => (a, rowVals m.k a)
    let rec cols : List (Nat × Nat) → Except ErrRec (List (Nat × List F32))
      | [] => .ok []
      | (x, row) :: qs =>
        match d.displayRow k c m e row with
        | .error z => .error z
        | .ok ws =>
          match cols qs with
          | .error z => .error z
          | .ok rs => .ok ((x, av.map fun a => treeDot m.k 0 a.2 (meetBlocks a.1 ws)) :: rs)
    match cols disp with
    | .error z => .error z
    | .ok ds =>
      let shown (i x : Nat) (y : F32) : F32 := match ds.find? fun q => q.1 == x with | some q => q.2.getD i 0#32 | none => y
      let isShown (x : Nat) : Bool := disp.any fun q => q.1 == x
      if c.onB then
        let bv := bs.map fun b => (b, rowVals m.k b)
        let aDx := match aVals with | some vs => av.zip vs |>.map fun (a, v) => (a.1, v) | none => av
        let ys := ((List.range p.rows).zip aDx).map fun (i, a) => ((List.range p.cols).zip bv).map fun (x, b) =>
          shown i x (treeDot m.k 0 (meetBlocks b.1 a.2) (meetBlocks a.1 b.2))
        let regs := (ys.zip start).map fun (yr, sr) => (yr.zip sr).map fun (y, s) => LReg.add (LReg.ofF32 y) s
        let usesReg := o.pIn || o.pOut
        .ok { y := if usesReg then regs.map (·.map LReg.round) else ys, regs, kFirst, kCount
              bMac := p.rows * p.cols * m.k }
      else
        let info := p.a.zip p.b |>.map fun (a, b) => (a.1.hdr.cols, a.1.fmt != b.1.fmt || (a.1.fmt.eight && fmtIsFour o.fmtIn))
        let regs := (as.zip start).map fun (a, sr) => ((List.range p.cols).zip (bs.zip sr)).map fun (x, b, s) =>
          if isShown x then ({} : LReg) else (s.dot a b).wrap
        let lanes := as.flatMap fun a => ((List.range p.cols).zip bs).filterMap fun (x, b) =>
          if isShown x then none else some (pairMacs info a b, blankPairs a b)
        let f := lanes.foldl (fun s l => s + l.1.1) 0
        let r := lanes.foldl (fun s l => s + l.1.2) 0
        -- R71: a block at or beyond ROWS of either operand is counted as blank, as any zero block
        let beyond := 64 * (32 - disp.length) - p.rows * (p.cols - disp.length)
        let bl := lanes.foldl (fun s l => s + l.2) (beyond * m.kb)
        let y := (List.range p.rows).map fun i => (List.range p.cols).map fun x =>
          shown i x ((regs.getD i []).getD x {}).round
        let bad := (regs.map fun row => row.countP fun g => g.cls != 0).foldl (· + ·) 0
        .ok { y, regs, kFirst, kCount, fMac := f, fMacRecast := r, bMac := disp.length * p.rows * m.k, blanks := bl
              nonfin := if o.pOut then 0 else bad }
where
  /-- the four-bit format codes -/
  fmtIsFour (f : Nat) : Bool := f == 0 || f == 1

/-- The incoming wide partial of a pass (R143, R144). -/
def Dev.wideIn (d : Dev) (k page code : Nat) (c : Cmd) (a room rows cols tag tileRow tileCol kTotal fmt kk : Nat)
    (own : List Entry) : Except ErrRec WidePartial :=
  match d.uncorr k page c a widePartialHead with
  | some x => .error x
  | none =>
    let n := widePartialBytes (min 32 (d.readNat (a + 29) 1)) (d.readNat (a + 3) 1)
    match d.uncorr k page c a n with
    | some x => .error x
    | none =>
      let w := WidePartial.parse (d.read a (min n room))
      match w.check rows cols tag tileRow tileCol kTotal fmt kk own with
      | some (off, i) => .error (errOn page code (off * 2 ^ 24 + i) c.seq)
      | none => .ok w

/-- A pass of B.MATMUL (R134–R145). -/
def Dev.widePass (d : Dev) (k : Nat) (c : Cmd) (u : Nat) (p : PassIn) (aVals : List (List Fl)) :
    Except ErrRec PassOut :=
  let m := Mx.parse c.desc
  let e := extOf c.desc c.ext
  let o := modesOf c.desc
  let (_, _, h) := m.passAt u
  let bv := (rowsOf p.b p.cols fun x => 32 * h + x).map (rowVals m.k)
  let own := tileEntries m.kTot m.kFirst m.k p.cols aVals bv
  let inc : Except ErrRec (List Entry × Nat × Nat) :=
    if o.pIn then
      (match d.wideIn k (pgBwd k) 0x0405 c (e.partialIn + u * e.partialStride) (2 ^ 24) p.rows p.cols (d.passTag k c)
          p.tileRow p.tileCol m.kTot o.fmtIn m.k own with
       | .ok w => .ok (w.entries, min w.kFirst m.kFirst, w.kCount + m.k)
       | .error x => .error x)
    else .ok ([], m.kFirst, m.k)
  match inc with
  | .error x => .error x
  | .ok (es, kf, kc) =>
    let all := mergeEntries m.kTot (own ++ es)
    let plane := finishEntries m.kTot (64 * p.cols) all
    .ok { entries := all, kFirst := kf, kCount := kc, bMac := p.rows * p.cols * m.k
          y := (planeGrid p.cols plane).take p.rows |>.map fun r => r.take p.cols }

/-- Rescale the results of a pass (R90): column j of pass u is channel 64 b + 32 h + j. -/
def rescalePass (c : Cmd) (u : Nat) (y : List (List F32)) : List (List F32) :=
  let m := Mx.parse c.desc
  let (_, b, h) := m.passAt u
  y.map fun row => ((List.range row.length).zip row).map fun (j, v) =>
    rescale v (tget fone c.rescale (64 * b + 32 * h + j))

end Sys2Proof.Machine
end

