-- ==== Sys2Proof/Machine/Commit.lean ====
section
/-!
DEFINITION. Sys2Proof/Machine/Commit.lean: what becomes of a staged tile: the calibration area (R128), conversion and its
counts (R105–R118), the output sort list (R510), gradient slabs (R159–R162) and norm taps (R165).
-/
namespace Sys2Proof.Machine

/-- Raise ALL_RECAST when a change makes a core assert it (R125, R132). -/
def Dev.withRecast (d : Dev) (k : Nat) (f : Dev → Dev) : Dev :=
  let d' := f d
  d'.raiseIf (!(d.core k).assertsAll && (d'.core k).assertsAll) (pgGauge k) 5

/-- Page and first tile code of a converting block: 0 F-array, 1 B-array, 2 row caster (Table 3-11). -/
def convPage (k unit : Nat) : Nat × Nat :=
  match unit with | 0 => (pgFwd k, 0x02F0) | 1 => (pgBwd k, 0x04F0) | _ => (pgRow k, 0x05F0)

/-- A staged tile as an FP32 tile (R69), for the calibration area and the slabs. -/
def Staged.fp32Tile (st : Staged) (slot : Nat) : Tile :=
  { hdr := { fmt := 10, rows := st.rows, cols := st.cols, slot, tag := st.tag, tileRow := st.tileRow
             tileCol := st.tileCol, nonfinite := (st.valid.flatMap id).any nonFin }
    codes := st.valid.map fun r => (r.map BitVec.toNat) ++ List.replicate (32 - r.length) 0 }

/-- Address of tile i of a slot's calibration area (R128). -/
def GSlot.calTile (s : GSlot) (i : Nat) : Nat := s.calBase + 4096 + i * Fmt.fp32.tileBytes

/-- First pass of calibration (R128): the tile goes to the calibration area. -/
def Dev.calibrationWrite (d : Dev) (k : Nat) (c : Cmd) (st : Staged) (dest : Nat) : Except ErrRec Dev :=
  let i := c.conv.slot
  let s := (d.core k).slot i
  let a := s.calTile s.calCnt
  let n := Fmt.fp32.tileBytes
  let rs := d.cmdRegions k
  if 512 ≤ s.calCnt ∨ s.calBase + s.calBound < a + n ∨ inRegions rs a n = false ∨ inRegions rs s.calBase 4096 = false then
    .error (errOn (pgGauge k) 0x0303 (s.calCnt * 2 ^ 16 + i) c.seq)
  else
    let d := (d.write (s.calBase + 8 * s.calCnt) (natLe 8 (dest % 2 ^ 48))).write a (st.fp32Tile i).bytes
    .ok (d.modCore k fun x => x.modSlot i fun s => { s.note st none with calCnt := s.calCnt + 1 })

/-- The FP32 values the valid elements of a written row decode to (R63, R165). -/
def decodeRow (t : Tile) (es : List Nat) (i : Nat) : List F32 :=
  if t.hdr.rows ≤ i then []
  else if t.fmt.narrow then
    ((t.expandRow es i).take t.hdr.cols).map fun x =>
      match x.toFl with
      | .fin neg m e => toF32 (.fin neg m (e + unbias t.hdr.tscale))
      | v => toF32 v
  else ((t.codes.getD i []).take t.hdr.cols).map (widen t.fmt)

/-- The tile's sum of squares over its 2,048 positions: 8 chunks (R165). -/
def sumSquares (t : Tile) (es : List Nat) : F32 :=
  rowSum ((List.range 64).flatMap fun i =>
    let row := decodeRow t es i
    (row.map fun x => fmul x x) ++ List.replicate (32 - row.length) 0#32)

/-- Add a committed tile to the tap the command names (R165). DEDUCED, log entry 30. -/
def Dev.tapTile (d : Dev) (k : Nat) (e : Ext) (t : Tile) (es : List Nat) : Dev :=
  if !e.tapEn then d
  else
    let q := sumSquares t es
    d.modCore k fun x => x.modTap e.tapIdx fun s =>
      if e.tapKind then { s with acc := faddD s.acc q } else { s with mb := faddD s.mb q }

/-- A stochastic conversion's draws: 64 lanes of 32, one jump each (R184, R191). -/
def Dev.countDraws (d : Dev) (k draws jumps : Nat) : Dev := (d.bump64 (pgLane k) 0x110 draws).bump (pgLane k) 0x118 jumps

/-- Does a conversion take draws (R173, R180)? -/
def Conv.draws (c : Conv) : Bool := c.rnd == 2 && c.fmt != .fp32

/-- A command that is the second pass of calibration (R129). -/
def Cmd.calibrated (c : Cmd) : Bool := dOp c.desc == 0x20 && (CvtB.parse c.desc).calibrated

/-- A command's conversions are the first pass of calibration, which converts nothing (R128). -/
def CoreSt.firstPass (q : CoreSt) (c : Cmd) : Bool :=
  let s := q.slot c.conv.slot
  c.conv.slotEn && s.calib && !s.calDone && !c.calibrated

/-- The command writes tiles in its output format: no partials, no indices, and not only slab tiles. -/
def Cmd.converts (c : Cmd) : Bool :=
  let op := dOp c.desc
  let e := extOf c.desc c.ext
  !((modesOf c.desc).pOut && op != 0x21 && op != 0x23 && op != 0x25) && op != 0x26 && !(slabTiles op e && slabOnly e)

/-- The command writes tiles in SR mode next: it converts, and draws (R180). -/
def CoreSt.drawsNow (q : CoreSt) (c : Cmd) : Bool := c.conv.draws && c.converts && !q.firstPass c

/-- Convert a staged tile and commit it at `dest` (R105–R117, R510). `unit` is the converting block. A sort-list error names
the other operand and the unit of work. DESIGN CHOICE, log entry 90. -/
def Dev.commitTile (d : Dev) (k unit u : Nat) (c : Cmd) (st : Staged) (dest : Nat) : Except ErrRec Dev :=
  let e := extOf c.desc c.ext
  if (d.core k).firstPass c then d.calibrationWrite k c st dest
  else
    let conv := { c.conv with key := { c.conv.key with tag := st.tag } }
    let o := convertTile conv st
    let nd := o.tile.hdr.fmt == 1
    let used := match (d.core k).cmd? c.seq with | some x => x.sortUsed | none => 0
    let n := if nd then o.entries.length else 0
    let (page, code) := convPage k unit
    if n ≠ 0 ∧ e.sortOutBound < used + n then .error (errOn page (code + 3) (tileInfo 2 u) c.seq)
    else
      let idx := e.sortOutFirst + used
      let t := { o.tile with hdr := { o.tile.hdr with sortIndex := if nd then idx else 0 } }
      let d := if n = 0 then d else d.write (e.sortOut + 2 * idx) (o.entries.flatMap (natLe 2))
      let d := d.write dest t.bytes
      let d := if conv.draws then d.countDraws k 2048 64 else d
      let d := d.modCore k fun x => x.modCmd c.seq fun y =>
        { y with sortUsed := y.sortUsed + n
                 counts := { y.counts with tiles := y.counts.tiles.add o.counts
                                           converted := y.counts.converted + st.rows * st.cols } }
      let d :=
        if c.conv.slotEn then
          let d := d.withRecast k fun d => d.modCore k fun x => x.modSlot c.conv.slot fun s => s.note st (some o)
          (((d.raiseIf (o.resets != 0) (pgGauge k) 1).raiseIf o.tileRecast (pgGauge k) 2).bump (pgGauge k) 0x114
            o.resets).bump (pgGauge k) 0x118 o.counts.recast
        else d
      .ok (d.tapTile k e t o.entries)

/-- Address of slab tile `u` of a binding. -/
def slabTile (k : Nat) (s : Slab) (u : Nat) : Nat := caseBase k + s.base + u * Fmt.fp32.tileBytes

/-- Update slab tile `u` with a staged tile (R160): the staged tile as the slab now holds it. -/
def Dev.slabUpdate (d : Dev) (k : Nat) (c : Cmd) (e : Ext) (u : Nat) (st : Staged) : Except ErrRec (Staged × Dev) :=
  let s := (d.core k).slab e.slabIdx
  let a := slabTile k s u
  match if e.slabFirst then none else d.uncorr k (pgBwd k) c a Fmt.fp32.tileBytes with
  | some x => .error x
  | none =>
    let old := (Tile.parse (splice (d.read a Fmt.fp32.tileBytes) 0 [0xA0#8])).codes
    let vals := (List.range 64).map fun i =>
      let row := st.valid.getD i []
      ((List.range row.length).zip row).map fun (j, y) =>
        if e.slabFirst then y else fadd (widen .fp32 (nth (old.getD i []) j)) y
    let st' := { st with vals }
    let d := d.write a (st'.fp32Tile 0).bytes
    .ok (st', d.modCore k fun x => x.modSlab e.slabIdx fun s =>
      { s with filled := s.filled || e.slabFirst, nonfin := s.nonfin || (st.valid.flatMap id).any nonFin
               count := sat 30 (s.count + 1) })

/-- What a unit does with a staged result tile, number `n` of the command: the slab first where one is named, then the
destination (R160, R161). -/
def Dev.settleTile (d : Dev) (k unit u n : Nat) (c : Cmd) (st : Staged) (dest : Nat) : Except ErrRec Dev :=
  let e := extOf c.desc c.ext
  if slabTiles (dOp c.desc) e then
    match d.slabUpdate k c e n st with
    | .error x => .error x
    | .ok (st', d) => if e.slabLast then d.commitTile k unit u c st' dest else .ok d
  else d.commitTile k unit u c st dest

end Sys2Proof.Machine
end

