-- ==== Sys2Proof/Machine/RowCaster.lean ====
section
/-!
DEFINITION. Sys2Proof/Machine/RowCaster.lean: the row caster's arithmetic (R152–R155, R188, R189), its statistics sets,
and the epilogues and prologues of FUSED commands (R156).
-/
namespace Sys2Proof.Machine

/-! ### Row arithmetic -/

/-- Term lists of normalisation backward for one row (R154): x̂ and g. -/
def normTerms (mu r : F32) (x dy gamma : List F32) : List F32 × List F32 :=
  (x.map fun v => fmul (fsub v mu) r, (dy.zip gamma).map fun p => fmul p.1 p.2)

/-- dx of normalisation backward for one element (R154). -/
def normDx (a b r g xh : F32) : F32 := fmul (fsub (fsub g a) (fmul xh b)) r

/-- p of softmax (R155). DEDUCED, log entry 26. -/
def softP (m lnZ x : F32) : F32 := fexp (fsub (fsub x m) lnZ)

/-- Largest element of a row; NaN where the row holds one. -/
def rowMax (xs : List F32) : F32 :=
  if xs.any isNan then fnan else xs.foldl (fun m x => if flt m x then x else m) 0xFF800000#32

/-- m and ln Z of softmax forward (Table 6-4). -/
def softStats (xs : List F32) : F32 × F32 :=
  let m := rowMax xs
  (m, fln (rowSum (xs.map fun x => fexp (fsub x m))))

/-- μ and r of normalisation forward (Table 6-4); both row sums go through the chunk tree (R153). -/
def normStats (rms : Bool) (eps : F32) (xs : List F32) : F32 × F32 :=
  let mu := if rms then 0#32 else fdiv (rowSum xs) (fofNat xs.length)
  (mu, Config.normRecip rms eps (rowSum (xs.map (Config.normTerm rms mu))) xs.length)

/-- Activation functions of Table 8-8. -/
def actFn (f : Nat) (x : F32) : F32 :=
  match f with
  | 0 => x
  | 1 => if isNan x then fnan else if flt 0#32 x then x else 0#32
  | _ => Config.actValue f x

/-- Their derivatives. -/
def actDeriv (f : Nat) (x : F32) : F32 :=
  match f with
  | 0 => fone
  | 1 => if isNan x then fnan else if isZero x then Config.actDeriv 1 x else if flt 0#32 x then fone else 0#32
  | _ => Config.actDeriv f x

/-- Dropout of one element (R188): kept when D(e) < P. -/
def dropOut (e : Ext) (key : DrawKey) (pos : Nat) (y : F32) : F32 :=
  if !e.dropout then y else if key.draw pos < e.dropP then fmul y e.dropF else 0#32

/-- draw_row of R189; `draw` gives the draw of column j. -/
def drawRow (tau : F32) (draw : Nat → Nat) (zs : List F32) : Nat :=
  let step (b : Option (Nat × F32)) (j : Nat) (z : F32) : Option (Nat × F32) :=
    if isNan z then b
    else
      let v := if isZero tau then z
        else
          let w := draw j
          let u := toF32 (.fin false (2 * bits w 31 9 + 1) (-24))
          fadd (fdiv z tau) (fneg (fln (fneg (fln u))))
      match b with
      | none => some (j, v)
      | some (i, bv) => if flt bv v then some (j, v) else some (i, bv)
  match (((List.range zs.length).zip zs).foldl (fun b p => step b p.1 p.2) none) with
  | some (j, _) => j
  | none => 0xFFFFFFFF

/-! ### Statistics sets (R152) -/

/-- The two words of row i of set s. -/
def CoreSt.stat (c : CoreSt) (s i : Nat) : F32 × F32 :=
  (tget 0#32 c.stats (128 * s + 2 * i), tget 0#32 c.stats (128 * s + 2 * i + 1))

/-- Write a set: its header, and the two words of each row. -/
def CoreSt.putStats (c : CoreSt) (s : Nat) (h : SetHdr) (ws : List (F32 × F32)) : CoreSt :=
  let c := { c with sets := tset {} c.sets s h }
  ((List.range ws.length).zip ws).foldl (fun c p =>
    { c with stats := tset 0#32 (tset 0#32 c.stats (128 * s + 2 * p.1) p.2.1) (128 * s + 2 * p.1 + 1) p.2.2 }) c

/-- μ of row i of set s for a backward: 0 in RMS mode (R154). -/
def CoreSt.meanOf (c : CoreSt) (rms : Bool) (s i : Nat) : F32 := if rms then 0#32 else (c.stat s i).1

/-- A set has what a command needs (R152). -/
def CoreSt.setFits (c : CoreSt) (s kind tag row : Nat) (rms : Bool) : Bool :=
  let h := c.setHdr s
  h.kind == kind && h.tag == tag && h.row == row && h.rms == rms

/-- The set that holds the gathered sums of row group g of G: after the command's own sets. DESIGN CHOICE, log entry 23. -/
def gatherSet (first groups g : Nat) : Nat := (first + groups + g) % 128

/-- One transferred set in memory (Table 8-8, STATS_IO): its header words, then its data. DEDUCED, log entry 22. -/
def CoreSt.setImage (c : CoreSt) (s : Nat) : List Byte :=
  let h := c.setHdr s
  natLe 4 h.tag ++ natLe 4 h.row ++ natLe 4 (h.kind * 2 ^ 30 + b2n h.rms * 2 ^ 29 + h.count) ++ natLe 4 0 ++
  (List.range 128).flatMap fun i => natLe 4 (tget 0#32 c.stats (128 * s + i)).toNat

/-- Load a set from its image. DEDUCED, log entry 22. -/
def CoreSt.loadSet (c : CoreSt) (s : Nat) (b : List Byte) : CoreSt :=
  let i := field b 8 4
  let ws := (wordsOf 4 128 (b.drop 16)).map (BitVec.ofNat 32)
  c.putStats s ⟨field b 0 4, field b 4 4, bits i 31 30, bit i 29, i % 2 ^ 21⟩
    ((List.range 64).map fun i => (ws.getD (2 * i) 0#32, ws.getD (2 * i + 1) 0#32))

/-- Move `n` sets from `first` on between the store and AUX2: STATS_IO 1 loads, 2 saves. DEDUCED, log entry 22. -/
def Dev.transferSets (d : Dev) (k io addr first n : Nat) : Dev :=
  (List.range n).foldl (fun d i =>
    let a := addr + i * setBytes
    let s := (first + i) % 128
    if io = 1 then d.modCore k fun c => c.loadSet s (d.read a setBytes)
    else if io = 2 then d.write a ((d.core k).setImage s) else d) d

/-! ### Reading rows -/

/-- One 64-row group read from tiles along K: extent, values by row, and the tiles' headers. -/
structure RowIn where
  rows : Nat := 0
  vals : List (List F32) := []
  hdrs : List TileHdr := []
  tiles : List Tile := []
  deriving DecidableEq, Repr

def RowIn.tag (r : RowIn) : Nat := (r.hdrs.headD {}).tag
def RowIn.tileRow (r : RowIn) : Nat := (r.hdrs.headD {}).tileRow
/-- First logical column of the group. -/
def RowIn.col0 (r : RowIn) : Nat := (r.hdrs.headD {}).tileCol * 32
/-- Header of the IN tile that holds column j. -/
def RowIn.hdrOf (r : RowIn) (j : Nat) : TileHdr := r.hdrs.getD (j / 32) {}
/-- Draw position of row i and column j: the place of the element in the tile that holds it (R183). -/
def RowIn.pos (r : RowIn) (i j : Nat) : Nat := drawPos ((r.hdrOf j).tileRow * 64 + i) ((r.hdrOf j).tileCol * 32 + j % 32)

/-- Read tiles `idx` … of an operand, one row of tiles of total length `n` (R62, R71, R74, R173). Tiles of one group whose
extents differ give rows up to the largest ROWS, elements that a tile does not hold being zero. DESIGN CHOICE, log entry 88. -/
def Dev.readRow (d : Dev) (k : Nat) (c : Cmd) (q : TileReq) (base stride first n : Nat) : Except ErrRec RowIn :=
  let rec go : List Nat → RowIn → Except ErrRec RowIn
    | [], r => .ok r
    | t :: ts, r =>
      match d.readTile k c { q with ts := some (d.hdrAt base).tscale } (first + t) (base + (first + t) * stride) with
      | .error x => .error x
      | .ok (tile, es) =>
        let w := min 32 (n - 32 * t)
        let rows := (List.range 64).map fun i =>
          let v := decodeRow tile es i
          (v ++ List.replicate (32 - v.length) 0#32).take w
        let vals := if r.vals.isEmpty then rows else (r.vals.zip rows).map fun p => p.1 ++ p.2
        go ts { rows := max r.rows tile.hdr.rows, vals, hdrs := r.hdrs ++ [tile.hdr], tiles := r.tiles ++ [tile] }
  match go (List.range ((n + 31) / 32)) {} with
  | .error x => .error x
  | .ok r => .ok { r with vals := r.vals.take r.rows }

/-- A parameter vector (γ, β, bias) stored as tiles of one row along the columns: tile t at base + t × stride.
DESIGN CHOICE, log entry 24. -/
def Dev.readParam (d : Dev) (k : Nat) (c : Cmd) (base stride first n : Nat) : Except ErrRec (List F32) :=
  let q : TileReq := { page := pgRow k, code := 0x05F0, operand := 2, fmtOk := [(8, none), (9, none), (10, none)] }
  match d.readRow k c q base stride first n with
  | .error x => .error x
  | .ok r => .ok (r.vals.headD [])

/-- Read tile `idx` of x for an epilogue or prologue: its rows cut to `cols`. DESIGN CHOICE, log entries 13 and 23. -/
def Dev.readX (d : Dev) (k : Nat) (c : Cmd) (base stride idx cols : Nat) : Except ErrRec (TileHdr × List (List F32)) :=
  let q : TileReq :=
    { page := pgRow k, code := 0x05F0, operand := 2, fmtOk := [(8, none), (9, none), (10, none)]
      ts := some (d.hdrAt base).tscale }
  match d.readTile k c q idx (base + idx * stride) with
  | .error x => .error x
  | .ok (t, es) => .ok (t.hdr, (List.range 64).map fun i =>
      let v := decodeRow t es i
      (v ++ List.replicate (32 - v.length) 0#32).take cols)

/-! ### Epilogues of FUSED (R156) -/

/-- Append one tile's terms to the rows gathered so far. -/
def appendTerms (old new : List (List F32)) : List (List F32) :=
  (List.range 64).map fun i => old.getD i [] ++ new.getD i []

/-- What an epilogue makes of the results of pass u: the values to stage, and the terms it gathers (two lists).
PARTIAL_IN and PARTIAL_OUT are those of the output tiles (R143). DESIGN CHOICE, log entries 21 and 99. -/
def Dev.epilogue (d : Dev) (k : Nat) (c : Cmd) (u : Nat) (p : PassIn) (tag : Nat) (z : List (List F32)) :
    Except ErrRec (List (List F32) × List (List F32) × List (List F32)) :=
  let m := Mx.parse c.desc
  let e := extOf c.desc c.ext
  let o := modesOf c.desc
  let (i, _, _) := m.passAt u
  let nt := m.nt * m.halves.length
  let t := u % nt
  let bad (s code : Nat) := errOn (pgRow k) code s c.seq
  match e.epi with
  | 1 | 2 => .ok (z, z, [])
  | 3 =>
    match d.readX k c e.aux1 e.aux1Stride (i * nt + t) p.cols, d.readParam k c e.aux0 e.aux0Stride t p.cols with
    | .error x, _ => .error x
    | _, .error x => .error x
    | .ok (hx, xs), .ok g =>
      let core := d.core k
      let s := e.stats + i
      if !core.setFits s 1 hx.tag hx.tileRow e.rms then .error (bad s 0x0503)
      else
        let ts := ((List.range z.length).zip (z.zip xs)).map fun (r, dy, x) =>
          let (xh, gs) := normTerms (core.meanOf e.rms s r) (core.stat s r).2 x dy g
          (gs, List.zipWith fmul gs xh)
        .ok (z, ts.map (·.1), ts.map (·.2))
  | 4 =>
    match d.readX k c e.aux1 e.aux1Stride (i * nt + t) p.cols with
    | .error x => .error x
    | .ok (hx, xs) =>
      let core := d.core k
      let s := e.stats + i
      if !core.setFits s 2 hx.tag hx.tileRow false then .error (bad s 0x0503)
      else
        .ok (z, ((List.range z.length).zip (z.zip xs)).map (fun (r, dp, x) =>
          let (mx, lz) := core.stat s r
          (dp.zip x).map fun q => fmul q.1 (softP mx lz q.2)), [])
  | 7 =>
    match if e.aux0 = 0 then .ok (List.replicate p.cols 0#32) else d.readParam k c e.aux0 e.aux0Stride t p.cols with
    | .error x => .error x
    | .ok b =>
      let key : DrawKey := { seed := d.seed k, tag, step := c.step, cls := o.randClass }
      .ok (((List.range z.length).zip z).map (fun (r, row) =>
        ((List.range row.length).zip (row.zip b)).map fun (x, y, bias) =>
          let v := if e.aux0 = 0 then y else fadd y bias
          dropOut e key (drawPos (p.tileRow * 64 + r) (p.tileCol * 32 + x)) (actFn e.act v)), [], [])
  | _ => .ok (z, [], [])

/-- The set a gathering FUSED command writes for row group i when it retires (R156). DESIGN CHOICE, log entry 21. -/
def CoreSt.gatherWrite (c : CoreSt) (cmd : Cmd) (i tag row : Nat) : CoreSt :=
  let m := Mx.parse cmd.desc
  let e := extOf cmd.desc cmd.ext
  let a := cmd.gather.getD (2 * i) []
  let b := cmd.gather.getD (2 * i + 1) []
  let n := (a.headD []).length
  match e.epi with
  | 1 => c.putStats (e.stats + i) ⟨tag, row, 1, e.rms, n⟩ (a.map fun xs => normStats e.rms Config.fusedEps xs)
  | 2 => c.putStats (e.stats + i) ⟨tag, row, 2, false, n⟩ (a.map softStats)
  | 3 => c.putStats (gatherSet e.stats m.mt i) ⟨tag, row, 3, e.rms, n⟩
      ((a.zip b).map fun p => (rowSum p.1, rowSum p.2))
  | 4 => c.putStats (gatherSet e.stats m.mt i) ⟨tag, row, 3, false, n⟩ (a.map fun xs => (rowSum xs, 0#32))
  | _ => c

/-! ### The apply prologue (R156) -/

/-- The format an apply prologue rounds to: the operand's, or BF16 where the operand is narrow and its elements enter the
B-array as BF16 values (R121, R156). -/
def applyFmt (t : Tile) : Fmt := if t.fmt.narrow then .bf16 else t.fmt

/-- The rounded dx of A tile (i, b), with its sort-list entries, under an apply prologue. -/
def Dev.applyTile (d : Dev) (k : Nat) (c : Cmd) (i b : Nat) (t : Tile) (es : List Nat) : Except ErrRec (List (List F32)) :=
  let m := Mx.parse c.desc
  let e := extOf c.desc c.ext
  let core := d.core k
  let fs := e.stats + i
  let gs := gatherSet e.stats m.mt i
  let idx := i * m.kb + b
  let bad (s code : Nat) := errOn (pgRow k) code s c.seq
  let f := applyFmt t
  let rnd (x : F32) : F32 := widen f (fpEncode f.ieee (f32 x))
  match d.readX k c e.aux0 e.aux0Stride idx t.hdr.cols with
  | .error x => .error x
  | .ok (hx, xs) =>
    let norm := e.epi == 5
    if !core.setFits fs (if norm then 1 else 2) hx.tag hx.tileRow (norm && e.rms) then .error (bad fs 0x0503)
    else if !core.setFits gs 3 t.hdr.tag t.hdr.tileRow (norm && e.rms) then .error (bad gs 0x0503)
    else if (core.setHdr gs).count != m.kTot then .error (bad gs 0x0504)
    else
      let n := fofNat m.kTot
      .ok ((List.range t.hdr.rows).map fun r =>
        let dy := decodeRow t es r
        let (w0, w1) := core.stat fs r
        let (s1, s2) := core.stat gs r
        ((List.range dy.length).zip (dy.zip (xs.getD r []))).map fun (j, y, x) =>
          if norm then
            let xh := fmul (fsub x (core.meanOf e.rms fs r)) w1
            let g := fmul y (Config.applyGamma (t.hdr.tileCol * 32 + j))
            rnd (normDx (if e.rms then 0#32 else fdiv s1 n) (fdiv s2 n) w1 g xh)
          else
            let p := softP w0 w1 x
            rnd (fmul p (fsub y s1)))

/-- The rounded dx as a tile in the operand's format (DX_OUT). -/
def dxTile (t : Tile) (dx : List (List F32)) : Tile :=
  { hdr := { t.hdr with fmt := (applyFmt t).code, shift := 0, tscale := 127, slot := 0, recast := false, wide := false
                        sortIndex := 0, entries := 0, nonfinite := (dx.flatMap id).any nonFin }
    codes := (List.range 64).map fun i =>
      let row := (dx.getD i []).map fun x => fpEncode (applyFmt t).ieee (f32 x)
      row ++ List.replicate (32 - row.length) 0 }

end Sys2Proof.Machine
end

