-- ==== Sys2Proof/Machine/Compute.lean ====
section
/-!
DEFINITION. Sys2Proof/Machine/Compute.lean: the arrays, converters and row caster at work: a pass (R75, R91, R98, R140), a
converted tile (R117, R179), a row group (R152–R157, R188, R189), the lane generators (R180), and retirement of compute
commands (R203).
-/
namespace Sys2Proof.Machine

/-! ### Which command works -/

/-- Units of work of a command (R74): passes, tiles, or row groups. -/
def Cmd.unitsOf (c : Cmd) : Nat :=
  let op := dOp c.desc
  if op = 0x10 ∨ op = 0x11 ∨ op = 0x18 then (Mx.parse c.desc).passes
  else if op = 0x19 then (AddB.parse c.desc).count
  else if op = 0x20 then (if (CvtB.parse c.desc).calibrated then c.moved else (CvtB.parse c.desc).count)
  else (RowB.parse c.desc).rt

/-- The converter that takes a command's tiles: 0 F-array, 1 B-array, 2 row caster. -/
def Cmd.convUnit (c : Cmd) : Nat := if c.unit = 0 ∧ c.onB then 1 else c.unit

/-- The command still has units of work to start. -/
def Cmd.open_ (c : Cmd) : Bool := c.err.isNone && !c.complete && decide (c.pos < c.unitsOf)

/-- The first command of a unit that has work to start, in issue order (R200). -/
def CoreSt.front (c : CoreSt) (u : Nat) : Option Cmd := c.cmds.find? fun x => x.unit == u && x.open_

/-- Staging buffers a converter's array holds (R91, R138). -/
def CoreSt.staging (c : CoreSt) (u : Nat) : Nat :=
  ((c.cmds.filter fun x => x.convUnit == u).map fun x => x.staged.length).foldl (· + ·) 0

/-- Pass u of a matrix command has a display channel (R96). -/
def Cmd.displayPass (c : Cmd) (u : Nat) : Bool :=
  let (_, j, h) := (Mx.parse c.desc).passAt u
  c.display.any fun n => decide (64 * j + 32 * h ≤ n ∧ n < 64 * j + 32 * h + 32)

/-- An F-array command that has begun, and whose present pass runs on the B-array or has display channels, holds the B-array
(R98, R121). DEDUCED, log entry 28. -/
def Cmd.holdsB (c : Cmd) : Bool :=
  c.unit == 0 && decide (0 < c.pos) && c.open_ && (c.onB || c.displayPass c.pos)

/-- The B-array is held by an F-array command. DEDUCED, log entry 28. -/
def CoreSt.held (c : CoreSt) : Bool := c.cmds.any Cmd.holdsB

/-- A command whose work is over is ready to retire. -/
def Cmd.settle (c : Cmd) : Cmd :=
  { c with complete := c.complete || (c.staged.isEmpty && (c.err.isSome || c.done == c.unitsOf)) }

/-- Update a command in flight and see whether its work is over. -/
def Dev.workCmd (d : Dev) (k seq : Nat) (f : Cmd → Cmd) : Dev :=
  d.modCore k fun x => x.modCmd seq fun y => (f y).settle

/-! ### A pass (R75, R134) -/

/-- Stage a result tile. -/
def Dev.stage (d : Dev) (k : Nat) (c : Cmd) (u : Nat) (st : Staged) (f : Cmd → Cmd) : Dev :=
  let n := (d.core k).stamp
  let d := d.modCore k fun x => { x with stamp := n + 1 }
  d.workCmd k c.seq fun y => { f y with pos := u + 1, staged := y.staged ++ [(n, u, st)] }

/-- Non-finite staged results of the B-array (R137). DESIGN CHOICE, log entry 20. -/
def Dev.noteNonfin (d : Dev) (k : Nat) (vals : List (List F32)) : Dev :=
  let n := (vals.flatMap id).countP nonFin
  (d.bump (pgBwd k) 0x120 n).raiseIf (n != 0) (pgBwd k) 1

/-- Write a pass's partial (R99, R141). -/
def Dev.writePartial (d : Dev) (k : Nat) (c : Cmd) (u : Nat) (p : PassIn) (o : PassOut) : Except ErrRec Dev :=
  let m := Mx.parse c.desc
  let a := m.outAddr u
  let tag := d.passTag k c
  if fmtNarrow (modesOf c.desc).fmtIn then
    let lp : LongPartial :=
      { rows := p.rows, cols := p.cols, tag, tileRow := p.tileRow, tileCol := p.tileCol, kTotal := m.kTot
        kFirst := o.kFirst, kCount := o.kCount, tsA := c.tsA, tsB := c.tsB, seq := c.seq, core := k
        regs := maskRegs p.rows p.cols o.regs }
    .ok ((d.write a lp.bytes).bumpHi (pgFwd k) 0x12C 1)
  else
    let es := (sortEntries m.kTot o.entries).map fun e => { e with plane := maskPlane p.rows p.cols e.plane }
    if m.cStride < widePartialBytes es.length p.cols then
      .error (errOn (pgCore k) 0x0105 (seqInfo c.list c.idx) c.seq)
    else
      let wp : WidePartial :=
        { rows := p.rows, cols := p.cols, tag, tileRow := p.tileRow, tileCol := p.tileCol, kTotal := m.kTot
          kFirst := o.kFirst, kCount := o.kCount, fmt := (modesOf c.desc).fmtIn, seq := c.seq, core := k, entries := es }
      .ok ((d.write a wp.bytes).bumpHi (pgBwd k) 0x128 1)

/-- A command with an apply prologue on the B-array (R156). -/
def Cmd.applies (c : Cmd) : Bool :=
  let e := extOf c.desc c.ext
  dOp c.desc == 0x11 && (e.epi == 5 || e.epi == 6) && (c.onB || !fmtNarrow (modesOf c.desc).fmtIn)

/-- The A values of a pass under an apply prologue, and the dx tiles the pass writes with DX_OUT (R156). The dx of a narrow
operand leaves its tensor scale to the rescale table, as the operand itself does. DESIGN CHOICE, log entry 13. -/
def Dev.aValues (d : Dev) (k : Nat) (c : Cmd) (u : Nat) (p : PassIn) :
    Except ErrRec (List (List Fl) × List (Nat × List Byte)) :=
  let m := Mx.parse c.desc
  let e := extOf c.desc c.ext
  let (i, j, h) := m.passAt u
  let first := j == 0 && some h == m.halves.head?
  let unscale (t : Tile) (x : F32) : Fl :=
    match f32 x with
    | .fin n w q => .fin n w (if t.fmt.narrow then q - unbias t.hdr.tscale else q)
    | v => v
  let rec go : List (Nat × Tile × List Nat) → List (List Fl) → List (Nat × List Byte) →
      Except ErrRec (List (List Fl) × List (Nat × List Byte))
    | [], acc, ws => .ok (acc, ws)
    | (b, t, es) :: ts, acc, ws =>
      match d.applyTile k c i b t es with
      | .error x => .error x
      | .ok dx =>
        let rows := dx.map fun r => r.map (unscale t)
        let acc' := if acc.isEmpty then rows else (acc.zip rows).map fun q => q.1 ++ q.2
        go ts acc' (if e.dxOut && first then
          ws ++ [(e.aux1 + (i * m.kb + b) * e.aux1Stride, (dxTile t dx).bytes)] else ws)
  go ((List.range p.a.length).zip p.a) [] []

/-- Make a list of writes in order. -/
def Dev.writeAll (d : Dev) (ws : List (Nat × List Byte)) : Dev := ws.foldl (fun d w => d.write w.1 w.2) d

/-- What the F-array holds after a pass (R80, R81): the long registers, and the escape buffers of either operand, which
take the entries of its tiles in turn. DESIGN CHOICE, log entry 77. -/
def CoreSt.afterPass (c : CoreSt) (p : PassIn) (regs : List LReg) : CoreSt :=
  let put (t : Table (List Nat)) (operand : Nat) (ts : List (Tile × List Nat)) : Table (List Nat) :=
    ((List.range ts.length).zip ts).foldl (fun t x =>
      if x.2.2.isEmpty then t else tset [] t (2 * operand + x.1 % 2) x.2.2) t
  { c with longRegs := regs, escapes := put (put c.escapes 0 p.a) 1 p.b }

/-- One pass of a matrix command. A pass without valid rows or columns is not counted, nor are the pairs of a pass that
fails. DESIGN CHOICE, log entries 20, 43 and 89. -/
def Dev.matrixPass (d : Dev) (k : Nat) (c : Cmd) (u : Nat) : Dev :=
  let m := Mx.parse c.desc
  let e := extOf c.desc c.ext
  let md := modesOf c.desc
  let narrow := fmtNarrow md.fmtIn
  let d := if u = 0 ∧ dOp c.desc = 0x11 ∧ 1 ≤ e.epi ∧ e.epi ≤ 6 ∧ e.statsIo = 1 then d.transferSets k 1 e.aux2 e.stats m.mt
    else d
  match d.readPass k c u with
  | .error x => d.failCmd k c x
  | .ok p =>
    let keyed := (List.range p.a.length).zip (p.a.zip p.b)
    let (i, j, h) := m.passAt u
    let d := keyed.foldl (fun d (b, ta, tb) =>
      (d.noteInvalid k c.seq (i * m.kb + b) ta.1 []).noteInvalid k c.seq (2 ^ 40 + 2 * (j * m.kb + b) + h) tb.1
        (unreadB c j h)) d
    if p.rows = 0 ∨ p.cols = 0 then d.workCmd k c.seq fun y => { y with pos := u + 1, done := y.done + 1 }
    else
      let av : Except ErrRec (Option (List (List Fl)) × List (Nat × List Byte)) :=
        if c.applies then (match d.aValues k c u p with | .ok (v, ws) => .ok (some v, ws) | .error x => .error x)
        else .ok (none, [])
      let res : Except ErrRec (PassOut × List (Nat × List Byte)) :=
        match av with
        | .error x => .error x
        | .ok (v, ws) =>
          match if narrow then d.narrowPass k c u p v
            else d.widePass k c u p (v.getD ((rowsOf p.a p.rows id).map (rowVals m.k))) with
          | .ok o => .ok (o, ws)
          | .error x => .error x
      match res with
      | .error x => d.failCmd k c x
      | .ok (o, ws) =>
        let count (y : Cmd) : Cmd := { y with counts := { y.counts with
          fMac := y.counts.fMac + o.fMac, fMacRecast := y.counts.fMacRecast + o.fMacRecast, bMac := y.counts.bMac + o.bMac
          kCount := max y.counts.kCount o.kCount } }
        let onF := narrow && !c.onB
        let shown := (displayCols c (64 * j + 32 * h) p.cols).map (·.1)
        let disp := onF && !shown.isEmpty
        let d := if onF then d.modCore k fun x => x.afterPass p (maskRegs p.rows p.cols o.regs) else d
        let d := if onF then
            (((d.bump64 (pgFwd k) 0x110 1).bump64 (pgFwd k) 0x118 o.blanks).bump (pgFwd k) 0x120 o.nonfin).raiseIf
              (o.nonfin != 0) (pgFwd k) 1 |>.bump (pgFwd k) 0x128 (b2n disp)
          else if c.unit = 1 then d.bump64 (pgBwd k) 0x110 1 else d
        let d := if md.pIn then (if narrow then d.bumpLo (pgFwd k) 0x12C 1 else d.bumpLo (pgBwd k) 0x128 1) else d
        let live := (d.core k).cmd? c.seq
        let d := match live with
          | some y => if c.unit = 0 then d.setLive k 0 c.seq (y.counts.fMac + o.fMac)
                      else d.setLive k 1 c.seq (y.counts.bMac + o.bMac)
          | none => d
        if md.pOut then
          match d.writePartial k c u p o with
          | .error x => d.failCmd k c x
          | .ok d => (d.writeAll ws).workCmd k c.seq fun y => { count y with pos := u + 1, done := y.done + 1 }
        else
          let tag := d.passTag k c
          let z := rescalePass c u o.y
          match if dOp c.desc = 0x11 then d.epilogue k c u p tag z else .ok (z, [], []) with
          | .error x => d.failCmd k c x
          | .ok (vals, ta, tb) =>
            let d := d.noteNonfin k (if onF then vals.map fun row => shown.map fun x => row.getD x 0#32 else vals)
            let d := if dOp c.desc = 0x11 ∧ e.epi = 7 ∧ e.dropout then d.countDraws k (64 * p.cols) 64 else d
            let st : Staged := { rows := p.rows, cols := p.cols, vals, tag, tileRow := p.tileRow, tileCol := p.tileCol }
            let gathers := decide (1 ≤ e.epi ∧ e.epi ≤ 4) && dOp c.desc == 0x11
            let gather (y : Cmd) : Cmd :=
              if gathers then
                let g := y.gather ++ List.replicate (2 * i + 2 - y.gather.length) []
                { y with gather := (g.set (2 * i) (appendTerms (g.getD (2 * i) []) ta)).set (2 * i + 1)
                           (appendTerms (g.getD (2 * i + 1) []) tb)
                         gatherId := setNth (y.gatherId ++ List.replicate (i + 1 - y.gatherId.length) (0, 0)) i
                           (tag, p.tileRow) }
              else y
            d.stage k c u st fun y => { gather (count y) with dxTiles := y.dxTiles ++ ws.map fun w => (u, w) }

/-- One tile of B.ADD (R140). -/
def Dev.addPass (d : Dev) (k : Nat) (c : Cmd) (u : Nat) : Dev :=
  let b := AddB.parse c.desc
  let e := extOf c.desc c.ext
  let srcs := e.srcs.take b.nsrc
  let rec go : List (Nat × Nat × Nat) → Option Tile → List (List F32) → Except ErrRec (Option Tile × List (List F32))
    | [], t0, acc => .ok (t0, acc)
    | (s, a, stride) :: rest, t0, acc =>
      let q : TileReq := { page := pgBwd k, code := 0x04F0, operand := 2, fmtOk := [(8, none), (9, none), (10, none)]
                           ts := some (d.hdrAt a).tscale }
      match d.readTile k c q (u * b.nsrc + s) (a + u * stride) with
      | .error x => .error x
      | .ok (t, _) =>
        match t0 with
        | none => go rest (some t) t.values
        | some f =>
          let h := f.hdr
          let g := t.hdr
          if g.tag != h.tag || g.tileRow != h.tileRow || g.tileCol != h.tileCol || g.rows != h.rows || g.cols != h.cols then
            .error (errOn (pgBwd k) 0x0403 (tileInfo 2 (u * b.nsrc + s)) c.seq)
          else go rest t0 (List.zipWith (List.zipWith fadd) acc t.values)
  match go ((List.range srcs.length).zip srcs) none [] with
  | .error x => d.failCmd k c x
  | .ok (none, _) => d
  | .ok (some f, vals) =>
    let h := f.hdr
    let cut := (vals.take h.rows).map fun r => r.take h.cols
    let st : Staged := { rows := h.rows, cols := h.cols, vals := cut, tag := h.tag, tileRow := h.tileRow, tileCol := h.tileCol }
    let n := h.rows * h.cols * b.nsrc
    let d := (d.bump64 (pgBwd k) 0x118 b.nsrc).noteNonfin k cut
    let d := match (d.core k).cmd? c.seq with | some y => d.setLive k 1 c.seq (y.counts.bMac + n) | none => d
    d.stage k c u st fun y => { y with counts := { y.counts with bMac := y.counts.bMac + n } }

/-- An array pass begins (R91): array 0 is the F-array, 1 the B-array. -/
def Dev.passStart (d : Dev) (k arr : Nat) : Dev :=
  let c := d.core k
  match c.front arr with
  | none => d
  | some x =>
    let page := if arr = 0 then pgFwd k else pgBwd k
    if 2 ≤ arr || !(d.hdr page).enable then d
    else if arr = 1 && c.held then
      ((d.bump page 0x124 1).raiseIf (!c.bWaits) page 2).modCore k fun z => { z with bWaits := true }
    else
      let cap := if x.convUnit = 0 then 4 else 2
      if decide (cap ≤ c.staging x.convUnit) then
        if arr = 0 then (d.bump page 0x124 1).raise page 2 else d
      else
        let d := if arr = 1 then d.modCore k fun z => { z with bWaits := false } else d
        let d := d.startCmd k x arr
        match (d.core k).cmd? x.seq with
        | none => d
        | some y => if dOp y.desc = 0x19 then d.addPass k y y.pos else d.matrixPass k y y.pos

/-- A ROW command that uses draws (R180, R188, R189). DEDUCED, log entry 80. -/
def rowDraws (c : Cmd) : Bool :=
  let op := dOp c.desc
  (op == 0x26 && !isZero (RowB.parse c.desc).param) || (op == 0x25 && (extOf c.desc c.ext).dropout)

/-! ### Staged tiles -/

/-- The command with the oldest staged tile for a converter. -/
def CoreSt.oldest (c : CoreSt) (u : Nat) : Option (Cmd × Nat × Nat × Staged) :=
  (c.cmds.filter fun x => x.convUnit == u).foldl (fun best x =>
    match x.staged with
    | (n, un, st) :: _ =>
      (match best with
       | some (_, m, _, _) => if n < m then some (x, n, un, st) else best
       | none => some (x, n, un, st))
    | [] => best) none

/-! ### The lane generators (R180) -/

/-- When the tile a converter takes next was staged, where its write draws. Holder u + 1 is the converter of unit u. -/
def CoreSt.drawStamp (c : CoreSt) (holder : Nat) : Option Nat :=
  match c.oldest (holder - 1) with
  | some (x, n, _, _) => if c.drawsNow x then some n else none
  | none => none

/-- The other converter, where its next drawing tile was staged before this holder's (R180). -/
def CoreSt.lanesBefore (c : CoreSt) (holder : Nat) : List Nat :=
  if holder = 3 then []
  else
    match c.drawStamp holder, c.drawStamp (3 - holder) with
    | some n, some m => if m < n then [3 - holder] else []
    | _, _ => []

/-- The waiting holders with one more: converters stand in the order in which their tiles were staged (R180). -/
def CoreSt.joinLanes (c : CoreSt) (holder : Nat) : List Nat :=
  let w := c.laneWait
  let other := 3 - holder
  if holder = 3 then w ++ [3]
  else if w.contains other && (c.lanesBefore other).contains holder then
    w.takeWhile (· != other) ++ [holder] ++ w.dropWhile (· != other)
  else w ++ ((c.lanesBefore holder).filter fun h => !w.contains h) ++ [holder]

/-- A holder takes the lane generators at once if it may, or waits: the state, and whether it has them. Holder u + 1 is the
converter of unit u; 3 is the row caster. -/
def Dev.takeLanes (d : Dev) (k holder : Nat) : Dev × Bool :=
  let c := d.core k
  if c.laneHolder = holder then (d, true)
  else if c.laneHolder = 0 && (if c.laneWait.isEmpty then (c.lanesBefore holder).isEmpty else c.laneWait.head? == some holder) then
    (d.modCore k fun c => { c with laneHolder := holder, laneWait := c.laneWait.filter (· != holder) }, true)
  else
    let d := d.bump (pgLane k) 0x11C 1
    if c.laneWait.contains holder then (d, false)
    else ((d.modCore k fun c => { c with laneWait := c.joinLanes holder }).raise (pgLane k) 2, false)

/-- A holder lets the generators go. -/
def Dev.dropLanes (d : Dev) (k holder : Nat) : Dev :=
  d.modCore k fun c => { c with laneHolder := if c.laneHolder = holder then 0 else c.laneHolder }

/-- A waiting holder takes the generators when they are free (LANE_GENERATORS_ACQUIRE). -/
def Dev.lanesAcquire (d : Dev) (k holder : Nat) : Dev :=
  d.modCore k fun c =>
    if c.laneHolder = 0 && c.laneWait.head? == some holder then
      { c with laneHolder := holder, laneWait := c.laneWait.tail }
    else c

/-! ### A converted tile (R117) -/

/-- Where unit u's result tile goes. -/
def Cmd.destOf (c : Cmd) (u : Nat) : Nat :=
  if dOp c.desc = 0x19 then (AddB.parse c.desc).dst + u * (AddB.parse c.desc).dstStride else (Mx.parse c.desc).outAddr u

/-- The slab a command updates. -/
def Cmd.slabOf (c : Cmd) : Option Nat :=
  let e := extOf c.desc c.ext
  let op := dOp c.desc
  if slabTiles op e || (op == 0x22 && e.slabEn) then some e.slabIdx else none

/-- An earlier-issued command of another unit has writes of the same slab to make (R162). DEDUCED, log entry 40. -/
def CoreSt.slabWaits (c : CoreSt) (x : Cmd) : Bool :=
  match x.slabOf with
  | none => false
  | some i => (c.cmds.takeWhile fun y => y.seq != x.seq).any fun y => y.unit != x.unit && y.slabOf == some i && !y.complete

/-- A failure in unit u: later units commit nothing, and the command is over (R74). -/
def Dev.failUnit (d : Dev) (k : Nat) (c : Cmd) (x : ErrRec) : Dev :=
  (d.setErr x).modCore k fun z => z.modCmd c.seq fun y => { y with err := some x, staged := [], complete := true }

/-- The converter of an array takes its oldest staged tile. DESIGN CHOICE, log entry 84. -/
def Dev.convertStaged (d : Dev) (k unit : Nat) : Dev :=
  match (d.core k).oldest unit with
  | none => d
  | some (c, _, u, st) =>
    let go (d : Dev) : Dev :=
      match d.settleTile k unit u u c st (c.destOf u) with
      | .error x => d.failUnit k c x
      | .ok d =>
        (d.writeAll ((c.dxTiles.filter fun w => w.1 == u).map (·.2))).workCmd k c.seq fun y =>
          { y with staged := y.staged.tail, done := y.done + 1, dxTiles := y.dxTiles.filter fun w => w.1 != u }
    if (d.core k).slabWaits c then d
    else if (d.core k).drawsNow c then
      let (d, has) := d.takeLanes k (unit + 1)
      if has then (go d).dropLanes k (unit + 1) else d
    else go d

/-! ### The row caster -/

/-- Settle a list of tiles in order, each with its number in the command; the first that fails ends it. -/
def Dev.commitAll (d : Dev) (k unit u : Nat) (c : Cmd) : List (Nat × Staged × Nat) → Except ErrRec Dev
  | [] => .ok d
  | (n, st, dest) :: r =>
    match d.settleTile k unit u n c st dest with
    | .error x => .error x
    | .ok d => d.commitAll k unit u c r

/-- Re-runs of a row group for re-set attempts: the rise of the re-set total across it (R118). -/
def Dev.resetTotal (d : Dev) (k : Nat) : Nat := d.reg (pgGauge k) 0x114

/-- Result tiles of a row group, from its values and the headers of the IN tiles (R511). -/
def rowStaged (r : RowIn) (slotTag : Option Nat) (vals : List (List F32)) : List Staged :=
  ((List.range r.hdrs.length).zip r.hdrs).map fun (t, h) =>
    { rows := h.rows, cols := h.cols, vals := vals.map fun v => (v.drop (32 * t)).take h.cols
      tag := slotTag.getD h.tag, tileRow := h.tileRow, tileCol := h.tileCol }

/-- The row terms of a backward command, merged with an incoming partial or written as one (R153). The partial carries the
tag, tile row and format of the input, tile column 0, which all shares of a row have in common, K_TOTAL of the forward set, and
K_FIRST of its own first column. DESIGN CHOICE, log entry 91. -/
def Dev.rowTerms (d : Dev) (k : Nat) (c : Cmd) (g : Nat) (r : RowIn) (total : Nat) (ta tb : List (List F32)) :
    Except ErrRec (Option (List F32 × List F32) × Dev) :=
  let b := RowB.parse c.desc
  let o := modesOf c.desc
  let e := extOf c.desc c.ext
  if !o.pIn && !o.pOut then .ok (some (ta.map rowSum, tb.map rowSum), d)
  else
    let k0 := r.col0
    let own := shareEntries total k0 b.n fun s n =>
      (List.range 64).flatMap fun i =>
        if i < r.rows then [chunkSum (((ta.getD i []).drop s).take n), chunkSum (((tb.getD i []).drop s).take n)]
        else [0#32, 0#32]
    let tag := r.tag
    let h := r.hdrs.headD {}
    let inc : Except ErrRec (List Entry × Nat × Nat × Dev) :=
      if o.pIn then
        (match d.wideIn k (pgRow k) 0x0405 c (e.partialIn + g * e.partialStride) (2 ^ 24) r.rows 2 tag h.tileRow 0
            total o.fmtIn b.n own with
         | .ok w => .ok (w.entries, min w.kFirst k0, w.kCount + b.n, d)
         | .error x => .error x)
      else .ok ([], k0, b.n, d)
    match inc with
    | .error x => .error x
    | .ok (es, kf, kc, d) =>
      let all := mergeEntries total (own ++ es)
      if o.pOut then
        let es := (sortEntries total all).map fun e => { e with plane := maskPlane r.rows 2 e.plane }
        if b.outStride < widePartialBytes es.length 2 then
          .error (errOn (pgCore k) 0x0105 (seqInfo c.list c.idx) c.seq)
        else
          let wp : WidePartial :=
            { rows := r.rows, cols := 2, tag, tileRow := h.tileRow, tileCol := 0, kTotal := total, kFirst := kf
              kCount := kc, fmt := o.fmtIn, seq := c.seq, core := k, entries := es }
          .ok (none, d.write (b.outAddr + g * b.outStride) wp.bytes)
      else
        let plane := finishEntries total 128 all
        let pair (w : Nat) := (List.range r.rows).map fun i => plane.getD (2 * i + w) 0#32
        .ok (some (pair 0, pair 1), d)

/-- Add a row group's parameter gradients to the command's running sums, rows in ascending order (R154). -/
def gatherParams (old : List (List (List F32))) (dg db : List (List F32)) (n : Nat) : List (List (List F32)) :=
  let z := List.replicate n fnegZero
  let cur (i : Nat) := ((old.getD i []).headD z)
  [[dg.foldl (List.zipWith fadd) (cur 0)], [db.foldl (List.zipWith fadd) (cur 1)]]

/-- Count the invalid blocks of the tiles read for one row group (R61, R115). -/
def Dev.rowInvalid (d : Dev) (k : Nat) (c : Cmd) (operand first : Nat) (r : RowIn) : Dev :=
  ((List.range r.tiles.length).zip r.tiles).foldl (fun d (t, tile) =>
    d.noteInvalid k c.seq (2 ^ 42 + 2 * (first + t) + operand) tile []) d

/-- The computation of one row group, sets included; none when the group's result is only a partial. DEDUCED, log entry 26. -/
def Dev.rowGroup (d : Dev) (k : Nat) (c : Cmd) (g : Nat) : Except ErrRec (RowIn × Option (List (List F32)) × Dev) :=
  let b := RowB.parse c.desc
  let o := modesOf c.desc
  let e := extOf c.desc c.ext
  let op := dOp c.desc
  let tpr := b.tilesPerRow
  let q (operand : Nat) : TileReq :=
    { page := pgRow k, code := 0x05F0, operand, fmtOk := operandTakes o.fmtIn false
      sort := if operand = 0 then e.sortA else e.sortB, bound := if operand = 0 then e.sortABound else e.sortBBound }
  let bad (s code : Nat) := errOn (pgRow k) code s c.seq
  let s := b.stats + g
  let core := d.core k
  match d.readRow k c (q 0) b.inAddr b.inStride (g * tpr) b.n with
  | .error x => .error x
  | .ok r =>
    let in2 : Except ErrRec RowIn :=
      if op = 0x22 ∨ op = 0x24 ∨ (op = 0x25 ∧ b.bwd) then d.readRow k c (q 1) b.in2Addr b.in2Stride (g * tpr) b.n
      else .ok r
    match in2 with
    | .error x => .error x
    | .ok r2 =>
      let d := d.rowInvalid k c 0 (g * tpr) r
      let d := if op = 0x22 ∨ op = 0x24 ∨ (op = 0x25 ∧ b.bwd) then d.rowInvalid k c 1 (g * tpr) r2 else d
      let param (a stride : Nat) : Except ErrRec (List F32) := d.readParam k c a stride 0 b.n
      match op with
      | 0x21 =>
        let st := r.vals.map (normStats b.rms b.param)
        let d := d.modCore k fun x => x.putStats s ⟨r.tag, r.tileRow, 1, b.rms, b.n⟩ st
        match param e.aux0 e.aux0Stride, param e.aux1 e.aux1Stride with
        | .error x, _ => .error x
        | _, .error x => .error x
        | .ok ga, .ok be =>
          .ok (r, some ((r.vals.zip st).map fun (xs, mu, rc) =>
            (xs.zip (ga.zip be)).map fun (x, a, t) => Config.normOut x mu rc a t), d)
      | 0x22 =>
        if !core.setFits s 1 r.tag r.tileRow b.rms then .error (bad s 0x0503)
        else match param e.aux0 e.aux0Stride with
          | .error x => .error x
          | .ok ga =>
            let total := if o.pIn || o.pOut then (core.setHdr s).count else b.n
            let ts := ((List.range r.rows).zip (r.vals.zip r2.vals)).map fun (i, x, dy) =>
              normTerms (core.meanOf b.rms s i) (core.stat s i).2 x dy ga
            let gx := ts.map fun t => List.zipWith fmul t.2 t.1
            match d.rowTerms k c g r total (ts.map (·.2)) gx with
            | .error x => .error x
            | .ok (none, d) => .ok (r, none, d)
            | .ok (some (s1, s2), d) =>
              let n := fofNat total
              let d := d.modCore k fun x =>
                let x := x.putStats (gatherSet b.stats b.rt g) ⟨r2.tag, r2.tileRow, 3, b.rms, total⟩ (s1.zip s2)
                let dg := (ts.zip r2.vals).map fun t => List.zipWith fmul t.2 t.1.1
                x.modCmd c.seq fun y => { y with gather := gatherParams y.gather dg r2.vals b.n }
              .ok (r, some (((List.range r.rows).zip ts).map fun (i, xh, gs) =>
                let a := if b.rms then 0#32 else fdiv (s1.getD i 0#32) n
                let bb := fdiv (s2.getD i 0#32) n
                (gs.zip xh).map fun (gv, xv) => normDx a bb (core.stat s i).2 gv xv), d)
      | 0x23 =>
        let st := r.vals.map softStats
        let d := d.modCore k fun x => x.putStats s ⟨r.tag, r.tileRow, 2, false, b.n⟩ st
        .ok (r, some ((r.vals.zip st).map fun (xs, m, lz) => xs.map (softP m lz)), d)
      | 0x24 =>
        if !core.setFits s 2 r.tag r.tileRow false then .error (bad s 0x0503)
        else
          let total := if o.pIn || o.pOut then (core.setHdr s).count else b.n
          let ps := ((List.range r.rows).zip r.vals).map fun (i, xs) =>
            xs.map (softP (core.stat s i).1 (core.stat s i).2)
          let terms := (r2.vals.zip ps).map fun t => List.zipWith fmul t.1 t.2
          match d.rowTerms k c g r total terms (terms.map fun t => t.map fun _ => 0#32) with
          | .error x => .error x
          | .ok (none, d) => .ok (r, none, d)
          | .ok (some (ds, _), d) =>
            let d := d.modCore k fun x =>
              x.putStats (gatherSet b.stats b.rt g) ⟨r2.tag, r2.tileRow, 3, false, total⟩ (ds.map fun v => (v, 0#32))
            .ok (r, some (((List.range r.rows).zip (r2.vals.zip ps)).map fun (i, dp, p) =>
              List.zipWith (fun a v => fmul v (fsub a (ds.getD i 0#32))) dp p), d)
      | _ =>
        match if e.aux0 = 0 then .ok (List.replicate b.n 0#32) else param e.aux0 e.aux0Stride with
        | .error x => .error x
        | .ok bias =>
          let key (j : Nat) : DrawKey :=
            { seed := d.seed k, tag := if o.slotEn then (core.slot o.slot).tag else (r.hdrOf j).tag, step := c.step
              cls := o.randClass }
          .ok (r, some (((List.range r.rows).zip (r.vals.zip r2.vals)).map fun (i, xs, dy) =>
            ((List.range xs.length).zip (xs.zip (dy.zip bias))).map fun (j, x, dyv, bv) =>
              let v := if e.aux0 = 0 then x else fadd x bv
              let y := if b.bwd then fmul dyv (actDeriv e.act v) else actFn e.act v
              dropOut e (key j) (r.pos i j) y), d)

/-- The parameter-gradient tiles of ROW.NORM.BWD: dγ, then dβ, one row each (R154). DESIGN CHOICE, log entry 25. -/
def paramTiles (c : Cmd) (tag n : Nat) : List Staged :=
  let dg := (c.gather.getD 0 []).headD []
  let db := (c.gather.getD 1 []).headD []
  [dg, db].flatMap fun v => (List.range ((n + 31) / 32)).map fun t =>
    { rows := 1, cols := min 32 (n - 32 * t), vals := [(v.drop (32 * t)).take 32], tag, tileRow := 0, tileCol := t }

/-- Add the parameter gradients to the slab the command names, at its last row group (R154, R160, R161).
DESIGN CHOICE, log entry 25. -/
def Dev.slabParams (d : Dev) (k : Nat) (c : Cmd) (e : Ext) (tag n : Nat) : Except ErrRec Dev :=
  let rec go : List (Nat × Staged) → Dev → Except ErrRec Dev
    | [], d => .ok d
    | (u, st) :: r, d =>
      match d.slabUpdate k c e u st with
      | .error x => .error x
      | .ok (st', d) =>
        if e.slabLast then
          match d.commitTile k 2 u c st' (e.aux1 + u * e.aux1Stride) with
          | .error x => .error x
          | .ok d => go r d
        else go r d
  match (d.core k).cmd? c.seq with
  | none => .ok d
  | some y =>
    let ts := paramTiles y tag n
    go ((List.range ts.length).zip ts) d

/-- Rows of length 0 (R189): no score tile says how many of a row group lie in the extent, so their number is free.
DEDUCED, log entry 80. -/
def Dev.emptyRows (d : Dev) : RowIn × Dev :=
  let (v, d) := d.free
  ({ rows := v.toNat % 65, vals := List.replicate (v.toNat % 65) [] }, d)

/-- ROW.DRAW of one row group (R189): the state with the indices written. -/
def Dev.drawGroup (d : Dev) (k : Nat) (c : Cmd) (g : Nat) (r : RowIn) : Dev × Nat :=
  let b := RowB.parse c.desc
  let key (j : Nat) : DrawKey :=
    { seed := d.seed k, tag := (r.hdrOf j).tag, step := c.step, cls := (modesOf c.desc).randClass }
  let idx := ((List.range r.rows).zip r.vals).map fun (i, zs) => drawRow b.param (fun j => (key j).draw (r.pos i j)) zs
  (d.write (b.outAddr + g * b.outStride) (idx.flatMap (natLe 4)), idx.countP (· == 0xFFFFFFFF))

/-- The row caster does the next row group of a ROW command. DEDUCED, log entry 27. -/
def Dev.rowStep (d : Dev) (k : Nat) (c : Cmd) : Dev :=
  let b := RowB.parse c.desc
  let o := modesOf c.desc
  let e := extOf c.desc c.ext
  let op := dOp c.desc
  let g := c.pos
  let (ops, d) := d.free
  let ops := ops.toNat % 2 ^ 32
  let d := if g = 0 ∧ rowStats op ∧ e.statsIo = 1 then d.transferSets k 1 e.aux2 b.stats b.rt else d
  let fin (d : Dev) (converted : Nat) : Dev :=
    let d := d.bump64 (pgRow k) 0x110 ops
    let d := match (d.core k).cmd? c.seq with | some y => d.setLive k 2 c.seq (y.counts.rowOps + ops) | none => d
    d.workCmd k c.seq fun y =>
      { y with pos := g + 1, done := y.done + 1
               counts := { y.counts with rowOps := y.counts.rowOps + ops, converted := y.counts.converted + converted } }
  let nonfin (d : Dev) (n : Nat) := (d.bump (pgRow k) 0x10C n).raiseIf (n != 0) (pgRow k) 1
  if op = 0x26 then
    let q : TileReq :=
      { page := pgRow k, code := 0x05F0, operand := 0, fmtOk := operandTakes o.fmtIn false, sort := e.sortA
        bound := e.sortABound }
    match d.readRow k c q b.inAddr b.inStride (g * b.tilesPerRow) b.n with
    | .error x => d.failCmd k c x
    | .ok r =>
      let d := d.rowInvalid k c 0 (g * b.tilesPerRow) r
      let (r, d) := if b.n = 0 then d.emptyRows else (r, d)
      let (d, bad) := d.drawGroup k c g r
      let d := if isZero b.param ∨ b.n = 0 then d else d.countDraws k (64 * b.n) 64
      fin (nonfin d bad) r.rows
  else
    match d.rowGroup k c g with
    | .error x => d.failCmd k c x
    | .ok (_, none, d) => fin d 0
    | .ok (r, some vals, d) =>
      let before := d
      let d := nonfin d ((vals.flatMap id).countP nonFin)
      let d := if op = 0x25 ∧ e.dropout then d.countDraws k (64 * b.n) 64 else d
      let slotTag := if o.slotEn then some ((d.core k).slot o.slot).tag else none
      let ts := rowStaged r slotTag vals
      let r0 := d.resetTotal k
      let dests := ((List.range ts.length).zip ts).map fun (t, st) =>
        (g * b.tilesPerRow + t, st, b.outAddr + (g * b.tilesPerRow + t) * b.outStride)
      match d.commitAll k 2 g c dests with
      | .error x => before.failUnit k c x
      | .ok d =>
        let d := d.bump (pgRow k) 0x118 (d.resetTotal k - r0)
        let last := g + 1 == b.rt
        match if last && op == 0x22 && e.slabEn then d.slabParams k c e (slotTag.getD r.tag) b.n else .ok d with
        | .error x => before.failUnit k c x
        | .ok d => fin d 0

/-- CONVERT does its next tile (R173); with CALIBRATED, the next tile of the calibration area (R129). -/
def Dev.convertStep (d : Dev) (k : Nat) (c : Cmd) : Dev :=
  let b := CvtB.parse c.desc
  let o := modesOf c.desc
  let u := c.pos
  let s := (d.core k).slot o.slot
  let src := if b.calibrated then s.calTile u else b.src + u * b.srcStride
  let dst := if b.calibrated then d.readNat (s.calBase + 8 * u) 8 % 2 ^ 48 else b.dst + u * b.dstStride
  let q : TileReq :=
    { page := pgRow k, code := 0x05F0, operand := 0, fmtOk := [(if b.calibrated then 10 else o.fmtIn, none)]
      ts := some (if b.calibrated then 127 else (d.hdrAt b.src).tscale) }
  match d.readTile k c q u src with
  | .error x => d.failCmd k c x
  | .ok (t, _) =>
    let h := t.hdr
    let tag := if o.slotEn && !b.calibrated then s.tag else h.tag
    let st : Staged := { rows := h.rows, cols := h.cols, vals := t.values, tag, tileRow := h.tileRow, tileCol := h.tileCol }
    match d.commitTile k 2 u c st dst with
    | .error x => d.failUnit k c x
    | .ok d =>
      let d := d.workCmd k c.seq fun y => { y with pos := u + 1, done := y.done + 1 }
      if b.calibrated && u + 1 == c.unitsOf then
        d.modCore k fun x => x.modSlot o.slot fun s => { s with calCnt := 0, calDone := true }
      else d

/-- Calibrated CONVERT begins (R129): TSCALE from PEND_AMAX, and the tiles of the calibration area counted. -/
def Dev.calibrateStart (d : Dev) (k : Nat) (c : Cmd) : Dev :=
  let i := (modesOf c.desc).slot
  let s := (d.core k).slot i
  let ts := if isZero s.pendAmax then s.tscale else s.scaleFrom s.pendAmax
  d.modCore k fun x => (x.modSlot i fun s => { s with tscale := ts }).modCmd c.seq fun y =>
    { y with moved := s.calCnt, conv := { y.conv with tscale := ts } }

/-- The row caster's front command: the first that is not over. -/
def CoreSt.rowFront (c : CoreSt) : Option Cmd := c.cmds.find? fun x => x.unit == 2 && !x.complete && x.err.isNone

/-- The row caster does its next unit of work. -/
def Dev.rowWork (d : Dev) (k : Nat) : Dev :=
  match (d.core k).rowFront with
  | none => d
  | some x =>
    if !(d.hdr (pgRow k)).enable || (d.core k).slabWaits x then d
    else
      let needs := (d.core k).drawsNow x || rowDraws x
      let (d, has) := if needs then d.takeLanes k 3 else (d, true)
      if !has then d
      else
        let d := if !x.started && dOp x.desc = 0x20 && (CvtB.parse x.desc).calibrated then d.calibrateStart k x else d
        let d := d.startCmd k x 2
        let d := match (d.core k).cmd? x.seq with
          | none => d
          | some y => if dOp y.desc = 0x20 then d.convertStep k y else d.rowStep k y
        if dOp x.desc = 0x20 then d.dropLanes k 3 else d

/-- TILE_CONVERT: unit 0 and 1 are the arrays' converters, 2 the row caster. -/
def Dev.tileConvert (d : Dev) (k unit : Nat) : Dev :=
  if unit = 0 ∨ unit = 1 then d.convertStaged k unit else if unit = 2 then d.rowWork k else d

/-! ### Retirement of compute commands -/

/-- What a compute command does as it retires: gathered sets, saved sets, the tap's microbatch end, the generators. -/
def Dev.finishCompute (d : Dev) (k : Nat) (c : Cmd) : Dev :=
  let e := extOf c.desc c.ext
  let op := dOp c.desc
  let ok := c.err.isNone
  let m := Mx.parse c.desc
  let d := if op = 0x11 ∧ ok then
      (List.range m.mt).foldl (fun d i =>
        let id := c.gatherId.getD i (0, 0)
        d.modCore k fun x => x.gatherWrite c i id.1 id.2) d
    else d
  let d := if ok ∧ e.statsIo = 2 then
      (if rowStats op then d.transferSets k 2 e.aux2 (RowB.parse c.desc).stats (RowB.parse c.desc).rt
       else if op = 0x11 ∧ e.epi ≠ 0 ∧ e.epi ≠ 7 then d.transferSets k 2 e.aux2 e.stats m.mt else d)
    else d
  let d := if e.tapEn && e.tapEnd then d.modCore k fun x => x.modTap e.tapIdx fun t => { t with n := sat 16 (t.n + 1) } else d
  if c.unit = 2 ∧ !(d.core k).cmds.any (fun y => y.seq != c.seq && y.unit == 2 && y.started) then d.dropLanes k 3 else d

end Sys2Proof.Machine
end

