-- ==== Sys2Proof/Machine/Collective.lean ====
section
/-!
DEFINITION. Sys2Proof/Machine/Collective.lean: the collective engines (R315–R327): kicks, runs, the streams up and down, the
reductions, and the re-shard permute.
-/
namespace Sys2Proof.Machine

/-! ### Entries (Table 11-5) -/

/-- The fields of an entry. Strides in bytes. -/
structure CollEnt where
  op : Nat := 0
  red : Nat := 0
  fmtIn : Nat := 0
  fmtOut : Nat := 0
  valid : Bool := false
  tiled : Bool := false
  rank : Nat := 0
  ranks : Nat := 0
  groupTag : Nat := 0
  up : Nat := 0
  down : Nat := 0
  src : Nat := 0
  srcStride : Nat := 0
  dst : Nat := 0
  dstStride : Nat := 0
  scratch : Nat := 0
  count : Nat := 0
  bound : Nat := 0
  map : Nat := 0
  mapCount : Nat := 0
  kicks : Nat := 0
  root : Nat := 0
  doneTag : Nat := 0
  notify : List Nat := []
  npart : Nat := 0
  deriving DecidableEq, Repr

def CollEnt.parse (b : List Byte) : CollEnt :=
  let f (o n : Nat) := field b o n
  { op := f 0 1, red := f 1 1, fmtIn := f 2 1 / 16, fmtOut := f 2 1 % 16, valid := bit (f 3 1) 7, tiled := bit (f 3 1) 6
    rank := f 4 2, ranks := f 6 2, groupTag := f 8 4, up := f 0x0C 2, down := f 0x0E 2
    src := f 0x10 8 % 2 ^ 48, srcStride := f 0x10 8 / 2 ^ 48 * 64, dst := f 0x18 8 % 2 ^ 48, dstStride := f 0x18 8 / 2 ^ 48 * 64
    scratch := f 0x20 8 % 2 ^ 48, count := f 0x28 4, bound := f 0x2C 4, map := f 0x30 8 % 2 ^ 48, mapCount := f 0x38 4
    kicks := f 0x3C 2, root := f 0x3E 2, doneTag := f 0x40 2
    notify := ((List.range (min 8 (f 0x42 1))).map fun i => f (0x44 + 2 * i) 2 % 2048).filter (· < numCores)
    npart := f 0x54 2 }

def CollRun.e (r : CollRun) : CollEnt := CollEnt.parse r.ent

/-- A reserved field of the entry is not 0. -/
def entReserved (b : List Byte) : Bool :=
  field b 3 1 % 64 != 0 || bits (field b 0x0C 2) 13 6 != 0 || bits (field b 0x0E 2) 13 6 != 0 ||
  field b 0x26 2 != 0 || field b 0x36 2 != 0 || field b 0x43 1 != 0 || field b 0x56 42 != 0 ||
  (List.range 8).any fun i => field b (0x44 + 2 * i) 2 / 2048 != 0

/-- Page code of an engine's own table. -/
def Dev.collTable (d : Dev) (c : Nat) : Nat := d.reg64 (pgColl c) 0x108 % 2 ^ 48 / 128 * 128

/-- Bytes of a unit as stored, where its size is fixed (Table 11-7). -/
def unitBytes (red fmt : Nat) : Option Nat :=
  match red with
  | 0 => some ((Fmt.ofCode fmt).getD .fp32).tileBytes
  | 1 => some 4
  | 2 => some longPartialBytes
  | 3 => none
  | _ => some 16

/-- Distance between stored units: the stride where TILED is 1 or units are partials, else the unit's size. -/
def CollEnt.pitch (e : CollEnt) (stride : Nat) : Nat :=
  if e.tiled ∨ e.red = 2 ∨ e.red = 3 then stride else (unitBytes e.red e.fmtIn).getD stride

/-- Bytes of a unit in the stream that travels up, and of one that travels down. A partial sum travels as an FP32 tile.
DESIGN CHOICE, log entry 53. -/
def CollEnt.upBytes (e : CollEnt) : Option Nat :=
  if e.op = 3 ∨ e.op = 4 then unitBytes e.red e.fmtIn
  else if e.red = 0 then some Fmt.fp32.tileBytes else unitBytes e.red e.fmtIn
def CollEnt.downBytes (e : CollEnt) : Option Nat :=
  if e.op = 3 ∨ e.op = 4 then unitBytes e.red e.fmtIn else unitBytes e.red e.fmtOut

/-- Slice j of REDUCE_SCATTER: its first unit. -/
def CollEnt.sliceStart (e : CollEnt) (j : Nat) : Nat := j * e.count / e.ranks

/-! ### Routes -/

/-- The port a route names, if it is on the die and inside the partition. DESIGN CHOICE, log entry 54. -/
def Dev.collPort (d : Dev) (c route : Nat) : Option Nat :=
  let i := route % 64
  match route / 2 ^ 14 with
  | 1 => if i / 9 = c then some (d.lnHome i) else none
  | 2 => ((dieLinks c).find? fun l => decide (2 ≤ d.lnWidth l) && d.lnTrunk l == i).map d.lnHome
  | 3 => if i < 4 ∧ i ≠ c ∧ (d.die i).part.isSome ∧ (d.die i).part = (d.die c).part then some (36 + i) else none
  | _ => none

/-- A flit goes out of a port. -/
def Dev.portSend (d : Dev) (c port : Nat) (f : LnFlit) : Dev :=
  if port < 36 then d.pushFlit port f
  else d.modColl (port - 36) fun x => { x with inbox := x.inbox ++ [(36 + c, f)] }

/-- A record goes out of a port. -/
def Dev.portRecord (d : Dev) (c port ty : Nat) (body : List Byte) : Dev :=
  if port < 36 then d.sendRecord port ty body
  else d.portSend c port { kind := 3, payload := lnRecord ty 0 body }

/-! ### Runs -/

def Dev.collRun (d : Dev) (c ch : Nat) : Option CollRun := tget none (d.coll c).chans ch
def Dev.setRun (d : Dev) (c ch : Nat) (r : Option CollRun) : Dev :=
  d.modColl c fun x => { x with chans := tset none x.chans ch r }
def Dev.modRun (d : Dev) (c ch : Nat) (f : CollRun → CollRun) : Dev := d.setRun c ch ((d.collRun c ch).map f)

/-- A channel's number whose run has an entry and ARM. -/
def Dev.findRun (d : Dev) (c entry arm : Nat) : Option Nat :=
  (List.range 4).find? fun ch => (d.collRun c ch).any fun r => r.entry == entry && r.arm == arm

/-- A run fails: its error is set, and it does nothing more (R336). -/
def Dev.failRun (d : Dev) (c ch code : Nat) : Dev :=
  match d.collRun c ch with
  | none => d
  | some r =>
    if r.fail ≠ 0 ∨ r.done then d
    else (d.modRun c ch fun r => { r with fail := code }).setError (pgColl c) code (r.entry * 2 ^ 26 + r.arm * 2 ^ 18) r.e.rank

/-- The channels of die c hold for a cut (R342), or wait for the first tick after a restore (R366). -/
def Dev.chanHeld (d : Dev) (c : Nat) : Bool := (d.die c).part.any fun p => (d.part p).moversHeld || (d.part p).restored

/-- Data flits go out on a route. -/
def Dev.routeSend (d : Dev) (c route : Nat) (fs : List LnFlit) : Dev :=
  match d.collPort c route with
  | some p => fs.foldl (fun d f => d.portSend c p f) d
  | none => d

/-- Send a data flit toward a neighbour, or keep it until the neighbour has started (R318) and no cut holds (R342). -/
def Dev.runFlit (d : Dev) (c ch : Nat) (up : Bool) (f : LnFlit) : Dev :=
  match d.collRun c ch with
  | none => d
  | some r =>
    if up then
      (if r.upReady && r.upWait.isEmpty && !d.chanHeld c then d.routeSend c r.e.up [f]
       else d.modRun c ch fun r => { r with upWait := r.upWait ++ [f] })
    else if r.downReady && r.downWait.isEmpty && !d.chanHeld c then d.routeSend c r.e.down [f]
    else d.modRun c ch fun r => { r with downWait := r.downWait ++ [f] }

/-- Data flits that waited in a channel go out, once nothing keeps them. -/
def Dev.flushWait (d : Dev) (c ch : Nat) : Dev :=
  match d.collRun c ch with
  | none => d
  | some r =>
    if r.fail ≠ 0 ∨ d.chanHeld c = true then d
    else
      let d := if r.upReady then (d.modRun c ch fun r => { r with upWait := [] }).routeSend c r.e.up r.upWait else d
      if r.downReady then (d.modRun c ch fun r => { r with downWait := [] }).routeSend c r.e.down r.downWait else d

/-- Flits of a run that are formed and that its link has still to send. -/
def Dev.runWaiting (d : Dev) (c : Nat) (r : CollRun) (up : Bool) : List LnFlit :=
  match d.collPort c (if up then r.e.up else r.e.down) with
  | some p =>
    if p < 36 then (d.ln p).waiting.filter fun f =>
      f.kind == 2 && f.wordA / 2 ^ 26 == r.entry && f.wordA / 2 ^ 16 % 256 == r.arm
    else []
  | none => []

/-- Memory the engine of die c reaches: its partition's HBM, over adjacent stacks too, and its die's cases (R315, R318). -/
def Dev.collReach (d : Dev) (c a n : Nat) : Bool :=
  let last := stackOf (a + n - 1)
  n == 0 || inRegions ((dieCores c).map fun k => (caseBase k, caseBytes)) a n ||
  (match (d.die c).part with
   | none => false
   | some p => decide (last < 8) && (List.range 8).all fun st => decide (st < stackOf a ∨ last < st) || d.owns p (st / 2))

/-- PHASE of a run's stream in a direction (Table 11-2). -/
def CollEnt.phase (e : CollEnt) (up : Bool) : Nat :=
  if e.op = 7 then 3 else if e.op = 3 ∨ e.op = 4 then 2 else if up then 0 else 1

/-- Put pending stream bytes into flits: full ones, and at the end of the stream the rest. -/
def Dev.flushRun (d : Dev) (c ch : Nat) (up last : Bool) : Nat → Dev
  | 0 => d
  | fuel + 1 =>
    match d.collRun c ch with
    | none => d
    | some r =>
      let p := if up then r.pendUp else r.pendDown
      if r.fail ≠ 0 ∨ p.isEmpty ∨ (p.length < 240 ∧ !last) then d
      else
        let f : LnFlit :=
          { kind := 2, wordA := r.entry * 2 ^ 26 + r.e.phase up * 2 ^ 24 + r.arm * 2 ^ 16
            wordB := if up then r.sUp else r.sDown, payload := p.take 240 }
        let n := min 240 p.length
        let d := d.modRun c ch fun r =>
          if up then { r with pendUp := p.drop 240, sUp := r.sUp + n } else { r with pendDown := p.drop 240, sDown := r.sDown + n }
        (d.runFlit c ch up f).flushRun c ch up last fuel

/-- A unit joins the stream in a direction. -/
def Dev.emitUnit (d : Dev) (c ch : Nat) (up last : Bool) (u : List Byte) : Dev :=
  let d := d.modRun c ch fun r => if up then { r with pendUp := r.pendUp ++ u } else { r with pendDown := r.pendDown ++ u }
  d.flushRun c ch up last (u.length / 240 + 3)

/-- The engine writes bytes: not beyond its reach (R318), and not into a save area that refuses them (R353). A failed run
writes nothing (R336). -/
def Dev.collWrite (d : Dev) (c ch a : Nat) (bs : List Byte) : Dev :=
  if (d.collRun c ch).any fun r => r.fail != 0 then d
  else if !d.collReach c a bs.length || d.inHold a bs.length then d.failRun c ch 0x0A40
  else ((d.write a bs).bump64 (pgColl c) 0x138 bs.length).modRun c ch fun r => { r with written := r.written + bs.length }

/-! ### Reductions (R320, R321, Table 11-7) -/

/-- MAX of two FP32 words. -/
def maxWord (a b : F32) : F32 :=
  if isNan a || isNan b then fnan
  else if flt a b then b else if flt b a then a
  else if bit a.toNat 31 then b else a

/-- A stored tile as the FP32 tile of its values. -/
def Tile.asFp32 (t : Tile) : Tile :=
  { hdr := { t.hdr with fmt := 10, shift := 0, tscale := 127 }, codes := t.values.map fun r => r.map BitVec.toNat }

/-- The two tiles name one place (R321). -/
def sameTile (a b : TileHdr) : Bool :=
  a.tag == b.tag && a.tileRow == b.tileRow && a.tileCol == b.tileCol && a.rows == b.rows && a.cols == b.cols

/-- Values of a tile, those outside the extent 0. -/
def inExtent (h : TileHdr) (v : List (List F32)) : List (List F32) :=
  ((List.range 64).zip v).map fun (i, r) => ((List.range 32).zip r).map fun (j, x) =>
    if i < h.rows ∧ j < h.cols then x else 0#32

/-- Combine an incoming stream unit with this rank's stored unit; or the failure code. DESIGN CHOICE, log entry 53. -/
def combineUnit (red fmtIn : Nat) (inc own : List Byte) : Except Nat (List Byte) :=
  match red with
  | 0 =>
    let a := Tile.parse inc
    let b := Tile.parse own
    if !sameTile a.hdr b.hdr || b.hdr.fmt != fmtIn then .error 0x0A43
    else
      let y := inExtent b.hdr (List.zipWith (List.zipWith fadd) a.values b.values)
      .ok { b.asFp32 with codes := y.map fun (r : List F32) => r.map BitVec.toNat }.bytes
  | 1 => .ok (natLe 4 (maxWord (BitVec.ofNat 32 (leNat inc)) (BitVec.ofNat 32 (leNat own))).toNat)
  | 2 =>
    let a := LongPartial.parse inc
    let b := LongPartial.parse own
    if a.typ ≠ 0x4C ∨ a.ver ≠ 1 ∨ (b.check a.rows a.cols a.tag a.tileRow a.tileCol a.kTotal a.tsA a.tsB a.kCount).isSome then .error 0x0A42
    else .ok { b with kFirst := min a.kFirst b.kFirst, kCount := a.kCount + b.kCount
                      regs := List.zipWith LReg.add a.regs b.regs }.bytes
  | 3 =>
    let a := WidePartial.parse inc
    let b := WidePartial.parse own
    if a.typ ≠ 0x57 ∨ a.ver ≠ 1 ∨ (b.check a.rows a.cols a.tag a.tileRow a.tileCol a.kTotal a.fmt a.kCount a.entries).isSome then .error 0x0A42
    else .ok { b with kFirst := min a.kFirst b.kFirst, kCount := a.kCount + b.kCount
                      entries := sortEntries b.kTotal (mergeEntries b.kTotal (a.entries ++ b.entries)) }.bytes
  | _ =>
    let s := GSlot.fold { tag := field inc 0 4, pendAmax := BitVec.ofNat 32 (field inc 4 4)
                          pendNorm := BitVec.ofNat 32 (field inc 8 4), pendFmt := field inc 0x0E 1 / 16
                          produced := bit (field inc 0x0E 1) 3, tileRecast := bit (field inc 0x0E 1) 2 } own
    if field inc 0 4 ≠ field own 0 4 ∨ field inc 0x0C 2 % 512 ≠ field own 0x0C 2 % 512 then .error 0x0A43
    else .ok (s.summary (field own 0x0C 2 % 512))

/-- A rank's own unit as the first rank puts it into the stream. -/
def firstUnit (red fmtIn : Nat) (own : List Byte) : Except Nat (List Byte) :=
  match red with
  | 0 =>
    let t := Tile.parse own
    if t.hdr.fmt ≠ fmtIn then .error 0x0A43
    else .ok { t.asFp32 with codes := (inExtent t.hdr t.values).map fun (r : List F32) => r.map BitVec.toNat }.bytes
  | 2 =>
    let p := LongPartial.parse own
    if (p.check p.rows p.cols p.tag p.tileRow p.tileCol p.kTotal p.tsA p.tsB 0).isSome then .error 0x0A42 else .ok own
  | 3 =>
    let w := WidePartial.parse own
    if (w.check w.rows w.cols w.tag w.tileRow w.tileCol w.kTotal w.fmt 0 []).isSome then .error 0x0A42 else .ok own
  | _ => .ok own

/-- The last rank's result in the output format, from the reduced unit (R320). -/
def roundUnit (red fmtOut : Nat) (u : List Byte) : List Byte :=
  if red ≠ 0 then u
  else
    let t := Tile.parse u
    let f := (Fmt.ofCode fmtOut).getD .fp32
    let codes := t.values.map fun r => r.map fun x => if f = .fp32 then x.toNat else fpEncode f.ieee (f32 x)
    let t := { t with hdr := { t.hdr with fmt := fmtOut, shift := 0, tscale := 127 }, codes }
    -- an element may round to infinity
    { t with hdr := { t.hdr with nonfinite := (t.values.flatMap id).any nonFin } }.bytes

/-- What a rank writes: the result under its own header, and partials under its engine's ID (R321). -/
def ownResult (red engine : Nat) (u own : List Byte) : List Byte :=
  match red with
  | 0 =>
    let t := Tile.parse u
    let h := (Tile.parse own).hdr
    { t with hdr := { h with fmt := t.hdr.fmt, shift := 0, tscale := 127, nonfinite := t.hdr.nonfinite } }.bytes
  | 2 => { LongPartial.parse u with seq := 0, core := engine }.bytes
  | 3 => { WidePartial.parse u with seq := 0, core := engine }.bytes
  | _ => u

/-! ### Units of work -/

/-- Bytes of the unit at the front of a received stream, if whole. -/
def wholeUnit (size : Option Nat) (s : List Byte) : Option Nat :=
  let n := match size with
    | some n => n
    | none => if s.length < 32 then 2 ^ 32 else widePartialBytes (field s 29 1) (field s 3 1)
  if n ≤ s.length ∧ 0 < n then some n else none

/-- Bytes of the stored unit at `a`; a wide partial's header says. -/
def Dev.unitSize (d : Dev) (red fmt a : Nat) : Nat :=
  (unitBytes red fmt).getD (widePartialBytes (d.readNat (a + 29) 1) (d.readNat (a + 3) 1))

/-- A stored unit of the rank's source. -/
def Dev.ownUnit (d : Dev) (e : CollEnt) (i : Nat) : Except Nat (List Byte) :=
  let a := e.src + i * e.pitch e.srcStride
  let n := d.unitSize e.red e.fmtIn a
  if d.bad a n then .error 0x0A46 else .ok (d.read a n)

/-- Inputs j × NPART … of LOCAL_REDUCE reduced in index order. DESIGN CHOICE, log entry 53. -/
def Dev.localUnit (d : Dev) (e : CollEnt) (j : Nat) : Except Nat (List Byte) :=
  let rec go : List Nat → List Byte → Except Nat (List Byte)
    | [], acc => .ok acc
    | i :: is, acc =>
      match d.ownUnit e (j * e.npart + i) with
      | .error x => .error x
      | .ok u => match combineUnit e.red e.fmtIn acc u with
        | .error x => .error x
        | .ok v => go is v
  match d.ownUnit e (j * e.npart) with
  | .error x => .error x
  | .ok u => match firstUnit e.red e.fmtIn u with
    | .error x => .error x
    | .ok v => go ((List.range e.npart).drop 1) v

/-- The rank with the result writes unit i, or sends it down, as the operation says. -/
def Dev.finishUnit (d : Dev) (c ch : Nat) (e : CollEnt) (i : Nat) (u own : List Byte) : Dev :=
  let eng := collSource + c
  let v := roundUnit e.red e.fmtOut u
  let a (j : Nat) := e.dst + j * e.pitch e.dstStride
  let write (d : Dev) (j : Nat) := d.collWrite c ch (a j) (ownResult e.red eng v own)
  let lastDown := if e.op = 2 then e.sliceStart e.rank else e.count
  let down (d : Dev) := if e.rank = 0 then d else d.emitUnit c ch false (i + 1 == lastDown) v
  match e.op with
  | 1 => down (write d i)
  | 2 => if e.sliceStart e.rank ≤ i then write d (i - e.sliceStart e.rank) else down d
  | _ => write d i

/-- One unit of the reduce phase at this rank. DESIGN CHOICE, log entry 53. -/
def Dev.reduceStep (d : Dev) (c ch : Nat) (r : CollRun) (e : CollEnt) : Option Dev :=
  let i := r.units
  if e.count ≤ i then none
  else
    let res : Option (Except Nat (List Byte × List Byte × Nat)) :=
      if e.op = 6 then
        some (match d.localUnit e i, d.ownUnit e (i * e.npart) with
          | .error x, _ => .error x
          | _, .error x => .error x
          | .ok u, .ok own => .ok (u, own, 0))
      else match d.ownUnit e i with
        | .error x => some (.error x)
        | .ok own =>
          if e.rank = 0 then some (match firstUnit e.red e.fmtIn own with | .ok u => .ok (u, own, 0) | .error x => .error x)
          else (wholeUnit e.upBytes r.inUp).map fun n =>
            match combineUnit e.red e.fmtIn (r.inUp.take n) own with
            | .ok u => .ok (u, own, n)
            | .error x => .error x
    match res with
    | none => none
    | some (.error x) => some (d.failRun c ch x)
    | some (.ok (u, own, n)) =>
      let d := d.modRun c ch fun r => { r with units := i + 1, inUp := r.inUp.drop n }
      some (if e.rank + 1 < e.ranks then d.emitUnit c ch true (i + 1 == e.count) u else d.finishUnit c ch e i u own)

/-- Units a rank below the last receives in the down phase. -/
def CollEnt.downUnits (e : CollEnt) : Nat :=
  if e.rank + 1 = e.ranks then 0 else if e.op = 1 then e.count else if e.op = 2 then e.sliceStart (e.rank + 1) else 0

/-- One unit of the down phase. -/
def Dev.downStep (d : Dev) (c ch : Nat) (r : CollRun) (e : CollEnt) : Option Dev :=
  let i := r.unitsDown
  if e.downUnits ≤ i then none
  else (wholeUnit e.downBytes r.inDown).map fun n =>
    let u := r.inDown.take n
    let d := d.modRun c ch fun r => { r with unitsDown := i + 1, inDown := r.inDown.drop n }
    match d.ownUnit e i with
    | .error x => d.failRun c ch x
    | .ok own =>
      let s := if e.op = 2 then e.sliceStart e.rank else 0
      let d := if s ≤ i then d.collWrite c ch (e.dst + (i - s) * e.pitch e.dstStride) (ownResult e.red (collSource + c) u own)
               else d
      let lastDown := if e.op = 2 then s else e.count
      if e.rank ≠ 0 ∧ i < lastDown then d.emitUnit c ch false (i + 1 == lastDown) u else d

/-- Units that reach a rank from below and from above in ALL_GATHER and BROADCAST. -/
def CollEnt.fromBelow (e : CollEnt) : Nat := if e.op = 3 then e.rank * e.count else if e.root < e.rank then e.count else 0
def CollEnt.fromAbove (e : CollEnt) : Nat :=
  if e.op = 3 then (e.ranks - 1 - e.rank) * e.count else if e.rank < e.root then e.count else 0

/-- Where a unit of source rank j lands (Table 11-6). -/
def CollEnt.gatherAddr (e : CollEnt) (j i : Nat) : Nat :=
  e.dst + (if e.op = 3 then j * e.count * e.dstStride else 0) + i * e.pitch e.dstStride

/-- One unit of ALL_GATHER or BROADCAST: the own units first, then those that arrive. -/
def Dev.gatherStep (d : Dev) (c ch : Nat) (r : CollRun) (e : CollEnt) : Option Dev :=
  let sends := e.op == 3 || e.root == e.rank
  let upTotal := (if sends then e.count else 0) + e.fromBelow
  let downTotal := (if sends then e.count else 0) + e.fromAbove
  let up (d : Dev) (n : Nat) (u : List Byte) := if e.rank + 1 < e.ranks then d.emitUnit c ch true (n == upTotal) u else d
  let down (d : Dev) (n : Nat) (u : List Byte) := if e.rank = 0 then d else d.emitUnit c ch false (n == downTotal) u
  let own := if sends then e.count else 0
  if sends && decide (r.units < e.count) then
    match d.ownUnit e r.units with
    | .error x => some (d.failRun c ch x)
    | .ok u =>
      let d := (d.modRun c ch fun r => { r with units := r.units + 1 }).collWrite c ch (e.gatherAddr e.rank r.units) u
      some (down (up d (r.units + 1) u) (r.units + 1) u)
  else if r.unitsUp < e.fromBelow then
    (wholeUnit e.upBytes r.inUp).map fun n =>
      let u := r.inUp.take n
      let d := d.modRun c ch fun r => { r with unitsUp := r.unitsUp + 1, inUp := r.inUp.drop n }
      up (d.collWrite c ch (e.gatherAddr (e.rank - 1 - r.unitsUp / e.count) (r.unitsUp % e.count)) u) (own + r.unitsUp + 1) u
  else none

/-- Its counterpart for units from above. -/
def Dev.gatherDown (d : Dev) (c ch : Nat) (r : CollRun) (e : CollEnt) : Option Dev :=
  let sends := e.op == 3 || e.root == e.rank
  let own := if sends then e.count else 0
  let downTotal := own + e.fromAbove
  if (sends && decide (r.units < e.count)) || decide (e.fromAbove ≤ r.unitsDown) then none
  else (wholeUnit e.downBytes r.inDown).map fun n =>
    let u := r.inDown.take n
    let d := d.modRun c ch fun r => { r with unitsDown := r.unitsDown + 1, inDown := r.inDown.drop n }
    let d := d.collWrite c ch (e.gatherAddr (e.rank + 1 + r.unitsDown / e.count) (r.unitsDown % e.count)) u
    if e.rank = 0 then d else d.emitUnit c ch false (own + r.unitsDown + 1 == downTotal) u

/-! ### The permute (R324–R327) -/

/-- One map entry (Table 11-8). -/
structure MapEnt where
  tag : Nat := 0
  row : Nat := 0
  col : Nat := 0
  size : Nat := 0
  srcRank : Nat := 0
  src : Nat := 0
  dstRank : Nat := 0
  dst : Nat := 0
  deriving DecidableEq, Repr

def MapEnt.parse (b : List Byte) : MapEnt :=
  ⟨field b 0 4, field b 4 4, field b 8 4, field b 12 4, field b 0x16 2, field b 0x10 6, field b 0x1E 2, field b 0x18 6⟩

def MapEnt.key (m : MapEnt) : Nat := m.tag * 2 ^ 64 + m.row * 2 ^ 32 + m.col

/-- The map of a run. -/
def Dev.collMap (d : Dev) (e : CollEnt) : List MapEnt :=
  (List.range e.mapCount).map fun i => MapEnt.parse (d.read (e.map + 32 * i) 32)

/-- Strictly or weakly rising keys. -/
def sortedKeys : List Nat → Bool
  | a :: b :: t => decide (a ≤ b) && sortedKeys (b :: t)
  | _ => true

/-- Two of a list of ranges overlap. -/
def anyOverlap : List (Nat × Nat) → Bool
  | [] => false
  | r :: rs => rs.any (fun s => overlaps r.1 r.2 s.1 s.2) || anyOverlap rs

/-- The map check of R325. -/
def mapBad (e : CollEnt) (m : List MapEnt) : Bool :=
  let outs := m.filter fun x => x.srcRank == e.rank
  let ins := (m.filter fun x => x.dstRank == e.rank).map fun x => (x.dst, x.size)
  !sortedKeys (m.map MapEnt.key) ||
  m.any (fun x => (x.srcRank != e.rank && x.dstRank != e.rank) || decide (e.ranks ≤ x.srcRank ∨ e.ranks ≤ x.dstRank)) ||
  decide (e.bound < (outs.map (·.size)).foldl (· + ·) 0) || anyOverlap ins ||
  ins.any fun r => overlaps r.1 r.2 e.scratch e.bound

/-- Outgoing entries with their index in the map and place in scratch. -/
def outgoing (e : CollEnt) (m : List MapEnt) : List (Nat × MapEnt × Nat) :=
  let rec go : List (Nat × MapEnt) → Nat → List (Nat × MapEnt × Nat)
    | [], _ => []
    | (i, x) :: t, off => if x.srcRank = e.rank then (i, x, off) :: go t (off + x.size) else go t off
  go ((List.range m.length).zip m) 0

/-- A tile is written at its map entry, whose place it must name (R327). -/
def Dev.placeTile (d : Dev) (c ch i : Nat) (x : MapEnt) (bs : List Byte) : Dev :=
  let h := TileHdr.parse bs
  if x.tag ≠ h.tag ∨ x.row ≠ h.tileRow ∨ x.col ≠ h.tileCol then d.failRun c ch 0x0A44
  else (d.collWrite c ch x.dst bs).modRun c ch fun r => { r with tilesDone := insertNat i r.tilesDone }

/-- The map entry of a tile that arrives: WORD_B holds the index of the sender's map, so of this rank's incoming entries the one
not yet written that the tile's header names. DESIGN CHOICE, log entry 53. -/
def Dev.entryOf (d : Dev) (r : CollRun) (e : CollEnt) (bs : List Byte) : Option (Nat × MapEnt) :=
  let h := TileHdr.parse bs
  let m := d.collMap e
  ((List.range m.length).zip m).find? fun q =>
    q.2.dstRank == e.rank && q.2.srcRank != e.rank && !r.tilesDone.contains q.1 && q.2.tag == h.tag && q.2.row == h.tileRow &&
    q.2.col == h.tileCol

/-- Cut a tile into permute flits. -/
def tileFlits (r : CollRun) (dest idx : Nat) : Nat → List Byte → List LnFlit
  | 0, _ => []
  | n + 1, bs =>
    if bs.isEmpty then []
    else { kind := 2, wordA := r.entry * 2 ^ 26 + 3 * 2 ^ 24 + r.arm * 2 ^ 16 + dest, wordB := idx, payload := bs.take 240 }
      :: tileFlits r dest idx n (bs.drop 240)

/-- After GO, send every outgoing tile from scratch (R326 step 3). -/
def Dev.permuteSend (d : Dev) (c ch : Nat) : Dev :=
  match d.collRun c ch with
  | none => d
  | some r =>
    let e := r.e
    (outgoing e (d.collMap e)).foldl (fun d (i, x, off) =>
      if (d.collRun c ch).any fun r => r.fail != 0 then d
      else if d.bad (e.scratch + off) x.size then d.failRun c ch 0x0A46
      else
        let bs := d.read (e.scratch + off) x.size
        if x.dstRank = e.rank then d.placeTile c ch i x bs
        else (tileFlits r x.dstRank i (bs.length / 240 + 1) bs).foldl (fun d f => d.runFlit c ch (decide (e.rank < x.dstRank)) f) d)
      (d.modRun c ch fun r => { r with sent := true })

/-- A permute flit: passed on, or added to the tile being received in its direction. -/
def Dev.permuteFlit (d : Dev) (c ch : Nat) (up : Bool) (f : LnFlit) : Dev :=
  match d.collRun c ch with
  | none => d
  | some r =>
    let e := r.e
    if r.fail ≠ 0 then d
    else if f.wordA % 2 ^ 16 ≠ e.rank then d.runFlit c ch up f
    else
      let bs := (if up then r.inUp else r.inDown) ++ f.payload
      match d.entryOf r e bs with
      | none => d.failRun c ch 0x0A44
      | some (i, x) =>
        let keep (d : Dev) (x : List Byte) := d.modRun c ch fun r => if up then { r with inUp := x } else { r with inDown := x }
        if bs.length < x.size then keep d bs else (keep d []).placeTile c ch i x (bs.take x.size)

/-- A wave record goes to a neighbour. -/
def Dev.sendWave (d : Dev) (c ch : Nat) (up : Bool) (kind : Nat) : Dev :=
  match d.collRun c ch with
  | none => d
  | some r =>
    match d.collPort c (if up then r.e.up else r.e.down) with
    | some p => d.portRecord c p 0x0A (natLe 1 (r.entry * 4) ++ natLe 1 r.arm ++ natLe 1 kind)
    | none => d

/-- READY and GO move on, and after GO the tiles (R326 steps 2 and 3). -/
def Dev.waves (d : Dev) (c ch : Nat) : Dev :=
  match d.collRun c ch with
  | none => d
  | some r =>
    let e := r.e
    if r.fail ≠ 0 ∨ r.sent then d
    else if r.go then (if e.rank = 0 then d else d.sendWave c ch false 1).permuteSend c ch
    else if !r.copied ∨ (e.rank ≠ 0 ∧ !r.ready) ∨ r.told then d
    else
      let d := d.modRun c ch fun r => { r with told := true }
      if e.rank + 1 < e.ranks then d.sendWave c ch true 0
      else
        let d := d.modRun c ch fun r => { r with go := true }
        (if e.rank = 0 then d else d.sendWave c ch false 1).permuteSend c ch

/-- A PERMUTE goes as far as it can: what has arrived is taken, and the waves move on. Its map must read (R336). -/
def Dev.pumpPermute (d : Dev) (c ch : Nat) : Dev :=
  match d.collRun c ch with
  | none => d
  | some r =>
    if r.fail ≠ 0 ∨ r.done ∨ d.chanHeld c = true then d
    else if d.bad r.e.map (32 * r.e.mapCount) then d.failRun c ch 0x0A46
    else
      let d := d.modRun c ch fun r => { r with inFlits := [] }
      (r.inFlits.foldl (fun d q => d.permuteFlit c ch q.1 q.2) d).waves c ch

/-- The permute is complete at this rank. -/
def Dev.permuteDone (d : Dev) (r : CollRun) (e : CollEnt) : Bool :=
  r.sent && r.inFlits.isEmpty && ((d.collMap e).filter fun x => x.dstRank == e.rank).length == r.tilesDone.length

/-! ### Progress -/

/-- Nothing is left to do at this rank, and all it formed has left (R326). -/
def Dev.runOver (d : Dev) (c : Nat) (r : CollRun) (e : CollEnt) : Bool :=
  r.upWait.isEmpty && r.downWait.isEmpty && r.pendUp.isEmpty && r.pendDown.isEmpty && (d.runWaiting c r true).isEmpty &&
  (d.runWaiting c r false).isEmpty &&
  (if e.op = 7 then d.permuteDone r e
   else if e.op = 3 ∨ e.op = 4 then
     (decide (e.op = 4 ∧ e.root ≠ e.rank) || r.units == e.count) && r.unitsUp == e.fromBelow && r.unitsDown == e.fromAbove
   else r.units == e.count && r.unitsDown == e.downUnits)

/-- One unit of work of a channel. -/
def Dev.collStep (d : Dev) (c ch : Nat) : Option Dev :=
  match d.collRun c ch with
  | none => none
  | some r =>
    let e := r.e
    if r.fail ≠ 0 ∨ r.done ∨ d.chanHeld c = true then none
    else if e.op = 7 then none
    else if e.op = 3 ∨ e.op = 4 then (d.gatherStep c ch r e).orElse fun _ => d.gatherDown c ch r e
    else (d.reduceStep c ch r e).orElse fun _ => d.downStep c ch r e

/-- A channel goes as far as it can. -/
def Dev.pumpChan (d : Dev) (c ch : Nat) : Nat → Dev
  | 0 => d
  | fuel + 1 => match d.collStep c ch with | some d => d.pumpChan c ch fuel | none => d

/-- Units a run can ever handle, and one. -/
def CollEnt.work (e : CollEnt) : Nat := 2 * e.count * (e.ranks + 1) + 1

/-- After an event, a channel works on, and its run is over when nothing is left. -/
def Dev.pumpRun (d : Dev) (c ch : Nat) : Dev :=
  match d.collRun c ch with
  | none => d
  | some r =>
    let d := d.flushWait c ch
    let d := if r.e.op = 7 then d.pumpPermute c ch else d.pumpChan c ch r.e.work
    match d.collRun c ch with
    | none => d
    | some r =>
      if r.fail = 0 ∧ d.chanHeld c = false ∧ d.runOver c r r.e = true then d.modRun c ch fun r => { r with done := true } else d

/-! ### Kicks and starts (R317, R318) -/

/-- A kick reaches the engine of die c. -/
def Dev.kick (d : Dev) (c src tag : Nat) (payload : List Byte) : Dev :=
  let x := d.coll c
  if tag < 64 ∧ payload.length = 8 ∧ field payload 0 1 = tget 0 x.arms tag then
    let n := tget 0 x.kicks tag + 1
    let need := field (d.read (d.collTable c + 128 * tag) 128) 0x3C 2
    d.modColl c fun x =>
      { x with kicks := tset 0 x.kicks tag n
               ready := if n = max 1 need ∧ !x.ready.contains tag then x.ready ++ [tag] else x.ready }
  else d.setError (pgColl c) 0x0A47 (src % 2048) 0

/-- Every entry's next ARM and kick count are 0 again (R317). DEDUCED, log entry 52. -/
def Dev.clearKicks (d : Dev) (c : Nat) : Dev := d.modColl c fun x => { x with arms := [], kicks := [], ready := [] }

/-- COLL_KICK. DEDUCED, log entry 52. -/
def Dev.collKick (d : Dev) (c src tag : Nat) (payload : List Byte) : Dev := if c < 4 then d.kick c src tag payload else d

/-- MESSAGE_ARRIVAL. -/
def Dev.messageArrival (d : Dev) (src seq : Nat) : Dev :=
  d.messageArrives src seq fun d c s => d.kick c s.src s.tag (if s.src < numCores then d.read s.addr s.len else s.payload)

/-- `n` stored units from `a` lie within the engine's reach. -/
def Dev.unitsReach (d : Dev) (c : Nat) (e : CollEnt) (fmt stride a n : Nat) : Bool :=
  match unitBytes e.red fmt with
  | some z => d.collReach c a (if n = 0 then 0 else (n - 1) * e.pitch stride + z)
  | none => (List.range n).all fun i => d.collReach c (a + i * stride) (d.unitSize e.red fmt (a + i * stride))

/-- The ranges an entry's run reads and writes lie within reach (R318). Those of a wide partial's results are known as they are
written. -/
def Dev.rangesOk (d : Dev) (c : Nat) (e : CollEnt) : Bool :=
  if e.op = 7 then
    d.collReach c e.map (32 * e.mapCount) && d.collReach c e.scratch e.bound &&
    (d.collMap e).all fun x =>
      (x.srcRank != e.rank || d.collReach c x.src x.size) && (x.dstRank != e.rank || d.collReach c x.dst x.size)
  else
    let nsrc := if e.op = 6 then e.count * e.npart else if e.op = 4 ∧ e.root ≠ e.rank then 0 else e.count
    let slice := e.sliceStart (e.rank + 1) - e.sliceStart e.rank
    let dsts : List (Nat × Nat) :=
      if e.op = 2 then [(e.dst, slice)]
      else if e.op = 3 then (List.range e.ranks).map fun j => (e.gatherAddr j 0, e.count)
      else if e.op = 5 ∧ e.rank + 1 ≠ e.ranks then [] else [(e.dst, e.count)]
    let fmt := if e.op = 3 ∨ e.op = 4 then e.fmtIn else e.fmtOut
    d.unitsReach c e e.fmtIn e.srcStride e.src nsrc &&
    (e.red == 3 || dsts.all fun r => d.unitsReach c e fmt e.dstStride r.1 r.2)

/-- Bytes of the longest stream of a run, as far as its entry and its own units tell (R318). -/
def Dev.streamMax (d : Dev) (e : CollEnt) : Nat :=
  let own := if e.red = 3 then ((List.range e.count).map fun i => d.unitSize e.red e.fmtIn (e.src + i * e.srcStride)).foldl (· + ·) 0
    else e.count * max (e.upBytes.getD 0) (e.downBytes.getD 0)
  if e.op = 6 ∨ e.op = 7 then 0 else if e.op = 3 then own * e.ranks else own

/-- The entry check of R318. A core to be told lies in the engine's partition (R24). -/
def Dev.entryOk (d : Dev) (c : Nat) (b : List Byte) : Bool :=
  let e := CollEnt.parse b
  let mine (k : Nat) : Bool := (d.die c).part.any fun p => d.ownsCore p k
  e.valid && !entReserved b && decide (1 ≤ e.op ∧ e.op ≤ 7) && decide (e.red ≤ 4) &&
  decide (1 ≤ e.ranks ∧ e.ranks ≤ 4096 ∧ e.rank < e.ranks) && decide (1 ≤ e.kicks ∧ e.kicks ≤ 64) &&
  decide (field b 0x42 1 ≤ 8) && (List.range (field b 0x42 1)).all (fun i => mine (field b (0x44 + 2 * i) 2)) &&
  (e.op != 6 || (e.ranks == 1 && decide (2 ≤ e.npart ∧ e.npart ≤ 64))) &&
  (e.op != 4 || decide (e.root < e.ranks)) &&
  (e.op == 7 || (match e.red with | 0 => fmtWide e.fmtIn && fmtWide e.fmtOut && e.tiled | 1 | 4 => !e.tiled | _ => true)) &&
  (e.op == 6 || decide (e.rank + 1 = e.ranks) || (d.collPort c e.up).isSome) &&
  (e.op == 6 || e.rank == 0 || (d.collPort c e.down).isSome) && d.rangesOk c e && decide (d.streamMax e < 2 ^ 32)

/-- Body of a COLL_START (Table 11-3). -/
def startBody (r : CollRun) : List Byte :=
  let e := r.e
  natLe 1 (r.entry * 4) ++ natLe 1 r.arm ++ natLe 1 (e.op * 32 + e.red * 4) ++ natLe 1 (e.fmtIn * 16 + e.fmtOut) ++
  natLe 4 e.groupTag ++ natLe 2 e.rank ++ natLe 2 e.ranks

/-- A neighbour's COLL_START meets a running run (R318). -/
def Dev.meetStart (d : Dev) (c ch port : Nat) (rec : List Byte) : Dev :=
  match d.collRun c ch with
  | none => d
  | some r =>
    let e := r.e
    let mine := startBody r
    let sameUp := (rec.drop 6).take 6 == (mine.drop 2).take 6 && field rec 0x0E 2 == e.ranks
    let isUp := d.collPort c e.up == some port && decide (e.rank + 1 < e.ranks)
    let rank := field rec 0x0C 2
    let side : Option Bool :=
      if isUp && rank == e.rank + 1 then some true
      else if d.collPort c e.down == some port && decide (0 < e.rank) && rank + 1 == e.rank then some false else none
    match side with
    | none => d.failRun c ch 0x0A41
    | some up =>
      if !sameUp then d.failRun c ch 0x0A41
      else (d.modRun c ch fun r => if up then { r with upReady := true } else { r with downReady := true }).pumpRun c ch

/-- A COLL_START reaches the engine of die c by a port. -/
def Dev.collStartIn (d : Dev) (c port : Nat) (rec : List Byte) : Dev :=
  match d.findRun c (field rec 4 1 / 4) (field rec 5 1) with
  | some ch => d.meetStart c ch port rec
  | none => d.modColl c fun x => { x with early := x.early ++ [(port, rec)] }

/-- A COLL_WAVE reaches the engine (R326). One that comes before this rank's run has started waits for it. -/
def Dev.collWaveIn (d : Dev) (c : Nat) (rec : List Byte) : Dev :=
  match d.findRun c (field rec 4 1 / 4) (field rec 5 1) with
  | none =>
    if field rec 5 1 = tget 0 (d.coll c).arms (field rec 4 1 / 4) then
      d.modColl c fun x => { x with early := x.early ++ [(36, rec)] }
    else d
  | some ch =>
    (d.modRun c ch fun r => if field rec 6 1 = 0 then { r with ready := true } else { r with go := true }).pumpRun c ch

/-- COLL_RUN_START (R317, R318, R325): the first fully kicked entry starts on a free channel. -/
def Dev.collRunStart (d : Dev) (c entry : Nat) : Dev :=
  let x := d.coll c
  match (List.range 4).find? fun ch => (tget none x.chans ch).isNone with
  | none => d
  | some ch =>
    if 4 ≤ c ∨ x.ready.head? ≠ some entry ∨ (d.hdr (pgColl c)).enable = false ∨ d.chanHeld c = true then d
    else
      let a := d.collTable c + 128 * entry
      let b := d.read a 128
      let r : CollRun := { entry, arm := tget 0 x.arms entry, ent := b }
      let d := d.modColl c fun x =>
        { x with ready := x.ready.tail, kicks := tset 0 x.kicks entry 0, arms := tset 0 x.arms entry ((r.arm + 1) % 256) }
      let d := d.setRun c ch (some r)
      if d.bad a 128 ∨ (r.e.op = 7 ∧ d.bad r.e.map (32 * r.e.mapCount) = true) then d.failRun c ch 0x0A46
      else if !d.entryOk c b then d.failRun c ch 0x0A40
      else if r.e.op = 7 && mapBad r.e (d.collMap r.e) then d.failRun c ch 0x0A44
      else
        let e := r.e
        let tell (d : Dev) (route : Nat) := match d.collPort c route with
          | some p => d.portRecord c p 9 (startBody r)
          | none => d
        let d := if e.op ≠ 6 ∧ e.rank + 1 < e.ranks then tell d e.up else d
        let d := if e.op ≠ 6 ∧ 0 < e.rank then tell d e.down else d
        let mine := x.early.filter fun q => field q.2 4 1 / 4 == entry && field q.2 5 1 == r.arm
        let d := d.modColl c fun x => { x with early := x.early.filter fun q => !mine.contains q }
        (mine.foldl (fun d q => if field q.2 0 1 = 9 then d.meetStart c ch q.1 q.2 else d.collWaveIn c q.2) d).pumpRun c ch

/-- PERMUTE_COPY_DONE (R326 step 1). -/
def Dev.permuteCopyDone (d : Dev) (c ch : Nat) : Dev :=
  match d.collRun c ch with
  | none => d
  | some r =>
    let e := r.e
    if e.op ≠ 7 ∨ r.copied ∨ r.fail ≠ 0 ∨ 4 ≤ c ∨ 4 ≤ ch ∨ d.chanHeld c = true then d
    else
      let outs := outgoing e (d.collMap e)
      if d.bad e.map (32 * e.mapCount) || outs.any (fun q => d.bad q.2.1.src q.2.1.size) then d.failRun c ch 0x0A46
      else
        let d := outs.foldl (fun d q => d.collWrite c ch (e.scratch + q.2.2) (d.read q.2.1.src q.2.1.size)) d
        (d.modRun c ch fun r => { r with copied := true }).pumpRun c ch

/-- Bytes of a run's whole stream in a direction, where they are fixed. -/
def CollEnt.streamBytes (e : CollEnt) (up : Bool) : Option Nat :=
  if e.op = 3 ∨ e.op = 4 then
    (if up then e.upBytes.map (· * e.fromBelow) else e.downBytes.map (· * e.fromAbove))
  else if up then e.upBytes.map (· * e.count) else e.downBytes.map (· * e.downUnits)

/-- The stream of a run has ended in a direction: nothing more may come of it (R336). -/
def CollRun.streamOver (r : CollRun) (e : CollEnt) (up : Bool) : Bool :=
  match e.streamBytes up with
  | some t => decide (t ≤ if up then r.rUp else r.rDown)
  | none =>
    if e.op = 3 ∨ e.op = 4 then (if up then decide (e.fromBelow ≤ r.unitsUp) else decide (e.fromAbove ≤ r.unitsDown))
    else if up then decide (e.count ≤ r.units) else decide (e.downUnits ≤ r.unitsDown)

/-- COLL_FLIT: stream bytes reach a running channel by a port; none runs: the flit is discarded (R336). -/
def Dev.collFlitIn (d : Dev) (c port : Nat) (f : LnFlit) : Dev :=
  match d.findRun c (f.wordA / 2 ^ 26) (f.wordA / 2 ^ 16 % 256) with
  | none => if port < 36 then d.setError (pgLink port) 0x0A06 0 (d.ln port).epoch else d
  | some ch =>
    match d.collRun c ch with
    | none => d
    | some r =>
      let e := r.e
      let up := d.collPort c e.down == some port
      if r.fail ≠ 0 then d
      else if f.wordA / 2 ^ 24 % 4 ≠ e.phase up then d.failRun c ch 0x0A43
      else if e.op = 7 then (d.modRun c ch fun r => { r with inFlits := r.inFlits ++ [(up, f)] }).pumpRun c ch
      else
        let got := if up then r.rUp else r.rDown
        if f.wordB ≠ got ∨ r.streamOver e up then d.failRun c ch 0x0A43
        else
          let n := match e.streamBytes up with | some t => min 240 (t - got) | none => 240
          let bs := f.payload.take n
          (d.modRun c ch fun r =>
            if up then { r with inUp := r.inUp ++ bs, rUp := got + bs.length }
            else { r with inDown := r.inDown ++ bs, rDown := got + bs.length }).pumpRun c ch

/-- The next thing another die's engine sent arrives. DESIGN CHOICE, log entry 54. -/
def Dev.dieArrival (d : Dev) (c : Nat) : Dev :=
  match (d.coll c).inbox with
  | [] => d
  | (port, f) :: rest =>
    if !d.meshOpen (port - 36) c then d else
    let d := d.modColl c fun x => { x with inbox := rest }
    if f.kind = 2 then d.collFlitIn c port f
    else if field f.payload 0 1 = 9 then d.collStartIn c port f.payload else d.collWaveIn c f.payload

/-- COLL_RUN_DONE (R319): completion messages are sent, to cores of the partition (R24), and the channel is free. -/
def Dev.collRunDone (d : Dev) (c ch : Nat) : Dev :=
  let d := d.pumpRun c ch
  match d.collRun c ch with
  | none => d
  | some r =>
    if 4 ≤ c ∨ 4 ≤ ch ∨ (r.fail = 0 ∧ !r.done) ∨ d.chanHeld c = true then d
    else
      let e := r.e
      let body := natLe 2 r.fail ++ natLe 1 r.arm ++ natLe 1 r.entry ++ natLe 4 r.written ++ natLe 8 0
      let n0 := (d.coll c).msgs
      let told := e.notify.filter fun k => (d.die c).part.any fun p => d.ownsCore p k
      let sends := ((List.range told.length).zip told).map fun (i, k) =>
        { src := collSource + c, seq := n0 + i, dest := k, tag := e.doneTag, len := 16, payload := body : Send }
      let d := { d with flights := d.flights ++ sends }.setRun c ch none
      let d := d.modColl c fun x => { x with msgs := x.msgs + told.length }
      if r.fail = 0 then (d.bump (pgColl c) 0x130 1).raise (pgColl c) 1 else (d.bump (pgColl c) 0x134 1).raise (pgColl c) 2

end Sys2Proof.Machine
end

