-- ==== Sys2Proof/Machine/GaugeCmd.lean ====
section
/-!
DEFINITION. Sys2Proof/Machine/GaugeCmd.lean: GAUGE.SET and GAUGE.READ (R106, R112, R113, R116, R127, R216), writes through
the slot window (R131), and the global recast state (R125).
-/
namespace Sys2Proof.Machine

/-- Slots a GAUGE.SET names: those of its records in merge mode, else consecutive ones (R216). -/
def Dev.gaugeSlots (d : Dev) (b : MsgB) : List Nat :=
  if b.tag = 1 then (List.range b.len).map fun i => d.readNat (b.addr + 16 * i + 0x0C) 2 % 512
  else (List.range b.len).map (b.peer + ·)

/-- An issued, unretired command of the core converts under the slot. -/
def CoreSt.slotInUse (c : CoreSt) (i : Nat) : Bool := c.cmds.any fun x => x.conv.slotEn && x.conv.slot == i

/-- A GAUGE.SET waits for the earlier-issued commands that name its slots (R113). DESIGN CHOICE, log entry 34. -/
def Dev.gaugeMustWait (d : Dev) (k : Nat) (desc : List Byte) : Bool :=
  dOp desc == 0x3C && !badHeader desc && !badFields desc {} &&
    (d.gaugeSlots (MsgB.parse desc)).any fun i => (d.core k).slotInUse i

/-- Load one image (R131). -/
def Dev.loadImage (d : Dev) (k seq i : Nat) (b : List Byte) : Dev × Option ErrRec :=
  let s := GSlot.ofImage b
  match (d.core k).slotBad i s 0 0xBF with
  | some off =>
    let e := errOn (pgGauge k) 0x0304 (off * 2 ^ 24 + i) seq
    (d.setErr e, some e)
  | none => (d.withRecast k fun d => d.putSlot k i s, none)

/-- Fold one record (R112). -/
def Dev.mergeRecord (d : Dev) (k seq n : Nat) (r : List Byte) : Dev × Option ErrRec :=
  let i := field r 0x0C 2 % 512
  let s := (d.core k).slot i
  if !s.used || s.tag != field r 0 4 then
    let e := errOn (pgGauge k) 0x0306 (n * 2 ^ 16 + i) seq
    (d.setErr e, some e)
  else (d.withRecast k fun d => d.putSlot k i (s.fold r), none)

/-- Do something for each of a list; the last error given is kept. -/
def Dev.eachOf {α : Type} (f : Dev → α → Dev × Option ErrRec) : List α → Dev → Option ErrRec → Dev × Option ErrRec
  | [], d, e => (d, e)
  | x :: xs, d, e => let r := f d x; Dev.eachOf f xs r.1 (if r.2.isSome then r.2 else e)

/-- The change a GAUGE.SET makes. -/
def Dev.gaugeApply (d : Dev) (k : Nat) (c : Cmd) : Dev × Option ErrRec :=
  let b := MsgB.parse c.desc
  let idx := List.range b.len
  match b.tag with
  | 0 => Dev.eachOf (fun d i => d.loadImage k c.seq (b.peer + i) (d.read (b.addr + 192 * i) 192)) idx d none
  | 1 => Dev.eachOf (fun d i => d.mergeRecord k c.seq i (d.read (b.addr + 16 * i) 16)) idx d none
  | 2 => (d.modCore k fun x => idx.foldl (fun x i => x.modSlot (b.peer + i) GSlot.clearCounters) x, none)
  | _ => (idx.foldl (fun d i => d.putSlot k (b.peer + i) ((d.core k).slot (b.peer + i)).clearHistory) d, none)

/-- A GAUGE.SET does its work as it issues and retires (R203). -/
def Dev.gaugeSetDone (d : Dev) (k : Nat) (c : Cmd) : Dev :=
  let b := MsgB.parse c.desc
  let n := if b.tag = 0 then 192 * b.len else if b.tag = 1 then 16 * b.len else 0
  match if n = 0 then none else d.badAt b.addr n with
  | some u =>
    let e : ErrRec := { c.coreErr k 0x0110 with ue := some u }
    (d.setErr e).retire k { c with err := some e }
  | none =>
    let r := d.gaugeApply k c
    r.1.retire k { c with err := r.2 }

/-- GAUGE.SET at the cursor, in one of the modes of `fits`. DESIGN CHOICE, log entry 34. -/
def Dev.gaugeSet (d : Dev) (k : Nat) (fits : Nat → Bool) : Dev :=
  match d.atCursor k with
  | none => d
  | some (_, _, raw) =>
    let ok := (dOp raw == 0x3C && fits (field raw 0x1E 2)) || opIn [] raw
    if ok && (d.core k).mayIssue raw && d.gaugeMustWait k (resolve (d.core k) raw) then d.stallIssue k
    else d.issue k (fun _ => ok) fun d c => d.gaugeSetDone k c

/-- What a GAUGE.READ writes: images or summary records. -/
def CoreSt.gaugeBytes (c : CoreSt) (b : MsgB) : List Byte :=
  (List.range b.len).flatMap fun i =>
    if b.tag = 0 then (c.slot (b.peer + i)).image else (c.slot (b.peer + i)).summary (b.peer + i)

/-- GAUGE.READ at the cursor; it writes its records and retires. DESIGN CHOICE, log entry 34. -/
def Dev.gaugeRead (d : Dev) (k : Nat) (fits : Nat → Bool) : Dev :=
  d.issue k (fun raw => (dOp raw == 0x3D && fits (field raw 0x1E 2)) || opIn [] raw) fun d c =>
    let b := MsgB.parse c.desc
    (d.write b.addr ((d.core k).gaugeBytes b)).retire k c

/-- A write of one word through the slot window (R131): `off` is its image offset. -/
def Dev.slotWindow (d : Dev) (k off : Nat) (w : Word) : Dev :=
  let i := d.reg (pgGauge k) 0x104 % 512
  let c := d.core k
  if c.slotInUse i then d.setError (pgGauge k) 0x0302 ((0x200 + off) * 2 ^ 16 + i) 0
  else
    let s := (c.slot i).setWord off w
    match c.slotBad i s off off with
    | some o => d.setError (pgGauge k) 0x0304 (o * 2 ^ 24 + i) 0
    | none => d.withRecast k fun d => d.putSlot k i s

/-- Is the register of this GAUGE offset in the slot window? -/
def isSlotWindow (off : Nat) : Bool := decide (0x200 ≤ off ∧ off < 0x2C0) && off % 4 == 0

/-- GAUGE_WINDOW_WRITE. DEDUCED, log entry 40. -/
def Dev.gaugeWindowWrite (d : Dev) (k off : Nat) (w : Word) : Dev :=
  if isSlotWindow off then d.slotWindow k (off - 0x200) w else d

/-- GLOBAL_RECAST follows its condition: it rises when the condition holds, and falls only at a step boundary, where
`step` is true (R125, R126, R132, R414). -/
def Dev.updateGlobal (d : Dev) (p : Nat) (step : Bool) : Dev :=
  let now := d.globalCondition p
  let was := (d.part p).globalRecast
  let g := now || (was && !step)
  let d := d.modPart p fun x => { x with globalRecast := g }
  if g && !was then ((d.coresIn p).foldl (fun d k => d.raise (pgGauge k) 6) d).raise pgGov (4 * p + 3) else d

/-- GLOBAL_RECAST_UPDATE: a core's ALL_RECAST reaches the partition's state on H. -/
def Dev.globalRecastUpdate (d : Dev) (k : Nat) : Dev :=
  let a := (d.core k).assertsAll
  let d := d.modCore k fun c => { c with allRecast := a }
  match d.partOf k with
  | some p => d.updateGlobal p false
  | none => d

end Sys2Proof.Machine
end

