-- ==== Sys2Proof/Machine/Governor.lean ====
section
/-!
DEFINITION. Sys2Proof/Machine/Governor.lean: ring entries taken at a tick (R385, R386, R406), command-memory loads (R225),
and admission (R406–R410).
-/
namespace Sys2Proof.Machine

/-! ### Command-memory loads (R225) -/

/-- A list whose range is protected against writes (R224). -/
def ListSt.protected (s : ListSt) : Bool := s.state == .admitted || s.state == .running || s.state == .parked

/-- Descriptors [lo, hi] overlap a protected list. -/
def CoreSt.protects (c : CoreSt) (lo hi : Nat) : Bool :=
  c.lists.any fun l => l.2.protected && decide (l.2.first ≤ hi ∧ lo ≤ l.2.last)

/-- First descriptor and count of a CMEM load. -/
def cmemDst (w : Nat) : Nat × Nat := (w % 1024, bits w 25 16 + 1)

/-- A CMEM load into core k is refused. -/
def Dev.cmemRefused (d : Dev) (k src dst : Nat) : Bool :=
  let (i, n) := cmemDst dst
  !inRegions (d.cmdRegions k) src (64 * n) || decide (1024 < i + n) || (d.core k).protects i (i + n - 1)

/-- Copy the descriptors. -/
def Dev.cmemCopy (d : Dev) (k src dst : Nat) : Dev :=
  let (i, n) := cmemDst dst
  let bs := d.read src (64 * n)
  d.modCore k fun c => { c with cmem := c.cmem.write (64 * i) bs }

/-! ### The command ring -/

/-- A register of partition p's PART set, and of its GOV set. -/
def partReg (p off : Nat) : Nat := 0x200 + 0x40 * p + off
def Dev.prt (d : Dev) (p off : Nat) : Nat := d.reg pgPart (partReg p off)
def Dev.gov (d : Dev) (p off : Nat) : Nat := d.reg pgGov (0x200 + 0x40 * p + off)

/-- Entries the ring holds: 2^L (R385). -/
def Dev.ringLen (d : Dev) (p : Nat) : Nat := 2 ^ (d.prt p 0x18 % 32)
/-- Address of entry i. -/
def Dev.ringAddr (d : Dev) (p i : Nat) : Nat := d.reg64 pgPart (partReg p 0x10) % 2 ^ 48 + i % d.ringLen p * 64

/-- Cores of an entry's rectangle (R13, Table 13-3). -/
def entryCores (e : List Byte) : List Nat :=
  let x0 := field e 8 1
  let x1 := field e 9 1
  let y0 := field e 10 1
  let y1 := field e 11 1
  (List.range (y1 + 1 - y0)).flatMap fun j => (List.range (x1 + 1 - x0)).map fun i => (y0 + j) * 48 + x0 + i

/-- The entry is skipped (R386). -/
def Dev.entryBad (d : Dev) (p : Nat) (e : List Byte) : Bool :=
  let cs := entryCores e
  let load := bit (field e 14 1) 1
  decide (field e 9 1 < field e 8 1 ∨ field e 11 1 < field e 10 1 ∨ 48 ≤ field e 9 1 ∨ 24 ≤ field e 11 1) ||
  cs.any (fun k => !d.ownsCore p k) || decide (8 ≤ field e 14 1) || field e 0x1C 36 != 0 ||
  field e 0x16 2 != 0 || field e 0x18 4 &&& 0xFC00FC00 != 0 ||
  (load && cs.any fun k => d.cmemRefused k (field e 0x10 6) (field e 0x18 4))

/-- A list that a LISTS bit names becomes eligible (R406). -/
def ListSt.makeEligible (s : ListSt) : ListSt :=
  if (s.state == .idle || s.state == .ended) && s.admissible then { s with eligible := true } else s

/-- An entry is taken: loads first, then its lists become eligible. -/
def Dev.takeEntry (d : Dev) (p : Nat) (e : List Byte) : Dev :=
  let cs := entryCores e
  let fl := field e 14 1
  let d := if bit fl 1 then cs.foldl (fun d k => d.cmemCopy k (field e 0x10 6) (field e 0x18 4)) d else d
  let ls := setBits 16 (field e 12 2)
  let d := cs.foldl (fun d k => d.modCore k fun c => ls.foldl (fun c l => c.modList l ListSt.makeEligible) c) d
  if bit fl 2 then d.modPart p fun x => { x with orders := x.orders ++ [e] } else d

/-- The entry's NOT_BEFORE holds it at impression n (R386). -/
def entryHeld (e : List Byte) (n : Nat) : Bool := bit (field e 14 1) 0 && serialLater 32 n (field e 4 4)

/-- Take ring entries at the tick that begins impression n: at most `fuel` (R406). -/
def Dev.takeRing (d : Dev) (p n : Nat) : Nat → Dev
  | 0 => d
  | fuel + 1 =>
    let hd := d.prt p 0x1C
    if hd = d.prt p 0x20 then d
    else
      let e := d.read (d.ringAddr p hd) 64
      if entryHeld e n then d
      else
        let bad := d.entryBad p e
        let d := if bad then
            ((d.bump pgPart (partReg p 0x28) 1).setError pgPart 0x0C09 (field e 15 1 * 2 ^ 29) 0).raise pgPart (4 * p + 3)
          else d.takeEntry p e
        ((d.setReg pgPart (partReg p 0x24) (field e 0 4)).setReg pgPart (partReg p 0x1C) ((hd + 1) % 2 ^ 32)).takeRing p n fuel

/-- The lists an entry names have all ended (Table 13-3). -/
def Dev.orderDone (d : Dev) (e : List Byte) : Bool :=
  (entryCores e).all fun k => (setBits 16 (field e 12 2)).all fun l =>
    let s := (d.core k).list l
    !s.eligible && (s.state == .ended || s.state == .abandoned)

/-- ORDER_DONE for the entries whose lists have ended. -/
def Dev.checkOrders (d : Dev) (p : Nat) : Dev :=
  let (done, left) := (d.part p).orders.partition d.orderDone
  if done.isEmpty then d else (d.modPart p fun x => { x with orders := left }).raise pgPart (4 * p + 2)

/-! ### Points (R403, R404, R415, R417) -/

/-- Core rail of a point in hundredths of a volt, and CORE_c in units of 0.1 GHz (Table 14-2). -/
def railOf (k : Nat) : Nat := [80, 72, 64, 57].getD k 57
def freqOf (k : Nat) : Nat := [13, 11, 9, 7].getD k 7

/-- FAST and SLOW of a die. -/
def Dev.fast (d : Dev) (c : Nat) : Nat := d.reg pgGov (0x154 + 0x20 * c) % 4
def Dev.slow (d : Dev) (c : Nat) : Nat := bits (d.reg pgGov (0x154 + 0x20 * c)) 5 4

/-- Sensors of a die: its own and its two stacks'. -/
def dieSensors (c : Nat) : List Nat := [c, 4 + 2 * c, 5 + 2 * c]

/-- cap_c of Table 14-4. -/
def Dev.cap (d : Dev) (c : Nat) : Nat :=
  if (dieSensors c).any d.hots.contains then 3
  else if (dieSensors c).any d.warned.contains then max 1 (d.fast c) else d.fast c

/-- Thresholds of a sensor in 0.25 degrees C: warning, hot, trip (Table 14-4). -/
def Dev.thresholds (d : Dev) (sensor : Nat) : Int × Int × Int :=
  if 4 ≤ sensor ∧ sensor < 12 then (360, 400, 440)
  else ((d.reg pgPwr 0x120 : Int), (d.reg pgPwr 0x124 : Int), 460)

/-- Caps lift at a partition's tick once the sensors that set them have fallen 5 degrees below the threshold (R415): those
of its own dies; what belongs to no claimed die is looked at at every tick. DEDUCED, log entry 46. -/
def Dev.liftCaps (d : Dev) (p : Nat) : Dev :=
  let t (s : Nat) := tget (0 : Int) d.temps s
  let others : List Nat := ((List.range 4).filter fun c => match (d.die c).part with | some q => q != p | none => false).flatMap dieSensors
  { d with warned := d.warned.filter fun s => others.contains s || decide ((d.thresholds s).1 - 20 < t s)
           hots := d.hots.filter fun s => others.contains s || decide ((d.thresholds s).2.1 - 20 < t s) }

/-! ### Admission (R406–R410) -/

/-- The class order of R408 below CONTROL. -/
def classOrder : List Nat := [2, 1, 3, 4, 5, 6, 7]

/-- A list with a segment ready for admission: made eligible by the ring, or PARKED with its WAIT.TICK complete. -/
def ListSt.ready? (s : ListSt) : Bool := s.eligible || (s.state == .parked && s.ready)

/-- Class and energy of the segment a ready list runs next (R196). -/
def ListSt.segment (s : ListSt) : Nat × Nat :=
  if s.state == .parked then (s.segClass, s.segEnergy) else (bits s.cfg.toNat 27 24, s.range.toNat % 2 ^ 16)

/-- The ready segments of a partition: core, list, class, energy. -/
def Dev.readySegments (d : Dev) (p : Nat) : List (Nat × Nat × Nat × Nat) :=
  (d.coresOf p).flatMap fun k => (d.core k).lists.filterMap fun (l, s) => if s.ready? then some (k, l, s.segment) else none

/-- Σ estimates of a set of classes. -/
def sumOf (segs : List (Nat × Nat × Nat × Nat)) (cls : List Nat) : Nat :=
  (segs.map fun x => if cls.contains x.2.2.1 then x.2.2.2 else 0).foldl (· + ·) 0

/-- U + s_k × sum ≤ Eb, with Eb = min(BUDGET × m, SHARE × L ÷ 1,000), in exact arithmetic. -/
def withinBudget (budget share l m u k sum : Nat) : Bool :=
  decide ((u * 6400 + railOf k * railOf k * sum) * 1000 ≤ 6400 * min (budget * m * 1000) (share * l))

/-- The longest prefix of the class order within the budget at point k. -/
def bestPrefix (fits : Nat → Bool) (segs : List (Nat × Nat × Nat × Nat)) : Nat :=
  (List.range 8).foldl (fun b n => if fits (sumOf segs (classOrder.take n)) then n else b) 0

/-- The search of R409 over points k, k + 1, … `n` more: the best point and prefix length. -/
def pickPoint (segs : List (Nat × Nat × Nat × Nat)) (fits : Nat → Nat → Bool) (late : Nat → Bool) (kf : Nat) :
    Nat → Nat → Nat × Nat → Nat × Nat
  | 0, _, best => best
  | n + 1, k, best =>
    if kf < k ∧ late k = true then best
    else
      let len := bestPrefix (fits k) segs
      let best := if k = kf ∨ best.2 < len then (k, len) else best
      if segs.all fun x => x.2.2.1 == 0 || (classOrder.take len).contains x.2.2.1 then best
      else pickPoint segs fits late kf n (k + 1) best

/-- A whole quotient, or the unstated rounding of one. -/
def quot (n m : Nat) : Nat := if n % m = 0 then n / m else Config.roundDiv n m

/-- Admit the lists of one core in the order of R408: classes `cls`, CONTROL first. -/
def CoreSt.admitLists (c : CoreSt) (cls : List Nat) : CoreSt :=
  let ls := (0 :: classOrder).flatMap fun x =>
    if cls.contains x then c.lists.filterMap fun (l, s) => if s.ready? && s.segment.1 == x then some l else none else []
  let c := { c with admitted := ls, todo := ls }
  let c := ls.foldl (fun c l => c.modList l fun s =>
    { s with cursor := if s.state == .parked then s.cursor else s.first
             segClass := s.segment.1, segEnergy := s.segment.2, state := .admitted, eligible := false, ready := false
             withheld := 0, err := if s.state == .parked then s.err else false }) c
  { c with lists := c.lists.map fun (l, s) => (l, if s.ready? then { s with withheld := s.withheld + 1 } else s) }

/-- The energy limit and the span of the impression that begins (R409). -/
structure Budget where
  segs : List (Nat × Nat × Nat × Nat) := []
  u : Nat := 0
  kf : Nat := 0
  best : Nat × Nat := (0, 0)
  deriving DecidableEq, Repr

/-- The decision of R409 for a partition at a tick. -/
def Dev.budget (d : Dev) (p : Nat) : Budget :=
  let m := (d.part p).m
  let len := m * d.period p
  let span := len - 500 - d.guardNs p
  let u := d.gov p 0x0C - d.gov p 0x10
  let hold := (d.part p).globalRecast && bit (d.gov p 0x08) 0
  let dies := d.diesOf p
  let kf := (dies.map fun c => max (max (d.fast c) (d.cap c)) ((d.die c).point - (if hold then 0 else 1))).foldl max 0
  let ks := (dies.map d.slow).foldl min 3
  let segs := d.readySegments p
  let fits k sum := withinBudget (d.gov p 0x00) (d.gov p 0x04) len m u k sum
  let late k := dies.any fun c =>
    decide (span * (d.reg pgGov 0x104 % 256) * freqOf k < d.reg pgGov (0x150 + 0x20 * c) * 10 * 256)
  ⟨segs, u, kf, pickPoint segs fits late kf (max kf ks + 1 - kf) kf (kf, 0)⟩

/-- The governor admits at a tick that fires (R408–R410). DEDUCED, log entry 46. -/
def Dev.admitSegments (d : Dev) (p : Nat) : Dev :=
  let b := d.budget p
  let starve := bits (d.gov p 0x08) 15 8
  let picked := classOrder.take b.best.2
  let waits := b.segs.filter fun x => x.2.2.1 != 0 && !picked.contains x.2.2.1
  let forced := (waits.filter fun x => decide (starve ≤ ((d.core x.1).list x.2.1).withheld)).map (·.2.2.1) |>.eraseDups
  let cls := 0 :: (picked ++ forced)
  let seen := (b.segs.map (·.2.2.1)).eraseDups
  let inn := seen.filter cls.contains
  let outs := seen.filter fun x => !cls.contains x
  let mask (xs : List Nat) := (xs.map (2 ^ ·)).foldl (· + ·) 0
  let eAdmit := quot (railOf b.best.1 * railOf b.best.1 * sumOf b.segs cls) 6400
  let g (off : Nat) := 0x200 + 0x40 * p + off
  let d := (((d.setReg pgGov (g 0x10) eAdmit).setReg pgGov (g 0x14) b.u).setReg pgGov (g 0x18) (mask inn * 256 + mask outs))
  let d := if outs.isEmpty then d else (d.bump pgGov (g 0x1C) 1).raise pgGov (4 * p + 1)
  let d := if forced.isEmpty then d else (d.bump pgGov (g 0x24) forced.length).raise pgGov (4 * p + 4)
  let d := (d.coresOf p).foldl (fun d k => d.modCore k fun c => c.admitLists cls) d
  (d.diesOf p).foldl (fun d c =>
    let t := max b.best.1 (d.cap c)
    d.modDie c fun x => { x with target := t, ramp := decide (t < x.point) }) d

/-- Points that step down take effect at T + 500 ns (R404). DEDUCED, log entry 46. -/
def Dev.applyPoints (d : Dev) (p : Nat) : Dev :=
  (d.diesOf p).foldl (fun d c => d.modDie c fun x => { x with point := max x.point x.target }) d

/-- One step down of a die between ticks (R404): not below SLOW. -/
def Dev.stepDown (d : Dev) (c lowest : Nat) : Dev :=
  if (d.die c).point < lowest then
    ((d.modDie c fun x => { x with point := x.point + 1, target := x.point + 1, ramp := false }).bump pgGov
      (0x158 + 0x20 * c) 1).raise pgGov (20 + c)
  else d

end Sys2Proof.Machine
end

