-- ==== Sys2Proof/Machine/Impression.lean ====
section
/-!
DEFINITION. Sys2Proof/Machine/Impression.lean: impressions (R28–R49): start, announcement, tick, deferral, halt, stop-press
(R450–R452), tick records (R33–R35, R313), and the time base (R41, R42).
-/
namespace Sys2Proof.Machine

/-! ### The time base -/

/-- Time moves on to `t` where it has not passed it. DESIGN CHOICE, log entry 8. -/
def Dev.advanceTo (d : Dev) (t : Nat) : Dev := { d with time := max d.time t }

/-- One TIME cycle (R42): 0, 1 or 2 ns as ADJ says, the fraction carried in parts per billion. DESIGN CHOICE, log entry 2. -/
def Dev.timeCycle (d : Dev) : Dev :=
  let f : Int := (d.timeFrac : Int) + 10 ^ 9 + signed 32 (d.reg pgTime 0x114)
  { d with time := d.time + (f / 10 ^ 9).toNat, timeFrac := (f % 10 ^ 9).toNat }

/-- TIME_LOAD (R41). The fraction below 1 ns that R42 carries begins at 0 again. DESIGN CHOICE, log entry 96. -/
def Dev.timeLoad (d : Dev) (w : Word) : Dev :=
  if !bit w.toNat 0 then d
  else if d.parts.any (fun x => x.2.run) then d.setError pgTime 0x0D87 0 0
  else { d with time := d.reg64 pgTime 0x108, timeFrac := 0 }

/-! ### Errors -/

/-- An error of the IMPR page (R49). -/
def Dev.imprError (d : Dev) (p code : Nat) : Dev := d.setError pgImpr code p (d.part p).num

/-! ### Start and stop (R28, R29, R39) -/

/-- The checks of R29: none, or the code set. -/
def Dev.startCheck (d : Dev) (p : Nat) : Option Nat :=
  let x := d.part p
  if d.reg64 pgImpr (0x120 + 0x80 * p) < d.time + 10000 then some 0x0D82
  else if d.period p ≤ d.guardNs p + 500 ∨ d.stepLen p = 0 ∨ d.stepLen p ≤ d.impr p 0x30 ∨ x.claim ≠ 2 ∨
      ¬(x.state = .stopped ∨ x.state = .halted) then some 0x0D83
  else none

/-- Links of a partition's dies. -/
def Dev.partLinks (d : Dev) (p : Nat) : List Nat := (d.diesOf p).flatMap dieLinks

/-- A write of CTRL (Table 2-3): GROUP and STRICT are stored; RUN starts or stops (R29, R39). A refused start leaves the whole
register as it was (R479). -/
def Dev.ctrlWrite (d : Dev) (p : Nat) (w : Word) : Dev :=
  let v := w.toNat
  let x := d.part p
  let put : Dev := d.setReg pgImpr (0x100 + 0x80 * p) (v &&& 6)
  if bit v 0 ∧ x.run then put
  else if bit v 0 then
    match d.startCheck p with
    | some code => d.imprError p code
    | none => put.modPart p fun x =>
        { x with run := true, starting := true, state := .running, ann := none, rx := [], halting := none, stopAnn := false
                 released := false, begun := false }
  else if x.starting then put.modPart p fun x => { x with run := false, starting := false, state := .stopped }
  else put.modPart p fun x => { x with run := false }

/-! ### What a tick does -/

/-- WAIT.TICK targets that the new number reaches complete (R45). -/
def CoreSt.tickWaits (c : CoreSt) (n : Nat) : CoreSt :=
  { c with lists := c.lists.map fun (l, s) =>
      (l, if s.state == .parked && !serialLater 32 n s.target then { s with ready := true } else s) }

/-- Latch the taps of a core at a step boundary (R166). -/
def Dev.latchTaps (d : Dev) (k : Nat) : Dev :=
  if (d.core k).taps.any fun t => t.2.latch then
    (d.modCore k fun c => { c with taps := c.taps.map fun (i, t) =>
      (i, if t.latch then { t with mbL := t.mb, accL := t.acc, nL := t.n, mb := 0#64, acc := 0#64, n := 0 } else t) }).raise
      (pgBwd k) 3
  else d

/-- The Gauge commits of one core at a step boundary (R110, R124, R132). DEDUCED, log entry 33. -/
def Dev.commitCore (d : Dev) (k : Nat) : Dev :=
  let r := (d.core k).gaugeCommit
  let d := d.withRecast k fun d => d.setCore k r.1
  (((d.bump (pgGauge k) 0x11C r.2.1).raiseIf (r.2.1 != 0) (pgGauge k) 4).raiseIf r.2.2 (pgGauge k) 3)

/-- A step ends (R40, R110, R166, R126). COMMIT_STEP takes the number of the step that begins. DESIGN CHOICE, log entry 98. -/
def Dev.stepEnds (d : Dev) (p : Nat) : Dev :=
  let d := d.raise pgImpr (8 * p + 1)
  let d := (d.coresOf p).foldl (fun d k => (d.commitCore k).latchTaps k) d
  let d := (d.diesOf p).foldl (fun d c => d.modDie c fun x => { x with commitStep := (d.part p).step }) d
  let d := (d.coresOf p).foldl (fun d k => d.modCore k fun c => { c with allRecast := c.assertsAll }) d
  d.updateGlobal p true

/-- BOUNDARY records of a tick (R314). -/
def Dev.sendBoundaries (d : Dev) (p n : Nat) : Dev :=
  let node := d.nodeId ((d.diesOf p).headD 0)
  ((d.partLinks p).filter fun l => d.lnHome l == l).foldl (fun d l =>
    if d.lnActive l then
      (d.setReg (pgLink l) 0x158 n).sendRecord l 6 (natLe 4 n ++ natLe 4 node ++ natLe 1 ((d.diesOf p).headD 0 * 64))
    else d) d

/-- The counts and figures the governor takes at a tick (R409): energy and busy cycles are metered values.
DEDUCED, log entry 46. -/
def Dev.meter (d : Dev) (p : Nat) : Dev :=
  let (e, d) := d.free
  let d := d.setReg pgGov (0x200 + 0x40 * p + 0x0C) (e.toNat % 2 ^ 32)
  (d.diesOf p).foldl (fun d c =>
    let (b, d) := d.free
    d.setReg pgGov (0x150 + 0x20 * c) (b.toNat % 2 ^ 32)) d

/-- The ring is taken at a tick of a partition with RUN 1 (R406). DEDUCED, log entry 46. -/
def Dev.takeAtTick (d : Dev) (p : Nat) : Dev := if (d.part p).run then d.takeRing p (d.part p).num 64 else d

/-- Lists are admitted for the impression that begins; while RUN is 0 nothing is (R406, R407). DEDUCED, log entry 47. -/
def Dev.openImpression (d : Dev) (p : Nat) : Dev := if (d.part p).run then (d.takeAtTick p).admitSegments p else d

/-- Every command the partition's admitted lists issued has retired (R32). -/
def Dev.complete (d : Dev) (p : Nat) : Bool :=
  (d.coresOf p).all fun k => (d.core k).running.isNone && (d.core k).todo.isEmpty && (d.core k).cmds.isEmpty

/-- A multiplier for the next impression (R38). DEDUCED, log entry 35. -/
def Dev.multiplier (d : Dev) (p : Nat) : Nat :=
  if (d.part p).globalRecast then min (d.stretchRecast p) (d.stretchMax p) else 1

/-- The partition's own outcome at an announcement point (R33, R36, R37, R347, R450). -/
def Dev.ownOutcome (d : Dev) (p : Nat) : Outc :=
  let x := d.part p
  if x.state = .pause then (if !x.released then .defer else if x.run then .onTime else .halt)
  else if !x.run then .halt
  else if d.complete p then .onTime
  else if bit (d.impr p 0) 1 then .halt
  else if x.m + x.d < d.stretchMax p then .defer else .halt

/-- Codes of an outcome in a TICK record (Table 11-3). -/
def Outc.code : Outc → Nat
  | .onTime => 0 | .defer => 1 | .halt => 2
def Outc.ofCode : Nat → Outc
  | 0 => .onTime | 1 => .defer | _ => .halt

/-- The origin of a partition's markers: NODE_ID and lowest die (R313). -/
def Dev.origin (d : Dev) (p : Nat) : Nat :=
  let c := (d.diesOf p).headD 0
  d.nodeId c * 4 + c

/-- Body of a TICK record. -/
def tickBody (num origin : Nat) (o : Outc) (m : Nat) : List Byte :=
  natLe 4 num ++ natLe 4 (origin / 4) ++ natLe 1 (origin % 4 * 64 + m % 8 * 8 + o.code * 2)

/-- ANNOUNCEMENT (R33, R34). DEDUCED, log entry 45. -/
def Dev.announcement (d : Dev) (p : Nat) : Dev :=
  let x := d.part p
  if (x.state ≠ .running ∧ (x.state ≠ .pause ∨ x.afterCut ≠ .pause)) ∨ x.starting ∨ x.ann.isSome ∨ x.halting.isSome then d
  else
    let d := d.advanceTo (x.nextTick - d.guardNs p)
    let o := d.ownOutcome p
    let m := d.multiplier p
    let d := d.modPart p fun x => { x with ann := some o, nextM := m, stopAnn := !x.run && o == .halt }
    if bit (d.impr p 0) 2 then
      (d.groupLinks p).foldl (fun d l => d.sendRecord l 5 (tickBody x.num (d.origin p) o m)) d
    else d

/-- An announcement received for the partition's current impression and round, of its link's record. One for an earlier
impression, or that comes after T while a halt waits for its work, is stale (R35). DEDUCED, log entry 45. -/
def Dev.tickRx (d : Dev) (n : Nat) (rec : List Byte) : Dev :=
  let stale (d : Dev) := d.bump (pgLink (d.lnHome n)) 0x13C 1
  let num := field rec 4 4
  let b := field rec 0x0C 1
  let origin := field rec 8 4 * 4 + b / 64
  match d.lnPart n with
  | none => stale d
  | some p =>
    let x := d.part p
    if !d.groupLink p n then stale d
    else if serialLater 32 num x.num || serialStale 32 num x.num || (num == x.num && x.halting.isSome) then stale d
    else
      let copy := origin == d.origin p || x.rx.any fun a => a.num == num && a.origin == origin
      let a : AnnRx := ⟨n, origin, num, Outc.ofCode (bits b 2 1), bits b 5 3, copy⟩
      let d := d.modPart p fun x => { x with rx := x.rx ++ [a] }
      if copy then stale d
      else ((d.groupLinks p).filter (· != n)).foldl (fun d l => d.sendRecord l 5 ((rec.drop 4).take 12)) d

/-- What R35 expects of the group by T. DEDUCED, log entry 45. -/
def Dev.groupMet (d : Dev) (p : Nat) : Bool :=
  let x := d.part p
  let rx := x.rx.filter fun a => a.num == x.num
  let origins := ((rx.filter fun a => !a.copy).map (·.origin)).eraseDups
  !bit (d.impr p 0) 2 ||
    ((d.groupLinks p).all (fun l => d.lnActive l && rx.any fun a => d.lnHome a.link == d.lnHome l) &&
     decide (d.impr p 0x1C ≤ origins.length + 1))

/-- The combined outcome of R34. -/
def combine (own : Outc) (rx : List Outc) : Outc :=
  if own = .halt ∨ .halt ∈ rx then .halt else if own = .defer ∨ .defer ∈ rx then .defer else .onTime

/-- Numbers of the impression that begins (R40). -/
def Dev.nextNumbers (d : Dev) (p : Nat) : Dev × Bool :=
  let x := d.part p
  let pause := x.state == .pause
  let pos := if pause then x.pos else x.pos + 1
  let ends := !pause && decide (d.stepLen p ≤ pos)
  (d.modPart p fun x =>
    { x with num := (x.num + 1) % 2 ^ 32, pos := if ends then 0 else pos, step := if ends then (x.step + 1) % 2 ^ 32 else x.step
             d := 0, ann := none, rx := x.rx.filter fun a => a.num != x.num, halting := none, begun := false }, ends)

/-- The tick that ends the current impression fires (R34, R36, R37, R40, R46, R342–R348). `late` is set where an
expectation of R35 was unmet; `cut` decides whether a proof's cut begins here, before anything is admitted. An unmet
expectation goes before a stop of the partition's own (DESIGN CHOICE, log entry 95), and a tick that halts or stops leaves
NEXT_TICK at TICK_TIME (DESIGN CHOICE, log entry 94). DEDUCED, log entries 45 and 47. -/
def Dev.fire (d : Dev) (p : Nat) (halt late : Bool) (m : Nat) (cut : Dev → Nat → Bool → Dev × Bool) : Dev :=
  let stop := (d.part p).stopAnn && !late
  let (d, ends) := d.nextNumbers p
  let d := d.modPart p fun x => { x with tickTime := d.time, nextTick := d.time + m * d.period p, m := m }
  let d := ((d.meter p).liftCaps p).raise pgImpr (8 * p)
  let d := if ends then d.stepEnds p else d
  let n := (d.part p).num
  let d := (d.coresOf p).foldl (fun d k => d.modCore k fun c => c.tickWaits n) d
  let d := d.sendBoundaries p n
  let (d, cuts) := cut d p ends
  if halt then
    let final : PState := if stop then .stopped else .halted
    let d := d.modPart p fun x =>
      { x with run := false, stopAnn := false, nextTick := x.tickTime, state := if cuts then .pause else final, afterCut := final }
    if stop then d
    else
      let d := ((d.bump pgImpr (0x154 + 0x80 * p) 1).raise pgImpr (8 * p + 3)).imprError p (if late then 0x0D86 else 0x0D85)
      d.raiseIf late pgImpr (8 * p + 4)
  else if cuts then
    (d.modPart p fun x => { x with state := .pause, released := false, afterCut := .pause }).takeAtTick p
  else (d.modPart p fun x => { x with state := .running }).openImpression p

/-- TICK (R34–R37). -/
def Dev.tickAt (d : Dev) (p : Nat) (cut : Dev → Nat → Bool → Dev × Bool) : Dev :=
  let x := d.part p
  match x.ann with
  | none => d
  | some own =>
    if (x.state ≠ .running ∧ x.state ≠ .pause) ∨ x.halting.isSome then d
    else
      let d := d.advanceTo x.nextTick
      let rx := x.rx.filter fun a => a.num == x.num && !a.copy
      let met := d.groupMet p
      let o := if met then combine own (rx.map (·.out)) else .halt
      let m := (rx.map (·.m)).foldl max x.nextM
      match o with
      | .defer =>
        (((d.modPart p fun x =>
          { x with nextTick := x.nextTick + d.period p, d := x.d + 1, ann := none, rx := [] }).bump pgImpr
            (0x150 + 0x80 * p) 1).raise pgImpr (8 * p + 2))
      | .onTime => d.fire p false false m cut
      | .halt =>
        if d.complete p then d.fire p true (!met) m cut
        else d.modPart p fun x => { x with halting := some (!met), nextM := m }

/-- HALT_TICK (R37 step 1). -/
def Dev.haltTickAt (d : Dev) (p : Nat) (cut : Dev → Nat → Bool → Dev × Bool) : Dev :=
  let x := d.part p
  match x.halting with
  | none => d
  | some late => if d.complete p then { d with time := d.time + 1 }.fire p true late x.nextM cut else d

/-- FIRST_IMPRESSION_START (R29). DEDUCED, log entry 47. -/
def Dev.firstImpression (d : Dev) (p : Nat) : Dev :=
  let x := d.part p
  if !x.starting ∨ !x.run then d
  else
    let t := d.reg64 pgImpr (0x120 + 0x80 * p)
    let d := d.advanceTo t
    let n := d.impr p 0x28
    let d := d.modPart p fun x =>
      { x with starting := false, num := n, step := d.impr p 0x2C, pos := d.impr p 0x30 % 2 ^ 16, m := 1, nextM := 1, d := 0
               tickTime := t, nextTick := t + d.period p, begun := false
               restored := false }
    let d := (d.liftCaps p).raise pgImpr (8 * p)
    let d := (d.coresOf p).foldl (fun d k => d.modCore k fun c => c.tickWaits n) d
    (d.sendBoundaries p n).openImpression p

/-- LISTS_BEGIN (R31). -/
def Dev.listsBegin (d : Dev) (p : Nat) : Dev :=
  let x := d.part p
  if x.state ≠ .running ∨ x.starting ∨ x.begun then d
  else
    let d := (d.advanceTo (x.tickTime + 500)).applyPoints p
    let d := d.modPart p fun x => { x with begun := true }
    ((d.coresOf p).foldl (fun d k => if (d.core k).todo.isEmpty then d else d.nextList k) d).checkOrders p

end Sys2Proof.Machine
end

