-- ==== Sys2Proof/Machine/Link.lean ====
section
/-!
DEFINITION. Sys2Proof/Machine/Link.lean: the receiving side of the Skovger links: link states (R303–R309, R332), flits and
replay (R297, R299), control records (R294, R295), credits, time exchange (R310, R311), and flits held at ticks (R343).
-/
namespace Sys2Proof.Machine

/-! ### States -/

/-- An error of a LINK page (R336). -/
def Dev.linkError (d : Dev) (n code : Nat) : Dev :=
  d.setError (pgLink n) code ((d.lnState n).code * 2 ^ 29) (d.ln n).epoch

/-- RETRAIN_LIMIT in ns. -/
def Dev.retrainLimit (d : Dev) (n : Nat) : Nat := d.lnCfg n % 1024 * 1000000

/-- A route that goes DOWN fails the runs that use it (R323). -/
def Dev.failRoute (d : Dev) (n : Nat) : Dev :=
  let c := n / 9
  (List.range 4).foldl (fun d ch =>
    match d.collRun c ch with
    | some r =>
      if !r.done && (d.collPort c r.e.up == some (d.lnHome n) || d.collPort c r.e.down == some (d.lnHome n)) then
        d.failRun c ch 0x0A45
      else d
    | none => d) d

/-- Enter ACTIVE (R295, R333); each member of a trunk reports it (R309). What waits to be sent goes once any replay has
(R302, R305). The counts of resends begin anew. -/
def Dev.linkUp (d : Dev) (n : Nat) : Dev :=
  let d := d.modLn n fun s =>
    { s with state := .active, epoch := (s.epoch + 1) % 2 ^ 16, deadline := none, nak := false, nakAt := none, hit := false
             retry := s.retry.map fun f => { f with resent := 0 } }
  (d.lnMembers n).foldl (fun d m => d.raise (pgLink m) 1) d

/-- Send what waits, as far as it may go now. -/
def Dev.drainAll (d : Dev) (n : Nat) : Dev := d.drainLink n (d.ln n).waiting.length

/-- Lane order of a receiver, two bits per lane: the permutation of the four lanes that `v` picks. -/
def laneOrder (v : Nat) : Nat :=
  let a := [0, 1, 2, 3].getD (v % 4) 0
  let l := [0, 1, 2, 3].erase a
  let b := l.getD (v / 4 % 3) 0
  let l := l.erase b
  let c := l.getD (v / 12 % 2) 0
  a + 4 * b + 16 * c + 64 * (l.erase c).headD 0

/-- LANES once a receiver has trained: every lane locked, with the polarity and the order it found (R289), which are a matter
of the cable: free values. DESIGN CHOICE, log entry 81. -/
def Dev.lanesFound (d : Dev) (m : Nat) : Dev :=
  let (v, d) := d.free
  d.setReg (pgLink m) 0x160 (0xF0000000 + v.toNat % 16 * 2 ^ 24 + laneOrder (v.toNat / 16))

/-- Leave ACTIVE for RETRAIN (R299): the whole trunk retrains (R309). -/
def Dev.toRetrain (d : Dev) (n : Nat) : Dev :=
  if !d.lnActive n then d
  else
    let d := d.modLn n fun s =>
      { s with state := .retrain, deadline := some (d.time + d.retrainLimit n), heard := false, ahead := [] }
    (d.lnMembers n).foldl (fun d m => (d.bump (pgLink m) 0x138 1).raise (pgLink m) 2) d

/-- LINK_RETRAIN: cause 2 is the loss of lock by a lane, or by several: which ones is a free value. -/
def Dev.linkRetrain (d : Dev) (n cause : Nat) : Dev :=
  if !d.lnActive n then d
  else if cause = 2 then
    let (v, d) := d.free
    let lost := v.toNat % 15 + 1
    (d.setReg (pgLink n) 0x160 (d.reg (pgLink n) 0x160 &&& (0xFFFFFFFF - lost * 2 ^ 28))).toRetrain n
  else d.toRetrain n

/-- Buffers of a link discarded, as EN 0 does (R305). Credits granted to galleys stay (R240). -/
def LinkSt.discard (s : LinkSt) : LinkSt :=
  { state := .disabled, epoch := s.epoch, txSeq := s.txSeq, rxNext := s.rxNext, rxEpoch := s.rxEpoch, grants := s.grants }

/-- A link goes to DISABLED; other members of its trunk that are enabled wait in TRAINING (R307). Galleys and collectives
that wait for it stay stalled (R305). -/
def Dev.linkOff (d : Dev) (n : Nat) : Dev :=
  let was := d.lnActive n
  let rest := (d.lnMembers n).any fun m => m != n && d.lnEn m
  let d := (d.modLn n fun s => { s.discard with state := if rest then .training else .disabled }).setReg (pgLink n) 0x160
    (d.reg (pgLink n) 0x160 % 2 ^ 28)
  (d.lnMembers n).foldl (fun d m => d.raiseIf was (pgLink m) 2) d

/-- Bits of LINK.CFG that are not reserved; its trunk fields. -/
def linkCfgMask : Nat := 0x87F003FF
def linkTrunkMask : Nat := 0x07F00000

/-- A write of LINK.CFG (R307, R332). -/
def Dev.linkCfgWrite (d : Dev) (n : Nat) (w : Word) : Dev :=
  let v := w.toNat &&& linkCfgMask
  let old := d.lnCfg n
  let refuse := d.linkError n 0x0A04
  let d' := d.setReg (pgLink n) 0x104 v
  let mates := d'.trunkMates n
  let w' := d'.lnWidth n
  if (v ^^^ old) &&& linkTrunkMask ≠ 0 ∧ d.lnState n ≠ .disabled then refuse
  else if 5 ≤ bits v 26 24 then refuse
  else if bit v 31 && !bit old 31 then
    if 2 ≤ w' ∧ (mates.length ≠ w' ∨ (mates.map d'.lnMember).eraseDups.length ≠ w' ∨
        mates.any (fun i => d'.lnWidth i != w') = true) then refuse
    else if (d'.ln n).state = .disabled then d'.modLn n fun s => { s.discard with state := .training } else d'
  else if bit old 31 && !bit v 31 then (d.linkOff n).setReg (pgLink n) 0x104 v
  else d'

/-- LANE_LOCK (R306). -/
def Dev.laneLock (d : Dev) (n lane : Nat) : Dev :=
  if d.lnState n ≠ .training ∨ 4 ≤ lane then d
  else
    let d := d.setReg (pgLink n) 0x160 (d.reg (pgLink n) 0x160 ||| 2 ^ (28 + lane))
    d.modLn n fun s => { s with locked := s.locked ||| 2 ^ lane
                                deadline := if s.deadline.isSome then s.deadline else some (d.time + d.retrainLimit n) }

/-- LINK_TRAINING_DONE (R303, R307): every member of a trunk is enabled. DESIGN CHOICE, log entry 81. -/
def Dev.linkTrainingDone (d : Dev) (n : Nat) : Dev :=
  if d.lnState n ≠ .training ∨ (d.lnMembers n).all d.lnEn = false then d
  else
    ((d.lnMembers n).foldl Dev.lanesFound d).modLn n fun s =>
      { s with state := .hello, deadline := none, heard := false, confirmed := false, peers := [], memberOwd := [], owds := []
               rtts := [] }

/-- A record sent before the link is ACTIVE: in a CTRL flit whose SEQ and ACK are 0 (R303). -/
def Dev.rawRecord (d : Dev) (n ty : Nat) (body : List Byte) : Dev :=
  let f : LnFlit := { kind := 3, wordA := 2 ^ 28, payload := lnRecord ty (d.ln n).epoch body }
  d.send (.link n) (f.bytes 0 false)

/-- HELLO_TIMER: every member sends its HELLO (R303, R305), in HELLO until both HELLOs are known to have come. -/
def Dev.helloTimer (d : Dev) (n : Nat) : Dev :=
  let s := d.ln n
  if s.state ≠ .retrain ∧ (s.state ≠ .hello ∨ (s.heard ∧ s.confirmed)) then d
  else
    (d.lnMembers n).foldl (fun d m =>
      d.rawRecord m 1 (natLe 4 (d.nodeId (m / 9)) ++ natLe 1 (m / 9 * 64 + m) ++
        natLe 1 (d.lnTrunk m * 64 + bits (d.lnCfg m) 26 24 * 8 + d.lnMember m * 2) ++ natLe 2 s.rxNext)) d

/-- Acknowledge flits up to and including SEQ `a` (R296). -/
def LinkSt.acked (s : LinkSt) (a : Nat) : LinkSt :=
  match s.retry.findIdx? fun f => f.seq == a with
  | some i => { s with retry := s.retry.drop (i + 1), nakAt := none }
  | none => s

/-- Half of an integer, where no rounding is stated for an odd one. -/
def half (x : Int) : Int := if x % 2 = 0 then x / 2 else Config.roundHalf x

/-- SKEW in ns: how far the one-way delays of a trunk's members differ; 0 for a single link (R304, Table 11-11).
DEDUCED, log entry 51. -/
def Dev.lnSkew (d : Dev) (n : Nat) : Nat :=
  match if d.lnWidth n < 2 then [] else (d.ln n).memberOwd with
  | [] => 0
  | (_, x) :: xs => (half (xs.foldl (fun m y => max m y.2) x) - half (xs.foldl (fun m y => min m y.2) x)).toNat

/-- The end a HELLO comes from, as its trunk names it: node, die and TRUNK_ID (R307). -/
def helloEnd (rec : List Byte) : Nat := 1 + field rec 4 4 * 2 ^ 16 + field rec 8 1 / 64 * 256 + field rec 9 1 / 64

/-- A HELLO exchange fails: the link stays in HELLO and begins again (R304). -/
def Dev.helloFails (d : Dev) (n : Nat) : Dev :=
  (d.modLn n fun s => { s with heard := false, confirmed := false, peers := [], memberOwd := [], owds := [], rtts := [] }).linkError
    n 0x0A03

/-- HELLO (R304, R305): a trunk has heard its partner once every member has, and all name one trunk of one die (R307).
DEDUCED, log entry 50. -/
def Dev.hello (d : Dev) (n : Nat) (rec : List Byte) : Dev :=
  let s := d.ln n
  let t := field rec 9 1
  let own := d.lnWidth n
  let theirs := max 1 (bits t 5 3)
  let d := (d.setReg (pgLink n) 0x10C (field rec 4 4)).setReg (pgLink n) 0x110 (field rec 8 1)
  let next := field rec 0x0A 2 % 2 ^ 14
  if s.state = .hello then
    let peers := tset 0 s.peers n (helloEnd rec)
    let d := d.modLn n fun s => { s with rxEpoch := field rec 2 2 }
    if own ≠ theirs ∨ (2 ≤ own ∧ (d.lnMember n ≠ bits t 2 1 ∨ peers.any (fun x => x.2 != helloEnd rec) = true)) then
      d.helloFails n
    else d.modLn n fun s =>
      { s with peers, heard := (d.lnMembers n).all fun m => tget 0 peers m != 0
               txSeq := if s.retry.isEmpty then next else s.txSeq }
  else if s.state = .retrain then
    d.modLn n fun s => { s.acked ((next + 2 ^ 14 - 1) % 2 ^ 14) with rxEpoch := field rec 2 2, heard := true }
  else d.modLn n fun s => { s with rxEpoch := field rec 2 2 }

/-- Resend everything not acknowledged (R297). DEDUCED, log entry 50. -/
def Dev.replay (d : Dev) (n : Nat) : Dev := (d.ln n).retry.foldl (fun d f => d.wire n f) d

/-- LINK_RETRAIN_DONE (R305): the replay goes ahead of what waits (R302). -/
def Dev.linkRetrainDone (d : Dev) (n : Nat) : Dev :=
  if (d.ln n).state ≠ .retrain then d else (((d.lnMembers n).foldl Dev.lanesFound d).linkUp n |>.replay n).drainAll n

/-- RETRAIN_LIMIT_EXPIRY (R306, R309). -/
def Dev.retrainExpiry (d : Dev) (n : Nat) : Dev :=
  let s := d.ln n
  match s.deadline with
  | none => d
  | some t =>
    let d := d.advanceTo t
    let down (d : Dev) := d.modLn n fun s => { s with state := .down, deadline := none }
    if s.state = .training then down (d.linkError n 0x0A01)
    else if s.state = .retrain then (down (d.linkError n 0x0A02)).failRoute n
    else d

/-! ### Data flits (R293, R300, R306, R343) -/

/-- The GALLEY and COLL flits of a link are held undelivered now. -/
def Dev.lnHolds (d : Dev) (n : Nat) : Bool :=
  match d.lnPart n with
  | none => false
  | some p =>
    let x := d.part p
    let rx := d.reg (pgLink (d.lnHome n)) 0x15C
    let grp := d.groupLink p n
    (grp && (d.ln n).holding && serialLater 32 x.num rx && (x.state == .running || x.state == .pause)) ||
    (x.moversHeld && (!grp || !serialLater 32 rx x.num))

/-- A data flit leaves the receive buffer: its link credit goes back (R300). -/
def Dev.freeLc (d : Dev) (n kind : Nat) : Dev :=
  let d := d.modLn n fun s =>
    if kind = 1 then { s with lcGone := (s.lcGone + 1) % 2 ^ 32 } else { s with lcGone2 := (s.lcGone2 + 1) % 2 ^ 32 }
  d.sendRecord n 2 (natLe 4 (d.ln n).lcGone ++ natLe 4 (d.ln n).lcGone2)

/-- A GALLEY flit reaches its galley (R293, R249, R306). -/
def Dev.galleyData (d : Dev) (n : Nat) (f : LnFlit) : Dev :=
  let k := f.wordA / 2 ^ 21
  let g := f.wordA / 2 ^ 17 % 16
  if (d.lnPart n).isNone ∨ numCores ≤ k then d.setError (pgLink n) 0x0A06 k (d.ln n).epoch
  else
    let x := (d.core k).galley g
    if !x.en || x.src != 2 || d.lnHome x.srcLink != d.lnHome n then d.setError (pgGalley k) 0x0607 (galleyInfo g 0) 0
    else d.galleyPieces k g f.wordA 5 0 (f.wordA / 2 ^ 11 % 64) (f.payload.take (min 240 (f.wordB / 2 ^ 24)))

/-- A GALLEY_ABORT record: its galley takes it as an ABORT flit (R293). -/
def Dev.abortIn (d : Dev) (n : Nat) (rec : List Byte) : Dev :=
  let k := field rec 4 2 % 2048
  let g := field rec 6 1 % 16
  let x := (d.core k).galley g
  if numCores ≤ k then d
  else if !x.en || x.src != 2 || d.lnHome x.srcLink != d.lnHome n then d.setError (pgGalley k) 0x0607 (galleyInfo g 0) 0
  else d.acceptFlit k g 0 { valid := 1, eos := true, abort := true }

/-- Deliver a data flit, or a GALLEY_ABORT that waited behind one. -/
def Dev.deliverFlit (d : Dev) (n : Nat) (f : LnFlit) : Dev :=
  if f.kind = 3 then d.abortIn n f.payload else
  let d := if f.kind = 1 then d.galleyData n f
    else if (d.lnPart n).isNone then d.setError (pgLink n) 0x0A06 0 (d.ln n).epoch
    else d.collFlitIn (n / 9) (d.lnHome n) f
  d.freeLc n f.kind

/-- A data flit is accepted: delivered, or held (R343). -/
def Dev.dataIn (d : Dev) (n : Nat) (f : LnFlit) : Dev :=
  if d.lnHolds n || !(d.ln n).held.isEmpty then d.modLn n fun s => { s with held := s.held ++ [f] } else d.deliverFlit n f

/-- Deliver what a link held, once nothing holds it. -/
def Dev.releaseLink (d : Dev) (n : Nat) : Dev :=
  if d.lnHolds n then d
  else
    let fs := (d.ln n).held
    fs.foldl (fun d f => d.deliverFlit n f) (d.modLn n fun s => { s with held := [], holding := false })

/-- After a tick, a stop, or a release, links of partition p that held flits deliver them. -/
def Dev.releaseLinks (d : Dev) (p : Nat) : Dev :=
  ((d.partLinks p).filter fun l => d.lnHome l == l).foldl (fun d l =>
    if (d.ln l).held.isEmpty && !(d.ln l).holding then d else d.releaseLink l) d

/-! ### Records -/

/-- The record's epoch is earlier than the partner's (R295). -/
def Dev.recordStale (d : Dev) (n : Nat) (rec : List Byte) : Bool :=
  let e := field rec 2 2
  let r := (d.ln n).rxEpoch
  serialLater 16 e r || serialStale 16 e r

/-- Act on a record unless its epoch is stale. -/
def Dev.onRecord (d : Dev) (n : Nat) (rec : List Byte) (f : Dev → Dev) : Dev :=
  if d.recordStale n rec then d.bump (pgLink (d.lnHome n)) 0x13C 1 else f d

/-- LC_CREDIT (R300). -/
def Dev.lcCredit (d : Dev) (n : Nat) (rec : List Byte) : Dev :=
  d.onRecord n rec fun d =>
    (d.modLn n fun s => { s with lcFree := field rec 4 4, lcFree2 := field rec 8 4 }).drainAll n

/-- Galley j of core i sends over the link of n to galley g of core k. -/
def Dev.sendsTo (d : Dev) (n k g : Nat) (x : Galley) : Bool :=
  x.sink == 2 && x.destCore == k && x.destGalley == g && d.lnHome x.destLink == d.lnHome n

/-- GALLEY_CREDIT (R301): the sender's credit toward one receiving galley. A grant that comes before its sender is set stays
for it (R240). -/
def Dev.galleyCredit (d : Dev) (n : Nat) (rec : List Byte) : Dev :=
  d.onRecord n rec fun d =>
    let k := field rec 4 2 % 2048
    let g := field rec 6 1 % 16
    let reset := bit (field rec 6 1) 7
    let total := field rec 8 4
    let set_ := d.cores.any fun (_, c) => c.galleys.any fun (_, x) => d.sendsTo n k g x
    let known := (tget none (d.ln n).grants (k * 16 + g)).isSome
    if !set_ then
      (if reset || known then d.modLn n fun s => { s with grants := tset none s.grants (k * 16 + g) (some total) } else d)
    else d.cores.foldl (fun d (i, c) =>
      c.galleys.foldl (fun d (j, x) =>
        if d.sendsTo n k g x then
          d.modGalley i j fun x =>
            let sent := if reset then 0 else x.sent
            { x with sent, credit := (total + 2 ^ 32 - sent) % 2 ^ 32 }
        else d) d) d

/-- GALLEY_ABORT (R293): in sequence with the galley's data, so held where a data flit would be. -/
def Dev.galleyAbort (d : Dev) (n : Nat) (rec : List Byte) : Dev :=
  d.onRecord n rec fun d => d.dataIn n { kind := 3, payload := rec }

/-- TICK_RECORD. -/
def Dev.tickRecord (d : Dev) (n : Nat) (rec : List Byte) : Dev := d.onRecord n rec fun d => d.tickRx n rec

/-- BOUNDARY (R314, R343). -/
def Dev.boundary (d : Dev) (n : Nat) (rec : List Byte) : Dev :=
  d.onRecord n rec fun d =>
    let num := field rec 4 4
    let d := d.setReg (pgLink (d.lnHome n)) 0x15C num
    match d.lnPart n with
    | some p =>
      if d.groupLink p n && serialLater 32 (d.part p).num num then d.modLn n fun s => { s with holding := true } else d
    | none => d

/-- Send a record now, in the link's phase. -/
def Dev.anyRecord (d : Dev) (n ty : Nat) (body : List Byte) : Dev :=
  if d.lnActive n then d.sendRecord n ty body else d.rawRecord n ty body

/-- TSYNC_REQ (R310). -/
def Dev.tsyncReq (d : Dev) (n : Nat) (rec : List Byte) : Dev :=
  if (d.ln n).state ≠ .hello ∧ ¬d.lnActive n then d
  else d.onRecord n rec fun d =>
    (d.modLn n fun s => { s with confirmed := true }).anyRecord n 8
      (natLe 8 d.time ++ natLe 1 (field rec 0x0C 1) ++ natLe 3 0)

/-- An integer put into a rising list. -/
def insertInt (x : Int) : List Int → List Int
  | [] => [x]
  | y :: ys => if x ≤ y then x :: y :: ys else y :: insertInt x ys

/-- The median of a list. -/
def median (xs : List Int) : Int :=
  let s := xs.foldr insertInt []
  let a := s.getD ((s.length - 1) / 2) 0
  let b := s.getD (s.length / 2) 0
  half (a + b)

/-- Clamp to ± m. -/
def clampInt (m x : Int) : Int := max (-m) (min m x)

/-- The time servo (R311), from twice θ. DEDUCED, log entry 51. -/
def Dev.servoStep (d : Dev) (theta2 : Int) : Dev :=
  let i := clampInt 400000 (d.servo + 125 * theta2)
  let adj := clampInt 200000 (1000 * theta2 + i.tdiv 2)
  let d := { d with servo := i }
  (d.setReg pgTime 0x114 (unsigned 32 adj)).setReg pgTime 0x11C (unsigned 32 (half theta2))

/-- The delays an exchange's delay is compared with (R310): of the accepted exchanges of the link; while a trunk is in HELLO, of
its member. DEDUCED, log entry 51. -/
def Dev.delaysOf (d : Dev) (n : Nat) : List Int :=
  let s := d.ln n
  if s.state = .hello ∧ 2 ≤ d.lnWidth n then (s.memberOwd.filter fun x => x.1 == n).map (·.2) else s.owds

/-- A link in HELLO that has had its exchanges enters ACTIVE (R303), unless its members' delays differ too much (R304). -/
def Dev.helloOver (d : Dev) (n : Nat) : Dev :=
  let s := d.ln n
  if s.state = .hello ∧ s.heard ∧ s.confirmed ∧ 16 ≤ s.owds.length ∧
      (d.lnWidth n < 2 ∨ s.memberOwd.length = d.lnWidth n) then
    if 64 < d.lnSkew n then d.helloFails n else (d.linkUp n).drainAll n
  else d

/-- TSYNC_RESP (R310, R311, R303): an exchange completes; the sixteenth one in HELLO brings the link up.
DEDUCED, log entry 51. -/
def Dev.tsyncResp (d : Dev) (n : Nat) (rec : List Byte) : Dev :=
  if (d.ln n).state ≠ .hello ∧ ¬d.lnActive n then d
  else d.onRecord n rec fun d =>
    let s := d.ln n
    let id := field rec 0x0C 1
    match s.asked.find? fun q => q.1 == id with
    | none => d
    | some (_, t1) =>
      let d := d.modLn n fun s => { s with asked := s.asked.filter fun q => q.1 != id, confirmed := true }
      let t3 : Int := field rec 4 8
      let t2 : Int := t3 - field rec 0x0D 3
      let t4 : Int := d.time
      let t1 : Int := t1
      let theta2 := (t2 - t1) + (t3 - t4)
      let d2 := (t4 - t1) - (t3 - t2)
      -- d differs from the median by more than 8 ns
      let before := d.delaysOf n
      if !before.isEmpty && decide (16 < (d2 - 2 * median (before.map half)).natAbs) then d
      else
        let d := d.modLn n fun s =>
          { s with owds := (d2 :: s.owds).take 16, rtts := ((t4 - t1) :: s.rtts).take 16
                   memberOwd := if s.state = .hello then (n, d2) :: s.memberOwd.filter (fun x => x.1 != n) else s.memberOwd }
        let pg := pgLink (d.lnHome n)
        let owd := (median ((d.ln n).owds.map half)).toNat
        let rtt := (median (d.ln n).rtts).toNat
        let d := ((d.setReg pg 0x114 (rtt % 2 ^ 16)).setReg pg 0x118 (owd % 2 ^ 16)).setReg pg 0x11C ((owd + rtt + 250) % 2 ^ 16)
        let src := d.reg pgTime 0x118
        let d := if bit src 7 ∧ d.lnHome (src % 64) = d.lnHome n then d.servoStep theta2 else d
        d.helloOver n

/-- TIME_EXCHANGE_TIMER (R303, R310). DEDUCED, log entry 51. -/
def Dev.timeExchange (d : Dev) (n : Nat) : Dev :=
  let s := d.ln n
  if s.state ≠ .active ∧ (s.state ≠ .hello ∨ s.heard = false) then d
  else
    let d := d.modLn n fun s => { s with tsId := (s.tsId + 1) % 256, asked := (s.tsId, d.time) :: s.asked.take 255 }
    d.anyRecord n 7 (natLe 8 d.time ++ natLe 1 s.tsId)

/-- COLL_START and COLL_WAVE by a link; 36 + c takes the next thing on its way to die c's engine from another die. -/
def Dev.collStartRec (d : Dev) (n : Nat) (rec : List Byte) : Dev :=
  if 36 ≤ n then d.dieArrival (n - 36) else d.onRecord n rec fun d => d.collStartIn (n / 9) (d.lnHome n) rec
def Dev.collWaveRec (d : Dev) (n : Nat) (rec : List Byte) : Dev :=
  if 36 ≤ n then d.dieArrival (n - 36) else d.onRecord n rec fun d => d.collWaveIn (n / 9) rec

/-- A control record is accepted (Table 11-3). -/
def Dev.recordIn (d : Dev) (n : Nat) (rec : List Byte) : Dev :=
  match field rec 0 1 with
  | 1 => d.hello n rec
  | 2 => d.lcCredit n rec
  | 3 => d.galleyCredit n rec
  | 4 => d.galleyAbort n rec
  | 5 => d.tickRecord n rec
  | 6 => d.boundary n rec
  | 7 => d.tsyncReq n rec
  | 8 => d.tsyncResp n rec
  | 9 => d.collStartRec n rec
  | 10 => d.collWaveRec n rec
  | _ => d.bump (pgLink (d.lnHome n)) 0x13C 1

/-! ### Flits (R292, R296, R297) -/

/-- The parts of a flit. -/
def LnFlit.parse (b : List Byte) : LnFlit :=
  { kind := field b 0 2 / 2 ^ 14, seq := field b 0 2 % 2 ^ 14, wordA := field b 4 4, wordB := field b 8 4
    payload := padTo 240 (b.drop 16) }

/-- The CRC of a flit holds. PRESUMED, log entry 48. -/
def flitOk (b : List Byte) : Bool :=
  b.length == 256 && (crc32 (b.take 12 ++ b.drop 16)).toNat == field b 0x0C 4

/-- The records of a CTRL flit. -/
def LnFlit.records (f : LnFlit) : List (List Byte) := chunks 16 (min 15 (f.wordA / 2 ^ 28)) f.payload

/-- Act on a NAK: resend what is not acknowledged, and retrain once a SEQ has been resent 16 times (R297, R299). -/
def Dev.onNak (d : Dev) (n a : Nat) : Dev :=
  let pg := pgLink (d.lnHome n)
  let d := d.modLn n fun s =>
    { s with nakAt := some a, nakUntil := d.time + d.reg pg 0x114, retry := s.retry.map fun f => { f with resent := f.resent + 1 } }
  let d := ((d.bump pg 0x134 1).raise pg 3).replay n
  if (d.ln n).retry.any fun f => decide (16 ≤ f.resent) then d.toRetrain n else d

/-- ACK and NAK of a header (R296, R297, R299): a replay goes ahead of what waits (R302). -/
def Dev.ackIn (d : Dev) (n ackWord : Nat) : Dev :=
  let a := ackWord % 2 ^ 14
  let d := d.modLn n fun s => s.acked a
  let s := d.ln n
  (if bit ackWord 15 ∧ ¬(s.nakAt = some a ∧ d.time < s.nakUntil) ∧ s.retry ≠ [] then d.onNak n a else d).drainAll n

/-- The SEQ of the next flit to come by link n: the first that travels on it and is not here (R297, R308). -/
def Dev.seqDue (d : Dev) (n : Nat) : Nat :=
  let s := d.ln n
  let w := d.lnWidth n
  let q (i : Nat) : Nat := (s.rxNext + i) % 2 ^ 14
  let m := if w < 2 then 0 else d.lnMember n
  match (List.range (d.lnRoom n)).find? fun i => q i % w == m && s.ahead.all fun f => f.seq != q i with
  | some i => q i
  | none => s.rxNext

/-- A flit is discarded: every header says so until the one expected comes (R297). -/
def Dev.discardFlit (d : Dev) (n : Nat) : Dev := d.modLn n fun s => { s with nak := true, ahead := [] }

/-- A flit is accepted in order (R297). -/
def Dev.takeFlit (d : Dev) (n : Nat) (f : LnFlit) : Dev :=
  let d := (d.modLn n fun s => { s with rxNext := (s.rxNext + 1) % 2 ^ 14, nak := false }).bump64 (pgLink (d.lnHome n)) 0x148 1
  if f.kind = 3 then f.records.foldl (fun d r => d.recordIn n r) d else d.dataIn n f

/-- Flits of a trunk that were ahead of their turn are accepted in theirs (R308). -/
def Dev.takeAhead (d : Dev) (n : Nat) : Nat → Dev
  | 0 => d
  | fuel + 1 =>
    let s := d.ln n
    match s.ahead.find? fun f => f.seq == s.rxNext with
    | none => d
    | some f => ((d.modLn n fun s => { s with ahead := s.ahead.erase f }).takeFlit n f).takeAhead n fuel

/-- A sequenced flit arrives by link n (R297, R308). -/
def Dev.flitIn (d : Dev) (n : Nat) (f : LnFlit) : Dev :=
  let s := d.ln n
  if f.seq = s.rxNext ∧ f.seq = d.seqDue n then (d.takeFlit n f).takeAhead n s.ahead.length
  else if s.nak ∨ f.seq ≠ d.seqDue n then d.discardFlit n
  else d.modLn n fun s => { s with ahead := s.ahead ++ [f] }

/-- An IDLE flit leaves by link n, with ACK and NAK as they stand (R296). DESIGN CHOICE, log entry 81. -/
def Dev.idleOut (d : Dev) (n : Nat) : Dev :=
  let s := d.ln n
  if d.lnActive n then d.send (.link n) (({ kind := 0 } : LnFlit).bytes ((s.rxNext + 2 ^ 14 - 1) % 2 ^ 14) s.nak) else d

/-- LINK_FLIT_RECEIVE. A flit touched by an uncorrectable codeword is discarded (R290). -/
def Dev.flitReceive (d : Dev) (n : Nat) (b : List Byte) : Dev :=
  let s := d.ln n
  let hit := (d.link n).hit
  let d := d.modLink n fun s => { s with hit := false }
  if !flitOk b || hit then ((if flitOk b then d else d.bump (pgLink (d.lnHome n)) 0x130 1).discardFlit n).idleOut n
  else
    let f := LnFlit.parse b
    if s.state = .hello ∨ s.state = .retrain then
      (if f.kind = 3 then f.records.foldl (fun d r =>
        if field r 0 1 = 1 ∨ field r 0 1 = 7 ∨ field r 0 1 = 8 then d.recordIn n r else d) d else d)
    else if s.state ≠ .active then d
    else
      let d := d.ackIn n (field b 2 2)
      if f.kind = 0 then d else (d.flitIn n f).idleOut n

/-- GALLEY_LINK_FLIT and COLL_FLIT: an accepted flit of the kind; 36 + c as for COLL_START. DEDUCED, log entry 50. -/
def Dev.galleyLinkFlit (d : Dev) (n : Nat) (b : List Byte) : Dev :=
  if n < 36 then d.dataIn n { LnFlit.parse b with kind := 1 } else d
def Dev.collFlitRow (d : Dev) (n : Nat) (b : List Byte) : Dev :=
  if n < 36 then d.dataIn n { LnFlit.parse b with kind := 2 } else d.dieArrival (n - 36)

end Sys2Proof.Machine
end

