-- ==== Sys2Proof/Machine/Dma.lean ====
section
/-!
DEFINITION. Sys2Proof/Machine/Dma.lean: the DMA engines (R262–R270, R146, R147), the uncorrectable reads of DDR5 (R259,
R261), and the retirement of every kind of command (R203, R266, R275).
-/
namespace Sys2Proof.Machine

/-! ### DDR5 placement -/

/-- The channel that holds a DDR5 address (R259). -/
def Dev.ddrChannel (d : Dev) (a : Nat) : Option Nat :=
  let c := (a - ddrBase) / ddrWindow
  let hs := d.homeChannels c
  if hs.isEmpty then none else hs[(a - ddrBase) % ddrWindow / 4096 % hs.length]?

/-- An uncorrectable DDR5 read is counted and latched on its channel's page, with error 0x0903 (R261). -/
def Dev.noteDdr (d : Dev) (u core seq : Nat) : Dev :=
  match d.ddrChannel u with
  | none => d
  | some n =>
    ((((d.bump (pgDdr n) 0x114 1).setReg64 (pgDdr n) 0x118 u).raise (pgDdr n) 2).setError (pgDdr n) 0x0903 core seq)

/-- An uncorrectable unit is counted where it lies (R219, R256, R261). -/
def Dev.noteAny (d : Dev) (u core seq : Nat) : Dev :=
  if ddrBase ≤ u ∧ u < sramBase then d.noteDdr u core seq else d.noteUncorr u

/-! ### The engine's queue -/

/-- Index of engine e of die c, and its page. -/
def dmaIdx (c e : Nat) : Nat := 16 * c + e

/-- Background transfers accepted by an engine and not complete (BG_PEND). -/
def DmaSt.bgPend (x : DmaSt) : Nat := (x.queue.filter (·.bg)).length + (match x.running with | some j => b2n j.bg | none => 0)

/-- A background transfer of core k earlier than command `seq` is not complete (R266). -/
def Dev.bgEarlier (d : Dev) (k seq : Nat) : Bool :=
  (List.range 16).any fun e =>
    let x := d.dma (dmaIdx (coreDie k) e)
    let early (j : DmaJob) : Bool := j.bg && j.core == k && serialLater 32 j.seq seq
    x.queue.any early || x.running.any early

/-- A descriptor whose length or extent is 0 moves no data (R265, R266). -/
def DmaB.empty (b : DmaB) : Bool := b.ranges.1.2 == 0

/-- What a DMA command does as it issues: it enters its engine's queue; with BG it retires there unless it drains. -/
def Dev.dmaAccept (d : Dev) (k : Nat) (c : Cmd) : Dev :=
  let b := DmaB.parse c.desc
  let bg := dBg c.desc
  let i := dmaIdx (coreDie k) b.engine
  let d := d.modCore k fun x => x.modCmd c.seq fun y => { y with started := true, startTime := d.time }
  if b.empty then d.endCmd k c.seq none
  else
    let d := d.modDma i fun x => { x with queue := x.queue ++ [⟨k, c.seq, c.list, c.desc, bg⟩] }
    let d := d.raiseIf ((d.dma i).accepted == 64) (pgDma (coreDie k) b.engine) 2
    if !bg then d else if b.drain then d.endCmd k c.seq none else d.retire k c

/-- DMA.COPY, DMA.TCOPY and the DRAIN form issue (R262). -/
def Dev.dmaIssue (d : Dev) (k : Nat) (fits : List Byte → Bool) : Dev :=
  d.issue k (fun raw => fits raw || opIn [] raw) fun d c => d.dmaAccept k c

/-! ### A transfer -/

/-- A background transfer fails: its error is set, and a later DRAIN of its core will tell of it (R269). -/
def Dev.bgFails (d : Dev) (j : DmaJob) (r : ErrRec) : Dev := { (d.setErr r) with bgFailed := (j.core, j.seq) :: d.bgFailed }

/-- A transfer of an engine is over, with an error or without: `bytes` written in all, `before` of them counted already. A background transfer that fails is remembered for the
next DRAIN of its core, with its sequence number (R269). DEDUCED, log entry 42. -/
def Dev.dmaEnd (d : Dev) (c e : Nat) (j : DmaJob) (before bytes : Nat) (x : Option ErrRec) : Dev :=
  let i := dmaIdx c e
  let d := (d.modDma i fun y => { y with running := none, done := 0 }).bump64 (pgDma c e) 0x110 (bytes - before)
  let d := if x.isNone then d.bump (pgDma c e) 0x118 1 else d
  if j.bg then
    let d := match x with
      | some r => d.bgFails j r
      | none => d
    d.raiseIf ((d.dma i).bgPend == 0) (pgDma c e) 1
  else
    let d := d.modCore j.core fun y => y.modCmd j.seq fun z => { z with counts := { z.counts with bytes } }
    d.endCmd j.core j.seq x

/-- The core whose keep bank a destination range touches, with the bank (R149, R267). -/
def Dev.keepAny (d : Dev) (a n : Nat) : Option (Nat × Nat) :=
  if n = 0 ∨ a < sramBase then none
  else
    let k := (a - sramBase) / caseBytes
    (d.keepHit k a n).map fun b => (k, b)

/-- Least of a list of numbers, or none. -/
def leastOf : List Nat → Option Nat
  | [] => none
  | x :: xs => some (xs.foldl min x)

/-- The first unit of a range that reads uncorrectable, in address order. -/
def Dev.firstBad (d : Dev) (a n : Nat) : Option Nat := leastOf (d.badUnits.filter fun u => overlaps u 32 a n)

/-- Error of a job on its engine's page. -/
def DmaJob.err (j : DmaJob) (c e code info : Nat) : ErrRec := errOn (pgDma c e) code info j.seq

/-- Bytes that move before the destination's 64-byte unit that a bad source unit would fill (R269). -/
def goodBytes (src dst len bad : Nat) : Nat :=
  let off := bad - src
  min len ((dst + off) / 64 * 64 - dst)

/-- 64-byte units that n bytes at address t touch. -/
def unitsAt (t n : Nat) : Nat := if n = 0 then 0 else (t + n + 63) / 64 - t / 64

/-- Bytes of a DMA.COPY, row by row, before unit u of row r and the rows after it. -/
def DmaB.bytesBefore (b : DmaB) : Nat → Nat → Nat → Nat
  | 0, r, _ => r * b.len
  | n + 1, r, u =>
    let t := b.dst + r * b.dpitch
    if u < unitsAt t b.len then r * b.len + ((t / 64 + u) * 64 - t) else b.bytesBefore n (r + 1) (u - unitsAt t b.len)

/-- Units of a DMA.COPY, or tiles of a DMA.TCOPY. -/
def DmaB.unitsOf (b : DmaB) : Nat :=
  if b.tcopy then b.uRows * b.uCols else ((List.range b.rows).map fun r => unitsAt (b.dst + r * b.dpitch) b.len).foldl (· + ·) 0

/-- Rows of a DMA.COPY from row r on, where `w` bytes are written and `stop` shall be: the state, the bytes written, and the
error that ended it. -/
def Dev.copyRows (d : Dev) (c e : Nat) (j : DmaJob) (b : DmaB) (stop : Nat) : Nat → Nat → Nat → Dev × Nat × Option ErrRec
  | 0, _, w => (d, w, none)
  | n + 1, r, w =>
   if stop ≤ w then (d, w, none)
   else
    let skip := w - r * b.len
    let s := b.src + r * b.spitch + skip
    let t := b.dst + r * b.dpitch + skip
    let len := min (b.len - skip) (stop - w)
    match d.keepAny t len with
    | some (k, bank) => (d, w, some (j.err c e 0x0703 (bank * 2 ^ 16 + k)))
    | none =>
      match d.firstBad s len with
      | some u =>
        let g := goodBytes s t len u
        let d := if g = 0 then d else d.write t (d.read s g)
        (d.noteAny u j.core j.seq, w + g, some (j.err c e 0x0701 j.core))
      | none => (d.write t (d.read s len)).copyRows c e j b stop n (r + 1) (w + len)

/-! ### Transposing copies (R146, R147, R265) -/

/-- A code of a wide format as the device writes it: a NaN becomes the canonical one (R57). -/
def canonCode (f : Fmt) (x : Nat) : Nat := match fpDecode f.ieee x with | .nan => f.ieee.nanCode | _ => x

/-- A source tile as it is taken: its codes over the valid extent in the output format (R57, R147). -/
def tcopyCodes (t : Tile) (es : List Nat) : List (List Nat) :=
  (List.range 64).map fun i =>
    if t.fmt.narrow then (t.expandRow es i).map fun x => fpEncode bf16 x.toFl
    else (List.range 32).map fun q => if i < t.hdr.rows ∧ q < t.hdr.cols then canonCode t.fmt (nth (t.codes.getD i []) q) else 0

/-- A block that fails SORT_EN 0: it uses an entry under a scale that is read neither as 0x00 nor as 0xFF (R61, R265). -/
def needsEntries (t : Tile) : Bool :=
  t.blocks.any fun x => (x.2.1 || x.2.2 != 0) && x.1 != 0 && !scaleInvalid x.1

/-- Read source tile idx of a TCOPY: the tile with its sort-list entries, or its error and the unit that was bad. The
checks of R68 hold with SORT_EN 0 too. -/
def Dev.tcopyRead (d : Dev) (rs : List Region) (b : DmaB) (idx : Nat) : Except (Option Nat) (Tile × List Nat) :=
  let a := b.src + idx * b.srcStride
  match d.firstBad a 64 with
  | some u => .error (some u)
  | none =>
    let h := d.hdrAt a
    if !h.valid ∨ h.fmt ≠ b.fmt ∨ h.tileRow ≠ idx / b.rows ∨ h.tileCol ≠ idx % b.rows then .error none
    else
      let n := ((Fmt.ofCode h.fmt).getD .fp32).tileBytes
      match d.firstBad a n with
      | some u => .error (some u)
      | none =>
        let t := Tile.parse (d.read a n)
        if h.fmt ≠ 1 then .ok (t, [])
        else if !b.sortEn then (if needsEntries t || !t.sortOk [] [] then .error none else .ok (t, []))
        else
          let top := match findRegion rs b.sort with | some r => r.1 + r.2 | none => 0
          let sa := b.sort + 2 * h.sortIndex
          if t.entrySum ≠ 0 ∧ top < sa + 2 * t.entrySum then .error none
          else match d.firstBad sa (2 * t.entrySum) with
            | some u => .error (some u)
            | none =>
              let es := wordsOf 2 t.entrySum (d.read sa (2 * t.entrySum))
              if t.sortOk es [] then .ok (t, es) else .error none

/-- Output format of a TCOPY (R147). -/
def DmaB.outFmt (b : DmaB) : Fmt :=
  match Fmt.ofCode b.fmt with | some f => if f.narrow then .bf16 else f | none => .bf16

/-- A code of a wide format is NaN or infinite. -/
def codeNonFin (f : Fmt) (x : Nat) : Bool := match fpDecode f.ieee x with | .fin _ _ _ => false | _ => true

/-- Tile (r, q) of U from the two source tiles' codes (R146). -/
def DmaB.outTile (b : DmaB) (r q : Nat) (left right : List (List Nat)) : Tile :=
  let rows := min 64 (b.dpitch - 64 * r)
  let cols := min 32 (b.spitch - 32 * q)
  let codes := (List.range 64).map fun i => (List.range 32).map fun s =>
    if i < rows ∧ s < cols then nth ((if i < 32 then left else right).getD (32 * (q % 2) + s) []) (i % 32) else 0
  { hdr := { fmt := b.outFmt.code, rows, cols, tag := b.tag, tileRow := r, tileCol := q
             nonfinite := codes.any fun x => x.any (codeNonFin b.outFmt) }
    codes }

/-- Tiles of U from tile u on. -/
def Dev.tcopyTiles (d : Dev) (c e : Nat) (j : DmaJob) (b : DmaB) (rs : List Region) :
    Nat → Nat → Nat → Dev × Nat × Option ErrRec
  | 0, _, w => (d, w, none)
  | n + 1, u, w =>
    let r := u / b.uCols
    let q := u % b.uCols
    let t := b.dst + u * b.dstStride
    let size := b.outFmt.tileBytes
    match d.keepAny t size with
    | some (k, bank) => (d, w, some (j.err c e 0x0703 (bank * 2 ^ 16 + k)))
    | none =>
      let i0 := q / 2 * b.rows + 2 * r
      let fail (x : Option Nat) (i : Nat) : Dev × Nat × Option ErrRec :=
        match x with
        | some bad => (d.noteAny bad j.core j.seq, w, some (j.err c e 0x0701 j.core))
        | none => (d, w, some (j.err c e 0x0706 (i % 2 ^ 30)))
      match d.tcopyRead rs b i0 with
      | .error x => fail x i0
      | .ok left =>
        match (if 2 * r + 1 < b.rows ∧ 32 * (2 * r + 1) < b.dpitch then d.tcopyRead rs b (i0 + 1) else .ok ({}, [])) with
        | .error x => fail x (i0 + 1)
        | .ok right =>
          -- a source tile is counted at the first of the two tiles of U that it feeds (R115)
          let count (d : Dev) (x : Tile) : Dev := if q % 2 = 0 then d.countInvalid j.core x (invalidElems x []) else d
          ((count (count d left.1) right.1).write t (b.outTile r q (tcopyCodes left.1 left.2) (tcopyCodes right.1 right.2)).bytes).tcopyTiles
            c e j b rs n (u + 1) (w + size)

/-! ### The engine's two events -/

/-- A range touches a proof reserve (R268). -/
def Dev.touchesReserve (d : Dev) (a n : Nat) : Bool :=
  (List.range 4).any fun c => let r := d.ddrReserve c; r.2 != 0 && n != 0 && overlaps a n r.1 r.2

/-- The engines and Platens of a die stand still: a restore waits for the next impression (R366). -/
def Dev.dieHeld (d : Dev) (c : Nat) : Bool := match (d.die c).part with | some p => (d.part p).restored | none => false
/-- The DMA engines of a die hold for a cut (R342). -/
def Dev.dieCut (d : Dev) (c : Nat) : Bool := match (d.die c).part with | some p => (d.part p).moversHeld | none => false

/-- DMA_TRANSFER_START. -/
def Dev.dmaStart (d : Dev) (c e : Nat) : Dev :=
  let i := dmaIdx c e
  let x := d.dma i
  match x.queue, x.running with
  | j :: q, none =>
    if 4 ≤ c ∨ 16 ≤ e ∨ !(d.hdr (pgDma c e)).enable ∨ d.dieHeld c ∨ d.dieCut c then d
    else
      let d := d.modDma i fun y => { y with queue := q, running := some j, curSeq := j.seq, curCore := j.core }
      let (s, t) := (DmaB.parse j.desc).ranges
      if d.touchesReserve s.1 s.2 then d.dmaEnd c e j 0 0 (some (j.err c e 0x0702 0))
      else if d.touchesReserve t.1 t.2 then d.dmaEnd c e j 0 0 (some (j.err c e 0x0702 1))
      else if d.inHold t.1 t.2 then d.dmaEnd c e j 0 0 (some (j.err c e 0x0102 0))
      else d
  | _, _ => d

/-- Bytes that the first `u` units or tiles of a transfer write. -/
def DmaB.bytesOf (b : DmaB) (u : Nat) : Nat := if b.tcopy then u * b.outFmt.tileBytes else b.bytesBefore b.rows 0 u

/-- A transfer goes on from unit or tile `u` to `v`: the state, the bytes written in all, and the error that ended it. A
destination in a save area that a proof has taken since ends it as a bounds violation (R353). -/
def Dev.dmaMove (d : Dev) (c e : Nat) (j : DmaJob) (b : DmaB) (u v : Nat) : Dev × Nat × Option ErrRec :=
  let w := b.bytesOf u
  let rs := match d.partOf j.core with | some p => d.dmaRegions p | none => []
  if d.inHold b.ranges.2.1 b.ranges.2.2 then (d, w, some (j.err c e 0x0102 0))
  else if b.tcopy then d.tcopyTiles c e j b rs (v - u) u w
  else d.copyRows c e j b (b.bytesOf v) (b.rows - w / b.len) (w / b.len) w

/-- DMA_TRANSFER_DONE: the data moves and the transfer is over. DESIGN CHOICE, log entry 43. -/
def Dev.dmaDone (d : Dev) (c e : Nat) : Dev :=
  let x := d.dma (dmaIdx c e)
  match x.running with
  | none => d
  | some j =>
   if d.dieHeld c || d.dieCut c then d
   else
    let b := DmaB.parse j.desc
    let r := d.dmaMove c e j b x.done b.unitsOf
    r.1.dmaEnd c e j (b.bytesOf x.done) r.2.1 r.2.2

/-- How far the running transfer of an engine has come when a cut holds it: some of its units are written, and how many is a
free value (R342, R346). DESIGN CHOICE, log entry 43. -/
def Dev.dmaProgress (d : Dev) (c e : Nat) : Dev :=
  let x := d.dma (dmaIdx c e)
  match x.running with
  | none => d
  | some j =>
    let b := DmaB.parse j.desc
    let d := { d with freeCount := d.freeCount + 1 }
    let v := x.done + (Config.freeValue (d.freeCount - 1)).toNat % (b.unitsOf - x.done + 1)
    let r := d.dmaMove c e j b x.done v
    if r.2.2.isSome then d
    else (r.1.modDma (dmaIdx c e) fun y => { y with done := v }).bump64 (pgDma c e) 0x110 (r.2.1 - b.bytesOf x.done)

/-- SOFT_RESET of a DMA page (R284): the queue is discarded, its running head too; each background transfer in it failed, and
each other descriptor retires with the error. BG_DONE is raised where BG_PEND falls to 0 (R286). DEDUCED, log entry 42. -/
def Dev.dmaDiscard (d : Dev) (c e : Nat) : Dev :=
  let i := dmaIdx c e
  let jobs := (d.dma i).running.toList ++ (d.dma i).queue
  let d := d.modDma i fun y => { y with queue := [], running := none, done := 0 }
  jobs.foldl (fun d j =>
    let r := j.err c e 0x0701 j.core
    if j.bg then d.bgFails j r else d.endCmd j.core j.seq (some r)) (d.raiseIf (jobs.any (·.bg)) (pgDma c e) 1)

/-! ### Retirement -/

/-- The command may retire now (R203, R266, R275): its work is over, and what a DRAIN waits for has completed.
DEDUCED, log entry 42. -/
def Dev.mayRetire (d : Dev) (k : Nat) (c : Cmd) : Bool :=
  if !c.complete then false
  else if c.unit = 5 ∧ (DmaB.parse c.desc).drain then !d.bgEarlier k c.seq
  else if c.unit = 7 then
    let x := d.platen (stackOf (PltB.parse c.desc).p)
    let early (j : PlatenJob) : Bool := j.core == k && serialLater 32 j.seq c.seq
    !(x.queue.any early || x.running.any early)
  else true

/-- Of failed transfers or submits, by core and sequence number: those of core k issued before command `seq`. -/
def failedBefore (k seq : Nat) (xs : List (Nat × Nat)) : List (Nat × Nat) :=
  xs.filter fun x => x.1 == k && serialLater 32 x.2 seq

/-- A DRAIN tells its core of a transfer or submit before it that failed (R269, R275). DEDUCED, log entry 42. -/
def Dev.drainError (d : Dev) (k : Nat) (c : Cmd) : Dev × Cmd :=
  let tell (d : Dev) (code : Nat) : Dev × Cmd :=
    let e := errOn (pgCore k) code k c.seq
    (d.setErr e, { c with err := some e })
  if c.err.isSome then (d, c)
  else if c.unit = 5 ∧ (DmaB.parse c.desc).drain ∧ failedBefore k c.seq d.bgFailed ≠ [] then
    tell { d with bgFailed := d.bgFailed.filter fun x => !(failedBefore k c.seq d.bgFailed).contains x } 0x0701
  else if c.unit = 7 ∧ failedBefore k c.seq (d.platen (stackOf (PltB.parse c.desc).p)).failed ≠ [] then
    tell (d.modPlaten (stackOf (PltB.parse c.desc).p) fun x =>
      { x with failed := x.failed.filter fun y => !(failedBefore k c.seq x.failed).contains y }) 0x0803
  else (d, c)

/-- COMMAND_RETIRE: a command whose completion condition is met retires (R203). A galley's POP writes its length
register as it does (R238), and a galley that is free again takes its next command. -/
def Dev.commandRetire (d : Dev) (k seq : Nat) : Dev :=
  match (d.core k).cmd? seq with
  | none => d
  | some c =>
    if !d.mayRetire k c then d
    else
      let d := if c.unit ≤ 2 then d.finishCompute k c else d
      let d := match if dOp c.desc = 0x35 ∧ c.err.isNone then (MsgB.parse c.desc).lenToC else none with
        | some i => d.modCore k fun x => x.setC i c.moved
        | none => d
      let r := d.drainError k c
      let d := r.1.retire k r.2
      let d := if c.unit = 4 then d.pumpGalleys k else d
      match d.partOf k with
      | some p => d.checkOrders p
      | none => d

end Sys2Proof.Machine
end

