-- ==== Sys2Proof/Machine/Platen.lean ====
section
/-!
DEFINITION. Sys2Proof/Machine/Platen.lean: the Platens (R271–R281): submits, the update arithmetic, storage of moments, and
the zeroing of claimed memory (R253).
-/
namespace Sys2Proof.Machine

/-! ### Arithmetic (R278) -/

/-- IEEE 754 division: a zero divisor gives an infinity, or NaN for zero by zero. -/
def ieeeDiv (x y : F32) : F32 :=
  match f32 x, f32 y with
  | .fin a m _, .fin b 0 _ => if m = 0 then fnan else toF32 (.inf (a != b))
  | _, _ => fdiv x y

/-- IEEE 754 square root: NaN for a negative value. -/
def ieeeSqrt (x : F32) : F32 := if isNan x ∨ isZero x ∨ x.toNat < 2 ^ 31 then fsqrt x else fnan

/-- Product in binary64. -/
def fmulD (x y : F64) : F64 := toF64 (flMul (f64 x) (f64 y))

/-- Square-and-multiply from the lowest bit of the exponent. -/
def powLow (t : Nat) : Nat → F64 → F64 → F64
  | 0, _, r => r
  | n + 1, b, r => powLow (t / 2) n (fmulD b b) (if t % 2 = 1 then fmulD r b else r)

/-- Square-and-multiply from the highest bit. -/
def powHigh (b : F64) (t : Nat) : Nat → F64 → F64
  | 0, r => r
  | n + 1, r => let s := fmulD r r; powHigh b t n (if bit t n then fmulD s b else s)

/-- The bias correction c = 1 − β^t (R278). DESIGN CHOICE, log entry 15. -/
def biasCorr (beta : F32) (t : Nat) : F32 :=
  let b := toF64 (f32 beta)
  let one := toF64 (f32 fone)
  let p := if Config.powHighFirst then powHigh b t (t.log2 + 1) one else powLow t (t.log2 + 1) b one
  toF32 (flAdd (f32 fone) (flNeg (f64 p)))

/-- The constants a submit runs with. -/
structure PltK where
  kind : Nat := 0
  b1 : F32 := 0#32
  b2 : F32 := 0#32
  eps : F32 := 0#32
  wd : F32 := 0#32
  gscale : F32 := 0#32
  lr : F32 := 0#32
  c1 : F32 := 0#32
  c2 : F32 := 0#32
  phi : F32 := 0#32
  deriving DecidableEq, Repr

/-- sign(x) of Lion: +1, −1, 0; NaN stays NaN. -/
def fsign (x : F32) : F32 :=
  if isNan x then fnan else if isZero x then 0#32 else if x.toNat < 2 ^ 31 then fone else fneg fone

/-- p − k × (u + WD × p). -/
def PltK.apply (c : PltK) (k u p : F32) : F32 := fsub p (fmul k (fadd u (fmul c.wd p)))

/-- m and v of AdamW and LAMB. -/
def PltK.mom1 (c : PltK) (m g : F32) : F32 := fadd (fmul c.b1 m) (fmul (fsub fone c.b1) g)
def PltK.mom2 (c : PltK) (v g : F32) : F32 := fadd (fmul c.b2 v) (fmul (fsub fone c.b2) (fmul g g))

/-- mh ÷ (sqrt(vh) + EPS). -/
def PltK.ratio (c : PltK) (m v : F32) : F32 := ieeeDiv (ieeeDiv m c.c1) (fadd (ieeeSqrt (ieeeDiv v c.c2)) c.eps)

/-- One element of R278 in a single pass: new parameter and moments from the parameter, the gradient and the moments. -/
def PltK.step (c : PltK) (p gr m v : F32) : F32 × F32 × F32 :=
  let g := fmul gr c.gscale
  match c.kind with
  | 0 => let m := fadd (fmul c.b1 m) g; (c.apply c.lr m p, m, v)
  | 1 => let m := fadd (fmul c.b1 m) g; (c.apply c.lr (fadd g (fmul c.b1 m)) p, m, v)
  | 2 =>
    let m := c.mom1 m g
    let v := c.mom2 v g
    (c.apply c.lr (c.ratio m v) p, m, v)
  | _ =>
    let u := fsign (c.mom1 m g)
    (c.apply c.lr u p, fadd (fmul c.b2 m) (fmul (fsub fone c.b2) g), v)

/-- r of LAMB from the stored moments. DEDUCED, log entry 41. -/
def PltK.lambR (c : PltK) (p m v : F32) : F32 := fadd (c.ratio m v) (fmul c.wd p)

/-- SP or SQ with one square added, in binary64. -/
def addSquare (s : F64) (x : F32) : F64 := toF64 (flAdd (f64 s) (flMul (f32 x) (f32 x)))

/-! ### Moments (R273, R280) -/

/-- Bytes of one tile's moments. -/
def momTile (f : Nat) : Nat := momentBytes f 1

/-- Slot of an element within its tile. -/
def slotAt (i j : Nat) : Nat := 32 * i + j

/-- The moments of a tile as FP32, row by row. -/
def momDecode (f : Nat) (bs : List Byte) : List (List F32) :=
  (List.range 64).map fun i => (List.range 32).map fun j =>
    let s := slotAt i j
    match f with
    | 0 => widen .fp32 (field bs (4 * s) 4)
    | 1 => widen .bf16 (field bs (2 * s) 2)
    | _ => toF32 (expandCode .fp8e4m3 (field bs i 1) 0 (field bs (64 + s) 1)).toFl

/-- Bytes of one row's valid slots as stored, with the FP8 scale apart, and how many elements were clipped. -/
structure MomRow where
  scale : Option Byte := none
  data : List Byte := []
  clip : Nat := 0
  deriving DecidableEq, Repr

/-- One row of moments rounded to its storage format (R280). -/
def momRow (f : Nat) (c : Conv) (tileRow tileCol i : Nat) (v : List F32) : MomRow :=
  match f with
  | 0 => { data := v.flatMap fun x => natLe 4 x.toNat }
  | 1 => { data := (((convWideRow c .bf16 tileRow tileCol i v).codes.take v.length).flatMap (natLe 2)) }
  | _ =>
    let s := match blockScale c .fp8e4m3 0 v with | .code s _ => s | .overset _ => 0xFE
    let r := convRow c .fp8e4m3 0 tileRow tileCol i v s false
    { scale := some (BitVec.ofNat 8 s), data := (r.codes.take v.length).map (BitVec.ofNat 8), clip := r.counts.clip }

/-- Bytes of one slot. -/
def momSlot (f : Nat) : Nat := if f = 0 then 4 else if f = 1 then 2 else 1

/-- The pieces that store the moments of a tile's valid elements, by offset in the tile's moments; and elements clipped. -/
def momPieces (f rows cols : Nat) (c : Conv) (tileRow tileCol : Nat) (vs : List (List F32)) : List (Nat × List Byte) × Nat :=
  let rs := (List.range rows).map fun i => (i, momRow f c tileRow tileCol i ((vs.getD i []).take cols))
  (rs.flatMap fun (i, r) =>
    (match r.scale with | some s => [(i, [s])] | none => []) ++ [((if f = 2 then 64 else 0) + momSlot f * slotAt i 0, r.data)],
   (rs.map fun x => x.2.clip).foldl (· + ·) 0)

/-- Moments as they read once the pieces are stored. -/
def momAfter (f : Nat) (old : List Byte) (ps : List (Nat × List Byte)) : List (List F32) :=
  momDecode f (ps.foldl (fun bs p => splice bs p.1 p.2) old)

/-- Store the pieces in the tile's moments at `a`. -/
def Dev.momWrite (d : Dev) (a : Nat) (ps : List (Nat × List Byte)) : Dev := ps.foldl (fun d p => d.write (a + p.1) p.2) d

/-! ### Submits -/

/-- PLATEN.SUBMIT issues (R272, R275): a submit retires as its Platen accepts it; a DRAIN waits. -/
def Dev.platenIssue (d : Dev) (k : Nat) (fits : PltB → Bool) : Dev :=
  d.issue k (fun raw => (dOp raw == 0x40 && fits (PltB.parse raw)) || opIn [] raw) fun d c =>
    let b := PltB.parse c.desc
    let d := d.modCore k fun x => x.modCmd c.seq fun y => { y with started := true, startTime := d.time }
    if b.drain then d.endCmd k c.seq none
    else (d.modPlaten (stackOf b.p) fun x => { x with queue := x.queue ++ [⟨k, c.seq, c.desc⟩] }).retire k c

/-- A submit is over (R275): done, or ended with an error of its Platen's page. -/
def Dev.platenEnd (d : Dev) (st : Nat) (j : PlatenJob) (x : Option ErrRec) : Dev :=
  let d := d.modPlaten st fun y => { y with running := none, next := 0, sp := 0#64, sq := 0#64 }
  let d := match x with
    | some e => (d.setErr e).modPlaten st fun y => { y with failed := (j.core, j.seq) :: y.failed }
    | none => d.bump (pgPlaten st) 0x118 1
  d.raiseIf (d.platen st).queue.isEmpty (pgPlaten st) 2

/-- The PHASE fits the KIND (R274). DEDUCED, log entry 41. -/
def phaseFits (kind phase : Nat) : Bool := if kind = 4 then phase == 1 || phase == 2 else phase == 0

/-- φ is negative, NaN, infinite or subnormal (R279). -/
def badPhi (x : F32) : Bool := nonFin x || isSubnormal x || (!isZero x && decide (2 ^ 31 ≤ x.toNat))

/-- PLATEN_UPDATE_START (R274, R279). DEDUCED, log entry 41. -/
def Dev.platenStart (d : Dev) (st : Nat) : Dev :=
  let x := d.platen st
  match x.queue, x.running with
  | j :: q, none =>
    if 8 ≤ st ∨ !(d.hdr (pgPlaten st)).enable ∨ d.dieHeld (st / 2) then d
    else
      let b := PltB.parse j.desc
      let prof := (List.range 6).map fun i => BitVec.ofNat 32 (d.reg (pgPlaten st) (0x200 + 32 * b.profile + 4 * i))
      let phi := BitVec.ofNat 32 (d.readNat b.aux 4)
      let d := d.modPlaten st fun y => { y with queue := q, running := some j, profile := prof, phi, curSeq := j.seq, curCore := j.core }
      let cfg := (prof.headD 0#32).toNat
      let kind := cfg % 8
      let e (code info : Nat) := some (errOn (pgPlaten st) code info j.seq)
      if !bit cfg 31 ∨ !phaseFits kind b.phase ∨ (kindUsesM2 kind ∧ b.step = 0) then
        d.platenEnd st j (e 0x0802 (b.profile * 2 ^ 28 + j.core))
      else if b.phase = 2 then
        match d.badAt b.aux 4 with
        | some u => (d.noteAny u j.core j.seq).platenEnd st j (e 0x0803 j.core)
        | none => if badPhi phi then d.platenEnd st j (e 0x0806 phi.toNat) else d
      else d
  | _, _ => d

/-- The constants of the running submit. -/
def pltConsts (x : PlatenSt) (b : PltB) : PltK :=
  let w (i : Nat) : F32 := x.profile.getD i 0#32
  { kind := (w 0).toNat % 8, b1 := w 1, b2 := w 2, eps := w 3, wd := w 4, gscale := w 5, lr := b.lr
    c1 := biasCorr (w 1) b.step, c2 := biasCorr (w 2) b.step, phi := x.phi }

/-- What one tile of a submit needs and yields. -/
structure PltSums where
  sp : F64 := 0#64
  sq : F64 := 0#64
  deriving DecidableEq, Repr

/-- The bytes of a tile's valid moments, as pieces by address (R273): those of slots outside the extent are not read. -/
def momRanges (f a rows cols : Nat) : List (Nat × Nat) :=
  (List.range rows).flatMap fun i =>
    (if f = 2 then [(a + i, 1)] else []) ++ [(a + (if f = 2 then 64 else 0) + momSlot f * slotAt i 0, momSlot f * cols)]

/-- A pair of tiles passes the checks of R274: the P tile's format, the G tile's, both headers, and what they agree in. -/
def pairFits (mf : Fmt) (p g : TileHdr) : Bool :=
  p.valid && p.fmt == mf.code && g.valid && fmtWide g.fmt && g.tileRow == p.tileRow && g.tileCol == p.tileCol &&
  g.rows == p.rows && g.cols == p.cols

/-- One pair of tiles: the state with the tile updated, or the unit that was bad, or a failed check (R274, R277). A LAMB
apply pass checks the G tile's header and reads no more of it. DEDUCED, log entry 41. -/
def Dev.platenTile (d : Dev) (st : Nat) (b : PltB) (c : PltK) (n : Nat) (s : PltSums) : Except (Option Nat) (Dev × PltSums) :=
  let pa := b.p + n * b.pStride
  let ga := b.g + n * b.gStride
  let useG := b.phase != 2
  let useV := kindUsesM2 c.kind
  let mf : Fmt := if b.masterBf16 then .bf16 else .fp32
  let ph := d.hdrAt pa
  let gh := d.hdrAt ga
  let ma := b.m1 + n * momTile b.m1fmt
  let va := b.m2 + n * momTile b.m2fmt
  let gn := ((Fmt.ofCode gh.fmt).getD .bf16).tileBytes
  let ranges := [(pa, mf.tileBytes)] ++ momRanges b.m1fmt ma ph.rows ph.cols ++
    (if useV then momRanges b.m2fmt va ph.rows ph.cols else [])
  match ([(pa, 64), (ga, 64)].findSome? fun r => d.firstBad r.1 r.2) with
  | some u => .error (some u)
  | none =>
    if !pairFits mf ph gh then .error none
    else match ((ranges ++ (if useG then [(ga, gn)] else [])).findSome? fun r => d.firstBad r.1 r.2) with
      | some u => .error (some u)
      | none =>
        let pt := Tile.parse (d.read pa mf.tileBytes)
        let p := pt.values
        let g := if useG then (Tile.parse (d.read ga gn)).values else []
        let m := momDecode b.m1fmt (d.read ma (momTile b.m1fmt))
        let v := if useV then momDecode b.m2fmt (d.read va (momTile b.m2fmt)) else []
        let at_ (x : List (List F32)) (i j : Nat) : F32 := (x.getD i []).getD j 0#32
        let grid (f : Nat → Nat → F32) : List (List F32) := (List.range ph.rows).map fun i => (List.range ph.cols).map (f i)
        let conv (k : Nat) (f : Fmt) : Conv :=
          { fmt := f, base := f, rnd := if b.sr then 2 else 0
            key := { seed := d.reg64 (pgPlaten st) 0x128, tag := ph.tag, step := b.step, cls := (b.randClass + k) % 256 } }
        let pieces (f k : Nat) (x : List (List F32)) := momPieces f ph.rows ph.cols (conv k .fp32) ph.tileRow ph.tileCol x
        let putP (d : Dev) (np : List (List F32)) : Dev :=
          let rows := (List.range ph.rows).map fun i =>
            let v := np.getD i []
            if b.masterBf16 then (convWideRow (conv 0 .bf16) .bf16 ph.tileRow ph.tileCol i v).codes.take ph.cols
            else v.map BitVec.toNat
          let made := (((List.range ph.rows).zip rows).map fun (i, r) =>
            ((List.range ph.cols).zip r).countP fun (j, x) => codeNonFin mf x && !nonFin (at_ p i j)).foldl (· + ·) 0
          let w := mf.rowBytes / 32
          let d := ((List.range ph.rows).zip rows).foldl (fun d (i, r) => d.write (pa + 64 + i * mf.rowBytes) (r.flatMap (natLe w))) d
          (d.bump (pgPlaten st) 0x11C made).raiseIf (made != 0) (pgPlaten st) 1
        let cnt (d : Dev) (clip : Nat) : Dev :=
          (d.bump64 (pgPlaten st) 0x110 (ph.rows * ph.cols)).bump (pgPlaten st) 0x120 clip
        if b.phase = 2 then
          let k := fmul c.lr c.phi
          let np := grid fun i j => fsub (at_ p i j) (fmul k (c.lambR (at_ p i j) (at_ m i j) (at_ v i j)))
          .ok (cnt (putP d np) 0, s)
        else if b.phase = 1 then
          let g' i j := fmul (at_ g i j) c.gscale
          let q1 := pieces b.m1fmt 1 (grid fun i j => c.mom1 (at_ m i j) (g' i j))
          let q2 := pieces b.m2fmt 2 (grid fun i j => c.mom2 (at_ v i j) (g' i j))
          let m := momAfter b.m1fmt (d.read ma (momTile b.m1fmt)) q1.1
          let v := momAfter b.m2fmt (d.read va (momTile b.m2fmt)) q2.1
          let s := ((List.range ph.rows).flatMap fun i => (List.range ph.cols).map fun j => (i, j)).foldl (fun s (i, j) =>
            let x := at_ p i j
            { sp := addSquare s.sp x, sq := addSquare s.sq (c.lambR x (at_ m i j) (at_ v i j)) : PltSums }) s
          .ok (cnt ((d.momWrite ma q1.1).momWrite va q2.1) (q1.2 + q2.2), s)
        else
          let r := (List.range ph.rows).map fun i => (List.range ph.cols).map fun j =>
            c.step (at_ p i j) (at_ g i j) (at_ m i j) (at_ v i j)
          let d := putP d (r.map fun x => x.map (·.1))
          let q1 := pieces b.m1fmt 1 (r.map fun x => x.map (·.2.1))
          let q2 := if useV then pieces b.m2fmt 2 (r.map fun x => x.map (·.2.2)) else ([], 0)
          .ok (cnt ((d.momWrite ma q1.1).momWrite va q2.1) (q1.2 + q2.2), s)

/-- What tile n of a submit writes lies in a save area that refuses it (R353): the operand, 0 for P, 2 for M1, 3 for M2. -/
def Dev.tileHeld (d : Dev) (b : PltB) (useV : Bool) (n : Nat) : Option Nat :=
  let p := (0, b.p + n * b.pStride, if b.masterBf16 then Fmt.bf16.tileBytes else Fmt.fp32.tileBytes)
  let m := (2, b.m1 + n * momTile b.m1fmt, momTile b.m1fmt) ::
    (if useV then [(3, b.m2 + n * momTile b.m2fmt, momTile b.m2fmt)] else [])
  ((if b.phase = 1 then m else if b.phase = 2 then [p] else p :: m).find? fun x => d.inHold x.2.1 x.2.2).map (·.1)

/-- The tiles of a submit from tile n on. -/
def Dev.platenTiles (d : Dev) (st : Nat) (j : PlatenJob) (b : PltB) (c : PltK) :
    Nat → Nat → PltSums → Dev × PltSums × Option ErrRec
  | 0, _, s => (d, s, none)
  | fuel + 1, n, s =>
    let info := n % 2 ^ 16 * 2 ^ 16 + j.core
    match d.tileHeld b (kindUsesM2 c.kind) n with
    | some o => (d, s, some (errOn (pgPlaten st) 0x0801 (o * 2 ^ 28 + j.core) j.seq))
    | none =>
    match d.platenTile st b c n s with
    | .error (some u) => (d.noteAny u j.core j.seq, s, some (errOn (pgPlaten st) 0x0803 info j.seq))
    | .error none => (d, s, some (errOn (pgPlaten st) 0x0805 info j.seq))
    | .ok (d, s) => d.platenTiles st j b c fuel (n + 1) s

/-- Tiles of a submit from tile n on that complete, at most `fuel` of them: the state, the next tile and the sums. -/
def Dev.platenSome (d : Dev) (st : Nat) (b : PltB) (c : PltK) : Nat → Nat → PltSums → Dev × Nat × PltSums
  | 0, n, s => (d, n, s)
  | fuel + 1, n, s =>
    match if (d.tileHeld b (kindUsesM2 c.kind) n).isSome then .error none else d.platenTile st b c n s with
    | .error _ => (d, n, s)
    | .ok (d, s) => d.platenSome st b c fuel (n + 1) s

/-- How far the running submit of a Platen has come when something looks at it: some of its tiles are complete, and which
is the next is a free value, as is how many writes of the tile then in progress also land on shadowed pages (R352).
DESIGN CHOICE, log entry 43. -/
def Dev.platenProgress (d : Dev) (st : Nat) : Dev :=
  let x := d.platen st
  match x.running with
  | none => d
  | some j =>
    let b := PltB.parse j.desc
    let dual := (Config.freeValue (d.freeCount + 1)).toNat % 2 ^ 16
    let r := ({ d with freeCount := d.freeCount + 2 } : Dev).platenSome st b (pltConsts x b)
      ((Config.freeValue d.freeCount).toNat % (b.count - x.next + 1)) x.next { sp := x.sp, sq := x.sq }
    (r.1.bump (pgHbmc st) 0x1A0 dual).modPlaten st fun y => { y with next := r.2.1, sp := r.2.2.sp, sq := r.2.2.sq }

/-- PLATEN_UPDATE_DONE (R275–R281). DESIGN CHOICE, log entry 43. -/
def Dev.platenDone (d : Dev) (st : Nat) : Dev :=
  let x := d.platen st
  match x.running with
  | none => d
  | some j =>
    if d.dieHeld (st / 2) then d
    else
      let b := PltB.parse j.desc
      let r := d.platenTiles st j b (pltConsts x b) (b.count - x.next) x.next { sp := x.sp, sq := x.sq }
      let d := r.1
      if b.phase = 1 ∧ r.2.2.isNone then
        if d.inHold b.aux 16 then d.platenEnd st j (some (errOn (pgPlaten st) 0x0801 (4 * 2 ^ 28 + j.core) j.seq))
        else (d.write b.aux (natLe 8 r.2.1.sp.toNat ++ natLe 8 r.2.1.sq.toNat)).platenEnd st j none
      else d.platenEnd st j r.2.2

end Sys2Proof.Machine
end

