-- ==== Sys2Proof/Machine/RailjorTx.lean ====
section
/-!
DEFINITION. Sys2Proof/Machine/RailjorTx.lean: the sending side of Railjor: headers (R378), sequence numbers and windows
(R389–R391), responses, NACKs (R379, R400) and acknowledgements.
-/
namespace Sys2Proof.Machine

/-! ### Per-slot values of the windowed registers (Table 13-9) -/

/-- Offsets, in the register table, of a slot's values: RAILJOR counters and SRTT; STREAM ABORT_CNT, BASE and COUNT. -/
def retxKey (slot : Nat) : Nat := 0x820 + 4 * slot
def dupKey (slot : Nat) : Nat := 0x840 + 4 * slot
def srttKey (slot : Nat) : Nat := 0x860 + 4 * slot
def abortKey (slot : Nat) : Nat := 0x800 + 4 * slot
def streamBaseKey (slot : Nat) : Nat := 0x820 + 4 * slot
def streamCountKey (slot : Nat) : Nat := 0x840 + 4 * slot

/-- The MACsec words of the association in force stand apart from the registers that are written (R377). -/
def saKey (off : Nat) : Nat := 0x800 + off

/-- A frame goes out: it is counted, and takes a packet number where MACsec is on. -/
def Dev.txFrame (d : Dev) : Dev :=
  let d := d.bump64 pgEth 0x138 1
  if bit (d.reg pgEth (saKey 0x180)) 31 then d.bump64 pgEth 0x1C0 1 else d

/-! ### Headers -/

/-- Flag bits of a Railjor header. -/
def rjResp : Nat := 2 ^ 7
def rjFirst : Nat := 2 ^ 6
def rjLast : Nat := 2 ^ 5
def rjRetx : Nat := 2 ^ 4
def rjEce : Nat := 2 ^ 3

/-- A whole message. -/
def rjBytes (typ flags session seq ack sack stream window : Nat) (payload : List Byte) : List Byte :=
  natLe 1 1 ++ natLe 1 typ ++ natLe 2 flags ++ natLe 4 session ++ natLe 4 seq ++ natLe 4 ack ++ natLe 4 sack ++
  natLe 4 stream ++ natLe 2 payload.length ++ natLe 2 window ++ natLe 4 0 ++ payload

/-- SACK: bit i says message ACK + 1 + i has been received. -/
def Session.sack (s : Session) : Nat :=
  (List.range 32).foldl (fun m i => if s.ahead.any fun x => x.1 == (s.rxNext + 1 + i) % 2 ^ 32 then m + 2 ^ i else m) 0

/-- A message leaves on a session: it carries the current ACK, SACK, window and ECE (R390). -/
def Dev.rjWire (d : Dev) (slot typ flags seq stream : Nat) (payload : List Byte) : Dev :=
  let s := d.sess slot
  let flags := flags + (if s.ce then rjEce else 0)
  let d := d.send (.udp s.peer) (rjBytes typ flags s.id seq s.rxNext s.sack stream (d.reg pgRailjor 0x104) payload)
  d.txFrame.modSess slot fun s => { s with ce := false, pendAcks := 0 }

/-- The first waiting messages go while min(peer WINDOW, congestion window) allows (R389). -/
def Dev.rjFlush (d : Dev) (slot : Nat) : Nat → Dev
  | 0 => d
  | n + 1 =>
    let s := d.sess slot
    match s.waiting with
    | [] => d
    | m :: ms =>
      if min s.window s.cwnd ≤ s.unacked.length then d
      else
        let d := d.modSess slot fun s => { s with waiting := ms, unacked := s.unacked ++ [m] }
        (d.rjWire slot m.typ m.flags m.seq m.stream m.payload).rjFlush slot n

/-- A new sequenced message on a session (R389). -/
def Dev.rjSend (d : Dev) (slot typ flags stream : Nat) (payload : List Byte) : Dev :=
  let d := d.modSess slot fun s =>
    { s with txNext := (s.txNext + 1) % 2 ^ 32, waiting := s.waiting ++ [{ seq := s.txNext, typ, flags, stream, payload }] }
  d.rjFlush slot (d.sess slot).waiting.length

/-- An ACK message (R390): it takes no sequence number. -/
def Dev.rjAck (d : Dev) (slot : Nat) : Dev := d.rjWire slot 8 0 (d.sess slot).txNext 0 []

/-- ERR_INFO0 of the transport's codes (R400). -/
def rjInfo (slot stream : Nat) : Nat := slot % 8 * 2 ^ 29 + stream % 2 ^ 18

/-- The page of a transport code (Table 13-10). -/
def rjPage (code : Nat) : Nat :=
  if code = 0x0C01 then pgEth
  else if code = 0x0C04 ∨ code = 0x0C05 then pgStream
  else if code = 0x0C07 ∨ code = 0x0C08 ∨ code = 0x0C09 ∨ code = 0x0C10 ∨ code = 0x0C11 then pgPart
  else if code = 0x0C0E then pgProof
  else pgRailjor

/-- A refusal: the code on its page and a NACK that carries it (R379, R400). DESIGN CHOICE, log entry 63. -/
def Dev.rjNack (d : Dev) (slot code stream seq : Nat) : Dev :=
  let d := d.setError (rjPage code) code (rjInfo slot stream) seq
  d.rjSend slot 9 (rjFirst + rjLast) stream
    (natLe 2 code ++ natLe 2 0 ++ natLe 4 (rjInfo slot stream) ++ natLe 4 seq ++ natLe 4 0)

/-- A message of a handshake leaves on session 0, split to the MTU (R394). -/
def Dev.shakeSend (d : Dev) (peer : Peer) (typ handle : Nat) (body : List Byte) : Dev :=
  let room := d.reg pgEth 0x114 - (if peer.v6 then 40 else 20) - 40
  let n := (body.length + room - 1) / max 1 room
  (List.range (max 1 n)).foldl (fun d i =>
    let part := (body.drop (i * room)).take room
    let flags := (if i = 0 then rjFirst else 0) + (if n ≤ i + 1 then rjLast else 0)
    (d.send (.udp peer) (rjBytes typ flags 0 (i * room) 0 0 handle (d.reg pgRailjor 0x104) part)).txFrame) d

end Sys2Proof.Machine
end

