-- ==== Sys2Proof/Machine/Proofs.lean ====
section
/-!
DEFINITION. Sys2Proof/Machine/Proofs.lean: proofs: orders and conditions (R338–R341), hold, quiesce, arm and capture
(R342–R348), copy-on-write (R349–R354), generations and frames (R355–R358), the manifest (R359, R360), failures (R370).
-/
namespace Sys2Proof.Machine

/-! ### Registers and errors -/

/-- Offset of a register of partition p's PROOF set, and its word. -/
def proofReg (p off : Nat) : Nat := 0x200 + 0x100 * p + off
def Dev.prf (d : Dev) (p off : Nat) : Nat := d.reg pgProof (proofReg p off)

/-- An error of the proof engine (R374). -/
def Dev.proofError (d : Dev) (p code unit : Nat) : Dev :=
  let x := d.proof p
  let g := if x.phase = .copy ∨ x.phase = .sign ∨ x.phase = .restore then (d.gen x.slot).id else 0
  d.setError pgProof code (p * 2 ^ 30 + x.phase.code * 2 ^ 26 + unit % 64 * 2 ^ 20) g

/-- Stash extent i of partition p (R354): base and pages. The window registers show the one STASH_SEL names. -/
def stashKey (p i : Nat) : Nat := 0x800 + 0x100 * p + 16 * i
def Dev.stash (d : Dev) (p i : Nat) : Nat × Nat :=
  (d.reg64 pgProof (stashKey p i + 8), d.reg pgProof (stashKey p i) % 2 ^ 20)
/-- A stash extent that leaves the partition's mapped windows or overlaps the reserve (R354). -/
def Dev.stashBad (d : Dev) (p base n : Nat) : Bool :=
  n != 0 && !inRegions ((d.diesOf p).map fun c => (ddrBase + c * ddrWindow, d.ddrMapped c - (d.ddrReserve c).2)) base (n * pageBytes)
/-- The extents in use. -/
def Dev.stashes (d : Dev) (p : Nat) : List (Nat × Nat × Nat) :=
  (List.range 16).filterMap fun i => let e := d.stash p i; if e.2 = 0 then none else some (i, e)

/-- Stacks of a partition. -/
def Dev.stacksOf (d : Dev) (p : Nat) : List Nat := (d.diesOf p).flatMap fun c => [2 * c, 2 * c + 1]

/-- First page and pages of a stack's shadow reserve (R353). -/
def Dev.shadowBase (d : Dev) (st : Nat) : Nat := d.reg (pgHbmc st) 0x184 % 2 ^ 16
def Dev.shadowPages (d : Dev) (st : Nat) : Nat := d.reg (pgHbmc st) 0x188 % 2 ^ 16

/-- Some stack's reserve is too small or passes its end: that stack (R338, R353). -/
def Dev.badReserve (d : Dev) (p : Nat) : Option Nat :=
  (d.stacksOf p).find? fun st => decide (d.shadowPages st < 163 ∨ stackPages < d.shadowBase st + d.shadowPages st)

/-! ### Generations -/

/-- Slots of generations that hold frames: copying, signing, complete, importing. -/
def GenSt.retained (g : GenSt) : Bool := g.state == 1 || g.state == 2 || g.state == 3 || g.state == 5

/-- The slot of a generation number. -/
def Dev.genSlot (d : Dev) (id : Nat) : Option Nat :=
  (List.range 16).find? fun i => let g := d.gen i; g.state != 0 && g.id == id && id != 0

/-- Frames of window c that retained generations reference (R356). -/
def Dev.usedFrames (d : Dev) (c : Nat) : List Nat :=
  (List.range 16).flatMap fun i =>
    let g := d.gen i
    if g.retained then
      ((g.frames.filter fun f => f.win == c).map (·.frame)) ++ (if g.manWin = c then g.man else [])
    else []

/-- Free frames of window c, rising. -/
def Dev.freeFrames (d : Dev) (c : Nat) : List Nat :=
  let used := d.usedFrames c
  (List.range (d.reg pgProof (0x110 + 4 * c))).filter fun f => !used.contains f

/-- Address of frame f of window c (R356). -/
def Dev.frameAddr (d : Dev) (c f : Nat) : Nat := (d.ddrReserve c).1 + f * pageBytes

/-- Every image page of a die mask's stacks is marked DIRTY (R356, R370). -/
def Dev.dirtyAll (d : Dev) (mask : Nat) : Dev :=
  (setBits 4 mask).foldl (fun d c =>
    (d.modCow (2 * c) fun x => { x with dirty := { all := true } }).modCow (2 * c + 1) fun x =>
      { x with dirty := { all := true } }) d

/-- A generation leaves its slot; if it would have been a parent, the next proof copies everything (R356). -/
def Dev.dropGen (d : Dev) (i : Nat) : Dev :=
  let g := d.gen i
  let d := d.modGen i fun _ => {}
  let d := { d with drainQ := d.drainQ.filter (· != g.id) }
  if tget 0 d.parents g.mask = g.id ∧ g.id ≠ 0 then { d.dirtyAll g.mask with parents := tset 0 d.parents g.mask 0 } else d

/-- Retirable: COMPLETE, unpinned, not in use, not the parent given (R357). -/
def GenSt.retirable (g : GenSt) (mask parent : Nat) : Bool :=
  g.state == 3 && !g.pinned && g.use == 0 && g.mask == mask && g.id != parent

/-- The oldest of some slots by generation number (R355). -/
def Dev.oldestGen (d : Dev) (is : List Nat) : Option Nat :=
  is.foldl (fun b i => match b with
    | none => some i
    | some j => if serialLater 32 (d.gen i).id (d.gen j).id then some i else some j) none

/-- Retire the oldest retirable generation of a mask. -/
def Dev.retireOne (d : Dev) (mask parent : Nat) : Option Dev :=
  (d.oldestGen ((List.range 16).filter fun i => (d.gen i).retirable mask parent)).map d.dropGen

/-- The next generation number: 0 is skipped (R355). -/
def nextGen (n : Nat) : Nat := if (n + 1) % 2 ^ 32 = 0 then 1 else (n + 1) % 2 ^ 32

/-! ### The manifest (R359) -/

def align64 (n : Nat) : Nat := (n + 63) / 64 * 64

/-- A frame entry (Table 12-6). -/
def FrameEnt.bytes (f : FrameEnt) : List Byte :=
  natLe 1 f.kind ++ natLe 1 f.unit ++ natLe 2 f.slot ++ natLe 4 f.index ++ natLe 4 f.fgen ++ natLe 4 f.frame ++
  padTo 64 f.digest

/-- The sections of a generation but its signature: TYPE, COUNT, bytes (Table 12-5). -/
def GenSt.sections (g : GenSt) : List (Nat × Nat × List Byte) :=
  let fs (k : Nat) := g.frames.filter fun f => f.kind == k
  let sec (t k : Nat) := (t, (fs k).length, (fs k).flatMap FrameEnt.bytes)
  [sec 1 0, sec 2 1, sec 3 2, (4, g.records.length, g.records.flatMap fun r => r)] ++
  (if g.cold then [(5, g.tdir.length / 32, g.tdir)] else if (fs 3).isEmpty then [] else [sec 6 3])

/-- Bytes of the signature section. -/
def sigBytes : Nat := 0x1500

/-- First byte of the first section. -/
def secBase (n : Nat) : Nat := align64 (256 + 96 * n)

/-- Bytes of a manifest. -/
def GenSt.manLength (g : GenSt) : Nat :=
  let ss := g.sections
  secBase (ss.length + 1) + (ss.map fun s => align64 s.2.2.length).foldl (· + ·) 0 + sigBytes

/-- The manifest header (Table 12-3). -/
def GenSt.header (g : GenSt) (sections length : Nat) : List Byte :=
  let h := g.hdr
  padTo 256 (
    natLe 4 0x46504A48 ++ natLe 2 1 ++ natLe 1 (b2n g.cold) ++ natLe 1 h.flags ++ natLe 4 g.id ++ natLe 4 h.parent ++
    natLe 4 h.impr ++ natLe 4 h.step ++ natLe 2 h.pos ++ natLe 2 h.stepLen ++ natLe 4 h.period ++ natLe 8 h.cutTime ++
    natLe 8 h.armTime ++ natLe 4 h.node ++ natLe 1 (g.part * 64 + g.mask) ++ natLe 1 h.imprState ++ natLe 2 0 ++
    padTo 24 h.shape ++ natLe 4 sections ++ natLe 4 0 ++ natLe 8 length ++ padTo 64 h.firmware)

/-- The section table from an offset on. -/
def sectionTable : Nat → List (Nat × Nat × List Byte) → List Byte
  | off, [] => natLe 2 7 ++ natLe 2 0 ++ natLe 4 1 ++ natLe 8 off ++ natLe 8 sigBytes ++ natLe 8 0 ++ natLe 64 0
  | off, (t, n, bs) :: ss =>
    natLe 2 t ++ natLe 2 0 ++ natLe 4 n ++ natLe 8 off ++ natLe 8 bs.length ++ natLe 8 0 ++ padTo 64 (Config.shake256 bs 64) ++
    sectionTable (off + align64 bs.length) ss

/-- The manifest up to the start of its SIGNATURE section: what is signed (R360). -/
def GenSt.signed (g : GenSt) : List Byte :=
  let ss := g.sections
  let n := ss.length + 1
  g.header n g.manLength ++ padTo (secBase n - 256) (sectionTable (secBase n) ss) ++
  ss.flatMap fun s => padTo (align64 s.2.2.length) s.2.2

/-- The signature section (Table 12-9). -/
def signature (sig : List Byte) : List Byte :=
  padTo sigBytes (natLe 2 0x0065 ++ natLe 2 0 ++ natLe 4 1952 ++ natLe 4 3309 ++ natLe 4 0 ++
    padTo 64 (Config.shake256 Config.identityCert 64) ++ padTo 1952 Config.identityKey ++ padTo 3309 sig)

/-- Bytes laid into a generation's manifest frames. -/
def Dev.pokeManifest (d : Dev) (win : Nat) (frames : List Nat) (bs : List Byte) : Dev :=
  ((List.range frames.length).zip frames).foldl (fun d (i, f) =>
    d.poke (d.frameAddr win f) ((bs.drop (i * pageBytes)).take pageBytes)) d

/-! ### Records (Table 12-8) -/

/-- A record padded to whole 64 bytes. -/
def recordOf (rtype unit idx : Nat) (body : List Byte) : List Byte :=
  let n := align64 (8 + body.length)
  padTo n (natLe 1 rtype ++ natLe 1 unit ++ natLe 2 idx ++ natLe 4 n ++ body)

/-- A queued descriptor in a record. -/
def queuedBytes (desc : List Byte) (core seq : Nat) : List Byte := padTo 64 desc ++ natLe 2 core ++ natLe 2 0 ++ natLe 4 seq

/-- A word of partition p's IMPR set as it reads (Table 2-3). -/
def Dev.imprWord (d : Dev) (p off : Nat) : Nat :=
  let x := d.part p
  match off with
  | 0x00 => d.impr p 0 + b2n x.run
  | 0x34 => x.num
  | 0x38 => x.step
  | 0x3C => x.pos % 2 ^ 16 * 2 ^ 16 + x.m % 16 * 256 + min x.d 15 * 16 + x.state.code
  | 0x40 => x.tickTime % 2 ^ 32
  | 0x44 => x.tickTime / 2 ^ 32 % 2 ^ 32
  | 0x48 => x.nextTick % 2 ^ 32
  | 0x4C => x.nextTick / 2 ^ 32 % 2 ^ 32
  | _ => d.impr p off

/-- A list of flits or of bytes in a working buffer, with its length. -/
def countedBytes (bs : List Byte) : List Byte := natLe 4 bs.length ++ bs
def flitBytes (fs : List LnFlit) : List Byte :=
  natLe 4 fs.length ++ fs.flatMap fun f => natLe 1 f.kind ++ natLe 4 f.wordA ++ natLe 4 f.wordB ++ countedBytes f.payload

/-- Stream bytes in flits that have not been sent. A PERMUTE counts none. -/
def CollEnt.unsent (e : CollEnt) (fs : List LnFlit) : Nat := if e.op = 7 then 0 else (fs.flatMap (·.payload)).length

/-- The working buffer of a channel: what its run holds beside the counts of its record. Flits that its links have still to
send are the channel's (R346). -/
def CollRun.work (r : CollRun) : List Byte :=
  natLe 4 r.units ++ natLe 4 r.unitsUp ++ natLe 4 r.unitsDown ++ natLe 2 r.fail ++
  natLe 1 (b2n r.upReady + 2 * b2n r.downReady + 4 * b2n r.copied + 8 * b2n r.ready + 16 * b2n r.go + 32 * b2n r.told + 64 * b2n r.sent) ++
  natLe 1 0 ++
  natLe 4 r.tilesDone.length ++ (r.tilesDone.flatMap (natLe 4)) ++ countedBytes r.inUp ++ countedBytes r.inDown ++
  countedBytes r.pendUp ++ countedBytes r.pendDown ++ flitBytes r.upWait ++ flitBytes r.downWait ++
  flitBytes ((r.inFlits.filter (·.1)).map (·.2)) ++ flitBytes ((r.inFlits.filter (!·.1)).map (·.2))

/-- The records of a partition at its cut. -/
def Dev.proofRecords (d : Dev) (p : Nat) (cold : Bool) : List (List Byte) :=
  let dies := d.diesOf p
  let dmas := if cold then [] else dies.flatMap fun c => (List.range 16).map fun e =>
    let x := d.dma (dmaIdx c e)
    let js := x.running.toList ++ x.queue
    recordOf 1 c e (natLe 4 js.length ++ natLe 4 0 ++ natLe 8 x.done ++ js.flatMap fun j => queuedBytes j.desc j.core j.seq)
  let platens := (d.stacksOf p).map fun st =>
    let x := d.platen st
    let js := x.running.toList ++ x.queue
    recordOf 2 (st / 2) st (natLe 4 js.length ++ natLe 4 x.next ++ natLe 8 x.sp.toNat ++ natLe 8 x.sq.toNat ++
      natLe 8 (d.reg64 (pgPlaten st) 0x128) ++ ((List.range 128).flatMap fun i => natLe 4 (d.reg (pgPlaten st) (0x200 + 4 * i))) ++
      js.flatMap fun j => queuedBytes j.desc j.core j.seq)
  let colls := dies.flatMap fun c => (List.range 4).flatMap fun ch =>
    match tget none (d.coll c).chans ch with
    | none => []
    | some r =>
      let r := { r with upWait := d.runWaiting c r true ++ r.upWait, downWait := d.runWaiting c r false ++ r.downWait }
      let buf := r.work
      [recordOf 3 c ch (natLe 1 r.entry ++ natLe 1 r.arm ++ natLe 1 (b2n r.done) ++ natLe 1 0 ++ natLe 4 0 ++
        natLe 8 (r.sUp - r.e.unsent r.upWait) ++ natLe 8 r.rUp ++ natLe 8 (r.sDown - r.e.unsent r.downWait) ++ natLe 8 r.rDown ++ natLe 8 r.written ++ natLe 4 buf.length ++ natLe 4 0 ++
        padTo 128 r.ent ++ buf)]
  let links := (d.partLinks p).map fun n =>
    let creds := (d.coresOf p).flatMap fun k => (d.core k).galleys.filterMap fun (g, x) =>
      if x.en ∧ x.sink = 2 ∧ x.destLink = n then some (k, g, 0, x.credit)
      else if x.en ∧ x.src = 2 ∧ x.srcLink = n then some (k, g, 1, x.freed) else none
    let r (o : Nat) := d.reg (pgLink n) o
    recordOf 4 (n / 9) n (natLe 4 (r 0x10C) ++ natLe 1 (r 0x110) ++ natLe 1 (d.link n).state.code ++ natLe 2 0 ++
      natLe 4 (r 0x158) ++ natLe 4 (r 0x15C) ++ natLe 4 creds.length ++ natLe 4 0 ++
      creds.flatMap fun (k, g, dir, v) => natLe 2 k ++ natLe 1 g ++ natLe 1 dir ++ natLe 4 v)
  let impr := recordOf 5 p 0 ((List.range 32).flatMap fun i => natLe 4 (d.imprWord p (4 * i)))
  let ents := dies.map fun c => recordOf 6 c 0 ((List.range 64).flatMap fun e =>
    natLe 1 (tget 0 (d.coll c).arms e) ++ natLe 1 (tget 0 (d.coll c).kicks e))
  dmas ++ platens ++ colls ++ links ++ [impr] ++ ents

/-- What the generation holds of its cores beside their control images. -/
def Dev.snapshot (d : Dev) (p : Nat) : Table CoreSt :=
  (d.cores.filter fun x => d.ownsCore p x.1).map fun x => (x.1, x.2.kept)

/-! ### Orders (R338–R341) -/

/-- The conditions of a cold cut (R341), but the one that the tick ends a step. -/
def Dev.coldReady (d : Dev) (p : Nat) : Bool :=
  let dies := d.diesOf p
  ((d.coresOf p).all fun k =>
    let c := d.core k
    (c.galleys.all fun g => !g.2.en || g.2.occ == 0) && (c.lists.all fun l => l.2.state == .idle || l.2.state == .ended)) &&
  (d.vc2.all fun f => !d.ownsCore p f.core && !d.ownsCore p f.srcCore) &&
  ((d.partLinks p).all fun l =>
    let s := d.link l
    (s.waiting ++ s.retry ++ s.ahead ++ s.held).all fun f => f.kind != 1) &&
  (dies.all fun c =>
    let x := d.coll c
    (x.chans.all fun r => r.2.isNone) && x.kicks.isEmpty && x.ready.isEmpty &&
    ((List.range 16).all fun e => let y := d.dma (dmaIdx c e); y.queue.isEmpty && y.running.isNone)) &&
  ((d.stacksOf p).all fun st => let y := d.platen st; y.queue.isEmpty && y.running.isNone)

/-- A cut begins: the movers of the partition hold (R342), transfers at the unit they have come to. -/
def Dev.beginCut (d : Dev) (p : Nat) : Dev :=
  let d := (d.diesOf p).foldl (fun d c => (List.range 16).foldl (fun d e => d.dmaProgress c e) d) d
  (d.modProof p fun x => { x with phase := .quiesce, cutTime := d.time, prior := (d.part p).state.code }).modPart p fun x =>
    { x with moversHeld := true, released := false }

/-- A refused order. -/
def Dev.refuseOrder (d : Dev) (p code unit : Nat) : Dev := d.proofError p code unit

/-- A write of ORDER with GO (R338, R339). -/
def Dev.orderWrite (d : Dev) (p : Nat) (w : Word) : Dev :=
  let v := w.toNat
  if !bit v 0 then d
  else
    let x := d.part p
    let ph := (d.proof p).phase
    let busy := ph == .copy || ph == .sign
    let pending := ph == .ordered || ph == .quiesce || ph == .capture || ph == .restore
    let cold := bit v 1
    let set (b : Nat) (imm : Bool) (d : Dev) : Dev := d.modProof p fun y =>
      { y with phase := .ordered, cold, drain := bit v 2, pin := bit v 3, immediate := imm, b }
    let stopped := (x.state == .stopped || x.state == .halted) && !x.run
    if stopped && !busy then
      if x.claim ≠ 2 ∨ pending then d.refuseOrder p 0x0B01 0
      else match d.badReserve p with
        | some st => d.refuseOrder p 0x0B05 st
        | none =>
          if cold ∧ !(d.coldReady p && x.pos == 0) then d.refuseOrder p 0x0B03 0
          else (set x.num true d).beginCut p
    else
      let b := d.prf p 0
      let late := !serialLater 32 x.num b ||
        (b == (x.num + 1) % 2 ^ 32 && decide (x.nextTick ≤ d.time + d.guardNs p))
      if x.claim ≠ 2 ∨ !x.run ∨ pending ∨ late then d.refuseOrder p 0x0B01 0
      else if busy then d.refuseOrder p 0x0B02 0
      else match d.badReserve p with
        | some st => d.refuseOrder p 0x0B05 st
        | none => set b false d

/-- What the tick that begins impression NUM does for a pending order (R340–R342, R348): the cut begins, or the order is
withdrawn. -/
def Dev.cutHook (d : Dev) (p : Nat) (stepEnds : Bool) : Dev × Bool :=
  let x := d.proof p
  if x.phase ≠ .ordered ∨ x.b ≠ (d.part p).num then (d, false)
  else if x.cold ∧ !(stepEnds && d.coldReady p) then
    ((d.proofError p 0x0B03 0).modProof p fun x => { x with phase := .idle }, false)
  else (d.beginCut p, true)

/-- An order whose impression has passed when impressions start again is withdrawn. DEDUCED, log entry 60. -/
def Dev.dropPastOrder (d : Dev) (p : Nat) : Dev :=
  let x := d.proof p
  if x.phase = .ordered ∧ serialLater 32 (d.part p).num x.b = false then d.modProof p fun x => { x with phase := .idle } else d

/-! ### Release and failure -/

/-- Movers go on, held flits are delivered, and a halted partition shows its state (R346, R348). -/
def Dev.releaseMovers (d : Dev) (p : Nat) : Dev :=
  let d := d.modPart p fun x =>
    { x with moversHeld := false, released := true, state := if x.state = .pause then x.afterCut else x.state }
  let d := d.releaseLinks p
  let d := ((d.partLinks p).filter fun l => d.lnHome l == l).foldl Dev.drainAll d
  (d.diesOf p).foldl (fun d c => (List.range 4).foldl (fun d ch => d.pumpRun c ch) d) d

/-- Held writes whose pages wait no longer are performed, in order (R350). -/
def Dev.releaseHeld (d : Dev) (st : Nat) : Dev :=
  let hs := (d.cow st).held
  let d := d.modCow st fun x => { x with held := [] }
  hs.foldl (fun d h =>
    let ps := (pagesOf h.1 h.2.length).filter fun q => !d.inReserve st q
    if (d.cow st).mustHold ps then d.modCow st fun x => { x with held := x.held ++ [h] } else d.poke h.1 h.2) d

/-- The controllers of a partition leave copy-on-write; `again` marks the copy set DIRTY once more (R370). -/
def Dev.disarm (d : Dev) (p : Nat) (again : Bool) : Dev :=
  let d := { d with saveHold := d.saveHold.filter fun h => !(d.stacksOf p).contains (stackOf h.1) }
  (d.stacksOf p).foldl (fun d st =>
    (d.modCow st fun x =>
      { x with armed := false, shadow := []
               dirty := if !again then x.dirty else if x.copySet.all then { all := true }
                        else x.copySet.but.foldl PageSet.add x.dirty }).releaseHeld st) d

/-- A proof fails before a generation exists (R344, R357): the movers go on. -/
def Dev.proofFails (d : Dev) (p code unit : Nat) : Dev :=
  let d := ((d.proofError p code unit).bump pgProof (proofReg p 0x5C) 1).raise pgProof (8 * p + 3)
  (d.modProof p fun x => { x with phase := .idle }).releaseMovers p

/-- A generation in progress fails (R340, R358, R370): reason 1 CANCELLED, 2 ERROR, 3 RESET. -/
def Dev.genFails (d : Dev) (p reason code unit : Nat) : Dev :=
  let x := d.proof p
  let cutting := x.phase == .capture
  let d := if code = 0 then d else d.proofError p code unit
  let d := { d with signQ := d.signQ.filter (· != (0, p)) }
  let d := d.modGen x.slot fun g =>
    { g with state := 4, reason, code := code % 2 ^ 16, frames := [], man := [], pinned := false, snap := [], use := 0 }
  let d := (d.bump pgProof (proofReg p 0x5C) 1).raise pgProof (8 * p + 3)
  let d := (d.modProof p fun x => { x with phase := .idle }).disarm p true
  if cutting then d.releaseMovers p else d

/-- PROOF_CANCEL (R340): an order that stands while a restore runs is withdrawn too. DEDUCED, log entry 60. -/
def Dev.proofCancel (d : Dev) (p : Nat) (w : Word) : Dev :=
  if !bit w.toNat 0 then d
  else match (d.proof p).phase with
    | .ordered => d.modProof p fun x => { x with phase := .idle }
    | .restore => d.modProof p fun x => { x with keep := false }
    | .copy | .sign => d.genFails p 1 0 0
    | _ => d

/-! ### Quiesce and arm (R344, R345, R355–R357) -/

/-- Links that an enabled galley or a busy channel of the partition names (R344). -/
def Dev.usedLinks (d : Dev) (p : Nat) : List Nat :=
  ((d.coresOf p).flatMap fun k => (d.core k).galleys.flatMap fun (_, x) =>
    if !x.en then [] else (if x.src = 2 then [x.srcLink] else []) ++ (if x.sink = 2 then [x.destLink] else [])) ++
  ((d.diesOf p).flatMap fun c => (d.coll c).chans.flatMap fun (_, r) =>
    match r with
    | some r => if r.done then [] else ([r.e.up, r.e.down].filterMap (d.collPort c)).filter (· < 36)
    | none => [])

/-- Quiesce is complete (R344). DEDUCED, log entry 60. -/
def Dev.quiesced (d : Dev) (p : Nat) : Bool :=
  let b := (d.proof p).b
  ((d.usedLinks p).all fun n =>
    d.lnActive n && (!d.groupLink p n || !serialLater 32 (d.reg (pgLink (d.lnHome n)) 0x15C) b)) &&
  !d.anyHeld p && (d.vc2.all fun f => !d.ownsCore p f.srcCore) && (d.diesOf p).all fun c => (d.coll c).inbox.isEmpty

/-- Save image slot of a core within its stack, and the stack (R346). -/
def saveSlot (k : Nat) : Nat := k / 48 % 12 % 6 * 24 + k % 48 % 24
def saveStack (k : Nat) : Nat := 2 * coreDie k + k / 48 % 12 / 6

/-- First byte of the save area of a stack; of a core's case slot and control slot (R353). -/
def Dev.saveArea (d : Dev) (st : Nat) : Nat := st * stackBytes + d.shadowBase st * pageBytes
def Dev.caseSlot (d : Dev) (k : Nat) : Nat := d.saveArea (saveStack k) + saveSlot k * pageBytes
def Dev.controlSlot (d : Dev) (k : Nat) : Nat :=
  d.saveArea (saveStack k) + (144 + saveSlot k / 8) * pageBytes + saveSlot k % 8 * 0x40000

/-- New frames are taken from the front of a window's free list for a list of entries of that window.
DESIGN CHOICE, log entry 61. -/
def takeFrames (gen win : Nat) (free : List Nat) (es : List FrameEnt) : List FrameEnt :=
  (es.zip free).map fun (e, f) => { e with fgen := gen, win, frame := f }

/-- The entries of window c that a new generation needs, without frames: pages of its stacks' copy sets, cases, control
frames (one entry a frame, its first core), stash pages. -/
def Dev.newEntries (d : Dev) (p c : Nat) (cold : Bool) : List FrameEnt × List FrameEnt × List FrameEnt × List FrameEnt :=
  let pages := [2 * c, 2 * c + 1].flatMap fun st =>
    ((d.imagePages st).filter (d.cow st).copySet.has).map fun q => ({ kind := 0, unit := st, index := q } : FrameEnt)
  let cases := (dieCores c).map fun k => ({ kind := 1, unit := c, index := k } : FrameEnt)
  let ctl := (List.range 36).map fun i => ({ kind := 2, unit := c, index := i } : FrameEnt)
  let stash := if cold then [] else (d.stashes p).flatMap fun (i, base, n) =>
    if (base - ddrBase) / ddrWindow = c then (List.range n).map fun q => ({ kind := 3, unit := c, index := i * 2 ^ 16 + q } : FrameEnt)
    else []
  (pages, cases, ctl, stash)

/-- The copy sets are frozen: the DIRTY pages, and those without a frame of the parent (R345, R356). -/
def Dev.freezeSets (d : Dev) (p : Nat) (parent : GenSt) : Dev :=
  (d.stacksOf p).foldl (fun d st =>
    let have_ := (parent.frames.filter fun f => f.kind == 0 && f.unit == st).map (·.index)
    let lacking := if parent.id = 0 then [] else (d.imagePages st).filter fun q => !have_.contains q
    d.modCow st fun x =>
      { x with armed := true, copySet := if parent.id = 0 then { all := true } else lacking.foldl PageSet.add x.dirty
               dirty := {}, shadow := [], done := [] }) d

/-- Free slot for a new generation: the lowest. DESIGN CHOICE, log entry 61. -/
def Dev.freeSlot (d : Dev) : Option Nat := (List.range 16).find? fun i => (d.gen i).state == 0

/-- Lay out the frames of a new generation from the free frames of each window: none when they do not fit (R356, R357).
DESIGN CHOICE, log entry 61. -/
def Dev.layFrames (d : Dev) (p : Nat) (g : GenSt) (parent : GenSt) : Option GenSt :=
  let dies := d.diesOf p
  let win := dies.headD 0
  let parts : List (Nat × Nat × List Nat × List FrameEnt) := dies.map fun c =>
    let r := d.newEntries p c g.cold
    let es := r.1 ++ r.2.1 ++ r.2.2.1 ++ r.2.2.2
    let fr := d.freeFrames c
    (c, es.length, fr, takeFrames g.id c fr es)
  let got := parts.flatMap fun x => x.2.2.2
  let old := (d.stacksOf p).flatMap fun st => parent.frames.filter fun f =>
    f.kind == 0 && f.unit == st && !(d.cow st).copySet.has f.index && !d.inReserve st f.index
  let pages := (d.stacksOf p).flatMap fun st =>
    ((got ++ old).filter fun f => f.kind == 0 && f.unit == st).mergeSort (fun x y => decide (x.index ≤ y.index))
  let cases := ((got.filter fun f => f.kind == 1).mergeSort fun x y => decide (x.index ≤ y.index))
  let ctl := cases.filterMap fun x =>
    let k := x.index
    (got.find? fun f => f.kind == 2 && f.unit == coreDie k && f.index == saveStack k % 2 * 18 + saveSlot k / 8).map fun f =>
      { f with slot := saveSlot k % 8, index := k }
  let g := { g with frames := pages ++ cases ++ ctl ++ got.filter fun f : FrameEnt => f.kind == 3 }
  let tdir := if g.cold then 32 * d.prf p 0x24 else 0
  let sized : GenSt := { g with tdir := List.replicate tdir 0#8 }
  let need := (sized.manLength + pageBytes - 1) / pageBytes
  let used := match parts.find? fun x => x.1 == win with | some x => x.2.1 | none => 0
  let free := (d.freeFrames win).drop used
  if parts.all (fun x => decide (x.2.1 ≤ x.2.2.1.length)) && decide (need ≤ free.length) then
    some { g with manWin := win, man := free.take need }
  else none

/-- HUB_ID FAMILY, GRID, DIES, ARRAYS, CASE and HBM (Table 1-10). -/
def hubShape : List Byte := [0x4A561152, 0x00180030, 0x04020218, 0x40204020, 0x00100800, 0x08000050].flatMap (natLe 4)

/-- The generation a cut begins. -/
def Dev.newGen (d : Dev) (x : ProofSt) (p : Nat) (debug : Bool) (fw : List Byte) : GenSt :=
  let mask := (d.diesOf p).foldl (fun m c => m + 2 ^ c) 0
  let y := d.part p
  { id := d.genNext, state := 1, cold := x.cold, mask, part := p, pinned := x.pin, drain := x.drain
    hdr :=
      { flags := (if !x.cold ∧ !(d.stashes p).isEmpty then 128 else 0) + (if x.immediate then 64 else 0) + (if debug then 32 else 0)
        parent := tget 0 d.parents mask, impr := x.b, step := y.step, pos := y.pos, stepLen := d.stepLen p
        period := d.period p, cutTime := x.cutTime, armTime := d.time, node := d.nodeId ((d.diesOf p).headD 0)
        imprState := x.prior
        shape := hubShape, firmware := fw }
    records := d.proofRecords p x.cold, snap := d.snapshot p }

/-- Retire and try again until the generation fits (R357). -/
def Dev.fitGen (d : Dev) (p : Nat) (g parent : GenSt) : Nat → Dev × Option GenSt
  | 0 => (d, none)
  | n + 1 =>
    match d.layFrames p g parent with
    | some g => (d, some g)
    | none => match d.retireOne g.mask parent.id with
      | some d => d.fitGen p g parent n
      | none => (d, none)

/-- QUIESCE_DONE: the arm (R344, R345, R355–R358). `debug` and `fw` are the security processor's. -/
def Dev.quiesceDone (d : Dev) (p : Nat) (debug : Bool) (fw : List Byte) : Dev :=
  let x := d.proof p
  if x.phase ≠ .quiesce ∨ !d.quiesced p then d
  else
    let d := (d.stacksOf p).foldl Dev.platenProgress d
    let g := d.newGen x p debug fw
    let parent := match d.genSlot g.hdr.parent with | some i => d.gen i | none => {}
    let g := { g with hdr := { g.hdr with parent := parent.id } }
    let saved := d.cows
    let d1 := d.freezeSets p parent
    match d1.freeSlot with
    | none => { d1 with cows := saved }.proofFails p 0x0B05 0
    | some i =>
      match d1.fitGen p g parent 17 with
      | (d2, none) => { d2 with cows := saved }.proofFails p 0x0B05 0
      | (d2, some g) =>
        let d := { d2 with genNext := nextGen d2.genNext }.modGen i fun _ => g
        let d := (d.stacksOf p).foldl (fun d st => d.setReg (pgHbmc st) 0x198 0) d
        let d := { d with saveHold := d.saveHold ++ (d.stacksOf p).map fun st => (d.saveArea st, 162 * pageBytes) }
        -- the stash extents stand as they are now, whatever is written to them later (R354)
        let d := g.frames.foldl (fun d f =>
          if f.kind = 3 then
            let a := (d.stash p (f.index / 2 ^ 16)).1 + f.index % 2 ^ 16 * pageBytes
            d.moveBytes a (d.frameAddr f.win f.frame) pageBytes
          else d) d
        let d := d.pokeManifest g.manWin (g.man.take 1) (g.header 0 0)
        d.modProof p fun x => { x with phase := .capture, slot := i }

/-- QUIESCE_TIMEOUT (R344). -/
def Dev.quiesceTimeout (d : Dev) (p : Nat) : Dev :=
  let x := d.proof p
  if x.phase ≠ .quiesce then d
  else
    let bad := ((d.usedLinks p).find? fun n => !d.lnActive n).getD 0
    (d.advanceTo (x.cutTime + 1000 * d.prf p 0x14)).proofFails p 0x0B04 bad

/-! ### Capture and copy (R346, R351) -/

/-- A directory entry whose range leaves the image (R359). -/
def Dev.tdirBad (d : Dev) (p : Nat) (b : List Byte) : Bool :=
  let a := field b 0x10 8 % 2 ^ 48
  let n := field b 0x0C 4
  let st := stackOf a
  !(d.stacksOf p).contains st || decide ((st + 1) * stackBytes < a + n) || (pagesOf a n).any (d.inReserve st)

/-- CAPTURE_DONE (R346, R347). DESIGN CHOICE, log entry 61. -/
def Dev.captureDone (d : Dev) (p : Nat) : Dev :=
  let x := d.proof p
  if x.phase ≠ .capture then d
  else
    let g := d.gen x.slot
    let dir := d.reg64 pgProof (proofReg p 0x28) % 2 ^ 48
    let n := d.prf p 0x24
    let tdir := if x.cold then d.read dir (32 * n) else []
    if x.cold && (List.range n).any (fun i => d.tdirBad p ((tdir.drop (32 * i)).take 32)) then
      -- no generation: the number is returned, and the copy sets are dirty again
      let d := { d with genNext := if d.genNext = nextGen g.id then g.id else d.genNext }
      ((d.modGen x.slot fun _ => {}).disarm p true).proofFails p 0x0B05 0
    else
      let d := ((d.diesOf p).flatMap dieCores).foldl (fun d k =>
        (d.moveBytes (caseBase k) (d.caseSlot k) caseBytes).poke (d.controlSlot k) (d.controlImage k)) d
      let d := d.modGen x.slot fun g => { g with tdir }
      let d := (d.modProof p fun x => { x with phase := .copy }).raise pgProof (8 * p)
      d.releaseMovers p

/-- A stack's copier: the page it writes next (R351). -/
def Dev.nextPage (d : Dev) (st : Nat) : Option Nat :=
  let x := d.cow st
  match leastOf (x.shadow.map (·.1)) with
  | some q => some q
  | none => if !x.armed then none else (d.imagePages st).find? x.pending

/-- The partition whose proof copies a stack. -/
def Dev.copyingPart (d : Dev) (st : Nat) : Option Nat :=
  match (d.die (st / 2)).part with
  | some p => if (d.proof p).phase = .capture ∨ (d.proof p).phase = .copy then some p else none
  | none => none

/-- Address of a shadow slot of a stack (R353). -/
def Dev.shadowAddr (d : Dev) (st slot : Nat) : Nat := d.saveArea st + (162 + slot) * pageBytes

/-- COPIER_PAGE_WRITTEN (R351, R370). DESIGN CHOICE, log entry 61. -/
def Dev.copierPage (d : Dev) (st q : Nat) : Dev :=
  match d.copyingPart st with
  | none => d
  | some p =>
    if d.nextPage st ≠ some q then d
    else
      let x := d.cow st
      let src := match x.shadow.find? fun s => s.1 == q with
        | some s => d.shadowAddr st s.2
        | none => st * stackBytes + q * pageBytes
      let g := d.gen (d.proof p).slot
      match g.frames.find? fun f => f.kind == 0 && f.unit == st && f.index == q && f.fgen == g.id with
      | none => d
      | some f =>
        match d.storedBad src pageBytes with
        | some u => (d.noteUncorr u).genFails p 2 0x0B06 st
        | none =>
          let d := d.moveBytes src (d.frameAddr f.win f.frame) pageBytes
          let d := d.modCow st fun x => { x with shadow := x.shadow.filter fun s => s.1 != q, done := insertNat q x.done }
          d.releaseHeld st

/-- SHADOW_COPY_DONE (R350): the page a held write waits for is copied to the lowest free shadow slot. -/
def Dev.shadowCopy (d : Dev) (st q : Nat) : Dev :=
  let x := d.cow st
  if !x.pending q || !(x.held.any fun h => (pagesOf h.1 h.2.length).contains q) then d
  else
    match (List.range (d.shadowPages st - 162)).find? fun i => !x.shadow.any fun s => s.2 == i with
    | none => (d.bump (pgHbmc st) 0x19C 1).raise (pgHbmc st) 3
    | some i =>
      let src := st * stackBytes + q * pageBytes
      match d.storedBad src pageBytes, d.copyingPart st with
      | some u, some p => (d.noteUncorr u).genFails p 2 0x0B06 st
      | _, _ =>
        let d := d.moveBytes src (d.shadowAddr st i) pageBytes
        let d := (d.modCow st fun x => { x with shadow := tset (2 ^ 16) x.shadow q i }).bump (pgHbmc st) 0x198 1
        d.releaseHeld st

/-- Copy one frame of the save area to its place in DDR5. -/
def Dev.copySave (d : Dev) (f : FrameEnt) : Dev :=
  let t := d.frameAddr f.win f.frame
  if f.kind = 1 then d.moveBytes (d.caseSlot f.index) t pageBytes
  else if f.kind = 2 then
    d.moveBytes (d.controlSlot f.index) (t + f.slot * 0x40000) 0x40000
  else d

/-- Digest of an entry's frame or control image (R360). -/
def Dev.frameDigest (d : Dev) (f : FrameEnt) : List Byte :=
  let t := d.frameAddr f.win f.frame
  if f.kind = 2 then Config.shake256 (d.read (t + f.slot * 0x40000) 0x40000) 64 else Config.shake256 (d.read t pageBytes) 64

/-- COPY_DONE (R351, R358): every page is written; save images follow, and the manifest is written for signing. -/
def Dev.copyDone (d : Dev) (p : Nat) : Dev :=
  let x := d.proof p
  if x.phase ≠ .copy ∨ (d.stacksOf p).any (fun st => (d.nextPage st).isSome) then d
  else
    let g := d.gen x.slot
    match ((d.stacksOf p).find? fun st => (d.storedBad (d.saveArea st) (162 * pageBytes)).isSome) with
    | some st => d.genFails p 2 0x0B06 st
    | none =>
      let d := g.frames.foldl Dev.copySave d
      let d := d.disarm p false
      let frames := g.frames.map fun f => if f.fgen = g.id then { f with digest := d.frameDigest f } else f
      let g := { g with frames }
      let g := { g with state := 2, manifest := g.signed }
      let d := (d.modGen x.slot fun _ => g).modProof p fun x => { x with phase := .sign }
      let d := { d with signQ := d.signQ ++ [(0, p)] }
      d.pokeManifest g.manWin g.man g.manifest

/-! ### Completion, drain and retention (R357, R360–R362) -/

/-- Retire generations beyond RETAIN of a mask, oldest first. DESIGN CHOICE, log entry 61. -/
def Dev.retain (d : Dev) (mask parent keep : Nat) : Nat → Dev
  | 0 => d
  | n + 1 =>
    if ((List.range 16).filter fun i => let g := d.gen i; g.state == 3 && g.mask == mask).length ≤ keep then d
    else match d.retireOne mask parent with
      | some d => d.retain mask parent keep n
      | none => d

/-- MANIFEST_SIGNED (R358, R360): `off` is set where the security processor signs nothing (R435); an empty signature is a
signing that failed (R436). -/
def Dev.manifestSigned (d : Dev) (p : Nat) (sig : List Byte) (off : Bool) : Dev :=
  let x := d.proof p
  if x.phase ≠ .sign ∨ d.signQ.head? ≠ some (0, p) then d
  else if off ∨ sig.isEmpty then d.genFails p 2 0x0B07 0
  else
    let d := { d with signQ := d.signQ.tail }
    let g := d.gen x.slot
    let bs := g.manifest ++ signature sig
    let d := d.pokeManifest g.manWin g.man bs
    let d := d.modGen x.slot fun g => { g with state := 3, manifest := bs }
    let d := { d with parents := tset 0 d.parents g.mask g.id }
    let n := tget 0 d.sinceDrain g.mask + 1
    let every := d.prf p 0x1C % 2 ^ 16
    let drains := g.drain || (every != 0 && decide (every ≤ n))
    let d := { d with sinceDrain := tset 0 d.sinceDrain g.mask (if drains then 0 else n)
                      drainQ := if drains then d.drainQ ++ [g.id] else d.drainQ }
    let d := ((d.setReg pgProof (proofReg p 0x10) g.id).bump pgProof (proofReg p 0x58) 1).raise pgProof (8 * p + 1)
    (d.modProof p fun x => { x with phase := .idle }).retain g.mask g.id (d.prf p 0x18 % 8) 16

end Sys2Proof.Machine
end

