-- ==== Sys2Proof/Machine/Import.lean ====
section
/-!
DEFINITION. Sys2Proof/Machine/Import.lean: a manifest read back (R359, R365): its fields, frame entries and records, its
signature, and what its records hold of engines.
-/
namespace Sys2Proof.Machine

/-! ### Sections of a manifest -/

/-- The section table entries: TYPE, COUNT, OFFSET, LENGTH. -/
def manSections (b : List Byte) : List (Nat × Nat × Nat × Nat) :=
  (List.range (min 7 (field b 0x50 4))).map fun i =>
    let o := 256 + 96 * i
    (field b o 2, field b (o + 4) 4, field b (o + 8) 8, field b (o + 16) 8)

/-- COUNT and bytes of the section of a type. -/
def manSection (b : List Byte) (t : Nat) : Nat × List Byte :=
  match (manSections b).find? fun s => s.1 == t with
  | some s => (s.2.1, (b.drop s.2.2.1).take s.2.2.2)
  | none => (0, [])

/-- The manifest's signature verifies with its public key, whose certificate chains to the Kereapor root (R360, R365). -/
def manVerified (b : List Byte) : Bool :=
  field b 0 4 == 0x46504A48 && field b 4 2 == 1 && field b 0x58 8 == b.length &&
  (match (manSections b).find? fun s => s.1 == 7 with
   | none => false
   | some s =>
     let g := b.drop s.2.2.1
     let key := (g.drop 0x50).take 1952
     field g 0 2 == 0x65 && Config.keyChains ((g.drop 0x10).take 64) key &&
     Config.mldsa65Verify key (b.take s.2.2.1) [0x48#8, 0x4A#8, 0x2D#8, 0x50#8, 0x52#8, 0x4F#8, 0x4F#8, 0x46#8]
       ((g.drop 0x7F0).take 3309))

/-- A frame entry of a manifest; its window is that of the die of its unit. -/
def FrameEnt.parse (b : List Byte) : FrameEnt :=
  let kind := field b 0 1
  let unit := field b 1 1
  { kind, unit, slot := field b 2 2, index := field b 4 4, fgen := field b 8 4, frame := field b 0xC 4
    win := if kind = 0 then unit / 2 else unit, digest := (b.drop 0x10).take 64 }

/-- Frame entries of a section. -/
def manFrames (b : List Byte) (t : Nat) : List FrameEnt :=
  let s := manSection b t
  (List.range s.1).map fun i => FrameEnt.parse ((s.2.drop (80 * i)).take 80)

/-- Records cut by their LENGTH. -/
def cutRecords : Nat → List Byte → List (List Byte)
  | 0, _ => []
  | n + 1, b => let len := max 64 (field b 4 4); b.take len :: cutRecords n (b.drop len)

/-- The generation a manifest describes, as it arrives. -/
def GenSt.ofManifest (b : List Byte) : GenSt :=
  let recs := manSection b 4
  { id := field b 8 4, state := 5, cold := field b 6 1 == 1, mask := field b 0x34 1 % 16, part := field b 0x34 1 / 64
    hdr :=
      { flags := field b 7 1, parent := field b 0xC 4, impr := field b 0x10 4, step := field b 0x14 4, pos := field b 0x18 2
        stepLen := field b 0x1A 2, period := field b 0x1C 4, cutTime := field b 0x20 8, armTime := field b 0x28 8
        node := field b 0x30 4, imprState := field b 0x35 1, shape := (b.drop 0x38).take 24
        firmware := (b.drop 0x60).take 64 }
    frames := manFrames b 1 ++ manFrames b 2 ++ manFrames b 3 ++ manFrames b 6
    records := cutRecords recs.1 recs.2, tdir := (manSection b 5).2, manifest := b }

/-! ### Engines from records (Table 12-8) -/

/-- Queued entries of a record: descriptor, core and sequence number. -/
def queuedOf (n : Nat) (b : List Byte) : List (List Byte × Nat × Nat) :=
  (List.range n).map fun i =>
    let e := (b.drop (72 * i)).take 72
    (e.take 64, field e 64 2, field e 68 4)

/-- A counted byte list, and what follows it. -/
def takeBytes (b : List Byte) : List Byte × List Byte := ((b.drop 4).take (field b 0 4), b.drop (4 + field b 0 4))

/-- `n` flits, and what follows them. -/
def takeFlits : Nat → List Byte → List LnFlit × List Byte
  | 0, b => ([], b)
  | n + 1, b =>
    let r := takeBytes (b.drop 9)
    let t := takeFlits n r.2
    ({ kind := field b 0 1, wordA := field b 1 4, wordB := field b 5 4, payload := r.1 } :: t.1, t.2)

/-- A run from its record. -/
def CollRun.ofRecord (b : List Byte) : CollRun :=
  let h := b.drop 8
  let w := (h.drop 184).take (field h 48 4)
  let n := field w 16 4
  let x1 := takeBytes (w.drop (20 + 4 * n))
  let x2 := takeBytes x1.2
  let x3 := takeBytes x2.2
  let x4 := takeBytes x3.2
  let f1 := takeFlits (field x4.2 0 4) (x4.2.drop 4)
  let f2 := takeFlits (field f1.2 0 4) (f1.2.drop 4)
  let g1 := takeFlits (field f2.2 0 4) (f2.2.drop 4)
  let g2 := takeFlits (field g1.2 0 4) (g1.2.drop 4)
  let fl := field w 14 1
  let ent := (h.drop 56).take 128
  { entry := field h 0 1, arm := field h 1 1, done := field h 2 1 == 1, ent
    sUp := field h 8 8 + (CollEnt.parse ent).unsent f1.1, rUp := field h 16 8
    sDown := field h 24 8 + (CollEnt.parse ent).unsent f2.1, rDown := field h 32 8, written := field h 40 8
    units := field w 0 4, unitsUp := field w 4 4, unitsDown := field w 8 4, fail := field w 12 2
    upReady := bit fl 0, downReady := bit fl 1, copied := bit fl 2, ready := bit fl 3, go := bit fl 4, told := bit fl 5
    sent := bit fl 6, inFlits := g1.1.map (fun f => (true, f)) ++ g2.1.map fun f => (false, f)
    tilesDone := wordsOf 4 n (w.drop 20), inUp := x1.1, inDown := x2.1, pendUp := x3.1, pendDown := x4.1
    upWait := f1.1, downWait := f2.1 }

/-- Put one record into what a generation holds. -/
def Snap.addRecord (s : Snap) (r : List Byte) : Snap :=
  let c := field r 1 1
  let i := field r 2 2
  let b := r.drop 8
  match field r 0 1 with
  | 1 =>
    let queue : List DmaJob := (queuedOf (field b 0 4) (b.drop 16)).map fun x =>
      { core := x.2.1, seq := x.2.2, desc := x.1, bg := dBg x.1 }
    { s with dmas := tset {} s.dmas (dmaIdx c i) { done := field b 8 8, queue } }
  | 2 =>
    let words := (List.range 128).foldl (fun t j =>
      tset 0#32 t (regKey (pgPlaten i) (0x200 + 4 * j)) (BitVec.ofNat 32 (field b (32 + 4 * j) 4))) s.regs
    let seeds := tset 0#32 (tset 0#32 words (regKey (pgPlaten i) 0x128) (BitVec.ofNat 32 (field b 24 4)))
      (regKey (pgPlaten i) 0x12C) (BitVec.ofNat 32 (field b 28 4))
    let queue : List PlatenJob := (queuedOf (field b 0 4) (b.drop 544)).map fun x => { core := x.2.1, seq := x.2.2, desc := x.1 }
    let sp : F64 := BitVec.ofNat 64 (field b 8 8)
    let sq : F64 := BitVec.ofNat 64 (field b 16 8)
    { s with regs := seeds, platens := tset {} s.platens i { next := field b 4 4, sp, sq, queue } }
  | 3 =>
    let y := tget {} s.colls c
    { s with colls := tset {} s.colls c { y with chans := tset none y.chans i (some (CollRun.ofRecord r)) } }
  | 4 =>
    let s := { s with partners := s.partners ++ [(i, field b 0 4 * 256 + field b 4 1)] }
    (List.range (field b 16 4)).foldl (fun s j =>
      let e := b.drop (24 + 8 * j)
      let k := field e 0 2
      let g := field e 2 1
      { s with cores := tset {} s.cores k ((tget {} s.cores k).modGalley g fun x =>
          if field e 3 1 = 0 then { x with credit := field e 4 4 } else { x with freed := field e 4 4 }) }) s
  | 6 =>
    let y := tget {} s.colls c
    let f (o : Nat) : Table Nat := tableOf 0 ((List.range 64).map fun e => field b (2 * e + o) 1)
    { s with colls := tset {} s.colls c { y with arms := f 0, kicks := f 1 } }
  | _ => s

/-- What a generation holds: its control images first, then its records. DESIGN CHOICE, log entry 62. -/
def Dev.snapOf (d : Dev) (g : GenSt) : Snap :=
  let s : Snap := (g.frames.filter fun f => f.kind == 2).foldl (fun s f =>
    let b := d.read (d.frameAddr f.win f.frame + f.slot * 0x40000) 0x40000
    let r := coreOfImage f.index g.hdr.impr (fun a => d.read a 64) b
    { s with cores := tset {} s.cores f.index r.1, regs := r.2.foldl (fun t x => tset 0#32 t x.1 x.2) s.regs }) {}
  g.records.foldl Snap.addRecord s

end Sys2Proof.Machine
end

