-- ==== Sys2Proof/Machine/Restore.lean ====
section
/-!
DEFINITION. Sys2Proof/Machine/Restore.lean: the generation slots' control register (R371), drains (R361, R362, R388) and
restores (R363–R368).
-/
namespace Sys2Proof.Machine

/-! ### GEN_CTL -/

/-- The selected generation slot. -/
def Dev.genSel (d : Dev) : Nat := d.reg pgProof 0x130 % 16

/-- PIN and UNPIN act on a COMPLETE generation. -/
def Dev.genPinned (d : Dev) (on : Bool) : Dev :=
  d.modGen d.genSel fun g => if g.state = 3 then { g with pinned := on } else g

/-- DELETE: refused when pinned or in use, or while the generation is being made. -/
def Dev.genDelete (d : Dev) : Dev :=
  let g := d.gen d.genSel
  if g.state = 0 then d
  else if g.pinned ∨ g.use ≠ 0 ∨ (g.state ≠ 3 ∧ g.state ≠ 4) then d.setError pgProof 0x0B0E 0 g.id
  else d.dropGen d.genSel

/-- DRAIN_NOW: the drain waits its turn (R361). -/
def Dev.genDrain (d : Dev) : Dev :=
  let g := d.gen d.genSel
  if g.state = 3 ∧ ¬ d.drainQ.contains g.id then { d with drainQ := d.drainQ ++ [g.id] } else d

/-- A write of GEN_CTL. -/
def Dev.genCtl (d : Dev) (v : Nat) : Dev :=
  let d := if bit v 0 then d.genPinned true else d
  let d := if bit v 1 then d.genPinned false else d
  let d := if bit v 2 then d.genDelete else d
  if bit v 3 then d.genDrain else d

/-! ### Drains (R361, R362, R388) -/

/-- The distinct frames of a generation in the order its entries name them: window and frame. -/
def GenSt.distinct (g : GenSt) : List (Nat × Nat) := (g.frames.map fun f => (f.win, f.frame)).eraseDups

/-- Bytes of a generation's stream. -/
def GenSt.streamLen (g : GenSt) : Nat := g.manifest.length + g.distinct.length * pageBytes

/-- At most `n` bytes of a generation's stream from offset `o`, of the manifest or of one frame. -/
def Dev.streamBytes (d : Dev) (g : GenSt) (o n : Nat) : List Byte :=
  let m := g.manifest.length
  if o < m then (g.manifest.drop o).take n
  else
    let i := (o - m) / pageBytes
    let r := (o - m) % pageBytes
    match g.distinct[i]? with
    | none => []
    | some (w, f) => d.read (d.frameAddr w f + r) (min n (pageBytes - r))

/-- Payload bytes a Railjor message to a peer holds (R378). -/
def Dev.rjRoom (d : Dev) (slot : Nat) : Nat := d.reg pgEth 0x114 - (if (d.sess slot).peer.v6 then 40 else 20) - 40

/-- The drain sends while its session's window is open. DESIGN CHOICE, log entry 63. -/
def Dev.drainPump (d : Dev) : Nat → Dev
  | 0 => d
  | n + 1 =>
    match d.drain with
    | none => d
    | some x =>
      let s := d.sess x.session
      match d.genSlot x.gen with
      | none => d
      | some i =>
        if x.total ≤ x.off ∨ !s.windowOpen then d
        else
          let bs := d.streamBytes (d.gen i) x.off (d.rjRoom x.session - 16)
          let off := x.off + bs.length
          let d := { d with drain := some { x with off } }
          (d.rjSend x.session 7 0 0 (natLe 4 x.gen ++ natLe 4 (b2n (decide (x.total ≤ off))) ++ natLe 8 x.off ++ bs)).drainPump n

/-- Messages a drain can send at once. DESIGN CHOICE, log entry 63. -/
def drainFuel : Nat := 4096

/-- The drain ends: what it held is released. -/
def Dev.drainOver (d : Dev) (done : Bool) : Dev :=
  match d.drain with
  | none => d
  | some x =>
    let d := { d with drain := none }
    match d.genSlot x.gen with
    | none => d
    | some i =>
      let p := (d.gen i).part
      let d := d.modGen i fun g => { g with use := 0, pinned := false, drained := done }
      if done then d.raise pgProof (8 * p + 2)
      else d.setError pgProof 0x0B0D (p * 2 ^ 30 + (d.proof p).phase.code * 2 ^ 26) x.gen

/-- PROOF_DRAIN_START (R361): the first generation that waits, one drain at a time. -/
def Dev.drainStart (d : Dev) : Dev :=
  match d.drain, d.drainQ with
  | none, id :: rest =>
    let d := { d with drainQ := rest }
    (match d.genSlot id with
    | none => d
    | some i =>
      let g := d.gen i
      let slot := d.prf g.part 0x20 % 8
      let d := (d.modGen i fun g => { g with use := 1, pinned := true })
      let d := { d with drain := some ⟨id, slot, 0, g.streamLen⟩ }
      if (d.sess slot).state ≠ 2 then d.drainOver false else d.drainPump drainFuel)
  | _, _ => d

/-- The session still has drain data to be acknowledged. -/
def Session.draining (s : Session) : Bool := (s.waiting ++ s.unacked).any fun m => m.typ == 7

/-- PROOF_DRAIN_DONE: the stream is sent and acknowledged (R361, R388). DESIGN CHOICE, log entry 63. -/
def Dev.drainDone (d : Dev) : Dev :=
  match d.drain with
  | none => d
  | some x => if x.total ≤ x.off ∧ !(d.sess x.session).draining then d.drainOver true else d

/-- DRAIN_ACK_TIMEOUT (R362). -/
def Dev.drainTimeout (d : Dev) : Dev :=
  match d.drain with
  | none => d
  | some x => if (d.sess x.session).draining then d.drainOver false else d

/-! ### Restores (R363–R368) -/

/-- A refused restore: nothing is written. DESIGN CHOICE, log entry 62. -/
def Dev.restoreRefused (d : Dev) (p code : Nat) : Dev :=
  let id := d.prf p 0x40
  let g := if (d.genSlot id).isSome then id else 0
  d.setError pgProof code (p * 2 ^ 30 + (d.proof p).phase.code * 2 ^ 26) g

/-- The load map: stack, page, destination (R367). -/
def Dev.loadMap (d : Dev) (p : Nat) : List (Nat × Nat × Nat) :=
  let a := d.reg64 pgProof (proofReg p 0x48) % 2 ^ 48
  (List.range (d.prf p 0x50)).map fun i =>
    let b := d.read (a + 16 * i) 16
    (field b 0 1, field b 2 2, field b 8 8 % 2 ^ 48)

/-- The load map is invalid: a reserved field, a page the generation lacks, destinations that overlap, or one in a
shadow reserve, misaligned or outside the partition (R367). -/
def Dev.mapInvalid (d : Dev) (p : Nat) (g : GenSt) : Bool :=
  let m := d.loadMap p
  let a := d.reg64 pgProof (proofReg p 0x48) % 2 ^ 48
  !inRegions ((d.stacksOf p).map fun st => (st * stackBytes, stackBytes)) a (16 * d.prf p 0x50) && !m.isEmpty ||
  (m.any fun x =>
    !(g.frames.any fun f => f.kind == 0 && f.unit == x.1 && f.index == x.2.1) || x.2.2 % pageBytes != 0 ||
    !(d.stacksOf p).contains (stackOf x.2.2) || d.inReserve (stackOf x.2.2) (x.2.2 % stackBytes / pageBytes)) ||
  decide ((m.map fun x => x.2.2).eraseDups.length < m.length)

/-- Why a restore of mode 0 or 1 is refused: none, or the code (R363–R365, R367). DESIGN CHOICE, log entry 62. -/
def Dev.restoreCheck (d : Dev) (p mode : Nat) : Option Nat :=
  match d.genSlot (d.prf p 0x40) with
  | none => some 0x0B08
  | some i =>
    let g := d.gen i
    let mask := (d.diesOf p).foldl (fun m c => m + 2 ^ c) 0
    if g.state ≠ 3 ∨ (mode = 0 ∧ g.mask &&& mask ≠ g.mask) then some 0x0B08
    else if !manVerified g.manifest then some 0x0B0A
    else if mode = 0 ∧ ((g.hdr.shape.drop 4).take 12 ≠ (hubShape.drop 4).take 12 ∨ g.mask ≠ mask) then some 0x0B09
    else if mode = 1 ∧ !g.cold then some 0x0B09
    else if mode = 1 ∧ d.mapInvalid p g then some 0x0B0C
    else none

/-- A write of RESTORE with GO (R363). -/
def Dev.restoreWrite (d : Dev) (p : Nat) (w : Word) : Dev :=
  let v := w.toNat
  let x := d.part p
  let ph := (d.proof p).phase
  let mode := bits v 2 1
  let begin_ (slot : Nat) (d : Dev) : Dev := d.modProof p fun y =>
    { y with phase := .restore, mode, slot, sess := 8, got := 0, buf := [], keep := ph == .ordered }
  if !bit v 0 then d
  else if x.claim ≠ 2 ∨ x.state ≠ .stopped ∨ x.run ∨ !(ph == .idle || ph == .ordered) ∨ mode = 3 then d.restoreRefused p 0x0B08
  else if mode = 2 then
    (if (d.genSlot (d.prf p 0x40)).isSome then d.restoreRefused p 0x0B08 else begin_ 16 d)
  else match d.restoreCheck p mode, d.genSlot (d.prf p 0x40) with
    | none, some i => (begin_ i d).modGen i fun g => { g with use := 2 }
    | some code, _ => d.restoreRefused p code
    | _, _ => d

/-- The restore is over: PHASE goes back, and the generation is not in use. DEDUCED, log entry 60. -/
def Dev.restoreOver (d : Dev) (p : Nat) : Dev :=
  let x := d.proof p
  let d := if x.mode = 2 then d else d.modGen x.slot fun g => { g with use := 0 }
  d.modProof p fun x => { x with phase := if x.keep then .ordered else .idle, keep := false, buf := [] }

/-- One entry's frame written to a place, its digest checked as it is read; none on a mismatch (R365). -/
def Dev.loadFrame (d : Dev) (f : FrameEnt) (dst : Nat) : Option Dev :=
  let src := d.frameAddr f.win f.frame
  if (d.storedBad src pageBytes).isSome ∨ d.frameDigest f ≠ padTo 64 f.digest then none
  else some (d.moveBytes src dst pageBytes)

/-- Frames written in order until one fails: the state, and the failing entry. -/
def Dev.loadFrames (d : Dev) (place : FrameEnt → Option Nat) : List FrameEnt → Dev × Option FrameEnt
  | [] => (d, none)
  | f :: fs =>
    match place f with
    | none => if d.frameDigest f = padTo 64 f.digest then d.loadFrames place fs else (d, some f)
    | some a => match d.loadFrame f a with
      | none => (d, some f)
      | some d => d.loadFrames place fs

/-- Where a LOAD puts a frame: an image page, a case, a stash page (R354, R366). A control frame goes to its core. -/
def Dev.loadPlace (d : Dev) (p : Nat) (f : FrameEnt) : Option Nat :=
  match f.kind with
  | 0 => some (f.unit * stackBytes + f.index * pageBytes)
  | 1 => some (caseBase f.index)
  | 3 =>
    let e := d.stash p (f.index / 2 ^ 16)
    if f.index % 2 ^ 16 < e.2 then some (e.1 + f.index % 2 ^ 16 * pageBytes) else none
  | _ => none

/-- A restored galley that takes slots from a link grants its room anew (R301, R366 step 4). -/
def Dev.grantRestored (d : Dev) (k g : Nat) : Dev :=
  let x := (d.core k).galley g
  if x.en ∧ x.src = 2 then
    let n := x.capacity - x.occ
    (d.modGalley k g fun x => { x with freed := n }).sendRecord x.srcLink 3
      (natLe 2 k ++ natLe 1 (0x80 + g) ++ natLe 1 0 ++ natLe 4 n)
  else d

/-- Entries that are fully kicked by the counts put back, and wait for a channel (R317). DESIGN CHOICE, log entry 62. -/
def Dev.kickedEntries (d : Dev) (c : Nat) (kicks : Table Nat) : List Nat :=
  (List.range 64).filter fun e =>
    let n := tget 0 kicks e
    n != 0 && decide (field (d.read (d.collTable c + 128 * e) 128) 0x3C 2 ≤ n)

/-- A slot of core k is in calibration in the new state and was not in the old (R127). -/
def CoreSt.entersCalib (old new : CoreSt) : Bool :=
  (List.range 512).any fun i =>
    let s := new.slot i
    s.calib && (!(old.slot i).calib || (s.used && !(old.slot i).used))

/-- A core in place of the old one: CALIB where slots enter calibration. -/
def Dev.putCore (d : Dev) (k : Nat) (c : CoreSt) : Dev :=
  (d.setCore k c).raiseIf ((d.core k).entersCalib c) (pgGauge k) 7

/-- The parts of the machine a generation holds, put back (R366 steps 2 and 3). DESIGN CHOICE, log entry 62. -/
def Dev.putSnap (d : Dev) (p : Nat) (s : Snap) : Dev :=
  let d := (d.coresOf p ++ s.cores.map (·.1)).foldl (fun d k => d.putCore k (tget {} s.cores k)) d
  let dies := d.diesOf p
  let d := (dies.flatMap dieCores).foldl (fun d k => { d with regs := (keptRegs k).foldl (fun t r => tclear t r 1) d.regs }) d
  let d := dies.foldl (fun d c =>
    let d := (List.range 16).foldl (fun d e => d.modDma (dmaIdx c e) fun _ => tget {} s.dmas (dmaIdx c e)) d
    let d := [2 * c, 2 * c + 1].foldl (fun d st => d.modPlaten st fun _ => tget {} s.platens st) d
    d.modColl c fun x =>
      let y := tget {} s.colls c
      { y with ready := d.kickedEntries c y.kicks, msgs := x.msgs }) d
  s.regs.foldl (fun d x => d.setReg (x.1 / 4096) (x.1 % 4096) x.2.toNat) d

/-- RESTORE_DONE for a LOAD (R366). DESIGN CHOICE, log entry 62. -/
def Dev.loadDone (d : Dev) (p : Nat) (g : GenSt) : Dev :=
  let r := d.loadFrames (d.loadPlace p) g.frames
  let d := r.1
  match r.2 with
  | some f => (d.proofError p 0x0B0B f.unit).restoreOver p
  | none =>
    let s := d.snapOf g
    let s := { s with cores := s.cores.map fun x =>
      match g.snap.find? fun y => y.1 == x.1 with | some y => (x.1, x.2.withKept y.2) | none => x }
    let d := d.putSnap p s
    let d := (d.coresOf p).foldl (fun d k => (List.range 16).foldl (fun d i => d.grantRestored k i) d) d
    let d := (d.stacksOf p).foldl (fun d st => d.modCow st fun x => { x with dirty := {} }) d
    let d := { d with parents := tset 0 d.parents g.mask g.id }
    let h := g.hdr
    let start := if bit h.flags 6 then h.impr else (h.impr + 1) % 2 ^ 32
    let reg (o v : Nat) (d : Dev) := d.setReg pgImpr (0x100 + 0x80 * p + o) v
    let d := reg 0x04 h.period (reg 0x10 h.stepLen (reg 0x30 h.pos (reg 0x2C h.step (reg 0x28 start d))))
    let d := s.partners.foldl (fun d x =>
      let live := d.reg (pgLink x.1) 0x10C * 256 + d.reg (pgLink x.1) 0x110 % 256
      if live = x.2 then d else d.proofError p 0x0B0C x.1) d
    ((d.modPart p fun x => { x with restored := true }).raise pgProof (8 * p + 4)).restoreOver p

/-- Slots without an image after a restore start in calibration (R127, R367). -/
def Dev.slotsCalibrate (d : Dev) (p : Nat) : Dev :=
  (d.coresOf p).foldl (fun d k =>
    let c := d.core k
    d.putCore k { c with slots := (c.slots.map fun s => (s.1, s.2.clearHistory)).filter fun s => s.2 ≠ {} }) d

/-- RESTORE_DONE for a RELOCATE (R367): DIRTY is set on every written page. DESIGN CHOICE, log entry 62. -/
def Dev.relocateDone (d : Dev) (p : Nat) (g : GenSt) : Dev :=
  let r := (d.loadMap p).foldl (fun (r : Dev × Bool) x =>
    if r.2 then r
    else match g.frames.find? fun f => f.kind == 0 && f.unit == x.1 && f.index == x.2.1 with
      | none => r
      | some f => match r.1.loadFrame f x.2.2 with
        | none => (r.1, true)
        | some d => (d.modCow (stackOf x.2.2) fun y => { y with dirty := y.dirty.add (x.2.2 % stackBytes / pageBytes) }, false))
    (d, false)
  if r.2 then (r.1.proofError p 0x0B0B 0).restoreOver p
  else ((r.1.slotsCalibrate p).raise pgProof (8 * p + 4)).restoreOver p

/-! ### Import (R368, R388) -/

/-- The import ends with a code: what it had taken is FAILED and its frames are free. -/
def Dev.importFails (d : Dev) (p code : Nat) : Dev :=
  let x := d.proof p
  let d := if code = 0 ∨ code = 0x0C0E then d else d.proofError p code 0
  let d := if x.slot < 16 then
      d.modGen x.slot fun g => { g with state := 4, reason := 2, code, frames := [], man := [], use := 0 }
    else d
  d.restoreOver p

/-- A free frame for an arriving one: of its own window where the partition has it, else of another of its windows. -/
def takeFree (free : Table (List Nat)) (win : Nat) : Option (Nat × Nat × Table (List Nat)) :=
  let order := win :: (free.map (·.1))
  match order.find? fun c => !(tget [] free c).isEmpty with
  | none => none
  | some c => some (c, (tget [] free c).headD 0, tset [] free c (tget [] free c).tail)

/-- Places for the distinct frames of an arriving generation. -/
def placeFrames : Table (List Nat) → List (Nat × Nat) → Option (List ((Nat × Nat) × (Nat × Nat)) × Table (List Nat))
  | free, [] => some ([], free)
  | free, x :: xs =>
    match takeFree free x.1 with
    | none => none
    | some (c, f, free) => match placeFrames free xs with
      | none => none
      | some (ys, free) => some ((x, (c, f)) :: ys, free)

/-- The manifest has arrived whole: it is checked, and frames are allocated (R368). DESIGN CHOICE, log entry 62. -/
def Dev.importManifest (d : Dev) (p : Nat) (b : List Byte) : Dev × Bool :=
  let g := GenSt.ofManifest b
  if !manVerified b then (d.importFails p 0x0B0A, false)
  else if (d.genSlot g.id).isSome ∨ g.id = 0 then (d.importFails p 0x0B08, false)
  else
    let dies := d.diesOf p
    let win := dies.headD 0
    let free : Table (List Nat) := dies.foldl (fun t c => tset [] t c (d.freeFrames c)) []
    let need := (b.length + pageBytes - 1) / pageBytes
    let man := (tget [] free win).take need
    let free := tset [] free win ((tget [] free win).drop need)
    match d.freeSlot, placeFrames free g.distinct with
    | some i, some (places, _) =>
      if man.length < need then (d.importFails p 0x0B0F, false)
      else
        let at_ (f : FrameEnt) : Nat × Nat := ((places.find? fun x => x.1 == (f.win, f.frame)).map (·.2)).getD (0, 0)
        let frames := g.frames.map fun f => { f with win := (at_ f).1, frame := (at_ f).2, fgen := g.id }
        let g := { g with frames, manWin := win, man }
        let d := (d.modGen i fun _ => g).pokeManifest win man b
        (d.modProof p fun x => { x with slot := i }, true)
    | _, _ => (d.importFails p 0x0B0F, false)

/-- A frame has arrived whole: its digests are checked and it is stored (R368). -/
def Dev.importFrame (d : Dev) (p : Nat) (i : Nat) (b : List Byte) : Dev × Bool :=
  let g := d.gen (d.proof p).slot
  match g.distinct[i]? with
  | none => (d, true)
  | some (w, f) =>
    let d := d.poke (d.frameAddr w f) b
    if g.frames.all fun e => e.win != w || e.frame != f || d.frameDigest e == padTo 64 e.digest then (d, true)
    else (d.importFails p 0x0B0B, false)

/-- Whole pieces of the stream are taken from the front of what has arrived. -/
def Dev.importStep (d : Dev) (p : Nat) : Nat → Dev
  | 0 => d
  | n + 1 =>
    let x := d.proof p
    if x.phase ≠ .restore ∨ x.mode ≠ 2 then d
    else if x.slot = 16 then
      let len := field x.buf 0x58 8
      if x.buf.length < 256 ∨ x.buf.length < len then d
      else
        let r := d.importManifest p (x.buf.take len)
        if r.2 then (r.1.modProof p fun x => { x with buf := x.buf.drop len }).importStep p n else r.1
    else if x.buf.length < pageBytes then d
    else
      let i := (x.got - x.buf.length - (d.gen x.slot).manifest.length) / pageBytes
      let r := d.importFrame p i (x.buf.take pageBytes)
      if r.2 then (r.1.modProof p fun x => { x with buf := x.buf.drop pageBytes }).importStep p n else r.1

/-- PROOF_DATA reaches an import of partition p on session slot `slot` (R388): preamble, then data. -/
def Dev.importData (d : Dev) (p slot seq : Nat) (payload : List Byte) : Dev :=
  let x := d.proof p
  if x.phase ≠ .restore ∨ x.mode ≠ 2 ∨ payload.length < 16 then d
  else
    let data := payload.drop 16
    if field payload 8 8 ≠ x.got then (d.setError pgProof 0x0C0E (slot * 2 ^ 29) seq).importFails p 0x0C0E
    else
      let d := d.modProof p fun x => { x with sess := slot, got := x.got + data.length, buf := x.buf ++ data }
      d.importStep p (data.length / pageBytes + 3)

/-- The whole stream of an import has arrived. -/
def Dev.importWhole (d : Dev) (p : Nat) : Bool :=
  let x := d.proof p
  decide (x.slot < 16) && decide ((d.gen x.slot).streamLen ≤ x.got)

/-- RESTORE_DONE for an IMPORT: the generation is COMPLETE under its own number (R368). DESIGN CHOICE, log entry 62. -/
def Dev.importDone (d : Dev) (p : Nat) : Dev :=
  if !d.importWhole p then d
  else ((d.modGen (d.proof p).slot fun g => { g with state := 3 }).raise pgProof (8 * p + 4)).restoreOver p

/-- RESTORE_DONE. -/
def Dev.restoreDone (d : Dev) (p : Nat) : Dev :=
  let x := d.proof p
  if x.phase ≠ .restore then d
  else if x.mode = 2 then d.importDone p
  else if x.mode = 1 then d.relocateDone p (d.gen x.slot)
  else d.loadDone p (d.gen x.slot)

end Sys2Proof.Machine
end

