-- ==== Sys2Proof/Machine/Windows.lean ====
section
/-!
DEFINITION. Sys2Proof/Machine/Windows.lean: the windows of a core's pages: list entries and command memory (R224, R225), a and c
registers, slabs and taps (R159, R163, R168), statistics sets (R170), and the lane probe (R191).
-/
namespace Sys2Proof.Machine

/-! ### CORE -/

/-- An error of a register write on the CORE page (R227). -/
def Dev.coreWriteError (d : Dev) (k code list idx : Nat) : Dev := d.setError (pgCore k) code (list * 2 ^ 28 + idx) 0

/-- STATUS.FAULT follows the lists (R206). -/
def CoreSt.anyAbandoned (c : CoreSt) : Bool := c.lists.any fun l => l.2.state == .abandoned

/-- LIST_ENTRY_WRITE: CFG or RANGE of a list; `off` is the page offset (R206, R224). -/
def Dev.listEntryWrite (d : Dev) (k off : Nat) (w : Word) : Dev :=
  let l := (off - 0x200) / 16
  let o := off % 16
  if off < 0x200 ∨ 0x300 ≤ off ∨ (o ≠ 0 ∧ o ≠ 4) then d
  else
    let s := (d.core k).list l
    if s.protected then d.coreWriteError k 0x0106 l 0
    else
      let s' : ListSt := if o = 0 then { cfg := BitVec.ofNat 32 (w.toNat &&& 0x8F0003FF), range := s.range }
                         else { cfg := s.cfg, range := BitVec.ofNat 32 (w.toNat &&& 0x03FFFFFF) }
      d.modCore k fun c => c.modList l fun _ => s'

/-- A write to an a or c register: word `half` of a-register `i`, or c-register `i`. -/
def Dev.regFileWrite (d : Dev) (k off : Nat) (w : Word) : Dev :=
  let c := d.core k
  if c.lists.any fun l => l.2.state == .running then d.coreWriteError k 0x0106 0 0
  else if off < 0x1C0 then
    let i := (off - 0x140) / 8
    let a := c.areg i
    d.setCore k (c.setA i (if off % 8 = 0 then a / 2 ^ 32 * 2 ^ 32 + w.toNat else w.toNat * 2 ^ 32 + a % 2 ^ 32))
  else d.setCore k (c.setC ((off - 0x1C0) / 4) w.toNat)

/-- A write through CMEM_WIN: word `i` of the selected descriptor. -/
def Dev.cmemWindow (d : Dev) (k i : Nat) (w : Word) : Dev :=
  let sel := d.reg (pgCore k) 0x12C % 1024
  if (d.core k).protects sel sel then d.coreWriteError k 0x0106 0 sel
  else d.modCore k fun c => { c with cmem := c.cmem.write (64 * sel + 4 * i) (natLe 4 w.toNat) }

/-- CMEM_LOAD (R225). -/
def Dev.cmemLoad (d : Dev) (k : Nat) (w : Word) : Dev :=
  if !bit w.toNat 0 ∨ (d.core k).cmemJob.isSome then d
  else
    let src := d.reg64 (pgCore k) 0x130 % 2 ^ 48 / 64 * 64
    let dst := d.reg (pgCore k) 0x138
    if d.cmemRefused k src dst then d.coreWriteError k 0x010B 0 (cmemDst dst).1
    else d.modCore k fun c => { c with cmemJob := some (src, dst) }

/-- CMEM_LOAD_DONE: the last descriptor is written and CMEM_GO falls (R226). -/
def Dev.cmemLoadDone (d : Dev) (k : Nat) : Dev :=
  match (d.core k).cmemJob with
  | none => d
  | some (src, dst) =>
    (((d.cmemCopy k src dst).modCore k fun c => { c with cmemJob := none }).raise (pgCore k) 3)

/-! ### BWD -/

/-- An issued, unretired command names slab s; tap t; statistics set i. -/
def CoreSt.namesSlab (c : CoreSt) (s : Nat) : Bool :=
  c.cmds.any fun x => let e := extOf x.desc x.ext; slabOp (dOp x.desc) && e.slabEn && e.slabIdx == s
def CoreSt.namesTap (c : CoreSt) (t : Nat) : Bool :=
  c.cmds.any fun x => let e := extOf x.desc x.ext; x.unit < 3 && e.tapEn && e.tapIdx == t
def CoreSt.namesSet (c : CoreSt) (i : Nat) : Bool :=
  c.cmds.any fun x =>
    let e := extOf x.desc x.ext
    let near (first n : Nat) : Bool := decide ((i + 128 - first % 128) % 128 < n)
    -- a gather, an apply and a ROW backward name a set of KIND 3 for each row group too
    if dOp x.desc = 0x11 then
      fusedStats 0x11 e && near e.stats ((if e.epi ≤ 2 then 1 else 2) * (Mx.parse x.desc).mt)
    else
      let b := RowB.parse x.desc
      rowStats (dOp x.desc) && near b.stats ((if dOp x.desc = 0x22 ∨ dOp x.desc = 0x24 then 2 else 1) * b.rt)

/-- The selected slab and tap. -/
def Dev.slabSel (d : Dev) (k : Nat) : Nat := d.reg (pgBwd k) 0x130 % 32
def Dev.tapSel (d : Dev) (k : Nat) : Nat := d.reg (pgBwd k) 0x134 % 16

/-- The page's window is in use (0x0402). -/
def Dev.windowInUse (d : Dev) (k off i : Nat) : Dev := d.setError (pgBwd k) 0x0402 (off * 2 ^ 16 + i) 0

/-- The partition of core k is in maintenance mode (R439). -/
def Dev.maint (d : Dev) (k : Nat) : Bool := match d.partOf k with | some p => (d.part p).maint | none => false

/-- A slab binding with one of its words written. DEDUCED, log entry 40. -/
def Slab.put (s : Slab) (off w : Nat) : Slab :=
  match off with
  | 0x140 => { s with valid := bit w 31 }
  | 0x144 => { s with tag := w }
  | 0x148 => { s with base := w &&& 0x1FFFC0 }
  | _ => { s with bound := w % 2 ^ 22 }

/-- A write to the slab window (R163, R164, R168). DEDUCED, log entry 40. -/
def Dev.slabWindow (d : Dev) (k off : Nat) (w : Word) : Dev :=
  let i := d.slabSel k
  let c := d.core k
  let s := (c.slab i).put off w.toNat
  if c.namesSlab i then d.windowInUse k off i
  else if s.valid && !d.maint k && c.slabs.any fun x => x.1 != i && x.2.valid && x.2.tag == s.tag then
    d.setError (pgBwd k) 0x0409 i 0
  else d.setCore k (c.modSlab i fun _ => s)

/-- SLAB_CLR. -/
def Dev.slabClr (d : Dev) (k : Nat) (w : Word) : Dev :=
  let i := d.slabSel k
  if !bit w.toNat 0 then d
  else if (d.core k).namesSlab i then d.windowInUse k 0x154 i
  else d.modCore k fun c => c.modSlab i fun s => { s with nonfin := false, filled := false, count := 0 }

/-- A write to the tap window. -/
def Dev.tapWindow (d : Dev) (k off : Nat) (w : Word) : Dev :=
  let i := d.tapSel k
  let v := w.toNat
  if (d.core k).namesTap i then d.windowInUse k off i
  else d.modCore k fun c => c.modTap i fun t =>
    if off = 0x160 then { t with en := bit v 31, latch := bit v 30 } else { t with tag := v }

/-- TAP_CLR. -/
def Dev.tapClr (d : Dev) (k : Nat) (w : Word) : Dev :=
  let i := d.tapSel k
  if !bit w.toNat 0 then d
  else if (d.core k).namesTap i then d.windowInUse k 0x194 i
  else d.modCore k fun c => c.modTap i fun t => { t with mb := 0#64, acc := 0#64, n := 0 }

/-! ### ROW -/

/-- A write to the set window: header words and data (R170). -/
def Dev.setWindow (d : Dev) (k off : Nat) (w : Word) : Dev :=
  let i := d.reg (pgRow k) 0x11C % 128
  let v := w.toNat
  if (d.core k).namesSet i then d.setError (pgRow k) 0x0505 (off * 2 ^ 16 + i) 0
  else if off < 0x200 then
    d.modCore k fun c => c.modSet i fun s =>
      match off with
      | 0x120 => { s with tag := v }
      | 0x124 => { s with row := v }
      | _ => { s with kind := bits v 31 30, rms := bit v 29, count := v % 2 ^ 21 }
  else d.modCore k fun c => { c with stats := tset 0#32 c.stats (128 * i + (off - 0x200) / 4) w }

/-! ### LANE -/

/-- Some issued command of the core uses draws. -/
def CoreSt.drawing (c : CoreSt) : Bool :=
  c.cmds.any fun x =>
    let e := extOf x.desc x.ext
    c.drawsNow x || rowDraws x || (dOp x.desc == 0x11 && e.epi == 7 && e.dropout)

/-- A write of SEED (R191): word at `off` 0x108 or 0x10C. -/
def Dev.seedWrite (d : Dev) (k off : Nat) (w : Word) : Dev :=
  if (d.core k).drawing then d.setError (pgLane k) 0x0510 0 0 else d.setReg (pgLane k) off w.toNat

/-- A write of a PROBE register. -/
def Dev.probeWrite (d : Dev) (k off v : Nat) : Dev :=
  if (d.core k).probe.isSome then d.setError (pgLane k) 0x0511 (off * 2 ^ 16) 0 else d.setReg (pgLane k) off v

/-- LANE_PROBE_GO. -/
def Dev.laneProbeGo (d : Dev) (k : Nat) (w : Word) : Dev :=
  if !bit w.toNat 0 ∨ (d.core k).probe.isSome then d
  else d.modCore k fun c => { c with probe := some (d.reg64 (pgLane k) 0x108) }

/-- LANE_PROBE_DONE: the state and draw of the probe inputs appear as PROBE_GO falls. -/
def Dev.laneProbeDone (d : Dev) (k : Nat) : Dev :=
  match (d.core k).probe with
  | none => d
  | some seed =>
    let r (o : Nat) := d.reg (pgLane k) o
    let s := ({ seed, tag := r 0x124, step := r 0x128, cls := r 0x120 } : DrawKey).stateAt (d.reg64 (pgLane k) 0x130)
    let d := ((d.setReg64 (pgLane k) 0x140 (stippleOut s)).setReg64 (pgLane k) 0x148 (s % 2 ^ 64)).setReg64 (pgLane k) 0x150 (s / 2 ^ 64)
    (d.modCore k fun c => { c with probe := none }).raise (pgLane k) 1

end Sys2Proof.Machine
end

