-- ==== Sys2Proof/Machine/Hub.lean ====
section
/-!
DEFINITION. Sys2Proof/Machine/Hub.lean: partitions claimed, zeroed and released (R22, R25, R253, R395, R402), maintenance mode
(R439), and the closing of sessions (R392).
-/
namespace Sys2Proof.Machine

/-! ### Claims -/

/-- Die masks a partition may have (R22). -/
def layouts : List Nat := [1, 2, 4, 8, 3, 12, 5, 10, 15]

/-- ERR_INFO0 of a refused write: the session slot in [31:29], the stream in [17:0] (R400). -/
def Writer.info (u : Writer) : Nat := u.slot % 8 * 2 ^ 29 + u.stream % 2 ^ 18

/-- A refusal on the PART page (R400). -/
def Dev.partError (d : Dev) (code : Nat) (u : Writer) : Dev := d.setError pgPart code u.info u.seq

/-- A die's cores go back into reset: their state, headers and registers return to reset values, and what they had on
the mesh is gone (R423, R395). -/
def Dev.resetCores (d : Dev) (c : Nat) : Dev :=
  let mine (k : Nat) : Bool := decide (k < numCores) && coreDie k == c
  { d with cores := resetTable mine d.cores
           hdrs := d.hdrs.filter fun x => !(decide (0x20000 ≤ x.1) && mine ((x.1 - 0x20000) / 8))
           regs := d.regs.filter fun x => !(decide (0x20000 * 4096 ≤ x.1) && mine ((x.1 - 0x20000 * 4096) / 0x8000))
           flights := d.flights.filter fun s => !mine s.src && !mine s.dest
           vc2 := d.vc2.filter fun f => !mine f.core && !mine f.srcCore
           vc0 := d.vc0.filter fun f => !mine f.core
           meters := d.meters.filter fun x => !(decide (0x20000 ≤ x.1 / 2 ^ 24) && mine ((x.1 / 2 ^ 24 - 0x20000) / 8))
           bgFailed := d.bgFailed.filter fun x => !mine x.1 }

/-- The engines of a die go idle: nothing queued, nothing running. -/
def Dev.resetEngines (d : Dev) (c : Nat) : Dev :=
  { d with dmas := tclear d.dmas (16 * c) 16, platens := tclear d.platens (2 * c) 2, colls := tclear d.colls c 1 }

/-- A claim is refused (R22, R25, R427). DEDUCED, log entry 58. -/
def Dev.claimRefused (d : Dev) (p mask : Nat) : Bool :=
  !layouts.contains mask || (d.part p).claim != 0 ||
  (setBits 4 mask).any fun c => (d.die c).part.isSome || (d.die c).unusable

/-- A write of CLAIM with GO (R25, R395). DEDUCED, log entry 58. -/
def Dev.claimWrite (d : Dev) (p : Nat) (u : Writer) (w : Word) : Dev :=
  let v := w.toNat
  let mask := v % 16
  if !bit v 4 ∨ (d.part p).claim = 1 then d
  else if d.claimRefused p mask then d.partError 0x0C10 u
  else
    let dies := setBits 4 mask
    let d := d.modPart p fun x => { x with claim := 1, mask }
    let d := dies.foldl (fun d c => (d.modDie c fun x => { x with part := some p, live := false }).raise (pgDie c) 0) d
    d.setReg pgGov (0x200 + 0x40 * p + 4) (515 * dies.length)

/-- Every page of the dies' stacks is DIRTY (R349, R356). -/
def Dev.zeroDie (d : Dev) (c : Nat) : Dev :=
  let d := { d with mem := (dieCores c).foldl (fun m k => m.erase (caseBase k) caseBytes) (d.mem.erase (2 * c * stackBytes) (2 * stackBytes))
                    ecc := d.ecc.filter fun u =>
                      !(decide (2 * c * stackBytes ≤ u ∧ u < (2 * c + 2) * stackBytes)) &&
                      !(decide (sramBase ≤ u) && coreDie ((u - sramBase) / caseBytes) == c) }
  d.dirtyAll (2 ^ c)

/-- ZEROING_DONE (R253): memory reads 0, and the cores leave reset. DEDUCED, log entry 58. -/
def Dev.zeroingDone (d : Dev) (p : Nat) : Dev :=
  let x := d.part p
  if x.claim ≠ 1 then d
  else
    let dies := d.diesOf p
    let d := dies.foldl (fun d c => ((d.resetCores c).zeroDie c).modDie c fun x => { x with live := true, commitStep := 0 }) d
    (d.modPart p fun x => { x with claim := 2, orders := [], globalRecast := false }).raise pgPart (4 * p)

/-- A write of RELEASE (R395). DEDUCED, log entry 58. -/
def Dev.releaseWrite (d : Dev) (p : Nat) (u : Writer) (w : Word) : Dev :=
  let x := d.part p
  let ph := (d.proof p).phase
  if !bit w.toNat 0 ∨ x.claim = 0 then d
  else if x.claim = 1 ∨ x.run ∨ !(ph == .idle || ph == .ordered) then d.partError 0x0C11 u
  else
    let dies := d.diesOf p
    let d := dies.foldl (fun d c =>
      (((d.resetCores c).resetEngines c).modDie c fun x =>
        { x with part := none, live := false, point := 0, target := 0, ramp := false }).raise (pgDie c) 1) d
    let d := d.modProof p fun x => { x with phase := .idle }
    (d.modPart p fun x => { x with claim := 0, mask := 0, maint := false, orders := [], globalRecast := false }).raise pgPart (4 * p + 1)

/-- A write of MAINT (R439). -/
def Dev.maintWrite (d : Dev) (p : Nat) (u : Writer) (w : Word) : Dev :=
  let x := d.part p
  let ph := (d.proof p).phase
  if x.run ∨ !(ph == .idle || ph == .ordered) then d.partError 0x0C0F u
  else d.modPart p fun x => { x with maint := bit w.toNat 0 }

/-! ### Sessions close (R392) -/

/-- A session slot becomes FREE; `code` is 0x0C0D where the session timed out or closed. DEDUCED, log entry 57. -/
def Dev.closeSession (d : Dev) (slot : Nat) : Dev :=
  let s := d.sess slot
  let open_ := s.busyStreams.length
  let d := d.bump pgStream (abortKey slot) open_
  let d := match d.drain with | some x => if x.session = slot then d.drainOver false else d | none => d
  let d := (List.range 4).foldl (fun d p =>
    let x := d.proof p
    if x.phase = .restore ∧ x.mode = 2 ∧ x.sess = slot then d.importFails p 0 else d) d
  let d := { d with signQ := d.signQ.filter (· != (1, slot)) }
  let d := d.modSess slot fun _ => {}
  (d.setError pgRailjor 0x0C0D (slot % 8 * 2 ^ 29) 0).raise pgRailjor 2

/-- A write of CLOSE acts on slot `slot`. -/
def Dev.closeWrite (d : Dev) (slot : Nat) (w : Word) : Dev :=
  if bit w.toNat 0 ∧ (d.sess slot).state = 2 then d.closeSession slot else d

/-- SESSION_TIMEOUT; a slot still OPENING 1 s after its CHALLENGE is free again (R394). -/
def Dev.sessionTimeout (d : Dev) (slot : Nat) : Dev :=
  let s := d.sess slot
  if s.state = 2 then d.closeSession slot
  else if s.state = 1 ∧ s.challenge ≠ [] ∧ s.since + 10 ^ 9 < d.time then d.modSess slot fun _ => {} else d

end Sys2Proof.Machine
end

