-- ==== Sys2Proof/Machine/Power.lean ====
section
/-!
DEFINITION. Sys2Proof/Machine/Power.lean: input power and its limits (R401, R402, R411, R412), points between ticks (R404),
thermal limits (R415, R418), and the sideband outputs (R416, R433).
-/
namespace Sys2Proof.Machine

/-! ### The module's parts -/

def Chip.onDev (c : Chip) (f : Dev → Dev) : Chip := { c with dev := f c.dev }

/-- The hub runs: its rails are up, and the module is neither frozen nor in a warm reset. -/
def Pow.up (p : Pow) : Bool :=
  (p.mode == .ready || p.mode == .run || (p.mode == .boot && p.hubRails)) && !p.frozen

/-- The management processor runs (Table 15-7): BOOT once firmware is verified, READY, RUN. -/
def Pow.served (p : Pow) : Bool := p.up && decide (2 ≤ p.stage ∧ p.stage ≠ 4)

/-- A change of the device that takes place only while the hub runs. DESIGN CHOICE, log entry 1. -/
def Chip.live (c : Chip) (f : Dev → Dev) : Chip := if c.pow.up then c.onDev f else c

/-! ### Alerts (R401, R416, Table 14-7) -/

/-- LIMIT, and the input power last sampled. -/
def Dev.limit (d : Dev) : Nat := d.reg pgPwr 0x110 % 4096
def Dev.pin (d : Dev) : Nat := d.reg pgPwr 0x10C

/-- PWR.ALERT for an input voltage in mV. -/
def Dev.alert (d : Dev) (vin : Nat) : Nat :=
  b2n (!d.hots.isEmpty) * 16 + b2n (!d.warned.isEmpty) * 8 + b2n (decide (d.limit < d.pin)) * 4 +
  b2n (decide (49000 < vin)) * 2 + b2n (decide (vin < 41000))

/-- Event ALERT is raised when any ALERT bit rises (R421). -/
def Dev.alertRise (old d : Dev) (v0 v1 : Nat) : Dev :=
  let a := old.alert v0
  let b := d.alert v1
  d.raiseIf ((List.range 5).any fun i => bit b i && !bit a i) pgPwr 1

/-! ### Energy (R411) -/

/-- SLOW-limited step down of every die of a partition. -/
def Dev.stepPart (d : Dev) (p : Nat) : Dev := (d.diesOf p).foldl (fun d c => d.stepDown c (d.slow c)) d

/-- Where the impression last counted as over budget stands: its number plus one. -/
def overKey (p : Nat) : Nat := 0x800 + 4 * p

/-- ENERGY_OVER_BUDGET. -/
def Dev.energyOver (d : Dev) (p : Nat) : Dev :=
  let x := d.part p
  if x.claim ≠ 2 ∨ x.starting ∨ x.state = .stopped ∨ x.state = .halted then d
  else
    let mark := (x.num + 1) % 2 ^ 32
    let d := if d.reg pgGov (overKey p) = mark then d
      else ((d.setReg pgGov (overKey p) mark).bump pgGov (0x220 + 0x40 * p) 1).raise pgGov (4 * p + 2)
    d.stepPart p

/-- ENERGY_STEPDOWN_REPEAT: only in an impression that passed its budget. -/
def Dev.energyRepeat (d : Dev) (p : Nat) : Dev :=
  let x := d.part p
  if d.reg pgGov (overKey p) = (x.num + 1) % 2 ^ 32 ∧ x.claim = 2 ∧ x.state ≠ .stopped ∧ x.state ≠ .halted then d.stepPart p else d

/-- POINT_RAMP_DONE (R404). -/
def Dev.pointRamp (d : Dev) (c : Nat) : Dev :=
  d.modDie c fun x => if x.ramp then { x with point := x.target, ramp := false } else x

/-! ### Input power (R412) -/

/-- Window of 1 ms last counted in CAPPED_CNT, plus one. -/
def cappedKey : Nat := 0x800

/-- PIN_SAMPLE. -/
def Dev.pinSample (d : Dev) (vin watts : Nat) : Dev :=
  let was := decide (d.limit < d.pin)
  let d' := d.setReg pgPwr 0x10C watts
  let beyond := decide (d'.limit < d'.pin)
  let win := d.time / 1000000 % (2 ^ 32 - 1) + 1
  let d' := if beyond ∧ d'.reg pgPwr cappedKey ≠ win then (d'.setReg pgPwr cappedKey win).bump pgPwr 0x134 1 else d'
  d.alertRise (d'.raiseIf (beyond && !was) pgPwr 2) vin vin

/-- Claimed dies that can still step down. DESIGN CHOICE, log entry 73. -/
def Dev.slowable (d : Dev) : List Nat := (List.range 4).filter fun c => (d.die c).part.isSome && decide ((d.die c).point < d.slow c)

/-- POWER_CAP_STEPDOWN: one die steps down. Which one follows metered power, which no rule gives a value.
DESIGN CHOICE, log entry 73. -/
def Dev.capStepdown (d : Dev) : Dev :=
  let cs := d.slowable
  if d.limit < d.pin ∧ cs ≠ [] then
    let (v, d) := d.free
    let c := cs.getD (v.toNat % cs.length) 0
    d.stepDown c (d.slow c)
  else d

/-- CLOCK_GATE_ENGAGE and CLOCK_GATE_RELEASE. DESIGN CHOICE, log entry 74. -/
def Chip.gateEngage (c : Chip) : Chip :=
  let d := c.dev
  if c.pow.up ∧ !c.pow.gated ∧ d.limit < d.pin ∧ d.slowable = [] ∧ (List.range 4).any (fun k => (d.die k).part.isSome) = true then
    { c with dev := ((d.bump pgPwr 0x138 1).setError pgGov 0x0D05 0 0).raise pgPwr 3, pow := { c.pow with gated := true } }
  else c
def Chip.gateRelease (c : Chip) : Chip :=
  if c.pow.up ∧ c.pow.gated ∧ c.dev.pin * 100 ≤ c.dev.limit * 95 then { c with pow := { c.pow with gated := false } } else c

/-! ### Temperatures (R415, Table 14-4) -/

/-- The die a sensor belongs to. -/
def sensorDie (s : Nat) : Option Nat := if s < 4 then some s else if s < 12 then some ((s - 4) / 2) else none

/-- A temperature is taken. -/
def Dev.setTemp (d : Dev) (s : Nat) (t : Int) : Dev := { d with temps := tset 0 d.temps s t }

/-- THERMAL_WARN. -/
def Dev.thermalWarn (d : Dev) (vin s : Nat) (t : Int) : Dev :=
  let d' := d.setTemp s t
  let d' := if (d.thresholds s).1 ≤ t then { d' with warned := insertNat s d'.warned } else d'
  d.alertRise d' vin vin

/-- THERMAL_HOT: the die steps toward index 3 at once; the hub has no point and sets THERM_WARN only. -/
def Dev.thermalHot (d : Dev) (vin s : Nat) (t : Int) : Dev :=
  let d' := d.setTemp s t
  let th := d.thresholds s
  let d' := if th.1 ≤ t then { d' with warned := insertNat s d'.warned } else d'
  let d' := match sensorDie s with
    | some c => if th.2.1 ≤ t then { d' with hots := insertNat s d'.hots }.stepDown c 3 else d'
    | none => d'
  d.alertRise d' vin vin

/-- THERMAL_HOT_STEPDOWN. -/
def Dev.hotStepdown (d : Dev) (c : Nat) : Dev := if (dieSensors c).any d.hots.contains then d.stepDown c 3 else d

/-! ### Loss of power (R405, R418) -/

/-- A device after a reset: its sensors read on, and warn at the thresholds reset leaves (R415, Table 14-4). DEDUCED,
log entry 85. -/
def Dev.sensed (d old : Dev) : Dev :=
  { d with temps := old.temps
           warned := (List.range 13).filter fun s => decide ((d.thresholds s).1 ≤ tget 0 old.temps s)
           hots := (List.range 12).filter fun s => decide ((d.thresholds s).2.1 ≤ tget 0 old.temps s) }

/-- Nothing survives but what has been sent. -/
def Dev.lost (d : Dev) : Dev := ({ out := d.out, freeCount := d.freeCount } : Dev).sensed d

/-- The security processor after a reset: fuses, flash, cause and count stay (R423, R430). -/
def Sec.afterReset (s : Sec) (cause count : Nat) : Sec :=
  { cause, warmResets := count, fusedSvn := s.fusedSvn, revoked := s.revoked, flash := s.flash }

/-- Every rail is off; the module is in `m` (R405). -/
def Chip.powerOff (c : Chip) (m : PwrMode) (vin : Nat) : Chip :=
  { dev := c.dev.lost, sec := c.sec.afterReset 0 0
    pow := { mode := m, vin, pwrEn := c.pow.pwrEn, cold := decide (vin ≠ 0) && (c.pow.cold || c.pow.mode != .standby) } }

/-- BOOT begins (Table 15-2). DEDUCED, log entry 72. -/
def Chip.beginBoot (c : Chip) : Chip :=
  { dev := c.dev.lost, sec := c.sec.afterReset (b2n c.pow.cold) 0
    pow := { mode := .boot, vin := c.pow.vin, pwrEn := true, cold := c.pow.cold } }

/-- The input voltage is one the module operates at (R401). DESIGN CHOICE, log entry 83. -/
def vinOk (mv : Nat) : Bool := decide (40000 ≤ mv ∧ mv ≤ 50000)

/-- VIN_APPLY. -/
def Chip.vinApply (c : Chip) (mv : Nat) : Chip :=
  if c.pow.mode ≠ .off then c
  else { c with pow := { mode := .standby, vin := mv, pwrEn := c.pow.pwrEn, fresh := true, waiting := c.pow.pwrEn } }

/-- VIN_REMOVE. -/
def Chip.vinRemove (c : Chip) : Chip := c.powerOff .off 0

/-- PWR_EN_ASSERT (R423, R492). -/
def Chip.pwrEnAssert (c : Chip) : Chip :=
  let c := { c with pow := { c.pow with pwrEn := true } }
  if c.pow.mode ≠ .standby then c
  else if c.pow.fresh then { c with pow := { c.pow with waiting := true } } else c.beginBoot

/-- BOOT_DELAY_EXPIRY. -/
def Chip.bootDelay (c : Chip) : Chip :=
  let p := { c.pow with fresh := false, waiting := false }
  if c.pow.mode = .standby ∧ c.pow.waiting ∧ c.pow.pwrEn then { c with pow := p }.beginBoot
  else { c with pow := p }

/-- PWR_EN_DEASSERT for at least 10 ms (R424, R495): STANDBY, or release of a trip. DESIGN CHOICE, log entry 83. -/
def Chip.pwrEnDeassert (c : Chip) : Chip :=
  let c := { c with pow := { c.pow with pwrEn := false, waiting := false } }
  if c.pow.mode = .off ∨ c.pow.mode = .standby then c else c.powerOff .standby c.pow.vin

/-- VIN_ALERT. -/
def Chip.vinAlert (c : Chip) (mv : Nat) : Chip :=
  if c.pow.mode = .off then c
  else
    let d := if c.pow.up then c.dev.alertRise c.dev c.pow.vin mv else c.dev
    { c with dev := d, pow := { c.pow with vin := mv } }

/-- THERMAL_TRIP (R418): at the trip threshold of the sensor. -/
def Chip.thermalTrip (c : Chip) (s : Nat) (t : Int) : Chip :=
  if c.pow.mode = .off ∨ c.pow.mode = .standby ∨ c.pow.mode = .tripped ∨ t < (c.dev.thresholds s).2.2 then c
  else c.powerOff .tripped c.pow.vin

/-! ### Sideband outputs (Table 15-6) -/

/-- What a sideband line shows. -/
inductive Line
  | low | released
  deriving DecidableEq, Repr

def Pow.pwrGood (p : Pow) : Line :=
  match p.mode with
  | .boot => if p.dieRails then .released else .low
  | .warmReset => .low
  | _ => .released
def Pow.faultLine (p : Pow) : Line := if p.faultN && !(p.mode == .boot && !p.dieRails) then .low else .released
def Chip.alertLine (c : Chip) : Line :=
  if (c.pow.mode = .ready ∨ c.pow.mode = .run ∨ (c.pow.mode = .boot ∧ c.pow.dieRails)) ∧ c.dev.alert c.pow.vin ≠ 0 then .low
  else .released
def Pow.tripLine (p : Pow) : Line := if p.mode = .tripped then .low else .released
/-- PRSNT_N reads low whenever the module is seated; the model's module is. -/
def Pow.prsnt (_ : Pow) : Line := .low

end Sys2Proof.Machine
end

