-- ==== Sys2Proof/Machine/Security.lean ====
section
/-!
DEFINITION. Sys2Proof/Machine/Security.lean: start-up (Table 15-2, R426–R429), the measurement chain (R431), warm resets (R423,
R424, R432), the board-management bus (Table 15-7), identity and attestation (R434–R438), and freeze (R453–R456).
-/
namespace Sys2Proof.Machine

/-! ### The measurement chain (R431) -/

/-- SHAKE256 with a 512-bit output. -/
def digest64 (bs : List Byte) : List Byte := padTo 64 (Config.shake256 bs 64)

/-- The chain after one extend. -/
def extendChain (c : List Byte) (m : Meas) : List Byte := digest64 (c ++ natLe 4 m.typ ++ natLe 4 m.info ++ padTo 64 m.digest)

/-- The chain a verifier recomputes from a log. -/
def chainOf (log : List Meas) : List Byte := log.foldl extendChain (List.replicate 64 0#8)

/-- An extend: none when the log is full. -/
def Sec.extend (s : Sec) (m : Meas) : Option Sec :=
  if s.log.length < 16 then some { s with chain := extendChain s.chain m, log := s.log ++ [m] } else none

/-- An error of the SEC page: ERR_INFO1 is the time base (R442). -/
def Dev.secError (d : Dev) (code info : Nat) : Dev := d.setError pgSec code info (d.time % 2 ^ 32)

/-- An extend of the module: refused with 0x0E07 when the log is full; EXTENDED after READY (R441). -/
def Chip.extend (c : Chip) (m : Meas) : Chip × Bool :=
  match c.sec.extend m with
  | none => (c.onDev fun d => d.secError 0x0E07 m.typ, false)
  | some s => ({ c with sec := s, dev := c.dev.raiseIf (c.pow.stage == 3) pgSec 3 }, true)

/-! ### Flash -/

/-- A byte of the flash. -/
def Sec.flashByte (s : Sec) (target off : Nat) : Byte :=
  match tget none s.flash (target * 2 ^ 25 + off) with | some b => b | none => Config.flashByte target off

/-- Bytes of the flash. DESIGN CHOICE, log entry 75. -/
def Sec.flashRead (s : Sec) (target off n : Nat) : List Byte := (List.range n).map fun i => s.flashByte target (off + i)

/-- Bytes written to the flash. -/
def Sec.flashPut (s : Sec) (target : Nat) : Nat → List Byte → Sec
  | _, [] => s
  | off, b :: bs => ({ s with flash := tset none s.flash (target * 2 ^ 25 + off) (some b) }).flashPut target (off + 1) bs

/-- The slot tried first, and then the other (R428). -/
def Sec.slotTried (s : Sec) : Nat :=
  let b := b2n (Config.preferB (s.flashRead 2 0 4096))
  if s.tried = 0 then b else 1 - b

/-! ### Firmware verification (R428) -/

/-- The context string of a firmware signature. -/
def fwContext : List Byte := [0x48#8, 0x4A#8, 0x2D#8, 0x46#8, 0x57#8]

/-- The checks of R428 on an image, its header and then its body: 0, or the code of the first that fails.
DESIGN CHOICE, log entry 75. -/
def Sec.fwCheck (s : Sec) (h body : List Byte) : Nat :=
  let signer := (h.drop 0x58).take 1952
  let key := digest64 signer
  if field h 0 4 ≠ 0x57464A48 ∨ field h 4 2 ≠ 1 ∨ field h 6 2 ≠ 0 ∨ field h 0x14 4 ≠ 0 ∨ field h 0x10 4 = 0 ∨
      0x1FFE000 < field h 0x10 4 then 0x0E03
  else if !((List.range 2).any fun i => !bit s.revoked i && padTo 64 (Config.fwKeyDigest i) == key) ∨
      !Config.mldsa65Verify signer (h.take 0x7F8) fwContext ((h.drop 0x7F8).take 3309) then 0x0E01
  else if field h 8 4 < s.fusedSvn then 0x0E02
  else if digest64 body ≠ (h.drop 0x18).take 64 then 0x0E01
  else 0

/-- Body length of a header, within a slot. -/
def bodyLen (h : List Byte) : Nat := min (field h 0x10 4) 0x1FFE000

/-- The management processor sets EN of every link as it starts, and the links train (R306, Tables 11-11 and 15-2).
DEDUCED, log entry 49. -/
def Dev.enableLinks (d : Dev) : Dev :=
  (List.range 36).foldl (fun d n =>
    (d.setReg (pgLink n) 0x104 (d.reg (pgLink n) 0x104 ||| 2 ^ 31)).modLink n fun s =>
      if s.state = .disabled then { s with state := .training } else s) d

/-- An accepted image: its measurements (types 2 and 3), and the management processor leaves reset. DEDUCED, log entry 49. -/
def Chip.runImage (c : Chip) (h body : List Byte) (slotB recovery : Bool) : Chip :=
  let d := digest64 (h.take 0x14E5 ++ body)
  let c := (c.extend ⟨2, field h 0xC 4, d⟩).1
  let s := c.sec
  let c := (c.extend ⟨3, s.fusedSvn % 256 * 2 ^ 24 + s.revoked % 256 * 2 ^ 16, digest64 (Config.fuseImage s.fusedSvn s.revoked)⟩).1
  { c with sec := { c.sec with slotB, recovery, imageSvn := field h 8 4, fwVersion := field h 0xC 4, fwDigest := d }
           pow := { c.pow with stage := 2 }, dev := c.dev.enableLinks }

/-- HUB_RAILS_IN_REGULATION: the time base starts, the boot ROM measures itself, the identity key is derived and its
certificate checked (R431, R434, R435). -/
def Chip.hubRails (c : Chip) : Chip :=
  if c.pow.mode ≠ .boot ∨ c.pow.hubRails then c
  else
    let c := { c with pow := { c.pow with hubRails := true, stage := 0 }, dev := { c.dev with time := 0, timeFrac := 0 } }
    let c := (c.extend ⟨1, Config.romRevision % 2 ^ 32, Config.romDigest⟩).1
    let key := padTo 1952 Config.identityKey
    let ok := ((Config.identityCert.drop 0x70).take 1952 == key) && Config.keyChains (digest64 Config.identityCert) key
    if ok then c else { c.onDev fun d => d.secError 0x0E06 0 with sec := { c.sec with signingOff := true } }

/-- The ends of port q of die c on compute dies (R484). -/
def d2dEnds (c q : Nat) : List Nat := match q with | 0 => [c, c ^^^ 1] | 1 => [c, c ^^^ 2] | _ => [c]

/-- DIE_RAILS_IN_REGULATION: PWR_GOOD is released, die-to-die training begins, and the ROM turns to the firmware. A hub
that is frozen starts neither (R455). -/
def Chip.dieRails (c : Chip) : Chip :=
  if c.pow.mode ≠ .boot ∨ !c.pow.hubRails ∨ c.pow.dieRails then c
  else if c.pow.frozen then { c with pow := { c.pow with dieRails := true } }
  else
    let d := (List.range 4).foldl (fun d k => (List.range 3).foldl (fun d q => d.setD2d k q 1) d) c.dev
    { c with dev := d, pow := { c.pow with dieRails := true, stage := if c.pow.stage = 0 then 1 else c.pow.stage } }

/-- Dies made unusable by a port (R427, R484). -/
def Dev.spoil (d : Dev) (cs : List Nat) : Dev := cs.foldl (fun d c => d.modDie c fun x => { x with unusable := true }) d

/-- D2D_TRAINING_DONE: at start-up, and of a port that retrains. DESIGN CHOICE, log entry 79. -/
def Chip.d2dTrained (c : Chip) (k q : Nat) (ok : Bool) : Chip :=
  if !c.pow.up ∨ 3 ≤ q ∨ 4 ≤ k ∨ (c.dev.d2d k q ≠ 1 ∧ (c.dev.d2d k q ≠ 3 ∨ !ok)) then c
  else
    let ends := d2dEnds k q
    if ok then c.onDev fun d => ends.foldl (fun d x => d.setD2d x q 2) d
    else
      let d := (ends.foldl (fun d x => d.setD2d x q 0) c.dev).setError (pgD2d k) 0x0A80 q 0
      { c with dev := d.spoil ends, pow := { c.pow with faultN := true, unitFailed := true } }

/-- D2D_RETRAIN: a port leaves ACTIVE. DESIGN CHOICE, log entry 79. -/
def Dev.d2dRetrain (d : Dev) (c q : Nat) : Dev :=
  if 3 ≤ q ∨ 4 ≤ c ∨ d.d2d c q ≠ 2 then d
  else (d2dEnds c q).foldl (fun d x => ((d.setD2d x q 3).bump (pgD2d x) (d2dKey q 0x14) 1).raise (pgD2d x) 1) d

/-- D2D_RETRAIN_TIMEOUT (R484). DESIGN CHOICE, log entry 79. -/
def Chip.d2dTimeout (c : Chip) (k q : Nat) : Chip :=
  if !c.pow.up ∨ 3 ≤ q ∨ 4 ≤ k ∨ c.dev.d2d k q ≠ 3 then c
  else
    let ends := d2dEnds k q
    let d := ends.foldl (fun d x => (d.setD2d x q 0).setError (pgD2d x) 0x0A81 q 0) c.dev
    { c with dev := d.spoil ends, pow := { c.pow with faultN := true, unitFailed := true } }

/-- FIRMWARE_VERIFIED: the slot being tried is accepted or rejected; with neither accepted the module is in recovery
(R428, R429). -/
def Chip.firmwareVerified (c : Chip) (slot : Nat) : Chip :=
  if c.pow.mode ≠ .boot ∨ c.pow.frozen ∨ c.pow.stage ≠ 1 ∨ slot ≠ c.sec.slotTried then c
  else
    let h := c.sec.flashRead slot 0 0x2000
    let body := c.sec.flashRead slot 0x2000 (bodyLen h)
    let code := c.sec.fwCheck h body
    if code = 0 then c.runImage h body (slot == 1) false
    else
      let c := c.onDev fun d => d.secError code (slot + if code = 0x0E02 then field h 8 4 % 2 ^ 16 * 2 ^ 16 else 0)
      if c.sec.tried = 0 then { c with sec := { c.sec with tried := 1 } }
      else
        { c.onDev fun d => d.secError 0x0E04 0 with
          sec := { c.sec with tried := 2, recovery := true }, pow := { c.pow with stage := 4, faultN := true } }

/-- RECOVERY_LOAD (R429): 256 bytes at an offset of the image. -/
def Chip.recoveryLoad (c : Chip) (off : Nat) (bs : List Byte) : Chip :=
  if c.pow.mode ≠ .boot ∨ c.pow.frozen ∨ c.pow.stage ≠ 4 ∨ bs.length ≠ 256 ∨ 0x2000000 < off + 256 then c
  else { c with sec := { c.sec with image := c.sec.image.write off bs } }

/-- RECOVERY_GO. DEDUCED, log entry 72. -/
def Chip.recoveryGo (c : Chip) : Chip :=
  if c.pow.mode ≠ .boot ∨ c.pow.frozen ∨ c.pow.stage ≠ 4 then c
  else
    let h := c.sec.image.read 0 0x2000
    let body := c.sec.image.read 0x2000 (bodyLen h)
    let code := c.sec.fwCheck h body
    if code = 0 then
      let c := c.runImage h body false true
      { c with pow := { c.pow with faultN := c.pow.unitFailed } }
    else c.onDev fun d => d.secError 0x0E05 code

/-! ### Memory training and READY (R257, R258, R426, R358) -/

/-- HBM training: stacks in the mask failed (R427). -/
def Dev.trainHbm (d : Dev) (failed : Nat) : Dev :=
  (List.range 8).foldl (fun d st =>
    if bit failed st then (d.setError (pgHbmc st) 0x0808 st 0).spoil [st / 2] else d.setReg (pgHbmc st) 0x104 (2 ^ 31)) d

/-- Capacities in GiB of the DIMMs that the device supports (Chapter 10, DDR5). -/
def supportedDimm (g : Nat) : Bool := [16, 32, 48, 64, 96, 128, 256].contains g

/-- Where the byte of a die window at offset `o` lies once the window is laid over the channels `new` and no longer over
`old`: its place on its DIMM stays (R259). None where its channel is no longer populated. -/
def ddrMoved (old new : List Nat) (o : Nat) : Option Nat :=
  let w := o / 4096
  let n := new.idxOf (old.getD (w % old.length) 12)
  if n < new.length then some ((w / old.length * new.length + n) * 4096 + o % 4096) else none

/-- The contents of the die windows follow their DIMMs when the populated channels of a die have changed (R259). -/
def Dev.relayDdr (d : Dev) : Dev :=
  let laid := (List.range 12).filter fun n => d.dimm n != 0
  let of_ (xs : List Nat) (c : Nat) : List Nat := xs.filter fun n => n / 3 == c
  let inDdr (a : Nat) : Bool := decide (ddrBase ≤ a ∧ a < sramBase)
  let move (a : Nat) : Option Nat :=
    let c := (a - ddrBase) / ddrWindow
    (ddrMoved (of_ d.ddrLaid c) (of_ laid c) ((a - ddrBase) % ddrWindow)).map (ddrBase + c * ddrWindow + ·)
  if d.ddrLaid = [] ∨ d.ddrLaid = laid then { d with ddrLaid := laid }
  else
    { d with
      ddrLaid := laid
      mem := (d.mem.filter fun x => inDdr x.1).foldl (fun m x =>
        match move x.1 with | some a => m.write a [x.2] | none => m) (d.mem.filter fun x => !inDdr x.1)
      ecc := d.ecc.filterMap fun u => if inDdr u then move u else some u }

/-- DDR5 training: GiB of each DIMM found; channels whose DIMM fails to train (R257, R258). -/
def Dev.trainDdr (d : Dev) (dimms : List Nat) (bad : Nat) : Dev :=
  let d := (List.range 12).foldl (fun d n =>
    let g := dimms.getD n 0
    let used := supportedDimm g && !bit bad n
    let d := d.setReg (pgDdr n) 0x100 (if used then 3 * 2 ^ 30 + g else g % 2 ^ 16)
    if !used ∧ (g ≠ 0 ∨ bit bad n) then d.setError (pgDdr n) 0x0901 (g % 2 ^ 16) 0 else d) d
  let d := d.relayDdr
  (List.range 12).foldl (fun d n =>
    let home := (d.homeChannels (n / 3)).map d.dimm
    let least := home.foldl min (home.headD 0)
    if d.dimm n = 0 then d
    else
      let d := d.setReg (pgDdr n) 0x104 least
      if least < d.dimm n then d.setError (pgDdr n) 0x0902 ((d.dimm n - least) * 2 ^ 16 + least) 0 else d) d

/-- The table rebuilt after a warm reset: manifests that do not verify are dropped (R358, R432). DEDUCED, log entry 64. -/
def Dev.rebuildGens (d : Dev) : Dev :=
  (List.range 16).foldl (fun d i =>
    let g := d.gen i
    if g.state = 3 ∧ !manVerified g.manifest then d.modGen i fun _ => {} else d) d

/-- The latest generation number of the table (R355, R358). DEDUCED, log entry 64. -/
def Dev.latestGen (d : Dev) : Option Nat :=
  (List.range 16).foldl (fun b i =>
    let g := d.gen i
    if g.state = 0 then b
    else match b with
      | none => some g.id
      | some x => if serialLater 32 x g.id then some g.id else some x) none

/-- The HUB_ID registers 0x100–0x120, whose digest is measured at READY. -/
def Dev.hubIdWord (d : Dev) (off : Nat) : Nat :=
  match off with
  | 0x100 => 0x4A561152
  | 0x104 => 0x00180030
  | 0x108 => 0x04020218
  | 0x10C => 0x40204020
  | 0x110 => 0x08000050
  | 0x114 => ((List.range 12).map fun n => if d.dimm n = 0 then 0 else 2 ^ (16 + n)).foldl (· + ·) 12
  | 0x118 => 0x00000924
  | 0x11C => 0x04080000
  | 0x120 => 0x00100800
  | _ => 0

/-- Units marked unusable. -/
def Dev.unusable (d : Dev) : Nat := ((List.range 4).map fun c => b2n (d.die c).unusable).foldl (· + ·) 0

/-- MEMORY_TRAINING_DONE: READY (R426). DEDUCED, log entry 59. -/
def Chip.trained (c : Chip) (failing : Nat) (dimms : List Nat) (bad : Nat) : Chip :=
  if c.pow.mode ≠ .boot ∨ c.pow.frozen ∨ c.pow.stage ≠ 2 ∨ c.pow.stuck then c
  else
    let d := ((c.dev.trainHbm failing).trainDdr dimms bad).rebuildGens
    let d := { d with genNext := match d.latestGen with | some n => nextGen n | none => 1 }
    let failed := c.pow.unitFailed || failing % 256 != 0
    let c := { c with dev := d, pow := { c.pow with mode := .ready, stage := 3, faultN := failed, unitFailed := failed } }
    let regs := (List.range 9).flatMap fun i => natLe 4 (d.hubIdWord (0x100 + 4 * i))
    let c := { c with pow := { c.pow with stage := 2 } }
    let c := (c.extend ⟨4, d.unusable, digest64 regs⟩).1
    { c with pow := { c.pow with stage := 3 }, dev := c.dev.raise pgSec 1 }

/-- BOOT_TIMEOUT (R426). DEDUCED, log entry 72. -/
def Chip.bootTimeout (c : Chip) : Chip :=
  if c.pow.mode ≠ .boot ∨ c.pow.frozen ∨ c.pow.stage = 3 then c
  else { c.onDev fun d => d.secError 0x0E0B c.pow.stage with
         pow := { c.pow with faultN := true, stuck := c.pow.stage != 4 } }

/-! ### Warm reset (R423, R424, R432) -/

/-- A generation at a reset: one that is not COMPLETE is FAILED with reason RESET. DEDUCED, log entry 64. -/
def GenSt.atReset (g : GenSt) : GenSt :=
  if g.state = 3 then { g with use := 0, pinned := false, drained := false, drain := false }
  else if g.state = 0 ∨ g.state = 4 then {}
  else { id := g.id, state := 4, cold := g.cold, mask := g.mask, part := g.part, reason := 3, hdr := g.hdr }

/-- What a warm reset keeps of the device: DDR5, the generations in it, and the reserve they stand in (R405, R423).
DEDUCED, log entry 64. -/
def Dev.warmed (d : Dev) : Dev :=
  let ddr (a : Nat) : Bool := decide (ddrBase ≤ a ∧ a < sramBase)
  let gens := (d.gens.map fun x => (x.1, x.2.atReset)).filter fun x => x.2 ≠ {}
  let kept := gens.any fun x => x.2.state == 3
  ({ out := d.out, freeCount := d.freeCount, ddrLaid := d.ddrLaid, gens
     meters := d.meters.filter fun x => x.1 == meterKey pgPwr 0 0x118 -- IN_ENERGY counts from power-on
     cores := resetTable (fun _ => true) d.cores, mem := d.mem.filter fun x => ddr x.1, ecc := d.ecc.filter ddr
     regs := if kept then d.regs.filter fun x => decide (regKey pgProof 0x110 ≤ x.1 ∧ x.1 < regKey pgProof 0x120) else [] } : Dev).sensed d

/-- A warm-reset trigger (R424, R425): W of Table 15-5. During BOOT or another warm reset the sequence starts again and the
first cause stays. DEDUCED, log entry 72. -/
def Chip.warmStart (c : Chip) (cause : Nat) : Chip :=
  let p := c.pow
  let again := p.mode == .warmReset || p.mode == .boot
  if p.mode = .off ∨ p.mode = .standby ∨ p.mode = .tripped then c
  else
    let sec := if again then c.sec else { c.sec with cause, warmResets := sat 16 (c.sec.warmResets + 1) }
    { c with sec, pow := { p with mode := .warmReset, warm := 1, frozen := false, keeper := false, gated := false, stuck := false } }

/-- RAIL_FAULT (R422–R425). The error is set while the hub runs; a fault in a warm reset or during BOOT starts it again.
DEDUCED, log entry 72. -/
def Chip.railFault (c : Chip) : Chip :=
  if c.pow.mode = .off ∨ c.pow.mode = .standby ∨ c.pow.mode = .tripped then c
  else
    let d := if c.pow.up then (c.dev.setError pgPwr 0x0D06 0 0).raise pgPwr 4 else c.dev
    { c with dev := d, pow := { c.pow with faultN := true } }.warmStart 4

/-- WATCHDOG_EXPIRY: the management processor's watchdog stands still with it while frozen (R425). DEDUCED, log entry 72. -/
def Chip.watchdog (c : Chip) : Chip :=
  if c.pow.served then (c.onDev fun d => d.secError 0x0E0A 0).warmStart 5 else c

/-- DDR_SELF_REFRESH_ENTERED, WARM_RESET_RAILS_OFF and WARM_RESET_RESTART (Table 15-5). -/
def Chip.selfRefresh (c : Chip) : Chip :=
  if c.pow.mode = .warmReset ∧ c.pow.warm = 1 then { c with pow := { c.pow with warm := 2 } } else c
def Chip.railsOff (c : Chip) : Chip :=
  if c.pow.mode = .warmReset ∧ c.pow.warm = 2 then
    { dev := c.dev.warmed, sec := c.sec.afterReset c.sec.cause c.sec.warmResets
      pow := { mode := .warmReset, vin := c.pow.vin, pwrEn := c.pow.pwrEn, cold := c.pow.cold, warm := 3, freezeTime := c.pow.freezeTime
               faultN := c.sec.cause == 4 } }
  else c
def Chip.warmRestart (c : Chip) : Chip :=
  if c.pow.mode = .warmReset ∧ c.pow.warm = 3 then { c with pow := { c.pow with mode := .boot, warm := 0, stage := 0 } } else c

/-- A keyed write of SEC.RESET; `permit` says the writer holds permit bit 6 (R440). DEDUCED, log entry 76. -/
def Chip.secReset (c : Chip) (permit : Bool) (w : Word) : Chip :=
  if !c.pow.up then c
  else if permit ∧ w.toNat / 2 ^ 16 = 0xA5C3 ∧ bit w.toNat 0 then c.warmStart 3
  else c.onDev fun d => d.secError 0x0E09 0

/-! ### The board-management bus (Table 15-7, R497) -/

/-- WARM_RESET, also while frozen. DEDUCED, log entry 76. -/
def Chip.busWarmReset (c : Chip) : Chip := if c.pow.served ∨ c.pow.frozen then c.warmStart 2 else c

/-- TRUST_WRITE (R393, R431): the slot's 128 bytes, measured. -/
def Chip.trustWrite (c : Chip) (slot : Nat) (image : List Byte) : Chip :=
  if !c.pow.served ∨ 4 ≤ slot ∨ image.length ≠ 128 then c
  else
    let r := c.extend ⟨5, slot, digest64 image⟩
    if r.2 then r.1.onDev fun d => (List.range 32).foldl (fun d i => d.setReg pgRailjor (0x200 + 0x80 * slot + 4 * i) (field image (4 * i) 4)) d
    else r.1

/-- DEBUG_OPEN (R438). -/
def Chip.openDebug (c : Chip) : Chip :=
  if !c.pow.served then c
  else
    let r := c.extend ⟨6, 0, List.replicate 64 0#8⟩
    if r.2 then { r.1.onDev fun d => d.raise pgSec 4 with sec := { r.1.sec with debugOpen := true } } else r.1

/-- FLASH_WRITE: the slot that did not boot, or the boot record; anything else is refused. DESIGN CHOICE, log entry 75. -/
def Chip.flashWrite (c : Chip) (target off : Nat) (bs : List Byte) : Chip :=
  if !c.pow.served ∨ bs.length ≠ 256 then c
  else
    let ok := (target = 2 ∧ off + 256 ≤ 4096) ∨
      (target < 2 ∧ off + 256 ≤ 2 ^ 25 ∧ (c.sec.recovery ∨ (target = 1) ≠ (c.sec.slotB = true)))
    if ok then { c with sec := c.sec.flashPut target off bs }
    else c.onDev fun d => d.secError 0x0E0D (target * 2 ^ 25 + off)

/-- SVN_COMMIT (R430). -/
def Chip.svnCommit (c : Chip) : Chip :=
  let s := c.sec
  if !c.pow.served then c
  else if s.imageSvn ≤ s.fusedSvn ∨ 64 < s.imageSvn then c.onDev fun d => d.secError 0x0E0C (s.fusedSvn % 2 ^ 16 * 2 ^ 16)
  else { c with sec := { s with fusedSvn := s.imageSvn } }

/-! ### Attestation (R437, Table 15-8) -/

/-- The report's bytes before its signature. -/
def Chip.reportBody (c : Chip) : List Byte :=
  let s := c.sec
  let d := c.dev
  let maint := (List.range 4).any fun p => (d.part p).maint
  padTo 256 (natLe 4 0x54414A48 ++ natLe 2 1 ++ natLe 1 s.log.length ++
    natLe 1 (b2n s.debugOpen * 128 + b2n s.recovery * 64 + b2n maint * 32) ++ natLe 8 d.time ++
    ((List.range 8).flatMap fun i => natLe 4 (d.reg pgSec (0x120 + 4 * i))) ++ hubShape ++ natLe 4 s.fusedSvn ++ natLe 4 0 ++
    padTo 64 s.chain ++ digest64 Config.identityCert) ++
  s.log.flatMap fun m => natLe 2 m.typ ++ natLe 2 0 ++ natLe 4 m.info ++ natLe 8 0 ++ padTo 64 m.digest

/-- ATTEST_GO: the report is formed and waits to be signed; refused where nothing is signed (R435). -/
def Chip.attestGo (c : Chip) (w : Word) : Chip :=
  if !c.pow.up ∨ !bit w.toNat 0 ∨ c.sec.attGo then c
  else if c.sec.signingOff then c.onDev fun d => d.secError 0x0E06 0
  else { c with sec := { c.sec with attGo := true, attBody := c.reportBody }, dev := { c.dev with signQ := c.dev.signQ ++ [(2, 0)] } }

/-- ATTEST_SIGNED: an empty signature is a signing that failed (R436). -/
def Chip.attestSigned (c : Chip) (sig : List Byte) : Chip :=
  if !c.pow.up ∨ !c.sec.attGo ∨ c.dev.signQ.head? ≠ some (2, 0) then c
  else
    let c := { c with dev := { c.dev with signQ := c.dev.signQ.tail }, sec := { c.sec with attGo := false } }
    if sig.isEmpty then c.onDev fun d => d.secError 0x0E06 0
    else { c with sec := { c.sec with attReport := c.sec.attBody ++ padTo 3309 sig }, dev := c.dev.raise pgSec 2 }

/-! ### Freeze (R453–R456) -/

/-- A generation under way fails with 0x0B07 (R358, Table 12-12). DEDUCED, log entry 78. -/
def Dev.freezeGens (d : Dev) : Dev :=
  let d := (List.range 4).foldl (fun d p =>
    let ph := (d.proof p).phase
    if ph = .idle ∨ ph = .ordered ∨ ph = .restore then d else d.proofError p 0x0B07 0) d
  (List.range 16).foldl (fun d i => d.modGen i fun g =>
    if g.state = 1 ∨ g.state = 2 ∨ g.state = 5 then { g with state := 4, reason := 2, code := 0x0B07, frames := [], man := [], snap := [] }
    else g) d

/-- FREEZE: every domain stops; F is the time base plus 12 ns. DEDUCED, log entry 78. -/
def Chip.freeze (c : Chip) : Chip :=
  if c.pow.up then
    { c with dev := c.dev.freezeGens, pow := { c.pow with frozen := true, freezeTime := (c.dev.time + 12) % 2 ^ 64 } }
  else c

/-- FREEZE_REFRESH_KEEPER (R455): DDR5 in self-refresh, FAULT_N low. DEDUCED, log entry 78. -/
def Chip.refreshKeeper (c : Chip) : Chip :=
  if c.pow.frozen then { c with pow := { c.pow with keeper := true, faultN := true } } else c

end Sys2Proof.Machine
end

