-- ==== Sys2Proof/Machine/RegRead.lean ====
section
/-!
DEFINITION. Sys2Proof/Machine/RegRead.lean: what every register of the module reads (R7, R9, R465–R470, R479). A read changes
nothing but the count of free values, which measured quantities are drawn by.
-/
namespace Sys2Proof.Machine

/-! ### Words and fields -/

/-- Word `off` of a 64-bit value whose low half stands at `base`. -/
def half64 (base off v : Nat) : Nat := if off = base then v % 2 ^ 32 else v / 2 ^ 32 % 2 ^ 32

/-- A temperature or other signed value in 16 bits. -/
def short (t : Int) : Nat := unsigned 16 t

/-- A measured value the model does not follow. DESIGN CHOICE, log entry 10. -/
def Dev.measured (d : Dev) (page off : Nat) : Nat := (Config.metered (regKey page off) d.freeCount).toNat

/-- The hottest sensor of a die (Table 14-6). -/
def Dev.hottest (d : Dev) (c : Nat) : Int :=
  (dieSensors c).foldl (fun m s => max m (tget 0 d.temps s)) (tget 0 d.temps c)

/-- The lists of flags of a set of numbers as one word, bit b for `f b`. -/
def flagsOf (n : Nat) (f : Nat → Bool) : Nat := (List.range n).foldl (fun m b => if f b then m + 2 ^ b else m) 0

/-! ### Core pages -/

/-- CORE (Table 8-15). -/
def Dev.readCore (d : Dev) (k off : Nat) : Nat :=
  let c := d.core k
  let run := match c.running with | some l => l | none => 0
  if 0x140 ≤ off ∧ off < 0x1C0 then half64 0 (off % 8) (c.areg ((off - 0x140) / 8))
  else if 0x1C0 ≤ off ∧ off < 0x200 then c.creg ((off - 0x1C0) / 4)
  else if 0x200 ≤ off ∧ off < 0x300 then (c.list ((off - 0x200) / 16)).word (off % 16)
  else if 0x400 ≤ off ∧ off < 0x440 then leNat (c.cmem.read (64 * (d.reg (pgCore k) 0x12C % 1024) + (off - 0x400)) 4)
  else match off with
    | 0x100 => 0x04001004
    | 0x104 => b2n (c.running.isSome || !c.cmds.isEmpty) * 2 ^ 31 + run * 2 ^ 27 +
        (match c.running with | some l => (c.list l).cursor % 1024 | none => 0) * 2 ^ 16 + c.busyUnits % 256 * 256
    | 0x108 => c.seqNext
    | 0x10C => c.seqRetired
    | 0x110 | 0x114 => half64 0x110 off ((c.admitted.take 16).reverse.foldl (fun m l => m * 16 + l % 16) 0)
    | 0x118 => c.admitted.length
    | 0x124 => b2n (d.maint k) * 16 +
        b2n (match d.partOf k with | some p => (d.part p).globalRecast | none => false) * 4 +
        b2n (match c.running with | some l => (c.list l).err | none => false)
    | 0x13C => b2n c.cmemJob.isSome
    | 0x128 => d.reg (pgCore k) off / 2 ^ 16 * 2 ^ 16 + sat 16 (d.metered (pgCore k) 0 off)
    | 0x11C | 0x120 | 0x12C | 0x130 | 0x134 | 0x138 => d.reg (pgCore k) off
    | _ => 0

/-- Units of work not yet begun in the command a unit runs, passes for an array, saturating at 16 bits. -/
def CoreSt.workLeft (c : CoreSt) (u : Nat) : Nat :=
  match c.cmds.find? fun x => x.unit == u && x.started with
  | some x => sat 16 (x.unitsOf - x.pos)
  | none => 0

/-- A unit is busy: one of its commands has started and not retired. -/
def CoreSt.unitBusy (c : CoreSt) (u : Nat) : Bool := c.cmds.any fun x => x.unit == u && x.started

/-- FWD (Table 4-9). -/
def Dev.readFwd (d : Dev) (k off : Nat) : Nat :=
  let c := d.core k
  match off with
  | 0x100 => 0x40201B3F
  | 0x104 => 0x00100000
  | 0x108 => b2n (c.unitBusy 0) * 2 ^ 31 + min 4 (c.staging 0) * 2 ^ 24 + c.workLeft 0
  | 0x10C => tget 0 c.curSeq 0
  | 0x110 | 0x114 | 0x118 | 0x11C | 0x120 | 0x124 | 0x128 | 0x12C | 0x130 => d.reg (pgFwd k) off
  | _ => 0

/-- BWD (Table 6-7). -/
def Dev.readBwd (d : Dev) (k off : Nat) : Nat :=
  let c := d.core k
  let s := c.slab (d.slabSel k)
  let t := c.tap (d.tapSel k)
  match off with
  | 0x100 => 0x4020080C
  | 0x104 => 0x00100000
  | 0x108 => b2n (c.unitBusy 1) * 2 ^ 31 + b2n c.held * 2 ^ 30 + min 2 (c.staging 1) * 2 ^ 24 + c.workLeft 1
  | 0x10C => tget 0 c.curSeq 1
  | 0x110 | 0x114 | 0x118 | 0x11C | 0x120 | 0x124 | 0x128 | 0x12C | 0x130 | 0x134 => d.reg (pgBwd k) off
  | 0x140 => s.word 0
  | 0x144 => s.word 4
  | 0x148 => s.word 8
  | 0x14C => s.word 0xC
  | 0x150 => s.word 0x10
  | 0x160 => t.cfg
  | 0x164 => t.tag
  | 0x168 | 0x16C => half64 0x168 off t.mb.toNat
  | 0x170 | 0x174 => half64 0x170 off t.acc.toNat
  | 0x178 => sat 16 t.n
  | 0x180 | 0x184 => half64 0x180 off t.mbL.toNat
  | 0x188 | 0x18C => half64 0x188 off t.accL.toNat
  | 0x190 => sat 16 t.nL
  | _ => 0

/-- ROW (Table 6-8). -/
def Dev.readRowPage (d : Dev) (k off : Nat) : Nat :=
  let c := d.core k
  let i := d.reg (pgRow k) 0x11C % 128
  let s := c.setHdr i
  if 0x200 ≤ off ∧ off < 0x400 then (tget 0#32 c.stats (128 * i + (off - 0x200) / 4)).toNat
  else match off with
    | 0x100 => 0x40800040
    | 0x104 => b2n (c.unitBusy 2) * 2 ^ 31 + c.workLeft 2
    | 0x108 => tget 0 c.curSeq 2
    | 0x10C | 0x110 | 0x114 | 0x118 | 0x11C => d.reg (pgRow k) off
    | 0x120 => s.tag
    | 0x124 => s.row
    | 0x128 => s.info
    | _ => 0

/-- Slots of a core that are in calibration (R127): an unlisted slot is. DEDUCED, log entry 31. -/
def CoreSt.calibrating (c : CoreSt) : Nat := 512 - (c.slots.filter fun s => !s.2.calib).length

/-- GAUGE (Table 5-7). -/
def Dev.readGauge (d : Dev) (k off : Nat) : Nat :=
  let c := d.core k
  if isSlotWindow off then field (c.slot (d.reg (pgGauge k) 0x104 % 512)).image (off - 0x200) 4
  else match off with
    | 0x100 => 0x020010C0
    | 0x108 => (c.members.filter (·.inRecast)).length * 2 ^ 16 + c.members.length
    | 0x10C => c.calibrating
    | 0x110 => (d.die (coreDie k)).commitStep
    | 0x104 | 0x114 | 0x118 | 0x11C => d.reg (pgGauge k) off
    | _ => 0

/-- GALLEY (Table 9-7). -/
def Dev.readGalley (d : Dev) (k off : Nat) : Nat :=
  if 0x100 ≤ off ∧ off < 0x500 then
    let g := (off - 0x100) / 0x40
    ((d.core k).galley g).word ((d.core k).galleyBusy g) (off % 0x40)
  else 0

/-- LANE (Table 7-7). -/
def Dev.readLane (d : Dev) (k off : Nat) : Nat :=
  let c := d.core k
  match off with
  | 0x100 => 0x4040FF00
  | 0x104 => b2n (c.laneHolder != 0) * 2 ^ 31 + c.laneHolder % 8 * 2 ^ 28
  | 0x138 => b2n c.probe.isSome
  | 0x108 | 0x10C | 0x110 | 0x114 | 0x118 | 0x11C | 0x120 | 0x124 | 0x128 | 0x130 | 0x134 | 0x140 | 0x144 | 0x148 | 0x14C
  | 0x150 | 0x154 => d.reg (pgLane k) off
  | _ => 0

/-- CNT (Table 16-11). -/
def Dev.readCnt (d : Dev) (k off : Nat) : Nat :=
  if 0x120 ≤ off ∧ off < 0x140 then
    let v := tget (0, 0) (d.core k).live ((off - 0x120) / 8)
    half64 0 (off % 8) (v.1 % 2 ^ 48 + v.2 % 2 ^ 16 * 2 ^ 48)
  else if 0x140 ≤ off ∧ off < 0x180 then d.reg (pgCnt k) off
  else match off with
    | 0x100 => 0x08041014
    | 0x104 | 0x108 | 0x10C | 0x110 | 0x114 | 0x118 => d.reg (pgCnt k) off
    | _ => 0

/-! ### Die pages -/

/-- DIE (Table 17-5). The replica stands within 2 ns of the time base (R30). -/
def Dev.readDie (d : Dev) (c off : Nat) : Nat :=
  let x := d.die c
  let dev : Int := (d.measured (pgDie c) 0x118 % 5 : Nat) - 2
  match off with
  | 0x100 => c * 2 ^ 30 + 288 * 2 ^ 12 + 16 * 2 ^ 4 + 9
  | 0x104 => 12 * (c / 2) * 2 ^ 16 + 24 * (c % 2)
  | 0x108 => b2n x.part.isSome * 2 ^ 31 + b2n x.unusable * 2 ^ 30 + b2n (!x.live) * 2 ^ 29 + (match x.part with | some p => p % 4 | none => 0)
  | 0x10C => 3 * c * 256 + flagsOf 3 fun j => d.dimm (3 * c + j) != 0
  | 0x110 => short (d.hottest c)
  | 0x118 | 0x11C => half64 0x118 off ((d.time : Int) + dev).toNat
  | 0x120 => short ((d.measured (pgDie c) 0x120 % 5 : Nat) - 2)
  | 0x124 => (d.cores.filter fun k => decide (k.1 < numCores) && coreDie k.1 == c && k.2.running.isSome).length
  | _ => 0

/-- MESH (Table 17-6): the selected router's counters. -/
def Dev.readMesh (d : Dev) (c off : Nat) : Nat :=
  let sel := d.reg (pgMesh c) 0x104 % 512
  match off with
  | 0x100 => 288 * 2 ^ 16 + 4 * 256 + 4
  | 0x104 => sel
  | 0x10C => if sel < 288 then sat 32 (d.metered (pgMesh c) sel off) else 0
  | _ => if sel < 288 ∧ 0x110 ≤ off ∧ off < 0x138 then half64 0 (off % 8) (d.metered (pgMesh c) sel (off / 8 * 8)) else 0

/-- HBMC (Tables 10-7, 12-16). -/
def Dev.readHbmc (d : Dev) (st off : Nat) : Nat :=
  let pg := pgHbmc st
  let w := d.cow st
  match off with
  | 0x100 => st * 2 ^ 24 + 80
  | 0x104 => d.reg pg 0x104 + b2n (match (d.die (st / 2)).part with | some p => (d.part p).claim == 1 | none => false) * 2 ^ 30
  | 0x108 => short (tget 0 d.temps (4 + st))
  | 0x110 | 0x118 | 0x11C | 0x184 | 0x188 | 0x198 | 0x19C | 0x1A0 | 0x1A4 => d.reg pg off
  | 0x10C => sat 32 (d.metered pg 0 off)
  | 0x120 | 0x124 | 0x128 | 0x12C | 0x130 | 0x134 => half64 0 (off % 8) (d.metered pg 0 (off / 8 * 8))
  | 0x180 => b2n w.armed * 2 ^ 31 + w.shadow.length % 2 ^ 16
  | 0x18C => d.imageCount st w.dirty
  | 0x190 => d.imageCount st w.copySet
  | 0x194 => w.done.length
  | 0x1A8 => flagsOf 32 fun i =>
      let q := 32 * (d.reg pg 0x1A4 % 2048) + i
      decide (q < stackPages) && w.dirty.has q && !d.inReserve st q
  | _ => 0

/-- PLATEN (Table 10-10). -/
def Dev.readPlaten (d : Dev) (st off : Nat) : Nat :=
  let x := d.platen st
  if 0x200 ≤ off ∧ off < 0x400 then d.reg (pgPlaten st) off
  else match off with
    | 0x100 => 0x401F0100
    | 0x104 => b2n x.running.isSome * 2 ^ 31 + (x.queue.length + b2n x.running.isSome)
    | 0x108 => x.curSeq
    | 0x10C => x.curCore % 2048
    | 0x110 | 0x114 | 0x118 | 0x11C | 0x120 | 0x128 | 0x12C => d.reg (pgPlaten st) off
    | _ => 0

/-- DMA (Table 10-9). -/
def Dev.readDma (d : Dev) (c e off : Nat) : Nat :=
  let x := d.dma (dmaIdx c e)
  match off with
  | 0x100 => e * 2 ^ 24 + 64 * 2 ^ 16
  | 0x104 => b2n x.running.isSome * 2 ^ 31 + b2n (match x.running with | some j => dOp j.desc == 0x39 | none => false) * 2 ^ 30 +
      x.accepted % 128
  | 0x108 => x.curSeq
  | 0x10C => x.curCore % 2048
  | 0x11C => x.bgPend
  | 0x110 | 0x114 | 0x118 | 0x120 => d.reg (pgDma c e) off
  | _ => 0

/-- LINK (Table 11-11). -/
def Dev.readLink (d : Dev) (n off : Nat) : Nat :=
  let pg := pgLink n
  let s := d.ln n
  match off with
  | 0x100 => n * 2 ^ 24 + 4 * 2 ^ 16 + 64 * 256 + 64
  | 0x108 => (d.lnState n).code * 2 ^ 29 + s.epoch % 2 ^ 16
  | 0x120 | 0x124 | 0x128 | 0x12C => half64 0 (off % 8) (d.metered pg 0 (off / 8 * 8))
  | 0x150 => s.retry.length % 2 ^ 14
  | 0x154 => d.lnSkew n
  | 0x104 | 0x10C | 0x110 | 0x114 | 0x118 | 0x11C | 0x130 | 0x134 | 0x138 | 0x13C | 0x140 | 0x144 | 0x148 | 0x14C | 0x158
  | 0x15C | 0x160 => d.reg pg off
  | _ => 0

/-- COLL (Table 11-12). -/
def Dev.readColl (d : Dev) (c off : Nat) : Nat :=
  let x := d.coll c
  let ch (i : Nat) : Nat := match d.collRun c i with | some r => 2 ^ 31 + r.entry % 64 * 2 ^ 24 + r.arm % 256 * 2 ^ 16 | none => 0
  match off with
  | 0x100 => 64 * 2 ^ 24 + 4 * 2 ^ 16 + (collSource + c)
  | 0x110 => flagsOf 4 (fun i => (d.collRun c i).isSome) * 2 ^ 28
  | 0x114 | 0x118 | 0x11C | 0x120 => ch ((off - 0x114) / 4)
  | 0x128 | 0x12C => half64 0x128 off (flagsOf 64 fun e => tget 0 x.kicks e != 0)
  | 0x144 =>
    let e := d.reg (pgColl c) 0x140 % 64
    tget 0 x.kicks e % 256 * 256 + tget 0 x.arms e % 256
  | 0x104 | 0x108 | 0x10C | 0x130 | 0x134 | 0x138 | 0x13C | 0x140 => d.reg (pgColl c) off
  | _ => 0

/-- D2D (Table 17-7). The latency of port 2 is not stated. -/
def Dev.readD2d (d : Dev) (c off : Nat) : Nat :=
  let q := d.reg (pgD2d c) 0x104 % 4
  if off = 0x100 then 3 * 2 ^ 24
  else if off = 0x104 then q
  else if q = 3 then 0
  else match off with
    | 0x108 => d.d2d c q % 8 * 2 ^ 29 + (match q with | 0 => c ^^^ 1 | 1 => c ^^^ 2 | _ => 0xFF) * 256
    | 0x114 => d.reg (pgD2d c) (d2dKey q 0x14)
    | 0x10C | 0x110 => sat 32 (d.metered (pgD2d c) q off)
    | 0x118 | 0x11C | 0x120 | 0x124 => half64 0 (off % 8) (d.metered (pgD2d c) q (off / 8 * 8))
    | 0x128 => if q < 2 then 14 else d.measured (pgD2d c) (q * 0x1000 + off) % 2 ^ 16
    | _ => 0

/-! ### Hub pages -/

/-- TIME (Table 2-4). -/
def Dev.readTime (d : Dev) (off : Nat) : Nat :=
  match off with
  | 0x100 | 0x104 => half64 0x100 off d.time
  | 0x108 | 0x10C | 0x114 | 0x118 | 0x11C => d.reg pgTime off
  | _ => 0

/-- IMPR (Table 2-3). -/
def Dev.readImpr (d : Dev) (off : Nat) : Nat :=
  if off < 0x100 ∨ 0x300 ≤ off then 0
  else
    let p := (off - 0x100) / 0x80
    let x := d.part p
    let o := off % 0x80
    match o with
    | 0x00 => d.reg pgImpr off % 8 / 2 * 2 + b2n x.run
    | 0x34 => x.num
    | 0x38 => x.step
    | 0x3C => x.pos % 2 ^ 16 * 2 ^ 16 + x.m % 16 * 256 + min 15 x.d * 16 + x.state.code
    | 0x40 | 0x44 => half64 0x40 o x.tickTime
    | 0x48 | 0x4C => half64 0x48 o x.nextTick
    | 0x04 | 0x08 | 0x0C | 0x10 | 0x14 | 0x18 | 0x1C | 0x20 | 0x24 | 0x28 | 0x2C | 0x30 | 0x50 | 0x54 => d.reg pgImpr off
    | _ => 0

/-- GOV (Table 14-6). -/
def Dev.readGov (d : Dev) (off : Nat) : Nat :=
  if 0x140 ≤ off ∧ off < 0x1C0 then
    let c := (off - 0x140) / 0x20
    match (off - 0x140) % 0x20 with
    | 0x00 => d.cap c % 4 * 16 + (d.die c).target % 4 * 4 + (d.die c).point % 4
    | 0x04 => short (d.hottest c)
    | 0x08 | 0x0C => half64 0 (off % 8) (d.metered pgGov 0 (off / 8 * 8))
    | 0x10 | 0x14 | 0x18 => d.reg pgGov off
    | _ => 0
  else if 0x200 ≤ off ∧ off < 0x300 then (if off % 0x40 < 0x28 then d.reg pgGov off else 0)
  else match off with
    | 0x100 => 0x04040800
    | 0x104 => d.reg pgGov off
    | _ => 0

/-- PWR (Table 14-7). -/
def Chip.readPwr (c : Chip) (off : Nat) : Nat :=
  let d := c.dev
  match off with
  | 0x100 => 2400 * 2 ^ 16
  | 0x104 => c.pow.vin
  | 0x108 => d.measured pgPwr off
  | 0x118 | 0x11C => half64 0 (off % 8) (d.metered pgPwr 0 0x118)
  | 0x114 => 120
  | 0x128 => 460
  | 0x12C => short (tget 0 d.temps 12)
  | 0x130 => d.alert c.pow.vin
  | 0x10C | 0x110 | 0x120 | 0x124 | 0x134 | 0x138 => d.reg pgPwr off
  | _ => 0

/-- DDR (Table 10-8). A DIMM's temperature is measured. -/
def Chip.readDdr (c : Chip) (n off : Nat) : Nat :=
  let pg := pgDdr n
  match off with
  | 0x108 => b2n (c.pow.keeper && c.dev.dimm n != 0)
  | 0x10C => c.dev.measured pg off % 2 ^ 16
  | 0x110 => sat 32 (c.dev.metered pg 0 off)
  | 0x120 | 0x124 | 0x128 | 0x12C => half64 0 (off % 8) (c.dev.metered pg 0 (off / 8 * 8))
  | 0x100 | 0x104 | 0x114 | 0x118 | 0x11C => c.dev.reg pg off
  | _ => 0

/-- 2 MiB units a partition's proof has left to copy. -/
def Dev.copyLeft (d : Dev) (p : Nat) : Nat :=
  if (d.proof p).phase = .copy then
    ((d.stacksOf p).map fun st =>
      let w := d.cow st
      d.imageCount st w.copySet - w.done.length).foldl (· + ·) 0
  else 0

/-- GEN_STATUS of a slot (Table 12-14). -/
def GenSt.status (g : GenSt) : Nat :=
  g.state % 16 * 2 ^ 28 + b2n g.pinned * 2 ^ 27 + b2n g.drained * 2 ^ 26 + b2n g.cold * 2 ^ 25 +
  b2n (bit g.hdr.flags 7) * 2 ^ 24 + g.mask % 16 * 2 ^ 20 + g.reason % 16 * 2 ^ 16 + g.code % 2 ^ 16

/-- PROOF (Tables 12-14, 12-15). -/
def Dev.readProof (d : Dev) (off : Nat) : Nat :=
  let g := d.gen d.genSel
  if 0x200 ≤ off ∧ off < 0x600 then
    let p := (off - 0x200) / 0x100
    let x := d.proof p
    let o := off % 0x100
    let sel := stashKey p (d.prf p 0x30 % 16)
    match o with
    | 0x04 => if x.phase = .ordered ∨ (x.phase = .restore ∧ x.keep) then b2n x.pin * 8 + b2n x.drain * 4 + b2n x.cold * 2 + 1 else 0
    | 0x0C => x.phase.code * 2 ^ 28
    | 0x34 => d.reg pgProof sel
    | 0x38 => d.reg pgProof (sel + 8)
    | 0x3C => d.reg pgProof (sel + 12)
    | 0x44 => if x.phase = .restore then x.mode % 4 * 2 + 1 else 0
    | 0x54 => d.copyLeft p
    | 0x00 | 0x10 | 0x14 | 0x18 | 0x1C | 0x20 | 0x24 | 0x28 | 0x2C | 0x30 | 0x40 | 0x48 | 0x4C | 0x50 | 0x58 | 0x5C =>
      d.reg pgProof off
    | _ => 0
  else if 0x120 ≤ off ∧ off < 0x130 then (d.freeFrames ((off - 0x120) / 4)).length
  else match off with
    | 0x100 => 4 * 2 ^ 24 + 16 * 2 ^ 16 + 2048
    | 0x104 => d.genNext
    | 0x108 =>
      let ph (f : Phase → Bool) : Nat := flagsOf 4 fun p => f (d.proof p).phase
      ph (fun x => x == .quiesce || x == .capture) * 2 ^ 28 + ph (· == .copy) * 2 ^ 24 + ph (· == .sign) * 2 ^ 20 +
      ph (· == .restore) * 2 ^ 16 + b2n d.drain.isSome * 2 ^ 15
    | 0x110 | 0x114 | 0x118 | 0x11C | 0x130 => d.reg pgProof off
    | 0x134 => if g.state = 0 then 0 else g.id
    | 0x138 => g.status
    | 0x13C => g.hdr.impr
    | 0x140 => (((g.frames.filter fun f => f.fgen == g.id).map fun f => (f.win, f.frame)).eraseDups).length + g.man.length
    | 0x148 | 0x14C => half64 0x148 off (match d.drain with | some x => x.total - x.off | none => 0)
    | _ => 0

/-- The MACsec state of ETH (Table 13-8): SA_CFG.TX_EN or RX_EN. -/
def Dev.macsecOn (d : Dev) : Bool := bit (d.reg pgEth 0x180) 31 || bit (d.reg pgEth 0x180) 30

/-- Whether the Ethernet link is up, and the module in the cage, stand in a word of their own. -/
def ethLinkKey : Nat := 0x800

/-- ETH (Table 13-8): MACsec keys and their words do not read. The registers for management only read 0 on the board-management
bus too. DESIGN CHOICE, log entry 97. -/
def Dev.readEth (d : Dev) (off : Nat) : Nat :=
  match off with
  | 0x100 => 8 * 2 ^ 24 + 7 * 2 ^ 16 + 9216
  | 0x104 => b2n (bit (d.reg pgEth ethLinkKey) 0) * 2 ^ 31 + b2n d.macsecOn * 2 ^ 30 + d.measured pgEth 0x104 % 4 * 2 ^ 24
  | 0x108 | 0x10C => half64 0x108 off Config.macAddress.toNat
  | 0x144 => sat 32 (d.metered pgEth 0 off)
  | 0x148 | 0x14C | 0x150 | 0x154 => half64 0 (off % 8) (d.metered pgEth 0 (off / 8 * 8))
  | _ =>
    if (0x110 ≤ off ∧ off < 0x144) ∨ off = 0x158 ∨ (0x1C0 ≤ off ∧ off < 0x1D0) then d.reg pgEth off else 0

/-- RAILJOR (Table 13-9). -/
def Dev.readRailjor (d : Dev) (off : Nat) : Nat :=
  let i := d.reg pgRailjor 0x120 % 8
  let s := d.sess i
  if 0x200 ≤ off ∧ off < 0x400 then d.reg pgRailjor off
  else if 0x130 ≤ off ∧ off < 0x140 then
    (if s.peer.v6 then field s.peer.ip (off - 0x130) 4 else if off = 0x130 then beNat (s.peer.ip.take 4) else 0)
  else match off with
    | 0x100 => 8 * 2 ^ 24 + 4 * 2 ^ 16 + 4096
    | 0x104 | 0x108 | 0x10C | 0x110 | 0x114 | 0x118 | 0x11C | 0x120 => d.reg pgRailjor off
    | 0x124 => s.id
    | 0x128 => s.state % 4 * 2 ^ 30 + s.part % 8 * 2 ^ 27 + b2n s.admin * 2 ^ 26 + s.trust % 4 * 2 ^ 24
    | 0x12C => s.peer.port % 2 ^ 16
    | 0x140 => if s.state = 2 then s.txNext else 0
    | 0x144 => if s.state = 2 then s.rxNext else 0
    | 0x148 => s.cwnd
    | 0x14C => d.reg pgRailjor (srttKey i)
    | 0x150 => d.reg pgRailjor (retxKey i)
    | 0x154 => d.reg pgRailjor (dupKey i)
    | 0x158 => d.reg pgRailjor (evMergedKey i)
    | 0x15C => s.evmask % 8
    | _ => 0

/-- STREAM (Table 13-9). -/
def Dev.readStream (d : Dev) (off : Nat) : Nat :=
  let i := d.reg pgStream 0x108 % 8
  match off with
  | 0x100 => 262144
  | 0x104 => ((List.range 8).map fun j => (d.sess j).busyStreams.length).foldl (· + ·) 0
  | 0x108 => i
  | 0x10C => d.reg pgStream (streamBaseKey i)
  | 0x110 => d.reg pgStream (streamCountKey i)
  | 0x114 => (d.sess i).busyStreams.length
  | 0x118 => d.reg pgStream (abortKey i)
  | _ => 0

/-- PART (Table 13-9). -/
def Dev.readPart (d : Dev) (off : Nat) : Nat :=
  if 0x200 ≤ off ∧ off < 0x300 then
    let p := (off - 0x200) / 0x40
    let x := d.part p
    match off % 0x40 with
    | 0x00 => b2n (x.claim == 1) * 16 + (if x.claim = 1 then x.mask % 16 else 0)
    | 0x08 => x.claim % 16 * 2 ^ 28 + x.mask % 16 * 2 ^ 24 + b2n x.maint * 2 ^ 23
    | 0x0C => b2n x.maint
    | 0x10 | 0x14 | 0x18 | 0x1C | 0x20 | 0x24 | 0x28 => d.reg pgPart off
    | _ => 0
  else match off with
    | 0x100 => 4 * 2 ^ 24 + 4 * 2 ^ 16
    | 0x104 => (List.range 4).foldl (fun m c =>
        m + (match (d.die c).part with | some p => 8 + p % 4 | none => 0) * 2 ^ (4 * c)) 0
    | 0x108 => d.reg pgPart off
    | 0x10C => (d.sess (d.reg pgPart 0x108 % 8)).permit % 256
    | _ => 0

/-- SEC (Table 15-9). -/
def Chip.readSec (c : Chip) (off : Nat) : Nat :=
  let d := c.dev
  let s := c.sec
  let e := s.log.getD (d.reg pgSec 0x148 % 16) { digest := List.replicate 64 0#8 }
  if 0x120 ≤ off ∧ off < 0x140 then d.reg pgSec off
  else if 0x160 ≤ off ∧ off < 0x1A0 then field e.digest (off - 0x160) 4
  else if 0x1A0 ≤ off ∧ off < 0x1E0 then field s.chain (off - 0x1A0) 4
  else if 0x1E0 ≤ off ∧ off < 0x220 then field (digest64 Config.identityKey) (off - 0x1E0) 4
  else if 0x800 ≤ off then field s.attReport (2048 * (d.reg pgSec 0x144 % 4) + (off - 0x800)) 4
  else match off with
    | 0x100 => 16 * 2 ^ 24 + 2 * 2 ^ 16
    | 0x104 => c.pow.stage % 16 * 2 ^ 28 + b2n s.slotB * 2 ^ 27 + b2n s.debugOpen * 2 ^ 26 + b2n s.recovery * 2 ^ 25 +
        b2n s.signingOff * 2 ^ 24 + flagsOf 4 (fun i => (d.die i).unusable) * 2 ^ 16
    | 0x108 => sat 16 s.warmResets * 2 ^ 16 + s.cause % 16
    | 0x10C => s.fusedSvn % 2 ^ 16 * 2 ^ 16 + s.imageSvn % 2 ^ 16
    | 0x110 => s.fwVersion % 2 ^ 32
    | 0x114 => s.log.length
    | 0x11C => b2n s.attGo
    | 0x140 => s.attReport.length
    | 0x144 | 0x148 => d.reg pgSec off
    | 0x14C => e.info % 2 ^ 16 * 2 ^ 16 + e.typ % 2 ^ 16
    | 0x150 => e.info % 2 ^ 32
    | _ => 0

/-- An entry of the error log (Table 16-4). -/
def LogEntry.bytes (e : LogEntry) : List Byte :=
  natLe 8 e.time ++ natLe 4 (e.page % 2 ^ 18) ++ natLe 2 e.code ++ natLe 2 0 ++ natLe 4 e.info0.toNat ++ natLe 4 e.info1.toNat ++
  natLe 4 e.impr ++ natLe 4 0

/-- The entry that ELOG_SEL shows: entries are kept by their number modulo 256 (R449). DEDUCED, log entry 59. -/
def Dev.logEntry (d : Dev) (sel : Nat) : LogEntry := d.elog.getD ((d.elogWr + 255 - sel % 256) % 256) {}

/-- DBG (Table 16-12). -/
def Chip.readDbg (c : Chip) (off : Nat) : Nat :=
  let d := c.dev
  if 0x120 ≤ off ∧ off < 0x140 then field (d.logEntry (d.reg pgDbg 0x114)).bytes (off - 0x120) 4
  else match off with
    | 0x100 => 2 * 2 ^ 24 + 16 * 2 ^ 16
    | 0x104 => b2n c.pow.frozen * 2 ^ 31 + b2n c.sec.debugOpen * 2 ^ 30
    | 0x108 | 0x10C => half64 0x108 off c.pow.freezeTime
    | 0x110 => d.elogWr
    | 0x114 => d.reg pgDbg off
    | 0x140 | 0x144 => half64 0x140 off c.pow.dumpBytes
    | _ => 0

/-! ### The common header (Table 17-4) -/

/-- The page honours ENABLE (Tables 17-2, 17-3). -/
def honoursEnable (page : Nat) : Bool := [0x13, 0x14, 0x16, 0x20, 0x21, 0x22, 0x23].contains (pageType page)

/-- STATUS (R130, R168, R224, R247, R333, R474, R482, R486). -/
def Dev.status (d : Dev) (page : Nat) : Nat :=
  let i := pageInstance page
  match pageType page with
  | 0x20 => b2n (d.core i).anyAbandoned
  | 0x22 => b2n (d.maint i) + 2 * b2n (d.core i).held
  | 0x24 => b2n (d.core i).assertsAll + 2 * b2n ((d.core i).calibrating != 0) +
      4 * b2n (match d.partOf i with | some p => (d.part p).globalRecast | none => false)
  | 0x25 => flagsOf 16 fun g => ((d.core i).galley g).stalled
  | 0x15 => (d.lnState i).code
  | 0x10 => b2n (d.die i).part.isSome + 2 * b2n (d.die i).unusable
  | 0x17 => flagsOf 3 fun q => d.d2d i q == 2
  | _ => 0

/-- A word of the header. -/
def Dev.readHdr (d : Dev) (page off : Nat) : Nat :=
  let h := d.hdr page
  match off with
  | 0x000 => pageType page * 2 ^ 16 + pageInstance page
  | 0x004 => 0x00010000
  | 0x008 => b2n h.freezeMask * 4 + b2n (h.enable || !honoursEnable page)
  | 0x00C => d.status page
  | 0x010 => h.raw.toNat
  | 0x014 => h.en.toNat
  | 0x018 => h.flag.toNat
  | 0x020 => h.errCode
  | 0x024 => h.errInfo0.toNat
  | 0x028 => h.errInfo1.toNat
  | _ => 0

/-! ### Every register -/

/-- The word at an offset of a page; reserved pages and offsets read 0 (R9, R469). -/
def Chip.readReg (c : Chip) (page off : Nat) : Word :=
  let d := c.dev
  let i := pageInstance page
  let t := pageType page
  BitVec.ofNat 32 (
    if t = 0 ∨ off % 4 ≠ 0 ∨ 0x1000 ≤ off then 0
    else if off < 0x100 then d.readHdr page off
    else match t with
      | 1 => d.hubIdWord off
      | 2 => d.readTime off
      | 3 => d.readImpr off
      | 4 => d.readGov off
      | 5 => c.readPwr off
      | 6 => c.readDdr i off
      | 7 => d.readProof off
      | 8 => d.readEth off
      | 9 => d.readRailjor off
      | 10 => d.readStream off
      | 11 => c.readSec off
      | 12 => c.readDbg off
      | 13 => d.readPart off
      | 0x10 => d.readDie i off
      | 0x11 => d.readMesh i off
      | 0x12 => d.readHbmc i off
      | 0x13 => d.readPlaten i off
      | 0x14 => d.readDma (i / 16) (i % 16) off
      | 0x15 => d.readLink i off
      | 0x16 => d.readColl i off
      | 0x17 => d.readD2d i off
      | 0x20 => d.readCore i off
      | 0x21 => d.readFwd i off
      | 0x22 => d.readBwd i off
      | 0x23 => d.readRowPage i off
      | 0x24 => d.readGauge i off
      | 0x25 => d.readGalley i off
      | 0x26 => d.readLane i off
      | _ => d.readCnt i off)

end Sys2Proof.Machine
end

