-- ==== Sys2Proof/Machine/RegWrite.lean ====
section
/-!
DEFINITION. Sys2Proof/Machine/RegWrite.lean: what a write of one register does: the common header (R470–R475), the access
rules (R9, R479), and the writes each page's chapter refuses. Whether the writer may write at all is decided before (R396).
A 64-bit register is written by halves, or whole where both its words come together (R10, R382).
-/
namespace Sys2Proof.Machine

/-! ### Events and errors -/

/-- Event bits a page assigns (R48, R103, R132, R169, R171, R192, R226, R250, R286, R333, R335, R373, R399, R421, R441,
R463, R476, R482, R486). -/
def eventBits (page : Nat) : Nat :=
  match pageType page with
  | 2 => 1 | 3 => 0x1F1F1F1F | 4 => 0xF1FFFF | 5 => 0x1F | 6 => 7 | 7 => 0x1F1F1F1F | 8 => 3 | 9 => 0xF | 10 => 1 | 11 => 0x1F
  | 12 => 3 | 13 => 0xFFFF | 0x10 => 3 | 0x12 => 0xF | 0x13 => 7 | 0x14 => 7 | 0x15 => 0xF | 0x16 => 7 | 0x17 => 3
  | 0x20 => 0xF | 0x21 => 7 | 0x22 => 0xF | 0x23 => 3 | 0x24 => 0xFF | 0x25 => 0x1F | 0x26 => 7 | 0x27 => 3
  | _ => 0

/-- A write of EVT_FLAG clears the flag and raw bits written 1 (R475). -/
def Dev.flagClear (d : Dev) (page : Nat) (w : Word) : Dev :=
  d.modHdr page fun h => { h with raw := h.raw &&& ~~~w, flag := h.flag &&& ~~~w }

/-- A write of EVT_FORCE raises the assigned bits written 1 (R475). -/
def Dev.forceEvents (d : Dev) (page : Nat) (w : Word) : Dev :=
  (setBits 32 (w.toNat &&& eventBits page)).foldl (fun d b => d.raise page b) d

/-- A write of ERR_CLR (R448). -/
def Dev.clearError (d : Dev) (page : Nat) : Dev :=
  d.modHdr page fun h => { h with errCode := 0, errInfo0 := 0#32, errInfo1 := 0#32 }

/-! ### Soft reset (R473) -/

/-- The code of a refused soft reset (Table 17-10); 0 for a page whose soft reset is never refused.
DESIGN CHOICE, log entry 56. -/
def resetRefusal (page : Nat) : Nat :=
  match pageType page with
  | 0x20 => 0x01FF | 0x21 => 0x02FF | 0x22 => 0x04FF | 0x23 => 0x05FF | 0x24 => 0x03FF | 0x25 => 0x06FF | 0x26 => 0x05FF
  | 0x27 => 0x0FFF | 0x14 => 0x07FF | 0x15 => 0x0AFF | 0x16 => 0x0AFF
  | _ => 0

/-- The die a page belongs to. -/
def pageDie (page : Nat) : Option Nat :=
  if 0x20000 ≤ page then some (coreDie ((page - 0x20000) / 8))
  else if 0x100 ≤ page ∧ page < 0x200 then some ((page - 0x100) / 0x40) else none

/-- The partition that owns a page. -/
def Dev.pagePart (d : Dev) (page : Nat) : Option Nat := (pageDie page).bind fun c => (d.die c).part

/-- A proof phase that refuses soft resets. -/
def Dev.cutting (d : Dev) (page : Nat) : Bool :=
  match d.pagePart page with
  | some p => let ph := (d.proof p).phase; ph == .quiesce || ph == .capture || ph == .restore
  | none => false

/-- A core whose lists are not all over, or that has commands unretired. -/
def CoreSt.occupied (c : CoreSt) : Bool :=
  !c.cmds.isEmpty || c.lists.any fun l => !(l.2.state == .idle || l.2.state == .ended || l.2.state == .abandoned)

/-- The soft reset is refused: [0] of ERR_INFO0, 1 for a proof phase. DESIGN CHOICE, log entry 56. -/
def Dev.resetRefused (d : Dev) (page : Nat) : Option Nat :=
  if resetRefusal page = 0 then none
  else if d.cutting page then some (if 0x20000 ≤ page then 1 else 0)
  else if 0x20000 ≤ page ∧ (d.core (pageInstance page)).occupied then some 0
  else none

/-- The counters of a page in the register table: first offset and length, in bytes. -/
def pageCounters (page : Nat) : List (Nat × Nat) :=
  match pageType page with
  | 0x12 => [(0x110, 4), (0x198, 12)] | 6 => [(0x114, 4)] | 0x13 => [(0x110, 0x14)] | 0x14 => [(0x110, 0x14)]
  | 0x15 => [(0x120, 0x30)] | 0x16 => [(0x130, 0x10)] | 0x17 => [(d2dKey 0 0x14, 4), (d2dKey 1 0x14, 4), (d2dKey 2 0x14, 4)]
  | 0x21 => [(0x110, 0x20)] | 0x22 => [(0x110, 0x1C)] | 0x23 => [(0x10C, 0x10)]
  | _ => []

/-- Counters back to 0. DESIGN CHOICE, log entry 56. -/
def Dev.clearCounters (d : Dev) (page : Nat) : Dev :=
  ((pageCounters page).foldl (fun d r => d.resetRegs page r.1 r.2) d).clearMeters page 1

/-- What a soft reset that is not refused does (Tables 17-1 to 17-3). DESIGN CHOICE, log entry 56. -/
def Dev.softReset (d : Dev) (page : Nat) : Dev :=
  let i := pageInstance page
  match pageType page with
  | 0x20 => -- R225
    (d.modCore i fun c => { c with lists := [], a := [], c := [], admitted := [], todo := [], running := none, cmemJob := none }).resetRegs
      page 0x12C 0x14
  | 0x22 => ((d.clearCounters page).resetRegs page 0x12C 4).modCore i fun c => { c with slabs := [], taps := [] }
  | 0x23 => (d.clearCounters page).modCore i fun c => { c with sets := (c.sets.map fun s => (s.1, { s.2 with kind := 0, count := 0 })).filter fun s => s.2 ≠ {} }
  | 0x24 => -- R106, R127
    d.withRecast i fun d =>
      (d.modCore i fun c => { c with slots := [] }).raiseIf ((d.core i).slots.any fun s => !s.2.calib) page 7
  | 0x25 => d.modCore i fun c => { c with galleys := [] }
  | 0x26 => (d.resetRegs page 0x108 0x50).modCore i fun c => { c with probe := none }
  | 0x27 => (d.resetRegs page 0x104 0x7C).modCore i fun c => { c with live := [] }
  | 0x14 => (d.clearCounters page).dmaDiscard (i / 16) (i % 16)
  | 0x15 => -- R332
    let d := (d.clearCounters page).linkOff i
    d.setReg page 0x104 (d.lnCfg i % 2 ^ 31)
  | 0x16 => ((List.range 4).foldl (fun d ch => d.failRun i ch 0x0A45) (d.clearCounters page)).clearKicks i
  | _ => d.clearCounters page

/-- A write of CTRL (R472–R474). A refused soft reset leaves the register as it was (R473, R479). DEDUCED, log entry 55. -/
def Dev.ctrlHdr (d : Dev) (page : Nat) (w : Word) : Dev :=
  let v := w.toNat
  let put (d : Dev) : Dev := d.modHdr page fun h =>
    { h with freezeMask := bit v 2, enable := if honoursEnable page then bit v 0 else h.enable }
  if !bit v 1 then put d
  else match d.resetRefused page with
    | some info => d.setError page (resetRefusal page) info 0
    | none => (put d).softReset page

/-- A write to a word of the header (Table 17-4). -/
def Dev.writeHdr (d : Dev) (page off : Nat) (w : Word) : Dev :=
  match off with
  | 0x008 => d.ctrlHdr page w
  | 0x014 => d.modHdr page fun h => { h with en := w &&& BitVec.ofNat 32 (eventBits page) }
  | 0x018 => d.flagClear page w
  | 0x01C => d.forceEvents page w
  | 0x02C => d.clearError page
  | _ => d

/-! ### Plain registers -/

/-- A write under a mask of the bits that are not reserved (R9). -/
def Dev.put (d : Dev) (page off mask : Nat) (w : Word) : Dev := d.setReg page off (w.toNat &&& mask)

/-- Every bit. -/
def full : Nat := 0xFFFFFFFF

/-! ### Core pages -/

/-- CORE (R224, R225). -/
def Dev.writeCore (d : Dev) (k off : Nat) (w : Word) : Dev :=
  if 0x140 ≤ off ∧ off < 0x200 then d.regFileWrite k off w
  else if 0x200 ≤ off ∧ off < 0x300 then d.listEntryWrite k off w
  else if 0x400 ≤ off ∧ off < 0x440 then d.cmemWindow k ((off - 0x400) / 4) w
  else match off with
    | 0x12C => d.put (pgCore k) off 0x3FF w
    | 0x130 => d.put (pgCore k) off full w
    | 0x134 => d.put (pgCore k) off 0xFFFF w
    | 0x138 => d.put (pgCore k) off 0x03FF03FF w
    | 0x13C => d.cmemLoad k w
    | _ => d

/-- BWD (R168). -/
def Dev.writeBwd (d : Dev) (k off : Nat) (w : Word) : Dev :=
  match off with
  | 0x12C => d.put (pgBwd k) off 0xFFFF w
  | 0x130 => d.put (pgBwd k) off 0x1F w
  | 0x134 => d.put (pgBwd k) off 0xF w
  | 0x140 | 0x144 | 0x148 | 0x14C => d.slabWindow k off w
  | 0x154 => d.slabClr k w
  | 0x160 | 0x164 => d.tapWindow k off w
  | 0x194 => d.tapClr k w
  | _ => d

/-- ROW (R170). -/
def Dev.writeRow (d : Dev) (k off : Nat) (w : Word) : Dev :=
  if off = 0x11C then d.put (pgRow k) off 0x7F w
  else if off = 0x120 ∨ off = 0x124 ∨ off = 0x128 ∨ (0x200 ≤ off ∧ off < 0x400) then d.setWindow k off w
  else d

/-- GAUGE (R130, R131). -/
def Dev.writeGauge (d : Dev) (k off : Nat) (w : Word) : Dev :=
  if off = 0x104 then d.put (pgGauge k) off 0x1FF w else d.gaugeWindowWrite k off w

/-- GALLEY (R247, R248). -/
def Dev.writeGalley (d : Dev) (k off : Nat) (w : Word) : Dev :=
  if 0x100 ≤ off ∧ off < 0x500 then d.galleySetWrite k ((off - 0x100) / 0x40) (off % 0x40) w else d

/-- LANE (R191). -/
def Dev.writeLane (d : Dev) (k off : Nat) (w : Word) : Dev :=
  match off with
  | 0x108 | 0x10C => d.seedWrite k off w
  | 0x120 => d.probeWrite k off (w.toNat % 256)
  | 0x124 | 0x128 | 0x130 | 0x134 => d.probeWrite k off w.toNat
  | 0x138 => d.laneProbeGo k w
  | _ => d

/-- CNT (R461). DEDUCED, log entry 57. -/
def Dev.writeCnt (d : Dev) (k off : Nat) (w : Word) : Dev :=
  let pg := pgCnt k
  let v := w.toNat
  let on := bit (d.reg pg 0x104) 31
  let refuse := d.setError pg 0x0F01 (off * 2 ^ 16) 0
  match off with
  | 0x104 =>
    let l := v % 32
    let hbms := match d.partOf k with | some p => (d.diesOf p).flatMap fun c => [(2 * c * stackBytes, stackBytes), ((2 * c + 1) * stackBytes, stackBytes)] | none => []
    let ringOk := inRegions hbms (d.reg64 pg 0x108 % 2 ^ 48) (128 * 2 ^ l)
    if l < 4 ∨ 20 < l ∨ (on ∧ l ≠ d.reg pg 0x104 % 32) ∨ (bit v 31 ∧ ringOk = false) then refuse else d.put pg off 0xC000001F w
  | 0x108 => if on then refuse else d.put pg off 0xFFFFFF80 w
  | 0x10C => if on then refuse else d.put pg off 0xFFFF w
  | 0x114 => d.put pg off full w
  | _ => d

/-! ### Die pages -/

/-- HBMC (R372). -/
def Dev.writeHbmc (d : Dev) (st off : Nat) (w : Word) : Dev :=
  let pg := pgHbmc st
  match off with
  | 0x184 | 0x188 =>
    let past := match (d.die (st / 2)).part with
      | some p => let ph := (d.proof p).phase; if ph = .idle ∨ ph = .ordered then none else some (p, ph.code)
      | none => none
    (match past with
     | some (p, ph) => d.setError pg 0x0B0E (p * 2 ^ 30 + ph * 2 ^ 26 + st * 2 ^ 20) 0
     | none => d.put pg off 0xFFFF w)
  | 0x1A4 => d.put pg off 0x7FF w
  | _ => d

/-- PLATEN (R285). -/
def Dev.writePlaten (d : Dev) (st off : Nat) (w : Word) : Dev :=
  let pg := pgPlaten st
  let refuse := d.setError pg 0x0807 (off * 2 ^ 16) 0
  if off = 0x128 ∨ off = 0x12C then
    (if (d.platen st).running.isSome || !(d.platen st).queue.isEmpty then refuse else d.put pg off full w)
  else if 0x200 ≤ off ∧ off < 0x400 then
    let o := off % 32
    if o = 0 then (if 4 < w.toNat % 8 then refuse else d.put pg off 0x80000007 w)
    else if o < 0x18 then (if nonFin w || isSubnormal w then refuse else d.put pg off full w)
    else d
  else d

/-- COLL (R334). -/
def Dev.writeColl (d : Dev) (c off : Nat) (w : Word) : Dev :=
  let pg := pgColl c
  let busy := (List.range 4).any fun ch => (d.collRun c ch).isSome
  let cfg (mask : Nat) (d' : Dev) : Dev := if busy then d.setError pg 0x0A48 0 0 else d'.put pg off mask w
  match off with
  | 0x104 => cfg full d
  | 0x108 => cfg 0xFFFFFF80 (d.clearKicks c)
  | 0x10C => cfg 0xFFFF (d.clearKicks c)
  | 0x140 => d.put pg off 0x3F w
  | _ => d

/-! ### Hub pages -/

/-- TIME (R41, R42). DEDUCED, log entry 51. -/
def Dev.writeTime (d : Dev) (off : Nat) (w : Word) : Dev :=
  match off with
  | 0x108 | 0x10C => d.put pgTime off full w
  | 0x110 => d.timeLoad w
  | 0x114 =>
    if bit (d.reg pgTime 0x118) 7 then d
    else if signed 32 w.toNat < -200000 ∨ 200000 < signed 32 w.toNat then d.setError pgTime 0x0D88 0 0
    else d.put pgTime off full w
  | 0x118 =>
    -- the integral term is 0 when EN rises (R311)
    let d := if bit w.toNat 7 && !bit (d.reg pgTime 0x118) 7 then { d with servo := 0 } else d
    d.put pgTime off 0xBF w
  | _ => d

/-- The partition has stopped: its start registers may be written (R28). -/
def Dev.settled (d : Dev) (p : Nat) : Bool :=
  let x := d.part p
  !x.run && (x.state == .stopped || x.state == .halted)

/-- A group mask names only links of the partition's dies (R35). -/
def Dev.groupOk (d : Dev) (p mask : Nat) : Bool := (setBits 36 mask).all (d.partLinks p).contains

/-- IMPR (R28, R35, Table 2-3). -/
def Dev.writeImpr (d : Dev) (off : Nat) (w : Word) : Dev :=
  if off < 0x100 ∨ 0x300 ≤ off then d
  else
    let p := (off - 0x100) / 0x80
    let v := w.toNat
    let put (mask : Nat) : Dev := d.put pgImpr off mask w
    let start (ok : Bool) (code mask : Nat) : Dev :=
      if !d.settled p then d.imprError p 0x0D81 else if ok then put mask else d.imprError p code
    match off % 0x80 with
    | 0x00 => (d.ctrlWrite p w).releaseLinks p
    | 0x04 => start (decide (20000 ≤ v % 2 ^ 27 ∧ v % 2 ^ 27 ≤ 100000000)) 0x0D80 0x7FFFFFF
    | 0x08 => start true 0 0xFFFF
    | 0x0C =>
      if 1 ≤ v % 8 ∧ v % 8 ≤ 4 ∧ 1 ≤ bits v 6 4 ∧ bits v 6 4 ≤ 4 then put 0x77 else d.imprError p 0x0D80
    | 0x10 => start (v % 2 ^ 16 != 0) 0x0D80 0xFFFF
    | 0x14 => start (d.groupOk p v) 0x0D84 full
    | 0x18 => start (d.groupOk p (v % 16 * 2 ^ 32)) 0x0D84 0xF
    | 0x1C => start (decide (1 ≤ v % 2 ^ 15 ∧ v % 2 ^ 15 ≤ 16384)) 0x0D80 0x7FFF
    | 0x20 | 0x24 | 0x28 | 0x2C => start true 0 full
    | 0x30 => start true 0 0xFFFF
    | _ => d

/-- Sum of the shares of claimed partitions, with partition p's taken as `share` (R402). -/
def Dev.shares (d : Dev) (p share : Nat) : Nat :=
  ((List.range 4).map fun q => if (d.part q).claim = 0 then 0 else if q = p then share else d.gov q 4 % 2 ^ 16).foldl (· + ·) 0

/-- The shares fit a limit (R402). -/
def sharesFit (sum limit : Nat) : Bool := decide ((sum + 120) * 100 ≤ limit * 93)

/-- GOV (R402, R419). -/
def Dev.writeGov (d : Dev) (off : Nat) (w : Word) : Dev :=
  let v := w.toNat
  let put (mask : Nat) : Dev := d.put pgGov off mask w
  if off = 0x104 then (if v % 256 = 0 then d.setError pgGov 0x0D02 0 0 else put 0xFF)
  else if 0x140 ≤ off ∧ off < 0x1C0 then
    let c := (off - 0x140) / 0x20
    if (off - 0x140) % 0x20 ≠ 0x14 then d
    else if bits v 5 4 < v % 4 then
      let p := (d.die c).part
      d.setError pgGov 0x0D02 ((match p with | some p => p * 2 ^ 30 | none => 0) + c * 2 ^ 28) (match p with | some p => (d.part p).num | none => 0)
    else put 0x33
  else if 0x200 ≤ off ∧ off < 0x300 then
    let p := (off - 0x200) / 0x40
    let refuse (code : Nat) : Dev := d.setError pgGov code (p * 2 ^ 30) (d.part p).num
    match off % 0x40 with
    | 0x00 => put full
    | 0x04 => if sharesFit (d.shares p (v % 2 ^ 16)) d.limit then put 0xFFFF else refuse 0x0D01
    | 0x08 => if bits v 15 8 = 0 then refuse 0x0D02 else put 0xFF01
    | _ => d
  else d

/-- PWR (R402, R417). -/
def Chip.writePwr (c : Chip) (off : Nat) (w : Word) : Chip :=
  let d := c.dev
  let v := w.toNat
  let refuse (code : Nat) : Dev := d.setError pgPwr code 0 0
  { c with dev :=
      match off with
      | 0x110 =>
        let l := v % 4096
        if l < 600 ∨ 2400 < l ∨ sharesFit (d.shares 4 0) l = false then refuse 0x0D03
        else d.alertRise (d.put pgPwr off 0xFFF w) c.pow.vin c.pow.vin
      | 0x120 => if 240 ≤ v % 2 ^ 16 ∧ v % 2 ^ 16 < d.reg pgPwr 0x124 then d.put pgPwr off 0xFFFF w else refuse 0x0D04
      | 0x124 => if d.reg pgPwr 0x120 < v % 2 ^ 16 ∧ v % 2 ^ 16 ≤ 440 then d.put pgPwr off 0xFFFF w else refuse 0x0D04
      | _ => d }

/-- The selected stash extent written: its base and pages (R354, R371). DESIGN CHOICE, log entry 61. -/
def Dev.stashWrite (d : Dev) (p base n : Nat) : Dev :=
  let key := stashKey p (d.prf p 0x30 % 16)
  let base := base % 2 ^ 48 / pageBytes * pageBytes
  if (d.proof p).phase ≠ .idle ∨ d.stashBad p base n then d.proofError p 0x0B0E 0
  else (d.setReg pgProof key n).setReg64 pgProof (key + 8) base

/-- PROOF (R371). DEDUCED, log entry 57. -/
def Dev.writeProof (d : Dev) (off : Nat) (w : Word) : Dev :=
  let v := w.toNat
  let put (mask : Nat) : Dev := d.put pgProof off mask w
  if 0x200 ≤ off ∧ off < 0x600 then
    let p := (off - 0x200) / 0x100
    let refuse := d.proofError p 0x0B0E 0
    let cfg (ok : Bool) (mask : Nat) : Dev := if (d.proof p).phase ≠ .idle ∨ ok = false then refuse else put mask
    let e := d.stash p (d.prf p 0x30 % 16)
    match off % 0x100 with
    | 0x04 => d.orderWrite p w
    | 0x08 => d.proofCancel p w
    | 0x44 => d.restoreWrite p w
    | 0x00 | 0x40 | 0x48 | 0x50 => cfg true full
    | 0x14 => cfg (decide (1 ≤ v % 2 ^ 17 ∧ v % 2 ^ 17 ≤ 100000)) 0x1FFFF
    | 0x18 => cfg (decide (1 ≤ v % 8 ∧ v % 8 ≤ 4)) 7
    | 0x1C | 0x2C | 0x4C => cfg true 0xFFFF
    | 0x20 => cfg true 7
    | 0x24 => cfg true 0xFFFFFF
    | 0x28 => cfg true 0xFFFFFFC0
    | 0x30 => cfg true 0xF
    | 0x34 => d.stashWrite p e.1 (v % 2 ^ 20)
    | 0x38 => d.stashWrite p (e.1 / 2 ^ 32 * 2 ^ 32 + v) e.2
    | 0x3C => d.stashWrite p (v * 2 ^ 32 + e.1 % 2 ^ 32) e.2
    | _ => d
  else match off with
    | 0x110 | 0x114 | 0x118 | 0x11C =>
      let c := (off - 0x110) / 4
      if (d.usedFrames c).isEmpty = false ∨ d.ddrMapped c / pageBytes < v then d.setError pgProof 0x0B0E 0 0 else put full
    | 0x130 => put 0xF
    | 0x144 => d.genCtl v
    | _ => d

/-- ETH (R397). -/
def Dev.writeEth (d : Dev) (off : Nat) (w : Word) : Dev :=
  let v := w.toNat % 2 ^ 14
  match off with
  | 0x110 => d.put pgEth off 0xFFFFE03F w
  | 0x114 => if 1500 ≤ v ∧ v ≤ 9216 then d.put pgEth off 0x3FFF w else d.setError pgEth 0x0C01 0 0
  | 0x118 | 0x120 | 0x124 | 0x128 | 0x12C => d.put pgEth off full w
  | 0x11C => d.put pgEth off 0xFFFF w
  | _ => d

/-- RAILJOR (R398). DEDUCED, log entry 57. -/
def Dev.writeRailjor (d : Dev) (u : Writer) (off : Nat) (w : Word) : Dev :=
  let v := w.toNat
  let sel := d.reg pgRailjor 0x120 % 8
  let timer (lo hi : Nat) : Dev :=
    if lo ≤ v ∧ v ≤ hi then d.put pgRailjor off full w else d.setError pgRailjor 0x0C0F u.info u.seq
  match off with
  | 0x104 => if 16 ≤ v % 2 ^ 13 ∧ v % 2 ^ 13 ≤ 4096 then d.put pgRailjor off 0x1FFF w else d.setError pgRailjor 0x0C0F u.info u.seq
  | 0x108 => timer 10 1000
  | 0x10C => timer (d.reg pgRailjor 0x108) 100000
  | 0x110 => timer 100 100000
  | 0x114 => timer 100 60000
  | 0x120 => d.put pgRailjor off 7 w
  | 0x15C => d.modSess sel fun s => { s with evmask := v % 8 }
  | 0x160 => d.closeWrite sel w
  | _ => d

/-- Two stream ranges share a stream. -/
def Dev.streamsOverlap (d : Dev) (i base count : Nat) : Bool :=
  (List.range 8).any fun j =>
    let n := d.reg pgStream (streamCountKey j)
    j != i && count != 0 && n != 0 && overlaps base count (d.reg pgStream (streamBaseKey j)) n

/-- STREAM (R398). -/
def Dev.writeStream (d : Dev) (u : Writer) (off : Nat) (w : Word) : Dev :=
  let i := d.reg pgStream 0x108 % 8
  let v := w.toNat
  let set (key base count : Nat) : Dev :=
    if (d.sess i).state ≠ 0 ∨ d.streamsOverlap i base count then d.setError pgStream 0x0C0F u.info u.seq
    else d.setReg pgStream key (if off = 0x10C then base else count)
  match off with
  | 0x108 => d.put pgStream off 7 w
  | 0x10C => set (streamBaseKey i) (v % 2 ^ 18) (d.reg pgStream (streamCountKey i))
  | 0x110 => set (streamCountKey i) (d.reg pgStream (streamBaseKey i)) (v % 2 ^ 19)
  | _ => d

/-- The ring at an address with 2^l entries lies in one stack of the partition's HBM (R398). -/
def Dev.ringOk (d : Dev) (p base l : Nat) : Bool :=
  inRegions ((d.stacksOf p).map fun st => (st * stackBytes, stackBytes)) base (64 * 2 ^ l)

/-- A write of RING_BASE: its whole value (R398). A ring whose length has not been written counts as the smallest.
DEDUCED, log entry 57. -/
def Dev.ringBaseWrite (d : Dev) (p : Nat) (u : Writer) (base : Nat) : Dev :=
  let l := d.prt p 0x18 % 32
  if d.prt p 0x1C ≠ d.prt p 0x20 ∨ d.ringOk p (base % 2 ^ 48 / 64 * 64) (max 4 l) = false then d.partError 0x0C0F u
  else d.setReg64 pgPart (partReg p 0x10) (base % 2 ^ 48 / 64 * 64)

/-- PART (R395, R398, R439). -/
def Dev.writePart (d : Dev) (u : Writer) (off : Nat) (w : Word) : Dev :=
  let v := w.toNat
  if 0x200 ≤ off ∧ off < 0x300 then
    let p := (off - 0x200) / 0x40
    let old := d.reg64 pgPart (partReg p 0x10)
    match off % 0x40 with
    | 0x00 => d.claimWrite p u w
    | 0x04 => d.releaseWrite p u w
    | 0x0C => d.maintWrite p u w
    | 0x10 => d.ringBaseWrite p u (old / 2 ^ 32 * 2 ^ 32 + v)
    | 0x14 => d.ringBaseWrite p u (v * 2 ^ 32 + old % 2 ^ 32)
    | 0x18 =>
      let l := v % 32
      if l < 4 ∨ 16 < l ∨ d.prt p 0x1C ≠ d.prt p 0x20 ∨ d.ringOk p old l = false then d.partError 0x0C0F u
      else d.put pgPart off 0x1F w
    | _ => d
  else match off with
    | 0x108 => d.put pgPart off 7 w
    | 0x10C => d.modSess (d.reg pgPart 0x108 % 8) fun s => { s with permit := v % 256 }
    | _ => d

/-- SEC (R437, R440). `permit`: the writer is a session that holds permit bit 6. -/
def Chip.writeSec (c : Chip) (permit : Bool) (off : Nat) (w : Word) : Chip :=
  if 0x120 ≤ off ∧ off < 0x140 then
    c.onDev fun d => if c.sec.attGo then d.secError 0x0E08 0 else d.put pgSec off full w
  else match off with
    | 0x118 => c.secReset permit w
    | 0x11C => c.attestGo w
    | 0x144 => c.onDev fun d => d.put pgSec off 3 w
    | 0x148 => c.onDev fun d => d.put pgSec off 0xF w
    | _ => c

/-! ### Every register -/

/-- The writer is a session that holds permit bit 6. -/
def Dev.secPermit (d : Dev) (u : Writer) : Bool :=
  decide (u.slot < 8) && ((d.sess u.slot).admin || bit (d.sess u.slot).permit 6)

/-- A write to a block-specific register of a page of the device. DEDUCED, log entry 55. -/
def Dev.writePage (d : Dev) (u : Writer) (page off : Nat) (w : Word) : Dev :=
  let i := pageInstance page
  match pageType page with
  | 2 => d.writeTime off w
  | 3 => d.writeImpr off w
  | 4 => d.writeGov off w
  | 7 => d.writeProof off w
  | 8 => d.writeEth off w
  | 9 => d.writeRailjor u off w
  | 10 => d.writeStream u off w
  | 13 => d.writePart u off w
  | 0x11 => if off = 0x104 then d.put page off 0x1FF w else d
  | 0x12 => d.writeHbmc i off w
  | 0x13 => d.writePlaten i off w
  | 0x15 => if off = 0x104 then d.linkCfgWrite i w else d
  | 0x16 => d.writeColl i off w
  | 0x17 => if off = 0x104 then d.put page off 3 w else d
  | 0x20 => d.writeCore i off w
  | 0x21 => if off = 0x130 then d.put page off 1 w else d
  | 0x22 => d.writeBwd i off w
  | 0x23 => d.writeRow i off w
  | 0x24 => d.writeGauge i off w
  | 0x25 => d.writeGalley i off w
  | 0x26 => d.writeLane i off w
  | 0x27 => d.writeCnt i off w
  | _ => d

/-- A page that answers: a core's pages do while its die's cores are out of reset. DEDUCED, log entry 55. -/
def Dev.pageLive (d : Dev) (page : Nat) : Bool :=
  pageType page != 0 && (decide (page < 0x20000) || (d.die (coreDie ((page - 0x20000) / 8))).live)

/-- RUN while any die is claimed, and READY otherwise (Table 14-3). DESIGN CHOICE, log entry 74. -/
def Chip.modeSync (c : Chip) : Chip :=
  if c.pow.mode = .ready ∨ c.pow.mode = .run then
    { c with pow := { c.pow with mode := if (List.range 4).any fun p => (c.dev.part p).claim != 0 then .run else .ready } }
  else c

/-- A write to a block-specific register, on a page that answers. -/
def Chip.writeBlock (c : Chip) (u : Writer) (page off : Nat) (w : Word) : Chip :=
  if page = pgPwr then c.writePwr off w
  else if page = pgSec then c.writeSec (c.dev.secPermit u) off w
  else if page = pgPart ∧ 0x200 ≤ off ∧ off < 0x300 ∧ off % 0x40 = 0 ∧ c.pow.mode ≠ .ready ∧ c.pow.mode ≠ .run then
    c.onDev fun d => if bit w.toNat 4 then d.partError 0x0C10 u else d
  else (c.onDev fun d => d.writePage u page off w).modeSync

/-- A write of one word to a register of the module; reserved pages and offsets ignore it (R9, R469).
DEDUCED, log entry 55. -/
def Chip.writeReg (c : Chip) (u : Writer) (page off : Nat) (w : Word) : Chip :=
  if !c.dev.pageLive page ∨ off % 4 ≠ 0 ∨ 0x1000 ≤ off then c
  else if page = pgDbg then
    c.onDev fun d =>
      if !c.sec.debugOpen then d.setError pgDbg 0x0F02 (off * 2 ^ 16) 0
      else if off < 0x100 then d.writeHdr page off w
      else if off = 0x114 then d.put pgDbg off 0xFF w else d
  else if off < 0x100 then c.onDev fun d => d.writeHdr page off w
  else c.writeBlock u page off w

/-- Offsets of the low words of the 64-bit registers that can be written (Tables 2-3, 2-4, 7-7, 8-15, 9-7, 10-10, 11-12, 12-15,
13-9, 16-11). -/
def wide64 (page off : Nat) : Bool :=
  match pageType page with
  | 2 => off == 0x108
  | 3 => decide (0x100 ≤ off ∧ off < 0x300) && off % 0x80 == 0x20
  | 7 => decide (0x200 ≤ off ∧ off < 0x600) && [0x28, 0x38, 0x48].contains (off % 0x100)
  | 13 => decide (0x200 ≤ off ∧ off < 0x300) && off % 0x40 == 0x10
  | 0x13 => off == 0x128
  | 0x16 => off == 0x108
  | 0x20 => off == 0x130 || (decide (0x140 ≤ off ∧ off < 0x1C0) && off % 8 == 0)
  | 0x25 => decide (0x100 ≤ off ∧ off < 0x500) && off % 0x40 == 0x10
  | 0x26 => off == 0x108 || off == 0x130
  | 0x27 => off == 0x108
  | _ => false

/-- A whole 64-bit register written (R10): one refusal, if any. -/
def Chip.writeReg64 (c : Chip) (u : Writer) (page off : Nat) (lo hi : Word) : Chip :=
  if pageType page = 13 then
    c.onDev fun d => d.ringBaseWrite ((off - 0x200) / 0x40) u (lo.toNat + 2 ^ 32 * hi.toNat)
  else if page = pgProof ∧ off % 0x100 = 0x38 then
    let p := (off - 0x200) / 0x100
    c.onDev fun d => d.stashWrite p (lo.toNat + 2 ^ 32 * hi.toNat) (d.stash p (d.prf p 0x30 % 16)).2
  else
    let c' := c.writeReg u page off lo
    if c'.dev.elogWr = c.dev.elogWr then c'.writeReg u page (off + 4) hi else c'

/-- Words written in ascending order, pairs that form a 64-bit register whole (R382). -/
def Chip.writeWords (c : Chip) (u : Writer) (page : Nat) : Nat → List Word → Chip
  | _, [] => c
  | off, [w] => c.writeReg u page off w
  | off, w :: w' :: ws =>
    if wide64 page off then (c.writeReg64 u page off w w').writeWords u page (off + 8) ws
    else (c.writeReg u page off w).writeWords u page (off + 4) (w' :: ws)

/-! ### Registers of the management processor alone (R377, R497) -/

/-- The MACsec words of an association. -/
def macsecOffs : List Nat := (List.range 16).map fun i => 0x180 + 4 * i

/-- The association in force, as words. -/
def Dev.sa (d : Dev) : List Nat := macsecOffs.map fun o => d.reg pgEth (saKey o)

/-- A write to a MACsec register. SA_CFG puts the words written so far in force; a new association number keeps the old
association accepted for a while (R377), and its packet numbers start again. -/
def Dev.macsecWrite (d : Dev) (off : Nat) (w : Word) : Dev :=
  let an (v : Nat) := bits v 28 27
  let old := d.reg pgEth (saKey 0x180)
  if off = 0x180 then
    let was := bit old 31 || bit old 30
    let fresh := !was || an old != an w.toNat
    let d := if was && fresh then { d with oldSa := d.sa ++ [d.reg64 pgEth 0x1C8] } else d
    let d := d.put pgEth off 0xF8000000 w
    let d := macsecOffs.foldl (fun d o => d.setReg pgEth (saKey o) (d.reg pgEth o)) d
    if fresh then (d.setReg64 pgEth 0x1C0 1).setReg64 pgEth 0x1C8 1 else d
  else if off = 0x184 then d
  else d.put pgEth off full w

/-- Offsets of ETH the bus may write: its address, VLAN and MACsec registers (Table 15-7). -/
def busEth (off : Nat) : Bool :=
  decide (off % 4 = 0) && (off == 0x110 || off == 0x118 || off == 0x11C || decide (0x120 ≤ off ∧ off < 0x130) || off == 0x180 ||
    decide (0x188 ≤ off ∧ off < 0x1C0))

end Sys2Proof.Machine
end

