-- ==== Sys2Proof/Machine/Transport.lean ====
section
/-!
DEFINITION. Sys2Proof/Machine/Transport.lean: the receiving side of Railjor (R378–R396): acknowledgements, the order of
execution, register, memory and ring requests, permits, events, and the handshake.
-/
namespace Sys2Proof.Machine

/-! ### Headers (Table 13-1) -/

def rjTyp (m : List Byte) : Nat := field m 1 1
def rjFlagsOf (m : List Byte) : Nat := field m 2 2
def rjSession (m : List Byte) : Nat := field m 4 4
def rjSeq (m : List Byte) : Nat := field m 8 4
def rjStream (m : List Byte) : Nat := field m 0x14 4
def rjData (m : List Byte) : List Byte := m.drop 32
/-- FIRST and LAST. -/
def rjIsFirst (m : List Byte) : Bool := bit (rjFlagsOf m) 6
def rjIsLast (m : List Byte) : Bool := bit (rjFlagsOf m) 5
/-- The request comes in one message. -/
def rjWhole (m : List Byte) : Bool := rjIsFirst m && rjIsLast m

/-- The header checks of R379. -/
def rjHeaderOk (m : List Byte) : Bool :=
  decide (32 ≤ m.length) && field m 0 1 == 1 && decide (1 ≤ rjTyp m ∧ rjTyp m ≤ 9) && field m 0x18 2 == m.length - 32 &&
  rjFlagsOf m &&& 0xFF07 == 0 && decide (rjStream m < 2 ^ 18) && field m 0x1C 4 == 0

/-- Preamble of a transaction (R380). -/
def rjAddr (m : List Byte) : Nat := field m 32 8 % 2 ^ 48
def rjTotal (m : List Byte) : Nat := field m 40 4
def rjOffset (m : List Byte) : Nat := field m 44 4
def rjBody (m : List Byte) : List Byte := m.drop 48
def rjPreamble (a total off : Nat) : List Byte := natLe 8 a ++ natLe 4 total ++ natLe 4 off

/-! ### Acknowledgements of what the device sent (R389–R391) -/

/-- A message goes again, with RETX set. -/
def Dev.rjResend (d : Dev) (slot : Nat) (m : RjMsg) : Dev :=
  (d.bump pgRailjor (retxKey slot) 1).rjWire slot m.typ (m.flags + rjRetx) m.seq m.stream m.payload

/-- The ACK, SACK, ECE and received ranges a message carries. SRTT follows a rule that is not stated. -/
def Dev.rjAckIn (d : Dev) (slot : Nat) (m : List Byte) : Dev :=
  let s := d.sess slot
  let ack := field m 0xC 4
  let sack := field m 0x10 4
  let ranges := if rjTyp m = 8 then (chunks 8 (min 32 ((m.length - 32) / 8)) (rjData m)).map fun r => (field r 0 4, field r 4 4) else []
  let got (q : Nat) : Bool :=
    serialLater 32 q ack || (List.range 32).any (fun i => bit sack i && (ack + 1 + i) % 2 ^ 32 == q) ||
    ranges.any fun r => decide ((q + 2 ^ 32 - r.1) % 2 ^ 32 < r.2)
  let left := s.unacked.filter fun u => !serialLater 32 u.seq ack
  let n := s.unacked.length - left.length
  let later (q : Nat) : Nat := (s.unacked.filter fun u => serialLater 32 q u.seq && got u.seq).length
  let left' := left.map fun u => { u with passed := if got u.seq then 0 else max u.passed (later u.seq) }
  let fast := (left.zip left').filter fun x => decide (x.1.passed < 3 ∧ 3 ≤ x.2.passed)
  let grown := s.cwnd ≤ s.acked + n
  let cwnd := if grown then s.cwnd + 1 else s.cwnd
  let cwnd := if bit (rjFlagsOf m) 3 || !fast.isEmpty then max 16 (cwnd / 2) else cwnd
  let acked := if grown then s.acked + n - s.cwnd else s.acked + n
  let d := d.modSess slot fun s =>
    { s with unacked := left', cwnd, acked, window := field m 0x1A 2, backoff := if n = 0 then s.backoff else 0 }
  let d := if n = 0 then d else (let (v, d) := d.free; d.setReg pgRailjor (srttKey slot) v.toNat)
  let d := fast.foldl (fun d x => d.rjResend slot x.2) d
  let d := d.rjFlush slot (d.sess slot).waiting.length
  match d.drain with
  | some x => if x.session = slot then d.drainPump drainFuel else d
  | none => d

/-- RETRANSMIT_TIMEOUT: the oldest message not acknowledged. DESIGN CHOICE, log entry 69. -/
def Dev.rjTimeout (d : Dev) (slot : Nat) : Dev :=
  let s := d.sess slot
  match s.unacked with
  | [] => d
  | u :: _ =>
    (d.modSess slot fun s => { s with cwnd := 16, acked := 0, backoff := s.backoff + 1 }).rjResend slot u

/-- ACK_DELAY_EXPIRY and ACK_IDLE_REPEAT (R390). -/
def Dev.ackDelay (d : Dev) (slot : Nat) : Dev :=
  if (d.sess slot).state = 2 ∧ (d.sess slot).pendAcks ≠ 0 then d.rjAck slot else d
def Dev.ackIdle (d : Dev) (slot : Nat) : Dev :=
  let s := d.sess slot
  if s.state = 2 ∧ s.waiting = [] ∧ s.unacked = [] then d.rjAck slot else d

/-! ### Permits (R382, R396) -/

/-- First address of the register region. -/
def regBase : Nat := 0x300000000000

/-- A session may not reach the page: it belongs to a die outside its partition (R24, R382, R469). -/
def Dev.pageOutside (d : Dev) (slot page : Nat) : Bool :=
  match pageDie page with
  | some c => !d.owns (d.sess slot).part c
  | none => false

/-- The session may write the register (R396). `sel` is the slot RAILJOR.SEL names when the write lands.
DEDUCED, log entries 57 and 70. -/
def Dev.mayWrite (d : Dev) (slot sel page off : Nat) : Bool :=
  let s := d.sess slot
  let permit (b : Nat) : Bool := s.admin || bit s.permit b
  let own (base size : Nat) : Bool := decide (base + size * s.part ≤ off ∧ off < base + size * (s.part + 1) ∧ s.part < 4)
  if 0x100 ≤ page then true
  else match pageType page with
    | 2 => permit 0
    | 3 => own 0x100 0x80 || (s.admin && decide (off < 0x100))
    | 4 => permit 1 && (decide (off < 0x200) || own 0x200 0x40)
    | 5 => permit 1
    | 6 => permit 2
    | 7 => own 0x200 0x100 || (permit 3 && decide (off < 0x200))
    | 8 => permit 4 && !decide (0x180 ≤ off ∧ off < 0x1C0)
    | 9 =>
      if off = 0x15C ∨ off = 0x160 then s.admin || sel == slot
      else if 0x200 ≤ off then false
      else off == 0x120 || permit 4
    | 10 => if off = 0x10C ∨ off = 0x110 then s.admin else off == 0x108 || permit 4
    | 11 => permit 6
    | 12 => permit 7
    | 13 => own 0x200 0x40 || (decide (off < 0x200) && (if off = 0x10C then s.admin else permit 5))
    | _ => s.admin

/-- The slot RAILJOR.SEL names once a REG_WR's words up to it are written. DEDUCED, log entry 70. -/
def Dev.selAfter (d : Dev) (page off : Nat) (m : List Byte) : Nat :=
  (if page = pgRailjor ∧ off ≤ 0x120 ∧ 0x120 < off + 4 * rjTotal m then field m (48 + 0x120 - off) 4 else d.reg pgRailjor 0x120) % 8

/-! ### Requests -/

/-- A refusal of a request. DEDUCED, log entry 68. -/
def Chip.rjRefuse (c : Chip) (slot code : Nat) (m : List Byte) : Chip :=
  c.onDev fun d => d.rjNack slot code (rjStream m) (rjSeq m)

/-- The response that closes a transaction. -/
def Dev.rjRespond (d : Dev) (slot : Nat) (m : List Byte) (payload : List Byte) : Dev :=
  d.rjSend slot (rjTyp m) (rjResp + rjFirst + rjLast) (rjStream m) payload

/-- Where a register request's words lie: page and offset, if they lie in one page of the region (R382). -/
def regPlace (a n : Nat) : Option (Nat × Nat) :=
  if a % 4 = 0 ∧ regBase ≤ a ∧ a < regBase + 0x22400000 ∧ a % 4096 + 4 * n ≤ 4096 then some ((a - regBase) / 4096, a % 4096) else none

/-- REG_RD (R382). DEDUCED, log entry 68. -/
def Chip.regRead (c : Chip) (slot : Nat) (m : List Byte) : Chip :=
  let n := rjTotal m
  if !rjWhole m ∨ n = 0 ∨ 256 < n ∨ m.length ≠ 48 then c.rjRefuse slot 0x0C05 m
  else match regPlace (rjAddr m) n with
    | none => c.rjRefuse slot 0x0C06 m
    | some (page, off) =>
      if c.dev.pageOutside slot page then c.rjRefuse slot 0x0C06 m
      else
        let ws := (List.range n).flatMap fun i => natLe 4 (c.readReg page (off + 4 * i)).toNat
        c.onDev fun d =>
          let d := d.rjRespond slot m (rjPreamble (rjAddr m) n 0 ++ ws)
          { d with freeCount := d.freeCount + 1 }

/-- REG_WR (R382, R396). A keyed write of SEC.RESET without its permit also sets 0x0E09 (R440). DEDUCED, log entry 68. -/
def Chip.regWrite (c : Chip) (slot : Nat) (m : List Byte) : Chip :=
  let n := rjTotal m
  if !rjWhole m ∨ n = 0 ∨ 256 < n ∨ m.length ≠ 48 + 4 * n then c.rjRefuse slot 0x0C05 m
  else match regPlace (rjAddr m) n with
    | none => c.rjRefuse slot 0x0C06 m
    | some (page, off) =>
      if c.dev.pageOutside slot page then c.rjRefuse slot 0x0C06 m
      else if !(List.range n).all fun i => c.dev.mayWrite slot (c.dev.selAfter page off m) page (off + 4 * i) then
        let c := if page = pgSec ∧ off ≤ 0x118 ∧ 0x118 < off + 4 * n then c.onDev fun d => d.secError 0x0E09 0 else c
        c.rjRefuse slot 0x0C07 m
      else
        let ws := (wordsOf 4 n (rjBody m)).map fun w => (BitVec.ofNat 32 w : Word)
        let id := (c.dev.sess slot).id
        let c := c.writeWords ⟨slot, rjStream m, rjSeq m⟩ page off ws
        if !c.pow.up ∨ (c.dev.sess slot).state ≠ 2 ∨ (c.dev.sess slot).id ≠ id then c
        else c.onDev fun d => d.rjRespond slot m (rjPreamble (rjAddr m) n 0)

/-- The regions a session's DMA reaches (R383). -/
def Dev.hostRegions (d : Dev) (p : Nat) : List Region :=
  (d.diesOf p).flatMap fun c =>
    [(2 * c * stackBytes, stackBytes), ((2 * c + 1) * stackBytes, stackBytes)] ++ (dieCores c).map fun k => (caseBase k, caseBytes)

/-- Bytes as a reader outside the cores gets them: what an uncorrectable unit holds is not stated.
DESIGN CHOICE, log entry 69. -/
def Dev.readOut (d : Dev) (a n : Nat) : List Byte × Dev :=
  if d.bad a n then
    let d' := match d.badAt a n with | some u => d.noteUncorr u | none => d
    ((List.range n).map fun i => if d.bad (a + i) 1 then (Config.freeValue (d.freeCount + i)).setWidth 8 else (d.read (a + i) 1).headD 0#8,
     { d' with freeCount := d'.freeCount + n })
  else (d.read a n, d)

/-- An open DMA_WR whose bytes are all written, and none of them waits, is answered (R383). -/
def Dev.dmaWrEnd (d : Dev) (slot : Nat) : Dev :=
  match (d.sess slot).trans with
  | [] => d
  | t :: ts =>
    if t.got < t.total ∨ d.heldWrite t.addr t.total then d
    else (d.modSess slot fun s => { s with trans := ts }).rjSend slot 3 (rjResp + rjFirst + rjLast) t.stream (rjPreamble t.addr t.total 0)

/-- DMA_WR, FIRST (R383). DEDUCED, log entry 68. -/
def Dev.dmaWrFirst (d : Dev) (slot : Nat) (m : List Byte) : Dev :=
  let a := rjAddr m
  let total := rjTotal m
  let off := rjOffset m
  let bs := rjBody m
  let refuse (code : Nat) := d.rjNack slot code (rjStream m) (rjSeq m)
  if m.length < 48 then refuse 0x0C05
  else if total = 0 then d.rjRespond slot m (rjPreamble a 0 0)
  else if inRegions (d.hostRegions (d.sess slot).part) a total = false then refuse 0x0C06
  else if total < off + bs.length then refuse 0x0C05
  else if d.inHold (a + off) bs.length then refuse 0x0C06
  else
    let d := d.write (a + off) bs
    (d.modSess slot fun s => { s with trans := [{ stream := rjStream m, typ := 3, addr := a, total, got := bs.length }] }).dmaWrEnd slot

/-- A further message of the open DMA_WR. DESIGN CHOICE, log entry 69. -/
def Dev.dmaWrMore (d : Dev) (slot : Nat) (t : Trans) (m : List Byte) : Dev :=
  let off := rjOffset m
  let bs := rjBody m
  if m.length < 48 ∨ rjAddr m ≠ t.addr ∨ rjTotal m ≠ t.total ∨ t.total < off + bs.length then
    d.rjNack slot 0x0C05 (rjStream m) (rjSeq m)
  else if d.inHold (t.addr + off) bs.length then d.rjNack slot 0x0C06 (rjStream m) (rjSeq m)
  else
    let d := d.write (t.addr + off) bs
    (d.modSess slot fun s =>
      { s with trans := s.trans.map fun u => if u.stream == t.stream then { u with got := u.got + bs.length } else u }).dmaWrEnd slot

/-- DMA_RD (R383): data in order, in as many messages as the MTU needs. DEDUCED, log entry 68. -/
def Dev.dmaRead (d : Dev) (slot : Nat) (m : List Byte) : Dev :=
  let a := rjAddr m
  let total := rjTotal m
  if !rjWhole m ∨ m.length ≠ 48 then d.rjNack slot 0x0C05 (rjStream m) (rjSeq m)
  else if total ≠ 0 ∧ inRegions (d.hostRegions (d.sess slot).part) a total = false then d.rjNack slot 0x0C06 (rjStream m) (rjSeq m)
  else
    let (bs, d) := d.readOut a total
    let room := max 1 (d.rjRoom slot - 16)
    let n := max 1 ((total + room - 1) / room)
    (List.range n).foldl (fun d i =>
      let flags := rjResp + (if i = 0 then rjFirst else 0) + (if i + 1 = n then rjLast else 0)
      d.rjSend slot 4 flags (rjStream m) (rjPreamble a total (i * room) ++ (bs.drop (i * room)).take room)) d

/-- CMD_SUBMIT (R385). A ring that has not been set up holds nothing. DEDUCED, log entry 68; DESIGN CHOICE, log entry 69. -/
def Dev.cmdSubmit (d : Dev) (slot : Nat) (m : List Byte) : Dev :=
  let n := field m 32 4
  let p := (d.sess slot).part
  let hd := d.prt p 0x1C
  let tl := d.prt p 0x20
  let l := d.prt p 0x18 % 32
  let refuse (code : Nat) := d.rjNack slot code (rjStream m) (rjSeq m)
  if !rjWhole m ∨ n = 0 ∨ 142 < n ∨ m.length ≠ 48 + 64 * n then refuse 0x0C05
  else if 4 ≤ p ∨ (d.part p).claim ≠ 2 then refuse 0x0C06
  else if (List.range n).any fun i => d.inHold (d.ringAddr p ((tl + i) % 2 ^ 32)) 64 then refuse 0x0C06
  else if l < 4 ∨ 16 < l ∨ d.ringOk p (d.reg64 pgPart (partReg p 0x10)) l = false ∨ 2 ^ l < (tl + 2 ^ 32 - hd) % 2 ^ 32 + n then refuse 0x0C08
  else
    let d := (List.range n).foldl (fun d i =>
      d.write (d.ringAddr p ((tl + i) % 2 ^ 32)) (splice ((rjBody m).drop (64 * i) |>.take 64) 15 [BitVec.ofNat 8 slot])) d
    (d.setReg pgPart (partReg p 0x20) ((tl + n) % 2 ^ 32)).rjRespond slot m (natLe 4 tl ++ natLe 4 n)

/-- A request begins (R384). A message without FIRST begins none: its transaction was refused (R381). -/
def Chip.rjRun (c : Chip) (slot : Nat) (m : List Byte) : Chip :=
  if rjTyp m ≠ 7 ∧ !rjIsFirst m then c.rjRefuse slot 0x0C05 m
  else match rjTyp m with
  | 1 => c.regRead slot m
  | 2 => c.regWrite slot m
  | 3 => c.onDev fun d => d.dmaWrFirst slot m
  | 4 => c.onDev fun d => d.dmaRead slot m
  | 5 => c.onDev fun d => d.cmdSubmit slot m
  | 7 => c.onDev fun d => d.importData (d.sess slot).part slot (rjSeq m) (rjData m)
  | _ => c

/-- The session's stream range holds the stream (R381). -/
def Dev.streamIn (d : Dev) (slot st : Nat) : Bool :=
  decide (d.reg pgStream (streamBaseKey slot) ≤ st ∧ st < d.reg pgStream (streamBaseKey slot) + d.reg pgStream (streamCountKey slot))

/-- A further message of a DMA_WR on the stream. -/
def rjMoreOf (st : Nat) (m : List Byte) : Bool := rjStream m == st && !rjIsFirst m && rjTyp m == 3

/-- Requests that waited for an open transaction go on, in order, until one opens another (R384). -/
def Chip.rjResume (c : Chip) (slot : Nat) : Nat → Chip
  | 0 => c
  | fuel + 1 =>
    let s := c.dev.sess slot
    if s.state ≠ 2 then c
    else match s.deferred, s.trans with
      | [], _ => c
      | m :: ms, [] => ((c.onDev fun d => d.modSess slot fun s => { s with deferred := ms }).rjRun slot m).rjResume slot fuel
      | ms, t :: _ => match ms.find? (rjMoreOf t.stream) with
        | some m =>
          (c.onDev fun d => (d.modSess slot fun s => { s with deferred := ms.eraseP (rjMoreOf t.stream) }).dmaWrMore slot t m).rjResume slot fuel
        | none => c

/-- What waits on a session goes on. -/
def Chip.rjGoOn (c : Chip) (slot : Nat) : Chip := c.rjResume slot (c.dev.sess slot).deferred.length

/-- A request whose turn has come (R381, R384). DEDUCED, log entry 68. -/
def Chip.rjRequest (c : Chip) (slot : Nat) (m : List Byte) : Chip :=
  let s := c.dev.sess slot
  let defer := c.onDev fun d => d.modSess slot fun s => { s with deferred := s.deferred ++ [m] }
  if rjTyp m = 6 ∨ rjTyp m = 9 ∨ bit (rjFlagsOf m) 7 then c
  else if rjTyp m = 7 then (if s.trans.isEmpty && s.deferred.isEmpty then c.rjRun slot m else defer)
  else if !c.dev.streamIn slot (rjStream m) then c.rjRefuse slot 0x0C04 m
  else if rjIsFirst m then
    if s.busyStreams.contains (rjStream m) then c.rjRefuse slot 0x0C05 m
    else if s.trans.isEmpty && s.deferred.isEmpty then c.rjRun slot m else defer
  else match s.trans.find? fun t => t.stream == rjStream m with
    | some t => if rjTyp m = 3 then (c.onDev fun d => d.dmaWrMore slot t m).rjGoOn slot else c.rjRefuse slot 0x0C05 m
    | none =>
      if rjTyp m = 3 ∧ s.deferred.any fun x => rjStream x == rjStream m && rjIsFirst x && rjTyp x != 7 then defer
      else c.rjRefuse slot 0x0C05 m

/-- Messages accepted ahead of their turn whose turn has come (R389). -/
def Chip.rjTurn (c : Chip) (slot : Nat) : Nat → Chip
  | 0 => c
  | fuel + 1 =>
    let s := c.dev.sess slot
    match s.ahead.find? fun x => x.1 == s.rxNext with
    | none => c
    | some x =>
      let c := c.onDev fun d => d.modSess slot fun s =>
        { s with ahead := s.ahead.filter (fun y => y.1 != x.1), rxNext := (s.rxNext + 1) % 2 ^ 32 }
      (c.rjRequest slot x.2).rjTurn slot fuel

/-- A sequenced message arrives on an open session (R389, R390). -/
def Chip.rjSequenced (c : Chip) (slot : Nat) (m : List Byte) : Chip :=
  let s := c.dev.sess slot
  let q := rjSeq m
  let ahead := (q + 2 ^ 32 - s.rxNext) % 2 ^ 32
  if 2 ^ 31 ≤ ahead then c.onDev fun d => (d.bump pgRailjor (dupKey slot) 1).rjAck slot
  else if c.dev.reg pgRailjor 0x104 ≤ ahead then c
  else
    let c := c.onDev fun d => d.modSess slot fun s =>
      { s with pendAcks := s.pendAcks + 1, ahead := if s.ahead.any (·.1 == q) then s.ahead else s.ahead ++ [(q, m)] }
    let c := if ahead = 0 then c.rjTurn slot (s.ahead.length + 1) else c
    if (c.dev.sess slot).state = 2 ∧ (ahead ≠ 0 ∨ 16 ≤ (c.dev.sess slot).pendAcks) then c.onDev fun d => d.rjAck slot else c

/-! ### The handshake (R394) -/

/-- "HJ-SESS" and "HJ-CERT". -/
def sessContext : List Byte := [0x48#8, 0x4A#8, 0x2D#8, 0x53#8, 0x45#8, 0x53#8, 0x53#8]
def certContext : List Byte := [0x48#8, 0x4A#8, 0x2D#8, 0x43#8, 0x45#8, 0x52#8, 0x54#8]

/-- A datagram of a handshake: the whole message once every byte of it has come. -/
def Dev.shakeIn (d : Dev) (peer : Peer) (m : List Byte) : Dev × Option (List Byte) :=
  let mine (s : Shake) : Bool := s.peer.ip == peer.ip && s.peer.port == peer.port && s.handle == rjStream m
  let off := rjSeq m
  let data := rjData m
  let others := d.shakes.filter fun s => !mine s
  if (8 ≤ d.shakes.length ∧ d.shakes.any mine = false) ∨ 7368 < off + data.length then (d, none)
  else
    let s := (d.shakes.find? mine).getD { peer, handle := rjStream m }
    let bytes := ((List.range data.length).zip data).foldl (fun t x => tset none t (off + x.1) (some x.2)) s.bytes
    let total := if rjIsLast m then some (off + data.length) else s.total
    let whole := match total with
      | none => none
      | some n =>
        if (List.range n).all (fun i => (tget none bytes i).isSome) then some ((List.range n).map fun i => (tget none bytes i).getD 0#8) else none
    match whole with
    | some body => ({ d with shakes := others }, some body)
    | none => ({ d with shakes := others ++ [{ s with bytes, total }] }, none)

/-- A handshake refused: NACK on session 0. -/
def Dev.shakeRefuse (d : Dev) (peer : Peer) (handle code : Nat) : Dev :=
  let d := ((d.setError pgRailjor code (rjInfo 0 handle) 0).bump pgRailjor 0x11C 1).raise pgRailjor 3
  d.shakeSend peer 9 handle (natLe 2 code ++ natLe 2 0 ++ natLe 4 (rjInfo 0 handle) ++ natLe 4 0 ++ natLe 4 0)

/-- A slot that is FREE, or whose OPENING ran out. DEDUCED, log entry 71. -/
def Dev.freeSession (d : Dev) : Option Nat :=
  (List.range 8).find? fun i =>
    let s := d.sess i
    s.state == 0 || (s.state == 1 && !s.challenge.isEmpty && decide (s.since + 10 ^ 9 < d.time))

/-- OPEN_REQ: the checks of step 2, and a slot reserved with its CHALLENGE to be signed. DEDUCED, log entry 71. -/
def Dev.openRequest (d : Dev) (noSign : Bool) (peer : Peer) (handle : Nat) (body : List Byte) : Dev :=
  let p := field body 1 1
  let t := field body 2 1
  let trust := d.reg pgRailjor (0x200 + 0x80 * t)
  let root := (body.drop 0x28).take 1952
  let digest := Config.shake256 root 64
  let held := (List.range 16).flatMap fun i => natLe 4 (d.reg pgRailjor (0x240 + 0x80 * t + 4 * i))
  let cert := body.drop 0x7C8
  if 4 ≤ t ∨ !bit trust 31 ∨ digest ≠ held then d.shakeRefuse peer handle 0x0C0A
  else if field cert 6 1 ≠ 1 ∨ (cert.drop 0x10).take 64 ≠ digest ∨ noSign ∨
      !Config.mldsa65Verify root (cert.take 0x810) certContext ((cert.drop 0x810).take 3309) then d.shakeRefuse peer handle 0x0C0B
  else match (if p = 0x0F ∨ (p < 4 ∧ bit trust p) then d.freeSession else none) with
    | none => d.shakeRefuse peer handle 0x0C0C
    | some slot =>
      let id := (d.opens + 1) % 2 ^ 29 * 8 + slot
      let nd := padTo 32 (Config.entropy d.freeCount)
      let first := natLe 1 2 ++ natLe 3 0 ++ natLe 4 id ++ nd ++ (body.drop 8).take 32
      let d := d.modSess slot fun s =>
        { evmask := s.evmask, permit := s.permit, state := 1, id, part := if p = 0x0F then 4 else p, admin := bit trust 30, trust := t
          peer, openReq := body, handle, window := field body 4 2, challenge := [], deferred := [first] }
      { d with opens := d.opens + 1, freeCount := d.freeCount + 1, signQ := d.signQ ++ [(1, slot)] }

/-- HANDSHAKE_SIGNATURE_DONE: CHALLENGE is sent; an empty signature is a signing that failed (R436). -/
def Dev.challengeSigned (d : Dev) (slot : Nat) (sig : List Byte) : Dev :=
  let s := d.sess slot
  if d.signQ.head? ≠ some (1, slot) ∨ s.state ≠ 1 then d
  else
    let d := { d with signQ := d.signQ.tail }
    if sig.isEmpty then (d.modSess slot fun _ => {}).shakeRefuse s.peer s.handle 0x0C0B
    else
      let ch := padTo 8768 (padTo 0x48 (s.deferred.headD []) ++ padTo 5376 Config.identityCert ++ padTo 3309 sig)
      (d.modSess slot fun s => { s with challenge := ch, deferred := [], since := d.time }).shakeSend s.peer 6 s.handle ch

/-- The signature of an OPEN_FIN verifies for the slot. -/
def Session.finOk (s : Session) (body : List Byte) : Bool :=
  !s.challenge.isEmpty && s.id == field body 4 4 &&
  Config.mldsa65Verify ((s.openReq.drop 0x838).take 1952) (Config.shake256 (s.openReq ++ s.challenge) 64) sessContext
    ((body.drop 8).take 3309)

/-- OPEN_FIN. A repeat of the one that opened the session is answered again. DEDUCED, log entry 71. -/
def Dev.openFinish (d : Dev) (peer : Peer) (handle : Nat) (body : List Byte) : Dev :=
  let slot := field body 4 4 % 8
  let s := d.sess slot
  let refuse (d : Dev) := d.shakeRefuse peer handle 0x0C0B
  if s.state = 2 then (if s.finOk body then d.rjAck slot else refuse d)
  else if s.state ≠ 1 ∨ s.challenge = [] ∨ s.id ≠ field body 4 4 then refuse d
  else if s.finOk body ∧ d.time ≤ s.since + 10 ^ 9 then
    let d := d.modSess slot fun s => { s with state := 2, peer, cwnd := 16 }
    (d.raise pgRailjor 1).rjAck slot
  else refuse (d.modSess slot fun _ => {})

/-- A datagram on session 0. DEDUCED, log entry 71. -/
def Chip.rjShake (c : Chip) (peer : Peer) (m : List Byte) : Chip :=
  c.onDev fun d =>
    match d.shakeIn peer m with
    | (d, none) => d
    | (d, some body) =>
      if field body 0 1 = 1 ∧ body.length = 7368 then d.openRequest c.sec.signingOff peer (rjStream m) body
      else if field body 0 1 = 3 ∧ body.length = 3328 then d.openFinish peer (rjStream m) body
      else d

/-- HANDSHAKE_REASSEMBLY_TIMEOUT: the h-th handshake being reassembled is discarded. -/
def Dev.shakeTimeout (d : Dev) (h : Nat) : Dev := { d with shakes := d.shakes.eraseIdx h }

/-! ### Every message -/

/-- A datagram discarded (R379). -/
def Dev.rjBad (d : Dev) (code : Nat) (m : List Byte) : Dev :=
  (d.bump pgRailjor 0x118 1).setError pgRailjor code (rjInfo (rjSession m) (rjStream m)) (rjSeq m)

/-- The module serves the network. DESIGN CHOICE, log entry 65. -/
def Pow.net (p : Pow) : Bool := (p.mode == .ready || p.mode == .run) && !p.frozen

/-- A Railjor message arrives from a source; `ce`: it is marked CE. -/
def Chip.rjReceive (c : Chip) (peer : Peer) (ce : Bool) (m : List Byte) : Chip :=
  let slot := rjSession m % 8
  let s := c.dev.sess slot
  if !c.pow.net then c
  else if !rjHeaderOk m then c.onDev fun d => d.rjBad 0x0C02 m
  else if rjSession m = 0 ∧ rjTyp m = 5 then c.rjShake peer m
  else if s.state ≠ 2 ∨ s.id ≠ rjSession m ∨ s.peer.ip ≠ peer.ip ∨ s.peer.port ≠ peer.port then c.onDev fun d => d.rjBad 0x0C03 m
  else
    let c := c.onDev fun d => (d.modSess slot fun s => { s with peer, ce := s.ce || ce }).rjAckIn slot m
    if rjTyp m = 8 then c else c.rjSequenced slot m

/-- A row of the table that names one message type: the message comes from the session's recorded source. -/
def Chip.rjRow (c : Chip) (typ : Nat) (m : List Byte) : Chip :=
  if rjTyp m = typ ∧ rjSession m ≠ 0 then c.rjReceive (c.dev.sess (rjSession m % 8)).peer false m else c

/-- OPEN_REQ and OPEN_FIN, one datagram at a time, from a source the row does not name. DEDUCED, log entry 71. -/
def Chip.shakeRow (c : Chip) (kind : Nat) (m : List Byte) : Chip :=
  if rjTyp m = 5 ∧ rjSession m = 0 ∧ (rjSeq m ≠ 0 ∨ field (rjData m) 0 1 = kind) then c.rjReceive {} false m else c

/-- EVENT_SEND (R387): up to 285 records, as the MTU allows. -/
def EvRec.bytes (r : EvRec) : List Byte :=
  natLe 4 (r.page % 2 ^ 18) ++ natLe 4 r.bits.toNat ++ natLe 2 r.code ++ natLe 2 0 ++ natLe 4 r.info0.toNat ++ natLe 4 r.info1.toNat ++
  natLe 4 r.impr ++ natLe 8 r.time
def Dev.eventSend (d : Dev) (slot : Nat) : Dev :=
  let s := d.sess slot
  let n := min 285 (d.rjRoom slot / 32)
  if s.state ≠ 2 ∨ s.events = [] ∨ !s.windowOpen then d
  else (d.modSess slot fun s => { s with events := s.events.drop n }).rjSend slot 6 (rjFirst + rjLast) 0 ((s.events.take n).flatMap EvRec.bytes)

/-- After held writes have landed, the DMA_WRs that waited for them are answered. -/
def Chip.rjSettle (c : Chip) : Chip :=
  if !c.pow.up then c
  else (List.range 8).foldl (fun c slot =>
    if (c.dev.sess slot).state = 2 ∧ (c.dev.sess slot).trans ≠ [] then (c.onDev fun d => d.dmaWrEnd slot).rjGoOn slot else c) c

end Sys2Proof.Machine
end

