-- ==== Sys2Proof/Machine/Eth.lean ====
section
/-!
DEFINITION. Sys2Proof/Machine/Eth.lean: the Ethernet port: which frames are accepted, MACsec, the answers to ARP, neighbour
solicitation and echo (R375–R377), and the UDP datagrams that carry Railjor (R378).
-/
namespace Sys2Proof.Machine

/-! ### Frames -/

/-- What a frame carries after at most one 802.1Q tag: the tag's VLAN ID, EtherType and payload.
DESIGN CHOICE, log entry 65. -/
def ethBody (f : List Byte) : Option Nat × Nat × List Byte :=
  if fieldBe f 12 2 = 0x8100 then (some (fieldBe f 14 2 % 4096), fieldBe f 16 2, f.drop 18) else (none, fieldBe f 12 2, f.drop 14)

/-- Source and destination addresses of a frame. -/
def ethDst (f : List Byte) : List Byte := f.take 6
def ethSrc (f : List Byte) : List Byte := (f.drop 6).take 6

/-- The device's own addresses, in network order. -/
def ownMac : List Byte := natBe 6 Config.macAddress.toNat
def Dev.ownV4 (d : Dev) : List Byte := natBe 4 (d.reg pgEth 0x118)
def Dev.ownV6 (d : Dev) : List Byte := (List.range 4).flatMap fun i => natLe 4 (d.reg pgEth (0x120 + 4 * i))

/-- The solicited-node multicast address of an IPv6 address. -/
def solicited (ip : List Byte) : List Byte := natBe 13 0xFF0200000000000000000001FF ++ ip.drop 13

/-- Sum of the 16-bit words of the internet checksum, folded; a whole packet with a right checksum gives 0xFFFF. -/
def inetSum (bs : List Byte) : Nat :=
  let s := (wordsOf 2 ((bs.length + 1) / 2) bs).foldl (fun n w => n + (w % 256 * 256 + w / 256)) 0
  let s := s / 65536 + s % 65536
  s / 65536 + s % 65536

/-- The checksum field of bytes that hold zero there. PRESUMED, log entry 66. -/
def inetCheck (bs : List Byte) : List Byte := natBe 2 (0xFFFF - inetSum bs)

/-- The pseudo-header of a transport checksum. -/
def pseudo (v6 : Bool) (src dst : List Byte) (proto len : Nat) : List Byte :=
  if v6 then src ++ dst ++ natBe 4 len ++ natBe 4 proto else src ++ dst ++ natBe 2 proto ++ natBe 2 len

/-! ### MACsec (R377) -/

/-- A frame fails MACsec. -/
def Dev.macsecDrop (d : Dev) : Dev := d.bump pgEth 0x158 1

/-- The packet number of a SecTAG: with XPN its upper half follows from the lowest acceptable one. PRESUMED, log entry 67. -/
def recoverPn (xpn : Bool) (low pn : Nat) : Nat :=
  if xpn then low / 2 ^ 32 * 2 ^ 32 + (if bit (low % 2 ^ 32) 31 && !bit pn 31 then 2 ^ 32 else 0) + pn else pn

/-- The key material of an association, and the packet number. -/
def saBytes (ws : List Nat) (pn : Nat) : List Byte := ((ws.take 16).flatMap fun w => natLe 4 w) ++ natLe 8 pn

/-- A protected frame under an association that receives: the frame without its tag, and the lowest packet number
acceptable next. PRESUMED, log entry 67. -/
def openUnder (ws : List Nat) (low : Nat) (f : List Byte) : Option (List Byte × Nat) :=
  let cfg := nth ws 0
  let pn := recoverPn (bit cfg 29) low (fieldBe f 16 4)
  if bit cfg 30 ∧ bits cfg 28 27 = fieldBe f 14 1 % 4 ∧ low ≤ pn then
    (Config.macsecOpen (saBytes ws pn) f).map fun g => (g, pn + 1)
  else none

/-- What MACsec lets through. PRESUMED, log entry 67. -/
def Dev.macsecIn (d : Dev) (f : List Byte) : Dev × Option (List Byte) :=
  if fieldBe f 12 2 ≠ 0x88E5 then (if bit (d.reg pgEth 0x110) 29 then (d.macsecDrop, none) else (d, some f))
  else if f.length < 44 ∨ !bit (fieldBe f 14 1) 5 then (d.macsecDrop, none)
  else match openUnder d.sa (d.reg64 pgEth 0x1C8) f with
    | some (g, low) => (d.setReg64 pgEth 0x1C8 low, some g)
    | none => match openUnder d.oldSa (nth d.oldSa 16) f with
      | some (g, low) => ({ d with oldSa := d.oldSa.take 16 ++ [low] }, some g)
      | none => (d.macsecDrop, none)

/-- MACSEC_OLD_AN_EXPIRY. PRESUMED, log entry 67. -/
def Dev.macsecOldAnExpiry (d : Dev) : Dev := { d with oldSa := [] }

/-! ### Answers (R376) -/

/-- A frame taken, and one discarded. -/
def Dev.rxTaken (d : Dev) : Dev := d.bump64 pgEth 0x130 1
def Dev.rxDrop (d : Dev) : Dev := d.bump pgEth 0x140 1

/-- ARP: a request for the device's address is answered. PRESUMED, log entry 66. -/
def Dev.arpIn (d : Dev) (f : List Byte) (vlan : Option Nat) (b : List Byte) : Dev :=
  let dst := ethDst f
  let sha := (b.drop 8).take 6
  let spa := (b.drop 14).take 4
  if (dst = ownMac ∨ dst = List.replicate 6 0xFF#8) ∧ b.take 8 = natBe 8 0x0001080006040001 ∧ 28 ≤ b.length ∧
      (b.drop 24).take 4 = d.ownV4 ∧ bit (d.reg pgEth 0x110) 31 then
    let peer : Peer := { ip := spa, mac := ethSrc f, vlan }
    (d.rxTaken.send (.arp peer) (natBe 8 0x0001080006040002 ++ ownMac ++ d.ownV4 ++ sha ++ spa)).txFrame
  else d.rxDrop

/-- Echo of ICMP (type 8) and ICMPv6 (type 128). PRESUMED, log entry 66. -/
def Dev.echoIn (d : Dev) (peer : Peer) (own m : List Byte) : Dev :=
  let rest := m.drop 4
  let body (ck : List Byte) := natBe 2 (if peer.v6 then 0x8100 else 0) ++ ck ++ rest
  let cover := (if peer.v6 then pseudo true own peer.ip 58 m.length else []) ++ body [0#8, 0#8]
  (d.rxTaken.send (.icmp peer) (body (inetCheck cover))).txFrame

/-- Neighbour solicitation for the device's IPv6 address. PRESUMED, log entry 66. -/
def Dev.solicitIn (d : Dev) (peer : Peer) : Dev :=
  let none_ := peer.ip.all (· == 0#8)
  let peer := if none_ then { peer with ip := natBe 16 0xFF020000000000000000000000000001, mac := natBe 6 0x333300000001 } else peer
  let body (ck : List Byte) :=
    natBe 2 0x8800 ++ ck ++ natBe 4 (if none_ then 0x20000000 else 0x60000000) ++ d.ownV6 ++ natBe 2 0x0201 ++ ownMac
  let ck := inetCheck (pseudo true d.ownV6 peer.ip 58 32 ++ body [0#8, 0#8])
  (d.rxTaken.send (.icmp peer) (body ck)).txFrame

/-- A UDP datagram to the device (R378). PRESUMED, log entry 66. -/
def Chip.udpIn (c : Chip) (peer : Peer) (own : List Byte) (ce : Bool) (u : List Byte) : Chip :=
  let n := fieldBe u 4 2
  let u := u.take n
  if n < 8 ∨ u.length < n ∨ fieldBe u 2 2 ≠ c.dev.reg pgEth 0x11C % 2 ^ 16 ∨
      (fieldBe u 6 2 ≠ 0 ∧ inetSum (pseudo peer.v6 peer.ip own 17 n ++ u) ≠ 0xFFFF) then c.onDev Dev.rxDrop
  else (c.onDev Dev.rxTaken).rjReceive { peer with port := fieldBe u 0 2 } ce (u.drop 8)

/-- An IPv4 packet. PRESUMED, log entry 66. -/
def Chip.ipv4In (c : Chip) (f : List Byte) (vlan : Option Nat) (b : List Byte) : Chip :=
  let d := c.dev
  let h := fieldBe b 0 1 % 16 * 4
  let len := fieldBe b 2 2
  let ip := b.take len
  if ethDst f ≠ ownMac ∨ !bit (d.reg pgEth 0x110) 31 ∨ fieldBe b 0 1 / 16 ≠ 4 ∨ h < 20 ∨ len < h ∨ b.length < len ∨
      d.reg pgEth 0x114 < len ∨ fieldBe b 6 2 % 2 ^ 14 ≠ 0 ∨ inetSum (b.take h) ≠ 0xFFFF ∨ (b.drop 16).take 4 ≠ d.ownV4 then
    c.onDev Dev.rxDrop
  else
    let peer : Peer := { ip := (b.drop 12).take 4, mac := ethSrc f, vlan }
    let m := ip.drop h
    match fieldBe b 9 1 with
    | 17 => c.udpIn peer d.ownV4 (fieldBe b 1 1 % 4 == 3) m
    | 1 => if fieldBe m 0 2 = 0x0800 ∧ 8 ≤ m.length ∧ inetSum m = 0xFFFF then c.onDev fun d => d.echoIn peer d.ownV4 m else c.onDev Dev.rxDrop
    | _ => c.onDev Dev.rxDrop

/-- An IPv6 packet. PRESUMED, log entry 66. -/
def Chip.ipv6In (c : Chip) (f : List Byte) (vlan : Option Nat) (b : List Byte) : Chip :=
  let d := c.dev
  let len := fieldBe b 4 2
  let m := (b.drop 40).take len
  let dst := (b.drop 24).take 16
  let own := d.ownV6
  let peer : Peer := { v6 := true, ip := (b.drop 8).take 16, mac := ethSrc f, vlan }
  let icmp := fieldBe b 6 1 == 58 && inetSum (pseudo true peer.ip dst 58 len ++ m) == 0xFFFF
  let solicit := icmp && fieldBe m 0 2 == 0x8700 && decide (24 ≤ m.length) && fieldBe b 7 1 == 255 && (m.drop 8).take 16 == own
  let group := dst == solicited own && bit (fieldBe f 0 1) 0
  if !bit (d.reg pgEth 0x110) 30 ∨ fieldBe b 0 1 / 16 ≠ 6 ∨ b.length < 40 + len ∨ d.reg pgEth 0x114 < 40 + len then c.onDev Dev.rxDrop
  else if solicit && ((ethDst f == ownMac && dst == own) || group) then c.onDev fun d => d.solicitIn peer
  else if ethDst f ≠ ownMac ∨ dst ≠ own then c.onDev Dev.rxDrop
  else match fieldBe b 6 1 with
    | 17 => c.udpIn peer own (bits (fieldBe b 1 1) 5 4 == 3) m
    | 58 => if icmp && fieldBe m 0 2 == 0x8000 && decide (8 ≤ m.length) then c.onDev fun d => d.echoIn peer own m else c.onDev Dev.rxDrop
    | _ => c.onDev Dev.rxDrop

/-- An Ethernet frame, without its FCS (R376). DESIGN CHOICE, log entry 65. -/
def Chip.ethFrame (c : Chip) (frame : List Byte) : Chip :=
  if !c.pow.net then c
  else match c.dev.macsecIn frame with
    | (d, none) => { c with dev := d }
    | (d, some f) =>
      let c := { c with dev := d }
      let cfg := d.reg pgEth 0x110
      let (vlan, typ, b) := ethBody f
      let tagOk := match vlan with | none => true | some v => bit cfg 28 && v == bits cfg 27 16
      if !tagOk then c.onDev Dev.rxDrop
      else match typ with
        | 0x0806 => c.onDev fun d => d.arpIn f vlan b
        | 0x0800 => c.ipv4In f vlan b
        | 0x86DD => c.ipv6In f vlan b
        | _ => c.onDev Dev.rxDrop

/-- ETH_LINK_CHANGE (R375, Table 13-8). -/
def Dev.ethLink (d : Dev) (up : Bool) : Dev :=
  if bit (d.reg pgEth ethLinkKey) 0 == up then d else (d.setReg pgEth ethLinkKey (b2n up)).raise pgEth 1

end Sys2Proof.Machine
end

