-- ==== Sys2Proof/Machine/Run.lean ====
section
/-!
DEFINITION. Sys2Proof/Machine/Run.lean: how a command's meaning acts on the state. A command that names a place the module
does not have, or that finds its condition unmet, changes nothing.
-/
namespace Sys2Proof.Machine

/-- A command that acts on the module completes; the queue is left alone. DESIGN CHOICE, log entry 82. -/
def State.run (s : State) (f : Chip → Chip) : Host.Outcome State Fault Refusal := .next { s with chip := f s.chip }

/-- The same, where the command's operands fit it. DESIGN CHOICE, log entry 1. -/
def State.runIf (s : State) (ok : Bool) (f : Chip → Chip) : Host.Outcome State Fault Refusal :=
  s.run fun c => if ok then f c else c

/-- Entries of the host ring whose lists have ended are done (Table 13-3). -/
def Dev.ordersOf (d : Dev) (k : Nat) : Dev := match d.partOf k with | some p => d.checkOrders p | none => d

/-- Something a core does: its die is claimed and out of reset. DESIGN CHOICE, log entry 1. -/
def Chip.onCore (c : Chip) (k : Nat) (f : Dev → Dev) : Chip :=
  c.live fun d => if k < numCores ∧ (d.die (coreDie k)).live then (f d).ordersOf k else d

/-- A register written by software, through the hub, by a writer the rules name no session for. -/
def Chip.busWrite (c : Chip) (page off : Nat) (w : Word) : Chip := if c.pow.up then c.writeReg {} page off w else c

end Sys2Proof.Machine
end

