-- ==== Sys2Proof/Machine/RowsHost.lean ====
section
/-!
DEFINITION. Sys2Proof/Machine/RowsHost.lean: Ethernet, Railjor, sessions and partitions (Chapter 13): one meaning per command.
-/
namespace Sys2Proof.Machine

/-- ETH_FRAME_RECEIVE (R376). -/
def execEthFrameReceive (frame : List Byte) (s : State) : Host.Outcome State Fault Refusal :=
  s.run fun c => c.ethFrame frame

/-- MACSEC_OLD_AN_EXPIRY (R377). -/
def execMacsecOldAnExpiry (s : State) : Host.Outcome State Fault Refusal :=
  s.run fun x => x.live fun d => d.macsecOldAnExpiry

/-- REG_RD (R382). -/
def execRegRd (msg : List Byte) (s : State) : Host.Outcome State Fault Refusal :=
  s.run fun c => c.rjRow 1 msg

/-- REG_WR (R382). -/
def execRegWr (msg : List Byte) (s : State) : Host.Outcome State Fault Refusal :=
  s.run fun c => c.rjRow 2 msg

/-- DMA_WR (R383). -/
def execDmaWr (msg : List Byte) (s : State) : Host.Outcome State Fault Refusal :=
  s.run fun c => c.rjRow 3 msg

/-- DMA_RD (R383). -/
def execDmaRd (msg : List Byte) (s : State) : Host.Outcome State Fault Refusal :=
  s.run fun c => c.rjRow 4 msg

/-- CMD_SUBMIT (R385). -/
def execCmdSubmit (msg : List Byte) (s : State) : Host.Outcome State Fault Refusal :=
  s.run fun c => c.rjRow 5 msg

/-- PROOF_DATA (R388). -/
def execProofData (msg : List Byte) (s : State) : Host.Outcome State Fault Refusal :=
  s.run fun c => c.rjRow 7 msg

/-- ACK (R390). -/
def execAck (msg : List Byte) (s : State) : Host.Outcome State Fault Refusal :=
  s.run fun c => c.rjRow 8 msg

/-- OPEN_REQ (R394). -/
def execOpenReq (msg : List Byte) (s : State) : Host.Outcome State Fault Refusal :=
  s.run fun c => c.shakeRow 1 msg

/-- OPEN_FIN (R394). -/
def execOpenFin (msg : List Byte) (s : State) : Host.Outcome State Fault Refusal :=
  s.run fun c => c.shakeRow 3 msg

/-- HANDSHAKE_REASSEMBLY_TIMEOUT (R394). -/
def execHandshakeReassemblyTimeout (h : Nat) (s : State) : Host.Outcome State Fault Refusal :=
  s.run fun x => x.live fun d => d.shakeTimeout h

/-- ACK_DELAY_EXPIRY (R390). -/
def execAckDelayExpiry (slot : Nat) (s : State) : Host.Outcome State Fault Refusal :=
  s.runIf (decide (slot < 8)) fun x => x.live fun d => d.ackDelay slot

/-- ACK_IDLE_REPEAT (R390). -/
def execAckIdleRepeat (slot : Nat) (s : State) : Host.Outcome State Fault Refusal :=
  s.runIf (decide (slot < 8)) fun x => x.live fun d => d.ackIdle slot

/-- RETRANSMIT_TIMEOUT (R391). -/
def execRetransmitTimeout (slot : Nat) (s : State) : Host.Outcome State Fault Refusal :=
  s.runIf (decide (slot < 8)) fun x => x.live fun d => d.rjTimeout slot

/-- SESSION_TIMEOUT (R392). -/
def execSessionTimeout (slot : Nat) (s : State) : Host.Outcome State Fault Refusal :=
  s.runIf (decide (slot < 8)) fun x => x.live fun d => d.sessionTimeout slot

/-- SESSION_CLOSE (R392). -/
def execSessionClose (w : Word) (s : State) : Host.Outcome State Fault Refusal :=
  s.runIf (bit w.toNat 0) fun c => c.busWrite pgRailjor 0x160 w

/-- EVENT_SEND (R387). -/
def execEventSend (slot : Nat) (s : State) : Host.Outcome State Fault Refusal :=
  s.runIf (decide (slot < 8)) fun x => x.live fun d => d.eventSend slot

/-- PARTITION_CLAIM (R395). -/
def execPartitionClaim (p : Nat) (w : Word) (s : State) : Host.Outcome State Fault Refusal :=
  s.runIf (bit w.toNat 4) fun c => c.busWrite pgPart (0x200 + 0x40 * p) w

/-- PARTITION_RELEASE (R395). -/
def execPartitionRelease (p : Nat) (w : Word) (s : State) : Host.Outcome State Fault Refusal :=
  s.runIf (bit w.toNat 0) fun c => c.busWrite pgPart (0x204 + 0x40 * p) w

/-- MAINT_WRITE (R439). -/
def execMaintWrite (p : Nat) (w : Word) (s : State) : Host.Outcome State Fault Refusal :=
  s.run fun c => c.busWrite pgPart (0x20C + 0x40 * p) w

/-- ETH_LINK_CHANGE (R375). -/
def execEthLinkChange (up : Bool) (s : State) : Host.Outcome State Fault Refusal :=
  s.run fun x => x.live fun d => d.ethLink up

/-- HANDSHAKE_SIGNATURE_DONE (R436). -/
def execHandshakeSignatureDone (h : Nat) (sig : List Byte) (s : State) : Host.Outcome State Fault Refusal :=
  s.runIf (decide (h < 8)) fun x => x.live fun d => d.challengeSigned h sig

end Sys2Proof.Machine
end

