-- ==== Sys2Proof/Machine/RowsImpression.lean ====
section
/-!
DEFINITION. Sys2Proof/Machine/RowsImpression.lean: impressions and the time base (Chapter 2): one meaning per command.
-/
namespace Sys2Proof.Machine

/-- IMPR_RUN_START (R29). -/
def execImprRunStart (p : Nat) (w : Word) (s : State) : Host.Outcome State Fault Refusal :=
  s.runIf (bit w.toNat 0) fun c => c.busWrite pgImpr (0x100 + 0x80 * p) w

/-- FIRST_IMPRESSION_START (R29). -/
def execFirstImpressionStart (p : Nat) (s : State) : Host.Outcome State Fault Refusal :=
  s.runIf (decide (p < 4)) fun x => x.live fun d => (d.firstImpression p).dropPastOrder p

/-- STOP_PRESS (R450). -/
def execStopPress (p : Nat) (w : Word) (s : State) : Host.Outcome State Fault Refusal :=
  s.runIf (!bit w.toNat 0) fun c => c.busWrite pgImpr (0x100 + 0x80 * p) w

/-- ANNOUNCEMENT (R33). -/
def execAnnouncement (p : Nat) (s : State) : Host.Outcome State Fault Refusal :=
  s.runIf (decide (p < 4)) fun x => x.live fun d => d.announcement p

/-- TICK_RECORD (R34). -/
def execTickRecord (n : Nat) (rec : List Byte) (s : State) : Host.Outcome State Fault Refusal :=
  s.runIf (decide (n < 36)) fun x => x.live fun d => d.tickRecord n rec

/-- TICK (R34). -/
def execTick (p : Nat) (s : State) : Host.Outcome State Fault Refusal :=
  s.runIf (decide (p < 4)) fun x => x.live fun d => (d.tickAt p Dev.cutHook).releaseLinks p

/-- HALT_TICK (R37). -/
def execHaltTick (p : Nat) (s : State) : Host.Outcome State Fault Refusal :=
  s.runIf (decide (p < 4)) fun x => x.live fun d => (d.haltTickAt p Dev.cutHook).releaseLinks p

/-- LISTS_BEGIN (R31). -/
def execListsBegin (p : Nat) (s : State) : Host.Outcome State Fault Refusal :=
  s.runIf (decide (p < 4)) fun x => x.live fun d => d.listsBegin p

/-- TIME_LOAD (R41). -/
def execTimeLoad (w : Word) (s : State) : Host.Outcome State Fault Refusal :=
  s.run fun c => c.busWrite pgTime 0x110 w

/-- ZEROING_DONE (R253). -/
def execZeroingDone (p : Nat) (s : State) : Host.Outcome State Fault Refusal :=
  s.runIf (decide (p < 4)) fun x => x.live fun d => d.zeroingDone p

end Sys2Proof.Machine
end

