-- ==== Sys2Proof/Machine/RowsLink.lean ====
section
/-!
DEFINITION. Sys2Proof/Machine/RowsLink.lean: links, collectives and die-to-die ports (Chapters 11 and 17): one meaning per command.
-/
namespace Sys2Proof.Machine

/-- LINK_CFG_WRITE (R307). -/
def execLinkCfgWrite (n : Nat) (w : Word) (s : State) : Host.Outcome State Fault Refusal :=
  s.runIf (decide (n < 36)) fun c => c.busWrite (pgLink n) 0x104 w

/-- LANE_LOCK (R306). -/
def execLaneLock (n : Nat) (lane : Nat) (s : State) : Host.Outcome State Fault Refusal :=
  s.runIf (decide (n < 36)) fun x => x.live fun d => d.laneLock n lane

/-- LINK_TRAINING_DONE (R303). -/
def execLinkTrainingDone (n : Nat) (s : State) : Host.Outcome State Fault Refusal :=
  s.runIf (decide (n < 36)) fun x => x.live fun d => d.linkTrainingDone n

/-- HELLO_TIMER (R303). -/
def execHelloTimer (n : Nat) (s : State) : Host.Outcome State Fault Refusal :=
  s.runIf (decide (n < 36)) fun x => x.live fun d => d.helloTimer n

/-- LINK_RETRAIN (R299). -/
def execLinkRetrain (n : Nat) (cause : Nat) (s : State) : Host.Outcome State Fault Refusal :=
  s.runIf (decide (n < 36)) fun x => x.live fun d => d.linkRetrain n cause

/-- LINK_RETRAIN_DONE (R305). -/
def execLinkRetrainDone (n : Nat) (s : State) : Host.Outcome State Fault Refusal :=
  s.runIf (decide (n < 36)) fun x => x.live fun d => d.linkRetrainDone n

/-- RETRAIN_LIMIT_EXPIRY (R306). -/
def execRetrainLimitExpiry (n : Nat) (s : State) : Host.Outcome State Fault Refusal :=
  s.runIf (decide (n < 36)) fun x => x.live fun d => d.retrainExpiry n

/-- LINK_FLIT_RECEIVE (R297). -/
def execLinkFlitReceive (n : Nat) (flit : List Byte) (s : State) : Host.Outcome State Fault Refusal :=
  s.runIf (decide (n < 36)) fun x => x.live fun d => d.flitReceive n flit

/-- GALLEY_LINK_FLIT (R293). -/
def execGalleyLinkFlit (n : Nat) (flit : List Byte) (s : State) : Host.Outcome State Fault Refusal :=
  s.runIf (decide (n < 36)) fun x => x.live fun d => d.galleyLinkFlit n flit

/-- COLL_FLIT (R323). -/
def execCollFlit (n : Nat) (flit : List Byte) (s : State) : Host.Outcome State Fault Refusal :=
  s.runIf (decide (n < 40)) fun x => x.live fun d => d.collFlitRow n flit

/-- HELLO (R304). -/
def execHello (n : Nat) (rec : List Byte) (s : State) : Host.Outcome State Fault Refusal :=
  s.runIf (decide (n < 36)) fun x => x.live fun d => d.hello n rec

/-- LC_CREDIT (R300). -/
def execLcCredit (n : Nat) (rec : List Byte) (s : State) : Host.Outcome State Fault Refusal :=
  s.runIf (decide (n < 36)) fun x => x.live fun d => d.lcCredit n rec

/-- GALLEY_CREDIT (R301). -/
def execGalleyCredit (n : Nat) (rec : List Byte) (s : State) : Host.Outcome State Fault Refusal :=
  s.runIf (decide (n < 36)) fun x => x.live fun d => d.galleyCredit n rec

/-- GALLEY_ABORT (R293). -/
def execGalleyAbort (n : Nat) (rec : List Byte) (s : State) : Host.Outcome State Fault Refusal :=
  s.runIf (decide (n < 36)) fun x => x.live fun d => d.galleyAbort n rec

/-- BOUNDARY (R343). -/
def execBoundary (n : Nat) (rec : List Byte) (s : State) : Host.Outcome State Fault Refusal :=
  s.runIf (decide (n < 36)) fun x => x.live fun d => d.boundary n rec

/-- TSYNC_REQ (R310). -/
def execTsyncReq (n : Nat) (rec : List Byte) (s : State) : Host.Outcome State Fault Refusal :=
  s.runIf (decide (n < 36)) fun x => x.live fun d => d.tsyncReq n rec

/-- TSYNC_RESP (R311). -/
def execTsyncResp (n : Nat) (rec : List Byte) (s : State) : Host.Outcome State Fault Refusal :=
  s.runIf (decide (n < 36)) fun x => x.live fun d => d.tsyncResp n rec

/-- TIME_EXCHANGE_TIMER (R310). -/
def execTimeExchangeTimer (n : Nat) (s : State) : Host.Outcome State Fault Refusal :=
  s.runIf (decide (n < 36)) fun x => x.live fun d => d.timeExchange n

/-- COLL_START (R318). -/
def execCollStart (n : Nat) (rec : List Byte) (s : State) : Host.Outcome State Fault Refusal :=
  s.runIf (decide (n < 40)) fun x => x.live fun d => d.collStartRec n rec

/-- COLL_WAVE (R326). -/
def execCollWave (n : Nat) (rec : List Byte) (s : State) : Host.Outcome State Fault Refusal :=
  s.runIf (decide (n < 40)) fun x => x.live fun d => d.collWaveRec n rec

/-- COLL_KICK (R317). -/
def execCollKick (c : Nat) (src : Nat) (tag : Nat) (payload : List Byte) (s : State) : Host.Outcome State Fault Refusal :=
  s.runIf (decide (c < 4)) fun x => x.live fun d => d.collKick c src tag payload

/-- COLL_RUN_START (R318). -/
def execCollRunStart (c : Nat) (e : Nat) (s : State) : Host.Outcome State Fault Refusal :=
  s.runIf (decide (c < 4 ∧ e < 64)) fun x => x.live fun d => d.collRunStart c e

/-- PERMUTE_COPY_DONE (R326). -/
def execPermuteCopyDone (c : Nat) (ch : Nat) (s : State) : Host.Outcome State Fault Refusal :=
  s.runIf (decide (c < 4 ∧ ch < 4)) fun x => x.live fun d => d.permuteCopyDone c ch

/-- COLL_RUN_DONE (R319). -/
def execCollRunDone (c : Nat) (ch : Nat) (s : State) : Host.Outcome State Fault Refusal :=
  s.runIf (decide (c < 4 ∧ ch < 4)) fun x => x.live fun d => d.collRunDone c ch

/-- D2D_RETRAIN (R484). -/
def execD2dRetrain (c : Nat) (port : Nat) (s : State) : Host.Outcome State Fault Refusal :=
  s.runIf (decide (c < 4)) fun x => x.live fun d => d.d2dRetrain c port

/-- D2D_RETRAIN_TIMEOUT (R484). -/
def execD2dRetrainTimeout (c : Nat) (port : Nat) (s : State) : Host.Outcome State Fault Refusal :=
  s.run fun x => x.d2dTimeout c port

/-- D2D_TRAINING_DONE (R484). -/
def execD2dTrainingDone (c : Nat) (port : Nat) (ok : Bool) (s : State) : Host.Outcome State Fault Refusal :=
  s.run fun x => x.d2dTrained c port ok

end Sys2Proof.Machine
end

