-- ==== Sys2Proof/Machine/RowsPower.lean ====
section
/-!
DEFINITION. Sys2Proof/Machine/RowsPower.lean: power, governor, thermal limits, start-up and resets (Chapters 14 and 15): one meaning per command.
-/
namespace Sys2Proof.Machine

/-- POINT_RAMP_DONE (R404). -/
def execPointRampDone (c : Nat) (s : State) : Host.Outcome State Fault Refusal :=
  s.runIf (decide (c < 4)) fun x => x.live fun d => d.pointRamp c

/-- ENERGY_OVER_BUDGET (R411). -/
def execEnergyOverBudget (p : Nat) (s : State) : Host.Outcome State Fault Refusal :=
  s.runIf (decide (p < 4)) fun x => x.live fun d => d.energyOver p

/-- ENERGY_STEPDOWN_REPEAT (R411). -/
def execEnergyStepdownRepeat (p : Nat) (s : State) : Host.Outcome State Fault Refusal :=
  s.runIf (decide (p < 4)) fun x => x.live fun d => d.energyRepeat p

/-- PIN_SAMPLE (R412). -/
def execPinSample (watts : Nat) (s : State) : Host.Outcome State Fault Refusal :=
  s.run fun c => c.live fun d => d.pinSample c.pow.vin watts

/-- POWER_CAP_STEPDOWN (R412). -/
def execPowerCapStepdown (s : State) : Host.Outcome State Fault Refusal :=
  s.run fun x => x.live fun d => d.capStepdown

/-- CLOCK_GATE_ENGAGE (R412). -/
def execClockGateEngage (s : State) : Host.Outcome State Fault Refusal :=
  s.run fun c => c.gateEngage

/-- CLOCK_GATE_RELEASE (R412). -/
def execClockGateRelease (s : State) : Host.Outcome State Fault Refusal :=
  s.run fun c => c.gateRelease

/-- VIN_ALERT (R401). -/
def execVinAlert (mv : Nat) (s : State) : Host.Outcome State Fault Refusal :=
  if vinOk mv then s.run fun c => c.vinAlert mv else .fault .outOfSpec

/-- THERMAL_WARN (R415). -/
def execThermalWarn (sensor : Nat) (temp : Int) (s : State) : Host.Outcome State Fault Refusal :=
  s.runIf (decide (sensor < 13)) fun c => c.live fun d => d.thermalWarn c.pow.vin sensor temp

/-- THERMAL_HOT (R415). -/
def execThermalHot (sensor : Nat) (temp : Int) (s : State) : Host.Outcome State Fault Refusal :=
  s.runIf (decide (sensor < 13)) fun c => c.live fun d => d.thermalHot c.pow.vin sensor temp

/-- THERMAL_HOT_STEPDOWN (R415). -/
def execThermalHotStepdown (c : Nat) (s : State) : Host.Outcome State Fault Refusal :=
  s.runIf (decide (c < 4)) fun x => x.live fun d => d.hotStepdown c

/-- THERMAL_TRIP (R418). -/
def execThermalTrip (sensor : Nat) (temp : Int) (s : State) : Host.Outcome State Fault Refusal :=
  s.runIf (decide (sensor < 13)) fun c => c.thermalTrip sensor temp

/-- RAIL_FAULT (R422). -/
def execRailFault (s : State) : Host.Outcome State Fault Refusal :=
  s.run fun c => c.railFault

/-- VIN_APPLY (R405). -/
def execVinApply (mv : Nat) (s : State) : Host.Outcome State Fault Refusal :=
  if vinOk mv then s.run fun c => c.vinApply mv else .fault .outOfSpec

/-- VIN_REMOVE (R405). -/
def execVinRemove (s : State) : Host.Outcome State Fault Refusal :=
  s.run fun c => c.vinRemove

/-- PWR_EN_ASSERT (R423). -/
def execPwrEnAssert (s : State) : Host.Outcome State Fault Refusal :=
  s.run fun c => c.pwrEnAssert

/-- BOOT_DELAY_EXPIRY (R492). -/
def execBootDelayExpiry (s : State) : Host.Outcome State Fault Refusal :=
  s.run fun c => c.bootDelay

/-- PWR_EN_DEASSERT (R495). -/
def execPwrEnDeassert (ns : Nat) (s : State) : Host.Outcome State Fault Refusal :=
  if decide (10000000 ≤ ns) then s.run fun c => c.pwrEnDeassert else .fault .outOfSpec

/-- FIRMWARE_VERIFIED (R428). -/
def execFirmwareVerified (slot : Nat) (s : State) : Host.Outcome State Fault Refusal :=
  s.run fun c => c.firmwareVerified slot

/-- MEMORY_TRAINING_DONE (R426). -/
def execMemoryTrainingDone (failing : Nat) (dimms : List Nat) (bad : Nat) (s : State) : Host.Outcome State Fault Refusal :=
  s.run fun c => c.trained failing dimms bad

/-- BOOT_TIMEOUT (R426). -/
def execBootTimeout (s : State) : Host.Outcome State Fault Refusal :=
  s.run fun c => c.bootTimeout

/-- WATCHDOG_EXPIRY (R423). -/
def execWatchdogExpiry (s : State) : Host.Outcome State Fault Refusal :=
  s.run fun c => c.watchdog

/-- DDR_SELF_REFRESH_ENTERED (R432). -/
def execDdrSelfRefreshEntered (s : State) : Host.Outcome State Fault Refusal :=
  s.run fun c => c.selfRefresh

/-- WARM_RESET_RAILS_OFF (R432). -/
def execWarmResetRailsOff (s : State) : Host.Outcome State Fault Refusal :=
  s.run fun c => c.railsOff

/-- WARM_RESET_RESTART (R432). -/
def execWarmResetRestart (s : State) : Host.Outcome State Fault Refusal :=
  s.run fun c => c.warmRestart

/-- HUB_RAILS_IN_REGULATION (R434). -/
def execHubRailsInRegulation (s : State) : Host.Outcome State Fault Refusal :=
  s.run fun c => c.hubRails

/-- DIE_RAILS_IN_REGULATION (R433). -/
def execDieRailsInRegulation (s : State) : Host.Outcome State Fault Refusal :=
  s.run fun c => c.dieRails

end Sys2Proof.Machine
end

