-- ==== Sys2Proof/Machine/RowsProof.lean ====
section
/-!
DEFINITION. Sys2Proof/Machine/RowsProof.lean: proofs, generations and restores (Chapter 12): one meaning per command.
-/
namespace Sys2Proof.Machine

/-- PROOF_ORDER_WARM (R338). -/
def execProofOrderWarm (p : Nat) (w : Word) (s : State) : Host.Outcome State Fault Refusal :=
  s.runIf ((bit w.toNat 0 && !bit w.toNat 1)) fun c => c.busWrite pgProof (0x204 + 0x100 * p) w

/-- PROOF_ORDER_COLD (R339). -/
def execProofOrderCold (p : Nat) (w : Word) (s : State) : Host.Outcome State Fault Refusal :=
  s.runIf ((bit w.toNat 0 && bit w.toNat 1)) fun c => c.busWrite pgProof (0x204 + 0x100 * p) w

/-- PROOF_CANCEL (R340). -/
def execProofCancel (p : Nat) (w : Word) (s : State) : Host.Outcome State Fault Refusal :=
  s.runIf (bit w.toNat 0) fun c => c.busWrite pgProof (0x208 + 0x100 * p) w

/-- QUIESCE_DONE (R344). -/
def execQuiesceDone (p : Nat) (s : State) : Host.Outcome State Fault Refusal :=
  s.runIf (decide (p < 4)) fun c => (c.live fun d => d.quiesceDone p c.sec.debugOpen c.sec.fwDigest).rjSettle

/-- QUIESCE_TIMEOUT (R344). -/
def execQuiesceTimeout (p : Nat) (s : State) : Host.Outcome State Fault Refusal :=
  s.runIf (decide (p < 4)) fun c => (c.live fun d => d.quiesceTimeout p).rjSettle

/-- CAPTURE_DONE (R346). -/
def execCaptureDone (p : Nat) (s : State) : Host.Outcome State Fault Refusal :=
  s.runIf (decide (p < 4)) fun c => (c.live fun d => d.captureDone p).rjSettle

/-- SHADOW_COPY_DONE (R350). -/
def execShadowCopyDone (st : Nat) (page : Nat) (s : State) : Host.Outcome State Fault Refusal :=
  s.runIf (decide (st < 8)) fun c => (c.live fun d => d.shadowCopy st page).rjSettle

/-- COPY_DONE (R358). -/
def execCopyDone (p : Nat) (s : State) : Host.Outcome State Fault Refusal :=
  s.runIf (decide (p < 4)) fun c => (c.live fun d => d.copyDone p).rjSettle

/-- MANIFEST_SIGNED (R360). -/
def execManifestSigned (p : Nat) (sig : List Byte) (s : State) : Host.Outcome State Fault Refusal :=
  s.runIf (decide (p < 4)) fun c => (c.live fun d => d.manifestSigned p sig c.sec.signingOff).rjSettle

/-- PROOF_DRAIN_START (R361). -/
def execProofDrainStart (s : State) : Host.Outcome State Fault Refusal :=
  s.run fun c => (c.live fun d => d.drainStart).rjSettle

/-- PROOF_DRAIN_DONE (R361). -/
def execProofDrainDone (s : State) : Host.Outcome State Fault Refusal :=
  s.run fun c => (c.live fun d => d.drainDone).rjSettle

/-- DRAIN_ACK_TIMEOUT (R362). -/
def execDrainAckTimeout (s : State) : Host.Outcome State Fault Refusal :=
  s.run fun c => (c.live fun d => d.drainTimeout).rjSettle

/-- GEN_PIN (R371). -/
def execGenPin (w : Word) (s : State) : Host.Outcome State Fault Refusal :=
  s.runIf (bit w.toNat 0) fun c => c.busWrite pgProof 0x144 w

/-- GEN_UNPIN (R371). -/
def execGenUnpin (w : Word) (s : State) : Host.Outcome State Fault Refusal :=
  s.runIf (bit w.toNat 1) fun c => c.busWrite pgProof 0x144 w

/-- GEN_DELETE (R371). -/
def execGenDelete (w : Word) (s : State) : Host.Outcome State Fault Refusal :=
  s.runIf (bit w.toNat 2) fun c => c.busWrite pgProof 0x144 w

/-- DRAIN_NOW (R371). -/
def execDrainNow (w : Word) (s : State) : Host.Outcome State Fault Refusal :=
  s.runIf (bit w.toNat 3) fun c => c.busWrite pgProof 0x144 w

/-- RESTORE_LOAD (R366). -/
def execRestoreLoad (p : Nat) (w : Word) (s : State) : Host.Outcome State Fault Refusal :=
  s.runIf ((bit w.toNat 0 && bits w.toNat 2 1 == 0)) fun c => c.busWrite pgProof (0x244 + 0x100 * p) w

/-- RESTORE_RELOCATE (R367). -/
def execRestoreRelocate (p : Nat) (w : Word) (s : State) : Host.Outcome State Fault Refusal :=
  s.runIf ((bit w.toNat 0 && bits w.toNat 2 1 == 1)) fun c => c.busWrite pgProof (0x244 + 0x100 * p) w

/-- RESTORE_IMPORT (R368). -/
def execRestoreImport (p : Nat) (w : Word) (s : State) : Host.Outcome State Fault Refusal :=
  s.runIf ((bit w.toNat 0 && bits w.toNat 2 1 == 2)) fun c => c.busWrite pgProof (0x244 + 0x100 * p) w

/-- RESTORE_DONE (R366). -/
def execRestoreDone (p : Nat) (s : State) : Host.Outcome State Fault Refusal :=
  s.runIf (decide (p < 4)) fun c => (c.live fun d => d.restoreDone p).rjSettle

/-- COPIER_PAGE_WRITTEN (R351). -/
def execCopierPageWritten (st : Nat) (page : Nat) (s : State) : Host.Outcome State Fault Refusal :=
  s.runIf (decide (st < 8)) fun c => (c.live fun d => d.copierPage st page).rjSettle

end Sys2Proof.Machine
end

