-- ==== Sys2Proof/Machine/Debug.lean ====
section
/-!
DEFINITION. Sys2Proof/Machine/Debug.lean: the board-management bus's register access (R497), the debug port (R457, R458) and
the dump (R459, R460).
-/
namespace Sys2Proof.Machine

/-! ### The board-management bus -/

/-- READ: a word of a hub page. DEDUCED, log entries 59 and 76. -/
def Chip.bmbRead (c : Chip) (page off : Nat) : Chip :=
  if !c.pow.served ∨ 0x100 ≤ page ∨ 0x1000 ≤ off ∨ off % 4 ≠ 0 then c
  else
    let v := c.readReg page off
    c.onDev fun d => { d.send .bmb (natLe 4 v.toNat) with freeCount := d.freeCount + 1 }

/-- WRITE: ETH address, VLAN and MACsec registers, and PWR.LIMIT; anything else is refused (Table 15-10).
DEDUCED, log entries 59 and 76. -/
def Chip.bmbWrite (c : Chip) (page off : Nat) (w : Word) : Chip :=
  if !c.pow.served then c
  else if page = pgEth ∧ busEth off then c.onDev fun d => if 0x180 ≤ off then d.macsecWrite off w else d.writeEth off w
  else if page = pgPwr ∧ off = 0x110 then c.writePwr off w
  else c.onDev fun d => d.secError 0x0E0D page

/-! ### The debug port -/

/-- The port is powered. DESIGN CHOICE, log entry 77. -/
def Pow.port (p : Pow) : Bool := p.mode != .off

/-- Boundary scan: the cells are read out as the new ones are shifted in. No rule orders the cells, so what is read is
free. DESIGN CHOICE, log entry 77. -/
def Chip.scanIn (c : Chip) (ir : Nat) (drive : Bool) (cells : List Byte) : Chip :=
  if !c.pow.port then c
  else
    let n := cells.length
    let seen := (List.range n).map fun i => ((Config.freeValue (c.dev.freeCount + i)).setWidth 8 : Byte)
    { c with pow := { c.pow with ir, scan := cells, driven := drive }
             dev := { c.dev.send .debug seen with freeCount := c.dev.freeCount + n } }

/-- BYPASS. -/
def Chip.bypassPort (c : Chip) : Chip := if c.pow.port then { c with pow := { c.pow with ir := 0xFF, driven := false } } else c

/-- DBG_ADDR: served once the port is open. -/
def Chip.dbgSelect (c : Chip) (a : DWord) : Chip :=
  if !c.pow.port then c
  else { c with pow := { c.pow with ir := 0x10, driven := false, dbgAddr := if c.sec.debugOpen then a else c.pow.dbgAddr } }

/-- What the port reads at an address: a register, or four bytes of an SRAM window. -/
def Chip.dbgRead (c : Chip) (a : Nat) : Word × Dev :=
  match regPlace a 1 with
  | some (page, off) => (c.readReg page off, { c.dev with freeCount := c.dev.freeCount + 1 })
  | none =>
    if a % 4 = 0 ∧ sramBase ≤ a ∧ a < sramBase + numCores * caseBytes then
      let r := c.dev.readOut a 4
      (BitVec.ofNat 32 (leNat r.1), r.2)
    else (0#32, c.dev)

/-- What the port writes while the module runs. -/
def Chip.dbgWrite (c : Chip) (a : Nat) (w : Word) : Chip :=
  match regPlace a 1 with
  | some (page, off) => c.writeReg {} page off w
  | none =>
    if a % 4 = 0 ∧ sramBase ≤ a ∧ a < sramBase + numCores * caseBytes then c.onDev fun d => d.write a (natLe 4 w.toNat) else c

/-- DBG_DATA: the access DBG_ADDR names, at Update-DR (R458). DESIGN CHOICE, log entry 77. -/
def Chip.dbgAccess (c : Chip) (w : Word) : Chip :=
  if !c.pow.port then c
  else
    let c := { c with pow := { c.pow with ir := 0x11, driven := false } }
    let a := c.pow.dbgAddr.toNat % 2 ^ 48
    if !c.sec.debugOpen ∨ !(c.pow.up || c.pow.frozen) then
      { c with dev := c.dev.send .debug (natLe 4 0), pow := { c.pow with dbgData := 0#32 } }
    else if c.pow.dbgAddr.msb then (if c.pow.frozen then c else c.dbgWrite a w)
    else
      let r := c.dbgRead a
      { c with dev := r.2.send .debug (natLe 4 r.1.toNat), pow := { c.pow with dbgData := r.1 } }

/-! ### The dump -/

/-- What DUMP_CTL reads. How much of a running dump has been sent is not stated. -/
def Chip.dumpStatus (c : Chip) : Nat :=
  if !c.sec.debugOpen then 3 * 2 ^ 30
  else c.pow.dump * 2 ^ 30 + (if c.pow.dump = 1 then (Config.freeValue c.dev.freeCount).toNat % 2 ^ 30 else c.pow.dumpUnits)

/-- DUMP_CTL: the old status is read, and GO starts a dump of a frozen module (R458). DESIGN CHOICE, log entry 77. -/
def Chip.dumpControl (c : Chip) (w : Word) : Chip :=
  if !c.pow.port then c
  else
    let d := { c.dev.send .debug (natLe 4 c.dumpStatus) with freeCount := c.dev.freeCount + 1 }
    let p : Pow := { c.pow with ir := 0x12, driven := false }
    let p : Pow :=
      if !bit w.toNat 31 ∨ !c.sec.debugOpen ∨ (c.pow.frozen = true ∧ p.dump = 1) then p
      else if c.pow.frozen then { p with dump := 1, dumpAsk := w, dumpUnits := 0 } else { p with dump := 3 }
    { c with dev := d, pow := p }

/-- The register image of a page. -/
def Chip.pageImage (c : Chip) (page : Nat) : List Byte := (List.range 1024).flatMap fun i => natLe 4 (c.readReg page (4 * i)).toNat

/-- Bytes of a page's internal state from `o` on that no rule gives. -/
def Dev.freeBytes (d : Dev) (page o n : Nat) : List Byte :=
  (List.range n).map fun i => (Config.freeValue (d.freeCount + page * 2 ^ 20 + o + i)).setWidth 8

/-- The `n` staging buffers of a converter, 8 KiB each (R91): the tiles staged, in the order of staging, and what no rule tells
of the buffers that are free. DESIGN CHOICE, log entry 77. -/
def Dev.stagingBytes (d : Dev) (page unit n : Nat) : List Byte :=
  let held := ((d.core (pageInstance page)).cmds.filter fun x => x.convUnit == unit).flatMap (·.staged)
  let tiles := (held.mergeSort fun x y => decide (x.1 ≤ y.1)).take n
  tiles.flatMap (fun t => padTo 8192 ((List.range 64).flatMap fun i => padTo 128 ((t.2.2.vals.getD i []).flatMap fun x => natLe 4 x.toNat))) ++
  d.freeBytes page (2 ^ 19) ((n - tiles.length) * 8192)

/-- A core's long registers with their classes, and its escape buffers (R80, R81, R99). -/
def CoreSt.longBytes (c : CoreSt) : List Byte :=
  ({ regs := (List.range 2048).map fun i => c.longRegs.getD i {} } : LongPartial).bytes.drop 64
def CoreSt.escapeBytes (c : CoreSt) : List Byte :=
  (List.range 4).flatMap fun i => padTo 1024 ((tget [] c.escapes i).flatMap (natLe 2))

/-- Flits as a link's buffer holds them, 1,024 of them. The ACK word a flit came with, or goes out with, is not of the flit's
own. DESIGN CHOICE, log entry 77. -/
def Dev.flitBuffer (d : Dev) (page : Nat) (fs : List LnFlit) : List Byte :=
  let v := (Config.freeValue (d.freeCount + page)).toNat
  padTo 262144 ((fs.take 1024).flatMap fun f => f.bytes (v % 2 ^ 14) (bit v 14))

/-- The internal state that follows the image (Table 16-10). What neither a field nor a rule tells is free.
DESIGN CHOICE, log entry 77. -/
def Dev.internal (d : Dev) (page : Nat) : List Byte :=
  let k := pageInstance page
  let c := d.core k
  match pageType page with
  | 0x20 => d.read (caseBase k) caseBytes ++ c.cmem.read 0 65536
  | 0x21 => c.longBytes ++ d.stagingBytes page 0 4 ++ c.escapeBytes
  | 0x22 => d.freeBytes page 0 114688 ++ d.stagingBytes page 1 2
  | 0x23 => (List.range 16384).flatMap fun i => natLe 4 (tget 0#32 c.stats i).toNat
  | 0x24 => (List.range 512).flatMap fun i => (c.slot i).image
  | 0x25 => (List.range 16).flatMap fun g => ((c.galley g).image).drop 64
  | 0x26 => d.freeBytes page 0 1024
  | 0x15 =>
    let s := d.ln k
    let lc (n : Nat) := d.flitBuffer page (s.held.filter fun f => f.kind == n)
    d.flitBuffer page s.retry ++ lc 1 ++ lc 2
  | _ => []

/-- One section: a masked page carries no data (R460). -/
def Chip.section (c : Chip) (page : Nat) : List Byte :=
  let masked := (c.dev.hdr page).freezeMask
  let data := if masked then [] else c.pageImage page ++ c.dev.internal page
  natLe 4 page ++ natLe 2 (b2n masked) ++ natLe 2 0 ++ natLe 8 data.length ++ digest64 data ++
    padTo ((data.length + 63) / 64 * 64) data

/-- Pages a dump covers, rising. -/
def dumpPages (ask : Word) : List Nat :=
  if bit ask.toNat 30 then (List.range (2 ^ 18)).filter fun p => pageType p != 0 else [ask.toNat % 2 ^ 18]

/-- The dump header (Table 16-8). -/
def Chip.dumpHeader (c : Chip) (n : Nat) : List Byte :=
  padTo 64 (natLe 4 0x50444A48 ++ natLe 2 1 ++ natLe 2 n ++ natLe 8 c.pow.freezeTime ++ padTo 24 hubShape ++
    natLe 8 (((List.range 4).map fun k => (c.dev.die k).point % 4 * 4 ^ k).foldl (· + ·) 0))

/-- Every byte of a dump. -/
def Chip.dumpBytes (c : Chip) (ask : Word) : List Byte :=
  let ps := dumpPages ask
  let body := c.dumpHeader ps.length ++ ps.flatMap c.section
  body ++ natLe 4 0x3FFFF ++ natLe 4 0 ++ natLe 8 body.length ++ digest64 body

/-- DUMP_DONE: the trailer has been sent. DESIGN CHOICE, log entry 77. -/
def Chip.dumpFinish (c : Chip) : Chip :=
  if !c.pow.frozen ∨ c.pow.dump ≠ 1 then c
  else
    let bs := c.dumpBytes c.pow.dumpAsk
    { c with dev := { c.dev.send .dump bs with freeCount := c.dev.freeCount + 2 ^ 40 }
             pow := { c.pow with dump := 2, dumpUnits := min ((bs.length + 63) / 64) (2 ^ 30 - 1), dumpBytes := bs.length } }

end Sys2Proof.Machine
end

