-- ==== Sys2Proof/Machine/RowsSecurity.lean ====
section
/-!
DEFINITION. Sys2Proof/Machine/RowsSecurity.lean: the board-management bus, security, freeze and the debug port (Chapters 15 and 16): one meaning per command.
-/
namespace Sys2Proof.Machine

/-- BMB_READ (R497). -/
def execBmbRead (page : Nat) (off : Nat) (s : State) : Host.Outcome State Fault Refusal :=
  s.run fun c => c.bmbRead page off

/-- BMB_WRITE (R497). -/
def execBmbWrite (page : Nat) (off : Nat) (w : Word) (s : State) : Host.Outcome State Fault Refusal :=
  s.run fun c => c.bmbWrite page off w

/-- BMB_WARM_RESET (R425). -/
def execBmbWarmReset (s : State) : Host.Outcome State Fault Refusal :=
  s.run fun c => c.busWarmReset

/-- RECOVERY_LOAD (R429). -/
def execRecoveryLoad (off : Nat) (bytes : List Byte) (s : State) : Host.Outcome State Fault Refusal :=
  s.run fun c => c.recoveryLoad off bytes

/-- RECOVERY_GO (R429). -/
def execRecoveryGo (s : State) : Host.Outcome State Fault Refusal :=
  s.run fun c => c.recoveryGo

/-- TRUST_WRITE (R393). -/
def execTrustWrite (slot : Nat) (image : List Byte) (s : State) : Host.Outcome State Fault Refusal :=
  s.run fun c => c.trustWrite slot image

/-- DEBUG_OPEN (R438). -/
def execDebugOpen (s : State) : Host.Outcome State Fault Refusal :=
  s.run fun c => c.openDebug

/-- FLASH_WRITE (R497). -/
def execFlashWrite (target : Nat) (off : Nat) (bytes : List Byte) (s : State) : Host.Outcome State Fault Refusal :=
  s.run fun c => c.flashWrite target off bytes

/-- SVN_COMMIT (R430). -/
def execSvnCommit (s : State) : Host.Outcome State Fault Refusal :=
  s.run fun c => c.svnCommit

/-- SEC_RESET_WRITE (R440). -/
def execSecResetWrite (w : Word) (s : State) : Host.Outcome State Fault Refusal :=
  s.run fun c => c.secReset true w

/-- ATTEST_GO (R437). -/
def execAttestGo (w : Word) (s : State) : Host.Outcome State Fault Refusal :=
  s.run fun c => c.busWrite pgSec 0x11C w

/-- ATTEST_SIGNED (R437). -/
def execAttestSigned (sig : List Byte) (s : State) : Host.Outcome State Fault Refusal :=
  s.run fun c => c.attestSigned sig

/-- FREEZE (R453). -/
def execFreeze (s : State) : Host.Outcome State Fault Refusal :=
  s.run fun c => c.freeze

/-- FREEZE_REFRESH_KEEPER (R455). -/
def execFreezeRefreshKeeper (s : State) : Host.Outcome State Fault Refusal :=
  s.run fun c => c.refreshKeeper

/-- EXTEST (R457). -/
def execExtest (bits : List Byte) (s : State) : Host.Outcome State Fault Refusal :=
  s.run fun c => c.scanIn 0x00 true bits

/-- SAMPLE_PRELOAD (R457). -/
def execSamplePreload (bits : List Byte) (s : State) : Host.Outcome State Fault Refusal :=
  s.run fun c => c.scanIn 0x01 false bits

/-- DBG_ADDR (R457). -/
def execDbgAddr (addr : DWord) (s : State) : Host.Outcome State Fault Refusal :=
  s.run fun c => c.dbgSelect addr

/-- DBG_DATA (R458). -/
def execDbgData (w : Word) (s : State) : Host.Outcome State Fault Refusal :=
  s.run fun c => c.dbgAccess w

/-- DUMP_CTL (R459). -/
def execDumpCtl (w : Word) (s : State) : Host.Outcome State Fault Refusal :=
  s.run fun c => c.dumpControl w

/-- DUMP_DONE (R459). -/
def execDumpDone (s : State) : Host.Outcome State Fault Refusal :=
  s.run fun c => c.dumpFinish

/-- BYPASS (R457). -/
def execBypass (s : State) : Host.Outcome State Fault Refusal :=
  s.run fun c => c.bypassPort

end Sys2Proof.Machine
end

