-- ==== Sys2Proof/Machine/Control.lean ====
section
/-!
DEFINITION. Sys2Proof/Machine/Control.lean: the control operations of the sequencer (R196–R199, Tables 8-1 and 8-2).
-/
namespace Sys2Proof.Machine

/-- A register named by a DST or SRC byte: file bit 4, index below it. -/
def CoreSt.regOf (c : CoreSt) (b : Nat) : Nat := if bit b 4 then c.creg (b % 16) else c.areg (b % 16)

/-- Write the register a DST byte names, truncated to its width. -/
def CoreSt.setRegOf (c : CoreSt) (b v : Nat) : CoreSt := if bit b 4 then c.setC (b % 16) v else c.setA (b % 16) v

/-- Value of a branch predicate (R198). DEDUCED, log entry 37. -/
def Dev.predicate (d : Dev) (k l sel imm : Nat) : Bool :=
  let c := d.core k
  match sel with
  | 0 => (c.list l).err
  | 1 => (c.slot (imm % 512)).calib
  | 2 => (d.partOf k).any fun p => (d.part p).globalRecast
  | 3 => (c.slab (imm % 32)).filled
  | _ => (d.partOf k).any fun p => (d.part p).maint

/-- A branch condition's COND or SEL is reserved (Table 8-2). -/
def branchBad (desc : List Byte) : Bool :=
  let cond := field desc 0x10 1
  let sel := field desc 0x11 1
  decide (6 < cond) || ((cond == 5 || cond == 6) && decide (4 < sel)) || (decide (1 ≤ cond ∧ cond ≤ 4) && decide (15 < sel))

/-- A branch condition holds (Table 8-2). -/
def Dev.branchHolds (d : Dev) (k l : Nat) (desc : List Byte) : Bool :=
  let sel := field desc 0x11 1
  let imm := field desc 0x18 8
  let v := (d.core k).creg (sel % 16)
  match field desc 0x10 1 with
  | 0 => true
  | 1 => v == imm % 2 ^ 32
  | 2 => v != imm % 2 ^ 32
  | 3 => decide (v < imm % 2 ^ 32)
  | 4 => decide (imm % 2 ^ 32 ≤ v)
  | 5 => d.predicate k l sel imm
  | _ => !d.predicate k l sel imm

/-- A control operation is malformed (R196, R198, R208). -/
def controlBad (desc : List Byte) : Bool :=
  badHeader desc || (dOp desc == 4 && branchBad desc) || (dOp desc == 5 && decide (8 ≤ field desc 0x1C 1 % 16))

/-- Abandon the running list for a control operation's error (R199, R205). DEDUCED, log entries 36 and 37. -/
def Dev.controlError (d : Dev) (k l idx code : Nat) : Dev :=
  (d.setError (pgCore k) code (seqInfo l idx) 0).abandon k l

/-- The target of a LOOP or BR lies outside its list (R199). -/
def ListSt.outside (s : ListSt) (t : Nat) : Bool := decide (t < s.first ∨ s.last < t)

/-- Target impression of a WAIT.TICK, absolute or from the present one (Table 8-1). -/
def Dev.waitTarget (d : Dev) (k : Nat) (desc : List Byte) : Nat :=
  if bit (field desc 0x14 1) 0 then (d.imprNum k + field desc 0x10 4) % 2 ^ 32 else field desc 0x10 4

/-- A WAIT.TICK waits at the cursor: its target is later, and an earlier descriptor of its list has not retired (R197).
DEDUCED, log entry 37. -/
def Dev.waitsForList (d : Dev) (k l : Nat) (desc : List Byte) : Bool :=
  dOp desc == 5 && serialLater 32 (d.imprNum k) (d.waitTarget k desc) && (d.core k).cmds.any fun c => c.list == l

/-- Execute the control operation `op` at the cursor of core k with `f`, once its waits are satisfied (R197, R199, R202). A
malformed one, or one of a class but CONTROL (R210), abandons its list; EVT raises CMD either way, since it retires (R204).
DEDUCED, log entry 37. -/
def Dev.control (d : Dev) (k op : Nat) (f : Dev → Nat → ListSt → List Byte → Dev) : Dev :=
  match d.atCursor k with
  | none => d
  | some (l, s, desc) =>
    if dOp desc != op then d
    else if !(d.hdr (pgCore k)).enable || !(d.core k).mayIssue desc then d.stallIssue k
    else if controlBad desc then (d.raiseIf (dEvt desc) (pgCore k) 2).controlError k l s.cursor 0x0101
    else if dClass desc ≠ 0 then (d.raiseIf (dEvt desc) (pgCore k) 2).controlError k l s.cursor 0x0104
    else if d.waitsForList k l desc then d.stallIssue k
    else f (d.raiseIf (dEvt desc) (pgCore k) 2) l s desc

/-- NOP. -/
def Dev.opNop (d : Dev) (k l : Nat) (s : ListSt) (_ : List Byte) : Dev := d.moveCursor k l (s.cursor + 1)

/-- SET: DST ← IMM. -/
def Dev.opSet (d : Dev) (k l : Nat) (s : ListSt) (desc : List Byte) : Dev :=
  (d.modCore k fun c => c.setRegOf (field desc 0x10 1) (field desc 0x18 8)).moveCursor k l (s.cursor + 1)

/-- ADD: DST ← SRC + IMM, plus SRC2 when EN is 1. IMM is signed; the sum wraps at the register's width. -/
def Dev.opAdd (d : Dev) (k l : Nat) (s : ListSt) (desc : List Byte) : Dev :=
  let c := d.core k
  let s2 := field desc 0x12 1
  let v := c.regOf (field desc 0x11 1) + field desc 0x18 8 + (if bit s2 7 then c.regOf s2 else 0)
  (d.modCore k fun c => c.setRegOf (field desc 0x10 1) v).moveCursor k l (s.cursor + 1)

/-- LOOP: while c[CREG] is not zero, count down and jump. DEDUCED, log entry 36. -/
def Dev.opLoop (d : Dev) (k l : Nat) (s : ListSt) (desc : List Byte) : Dev :=
  let r := field desc 0x10 1 % 16
  let t := field desc 0x12 2
  let v := (d.core k).creg r
  if s.outside t then d.controlError k l s.cursor 0x0108
  else if v = 0 then d.moveCursor k l (s.cursor + 1)
  else (d.modCore k fun c => c.setC r (v - 1)).moveCursor k l t

/-- BR. DEDUCED, log entry 36. -/
def Dev.opBr (d : Dev) (k l : Nat) (s : ListSt) (desc : List Byte) : Dev :=
  let t := field desc 0x12 2
  if s.outside t then d.controlError k l s.cursor 0x0108
  else d.moveCursor k l (if d.branchHolds k l desc then t else s.cursor + 1)

/-- WAIT.TICK: park until the target impression, opening the next segment; a target not later is a no-op (R45, R197).
DEDUCED, log entry 37. -/
def Dev.opWaitTick (d : Dev) (k l : Nat) (s : ListSt) (desc : List Byte) : Dev :=
  let t := d.waitTarget k desc
  if serialLater 32 (d.imprNum k) t then
    let d := d.modCore k fun c => c.modList l fun s =>
      { s with cursor := s.cursor + 1, state := .parked, target := t, ready := false
               segClass := field desc 0x1C 1 % 16, segEnergy := field desc 0x18 4 }
    d.nextList k
  else d.moveCursor k l (s.cursor + 1)

/-- END. -/
def Dev.opEnd (d : Dev) (k l : Nat) (_ : ListSt) (_ : List Byte) : Dev :=
  (d.modCore k fun c => c.modList l fun s => { s with cursor := s.cursor + 1, state := .ended }).nextList k

end Sys2Proof.Machine
end

