-- ==== Sys2Proof/Machine/RowsSequencer.lean ====
section
/-!
DEFINITION. Sys2Proof/Machine/RowsSequencer.lean: the control operations and the issue of commands: the sequencer of a core (Chapter 8): one meaning per command.
-/
namespace Sys2Proof.Machine

/-- NOP (R198). -/
def execNop (k : Nat) (s : State) : Host.Outcome State Fault Refusal :=
  s.run fun c => c.onCore k fun d => d.control k 0 fun d l x desc => d.opNop k l x desc

/-- SET (R198). -/
def execSet (k : Nat) (s : State) : Host.Outcome State Fault Refusal :=
  s.run fun c => c.onCore k fun d => d.control k 1 fun d l x desc => d.opSet k l x desc

/-- ADD (R198). -/
def execAdd (k : Nat) (s : State) : Host.Outcome State Fault Refusal :=
  s.run fun c => c.onCore k fun d => d.control k 2 fun d l x desc => d.opAdd k l x desc

/-- LOOP (R198). -/
def execLoop (k : Nat) (s : State) : Host.Outcome State Fault Refusal :=
  s.run fun c => c.onCore k fun d => d.control k 3 fun d l x desc => d.opLoop k l x desc

/-- BR (R198). -/
def execBr (k : Nat) (s : State) : Host.Outcome State Fault Refusal :=
  s.run fun c => c.onCore k fun d => d.control k 4 fun d l x desc => d.opBr k l x desc

/-- WAIT_TICK (R197). -/
def execWaitTick (k : Nat) (s : State) : Host.Outcome State Fault Refusal :=
  s.run fun c => c.onCore k fun d => d.control k 5 fun d l x desc => d.opWaitTick k l x desc

/-- END (R198). -/
def execListEnd (k : Nat) (s : State) : Host.Outcome State Fault Refusal :=
  s.run fun c => c.onCore k fun d => d.control k 6 fun d l x desc => d.opEnd k l x desc

/-- F_MATMUL (R75). -/
def execFMatmul (k : Nat) (s : State) : Host.Outcome State Fault Refusal :=
  s.run fun c => c.onCore k fun d => d.issue k (opIn [0x10]) keepQueued

/-- FUSED (R156). -/
def execFused (k : Nat) (s : State) : Host.Outcome State Fault Refusal :=
  s.run fun c => c.onCore k fun d => d.issue k (opIn [0x11]) keepQueued

/-- B_MATMUL (R134). -/
def execBMatmul (k : Nat) (s : State) : Host.Outcome State Fault Refusal :=
  s.run fun c => c.onCore k fun d => d.issue k (opIn [0x18]) keepQueued

/-- B_ADD (R140). -/
def execBAdd (k : Nat) (s : State) : Host.Outcome State Fault Refusal :=
  s.run fun c => c.onCore k fun d => d.issue k (opIn [0x19]) keepQueued

/-- CONVERT (R173). -/
def execConvert (k : Nat) (s : State) : Host.Outcome State Fault Refusal :=
  s.run fun c => c.onCore k fun d => d.issue k (fun raw => (opIn [0x20] raw) && !(CvtB.parse raw).calibrated) keepQueued

/-- CONVERT_CALIBRATED (R129). -/
def execConvertCalibrated (k : Nat) (s : State) : Host.Outcome State Fault Refusal :=
  s.run fun c => c.onCore k fun d => d.issue k (fun raw => dOp raw == 0x20 && (CvtB.parse raw).calibrated) keepQueued

/-- ROW_NORM_FWD (R152). -/
def execRowNormFwd (k : Nat) (s : State) : Host.Outcome State Fault Refusal :=
  s.run fun c => c.onCore k fun d => d.issue k (opIn [0x21]) keepQueued

/-- ROW_NORM_BWD (R154). -/
def execRowNormBwd (k : Nat) (s : State) : Host.Outcome State Fault Refusal :=
  s.run fun c => c.onCore k fun d => d.issue k (opIn [0x22]) keepQueued

/-- ROW_SOFTMAX_FWD (R152). -/
def execRowSoftmaxFwd (k : Nat) (s : State) : Host.Outcome State Fault Refusal :=
  s.run fun c => c.onCore k fun d => d.issue k (opIn [0x23]) keepQueued

/-- ROW_SOFTMAX_BWD (R155). -/
def execRowSoftmaxBwd (k : Nat) (s : State) : Host.Outcome State Fault Refusal :=
  s.run fun c => c.onCore k fun d => d.issue k (opIn [0x24]) keepQueued

/-- ROW_ACT (R188). -/
def execRowAct (k : Nat) (s : State) : Host.Outcome State Fault Refusal :=
  s.run fun c => c.onCore k fun d => d.issue k (opIn [0x25]) keepQueued

/-- ROW_DRAW (R189). -/
def execRowDraw (k : Nat) (s : State) : Host.Outcome State Fault Refusal :=
  s.run fun c => c.onCore k fun d => d.issue k (opIn [0x26]) keepQueued

/-- MSG_SEND (R220). -/
def execMsgSend (k : Nat) (s : State) : Host.Outcome State Fault Refusal :=
  s.run fun c => c.onCore k fun d => d.msgSend k

/-- MSG_RECV (R220). -/
def execMsgRecv (k : Nat) (s : State) : Host.Outcome State Fault Refusal :=
  s.run fun c => c.onCore k fun d => d.msgRecv k

/-- GALLEY_PUSH (R234). -/
def execGalleyPush (k : Nat) (s : State) : Host.Outcome State Fault Refusal :=
  s.run fun c => c.onCore k fun d => d.galleyPush k

/-- GALLEY_POP (R238). -/
def execGalleyPop (k : Nat) (s : State) : Host.Outcome State Fault Refusal :=
  s.run fun c => c.onCore k fun d => d.galleyPop k

/-- DMA_COPY (R262). -/
def execDmaCopy (k : Nat) (s : State) : Host.Outcome State Fault Refusal :=
  s.run fun c => c.onCore k fun d => d.dmaIssue k fun raw => dOp raw == 0x38 && !(DmaB.parse raw).drain

/-- DMA_TCOPY (R265). -/
def execDmaTcopy (k : Nat) (s : State) : Host.Outcome State Fault Refusal :=
  s.run fun c => c.onCore k fun d => d.dmaIssue k fun raw => dOp raw == 0x39 && !(DmaB.parse raw).drain

/-- DMA_DRAIN (R266). -/
def execDmaDrain (k : Nat) (s : State) : Host.Outcome State Fault Refusal :=
  s.run fun c => c.onCore k fun d => d.dmaIssue k fun raw => (dOp raw == 0x38 || dOp raw == 0x39) && (DmaB.parse raw).drain

/-- GAUGE_SET_IMAGE_LOAD (R106). -/
def execGaugeSetImageLoad (k : Nat) (s : State) : Host.Outcome State Fault Refusal :=
  s.run fun c => c.onCore k fun d => d.gaugeSet k fun m => m == 0 || decide (4 ≤ m)

/-- GAUGE_SET_MERGE (R112). -/
def execGaugeSetMerge (k : Nat) (s : State) : Host.Outcome State Fault Refusal :=
  s.run fun c => c.onCore k fun d => d.gaugeSet k (· == 1)

/-- GAUGE_SET_CLEAR_COUNTERS (R116). -/
def execGaugeSetClearCounters (k : Nat) (s : State) : Host.Outcome State Fault Refusal :=
  s.run fun c => c.onCore k fun d => d.gaugeSet k (· == 2)

/-- GAUGE_SET_CLEAR_HISTORY (R127). -/
def execGaugeSetClearHistory (k : Nat) (s : State) : Host.Outcome State Fault Refusal :=
  s.run fun c => c.onCore k fun d => d.gaugeSet k (· == 3)

/-- GAUGE_READ_IMAGES (R106). -/
def execGaugeReadImages (k : Nat) (s : State) : Host.Outcome State Fault Refusal :=
  s.run fun c => c.onCore k fun d => d.gaugeRead k fun m => m == 0 || decide (2 ≤ m)

/-- GAUGE_READ_SUMMARY (R112). -/
def execGaugeReadSummary (k : Nat) (s : State) : Host.Outcome State Fault Refusal :=
  s.run fun c => c.onCore k fun d => d.gaugeRead k (· == 1)

/-- PLATEN_SUBMIT (R272). -/
def execPlatenSubmit (k : Nat) (s : State) : Host.Outcome State Fault Refusal :=
  s.run fun c => c.onCore k fun d => d.platenIssue k fun b => !b.drain && (b.phase == 0 || b.phase == 3)

/-- PLATEN_SUBMIT_LAMB_NORM (R279). -/
def execPlatenSubmitLambNorm (k : Nat) (s : State) : Host.Outcome State Fault Refusal :=
  s.run fun c => c.onCore k fun d => d.platenIssue k fun b => !b.drain && b.phase == 1

/-- PLATEN_SUBMIT_LAMB_APPLY (R279). -/
def execPlatenSubmitLambApply (k : Nat) (s : State) : Host.Outcome State Fault Refusal :=
  s.run fun c => c.onCore k fun d => d.platenIssue k fun b => !b.drain && b.phase == 2

/-- PLATEN_DRAIN (R275). -/
def execPlatenDrain (k : Nat) (s : State) : Host.Outcome State Fault Refusal :=
  s.run fun c => c.onCore k fun d => d.platenIssue k (·.drain)

end Sys2Proof.Machine
end

