-- ==== Sys2Proof/Machine/RowsUnits.lean ====
section
/-!
DEFINITION. Sys2Proof/Machine/RowsUnits.lean: the units of a core, galleys and the mesh, DMA engines and Platens: one meaning per command.
-/
namespace Sys2Proof.Machine

/-- MESSAGE_ARRIVAL (R221). -/
def execMessageArrival (src : Nat) (seq : Nat) (s : State) : Host.Outcome State Fault Refusal :=
  s.run fun x => x.live fun d => d.messageArrival src seq

/-- PASS_START (R91). -/
def execPassStart (k : Nat) (arr : Nat) (s : State) : Host.Outcome State Fault Refusal :=
  s.runIf (decide (arr < 2)) fun c => c.onCore k fun d => d.passStart k arr

/-- TILE_CONVERT (R117). -/
def execTileConvert (k : Nat) (unit : Nat) (s : State) : Host.Outcome State Fault Refusal :=
  s.runIf (decide (unit < 3)) fun c => c.onCore k fun d => d.tileConvert k unit

/-- LANE_GENERATORS_ACQUIRE (R180). -/
def execLaneGeneratorsAcquire (k : Nat) (holder : Nat) (s : State) : Host.Outcome State Fault Refusal :=
  s.runIf (decide (1 ≤ holder ∧ holder ≤ 3)) fun c => c.onCore k fun d => d.lanesAcquire k holder

/-- COMMAND_RETIRE (R203). -/
def execCommandRetire (k : Nat) (seq : Nat) (s : State) : Host.Outcome State Fault Refusal :=
  s.run fun c => c.onCore k fun d => d.commandRetire k seq

/-- GLOBAL_RECAST_UPDATE (R125). -/
def execGlobalRecastUpdate (k : Nat) (s : State) : Host.Outcome State Fault Refusal :=
  s.run fun c => c.onCore k fun d => d.globalRecastUpdate k

/-- GALLEY_FLIT_ARRIVAL (R240). -/
def execGalleyFlitArrival (k : Nat) (g : Nat) (s : State) : Host.Outcome State Fault Refusal :=
  s.runIf (decide (g < 16)) fun c => c.onCore k fun d => d.galleyFlitArrival k g

/-- GALLEY_CREDIT_ARRIVAL (R240). -/
def execGalleyCreditArrival (k : Nat) (g : Nat) (s : State) : Host.Outcome State Fault Refusal :=
  s.runIf (decide (g < 16)) fun c => c.onCore k fun d => d.galleyCreditArrival k g

/-- GALLEY_CONSUMER_START (R237). -/
def execGalleyConsumerStart (k : Nat) (g : Nat) (s : State) : Host.Outcome State Fault Refusal :=
  s.runIf (decide (g < 16)) fun c => c.onCore k fun d => d.galleyConsumerStart k g

/-- GALLEY_FORWARD_FLIT (R240). -/
def execGalleyForwardFlit (k : Nat) (g : Nat) (s : State) : Host.Outcome State Fault Refusal :=
  s.runIf (decide (g < 16)) fun c => c.onCore k fun d => d.galleyForwardFlit k g

/-- GALLEY_RING_READ (R236). -/
def execGalleyRingRead (k : Nat) (g : Nat) (s : State) : Host.Outcome State Fault Refusal :=
  s.runIf (decide (g < 16)) fun c => c.onCore k fun d => d.galleyRingRead k g

/-- DMA_TRANSFER_START (R262). -/
def execDmaTransferStart (c : Nat) (e : Nat) (s : State) : Host.Outcome State Fault Refusal :=
  s.runIf (decide (c < 4 ∧ e < 16)) fun x => x.live fun d => d.dmaStart c e

/-- DMA_TRANSFER_DONE (R266). -/
def execDmaTransferDone (c : Nat) (e : Nat) (s : State) : Host.Outcome State Fault Refusal :=
  s.runIf (decide (c < 4 ∧ e < 16)) fun x => x.live fun d => d.dmaDone c e

/-- PLATEN_UPDATE_START (R274). -/
def execPlatenUpdateStart (st : Nat) (s : State) : Host.Outcome State Fault Refusal :=
  s.runIf (decide (st < 8)) fun x => x.live fun d => d.platenStart st

/-- PLATEN_UPDATE_DONE (R275). -/
def execPlatenUpdateDone (st : Nat) (s : State) : Host.Outcome State Fault Refusal :=
  s.runIf (decide (st < 8)) fun x => x.live fun d => d.platenDone st

end Sys2Proof.Machine
end

