-- ==== Sys2Proof/Machine/RowsWindow.lean ====
section
/-!
DEFINITION. Sys2Proof/Machine/RowsWindow.lean: windows and registers of a core, and the common header (Chapters 5 to 9, 17): one meaning per command.
-/
namespace Sys2Proof.Machine

/-- GAUGE_WINDOW_WRITE (R131). -/
def execGaugeWindowWrite (k : Nat) (off : Nat) (w : Word) (s : State) : Host.Outcome State Fault Refusal :=
  s.runIf (isSlotWindow off) fun c => c.busWrite (pgGauge k) off w

/-- SLAB_CLR (R168). -/
def execSlabClr (k : Nat) (w : Word) (s : State) : Host.Outcome State Fault Refusal :=
  s.run fun c => c.busWrite (pgBwd k) 0x154 w

/-- TAP_CLR (R168). -/
def execTapClr (k : Nat) (w : Word) (s : State) : Host.Outcome State Fault Refusal :=
  s.run fun c => c.busWrite (pgBwd k) 0x194 w

/-- LANE_PROBE_GO (R191). -/
def execLaneProbeGo (k : Nat) (w : Word) (s : State) : Host.Outcome State Fault Refusal :=
  s.run fun c => c.busWrite (pgLane k) 0x138 w

/-- LANE_PROBE_DONE (R191). -/
def execLaneProbeDone (k : Nat) (s : State) : Host.Outcome State Fault Refusal :=
  s.run fun c => c.onCore k fun d => d.laneProbeDone k

/-- CMEM_LOAD (R225). -/
def execCmemLoad (k : Nat) (w : Word) (s : State) : Host.Outcome State Fault Refusal :=
  s.run fun c => c.busWrite (pgCore k) 0x13C w

/-- CMEM_LOAD_DONE (R226). -/
def execCmemLoadDone (k : Nat) (s : State) : Host.Outcome State Fault Refusal :=
  s.run fun c => c.onCore k fun d => d.cmemLoadDone k

/-- LIST_ENTRY_WRITE (R224). -/
def execListEntryWrite (k : Nat) (off : Nat) (w : Word) (s : State) : Host.Outcome State Fault Refusal :=
  s.runIf (decide (0x200 ≤ off ∧ off < 0x300)) fun c => c.busWrite (pgCore k) off w

/-- GALLEY_CFG_WRITE (R248). -/
def execGalleyCfgWrite (k : Nat) (g : Nat) (w : Word) (s : State) : Host.Outcome State Fault Refusal :=
  s.runIf (decide (g < 16)) fun c => c.busWrite (pgGalley k) (0x100 + 0x40 * g) w

/-- GALLEY_FLUSH (R243). -/
def execGalleyFlush (k : Nat) (g : Nat) (w : Word) (s : State) : Host.Outcome State Fault Refusal :=
  s.runIf (decide (g < 16)) fun c => c.busWrite (pgGalley k) (0x128 + 0x40 * g) w

/-- ERR_CLR (R448). -/
def execErrClr (page : Nat) (w : Word) (s : State) : Host.Outcome State Fault Refusal :=
  s.run fun c => c.busWrite page 0x02C w

/-- EVT_FLAG_CLEAR (R475). -/
def execEvtFlagClear (page : Nat) (w : Word) (s : State) : Host.Outcome State Fault Refusal :=
  s.run fun c => c.busWrite page 0x018 w

/-- EVT_FORCE (R475). -/
def execEvtForce (page : Nat) (w : Word) (s : State) : Host.Outcome State Fault Refusal :=
  s.run fun c => c.busWrite page 0x01C w

/-- SOFT_RESET (R473). -/
def execSoftReset (page : Nat) (w : Word) (s : State) : Host.Outcome State Fault Refusal :=
  s.runIf (bit w.toNat 1) fun c => c.busWrite page 0x008 w

/-- ENABLE (R472). -/
def execEnable (page : Nat) (w : Word) (s : State) : Host.Outcome State Fault Refusal :=
  s.runIf (!bit w.toNat 1) fun c => c.busWrite page 0x008 w

/-- REGISTER_WRITE (R7). -/
def execRegisterWrite (page : Nat) (off : Nat) (w : Word) (s : State) : Host.Outcome State Fault Refusal :=
  s.run fun c => c.busWrite page off w

end Sys2Proof.Machine
end

