-- ==== Sys2Proof/Machine/Dispatch.lean ====
section
/-!
DEFINITION. Sys2Proof/Machine/Dispatch.lean: the one dispatch of a command to its meaning.
-/
namespace Sys2Proof.Machine

def exec (i : Instr) (s : State) : Host.Outcome State Fault Refusal :=
  match i with
  | .nop k => Sys2Proof.Machine.execNop k s
  | .set k => Sys2Proof.Machine.execSet k s
  | .add k => Sys2Proof.Machine.execAdd k s
  | .loop k => Sys2Proof.Machine.execLoop k s
  | .br k => Sys2Proof.Machine.execBr k s
  | .waitTick k => Sys2Proof.Machine.execWaitTick k s
  | .listEnd k => Sys2Proof.Machine.execListEnd k s
  | .fMatmul k => Sys2Proof.Machine.execFMatmul k s
  | .fused k => Sys2Proof.Machine.execFused k s
  | .bMatmul k => Sys2Proof.Machine.execBMatmul k s
  | .bAdd k => Sys2Proof.Machine.execBAdd k s
  | .convert k => Sys2Proof.Machine.execConvert k s
  | .convertCalibrated k => Sys2Proof.Machine.execConvertCalibrated k s
  | .rowNormFwd k => Sys2Proof.Machine.execRowNormFwd k s
  | .rowNormBwd k => Sys2Proof.Machine.execRowNormBwd k s
  | .rowSoftmaxFwd k => Sys2Proof.Machine.execRowSoftmaxFwd k s
  | .rowSoftmaxBwd k => Sys2Proof.Machine.execRowSoftmaxBwd k s
  | .rowAct k => Sys2Proof.Machine.execRowAct k s
  | .rowDraw k => Sys2Proof.Machine.execRowDraw k s
  | .msgSend k => Sys2Proof.Machine.execMsgSend k s
  | .msgRecv k => Sys2Proof.Machine.execMsgRecv k s
  | .messageArrival src seq => Sys2Proof.Machine.execMessageArrival src seq s
  | .galleyPush k => Sys2Proof.Machine.execGalleyPush k s
  | .galleyPop k => Sys2Proof.Machine.execGalleyPop k s
  | .dmaCopy k => Sys2Proof.Machine.execDmaCopy k s
  | .dmaTcopy k => Sys2Proof.Machine.execDmaTcopy k s
  | .dmaDrain k => Sys2Proof.Machine.execDmaDrain k s
  | .gaugeSetImageLoad k => Sys2Proof.Machine.execGaugeSetImageLoad k s
  | .gaugeSetMerge k => Sys2Proof.Machine.execGaugeSetMerge k s
  | .gaugeSetClearCounters k => Sys2Proof.Machine.execGaugeSetClearCounters k s
  | .gaugeSetClearHistory k => Sys2Proof.Machine.execGaugeSetClearHistory k s
  | .gaugeReadImages k => Sys2Proof.Machine.execGaugeReadImages k s
  | .gaugeReadSummary k => Sys2Proof.Machine.execGaugeReadSummary k s
  | .platenSubmit k => Sys2Proof.Machine.execPlatenSubmit k s
  | .platenSubmitLambNorm k => Sys2Proof.Machine.execPlatenSubmitLambNorm k s
  | .platenSubmitLambApply k => Sys2Proof.Machine.execPlatenSubmitLambApply k s
  | .platenDrain k => Sys2Proof.Machine.execPlatenDrain k s
  | .passStart k arr => Sys2Proof.Machine.execPassStart k arr s
  | .tileConvert k unit => Sys2Proof.Machine.execTileConvert k unit s
  | .laneGeneratorsAcquire k holder => Sys2Proof.Machine.execLaneGeneratorsAcquire k holder s
  | .commandRetire k seq => Sys2Proof.Machine.execCommandRetire k seq s
  | .globalRecastUpdate k => Sys2Proof.Machine.execGlobalRecastUpdate k s
  | .imprRunStart p w => Sys2Proof.Machine.execImprRunStart p w s
  | .firstImpressionStart p => Sys2Proof.Machine.execFirstImpressionStart p s
  | .stopPress p w => Sys2Proof.Machine.execStopPress p w s
  | .announcement p => Sys2Proof.Machine.execAnnouncement p s
  | .tickRecord n rec => Sys2Proof.Machine.execTickRecord n rec s
  | .tick p => Sys2Proof.Machine.execTick p s
  | .haltTick p => Sys2Proof.Machine.execHaltTick p s
  | .listsBegin p => Sys2Proof.Machine.execListsBegin p s
  | .timeLoad w => Sys2Proof.Machine.execTimeLoad w s
  | .gaugeWindowWrite k off w => Sys2Proof.Machine.execGaugeWindowWrite k off w s
  | .slabClr k w => Sys2Proof.Machine.execSlabClr k w s
  | .tapClr k w => Sys2Proof.Machine.execTapClr k w s
  | .laneProbeGo k w => Sys2Proof.Machine.execLaneProbeGo k w s
  | .laneProbeDone k => Sys2Proof.Machine.execLaneProbeDone k s
  | .cmemLoad k w => Sys2Proof.Machine.execCmemLoad k w s
  | .cmemLoadDone k => Sys2Proof.Machine.execCmemLoadDone k s
  | .listEntryWrite k off w => Sys2Proof.Machine.execListEntryWrite k off w s
  | .galleyCfgWrite k g w => Sys2Proof.Machine.execGalleyCfgWrite k g w s
  | .galleyFlush k g w => Sys2Proof.Machine.execGalleyFlush k g w s
  | .galleyFlitArrival k g => Sys2Proof.Machine.execGalleyFlitArrival k g s
  | .galleyCreditArrival k g => Sys2Proof.Machine.execGalleyCreditArrival k g s
  | .galleyConsumerStart k g => Sys2Proof.Machine.execGalleyConsumerStart k g s
  | .galleyForwardFlit k g => Sys2Proof.Machine.execGalleyForwardFlit k g s
  | .galleyRingRead k g => Sys2Proof.Machine.execGalleyRingRead k g s
  | .dmaTransferStart c e => Sys2Proof.Machine.execDmaTransferStart c e s
  | .dmaTransferDone c e => Sys2Proof.Machine.execDmaTransferDone c e s
  | .platenUpdateStart st => Sys2Proof.Machine.execPlatenUpdateStart st s
  | .platenUpdateDone st => Sys2Proof.Machine.execPlatenUpdateDone st s
  | .zeroingDone p => Sys2Proof.Machine.execZeroingDone p s
  | .linkCfgWrite n w => Sys2Proof.Machine.execLinkCfgWrite n w s
  | .laneLock n lane => Sys2Proof.Machine.execLaneLock n lane s
  | .linkTrainingDone n => Sys2Proof.Machine.execLinkTrainingDone n s
  | .helloTimer n => Sys2Proof.Machine.execHelloTimer n s
  | .linkRetrain n cause => Sys2Proof.Machine.execLinkRetrain n cause s
  | .linkRetrainDone n => Sys2Proof.Machine.execLinkRetrainDone n s
  | .retrainLimitExpiry n => Sys2Proof.Machine.execRetrainLimitExpiry n s
  | .linkFlitReceive n flit => Sys2Proof.Machine.execLinkFlitReceive n flit s
  | .galleyLinkFlit n flit => Sys2Proof.Machine.execGalleyLinkFlit n flit s
  | .collFlit n flit => Sys2Proof.Machine.execCollFlit n flit s
  | .hello n rec => Sys2Proof.Machine.execHello n rec s
  | .lcCredit n rec => Sys2Proof.Machine.execLcCredit n rec s
  | .galleyCredit n rec => Sys2Proof.Machine.execGalleyCredit n rec s
  | .galleyAbort n rec => Sys2Proof.Machine.execGalleyAbort n rec s
  | .boundary n rec => Sys2Proof.Machine.execBoundary n rec s
  | .tsyncReq n rec => Sys2Proof.Machine.execTsyncReq n rec s
  | .tsyncResp n rec => Sys2Proof.Machine.execTsyncResp n rec s
  | .timeExchangeTimer n => Sys2Proof.Machine.execTimeExchangeTimer n s
  | .collStart n rec => Sys2Proof.Machine.execCollStart n rec s
  | .collWave n rec => Sys2Proof.Machine.execCollWave n rec s
  | .collKick c src tag payload => Sys2Proof.Machine.execCollKick c src tag payload s
  | .collRunStart c e => Sys2Proof.Machine.execCollRunStart c e s
  | .permuteCopyDone c ch => Sys2Proof.Machine.execPermuteCopyDone c ch s
  | .collRunDone c ch => Sys2Proof.Machine.execCollRunDone c ch s
  | .proofOrderWarm p w => Sys2Proof.Machine.execProofOrderWarm p w s
  | .proofOrderCold p w => Sys2Proof.Machine.execProofOrderCold p w s
  | .proofCancel p w => Sys2Proof.Machine.execProofCancel p w s
  | .quiesceDone p => Sys2Proof.Machine.execQuiesceDone p s
  | .quiesceTimeout p => Sys2Proof.Machine.execQuiesceTimeout p s
  | .captureDone p => Sys2Proof.Machine.execCaptureDone p s
  | .shadowCopyDone st page => Sys2Proof.Machine.execShadowCopyDone st page s
  | .copyDone p => Sys2Proof.Machine.execCopyDone p s
  | .manifestSigned p sig => Sys2Proof.Machine.execManifestSigned p sig s
  | .proofDrainStart => Sys2Proof.Machine.execProofDrainStart s
  | .proofDrainDone => Sys2Proof.Machine.execProofDrainDone s
  | .drainAckTimeout => Sys2Proof.Machine.execDrainAckTimeout s
  | .genPin w => Sys2Proof.Machine.execGenPin w s
  | .genUnpin w => Sys2Proof.Machine.execGenUnpin w s
  | .genDelete w => Sys2Proof.Machine.execGenDelete w s
  | .drainNow w => Sys2Proof.Machine.execDrainNow w s
  | .restoreLoad p w => Sys2Proof.Machine.execRestoreLoad p w s
  | .restoreRelocate p w => Sys2Proof.Machine.execRestoreRelocate p w s
  | .restoreImport p w => Sys2Proof.Machine.execRestoreImport p w s
  | .restoreDone p => Sys2Proof.Machine.execRestoreDone p s
  | .ethFrameReceive frame => Sys2Proof.Machine.execEthFrameReceive frame s
  | .macsecOldAnExpiry => Sys2Proof.Machine.execMacsecOldAnExpiry s
  | .regRd msg => Sys2Proof.Machine.execRegRd msg s
  | .regWr msg => Sys2Proof.Machine.execRegWr msg s
  | .dmaWr msg => Sys2Proof.Machine.execDmaWr msg s
  | .dmaRd msg => Sys2Proof.Machine.execDmaRd msg s
  | .cmdSubmit msg => Sys2Proof.Machine.execCmdSubmit msg s
  | .proofData msg => Sys2Proof.Machine.execProofData msg s
  | .ack msg => Sys2Proof.Machine.execAck msg s
  | .openReq msg => Sys2Proof.Machine.execOpenReq msg s
  | .openFin msg => Sys2Proof.Machine.execOpenFin msg s
  | .handshakeReassemblyTimeout h => Sys2Proof.Machine.execHandshakeReassemblyTimeout h s
  | .ackDelayExpiry slot => Sys2Proof.Machine.execAckDelayExpiry slot s
  | .ackIdleRepeat slot => Sys2Proof.Machine.execAckIdleRepeat slot s
  | .retransmitTimeout slot => Sys2Proof.Machine.execRetransmitTimeout slot s
  | .sessionTimeout slot => Sys2Proof.Machine.execSessionTimeout slot s
  | .sessionClose w => Sys2Proof.Machine.execSessionClose w s
  | .eventSend slot => Sys2Proof.Machine.execEventSend slot s
  | .partitionClaim p w => Sys2Proof.Machine.execPartitionClaim p w s
  | .partitionRelease p w => Sys2Proof.Machine.execPartitionRelease p w s
  | .maintWrite p w => Sys2Proof.Machine.execMaintWrite p w s
  | .pointRampDone c => Sys2Proof.Machine.execPointRampDone c s
  | .energyOverBudget p => Sys2Proof.Machine.execEnergyOverBudget p s
  | .energyStepdownRepeat p => Sys2Proof.Machine.execEnergyStepdownRepeat p s
  | .pinSample watts => Sys2Proof.Machine.execPinSample watts s
  | .powerCapStepdown => Sys2Proof.Machine.execPowerCapStepdown s
  | .clockGateEngage => Sys2Proof.Machine.execClockGateEngage s
  | .clockGateRelease => Sys2Proof.Machine.execClockGateRelease s
  | .vinAlert mv => Sys2Proof.Machine.execVinAlert mv s
  | .thermalWarn sensor temp => Sys2Proof.Machine.execThermalWarn sensor temp s
  | .thermalHot sensor temp => Sys2Proof.Machine.execThermalHot sensor temp s
  | .thermalHotStepdown c => Sys2Proof.Machine.execThermalHotStepdown c s
  | .thermalTrip sensor temp => Sys2Proof.Machine.execThermalTrip sensor temp s
  | .railFault => Sys2Proof.Machine.execRailFault s
  | .vinApply mv => Sys2Proof.Machine.execVinApply mv s
  | .vinRemove => Sys2Proof.Machine.execVinRemove s
  | .pwrEnAssert => Sys2Proof.Machine.execPwrEnAssert s
  | .bootDelayExpiry => Sys2Proof.Machine.execBootDelayExpiry s
  | .pwrEnDeassert ns => Sys2Proof.Machine.execPwrEnDeassert ns s
  | .firmwareVerified slot => Sys2Proof.Machine.execFirmwareVerified slot s
  | .memoryTrainingDone failing dimms bad => Sys2Proof.Machine.execMemoryTrainingDone failing dimms bad s
  | .bootTimeout => Sys2Proof.Machine.execBootTimeout s
  | .d2dRetrain c port => Sys2Proof.Machine.execD2dRetrain c port s
  | .d2dRetrainTimeout c port => Sys2Proof.Machine.execD2dRetrainTimeout c port s
  | .watchdogExpiry => Sys2Proof.Machine.execWatchdogExpiry s
  | .ddrSelfRefreshEntered => Sys2Proof.Machine.execDdrSelfRefreshEntered s
  | .warmResetRailsOff => Sys2Proof.Machine.execWarmResetRailsOff s
  | .warmResetRestart => Sys2Proof.Machine.execWarmResetRestart s
  | .bmbRead page off => Sys2Proof.Machine.execBmbRead page off s
  | .bmbWrite page off w => Sys2Proof.Machine.execBmbWrite page off w s
  | .bmbWarmReset => Sys2Proof.Machine.execBmbWarmReset s
  | .recoveryLoad off bytes => Sys2Proof.Machine.execRecoveryLoad off bytes s
  | .recoveryGo => Sys2Proof.Machine.execRecoveryGo s
  | .trustWrite slot image => Sys2Proof.Machine.execTrustWrite slot image s
  | .debugOpen => Sys2Proof.Machine.execDebugOpen s
  | .flashWrite target off bytes => Sys2Proof.Machine.execFlashWrite target off bytes s
  | .svnCommit => Sys2Proof.Machine.execSvnCommit s
  | .secResetWrite w => Sys2Proof.Machine.execSecResetWrite w s
  | .attestGo w => Sys2Proof.Machine.execAttestGo w s
  | .attestSigned sig => Sys2Proof.Machine.execAttestSigned sig s
  | .freeze => Sys2Proof.Machine.execFreeze s
  | .freezeRefreshKeeper => Sys2Proof.Machine.execFreezeRefreshKeeper s
  | .extest bits => Sys2Proof.Machine.execExtest bits s
  | .samplePreload bits => Sys2Proof.Machine.execSamplePreload bits s
  | .dbgAddr addr => Sys2Proof.Machine.execDbgAddr addr s
  | .dbgData w => Sys2Proof.Machine.execDbgData w s
  | .dumpCtl w => Sys2Proof.Machine.execDumpCtl w s
  | .dumpDone => Sys2Proof.Machine.execDumpDone s
  | .bypass => Sys2Proof.Machine.execBypass s
  | .errClr page w => Sys2Proof.Machine.execErrClr page w s
  | .evtFlagClear page w => Sys2Proof.Machine.execEvtFlagClear page w s
  | .evtForce page w => Sys2Proof.Machine.execEvtForce page w s
  | .softReset page w => Sys2Proof.Machine.execSoftReset page w s
  | .enable page w => Sys2Proof.Machine.execEnable page w s
  | .registerWrite page off w => Sys2Proof.Machine.execRegisterWrite page off w s
  | .copierPageWritten st page => Sys2Proof.Machine.execCopierPageWritten st page s
  | .ethLinkChange up => Sys2Proof.Machine.execEthLinkChange up s
  | .hubRailsInRegulation => Sys2Proof.Machine.execHubRailsInRegulation s
  | .dieRailsInRegulation => Sys2Proof.Machine.execDieRailsInRegulation s
  | .d2dTrainingDone c port ok => Sys2Proof.Machine.execD2dTrainingDone c port ok s
  | .handshakeSignatureDone h sig => Sys2Proof.Machine.execHandshakeSignatureDone h sig s

end Sys2Proof.Machine
end

