-- ==== Sys2Proof/Machine/Step.lean ====
section
/-!
DEFINITION. Sys2Proof/Machine/Step.lean: one step of the block: the command at the front of the queue, or one cycle of the
time base and of the meters where none waits.
-/
namespace Sys2Proof.Machine

/-- With no command waiting, the time base counts one TIME cycle while the hub runs (R41, R42), and the meters count what the
hardware did in it. DESIGN CHOICE, log entry 2. -/
def State.idle (s : State) : State := { s with chip := s.chip.live fun d => d.timeCycle.meterCycle }

/-- One step. DESIGN CHOICE, log entry 2. -/
def step (s : State) : Host.Outcome State Fault Refusal :=
  match s.pending with
  | [] => .next s.idle
  | c :: cs => exec c { s with pending := cs }

/-- The state with the command that a table word spells put at the front of its queue. DESIGN CHOICE, log entry 3. -/
def State.withFetchWord (s : State) (nbits w : Nat) : State :=
  match decodeTableWord nbits w with
  | some c => { s with pending := c :: s.pending }
  | none => s

end Sys2Proof.Machine
end

