-- ==== Sys2Proof/WellFormed.lean ====
section
/-!
DEFINITION. Sys2Proof/WellFormed.lean: which commands name places the module has and carry operands of the right size.
A command that does not is no command of the module: its meaning changes nothing.
-/
namespace Sys2Proof

/-! ### Checks of one operand -/

/-- A core of the module (R12). -/
def okCore (k : Nat) : Bool := decide (k < 1152)
/-- A message's sender: a core, or a collective engine. -/
def okSender (k : Nat) : Bool := decide (k < 1152 ∨ (0x7F8 ≤ k ∧ k < 0x7FC))
/-- A sequence number (R201). -/
def okSeq (n : Nat) : Bool := decide (n < 2 ^ 32)
/-- A partition, a die, a stack, a link. -/
def okPart (p : Nat) : Bool := decide (p < 4)
def okDie (c : Nat) : Bool := decide (c < 4)
def okStack (st : Nat) : Bool := decide (st < 8)
def okLink (n : Nat) : Bool := decide (n < 36)
/-- A port of a collective engine: a link, or the die it came from. -/
def okPort (n : Nat) : Bool := decide (n < 40)
/-- An array: 0 the F-array, 1 the B-array; a converter's unit; a holder of the lane generators. -/
def okArray (a : Nat) : Bool := decide (a < 2)
def okUnit (u : Nat) : Bool := decide (u < 3)
def okHolder (h : Nat) : Bool := decide (1 ≤ h ∧ h ≤ 3)
/-- A galley; a DMA engine; a channel and an entry of a collective engine. -/
def okGalley (g : Nat) : Bool := decide (g < 16)
def okEngine (e : Nat) : Bool := decide (e < 16)
def okChannel (ch : Nat) : Bool := decide (ch < 4)
def okEntry (e : Nat) : Bool := decide (e < 64)
/-- A word of the Gauge slot window (R131); CFG or RANGE of a list entry (R224). -/
def okSlotWord (off : Nat) : Bool := decide (0x200 ≤ off ∧ off < 0x2C0 ∧ off % 4 = 0)
def okListWord (off : Nat) : Bool := decide (0x200 ≤ off ∧ off < 0x300 ∧ (off % 16 = 0 ∨ off % 16 = 4))
/-- A lane of a link; a cause of a retrain. -/
def okLane (l : Nat) : Bool := decide (l < 4)
def okCause (c : Nat) : Bool := decide (c < 3)
/-- A link flit, and a record of one (R292, Table 11-3). -/
def okFlit (b : List Byte) : Bool := b.length == 256
def okRecord (b : List Byte) : Bool := b.length == 16
/-- The tag of a kick (R317). -/
def okKick (tag : Nat) : Bool := decide (tag < 2 ^ 16)
/-- A page of a stack (R349). -/
def okPage (q : Nat) : Bool := decide (q < 40960)
/-- An ML-DSA-65 signature, or none where signing failed (R436). -/
def okSignature (b : List Byte) : Bool := b.length == 3309 || b.isEmpty
/-- An Ethernet frame without its FCS; a Railjor message (R378). -/
def okFrame (b : List Byte) : Bool := decide (14 ≤ b.length ∧ b.length ≤ 9250)
def okMessage (b : List Byte) : Bool := decide (32 ≤ b.length ∧ b.length ≤ 9168)
/-- A session slot; a handshake being reassembled (R394). -/
def okSession (i : Nat) : Bool := decide (i < 8)
def okShake (h : Nat) : Bool := decide (h < 8)
/-- An input voltage within R401's range, and a PWR_EN pulse R424 gives a result for. -/
def okVin (mv : Nat) : Bool := decide (40000 ≤ mv ∧ mv ≤ 50000)
def okLow (ns : Nat) : Bool := decide (10000000 ≤ ns)
/-- A temperature sensor (R415). -/
def okSensor (n : Nat) : Bool := decide (n < 13)
/-- A firmware slot; what memory training found. -/
def okFwSlot (n : Nat) : Bool := decide (n < 2)
def okTraining (failing : Nat) (dimms : List Nat) (bad : Nat) : Bool := decide (failing < 256 ∧ bad < 4096) && dimms.length == 12
/-- A die-to-die port (R484). -/
def okD2d (q : Nat) : Bool := decide (q < 3)
/-- A page index; a hub page; an offset within a page. -/
def okIndex (i : Nat) : Bool := decide (i < 2 ^ 18)
def okHubPage (i : Nat) : Bool := decide (i < 0x100)
def okOffset (off : Nat) : Bool := decide (off < 0x1000 ∧ off % 4 = 0)
/-- A 256-byte block of the bus (R497), its flash target, and a trust slot's image (R393). -/
def okBlock (b : List Byte) : Bool := b.length == 256
def okTarget (t : Nat) : Bool := decide (t < 3)
def okTrust (slot : Nat) (b : List Byte) : Bool := decide (slot < 4) && b.length == 128

/-! ### The commands -/

/-- The command is well formed. -/
def Instr.wf : Instr → Bool
  | .nop k => okCore k
  | .set k => okCore k
  | .add k => okCore k
  | .loop k => okCore k
  | .br k => okCore k
  | .waitTick k => okCore k
  | .listEnd k => okCore k
  | .fMatmul k => okCore k
  | .fused k => okCore k
  | .bMatmul k => okCore k
  | .bAdd k => okCore k
  | .convert k => okCore k
  | .convertCalibrated k => okCore k
  | .rowNormFwd k => okCore k
  | .rowNormBwd k => okCore k
  | .rowSoftmaxFwd k => okCore k
  | .rowSoftmaxBwd k => okCore k
  | .rowAct k => okCore k
  | .rowDraw k => okCore k
  | .msgSend k => okCore k
  | .msgRecv k => okCore k
  | .messageArrival src seq => okSender src && okSeq seq
  | .galleyPush k => okCore k
  | .galleyPop k => okCore k
  | .dmaCopy k => okCore k
  | .dmaTcopy k => okCore k
  | .dmaDrain k => okCore k
  | .gaugeSetImageLoad k => okCore k
  | .gaugeSetMerge k => okCore k
  | .gaugeSetClearCounters k => okCore k
  | .gaugeSetClearHistory k => okCore k
  | .gaugeReadImages k => okCore k
  | .gaugeReadSummary k => okCore k
  | .platenSubmit k => okCore k
  | .platenSubmitLambNorm k => okCore k
  | .platenSubmitLambApply k => okCore k
  | .platenDrain k => okCore k
  | .passStart k arr => okCore k && okArray arr
  | .tileConvert k unit => okCore k && okUnit unit
  | .laneGeneratorsAcquire k holder => okCore k && okHolder holder
  | .commandRetire k seq => okCore k && okSeq seq
  | .globalRecastUpdate k => okCore k
  | .imprRunStart p _ => okPart p
  | .firstImpressionStart p => okPart p
  | .stopPress p _ => okPart p
  | .announcement p => okPart p
  | .tickRecord n rec => okLink n && okRecord rec
  | .tick p => okPart p
  | .haltTick p => okPart p
  | .listsBegin p => okPart p
  | .timeLoad _ => true
  | .gaugeWindowWrite k off _ => okCore k && okSlotWord off
  | .slabClr k _ => okCore k
  | .tapClr k _ => okCore k
  | .laneProbeGo k _ => okCore k
  | .laneProbeDone k => okCore k
  | .cmemLoad k _ => okCore k
  | .cmemLoadDone k => okCore k
  | .listEntryWrite k off _ => okCore k && okListWord off
  | .galleyCfgWrite k g _ => okCore k && okGalley g
  | .galleyFlush k g _ => okCore k && okGalley g
  | .galleyFlitArrival k g => okCore k && okGalley g
  | .galleyCreditArrival k g => okCore k && okGalley g
  | .galleyConsumerStart k g => okCore k && okGalley g
  | .galleyForwardFlit k g => okCore k && okGalley g
  | .galleyRingRead k g => okCore k && okGalley g
  | .dmaTransferStart c e => okDie c && okEngine e
  | .dmaTransferDone c e => okDie c && okEngine e
  | .platenUpdateStart st => okStack st
  | .platenUpdateDone st => okStack st
  | .zeroingDone p => okPart p
  | .linkCfgWrite n _ => okLink n
  | .laneLock n lane => okLink n && okLane lane
  | .linkTrainingDone n => okLink n
  | .helloTimer n => okLink n
  | .linkRetrain n cause => okLink n && okCause cause
  | .linkRetrainDone n => okLink n
  | .retrainLimitExpiry n => okLink n
  | .linkFlitReceive n flit => okLink n && okFlit flit
  | .galleyLinkFlit n flit => okLink n && okFlit flit
  | .collFlit n flit => okPort n && okFlit flit
  | .hello n rec => okLink n && okRecord rec
  | .lcCredit n rec => okLink n && okRecord rec
  | .galleyCredit n rec => okLink n && okRecord rec
  | .galleyAbort n rec => okLink n && okRecord rec
  | .boundary n rec => okLink n && okRecord rec
  | .tsyncReq n rec => okLink n && okRecord rec
  | .tsyncResp n rec => okLink n && okRecord rec
  | .timeExchangeTimer n => okLink n
  | .collStart n rec => okPort n && okRecord rec
  | .collWave n rec => okPort n && okRecord rec
  | .collKick c _ tag _ => okDie c && okKick tag
  | .collRunStart c e => okDie c && okEntry e
  | .permuteCopyDone c ch => okDie c && okChannel ch
  | .collRunDone c ch => okDie c && okChannel ch
  | .proofOrderWarm p _ => okPart p
  | .proofOrderCold p _ => okPart p
  | .proofCancel p _ => okPart p
  | .quiesceDone p => okPart p
  | .quiesceTimeout p => okPart p
  | .captureDone p => okPart p
  | .shadowCopyDone st page => okStack st && okPage page
  | .copyDone p => okPart p
  | .manifestSigned p sig => okPart p && okSignature sig
  | .proofDrainStart => true
  | .proofDrainDone => true
  | .drainAckTimeout => true
  | .genPin _ => true
  | .genUnpin _ => true
  | .genDelete _ => true
  | .drainNow _ => true
  | .restoreLoad p _ => okPart p
  | .restoreRelocate p _ => okPart p
  | .restoreImport p _ => okPart p
  | .restoreDone p => okPart p
  | .ethFrameReceive frame => okFrame frame
  | .macsecOldAnExpiry => true
  | .regRd msg => okMessage msg
  | .regWr msg => okMessage msg
  | .dmaWr msg => okMessage msg
  | .dmaRd msg => okMessage msg
  | .cmdSubmit msg => okMessage msg
  | .proofData msg => okMessage msg
  | .ack msg => okMessage msg
  | .openReq msg => okMessage msg
  | .openFin msg => okMessage msg
  | .handshakeReassemblyTimeout h => okShake h
  | .ackDelayExpiry slot => okSession slot
  | .ackIdleRepeat slot => okSession slot
  | .retransmitTimeout slot => okSession slot
  | .sessionTimeout slot => okSession slot
  | .sessionClose _ => true
  | .eventSend slot => okSession slot
  | .partitionClaim p _ => okPart p
  | .partitionRelease p _ => okPart p
  | .maintWrite p _ => okPart p
  | .pointRampDone c => okDie c
  | .energyOverBudget p => okPart p
  | .energyStepdownRepeat p => okPart p
  | .pinSample _ => true
  | .powerCapStepdown => true
  | .clockGateEngage => true
  | .clockGateRelease => true
  | .vinAlert mv => okVin mv
  | .thermalWarn sensor _ => okSensor sensor
  | .thermalHot sensor _ => okSensor sensor
  | .thermalHotStepdown c => okDie c
  | .thermalTrip sensor _ => okSensor sensor
  | .railFault => true
  | .vinApply mv => okVin mv
  | .vinRemove => true
  | .pwrEnAssert => true
  | .bootDelayExpiry => true
  | .pwrEnDeassert ns => okLow ns
  | .firmwareVerified slot => okFwSlot slot
  | .memoryTrainingDone failing dimms bad => okTraining failing dimms bad
  | .bootTimeout => true
  | .d2dRetrain c port => okDie c && okD2d port
  | .d2dRetrainTimeout c port => okDie c && okD2d port
  | .watchdogExpiry => true
  | .ddrSelfRefreshEntered => true
  | .warmResetRailsOff => true
  | .warmResetRestart => true
  | .bmbRead page off => okHubPage page && okOffset off
  | .bmbWrite page off _ => okHubPage page && okOffset off
  | .bmbWarmReset => true
  | .recoveryLoad _ bytes => okBlock bytes
  | .recoveryGo => true
  | .trustWrite slot image => okTrust slot image
  | .debugOpen => true
  | .flashWrite target _ bytes => okTarget target && okBlock bytes
  | .svnCommit => true
  | .secResetWrite _ => true
  | .attestGo _ => true
  | .attestSigned sig => okSignature sig
  | .freeze => true
  | .freezeRefreshKeeper => true
  | .extest _ => true
  | .samplePreload _ => true
  | .dbgAddr _ => true
  | .dbgData _ => true
  | .dumpCtl _ => true
  | .dumpDone => true
  | .bypass => true
  | .errClr page _ => okIndex page
  | .evtFlagClear page _ => okIndex page
  | .evtForce page _ => okIndex page
  | .softReset page _ => okIndex page
  | .enable page _ => okIndex page
  | .registerWrite page off _ => okIndex page && okOffset off
  | .copierPageWritten st page => okStack st && okPage page
  | .ethLinkChange _ => true
  | .hubRailsInRegulation => true
  | .dieRailsInRegulation => true
  | .d2dTrainingDone c port _ => okDie c && okD2d port
  | .handshakeSignatureDone h sig => okSession h && okSignature sig

end Sys2Proof
end

