-- ==== Sys2Proof/Safety.lean ====
section
/-!
DEFINITION. Sys2Proof/Safety.lean: the terms claims use: what a command leaves alone, and when a core's sequencer stands at
an operation.
-/
namespace Sys2Proof.Machine

/-- The device of a state. -/
abbrev State.dev (s : State) : Dev := s.chip.dev

/-- The state with another device: power, security and the queue as they were. -/
def State.withDev (s : State) (d : Dev) : State := { s with chip := { s.chip with dev := d } }

/-- The state after a register write that leaves the device `e`: the power mode follows the claims (Table 14-3). -/
def State.written (s : State) (e : Dev) : State := { s with chip := ({ s.chip with dev := e } : Chip).modeSync }

/-- A place of the device that a command may leave alone. Cores, dies, partitions, headers, registers, engines, links,
stacks, proofs, generations and sessions are places by number; the rest of the device by name. -/
inductive Place
  | core (k : Nat) | die (c : Nat) | part (p : Nat) | hdr (page : Nat) | reg (page off : Nat) | dma (i : Nat)
  | platen (st : Nat) | link (n : Nat) | cow (st : Nat) | coll (c : Nat) | proof (p : Nat) | gen (i : Nat) | sess (i : Nat)
  /-- the error log; memory with its uncorrectable units; the time base and its servo; temperatures -/
  | log | mem | time | temps
  /-- messages in flight; background transfers that failed; flits and credits on the mesh; what the module has sent -/
  | flights | bgFailed | mesh | out
  /-- handshakes; requests to be signed; the old MACsec association -/
  | shakes | signQ | oldSa
  /-- numbers and parents of generations; the drain; save areas held; the count of free values -/
  | genNext | drain | saveHold | free
  /-- the metered counters; how DDR5 lies over its channels -/
  | meters | ddrLaid
  deriving DecidableEq, Repr

/-- The place is as it was. Three things may differ at any place that is otherwise the same: the event records a session
receives, the transport's count of records merged (R387), and the ring entries that wait for a partition's lists. -/
def Place.Same (d e : Dev) : Place → Prop
  | .core k => e.core k = d.core k
  | .die c => e.die c = d.die c
  | .part p => e.part p = { d.part p with orders := (e.part p).orders }
  | .hdr g => e.hdr g = d.hdr g
  | .reg g o => o < 4096 → ¬(g = pgRailjor ∧ evMergedKey 0 ≤ o ∧ o < evMergedKey 8) → e.reg g o = d.reg g o
  | .dma i => e.dma i = d.dma i
  | .platen st => e.platen st = d.platen st
  | .link n => e.link n = d.link n
  | .cow st => e.cow st = d.cow st
  | .coll c => e.coll c = d.coll c
  | .proof p => e.proof p = d.proof p
  | .gen i => e.gen i = d.gen i
  | .sess i => e.sess i = { d.sess i with events := (e.sess i).events }
  | .log => e.elog = d.elog ∧ e.elogWr = d.elogWr
  | .mem => e.mem = d.mem ∧ e.ecc = d.ecc
  | .time => e.time = d.time ∧ e.timeFrac = d.timeFrac ∧ e.servo = d.servo
  | .temps => e.temps = d.temps ∧ e.warned = d.warned ∧ e.hots = d.hots
  | .flights => e.flights = d.flights
  | .bgFailed => e.bgFailed = d.bgFailed
  | .mesh => e.vc2 = d.vc2 ∧ e.vc0 = d.vc0
  | .out => e.out = d.out
  | .shakes => e.shakes = d.shakes ∧ e.opens = d.opens
  | .signQ => e.signQ = d.signQ
  | .oldSa => e.oldSa = d.oldSa
  | .genNext => e.genNext = d.genNext ∧ e.parents = d.parents
  | .drain => e.drain = d.drain ∧ e.drainQ = d.drainQ ∧ e.sinceDrain = d.sinceDrain
  | .saveHold => e.saveHold = d.saveHold
  | .free => e.freeCount = d.freeCount
  | .meters => e.meters = d.meters
  | .ddrLaid => e.ddrLaid = d.ddrLaid

/-- Every place of the device but those listed is as it was. -/
def Dev.Kept (d e : Dev) (but : List Place) : Prop := ∀ x, x ∉ but → x.Same d e

/-- Every place outside an area is as it was. -/
def Dev.KeptOutside (d e : Dev) (area : Place → Bool) : Prop := ∀ x, area x = false → x.Same d e

/-- A page of an HBM stack's controller, or of a Platen's stack of the same index. -/
def hbmPage (g : Nat) : Bool := decide (0x100 ≤ g ∧ g < 0x20000) && (g % 0x40 == 2 || g % 0x40 == 3)

/-- What the compute blocks of core k may touch: the core, the headers and registers of its pages and of the HBM
controllers, the count of uncorrectable reads of a case, memory with its copy-on-write state, and the log. -/
def Place.computeOf (k : Nat) : Place → Bool
  | .core j => j == k
  | .hdr g => decide (pgOfCore k 0 ≤ g ∧ g ≤ pgOfCore k 7) || hbmPage g || g == pgDbg || g == pgPart
  | .reg g o => decide (pgOfCore k 0 ≤ g ∧ g ≤ pgOfCore k 7) || hbmPage g || (o == 0x128 && decide (0x20000 ≤ g))
  | .cow _ | .mem | .log | .free => true
  | _ => false

/-- What the galleys of core k may touch as they push, pop and forward: the core, headers and registers, memory with its
copy-on-write state, the mesh, the links they send on, and the log. -/
def Place.fabricOf (k : Nat) : Place → Bool
  | .core j => j == k
  | .hdr _ | .reg _ _ | .link _ | .cow _ | .mem | .log | .mesh | .out | .free => true
  | _ => false

/-- What the retirement of a command of core k may touch: the core, its CORE and CNT pages, its record in memory, and the
log. -/
def Place.retireOf (k : Nat) : Place → Bool
  | .core j => j == k
  | .hdr g => g == pgCore k || g == pgCnt k || g == pgDbg || g == pgPart
  | .reg g o => g == pgCnt k || (g == pgCore k && o == 0x120)
  | .cow _ | .mem | .log | .free => true
  | _ => false

/-- What sending on link h may touch: its state, its registers and header, and what has left the module. -/
def Place.sendOf (h : Nat) : Place → Bool
  | .link m => m == h
  | .hdr g | .reg g _ => g == pgLink h
  | .out => true
  | _ => false

/-- What a collective engine's run may touch: the engines, the links and ports its routes take, and memory. -/
def Place.collOf : Place → Bool
  | .coll _ | .link _ | .hdr _ | .reg _ _ | .mem | .cow _ | .log | .out => true
  | _ => false

/-- The header with event bit b raised (R475): EVT_RAW, and EVT_FLAG where EVT_EN selects it. -/
def Hdr.raised (h : Hdr) (b : Nat) : Hdr :=
  let w : Word := BitVec.ofNat 32 (2 ^ b)
  { h with raw := h.raw ||| w, flag := if bit h.en.toNat b then h.flag ||| w else h.flag }

/-- The hub is up (powered, neither frozen nor in a warm reset). -/
def State.Up (s : State) : Prop := s.chip.pow.up = true

/-- Core k runs: the hub is up, and its die is claimed and out of reset. -/
def State.CoreRuns (s : State) (k : Nat) : Prop :=
  s.Up ∧ k < numCores ∧ (s.dev.die (coreDie k)).live = true

/-- Core k's sequencer stands in list `l` at the descriptor `desc`, and may issue it: the page is enabled, and WAITMASK and
FENCE are satisfied (R202). `x` is the list. -/
def State.Stands (s : State) (k l : Nat) (x : ListSt) (desc : List Byte) : Prop :=
  s.CoreRuns k ∧ s.dev.atCursor k = some (l, x, desc) ∧ (s.dev.hdr (pgCore k)).enable = true ∧
  (s.dev.core k).mayIssue desc = true

/-- It stands at control operation `op`, well formed and of class CONTROL (R208, R210). -/
def State.AtControl (s : State) (k op l : Nat) (x : ListSt) (desc : List Byte) : Prop :=
  s.Stands k l x desc ∧ dOp desc = op ∧ controlBad desc = false ∧ dClass desc = 0

/-- The command that core k issues at the cursor of its list `x`, number `l`, from the raw descriptor `raw`: address
registers resolved, and its extension block read (R209, R214). -/
def Dev.issueCmd (d : Dev) (k l : Nat) (x : ListSt) (raw : List Byte) : Cmd :=
  let desc := resolve (d.core k) raw
  d.mkCmd k l x.cursor desc (d.extBlock k desc)

/-- Core k stands at the descriptor `raw`, may issue it, and no check rejects it: it has work, and its unit has room
(R200–R216). -/
def State.Accepts (s : State) (k l : Nat) (x : ListSt) (raw : List Byte) : Prop :=
  let d := s.dev
  let c := d.issueCmd k l x raw
  let e := extOf c.desc c.ext
  s.Stands k l x raw ∧
  d.seqChecks k l x.cursor (d.core k).seqNext x.segClass raw c.desc e = none ∧
  d.saveCheck k l x.cursor (d.core k).seqNext c.desc e = none ∧
  noWork c.desc = false ∧ d.blockChecks k c.desc e = none ∧ d.hasRoom k c.desc = true

/-- A core that has issued `c` at its list's cursor: the command is in flight, it took its number, and the cursor moved on. -/
def CoreSt.issuedWith (q : CoreSt) (c : Cmd) : CoreSt :=
  { q with cmds := q.cmds ++ [c], seqNext := (q.seqNext + 1) % 2 ^ 32 }.modList c.list fun y => { y with cursor := c.idx + 1 }

/-- A pass of F.MATMUL or B.MATMUL command x on core k finds its operands in order: `p` is what it reads, with valid rows and
columns, and `o` what it computes from them (R75, R78, R134). -/
def Dev.PassGives (d : Dev) (k : Nat) (x : Cmd) (p : PassIn) (o : PassOut) : Prop :=
  (dOp x.desc = 0x10 ∨ dOp x.desc = 0x18) ∧ d.readPass k x x.pos = .ok p ∧ p.rows ≠ 0 ∧ p.cols ≠ 0 ∧
  (if fmtNarrow (modesOf x.desc).fmtIn then d.narrowPass k x x.pos p none
   else d.widePass k x x.pos p ((rowsOf p.a p.rows id).map (rowVals (Mx.parse x.desc).k))) = .ok o

/-- Pair n of a submit reads well and passes the checks of R274, and nothing that it writes is in a held save area (R353). -/
def Dev.PairReady (d : Dev) (b : PltB) (kind n : Nat) : Prop :=
  let mf : Fmt := if b.masterBf16 then .bf16 else .fp32
  let pa := b.p + n * b.pStride
  let ga := b.g + n * b.gStride
  let ph := d.hdrAt pa
  let gh := d.hdrAt ga
  d.tileHeld b (kindUsesM2 kind) n = none ∧ pairFits mf ph gh = true ∧
  ∀ r ∈ [(pa, mf.tileBytes), (pa, 64), (ga, 64), (ga, ((Fmt.ofCode gh.fmt).getD .bf16).tileBytes)] ++
      momRanges b.m1fmt (b.m1 + n * momTile b.m1fmt) ph.rows ph.cols ++
      momRanges b.m2fmt (b.m2 + n * momTile b.m2fmt) ph.rows ph.cols, d.firstBad r.1 r.2 = none

/-- No galley of the core has a command in flight or a slug being discarded. -/
def CoreSt.GalleysQuiet (c : CoreSt) : Prop := (∀ x ∈ c.cmds, x.unit ≠ 4 ∧ dOp x.desc ≠ 0x34 ∧ dOp x.desc ≠ 0x35) ∧ ∀ g, (c.galley g).dropping = false

/-- No link holds flits undelivered (R343). -/
def Dev.NoLinkHolds (d : Dev) : Prop := ∀ n, (d.link n).held = [] ∧ (d.link n).holding = false

/-- Power and the security processor of a state, and the state with other parts of the module. -/
abbrev State.pow (s : State) : Pow := s.chip.pow
abbrev State.sec (s : State) : Sec := s.chip.sec
def State.withAll (s : State) (e : Dev) (p : Pow) (x : Sec) : State := { s with chip := { dev := e, pow := p, sec := x } }

/-- A die one point further down (R404). -/
def DieSt.down (x : DieSt) : DieSt := { x with point := x.point + 1, target := x.point + 1, ramp := false }

/-- Dies step down where `p` says so, each no further than `lowest`, and stay as they are elsewhere. -/
def Dev.DiesStep (d e : Dev) (p : Nat → Bool) (lowest : Nat → Nat) : Prop :=
  ∀ c, e.die c = if p c && decide ((d.die c).point < lowest c) then (d.die c).down else d.die c

/-- Places that points between ticks touch: the dies, and the counters and events of GOV. -/
def Place.points : Place → Bool
  | .die _ => true | .hdr g | .reg g _ => g == pgGov | _ => false

/-- A bit of ALERT rises between two devices and input voltages (R401, R421). -/
def alertRises (d e : Dev) (v0 v1 : Nat) : Bool := (List.range 5).any fun i => bit (e.alert v1) i && !bit (d.alert v0) i

/-- No session waits for writes of its own to land. -/
def Dev.NoTransfers (d : Dev) : Prop := ∀ slot, (d.sess slot).trans = []

/-- What the movers of partition p may touch as a cut lets them go on (R346): the partition, and what its collective engines
and links send. -/
def Place.goingOn (p : Nat) : Place → Bool
  | .part q => q == p
  | x => x.collOf

/-- The frame of a generation that holds image page q of stack st, taken for that generation (R356). -/
def GenSt.ownFrame (g : GenSt) (st q : Nat) : Option FrameEnt :=
  g.frames.find? fun f => f.kind == 0 && f.unit == st && f.index == q && f.fgen == g.id

/-- Bytes [dst, dst + n) of the memory after are bytes [src, src + n) of the memory before. -/
def Dev.Copied (d e : Dev) (src dst n : Nat) : Prop := ∀ j, j < n → e.mem.readByte (dst + j) = d.mem.readByte (src + j)

/-- Every byte outside [a, a + n) reads as before. -/
def Dev.SameOutside (d e : Dev) (a n : Nat) : Prop := ∀ b, b < a ∨ a + n ≤ b → e.mem.readByte b = d.mem.readByte b

/-- Session slot `slot` is open to message m in its turn: the module serves the network, the header is sound and names the
session, its SEQ is the next one, the windows are open, and nothing is unacknowledged, held back or open on the session. -/
def State.Hears (s : State) (slot : Nat) (m : List Byte) : Prop :=
  let x := s.dev.sess slot
  s.pow.net = true ∧ s.Up ∧ rjHeaderOk m = true ∧ slot = rjSession m % 8 ∧ rjSession m ≠ 0 ∧ x.id = rjSession m ∧ x.state = 2 ∧
  rjSeq m = x.rxNext ∧ x.rxNext < 2 ^ 32 ∧ x.ahead = [] ∧ x.trans = [] ∧ x.deferred = [] ∧ x.waiting = [] ∧ x.unacked = [] ∧
  x.pendAcks < 15 ∧ x.acked < x.cwnd ∧ 0 < field m 0x1A 2 ∧ 0 < s.dev.reg pgRailjor 0x104 ∧ s.dev.drain = none

/-- The session has taken message m: the next SEQ it awaits is one on, one more arrival is to be acknowledged, the peer's window
is as the message says, and an ECE mark halves the congestion window (R389–R391). -/
def Dev.Taken (d a : Dev) (slot : Nat) (m : List Byte) : Prop :=
  (∃ backoff, a.sess slot = { d.sess slot with
    rxNext := ((d.sess slot).rxNext + 1) % 2 ^ 32, pendAcks := (d.sess slot).pendAcks + 1, window := field m 0x1A 2, backoff
    cwnd := if bit (rjFlagsOf m) 3 then max 16 ((d.sess slot).cwnd / 2) else (d.sess slot).cwnd }) ∧
  d.Kept a [.sess slot]

/-- A message of the session goes to its peer (R378, R389): it takes the next SEQ and is kept until it is acknowledged, and it
carries the SEQ the session awaits, an ECE mark that was due, and the device's window. -/
def Dev.Answers (a e : Dev) (slot typ flags stream : Nat) (payload : List Byte) : Prop :=
  let x := a.sess slot
  let y := e.sess slot
  y.unacked = x.unacked ++ [{ seq := x.txNext, typ, flags, stream, payload }] ∧ y.waiting = [] ∧
  y.txNext = (x.txNext + 1) % 2 ^ 32 ∧ y.pendAcks = 0 ∧
  e.out = ⟨.udp x.peer, rjBytes typ (flags + if x.ce then rjEce else 0) x.id x.txNext x.rxNext x.sack stream
    (e.reg pgRailjor 0x104) payload⟩ :: a.out

/-- A request is refused (R379, R400): its code stands on its page, and a NACK carries it. -/
def Dev.Nacks (a e : Dev) (slot code : Nat) (m : List Byte) : Prop :=
  let info := rjInfo slot (rjStream m)
  (e.hdr (rjPage code)).errCode = code ∧ (e.hdr (rjPage code)).errInfo0 = BitVec.ofNat 32 info ∧
  a.Answers e slot 9 (rjFirst + rjLast) (rjStream m)
    (natLe 2 code ++ natLe 2 0 ++ natLe 4 info ++ natLe 4 (rjSeq m) ++ natLe 4 0)

/-- What sending on session slot touches: the session, the counters of ETH, and what has left the module. -/
def Place.saying (slot : Nat) : Place → Bool
  | .sess i => i == slot
  | .reg g _ => g == pgEth
  | .out => true
  | _ => false

/-- The flags of a whole response. -/
def rjWholeResp : Nat := rjResp + rjFirst + rjLast

/-- The chain value is what a verifier recomputes from the log, the log holds at most sixteen entries, and the fused SVN fits
its 64 fuses (R430, R431). -/
def Sec.Sound (x : Sec) : Prop := x.chain = chainOf x.log ∧ x.log.length ≤ 16 ∧ x.fusedSvn ≤ 64

/-- Commands that a frozen module does not ignore (R418, R425, R455–R459): the freeze responder's warm reset, faults, trips and
input power, PWR_EN, the refresh keeper, and the debug port. -/
def actsFrozen : Instr → Bool
  | .bmbWarmReset | .railFault | .thermalTrip _ _ | .vinApply _ | .vinRemove | .vinAlert _ | .pwrEnAssert | .pwrEnDeassert _
  | .bootDelayExpiry | .freezeRefreshKeeper | .extest _ | .samplePreload _ | .dbgAddr _ | .dbgData _ | .dumpCtl _ | .dumpDone
  | .bypass => true
  | _ => false

/-- The core once its sequencer has passed to the next admitted list (R195). -/
def CoreSt.passedOn (c : CoreSt) : CoreSt :=
  match c.todo with
  | [] => { c with running := none, todo := [] }
  | j :: js => { (c.modList j fun y => { y with state := .running }) with running := some j, todo := js }

/-- The next admitted list, if any, is another than l and stands at an index it has. -/
def CoreSt.NextFits (c : CoreSt) (l : Nat) : Prop :=
  ∀ j, c.todo.head? = some j → j ≠ l ∧ (c.list j).cursor ≤ (c.list j).last

end Sys2Proof.Machine
end

