-- ==== Sys2Proof/Certificates/Slice0/Obligations.lean ====
section
/-!
DEFINITION. Sys2Proof/Certificates/Slice0/Obligations.lean: the statements for the provers.
-/
section
open Sys2Proof Sys2Proof.Machine

/-- NOP, SET and ADD (R198, Table 8-1) complete wherever they stand and may issue, short of the list's last index: the destination
register takes its new value, the cursor goes on by one, event CMD is raised where EVT asks, and nothing else changes. LOOP
and BR (R198, Tables 8-1 and 8-2) whose target lies inside their list: LOOP counts its register down and jumps while the
register is not zero; BR jumps where its condition holds; otherwise each goes on. Nothing else changes. WAIT.TICK and END
(R45, R195–R198). A WAIT.TICK whose target is later than the current impression number parks its list past itself, opening the
next segment with the class and energy it declares, and one whose target is not goes on; while an earlier command of its list
has not retired, one that would park waits, and the wait is counted. END ends its list. A list that parks or ends passes the
sequencer to the next admitted list. The model's own choices in it: log entries 37 and 38. -/
def Obligations.ControlOps : Prop :=
  ((∀ (s : State) (k l : Nat) (x : ListSt) (desc : List Byte), x.cursor < x.last →
    let c := s.dev.core k
    let stepped (c : CoreSt) := c.modList l fun y => { y with cursor := x.cursor + 1 }
    let done (t : Host.Outcome State Fault Refusal) (c : CoreSt) := ∃ e, t = .next (s.withDev e) ∧ e.core k = stepped c ∧
      e.hdr (pgCore k) = (if dEvt desc then (s.dev.hdr (pgCore k)).raised 2 else s.dev.hdr (pgCore k)) ∧
      s.dev.Kept e [.core k, .hdr (pgCore k), .hdr pgPart]
    (s.AtControl k 0 l x desc → done (exec (.nop k) s) c) ∧
    (s.AtControl k 1 l x desc → done (exec (.set k) s) (c.setRegOf (field desc 0x10 1) (field desc 0x18 8))) ∧
    (s.AtControl k 2 l x desc → done (exec (.add k) s) (c.setRegOf (field desc 0x10 1)
      (c.regOf (field desc 0x11 1) + field desc 0x18 8 +
        if bit (field desc 0x12 1) 7 then c.regOf (field desc 0x12 1) else 0)))) ∧
  (∀ (s : State) (k l : Nat) (x : ListSt) (desc : List Byte), x.cursor < x.last →
    x.outside (field desc 0x12 2) = false →
    let c := s.dev.core k
    let r := field desc 0x10 1 % 16
    let goTo (i : Nat) (c : CoreSt) := c.modList l fun y => { y with cursor := i }
    let done (t : Host.Outcome State Fault Refusal) (c : CoreSt) := ∃ e, t = .next (s.withDev e) ∧ e.core k = c ∧
      e.hdr (pgCore k) = (if dEvt desc then (s.dev.hdr (pgCore k)).raised 2 else s.dev.hdr (pgCore k)) ∧
      s.dev.Kept e [.core k, .hdr (pgCore k), .hdr pgPart]
    (s.AtControl k 3 l x desc → done (exec (.loop k) s) (if c.creg r = 0 then goTo (x.cursor + 1) c
      else goTo (field desc 0x12 2) (c.setC r (c.creg r - 1)))) ∧
    (s.AtControl k 4 l x desc → done (exec (.br k) s) (if s.dev.branchHolds k l desc then goTo (field desc 0x12 2) c
      else goTo (x.cursor + 1) c)))) ∧
  (∀ (s : State) (k l : Nat) (x : ListSt) (desc : List Byte), x.cursor < x.last →
    (s.dev.core k).NextFits l →
    let now := s.dev.imprNum k
    let target := if bit (field desc 0x14 1) 0 then (now + field desc 0x10 4) % 2 ^ 32 else field desc 0x10 4
    let c := s.dev.core k
    let done (t : Host.Outcome State Fault Refusal) (c : CoreSt) := ∃ e, t = .next (s.withDev e) ∧ e.core k = c ∧
      e.hdr (pgCore k) = (if dEvt desc then (s.dev.hdr (pgCore k)).raised 2 else s.dev.hdr (pgCore k)) ∧
      s.dev.Kept e [.core k, .hdr (pgCore k), .hdr pgPart]
    (s.AtControl k 5 l x desc → s.dev.waitsForList k l desc = true →
      ∃ e, exec (.waitTick k) s = .next (s.withDev e) ∧ e.core k = c ∧
        e.reg (pgCore k) 0x11C = sat 32 (s.dev.reg (pgCore k) 0x11C + 1) ∧
        s.dev.Kept e [.reg (pgCore k) 0x11C, .hdr pgPart]) ∧
    (s.AtControl k 5 l x desc → s.dev.waitsForList k l desc = false → done (exec (.waitTick k) s)
      (if serialLater 32 now target then
        (c.modList l fun y => { y with cursor := x.cursor + 1, state := .parked, target, ready := false
                                       segClass := field desc 0x1C 1 % 16, segEnergy := field desc 0x18 4 }).passedOn
      else c.modList l fun y => { y with cursor := x.cursor + 1 })) ∧
    (s.AtControl k 6 l x desc → done (exec (.listEnd k) s)
      (c.modList l fun y => { y with cursor := x.cursor + 1, state := .ended }).passedOn))

/-- A control operation that is malformed (R196, R208: 0x0101), of a class but CONTROL (R210: 0x0104), that jumps outside its
list, or that is the list's last without being END (R199: 0x0108), abandons its list (R205): the error stands on the CORE page
with the list in ERR_INFO0, FAULT is raised, and the sequencer passes to the next admitted list. The model's own choices in
it: log entries 36, 37 and 38. -/
def Obligations.ControlErrors : Prop :=
  ∀ (s : State) (k op l : Nat) (x : ListSt) (desc : List Byte) (c : Instr) (code : Nat),
    (op, c) ∈ [(0, .nop k), (1, .set k), (2, .add k), (3, .loop k), (4, .br k), (5, .waitTick k), (6, .listEnd k)] →
    s.Stands k l x desc → dOp desc = op → l < 16 → x.cursor < 1024 → (s.dev.core k).NextFits l →
    (controlBad desc = true ∧ code = 0x0101 ∨
     controlBad desc = false ∧ dClass desc ≠ 0 ∧ code = 0x0104 ∨
     controlBad desc = false ∧ dClass desc = 0 ∧ (op = 3 ∨ op = 4) ∧ x.outside (field desc 0x12 2) = true ∧
       code = 0x0108 ∨
     controlBad desc = false ∧ dClass desc = 0 ∧ op = 0 ∧ x.cursor = x.last ∧ code = 0x0108) →
    ∃ e, exec c s = .next (s.withDev e) ∧
      ((e.core k).list l).state = .abandoned ∧ (e.core k).running = (s.dev.core k).todo.head? ∧
      (e.hdr (pgCore k)).errCode = code ∧ (e.hdr (pgCore k)).errInfo0.toNat / 2 ^ 28 = l ∧
      bit (e.hdr (pgCore k)).raw.toNat 1 = true ∧
      s.dev.Kept e [.core k, .hdr (pgCore k), .hdr pgPart, .hdr pgDbg, .log, .reg (pgCore k) 0x120]

/-- A compute command that no check rejects issues (R200, R201): it stands in flight behind the core's earlier commands with the
next sequence number, its descriptor resolved, and the cursor goes on by one. Nothing else changes: its unit starts it in a
later step. The model's own choices in it: log entry 38. -/
def Obligations.ComputeIssue : Prop :=
  ∀ (s : State) (k l : Nat) (x : ListSt) (raw : List Byte) (c : Instr) (fits : List Byte → Bool),
    (c, fits) ∈ [(.fMatmul k, opIn [0x10]), (.fused k, opIn [0x11]), (.bMatmul k, opIn [0x18]), (.bAdd k, opIn [0x19]),
      (.convert k, fun r => opIn [0x20] r && !(CvtB.parse r).calibrated),
      (.convertCalibrated k, fun r => dOp r == 0x20 && (CvtB.parse r).calibrated),
      (.rowNormFwd k, opIn [0x21]), (.rowNormBwd k, opIn [0x22]), (.rowSoftmaxFwd k, opIn [0x23]),
      (.rowSoftmaxBwd k, opIn [0x24]), (.rowAct k, opIn [0x25]), (.rowDraw k, opIn [0x26])] →
    s.Accepts k l x raw → fits raw = true → x.cursor < x.last →
    let cmd := s.dev.issueCmd k l x raw
    cmd.seq = (s.dev.core k).seqNext ∧ cmd.desc = resolve (s.dev.core k) raw ∧ cmd.list = l ∧ cmd.idx = x.cursor ∧
    ∃ e, exec c s = .next (s.withDev e) ∧ e.core k = (s.dev.core k).issuedWith cmd ∧ s.dev.Kept e [.core k, .hdr pgPart]

/-- MSG.SEND and MSG.RECV issue (R220): the send is on its way to its destination; the receive, with no arrival that it accepts,
stands behind the receives posted before it. The model's own choices in it: log entries 38 and 39. -/
def Obligations.MessageIssue : Prop :=
  ∀ (s : State) (k l : Nat) (x : ListSt) (raw : List Byte), s.Accepts k l x raw → x.cursor < x.last →
    let cmd := s.dev.issueCmd k l x raw
    let b := MsgB.parse cmd.desc
    let q := s.dev.core k
    (dOp raw = 0x30 → ∃ e, exec (.msgSend k) s = .next (s.withDev e) ∧
      e.flights = s.dev.flights ++ [⟨k, q.seqNext, b.peer, b.tag, b.len, b.addr, []⟩] ∧
      (e.core k).seqNext = (q.seqNext + 1) % 2 ^ 32 ∧ ((e.core k).list l).cursor = x.cursor + 1 ∧
      s.dev.Kept e [.core k, .flights, .hdr pgPart]) ∧
    (dOp raw = 0x31 → takeArrival ⟨q.seqNext, b.any, b.peer, b.tag, b.len, b.addr, b.lenToC⟩ q.arrivals = none →
      ∃ e, exec (.msgRecv k) s = .next (s.withDev e) ∧
        (e.core k).recvs = q.recvs ++ [⟨q.seqNext, b.any, b.peer, b.tag, b.len, b.addr, b.lenToC⟩] ∧
        (e.core k).arrivals = q.arrivals ∧
        (e.core k).seqNext = (q.seqNext + 1) % 2 ^ 32 ∧ ((e.core k).list l).cursor = x.cursor + 1 ∧
        s.dev.Kept e [.core k, .hdr pgPart])

/-- DMA.COPY, DMA.TCOPY and the DRAIN form issue (R262, R266). A descriptor that moves data enters the queue of the engine it
names; with BG set and DRAIN clear it retires there and then, and otherwise it stays in flight. A DRAIN that moves none only
waits in flight. The model's own choices in it: log entry 38. -/
def Obligations.DmaIssue : Prop :=
  ∀ (s : State) (k l : Nat) (x : ListSt) (raw : List Byte) (c : Instr) (fits : List Byte → Bool),
    (c, fits) ∈ [(.dmaCopy k, fun r => dOp r == 0x38 && !(DmaB.parse r).drain),
      (.dmaTcopy k, fun r => dOp r == 0x39 && !(DmaB.parse r).drain),
      (.dmaDrain k, fun r => (dOp r == 0x38 || dOp r == 0x39) && (DmaB.parse r).drain)] →
    s.Accepts k l x raw → fits raw = true → x.cursor < x.last →
    let cmd := s.dev.issueCmd k l x raw
    let b := DmaB.parse cmd.desc
    let i := dmaIdx (coreDie k) b.engine
    let bg := dBg cmd.desc
    ∃ e, exec c s = .next (s.withDev e) ∧ (e.core k).seqNext = ((s.dev.core k).seqNext + 1) % 2 ^ 32 ∧
      ((e.core k).list l).cursor = x.cursor + 1 ∧
      (b.empty = false → e.dma i = { s.dev.dma i with queue := (s.dev.dma i).queue ++ [⟨k, cmd.seq, l, cmd.desc, bg⟩] }) ∧
      (b.empty = true → e.dma i = s.dev.dma i) ∧
      (b.empty = false → bg = true → b.drain = false →
        (e.core k).cmd? cmd.seq = none ∧ (e.core k).seqRetired = cmd.seq) ∧
      ((b.empty = true ∨ bg = false ∨ b.drain = true) → ∃ y ∈ (e.core k).cmds, y.seq = cmd.seq ∧ y.started = true) ∧
      s.dev.KeptOutside e fun p => p.retireOf k || p == .dma i || p == .hdr (pgDma (coreDie k) b.engine)

/-- GAUGE.SET does its work as it issues, where no command in flight uses its slots and its source reads well, and retires (R106,
R112, R113, R116, R127). IMAGE_LOAD loads every image that is a legal slot and no other; MERGE folds each record into the slot
it names, where that is in use under the record's tag; CLEAR_COUNTERS and CLEAR_HISTORY clear the slots they name. GAUGE.READ
writes the images or the summary records of the slots it names, one after another from its address, and retires (R106, R112).
With command records off, those bytes are its only store. The model's own choices in it: log entries 34 and 38. -/
def Obligations.GaugeCommands : Prop :=
  (∀ (s : State) (k l : Nat) (x : ListSt) (raw : List Byte), s.Accepts k l x raw → x.cursor < x.last →
    dOp raw = 0x3C →
    let cmd := s.dev.issueCmd k l x raw
    let b := MsgB.parse cmd.desc
    let q := s.dev.core k
    let image (i : Nat) := s.dev.read (b.addr + 192 * i) 192
    let record (i : Nat) := s.dev.read (b.addr + 16 * i) 16
    s.dev.gaugeMustWait k cmd.desc = false →
    let ran (c : Instr) (P : Dev → Prop) := ∃ e, exec c s = .next (s.withDev e) ∧
      (e.core k).seqNext = (q.seqNext + 1) % 2 ^ 32 ∧ (e.core k).seqRetired = cmd.seq ∧ (e.core k).cmd? cmd.seq = none ∧
      P e ∧ s.dev.KeptOutside e fun p => p.retireOf k || p == .hdr (pgGauge k)
    (field raw 0x1E 2 = 0 → b.tag = 0 → s.dev.badAt b.addr (192 * b.len) = none → ran (.gaugeSetImageLoad k) fun e =>
      (∀ i < b.len, (∀ c : CoreSt, c.slotBad (b.peer + i) (GSlot.ofImage (image i)) 0 0xBF = none) →
        (e.core k).slot (b.peer + i) = GSlot.ofImage (image i)) ∧
      (∀ i < b.len, (∀ c : CoreSt, c.slotBad (b.peer + i) (GSlot.ofImage (image i)) 0 0xBF ≠ none) →
        (e.core k).slot (b.peer + i) = q.slot (b.peer + i)) ∧
      ∀ j, (j < b.peer ∨ b.peer + b.len ≤ j) → (e.core k).slot j = q.slot j) ∧
    (field raw 0x1E 2 = 1 → b.tag = 1 → s.dev.badAt b.addr (16 * b.len) = none → ran (.gaugeSetMerge k) fun e =>
      ∀ j, (e.core k).slot j = (List.range b.len).foldl (fun g i =>
        if field (record i) 0x0C 2 % 512 = j ∧ g.used = true ∧ g.tag = field (record i) 0 4 then g.fold (record i) else g)
        (q.slot j)) ∧
    (field raw 0x1E 2 = 2 → b.tag = 2 → ran (.gaugeSetClearCounters k) fun e =>
      ∀ j, (e.core k).slot j = if b.peer ≤ j ∧ j < b.peer + b.len then (q.slot j).clearCounters else q.slot j) ∧
    (field raw 0x1E 2 = 3 → b.tag = 3 → ran (.gaugeSetClearHistory k) fun e =>
      ∀ j, (e.core k).slot j = if b.peer ≤ j ∧ j < b.peer + b.len then (q.slot j).clearHistory else q.slot j)) ∧
  (∀ (s : State) (k l : Nat) (x : ListSt) (raw : List Byte), s.Accepts k l x raw → x.cursor < x.last →
    dOp raw = 0x3D →
    let cmd := s.dev.issueCmd k l x raw
    let b := MsgB.parse cmd.desc
    let q := s.dev.core k
    let ran (c : Instr) (bytes : Nat → List Byte) := ∃ e, exec c s = .next (s.withDev e) ∧
      (e.core k).seqNext = (q.seqNext + 1) % 2 ^ 32 ∧ (e.core k).seqRetired = cmd.seq ∧ (e.core k).cmd? cmd.seq = none ∧
      (bit (s.dev.reg (pgCnt k) 0x104) 31 = false →
        e.mem = (s.dev.write b.addr ((List.range b.len).flatMap fun i => bytes (b.peer + i))).mem) ∧
      (∀ j, (e.core k).slot j = q.slot j) ∧ s.dev.KeptOutside e fun p => p.retireOf k
    (field raw 0x1E 2 = 0 → b.tag = 0 → ran (.gaugeReadImages k) fun i => (q.slot i).image) ∧
    (field raw 0x1E 2 = 1 → b.tag = 1 → ran (.gaugeReadSummary k) fun i => (q.slot i).summary i))

/-- PLATEN.SUBMIT in each phase enters the queue of its parameters' stack and retires (R272, R279); its DRAIN form waits in flight
(R275). The model's own choices in it: log entries 38 and 41. -/
def Obligations.PlatenIssue : Prop :=
  ∀ (s : State) (k l : Nat) (x : ListSt) (raw : List Byte), s.Accepts k l x raw → x.cursor < x.last →
    dOp raw = 0x40 →
    let cmd := s.dev.issueCmd k l x raw
    let b := PltB.parse raw
    let st := stackOf (PltB.parse cmd.desc).p
    (∀ c, (c, b.phase) ∈ [(Instr.platenSubmit k, 0), (.platenSubmitLambNorm k, 1), (.platenSubmitLambApply k, 2)] →
      b.drain = false → (PltB.parse cmd.desc).drain = false →
      ∃ e, exec c s = .next (s.withDev e) ∧
        e.platen st = { s.dev.platen st with queue := (s.dev.platen st).queue ++ [⟨k, cmd.seq, cmd.desc⟩] } ∧
        (e.core k).seqNext = ((s.dev.core k).seqNext + 1) % 2 ^ 32 ∧ (e.core k).seqRetired = cmd.seq ∧
        (e.core k).cmd? cmd.seq = none ∧ s.dev.KeptOutside e fun p => p.retireOf k || p == .platen st) ∧
    (b.drain = true → (PltB.parse cmd.desc).drain = true → ∃ e, exec (.platenDrain k) s = .next (s.withDev e) ∧
      (e.core k).seqNext = ((s.dev.core k).seqNext + 1) % 2 ^ 32 ∧
      (∃ y ∈ (e.core k).cmds, y.seq = cmd.seq ∧ y.complete = true) ∧ s.dev.Kept e [.core k, .hdr pgPart])

/-- MESSAGE_ARRIVAL (R220–R222). A message waits while its destination's table of unmatched arrivals is full. One that no receive
of its destination takes enters that table. One that a receive takes with room for it is copied to the receive's address, as
it stands in the sender's buffer, and both commands have done their work; LEN goes to the register the receive names. One
longer than the receive's bound moves nothing, and the receive ends with 0x0109. The model's own choices in it: log entry 39.
-/
def Obligations.MessageMeets : Prop :=
  ∀ (s : State) (src seq : Nat) (f : Send), s.Up →
    s.dev.flights.find? (fun m => m.src == src && m.seq == seq) = some f →
    s.dev.flights.find? (fun m => m.src == f.src && m.dest == f.dest) = some f →
    s.dev.meshOpen (placeDie f.src) (placeDie f.dest) = true →
    (s.dev.die (placeDie f.src)).part = (s.dev.die (placeDie f.dest)).part → f.dest < 0x7F8 →
    let gone := s.dev.flights.filter fun m => !(m.src == src && m.seq == seq)
    let q := s.dev.core f.dest
    let bytes := s.dev.read f.addr f.len
    (32 ≤ q.arrivals.length → exec (.messageArrival src seq) s = .next s) ∧
    (takeRecv f q.recvs = none → q.arrivals.length < 32 → ∃ e, exec (.messageArrival src seq) s = .next (s.withDev e) ∧
      e.flights = gone ∧ e.core f.dest = { q with arrivals := q.arrivals ++ [f] } ∧
      s.dev.Kept e [.core f.dest, .flights]) ∧
    (∀ r rs rc, takeRecv f q.recvs = some (r, rs) → q.arrivals.length < 32 → q.cmd? r.seq = some rc → f.len ≤ r.bound →
      f.src < numCores → s.dev.badAt f.addr f.len = none → ∃ e, exec (.messageArrival src seq) s = .next (s.withDev e) ∧
        e.flights = gone ∧ (e.core f.dest).recvs = rs ∧ e.mem = (s.dev.write r.addr bytes).mem ∧
        (∃ y ∈ (e.core f.dest).cmds, y.seq = r.seq ∧ y.complete = true) ∧
        (∀ i, r.lenToC = some i → (e.core f.dest).creg i = f.len % 2 ^ 32) ∧
        (∀ sc, (s.dev.core f.src).cmd? f.seq = some sc → ∃ y ∈ (e.core f.src).cmds, y.seq = f.seq ∧ y.complete = true) ∧
        s.dev.KeptOutside e fun p => p == .core f.dest || p == .core f.src || p == .flights || p == .mem ||
          p == .cow (stackOf r.addr)) ∧
    (∀ r rs rc, takeRecv f q.recvs = some (r, rs) → q.arrivals.length < 32 → q.cmd? r.seq = some rc → r.bound < f.len →
      ∃ e, exec (.messageArrival src seq) s = .next (s.withDev e) ∧ e.flights = gone ∧ (e.core f.dest).recvs = rs ∧
        (∃ y ∈ (e.core f.dest).cmds, y.seq = r.seq ∧ y.complete = true ∧ y.err.map (·.code) = some 0x0109) ∧
        s.dev.KeptOutside e fun p => p == .core f.dest || p == .core f.src || p == .flights || p == .log ||
          p == .hdr (pgCore f.dest) || p == .hdr (pgCore f.src) || p == .hdr pgDbg)

/-- PASS_START and TILE_CONVERT get work done (R74, R91, R105, R117). An array whose front command has work, a staging buffer and,
for the B-array, no F-array command holding it, starts the command's next unit: the unit counts as started, or the command
ends with an error. A pass of a matrix product whose operands are in order does complete: its rescaled results stand staged
behind the command's other tiles. A converter with a staged tile, the lane generators where it draws, and its turn at the slab
it updates takes the oldest tile, and counts its unit committed, or the command ends with an error. A tile of a command that
names no slab and is in no first pass of calibration, whose entries the sort list has room for, does complete: it stands
converted at its destination, its entries before it in the sort list, with the dx tiles of its unit. The row caster does the
next unit of its front command likewise. Nothing outside the compute blocks of the core and memory changes. The model's own
choices in it: log entries 40, 43, 86, 87, 89 and 90. -/
def Obligations.ComputeProgress : Prop :=
  ∀ (s : State) (k : Nat) (x : Cmd), s.CoreRuns k →
    let q := s.dev.core k
    let lanes (u : Nat) := q.laneHolder = u ∨ (q.laneHolder = 0 ∧ q.laneWait = [] ∧ q.lanesBefore u = [])
    let did (c : Instr) (P : Cmd → Prop) := ∃ e y, exec c s = .next (s.withDev e) ∧ (e.core k).cmd? x.seq = some y ∧
      y.desc = x.desc ∧ (P y ∨ y.err.isSome = true) ∧ s.dev.KeptOutside e (Place.computeOf k)
    (∀ y ∈ q.cmds, y.seq = x.seq → y = x) →
    (∀ arr, q.front arr = some x → (arr = 0 ∨ arr = 1) →
      (s.dev.hdr (if arr = 0 then pgFwd k else pgBwd k)).enable = true → (arr = 1 → q.held = false) →
      q.staging x.convUnit < (if x.convUnit = 0 then 4 else 2) →
      (dOp x.desc = 0x19 → (extOf x.desc x.ext).srcs.take (AddB.parse x.desc).nsrc ≠ []) →
      did (.passStart k arr) (fun y => y.pos = x.pos + 1) ∧
      (∀ p o, s.dev.PassGives k x p o → (modesOf x.desc).pOut = false →
        ∃ e y st, exec (.passStart k arr) s = .next (s.withDev e) ∧ (e.core k).cmd? x.seq = some y ∧
          y.pos = x.pos + 1 ∧ y.err = x.err ∧ y.staged = x.staged ++ [(q.stamp, x.pos, st)] ∧
          st.rows = p.rows ∧ st.cols = p.cols ∧ st.vals = rescalePass x x.pos o.y ∧ e.mem = s.dev.mem)) ∧
    (∀ u n i st, (u = 0 ∨ u = 1) → q.oldest u = some (x, n, i, st) → q.slabWaits x = false →
      (q.drawsNow x = true → lanes (u + 1)) → did (.tileConvert k u) fun y => y.done = x.done + 1 ∧ y.staged = x.staged.tail) ∧
    (∀ u n i st, (u = 0 ∨ u = 1) → q.oldest u = some (x, n, i, st) → q.slabWaits x = false →
      (q.drawsNow x = true → lanes (u + 1)) → q.firstPass x = false → slabTiles (dOp x.desc) (extOf x.desc x.ext) = false →
      let b := extOf x.desc x.ext
      let o := convertTile { x.conv with key := { x.conv.key with tag := st.tag } } st
      let es := if o.tile.hdr.fmt = 1 then o.entries else []
      (es = [] ∨ x.sortUsed + es.length ≤ b.sortOutBound) →
      let idx := if o.tile.hdr.fmt = 1 then b.sortOutFirst + x.sortUsed else 0
      let tile : Tile := { o.tile with hdr := { o.tile.hdr with sortIndex := idx } }
      let sorted := if es = [] then s.dev else s.dev.write (b.sortOut + 2 * idx) (es.flatMap (natLe 2))
      ∃ e y, exec (.tileConvert k u) s = .next (s.withDev e) ∧ (e.core k).cmd? x.seq = some y ∧
        y.done = x.done + 1 ∧ y.staged = x.staged.tail ∧ y.err = x.err ∧ y.sortUsed = x.sortUsed + es.length ∧
        e.mem = ((sorted.write (x.destOf i) tile.bytes).writeAll ((x.dxTiles.filter fun w => w.1 == i).map (·.2))).mem) ∧
    (q.rowFront = some x → (s.dev.hdr (pgRow k)).enable = true → q.slabWaits x = false →
      ((q.drawsNow x || rowDraws x) = true → lanes 3) →
      did (.tileConvert k 2) fun y => y.pos = x.pos + 1)

/-- LANE_GENERATORS_ACQUIRE (R180): free generators pass to the holder that has waited longest, and to no other.
GLOBAL_RECAST_UPDATE (R125): the core's ALL_RECAST reaches the partition; GLOBAL_RECAST rises with its condition, is then
reported on the GOV page, and does not fall. -/
def Obligations.LanesAndRecast : Prop :=
  (∀ (s : State) (k h : Nat), s.CoreRuns k → 1 ≤ h ∧ h ≤ 3 →
    let q := s.dev.core k
    ∃ e, exec (.laneGeneratorsAcquire k h) s = .next (s.withDev e) ∧
      e.core k = (if q.laneHolder = 0 ∧ q.laneWait.head? = some h then
        { q with laneHolder := h, laneWait := q.laneWait.tail } else q) ∧
      s.dev.Kept e [.core k, .hdr pgPart]) ∧
  (∀ (s : State) (k p : Nat), s.CoreRuns k → s.dev.partOf k = some p → p < 4 →
    ∃ e, exec (.globalRecastUpdate k) s = .next (s.withDev e) ∧
      e.core k = { s.dev.core k with allRecast := (s.dev.core k).assertsAll } ∧
      e.part p = { s.dev.part p with
        globalRecast := (s.dev.part p).globalRecast || e.globalCondition p, orders := (e.part p).orders } ∧
      ((s.dev.part p).globalRecast = false → e.globalCondition p = true →
        bit (e.hdr pgGov).raw.toNat (4 * p + 3) = true) ∧
      s.dev.KeptOutside e fun x => match x with | .core j => j == k | .part j => j == p | .hdr _ => true | _ => false)

/-- COMMAND_RETIRE (R203–R207): a command whose completion condition is met leaves the core's commands in flight, and the last
number retired follows. Event CMD is raised where EVT asks. An error acts on the list as CONT says: ERR under CONT 1; under
CONT 0 the list is abandoned. The model's own choices in it: log entries 9 and 37. -/
def Obligations.CommandRetires : Prop :=
  ∀ (s : State) (k seq : Nat) (c : Cmd), s.CoreRuns k → (s.dev.core k).cmd? seq = some c → s.dev.mayRetire k c = true →
    ∃ e, exec (.commandRetire k seq) s = .next (s.withDev e) ∧
      (e.core k).cmd? seq = none ∧ (e.core k).seqRetired = seq ∧
      (dEvt c.desc = true → bit (e.hdr (pgCore k)).raw.toNat 2 = true) ∧
      (c.err.isSome = true → dCont c.desc = true → ((e.core k).list c.list).err = true) ∧
      (c.err.isSome = true → dCont c.desc = false → (s.dev.core k).NextFits c.list →
        ((e.core k).list c.list).state = .abandoned) ∧
      s.dev.KeptOutside e fun p => p.fabricOf k || p == .bgFailed || p == .platen (stackOf (PltB.parse c.desc).p)

/-- DMA_TRANSFER_START and DMA_TRANSFER_DONE (R262–R269). An idle, enabled engine that nothing holds starts the oldest descriptor
of its queue, unless one of its ranges touches a proof reserve (then it ends with 0x0702) or its destination lies in a save
area that a proof holds (0x0102). When the transfer is done a copy's rows stand at their destinations, each as it stood at its
source when it was its turn, and nowhere else is memory changed; the engine is idle, the bytes and the descriptor are counted.
The model's own choices in it: log entries 42 and 43. -/
def Obligations.DmaTransfer : Prop :=
  ∀ (s : State) (c n : Nat) (j : DmaJob), s.Up → c < 4 → n < 16 → s.dev.dieHeld c = false → s.dev.dieCut c = false →
    let i := dmaIdx c n
    let x := s.dev.dma i
    let b := DmaB.parse j.desc
    (∀ rest, x.queue = j :: rest → x.running = none → (s.dev.hdr (pgDma c n)).enable = true →
      ∃ e, exec (.dmaTransferStart c n) s = .next (s.withDev e) ∧ (e.dma i).queue = rest ∧ (e.dma i).curSeq = j.seq ∧
        (e.dma i).curCore = j.core ∧
        (s.dev.touchesReserve b.ranges.1.1 b.ranges.1.2 = false → s.dev.touchesReserve b.ranges.2.1 b.ranges.2.2 = false →
          s.dev.inHold b.ranges.2.1 b.ranges.2.2 = false → (e.dma i).running = some j ∧ s.dev.Kept e [.dma i]) ∧
        (s.dev.touchesReserve b.ranges.1.1 b.ranges.1.2 = false → s.dev.touchesReserve b.ranges.2.1 b.ranges.2.2 = false →
          s.dev.inHold b.ranges.2.1 b.ranges.2.2 = true →
          (e.dma i).running = none ∧ (e.hdr (pgDma c n)).errCode = 0x0102) ∧
        (s.dev.touchesReserve b.ranges.1.1 b.ranges.1.2 = true ∨ s.dev.touchesReserve b.ranges.2.1 b.ranges.2.2 = true →
          (e.dma i).running = none ∧ (e.hdr (pgDma c n)).errCode = 0x0702)) ∧
    (x.running = some j → ∃ e, exec (.dmaTransferDone c n) s = .next (s.withDev e) ∧
      (e.dma i).running = none ∧ (e.dma i).queue = x.queue ∧
      (b.tcopy = false → x.done = 0 → s.dev.inHold b.ranges.2.1 b.ranges.2.2 = false →
        (∀ r < b.rows, s.dev.keepAny (b.dst + r * b.dpitch) b.len = none ∧
          s.dev.firstBad (b.src + r * b.spitch) b.len = none) →
        e.mem = ((List.range b.rows).foldl (fun d r =>
          d.write (b.dst + r * b.dpitch) (d.read (b.src + r * b.spitch) b.len)) s.dev).mem ∧
        e.reg64 (pgDma c n) 0x110 = (s.dev.reg64 (pgDma c n) 0x110 + b.rows * b.len) % 2 ^ 64 ∧
        e.reg (pgDma c n) 0x118 = sat 32 (s.dev.reg (pgDma c n) 0x118 + 1) ∧
        s.dev.KeptOutside e fun p => match p with
          | .dma m => m == i | .core m => m == j.core | .hdr g => g == pgDma c n | .reg g _ => g == pgDma c n
          | .mem | .cow _ => true | _ => false))

/-- PLATEN_UPDATE_START and PLATEN_UPDATE_DONE (R274, R275). An idle, enabled Platen that nothing holds takes the oldest submit of
its queue with the profile as it then stands, and runs it where the profile is enabled and fits its phase. When the update is
done the Platen is idle; its submit is counted, or it is noted for its core's next DRAIN. It is counted wherever its remaining
tiles pass their checks: memory then stands as the tiles left it, with the two norm sums at AUX after a LAMB norm pass. A last
tile whose pair reads well and fits is such a case, and its valid elements are counted. The model's own choices in it: log
entries 41, 42 and 43. -/
def Obligations.PlatenUpdate : Prop :=
  ∀ (s : State) (st : Nat) (j : PlatenJob), s.Up → st < 8 → s.dev.dieHeld (st / 2) = false →
    let x := s.dev.platen st
    let b := PltB.parse j.desc
    let prof := (List.range 6).map fun i => BitVec.ofNat 32 (s.dev.reg (pgPlaten st) (0x200 + 32 * b.profile + 4 * i))
    let cfg := (prof.headD 0#32).toNat
    (∀ rest, x.queue = j :: rest → x.running = none → (s.dev.hdr (pgPlaten st)).enable = true →
      ∃ e, exec (.platenUpdateStart st) s = .next (s.withDev e) ∧ (e.platen st).queue = rest ∧
        (e.platen st).profile = prof ∧ (e.platen st).curSeq = j.seq ∧
        (bit cfg 31 = true → phaseFits (cfg % 8) b.phase = true → (kindUsesM2 (cfg % 8) = true → b.step ≠ 0) →
          b.phase ≠ 2 → (e.platen st).running = some j ∧ s.dev.Kept e [.platen st]) ∧
        ((bit cfg 31 = false ∨ phaseFits (cfg % 8) b.phase = false ∨ (kindUsesM2 (cfg % 8) = true ∧ b.step = 0)) →
          (e.platen st).running = none ∧ (e.hdr (pgPlaten st)).errCode = 0x0802 ∧
          (j.core, j.seq) ∈ (e.platen st).failed)) ∧
    (x.running = some j → ∃ e, exec (.platenUpdateDone st) s = .next (s.withDev e) ∧
      (e.platen st).running = none ∧ (e.platen st).queue = x.queue ∧
      (e.reg (pgPlaten st) 0x118 = sat 32 (s.dev.reg (pgPlaten st) 0x118 + 1) ∨ (j.core, j.seq) ∈ (e.platen st).failed) ∧
      ∀ m, e.core m = s.dev.core m ∧ (m ≠ st → e.platen m = s.dev.platen m) ∧ e.dma m = s.dev.dma m) ∧
    (x.running = some j →
      let r := s.dev.platenTiles st j b (pltConsts x b) (b.count - x.next) x.next { sp := x.sp, sq := x.sq }
      let ends (c : Instr) (P : Dev → Prop) := ∃ e, exec c s = .next (s.withDev e) ∧
        e.platen st = { x with running := none, next := 0, sp := 0#64, sq := 0#64 } ∧
        e.reg (pgPlaten st) 0x118 = sat 32 (s.dev.reg (pgPlaten st) 0x118 + 1) ∧ P e
      (r.2.2 = none → b.phase ≠ 1 → ends (.platenUpdateDone st) fun e => e.mem = r.1.mem) ∧
      (r.2.2 = none → b.phase = 1 → r.1.inHold b.aux 16 = false → ends (.platenUpdateDone st) fun e =>
        e.mem = (r.1.write b.aux (natLe 8 r.2.1.sp.toNat ++ natLe 8 r.2.1.sq.toNat)).mem) ∧
      (b.count = x.next + 1 → s.dev.PairReady b (pltConsts x b).kind x.next → b.phase ≠ 1 →
        let ph := s.dev.hdrAt (b.p + x.next * b.pStride)
        ends (.platenUpdateDone st) fun e =>
          e.reg64 (pgPlaten st) 0x110 = (s.dev.reg64 (pgPlaten st) 0x110 + ph.rows * ph.cols) % 2 ^ 64))

/-- The galleys' own events (R236, R237, R240, R241), at a core none of whose galleys has a command in flight. The oldest flit on
the mesh for the galley that is the first of its route, from the source the galley is set to take from, enters its head where
nothing is queued behind; credits returned add to its own; a consumer that is the next galley takes up the slug at the front
once enough of it is there, and its slots go to the mesh one by one, each for one credit; a slot of the spill ring moves to
the head as it lies in memory. -/
def Obligations.GalleyEvents : Prop :=
  ∀ (s : State) (k g : Nat), s.CoreRuns k → g < 16 → (s.dev.core k).GalleysQuiet →
    let x := (s.dev.core k).galley g
    let at_ (e : Dev) := (e.core k).galley g
    (∀ m, s.dev.flitFor k g = some m →
      s.dev.meshOpen (coreDie m.srcCore) (coreDie k) = true → x.en = true → x.src = 1 → x.srcCore = m.srcCore →
      x.srcGalley = m.srcGalley → m.flit.abort = false → (x.resync = false ∨ m.flit.sos = true) →
      x.ring = [] → x.tail = [] → x.head.length < 8 →
      ∃ e, exec (.galleyFlitArrival k g) s = .next (s.withDev e) ∧ (at_ e).head = x.head ++ [m.flit] ∧
        (at_ e).tail = [] ∧ (at_ e).resync = false ∧ e.vc2 = s.dev.vc2.erase m ∧
        (at_ e).pushCnt = (if m.flit.eos then sat 32 (x.pushCnt + 1) else x.pushCnt) ∧
        s.dev.Kept e [.core k, .mesh, .hdr pgPart]) ∧
    (∀ m, s.dev.creditFor k g = some m → s.dev.meshOpen (coreDie m.srcCore) (coreDie k) = true →
      ∃ e, exec (.galleyCreditArrival k g) s = .next (s.withDev e) ∧ at_ e = { x with credit := x.credit + m.n } ∧
        e.vc0 = s.dev.vc0.erase m ∧ s.dev.Kept e [.core k, .mesh, .hdr pgPart]) ∧
    (x.canBegin = true → x.sink = 1 → ∃ e, exec (.galleyConsumerStart k g) s = .next (s.withDev e) ∧
      (at_ e).taking = true ∧ (at_ e).taken = 0 ∧ (at_ e).head = x.head ∧
      s.dev.Kept e [.core k, .hdr (pgGalley k), .reg (pgCnt k) (0x140 + 4 * g), .hdr pgPart]) ∧
    (∀ f fs, x.en = true → x.sink = 1 → s.dev.holds k = false → x.owesAbort = false → x.taking = true →
      x.head = f :: fs → 0 < x.credit → x.tail = [] → x.src = 0 →
      ∃ e, exec (.galleyForwardFlit k g) s = .next (s.withDev e) ∧ (at_ e).head = fs ∧ (at_ e).credit = x.credit - 1 ∧
        e.vc2 = s.dev.vc2 ++ [{ core := x.destCore, galley := x.destGalley, srcCore := k, srcGalley := g, flit := f }] ∧
        s.dev.Kept e [.core k, .mesh, .hdr pgPart]) ∧
    (∀ r rs, x.ring = r :: rs → x.head.length < 8 → s.dev.badAt (x.ringBase + 64 * r.place) 64 = none → x.tail = [] →
      ∃ e, exec (.galleyRingRead k g) s = .next (s.withDev e) ∧ (at_ e).ring = rs ∧
        (at_ e).head = x.head ++ [⟨s.dev.read (x.ringBase + 64 * r.place) 64, r.valid, r.sos, r.eos, false, r.poison⟩] ∧
        s.dev.Kept e [.core k, .hdr pgPart])

/-- GALLEY.PUSH and GALLEY.POP issue as any command does (R234, R238), at a core none of whose galleys has one in flight: a push
of a slug that fits one slot, into an empty galley, leaves that slot, its header before its payload, at the head and has done
its work; a pop is started and waits for its slug. The model's own choices in it: log entries 38 and 39. -/
def Obligations.GalleyIssue : Prop :=
  ∀ (s : State) (k l : Nat) (x : ListSt) (raw : List Byte), s.Accepts k l x raw → x.cursor < x.last →
    (s.dev.core k).GalleysQuiet →
    let cmd := s.dev.issueCmd k l x raw
    let b := MsgB.parse cmd.desc
    let q := s.dev.core k
    (∀ y ∈ q.cmds, y.seq ≠ q.seqNext) →
    (dOp raw = 0x34 → dOp cmd.desc = 0x34 → b.len ≤ 48 → s.dev.badAt b.addr b.len = none →
      (q.galley b.peer).head = [] → (q.galley b.peer).ring = [] → (q.galley b.peer).tail = [] →
      ∃ e, exec (.galleyPush k) s = .next (s.withDev e) ∧
        ((e.core k).galley b.peer).head =
          [⟨slugHeader k b.peer (s.dev.imprNum k) cmd ++ s.dev.read b.addr b.len, 16 + b.len, true, true, false, false⟩] ∧
        (∃ y ∈ (e.core k).cmds, y.seq = cmd.seq ∧ y.complete = true) ∧
        (e.core k).seqNext = (q.seqNext + 1) % 2 ^ 32 ∧ ((e.core k).list l).cursor = x.cursor + 1 ∧
        s.dev.Kept e [.core k, .hdr pgPart]) ∧
    (dOp raw = 0x35 → dOp cmd.desc = 0x35 → (q.galley b.peer).taking = false →
      ∃ e, exec (.galleyPop k) s = .next (s.withDev e) ∧
        (∃ y ∈ (e.core k).cmds, y.seq = cmd.seq ∧ y.started = true ∧ y.complete = false) ∧
        (∀ g, (e.core k).galley g = q.galley g) ∧
        (e.core k).seqNext = (q.seqNext + 1) % 2 ^ 32 ∧ ((e.core k).list l).cursor = x.cursor + 1 ∧
        s.dev.Kept e [.core k, .hdr pgPart])

/-- Writes to the common header of a page that answers (R448, R472, R475), the DBG page only while debug is open: ERR_CLR clears
the error fields; EVT_FLAG clears the raw and flag bits written 1; EVT_FORCE raises the assigned bits written 1, and the flags
of those that EVT_EN selects; EVT_EN holds the assigned bits; CTRL without RESET stores FREEZE_MASK, and ENABLE where the page
honours it. Each changes that header and nothing else. A write to a page that does not answer, to an offset outside it or to
part of a word, changes nothing (R9, R469). The model's own choices in it: log entry 55. -/
def Obligations.HeaderWrites : Prop :=
  (∀ (s : State) (page : Nat) (w : Word), s.Up → s.dev.pageLive page = true → (page ≠ pgDbg ∨ s.chip.sec.debugOpen = true) →
    let h := s.dev.hdr page
    let did (c : Instr) (P : Hdr → Prop) := ∃ e, exec c s = .next (s.withDev e) ∧ P (e.hdr page) ∧ s.dev.Kept e [.hdr page]
    did (.errClr page w) (· = { h with errCode := 0, errInfo0 := 0#32, errInfo1 := 0#32 }) ∧
    did (.evtFlagClear page w) (· = { h with raw := h.raw &&& ~~~w, flag := h.flag &&& ~~~w }) ∧
    did (.evtForce page w) (fun g =>
      (∀ b < 32, bit g.raw.toNat b = (bit h.raw.toNat b || (bit w.toNat b && bit (eventBits page) b))) ∧
      (∀ b < 32, bit g.flag.toNat b =
        (bit h.flag.toNat b || (bit w.toNat b && bit (eventBits page) b && bit h.en.toNat b))) ∧
      g = { h with raw := g.raw, flag := g.flag }) ∧
    did (.registerWrite page 0x014 w) (· = { h with en := w &&& BitVec.ofNat 32 (eventBits page) }) ∧
    (bit w.toNat 1 = false → did (.enable page w) (· =
      { h with freezeMask := bit w.toNat 2, enable := if honoursEnable page then bit w.toNat 0 else h.enable }))) ∧
  (∀ (s : State) (page off : Nat) (w : Word),
    (s.chip.pow.up = false ∨ s.dev.pageLive page = false ∨ off % 4 ≠ 0 ∨ 0x1000 ≤ off) →
    exec (.registerWrite page off w) s = .next s)

/-- SOFT_RESET (R473). A refused one sets the page's code and changes no more than an error does. One that is accepted puts a
core's lists, registers and running list back, a Gauge's slots, the slabs and taps of a BWD page, the galleys of a GALLEY
page, and the counters of the pages that have only those; it leaves every other core alone. The model's own choices in it: log
entries 55 and 56. -/
def Obligations.SoftReset : Prop :=
  ∀ (s : State) (page : Nat) (w : Word), s.Up → s.dev.pageLive page = true → page ≠ pgDbg → bit w.toNat 1 = true →
    let k := pageInstance page
    (∀ i, s.dev.resetRefused page = some i → ∃ e, exec (.softReset page w) s = .next (s.withDev e) ∧
      (e.hdr page).errCode = resetRefusal page ∧ s.dev.Kept e [.hdr page, .hdr pgDbg, .log]) ∧
    (s.dev.resetRefused page = none → ∃ e, exec (.softReset page w) s = .next (s.withDev e) ∧
      (pageType page = 0x20 → (∀ l, (e.core k).list l = {}) ∧ (∀ i, (e.core k).areg i = 0 ∧ (e.core k).creg i = 0) ∧
        (e.core k).running = none ∧ (e.core k).cmem = (s.dev.core k).cmem) ∧
      (pageType page = 0x22 → ∀ i, (e.core k).slab i = {} ∧ (e.core k).tap i = {}) ∧
      (pageType page = 0x24 → ∀ i, (e.core k).slot i = {}) ∧
      (pageType page = 0x25 → ∀ g, (e.core k).galley g = {}) ∧
      (pageType page ∈ [6, 0x12, 0x13, 0x17, 0x21, 0x22, 0x23] → ∀ r ∈ pageCounters page, ∀ o, r.1 ≤ o → o < r.1 + r.2 →
        e.reg page o = resetWord page o) ∧
      (pageType page ∈ [0x20, 0x21, 0x22, 0x23, 0x24, 0x25, 0x26, 0x27] →
        s.dev.KeptOutside e fun
          | .core j => j == k | .hdr g => g == page | .reg g _ => g == page | .meters => true | _ => false))

/-- The windows of a core's pages (R131, R168, R206, R224). A word written through the Gauge's slot window changes that word of
the selected slot, unless a command in flight converts under it (0x0302) or the slot would be illegal (0x0304); SLAB_CLR and
TAP_CLR clear what the selected slab or tap has gathered, unless a command in flight names it (0x0402); a word of a list entry
puts its list back to IDLE, unless the list is protected (0x0106). The model's own choices in it: log entry 40. -/
def Obligations.CoreWindowWrites : Prop :=
  ∀ (s : State) (k off : Nat) (w : Word), s.CoreRuns k →
    let q := s.dev.core k
    let i := s.dev.reg (pgGauge k) 0x104 % 512
    let slot := (q.slot i).setWord (off - 0x200) w
    let b := s.dev.slabSel k
    let t := s.dev.tapSel k
    let l := (off - 0x200) / 16
    let did (c : Instr) (P : CoreSt → Prop) := ∃ e, exec c s = .next (s.written e) ∧ P (e.core k) ∧
      s.dev.Kept e [.core k, .hdr (pgGauge k)]
    let refused (c : Instr) (page code : Nat) := ∃ e, exec c s = .next (s.written e) ∧ (e.hdr page).errCode = code ∧
      s.dev.Kept e [.hdr page, .hdr pgDbg, .log]
    (isSlotWindow off = true →
      (q.slotInUse i = true → refused (.gaugeWindowWrite k off w) (pgGauge k) 0x0302) ∧
      (∀ o, q.slotInUse i = false → q.slotBad i slot (off - 0x200) (off - 0x200) = some o →
        refused (.gaugeWindowWrite k off w) (pgGauge k) 0x0304) ∧
      (q.slotInUse i = false → q.slotBad i slot (off - 0x200) (off - 0x200) = none →
        did (.gaugeWindowWrite k off w) fun c => ∀ j, c.slot j = if j = i then slot else q.slot j)) ∧
    (bit w.toNat 0 = true →
      (q.namesSlab b = true → refused (.slabClr k w) (pgBwd k) 0x0402) ∧
      (q.namesSlab b = false → did (.slabClr k w) fun c => ∀ j, c.slab j =
        if j = b then { q.slab b with nonfin := false, filled := false, count := 0 } else q.slab j) ∧
      (q.namesTap t = true → refused (.tapClr k w) (pgBwd k) 0x0402) ∧
      (q.namesTap t = false → did (.tapClr k w) fun c => ∀ j, c.tap j =
        if j = t then { q.tap t with mb := 0#64, acc := 0#64, n := 0 } else q.tap j)) ∧
    (0x200 ≤ off → off < 0x300 → off % 16 = 0 ∨ off % 16 = 4 →
      ((q.list l).protected = true → refused (.listEntryWrite k off w) (pgCore k) 0x0106) ∧
      ((q.list l).protected = false → did (.listEntryWrite k off w) fun c => ∀ j, c.list j =
        if j = l then (if off % 16 = 0 then { cfg := w &&& 0x8F0003FF#32, range := (q.list l).range }
                       else { cfg := (q.list l).cfg, range := w &&& 0x03FFFFFF#32 }) else q.list j))

/-- GALLEY_CFG_WRITE and GALLEY_FLUSH (R243, R248), at a core none of whose galleys has a command in flight. A disabled galley
takes a configuration that keeps it disabled, where no link has granted its destination credit before, and one that enables it
with a local source and sink and no ring; a threshold above the capacity is refused with 0x0606. A flush empties the galley,
counts what it cut, gives its slots back to a forwarding source on the mesh, and raises FLUSHED. The model's own choices in
it: log entry 44. -/
def Obligations.GalleyControl : Prop :=
  ∀ (s : State) (k g : Nat) (w : Word), s.CoreRuns k → g < 16 → (s.dev.core k).GalleysQuiet →
    let x := (s.dev.core k).galley g
    let y : Galley := { x with cfg := BitVec.ofNat 32 (w.toNat &&& galleyCfgMask) }
    (x.en = false → y.en = false → y.thresh ≤ y.capacity →
      (y.sink = 2 → tget none (s.dev.ln y.destLink).grants (y.destCore * 16 + y.destGalley) = none) → ∃ e, exec (.galleyCfgWrite k g w) s = .next (s.written e) ∧
      (e.core k).galley g = { y with peak := y.occ } ∧ s.dev.Kept e [.core k]) ∧
    (x.en = false → y.en = true → y.thresh ≤ y.capacity → y.src = 0 → y.sink = 0 → x.ringSize = 0 →
      ∃ e, exec (.galleyCfgWrite k g w) s = .next (s.written e) ∧
        (e.core k).galley g = { y with peak := y.occ, freed := 0 } ∧ s.dev.Kept e [.core k]) ∧
    (y.capacity < y.thresh → ∃ e, exec (.galleyCfgWrite k g w) s = .next (s.written e) ∧
      (e.hdr (pgGalley k)).errCode = 0x0606 ∧ s.dev.Kept e [.hdr (pgGalley k), .hdr pgDbg, .log]) ∧
    (bit w.toNat 0 = true → x.src ≠ 2 → ∃ e, exec (.galleyFlush k g w) s = .next (s.written e) ∧
      ((e.core k).galley g).occ = 0 ∧ ((e.core k).galley g).credit = x.credit ∧
      ((e.core k).galley g).wholeCnt = sat 16 (x.wholeCnt + x.flushCounts.2) ∧
      ((e.core k).galley g).partialCnt = sat 16 (x.partialCnt + x.flushCounts.1) ∧
      ((e.core k).galley g).resync = decide (x.src ≠ 0) ∧
      e.vc0 = (if x.src = 1 ∧ x.occ ≠ 0 then s.dev.vc0 ++ [⟨x.srcCore, x.srcGalley, x.occ, k⟩] else s.dev.vc0) ∧
      bit (e.hdr (pgGalley k)).raw.toNat 2 = true ∧ s.dev.Kept e [.core k, .hdr (pgGalley k), .mesh])

/-- CMEM_LOAD and CMEM_LOAD_DONE (R225, R226), LANE_PROBE_GO and LANE_PROBE_DONE (R191). A load that its checks pass stands in
progress, and when it is done the descriptors from CMEM_SRC stand in command memory and CMEM_DONE is raised; a probe takes
SEED as it stands, and when it is done the draw of its inputs shows and PROBE_DONE is raised. -/
def Obligations.CoreJobs : Prop :=
  ∀ (s : State) (k : Nat) (w : Word), s.CoreRuns k →
    let d := s.dev
    let q := d.core k
    let src := d.reg64 (pgCore k) 0x130 % 2 ^ 48 / 64 * 64
    let dst := d.reg (pgCore k) 0x138
    (bit w.toNat 0 = true → q.cmemJob = none →
      (d.cmemRefused k src dst = false → ∃ e, exec (.cmemLoad k w) s = .next (s.written e) ∧
        e.core k = { q with cmemJob := some (src, dst) } ∧ d.Kept e [.core k]) ∧
      (d.cmemRefused k src dst = true → ∃ e, exec (.cmemLoad k w) s = .next (s.written e) ∧
        (e.hdr (pgCore k)).errCode = 0x010B ∧ d.Kept e [.hdr (pgCore k), .hdr pgDbg, .log])) ∧
    (∀ a b, q.cmemJob = some (a, b) → ∃ e, exec (.cmemLoadDone k) s = .next (s.withDev e) ∧
      e.core k = { q with cmem := q.cmem.write (64 * (cmemDst b).1) (d.read a (64 * (cmemDst b).2)), cmemJob := none } ∧
      e.hdr (pgCore k) = (d.hdr (pgCore k)).raised 3 ∧ d.Kept e [.core k, .hdr (pgCore k), .hdr pgPart]) ∧
    (bit w.toNat 0 = true → q.probe = none → ∃ e, exec (.laneProbeGo k w) s = .next (s.written e) ∧
      e.core k = { q with probe := some (d.reg64 (pgLane k) 0x108) } ∧ d.Kept e [.core k]) ∧
    (∀ seed, q.probe = some seed →
      let r (o : Nat) := d.reg (pgLane k) o
      let st := ({ seed, tag := r 0x124, step := r 0x128, cls := r 0x120 } : DrawKey).stateAt (d.reg64 (pgLane k) 0x130)
      ∃ e, exec (.laneProbeDone k) s = .next (s.withDev e) ∧ e.core k = { q with probe := none } ∧
        e.reg64 (pgLane k) 0x140 = stippleOut st % 2 ^ 64 ∧ e.reg64 (pgLane k) 0x148 = st % 2 ^ 64 ∧
        e.reg64 (pgLane k) 0x150 = st / 2 ^ 64 % 2 ^ 64 ∧ e.hdr (pgLane k) = (d.hdr (pgLane k)).raised 1 ∧
        d.KeptOutside e fun p => match p with
          | .core j => j == k | .hdr g => g == pgLane k || g == pgPart | .reg g o => g == pgLane k && decide (0x140 ≤ o ∧ o < 0x158)
          | _ => false)

/-- The time base (R41, R42). A step with no command waiting advances TIME by one cycle as ADJ says, the fraction carried, while
the hub is up; beside it only the metered counters go on, with their events and the mark of a codeword beyond correction on a
link. While the hub is not up such a step changes nothing. TIME_LOAD sets TIME to what was written to TIME_SET while no
partition runs impressions, and is refused with 0x0D87 while one does. The model's own choices in it: log entries 2, 10 and
96. -/
def Obligations.TimeBase : Prop :=
  ∀ (s : State) (w : Word),
    let d := s.dev
    let f : Int := (d.timeFrac : Int) + 10 ^ 9 + signed 32 (d.reg pgTime 0x114)
    (s.pending = [] → s.Up → ∃ e, step s = .next (s.withDev e) ∧ e.time = d.time + (f / 10 ^ 9).toNat ∧
      e.timeFrac = (f % 10 ^ 9).toNat ∧ e.servo = d.servo ∧ (∀ n, e.link n = { d.link n with hit := (e.link n).hit }) ∧
      (∀ g, g ∉ meterCorr.map (·.1) → e.hdr g = d.hdr g) ∧
      d.KeptOutside e fun p => match p with
        | .time | .meters | .free | .link _ | .hdr _ => true | _ => false) ∧
    (s.pending = [] → ¬s.Up → step s = .next s) ∧
    (s.Up → bit w.toNat 0 = true → (∀ x ∈ d.parts, x.2.run = false) → ∃ e, exec (.timeLoad w) s = .next (s.written e) ∧
      e.time = d.reg64 pgTime 0x108 ∧ e.timeFrac = 0 ∧ d.Kept e [.time] ∧ e.servo = d.servo) ∧
    (s.Up → bit w.toNat 0 = true → (∃ x ∈ d.parts, x.2.run = true) → ∃ e, exec (.timeLoad w) s = .next (s.written e) ∧
      (e.hdr pgTime).errCode = 0x0D87 ∧ d.Kept e [.hdr pgTime, .hdr pgDbg, .log])

/-- Impressions start and stop (R28, R29, R39). RUN written 1 to a partition that has not started is accepted where the checks of
R29 pass, and refused with their code where they do not, CTRL then as it was (R479); RUN written 0 stops one that waits for
START_TIME at once, and any other at its next announcement. A write that is not refused stores GROUP and STRICT. -/
def Obligations.RunStartStop : Prop :=
  ∀ (s : State) (p : Nat) (w : Word), s.Up → p < 4 → s.dev.NoLinkHolds →
    let d := s.dev
    let x := d.part p
    let ctrl := 0x100 + 0x80 * p
    let did (c : Instr) (y : PartSt) := ∃ e, exec c s = .next (s.written e) ∧ e.part p = { y with orders := (e.part p).orders } ∧
      e.reg pgImpr ctrl = w.toNat &&& 6 ∧ d.Kept e [.part p, .reg pgImpr ctrl]
    (bit w.toNat 0 = true → x.run = true → did (.imprRunStart p w) x) ∧
    (bit w.toNat 0 = true → x.run = false → d.startCheck p = none → did (.imprRunStart p w)
      { x with run := true, starting := true, state := .running, ann := none, rx := [], halting := none, stopAnn := false
               released := false, begun := false }) ∧
    (∀ code, bit w.toNat 0 = true → x.run = false → d.startCheck p = some code →
      ∃ e, exec (.imprRunStart p w) s = .next (s.written e) ∧ (e.hdr pgImpr).errCode = code ∧
        d.Kept e [.hdr pgImpr, .hdr pgDbg, .log]) ∧
    (bit w.toNat 0 = false → x.starting = true →
      did (.stopPress p w) { x with run := false, starting := false, state := .stopped }) ∧
    (bit w.toNat 0 = false → x.starting = false → did (.stopPress p w) { x with run := false })

/-- FIRST_IMPRESSION_START (R29, R40): at START_TIME the partition takes its start numbers, its first tick fires and is reported,
and the next is due one period later. LISTS_BEGIN (R31): 500 ns after the tick the lists of an impression begin, once: every
core of the partition that the governor admitted lists to starts the first of them. The model's own choices in it: log entries
8 and 47. -/
def Obligations.ImpressionsBegin : Prop :=
  (∀ (s : State) (p : Nat), s.Up → p < 4 → (s.dev.part p).starting = true → (s.dev.part p).run = true →
    let d := s.dev
    let t := d.reg64 pgImpr (0x120 + 0x80 * p)
    ∃ e, exec (.firstImpressionStart p) s = .next (s.withDev e) ∧ e.time = max d.time t ∧
      e.part p = { d.part p with
        starting := false, num := d.impr p 0x28, step := d.impr p 0x2C, pos := d.impr p 0x30 % 2 ^ 16, m := 1, nextM := 1
        d := 0, tickTime := t, nextTick := t + d.period p, begun := false, restored := false, orders := (e.part p).orders } ∧
      bit (e.hdr pgImpr).raw.toNat (8 * p) = true ∧ ∀ q, q ≠ p → (e.part q).num = (d.part q).num) ∧
  (∀ (s : State) (p : Nat), s.Up → p < 4 → (s.dev.part p).state = .running → (s.dev.part p).starting = false →
    (s.dev.part p).begun = false → (s.dev.cores.map (·.1)).Nodup →
    ∃ e, exec (.listsBegin p) s = .next (s.withDev e) ∧ e.time = max s.dev.time ((s.dev.part p).tickTime + 500) ∧
      (e.part p).begun = true ∧
      (∀ k l ls, s.dev.ownsCore p k = true → (s.dev.core k).todo = l :: ls →
        ((s.dev.core k).list l).cursor ≤ ((s.dev.core k).list l).last →
        e.core k = (s.dev.core k).passedOn) ∧
      ∀ k, s.dev.ownsCore p k = false → e.core k = s.dev.core k)

/-- ANNOUNCEMENT and TICK_RECORD (R33, R34, R36–R38, R313). A running partition that has announced nothing for the present
impression announces its own outcome and the multiplier of the next, at the announcement point; a group's members learn of it
over their links, and one alone changes nothing else. A record from a link of the group for the present impression, of an
epoch that is not past, joins the announcements received. The model's own choices in it: log entries 8 and 45. -/
def Obligations.Announcing : Prop :=
  ∀ (s : State) (p n : Nat) (rec : List Byte), s.Up → p < 4 → n < 36 →
    let d := s.dev
    let x := d.part p
    (x.state = .running → x.starting = false → x.ann = none → x.halting = none →
      ∃ e, exec (.announcement p) s = .next (s.withDev e) ∧ e.time = max d.time (x.nextTick - d.guardNs p) ∧
        e.part p = { x with ann := some (d.ownOutcome p), nextM := d.multiplier p
                            stopAnn := !x.run && d.ownOutcome p == .halt, orders := (e.part p).orders } ∧
        (bit (d.impr p 0) 2 = false → d.Kept e [.part p, .time])) ∧
    (d.recordStale n rec = false → d.lnPart n = some p → d.groupLink p n = true →
      serialLater 32 (field rec 4 4) x.num = false → serialStale 32 (field rec 4 4) x.num = false →
      (field rec 4 4 ≠ x.num ∨ x.halting = none) →
      let b := field rec 0x0C 1
      ∃ e a, exec (.tickRecord n rec) s = .next (s.withDev e) ∧
        e.part p = { x with rx := x.rx ++ [a], orders := (e.part p).orders } ∧ a.link = n ∧ a.num = field rec 4 4 ∧
        a.origin = field rec 8 4 * 4 + b / 64 ∧ a.out = Outc.ofCode (bits b 2 1) ∧ a.m = bits b 5 3)

/-- TICK (R34–R37, R40) and HALT_TICK (R37), with no proof ordered for the impression that begins and no link holding flits. With
the group met and every outcome on time the tick fires: the number goes up by one, the position in the step likewise or a step
ends, and the next tick is due after the greatest multiplier announced times the period. A deferral moves the tick one period
and is counted. A halt waits for the partition's own work, and then fires the tick and stops or halts it. The model's own
choices in it: log entries 8, 45, 94 and 95. -/
def Obligations.Ticking : Prop :=
  ∀ (s : State) (p : Nat) (own : Outc), s.Up → p < 4 → s.dev.NoLinkHolds → (s.dev.proof p).phase ≠ .ordered →
    let d := s.dev
    let x := d.part p
    let rx := x.rx.filter fun a => a.num == x.num && !a.copy
    let out := if d.groupMet p then combine own (rx.map (·.out)) else .halt
    let m := (rx.map (·.m)).foldl max x.nextM
    let ends : Bool := decide (d.stepLen p ≤ x.pos + 1)
    let fired (y : PartSt) (t : Nat) (m : Nat) := y.num = (x.num + 1) % 2 ^ 32 ∧ y.pos = (if ends then 0 else x.pos + 1) ∧
      y.step = (if ends then (x.step + 1) % 2 ^ 32 else x.step) ∧ y.d = 0 ∧ y.ann = none ∧ y.tickTime = t ∧ y.m = m
    (x.ann = some own → x.state = .running → x.halting = none →
      (out = .onTime → ∃ e, exec (.tick p) s = .next (s.withDev e) ∧
        fired (e.part p) (max d.time x.nextTick) m ∧ (e.part p).nextTick = max d.time x.nextTick + m * d.period p ∧
        (e.part p).state = .running ∧ bit (e.hdr pgImpr).raw.toNat (8 * p) = true ∧
        (ends = true → bit (e.hdr pgImpr).raw.toNat (8 * p + 1) = true)) ∧
      (out = .defer → ∃ e, exec (.tick p) s = .next (s.withDev e) ∧ e.time = max d.time x.nextTick ∧
        e.part p = { x with nextTick := x.nextTick + d.period p, d := x.d + 1, ann := none, rx := []
                            orders := (e.part p).orders } ∧
        e.reg pgImpr (0x150 + 0x80 * p) = sat 32 (d.reg pgImpr (0x150 + 0x80 * p) + 1) ∧
        e.hdr pgImpr = (d.hdr pgImpr).raised (8 * p + 2) ∧
        d.Kept e [.part p, .time, .reg pgImpr (0x150 + 0x80 * p), .hdr pgImpr]) ∧
      (out = .halt → d.complete p = false → ∃ e, exec (.tick p) s = .next (s.withDev e) ∧
        e.part p = { x with halting := some (!d.groupMet p), nextM := m, orders := (e.part p).orders } ∧
        d.Kept e [.part p, .time]) ∧
      (out = .halt → d.complete p = true → ∃ e, exec (.tick p) s = .next (s.withDev e) ∧
        fired (e.part p) (max d.time x.nextTick) m ∧ (e.part p).run = false ∧
        (e.part p).state = (if x.stopAnn && d.groupMet p then .stopped else .halted))) ∧
    (∀ late, x.halting = some late → x.state = .running → d.complete p = true →
      ∃ e, exec (.haltTick p) s = .next (s.withDev e) ∧ fired (e.part p) (d.time + 1) x.nextM ∧ (e.part p).run = false ∧
        (e.part p).state = (if x.stopAnn && !late then .stopped else .halted))

/-- A partition's life (R22, R25, R253, R395, R439). A claim of free, usable dies in a layout the module has takes them and starts
zeroing; any other is refused with 0x0C10. When zeroing is done the dies' HBM and SRAM read zero, their cores leave reset with
nothing kept but their statistics data, and the partition is CLAIMED. A release of a claimed partition that runs no
impressions and has no proof at work frees its dies; another is refused with 0x0C11. MAINT follows what is written while the
partition does not run. The model's own choices in it: log entry 58. -/
def Obligations.PartitionLife : Prop :=
  ∀ (s : State) (p : Nat) (w : Word), s.Up → p < 4 →
    let d := s.dev
    let x := d.part p
    let mask := w.toNat % 16
    let quiet := (d.proof p).phase = .idle ∨ (d.proof p).phase = .ordered
    let refused (c : Instr) (code : Nat) := ∃ e, exec c s = .next (s.written e) ∧ (e.hdr pgPart).errCode = code ∧
      d.Kept e [.hdr pgPart, .hdr pgDbg, .log]
    (bit w.toNat 4 = true → x.claim ≠ 1 → s.chip.pow.mode = .ready ∨ s.chip.pow.mode = .run →
      (d.claimRefused p mask = true → refused (.partitionClaim p w) 0x0C10) ∧
      (d.claimRefused p mask = false → ∃ e, exec (.partitionClaim p w) s = .next (s.written e) ∧
        (e.part p).claim = 1 ∧ (e.part p).mask = mask ∧
        (∀ c, (e.die c).part = if c < 4 ∧ bit mask c = true then some p else (d.die c).part) ∧
        (∀ k, e.core k = d.core k) ∧ e.mem = d.mem)) ∧
    (x.claim = 1 → (d.cores.map (·.1)).Nodup → ∃ e, exec (.zeroingDone p) s = .next (s.withDev e) ∧ (e.part p).claim = 2 ∧
      (∀ c, d.owns p c = true → (e.die c).live = true ∧
        ∀ a, 2 * c * stackBytes ≤ a → a < (2 * c + 2) * stackBytes → e.mem.readByte a = Memory.blank) ∧
      (∀ k a, k < numCores → d.owns p (coreDie k) = true → e.core k = (d.core k).atReset ∧
        (caseBase k ≤ a → a < caseBase k + caseBytes → e.mem.readByte a = Memory.blank)) ∧
      (∀ c, d.owns p c = false → e.die c = d.die c) ∧ bit (e.hdr pgPart).raw.toNat (4 * p) = true) ∧
    (bit w.toNat 0 = true → x.claim ≠ 0 →
      ((x.claim = 1 ∨ x.run = true ∨ ¬quiet) → refused (.partitionRelease p w) 0x0C11) ∧
      (x.claim ≠ 1 → x.run = false → quiet → ∃ e, exec (.partitionRelease p w) s = .next (s.written e) ∧
        (e.part p).claim = 0 ∧ (e.part p).mask = 0 ∧ (∀ c, d.owns p c = true → (e.die c).part = none ∧ (e.die c).live = false) ∧
        (∀ c, d.owns p c = false → e.die c = d.die c) ∧ e.mem = d.mem ∧ bit (e.hdr pgPart).raw.toNat (4 * p + 1) = true)) ∧
    (x.run = false → quiet → ∃ e, exec (.maintWrite p w) s = .next (s.written e) ∧
      e.part p = { x with maint := bit w.toNat 0, orders := (e.part p).orders } ∧ d.Kept e [.part p]) ∧
    ((x.run = true ∨ ¬quiet) → refused (.maintWrite p w) 0x0C0F)

/-- LINK_CFG_WRITE (R305, R307, R332). Trunk fields written while the link is not DISABLED, and TRUNK_W 5 to 7, are refused with
0x0A04. EN written 1 to a single link that is DISABLED begins its training with empty buffers; EN written 0 to one that is
enabled makes it DISABLED, discards its buffers, and reports that it left ACTIVE. -/
def Obligations.LinkConfig : Prop :=
  ∀ (s : State) (n : Nat) (w : Word), s.Up → n < 36 →
    let d := s.dev
    let v := w.toNat &&& linkCfgMask
    let old := d.lnCfg n
    let refused := ∃ e, exec (.linkCfgWrite n w) s = .next (s.written e) ∧ (e.hdr (pgLink n)).errCode = 0x0A04 ∧
      d.Kept e [.hdr (pgLink n), .hdr pgDbg, .log]
    ((v ^^^ old) &&& linkTrunkMask ≠ 0 → d.lnState n ≠ .disabled → refused) ∧
    (5 ≤ bits v 26 24 → refused) ∧
    (bit v 31 = true → bit old 31 = false → bits v 26 24 < 2 → d.lnState n = .disabled → (d.link n).state = .disabled →
      ∃ e, exec (.linkCfgWrite n w) s = .next (s.written e) ∧
        e.link n = { (d.link n).discard with state := .training } ∧ e.reg (pgLink n) 0x104 = v ∧
        d.Kept e [.link n, .reg (pgLink n) 0x104]) ∧
    (bit v 31 = false → bit old 31 = true → (v ^^^ old) &&& linkTrunkMask = 0 → bits old 26 24 < 2 →
      ∃ e, exec (.linkCfgWrite n w) s = .next (s.written e) ∧ e.link n = (d.link n).discard ∧
        e.reg (pgLink n) 0x104 = v ∧ (d.lnActive n = true → bit (e.hdr (pgLink n)).raw.toNat 2 = true) ∧
        d.KeptOutside e fun p => match p with
          | .link m => m == n | .hdr g => g == pgLink n || g == pgColl (n / 9) || g == pgDbg | .reg g _ => g == pgLink n
          | .coll c => c == n / 9 | .log => true | _ => false)

/-- A link trains (R303, R306). A lane that locks is shown, and the first starts the limit; when training is done every member's
lanes are locked, with a polarity and an order of lanes, and the link goes to HELLO, where HELLO_TIMER sends one HELLO on
every member, in a CTRL flit whose SEQ and ACK are 0, until both HELLOs are known to have come. Past its limit a training or
retraining link goes DOWN with 0x0A01 or 0x0A02. The model's own choices in it: log entries 50 and 81. -/
def Obligations.LinkTraining : Prop :=
  ∀ (s : State) (n lane : Nat), s.Up → n < 36 →
    let d := s.dev
    let h := d.lnHome n
    let x := d.link h
    (d.lnState n = .training → lane < 4 → ∃ e, exec (.laneLock n lane) s = .next (s.withDev e) ∧
      e.link h = { x with locked := x.locked ||| 2 ^ lane
                          deadline := if x.deadline.isSome then x.deadline else some (d.time + d.retrainLimit n) } ∧
      e.reg (pgLink n) 0x160 = d.reg (pgLink n) 0x160 ||| 2 ^ (28 + lane) ∧ d.Kept e [.link h, .reg (pgLink n) 0x160]) ∧
    (d.lnState n = .training → (d.lnMembers n).all d.lnEn = true →
      ∃ e, exec (.linkTrainingDone n) s = .next (s.withDev e) ∧
        e.link h = { x with state := .hello, deadline := none, heard := false, confirmed := false, peers := [], memberOwd := []
                            owds := [], rtts := [] } ∧
        (∀ m ∈ d.lnMembers n, ∃ polarity order, e.reg (pgLink m) 0x160 =
          0xF0000000 + polarity % 16 * 2 ^ 24 + laneOrder order) ∧
        d.KeptOutside e fun p => match p with
          | .link m => m == h | .free => true
          | .reg g o => o == 0x160 && (d.lnMembers n).any fun m => g == pgLink m | _ => false) ∧
    (x.state = .hello → x.heard = true → x.confirmed = true → exec (.helloTimer n) s = .next s) ∧
    (x.state = .hello ∧ ¬(x.heard = true ∧ x.confirmed = true) ∨ x.state = .retrain →
      let body (m : Nat) := natLe 4 (d.nodeId (m / 9)) ++ natLe 1 (m / 9 * 64 + m) ++
        natLe 1 (d.lnTrunk m * 64 + bits (d.lnCfg m) 26 24 * 8 + d.lnMember m * 2) ++ natLe 2 x.rxNext
      let hello (m : Nat) : Out := ⟨.link m, ({ kind := 3, wordA := 2 ^ 28, payload := lnRecord 1 (d.ln m).epoch (body m) } :
        LnFlit).bytes 0 false⟩
      ∃ e, exec (.helloTimer n) s = .next (s.withDev e) ∧ e.out = ((d.lnMembers n).map hello).reverse ++ d.out ∧
        d.Kept e [.out]) ∧
    (∀ t, x.deadline = some t →
      (x.state = .training → ∃ e, exec (.retrainLimitExpiry n) s = .next (s.withDev e) ∧ e.time = max d.time t ∧
        e.link h = { x with state := .down, deadline := none } ∧ (e.hdr (pgLink n)).errCode = 0x0A01 ∧
        d.Kept e [.link h, .hdr (pgLink n), .hdr pgDbg, .log, .time]) ∧
      (x.state = .retrain → ∃ e, exec (.retrainLimitExpiry n) s = .next (s.withDev e) ∧ e.time = max d.time t ∧
        e.link h = { x with state := .down, deadline := none } ∧ (e.hdr (pgLink n)).errCode = 0x0A02 ∧
        d.Kept e [.link h, .hdr (pgLink n), .hdr pgDbg, .log, .time, .coll (n / 9), .hdr (pgColl (n / 9))]))

/-- LINK_RETRAIN and LINK_RETRAIN_DONE (R295, R299, R305). An ACTIVE link that retrains keeps its buffers and its sequence state,
starts its limit, is counted, and reports DOWN, on every member of its trunk. When it is trained again it enters ACTIVE with
the next epoch, reports UP on every member, and sends again, in order, every flit not acknowledged. The model's own choices in
it: log entries 50 and 81. -/
def Obligations.LinkRetrains : Prop :=
  ∀ (s : State) (n cause : Nat), s.Up → n < 36 →
    let d := s.dev
    let h := d.lnHome n
    let x := d.link h
    (x.state = .active → ∃ e, exec (.linkRetrain n cause) s = .next (s.withDev e) ∧
      e.link h = { x with state := .retrain, deadline := some (d.time + d.retrainLimit n), heard := false, ahead := [] } ∧
      (∀ m ∈ d.lnMembers n, e.reg (pgLink m) 0x138 = sat 32 (d.reg (pgLink m) 0x138 + 1) ∧
        e.hdr (pgLink m) = (d.hdr (pgLink m)).raised 2) ∧
      d.KeptOutside e fun p => match p with
        | .link m => m == h | .hdr g => (d.lnMembers n).any fun m => g == pgLink m
        | .reg g o => (o == 0x160 && g == pgLink n) || (o == 0x138 && (d.lnMembers n).any fun m => g == pgLink m)
        | .free => true | _ => false) ∧
    (x.state = .retrain →
      let up : LinkSt :=
        { x with state := .active, epoch := (x.epoch + 1) % 2 ^ 16, deadline := none, nak := false, nakAt := none, hit := false
                 retry := x.retry.map fun f => { f with resent := 0 } }
      let lanes (p : Place) := p == .free || (d.lnMembers n).any fun m => p == .reg (pgLink m) 0x160
      let again (f : LnFlit) : Out :=
        ⟨.link ((d.lnMembers n).getD (f.seq % d.lnWidth n) n), f.bytes ((x.rxNext + 2 ^ 14 - 1) % 2 ^ 14) false⟩
      ∃ e, exec (.linkRetrainDone n) s = .next (s.withDev e) ∧ (e.link h).state = .active ∧ (e.link h).epoch = up.epoch ∧
        (∀ m ∈ d.lnMembers n, bit (e.hdr (pgLink m)).raw.toNat 1 = true) ∧
        d.KeptOutside e (fun p => p.sendOf h || lanes p ||
          (match p with | .hdr g => (d.lnMembers n).any fun m => g == pgLink m | _ => false)) ∧
        (x.waiting = [] → e.link h = up ∧ e.out = (x.retry.map again).reverse ++ d.out ∧
          (∀ m ∈ d.lnMembers n, e.hdr (pgLink m) = (d.hdr (pgLink m)).raised 1) ∧
          d.KeptOutside e fun p => lanes p || (match p with
            | .link m => m == h | .hdr g => (d.lnMembers n).any fun m => g == pgLink m | .out => true | _ => false)))

/-- HELLO and the time exchange (R303, R304, R310, R311). A HELLO received by a single link in HELLO shows its partner, and is
heard, unless the two disagree on trunking: then 0x0A03, and the link begins again. TSYNC_REQ is answered; TIME_EXCHANGE_TIMER
sends one and keeps its ID and T1; TSYNC_RESP completes the exchange its ID names, which is accepted unless its delay is more
than 8 ns from the median. The model's own choices in it: log entries 14, 50 and 51. -/
def Obligations.LinkExchanges : Prop :=
  ∀ (s : State) (n : Nat) (rec : List Byte), s.Up → n < 36 →
    let d := s.dev
    let h := d.lnHome n
    let x := d.link h
    let stale := d.recordStale n rec
    let raw (ty : Nat) (body : List Byte) : Out :=
      ⟨.link n, ({ kind := 3, wordA := 2 ^ 28, payload := lnRecord ty x.epoch body } : LnFlit).bytes 0 false⟩
    let theirs := max 1 (bits (field rec 9 1) 5 3)
    let shown (e : Dev) := e.reg (pgLink n) 0x10C = field rec 4 4 ∧ e.reg (pgLink n) 0x110 = field rec 8 1
    (x.state = .hello → d.lnWidth n = 1 → theirs = 1 → ∃ e, exec (.hello n rec) s = .next (s.withDev e) ∧ shown e ∧
      e.link h = { x with rxEpoch := field rec 2 2, heard := true, peers := tset 0 x.peers n (helloEnd rec)
                          txSeq := if x.retry.isEmpty then field rec 0x0A 2 % 2 ^ 14 else x.txSeq } ∧
      d.Kept e [.link h, .reg (pgLink n) 0x10C, .reg (pgLink n) 0x110]) ∧
    (x.state = .hello → d.lnWidth n ≠ theirs → ∃ e, exec (.hello n rec) s = .next (s.withDev e) ∧ shown e ∧
      e.link h = { x with rxEpoch := field rec 2 2, heard := false, confirmed := false, peers := [], memberOwd := []
                          owds := [], rtts := [] } ∧ (e.hdr (pgLink n)).errCode = 0x0A03 ∧
      d.Kept e [.link h, .reg (pgLink n) 0x10C, .reg (pgLink n) 0x110, .hdr (pgLink n), .hdr pgDbg, .log]) ∧
    (x.state = .hello → stale = false → ∃ e, exec (.tsyncReq n rec) s = .next (s.withDev e) ∧ e.link h = { x with confirmed := true } ∧
      e.out = raw 8 (natLe 8 d.time ++ natLe 1 (field rec 0x0C 1) ++ natLe 3 0) :: d.out ∧ d.Kept e [.link h, .out]) ∧
    (x.state = .active → stale = false → ∃ e, exec (.tsyncReq n rec) s = .next (s.withDev e) ∧ (e.link h).confirmed = true ∧
      d.KeptOutside e (Place.sendOf h)) ∧
    (x.state = .hello → x.heard = true → ∃ e, exec (.timeExchangeTimer n) s = .next (s.withDev e) ∧
      e.link h = { x with tsId := (x.tsId + 1) % 256, asked := (x.tsId, d.time) :: x.asked.take 255 } ∧
      e.out = raw 7 (natLe 8 d.time ++ natLe 1 x.tsId) :: d.out ∧ d.Kept e [.link h, .out]) ∧
    (x.state = .active → ∃ e, exec (.timeExchangeTimer n) s = .next (s.withDev e) ∧ (e.link h).tsId = (x.tsId + 1) % 256 ∧
      (e.link h).asked = (x.tsId, d.time) :: x.asked.take 255 ∧ d.KeptOutside e (Place.sendOf h)) ∧
    (∀ q, x.asked.find? (fun q => q.1 == field rec 0x0C 1) = some q → stale = false →
      (x.state = .active ∨ x.state = .hello ∧ d.lnWidth n < 2) →
      let t3 : Int := field rec 4 8
      let t2 : Int := t3 - field rec 0x0D 3
      let d2 : Int := ((d.time : Int) - q.2) - (t3 - t2)
      let far := !x.owds.isEmpty && decide (16 < (d2 - 2 * median (x.owds.map half)).natAbs)
      ∃ e, exec (.tsyncResp n rec) s = .next (s.withDev e) ∧
        (e.link h).asked = x.asked.filter (fun q => q.1 != field rec 0x0C 1) ∧ (e.link h).confirmed = true ∧
        (e.link h).owds = (if far then x.owds else (d2 :: x.owds).take 16) ∧ e.time = d.time ∧
        d.KeptOutside e fun p => p.sendOf h || p == .time || p == .reg pgTime 0x114 || p == .reg pgTime 0x11C)

/-- Credit and boundary records of an epoch that is not past (R241, R295, R300, R301, R314, R343), and any record of a past one,
which is counted and does no more. LC_CREDIT sets what the partner has freed; GALLEY_CREDIT sets the credit of every galley
that sends by the link to the one it names, a RESET starting the count of slots sent again, and where there is none yet the
link keeps what a RESET granted; BOUNDARY shows the number, and a group link that is ahead of its partition holds its data
flits from then on. The model's own choices in it: log entries 48, 50 and 81. -/
def Obligations.LinkRecords : Prop :=
  ∀ (s : State) (n : Nat) (rec : List Byte), s.Up → n < 36 →
    let d := s.dev
    let h := d.lnHome n
    let x := d.link h
    (d.recordStale n rec = true →
      ∀ c, (c ∈ [Instr.lcCredit n rec, .galleyCredit n rec, .galleyAbort n rec, .boundary n rec, .tickRecord n rec,
          .collStart n rec, .collWave n rec] ∨
        (x.state = .hello ∨ x.state = .active) ∧ c ∈ [Instr.tsyncReq n rec, .tsyncResp n rec]) →
        ∃ e, exec c s = .next (s.withDev e) ∧ e.reg (pgLink h) 0x13C = sat 32 (d.reg (pgLink h) 0x13C + 1) ∧
          d.Kept e [.reg (pgLink h) 0x13C]) ∧
    (d.recordStale n rec = false → ∃ e, exec (.lcCredit n rec) s = .next (s.withDev e) ∧
      (e.link h).lcFree = field rec 4 4 ∧ (e.link h).lcFree2 = field rec 8 4 ∧ d.KeptOutside e (Place.sendOf h) ∧
      (x.waiting = [] → e.link h = { x with lcFree := field rec 4 4, lcFree2 := field rec 8 4 } ∧ d.Kept e [.link h])) ∧
    (d.recordStale n rec = false → ∃ e, exec (.boundary n rec) s = .next (s.withDev e) ∧
      e.reg (pgLink h) 0x15C = field rec 4 4 ∧
      e.link h = { x with holding := x.holding || (match d.lnPart n with
        | some p => d.groupLink p n && serialLater 32 (d.part p).num (field rec 4 4) | none => false) } ∧
      d.Kept e [.link h, .reg (pgLink h) 0x15C]) ∧
    (d.recordStale n rec = false → (d.cores.map (·.1)).Nodup → (∀ y ∈ d.cores, (y.2.galleys.map (·.1)).Nodup) →
      ∃ e, exec (.galleyCredit n rec) s = .next (s.withDev e) ∧
        (∀ i j, let g := (d.core i).galley j
          let sent := if bit (field rec 6 1) 7 then 0 else g.sent
          (e.core i).galley j =
            if g.sink = 2 ∧ g.destCore = field rec 4 2 % 2048 ∧ g.destGalley = field rec 6 1 % 16 ∧ d.lnHome g.destLink = h then
              { g with sent, credit := (field rec 8 4 + 2 ^ 32 - sent) % 2 ^ 32 }
            else g) ∧
        (let key := field rec 4 2 % 2048 * 16 + field rec 6 1 % 16
         let placed := d.cores.any fun y => y.2.galleys.any fun z => d.sendsTo n (field rec 4 2 % 2048) (field rec 6 1 % 16) z.2
         e.link h = if placed = false ∧ (bit (field rec 6 1) 7 = true ∨ tget none x.grants key ≠ none) then
           { x with grants := tset none x.grants key (some (field rec 8 4)) } else x) ∧
        d.KeptOutside e fun p => match p with | .core _ => true | .link m => m == h | _ => false)

/-- GALLEY_ABORT and the data flits of a link (R290, R293, R295–R297, R300, R306, R308, R343). A flit whose CRC fails is counted
and asked for again; so is one touched by an uncorrectable codeword, and a good one out of its order, without a count. The one
expected is taken, and the next is expected; on a trunk one ahead of its turn waits for it. After each an IDLE flit says how
the receiver stands. A data flit that may be delivered reaches the galley its header names, where its bytes join the slot
being rebuilt, and its link credit goes back; one that the boundary holds waits with the link, and the ABORT of a slug behind
it. The ABORT of a slug partly received cuts it off. The model's own choices in it: log entries 48, 50 and 81. -/
def Obligations.LinkFlits : Prop :=
  ∀ (s : State) (n : Nat) (b rec : List Byte), s.Up → n < 36 →
    let d := s.dev
    let h := d.lnHome n
    let x := d.link h
    let f := LnFlit.parse b
    let hit := (d.link n).hit
    let idle (next : Nat) (nak : Bool) : Out := ⟨.link n, ({ kind := 0 } : LnFlit).bytes ((next + 2 ^ 14 - 1) % 2 ^ 14) nak⟩
    (flitOk b = false → hit = false → ∃ e, exec (.linkFlitReceive n b) s = .next (s.withDev e) ∧
      e.link h = { x with nak := true, ahead := [] } ∧
      e.out = (if x.state = .active then idle x.rxNext true :: d.out else d.out) ∧
      e.reg (pgLink h) 0x130 = sat 32 (d.reg (pgLink h) 0x130 + 1) ∧ d.Kept e [.link h, .reg (pgLink h) 0x130, .out]) ∧
    (flitOk b = true → hit = true → ∃ e, exec (.linkFlitReceive n b) s = .next (s.withDev e) ∧ (e.link n).hit = false ∧
      (e.link h).nak = true ∧ (e.link h).ahead = [] ∧ (e.link h).rxNext = x.rxNext ∧ d.Kept e [.link h, .link n, .out]) ∧
    (flitOk b = true → hit = false → x.state = .active → x.retry = [] → x.waiting = [] → x.ahead = [] →
      let got (y : LinkSt) (more : List Place) := ∃ e, exec (.linkFlitReceive n b) s = .next (s.withDev e) ∧ e.link h = y ∧
        e.out = idle y.rxNext y.nak :: d.out ∧ d.Kept e (more ++ [.link h, .out])
      let counts : List Place := [.reg (pgLink h) 0x148, .reg (pgLink h) 0x14C]
      let due := d.seqDue n
      (f.kind = 0 → ∃ e, exec (.linkFlitReceive n b) s = .next (s.withDev e) ∧ d.Kept e []) ∧
      (f.kind ≠ 0 → f.seq ≠ due → got { x with nak := true } []) ∧
      (f.kind ≠ 0 → f.seq = due → due ≠ x.rxNext → got (if x.nak then x else { x with ahead := [f] }) []) ∧
      (f.seq = due → due = x.rxNext → f.kind = 3 → f.records = [] →
        got { x with rxNext := (x.rxNext + 1) % 2 ^ 14, nak := false } counts ∧
        ∃ e, exec (.linkFlitReceive n b) s = .next (s.withDev e) ∧
          e.reg64 (pgLink h) 0x148 = (d.reg64 (pgLink h) 0x148 + 1) % 2 ^ 64) ∧
      (f.seq = due → due = x.rxNext → f.kind = 1 ∨ f.kind = 2 → d.lnHolds n = true →
        got { x with rxNext := (x.rxNext + 1) % 2 ^ 14, nak := false, held := x.held ++ [f] } counts)) ∧
    (d.lnHolds n = true ∨ x.held ≠ [] → ∃ e, exec (.galleyLinkFlit n b) s = .next (s.withDev e) ∧
      e.link h = { x with held := x.held ++ [{ f with kind := 1 }] } ∧ d.Kept e [.link h]) ∧
    (d.recordStale n rec = false → d.lnHolds n = true ∨ x.held ≠ [] →
      ∃ e, exec (.galleyAbort n rec) s = .next (s.withDev e) ∧
        e.link h = { x with held := x.held ++ [{ kind := 3, payload := rec }] } ∧ d.Kept e [.link h]) ∧
    (d.lnHolds n = false → x.held = [] →
      let k := f.wordA / 2 ^ 21
      let g := f.wordA / 2 ^ 17 % 16
      let y := (d.core k).galley g
      let data := f.payload.take (min 240 (f.wordB / 2 ^ 24))
      (d.lnPart n = none → ∃ e, exec (.galleyLinkFlit n b) s = .next (s.withDev e) ∧
        (e.hdr (pgLink n)).errCode = 0x0A06 ∧ (e.link h).lcGone = (x.lcGone + 1) % 2 ^ 32 ∧
        d.KeptOutside e fun p => p.sendOf h || p == .hdr (pgLink n) || p == .hdr pgDbg || p == .log) ∧
      (d.lnPart n ≠ none → k < numCores → y.en = true → y.src = 2 → d.lnHome y.srcLink = h → data ≠ [] →
        f.wordA / 2 ^ 11 % 64 = y.part.length → y.part.length + data.length < 64 → ∃ e, exec (.galleyLinkFlit n b) s = .next (s.withDev e) ∧
          (e.core k).galley g = { y with part := y.part ++ data, partSos := y.partSos || (y.part.isEmpty && bit f.wordA 6)
                                         partPoison := y.partPoison || bit f.wordA 1 } ∧
          (e.link h).lcGone = (x.lcGone + 1) % 2 ^ 32 ∧ d.KeptOutside e fun p => p.sendOf h || p == .core k)) ∧
    (d.recordStale n rec = false → d.lnHolds n = false → x.held = [] →
      let k := field rec 4 2 % 2048
      let g := field rec 6 1 % 16
      let y := (d.core k).galley g
      k < numCores → y.en = true → y.src = 2 → d.lnHome y.srcLink = h → (d.core k).GalleysQuiet → y.resync = false →
      (y.receiving = false → y.halfSlug = false → ∃ e, exec (.galleyAbort n rec) s = .next (s.withDev e) ∧ d.Kept e []) ∧
      (y.receiving = true ∨ y.halfSlug = true → y.taking = false → ∃ e, exec (.galleyAbort n rec) s = .next (s.withDev e) ∧
        ((e.core k).galley g).receiving = false ∧ ((e.core k).galley g).partialCnt = sat 16 (y.partialCnt + 1) ∧
        ((e.core k).galley g).occ = (y.dropBack).1.occ ∧ bit (e.hdr (pgGalley k)).raw.toNat 4 = true ∧
        d.KeptOutside e fun p => p.fabricOf k))

/-- COLL_KICK (R317). A kick of eight bytes that names an entry and carries its next ARM is counted, and the entry is ready when
its kicks are complete; any other is discarded with 0x0A47. The model's own choices in it: log entry 52. -/
def Obligations.CollKicks : Prop :=
  ∀ (s : State) (c src tag : Nat) (payload : List Byte), s.Up → c < 4 →
    let d := s.dev
    let x := d.coll c
    let n := tget 0 x.kicks tag + 1
    let need := field (d.read (d.collTable c + 128 * tag) 128) 0x3C 2
    let good := tag < 64 ∧ payload.length = 8 ∧ field payload 0 1 = tget 0 x.arms tag
    (good → ∃ e, exec (.collKick c src tag payload) s = .next (s.withDev e) ∧
      (∀ i, tget 0 (e.coll c).kicks i = if i = tag then n else tget 0 x.kicks i) ∧
      (e.coll c).ready = (if n = max 1 need ∧ tag ∉ x.ready then x.ready ++ [tag] else x.ready) ∧
      (e.coll c).arms = x.arms ∧ (e.coll c).chans = x.chans ∧ d.Kept e [.coll c]) ∧
    (¬good → ∃ e, exec (.collKick c src tag payload) s = .next (s.withDev e) ∧ (e.hdr (pgColl c)).errCode = 0x0A47 ∧
      d.Kept e [.hdr (pgColl c), .hdr pgDbg, .log])

/-- COLL_RUN_START, PERMUTE_COPY_DONE and COLL_RUN_DONE (R317–R319, R325, R326). The entry whose kicks were complete first starts
on the lowest free channel: its ARM advances and its kicks are 0 again; an entry that fails its check fails the run with
0x0A40 and one that cannot be read with 0x0A46, and a permute that passes stands on the channel. Its copy packs the outgoing
tiles into scratch, in map order, or fails with 0x0A46 where the map or a tile cannot be read. A run that is over, or has
failed, leaves its channel, sends its completion message to every core of its partition that it notifies, and is counted and
reported. The model's own choices in it: log entries 52 and 53. -/
def Obligations.CollRuns : Prop :=
  ∀ (s : State) (c ch entry : Nat), s.Up → c < 4 → ch < 4 → entry < 64 →
    let d := s.dev
    let x := d.coll c
    let b := d.read (d.collTable c + 128 * entry) 128
    let arm := tget 0 x.arms entry
    let begun : CollRun := { entry, arm, ent := b }
    let bad := d.bad (d.collTable c + 128 * entry) 128 || (begun.e.op == 7 && d.bad begun.e.map (32 * begun.e.mapCount))
    (((List.range 4).find? fun i => (d.collRun c i).isNone) = some ch → x.ready.head? = some entry →
      (d.hdr (pgColl c)).enable = true → d.chanHeld c = false →
      let took (e : Dev) := (e.coll c).ready = x.ready.tail ∧ tget 0 (e.coll c).kicks entry = 0 ∧
        tget 0 (e.coll c).arms entry = (arm + 1) % 256
      let failed (code : Nat) := ∃ e, exec (.collRunStart c entry) s = .next (s.withDev e) ∧ took e ∧
        e.collRun c ch = some { begun with fail := code } ∧ (e.hdr (pgColl c)).errCode = code ∧
        d.Kept e [.coll c, .hdr (pgColl c), .hdr pgDbg, .log]
      (bad = true → failed 0x0A46) ∧ (bad = false → d.entryOk c b = false → failed 0x0A40) ∧
      (bad = false → d.entryOk c b = true → begun.e.op = 7 → mapBad begun.e (d.collMap begun.e) = true → failed 0x0A44) ∧
      (bad = false → d.entryOk c b = true → begun.e.op = 7 → mapBad begun.e (d.collMap begun.e) = false → x.early = [] →
        ∃ e, exec (.collRunStart c entry) s = .next (s.withDev e) ∧ took e ∧ e.collRun c ch = some begun ∧
          d.KeptOutside e Place.collOf ∧ e.mem = d.mem)) ∧
    (∀ r, d.collRun c ch = some r → r.e.op = 7 → r.fail = 0 → r.copied = false → r.go = false → r.e.rank ≠ 0 →
      r.ready = false → d.chanHeld c = false →
      let outs := outgoing r.e (d.collMap r.e)
      let unread := d.bad r.e.map (32 * r.e.mapCount) || outs.any fun q => d.bad q.2.1.src q.2.1.size
      (unread = true → r.done = false → ∃ e, exec (.permuteCopyDone c ch) s = .next (s.withDev e) ∧
        e.collRun c ch = some { r with fail := 0x0A46 } ∧ (e.hdr (pgColl c)).errCode = 0x0A46 ∧
        d.Kept e [.coll c, .hdr (pgColl c), .hdr pgDbg, .log]) ∧
      (unread = false → r.sent = false → r.inFlits = [] → r.upWait = [] → r.downWait = [] →
        (∀ q ∈ outs, d.collReach c (r.e.scratch + q.2.2) q.2.1.size = true ∧ d.inHold (r.e.scratch + q.2.2) q.2.1.size = false) →
      ∃ e, exec (.permuteCopyDone c ch) s = .next (s.withDev e) ∧ e.collRun c ch = some { r with
          copied := true, written := r.written + (outs.map fun q => q.2.1.size).foldl (· + ·) 0 } ∧
        e.mem = (outs.foldl (fun d q => d.write (r.e.scratch + q.2.2) (d.read q.2.1.src q.2.1.size)) d).mem ∧
        d.KeptOutside e fun p => match p with
          | .coll i => i == c | .reg g _ => g == pgColl c | .mem | .cow _ => true | _ => false)) ∧
    (∀ r, d.collRun c ch = some r → (r.done = true ∧ r.upWait = [] ∧ r.downWait = [] ∨ r.fail ≠ 0) → d.chanHeld c = false →
      let body := natLe 2 r.fail ++ natLe 1 r.arm ++ natLe 1 r.entry ++ natLe 4 r.written ++ natLe 8 0
      let o := if r.fail = 0 then 0x130 else 0x134
      ∃ e, exec (.collRunDone c ch) s = .next (s.withDev e) ∧ e.collRun c ch = none ∧
        (∃ ms, e.flights = d.flights ++ ms ∧ ms.map (·.dest) = (r.e.notify.filter fun k => (d.die c).part.any fun p => d.ownsCore p k) ∧
          ∀ m ∈ ms, m.src = collSource + c ∧ m.tag = r.e.doneTag ∧ m.len = 16 ∧ m.payload = body) ∧
        e.reg (pgColl c) o = sat 32 (d.reg (pgColl c) o + 1) ∧
        e.hdr (pgColl c) = (d.hdr (pgColl c)).raised (if r.fail = 0 then 1 else 2) ∧
        d.Kept e [.coll c, .flights, .reg (pgColl c) o, .hdr (pgColl c)])

/-- COLL_START, COLL_WAVE and COLL_FLIT by a link whose epoch is not past (R318, R321, R323, R326). A start that comes before its
run waits for it, and one of another operation fails the run it meets with 0x0A41; a READY is noted by the permute it names,
or waits for a run that is the entry's next; stream bytes join the run in their direction and their link credit goes back,
unless they do not continue the stream, or it is over: then the run fails with 0x0A43. The model's own choices in it: log
entries 53 and 54. -/
def Obligations.CollMessages : Prop :=
  ∀ (s : State) (n ch : Nat) (rec b : List Byte), s.Up → n < 36 →
    let d := s.dev
    let h := d.lnHome n
    let c := n / 9
    let find := d.findRun c (field rec 4 1 / 4) (field rec 5 1)
    (d.recordStale n rec = false →
      (find = none → ∃ e, exec (.collStart n rec) s = .next (s.withDev e) ∧
        e.coll c = { d.coll c with early := (d.coll c).early ++ [(h, rec)] } ∧ d.Kept e [.coll c]) ∧
      (∀ r, find = some ch → d.collRun c ch = some r → r.fail = 0 → r.done = false →
        (rec.drop 6).take 6 ≠ ((startBody r).drop 2).take 6 →
        ∃ e, exec (.collStart n rec) s = .next (s.withDev e) ∧ e.collRun c ch = some { r with fail := 0x0A41 } ∧
          (e.hdr (pgColl c)).errCode = 0x0A41 ∧ d.Kept e [.coll c, .hdr (pgColl c), .hdr pgDbg, .log]) ∧
      (find = none → field rec 5 1 = tget 0 (d.coll c).arms (field rec 4 1 / 4) →
        ∃ e, exec (.collWave n rec) s = .next (s.withDev e) ∧
          e.coll c = { d.coll c with early := (d.coll c).early ++ [(36, rec)] } ∧ d.Kept e [.coll c]) ∧
      (find = none → field rec 5 1 ≠ tget 0 (d.coll c).arms (field rec 4 1 / 4) → exec (.collWave n rec) s = .next s) ∧
      (∀ r, find = some ch → d.collRun c ch = some r → r.e.op = 7 → r.fail = 0 → r.copied = false → r.go = false →
        r.sent = false → r.upWait = [] → r.downWait = [] → r.inFlits = [] →
        d.bad r.e.map (32 * r.e.mapCount) = false → field rec 6 1 = 0 →
        ∃ e, exec (.collWave n rec) s = .next (s.withDev e) ∧ e.collRun c ch = some { r with ready := true } ∧
          d.Kept e [.coll c])) ∧
    (d.lnHolds n = false → (d.link h).held = [] → d.lnPart n ≠ none →
      let f : LnFlit := { LnFlit.parse b with kind := 2 }
      ∀ r, d.findRun c (f.wordA / 2 ^ 26) (f.wordA / 2 ^ 16 % 256) = some ch → d.collRun c ch = some r → r.fail = 0 →
        r.done = false → r.e.op ≠ 7 → r.upWait = [] → r.downWait = [] →
        let up := d.collPort c r.e.down == some h
        let got := if up then r.rUp else r.rDown
        let bs := f.payload.take (match r.e.streamBytes up with | some t => min 240 (t - got) | none => 240)
        let r' := if up then { r with inUp := r.inUp ++ bs, rUp := got + bs.length }
          else { r with inDown := r.inDown ++ bs, rDown := got + bs.length }
        (f.wordA / 2 ^ 24 % 4 = r.e.phase up → f.wordB = got → r.streamOver r.e up = false →
          (d.setRun c ch (some r')).collStep c ch = none → d.runOver c r' r.e = false → ∃ e, exec (.collFlit n b) s = .next (s.withDev e) ∧ e.collRun c ch = some r' ∧
            d.KeptOutside e fun p => p.sendOf h || p == .coll c) ∧
        ((f.wordA / 2 ^ 24 % 4 ≠ r.e.phase up ∨ f.wordB ≠ got ∨ r.streamOver r.e up = true) → ∃ e, exec (.collFlit n b) s = .next (s.withDev e) ∧
          e.collRun c ch = some { r with fail := 0x0A43 } ∧ (e.hdr (pgColl c)).errCode = 0x0A43 ∧
          d.KeptOutside e fun p => p.sendOf h || p == .coll c || p == .hdr (pgColl c) || p == .hdr pgDbg || p == .log))

/-- What a collective computes of two units (R101, R112, R142, R320, R321, Table 11-7): MAX gives the larger word, NaN where
either is one, and +0 above −0; SUM refuses with 0x0A43 a tile of another name, and adds element by element, an element
outside the extent giving 0; a partial of another type or version is refused with 0x0A42; a GAUGE unit of another slot or tag
is refused with 0x0A43. The model's own choices in it: log entry 53. -/
def Obligations.CollCombines : Prop :=
  ∀ (fmt : Nat) (inc own : List Byte),
    let a := Tile.parse inc
    let b := Tile.parse own
    (combineUnit 1 fmt inc own =
      .ok (natLe 4 (maxWord (BitVec.ofNat 32 (leNat inc)) (BitVec.ofNat 32 (leNat own))).toNat)) ∧
    (∀ x y : F32, (isNan x = true ∨ isNan y = true → maxWord x y = fnan) ∧
      (isNan x = false → isNan y = false → (maxWord x y = x ∨ maxWord x y = y) ∧
        flt (maxWord x y) x = false ∧ flt (maxWord x y) y = false) ∧
      maxWord 0x80000000#32 0#32 = 0#32 ∧ maxWord 0#32 0x80000000#32 = 0#32) ∧
    (sameTile a.hdr b.hdr = false ∨ b.hdr.fmt ≠ fmt → combineUnit 0 fmt inc own = .error 0x0A43) ∧
    (sameTile a.hdr b.hdr = true → b.hdr.fmt = fmt → ∃ t : Tile, combineUnit 0 fmt inc own = .ok t.bytes ∧
      t.hdr = { b.hdr with fmt := 10, shift := 0, tscale := 127 } ∧
      t.codes = (inExtent b.hdr (List.zipWith (List.zipWith fadd) a.values b.values)).map fun r => r.map BitVec.toNat) ∧
    ((LongPartial.parse inc).typ ≠ 0x4C ∨ (LongPartial.parse inc).ver ≠ 1 → combineUnit 2 fmt inc own = .error 0x0A42) ∧
    ((WidePartial.parse inc).typ ≠ 0x57 ∨ (WidePartial.parse inc).ver ≠ 1 → combineUnit 3 fmt inc own = .error 0x0A42) ∧
    (field inc 0 4 ≠ field own 0 4 ∨ field inc 0x0C 2 % 512 ≠ field own 0x0C 2 % 512 →
      combineUnit 4 fmt inc own = .error 0x0A43)

/-- The die-to-die ports (R484). An ACTIVE port that retrains is in retrain at each of its ends, counted and reported; training
that succeeds makes it ACTIVE again; training that fails sets 0x0A80, and a retrain past its limit 0x0A81 at each end: the
port is then DOWN, its dies are UNUSABLE, and FAULT_N is asserted. The model's own choices in it: log entry 79. -/
def Obligations.D2dPorts : Prop :=
  ∀ (s : State) (c q : Nat), s.Up → c < 4 → q < 3 →
    let d := s.dev
    let ends := d2dEnds c q
    let lost (e : Dev) := (∀ x ∈ ends, e.d2d x q = 0 ∧ (e.die x).unusable = true) ∧
      (∀ x, x ∉ ends → e.die x = d.die x) ∧ (∀ k, e.core k = d.core k) ∧ e.mem = d.mem
    let down (i : Instr) (code : Nat) (at_ : List Nat) := ∃ e, exec i s = .next
      { s with chip := { s.chip with dev := e, pow := { s.chip.pow with faultN := true, unitFailed := true } } } ∧ lost e ∧
      ∀ x ∈ at_, (e.hdr (pgD2d x)).errCode = code
    (d.d2d c q = 2 → ∃ e, exec (.d2dRetrain c q) s = .next (s.withDev e) ∧
      (∀ x ∈ ends, e.d2d x q = 3 ∧ e.reg (pgD2d x) (d2dKey q 0x14) = sat 32 (d.reg (pgD2d x) (d2dKey q 0x14) + 1) ∧
        e.hdr (pgD2d x) = (d.hdr (pgD2d x)).raised 1) ∧
      d.KeptOutside e fun p => match p with
        | .reg g o => (o == d2dKey q 8 || o == d2dKey q 0x14) && ends.any fun x => g == pgD2d x
        | .hdr g => ends.any fun x => g == pgD2d x | _ => false) ∧
    (d.d2d c q = 1 ∨ d.d2d c q = 3 → ∃ e, exec (.d2dTrainingDone c q true) s = .next (s.withDev e) ∧
      (∀ x ∈ ends, e.d2d x q = 2) ∧
      d.KeptOutside e fun p => match p with
        | .reg g o => o == d2dKey q 8 && ends.any fun x => g == pgD2d x | _ => false) ∧
    (d.d2d c q = 1 → down (.d2dTrainingDone c q false) 0x0A80 [c]) ∧
    (d.d2d c q = 3 → down (.d2dRetrainTimeout c q) 0x0A81 ends)

/-- Points between ticks (R404, R411, R412, R415). A ramp that is done brings a die to its target. Energy over its budget steps
every die of the partition down one point, not below SLOW, and counts the impression once; the repeat steps them again in that
impression. Input power above LIMIT steps one claimed die down that can. A sensor above T_HOT steps its die toward index 3.
The model's own choices in it: log entry 73. -/
def Obligations.DiePoints : Prop :=
  ∀ (s : State) (c p : Nat), s.Up → c < 4 → p < 4 →
    let d := s.dev
    let x := d.part p
    let mark := (x.num + 1) % 2 ^ 32
    let beyond := d.reg pgGov (overKey p)
    let cnt (e : Dev) := e.reg pgGov (0x220 + 0x40 * p)
    (∃ e, exec (.pointRampDone c) s = .next (s.withDev e) ∧
      e.die c = (if (d.die c).ramp then { d.die c with point := (d.die c).target, ramp := false } else d.die c) ∧
      d.Kept e [.die c]) ∧
    (x.claim = 2 → x.starting = false → x.state = .running ∨ x.state = .pause →
      ∃ e, exec (.energyOverBudget p) s = .next (s.withDev e) ∧ d.DiesStep e (d.owns p) d.slow ∧
        cnt e = (if beyond = mark then cnt d else sat 32 (cnt d + 1)) ∧
        (beyond ≠ mark → bit (e.hdr pgGov).raw.toNat (4 * p + 2) = true) ∧ e.reg pgGov (overKey p) = mark ∧
        d.KeptOutside e Place.points) ∧
    (beyond = mark → x.claim = 2 → x.state = .running ∨ x.state = .pause →
      ∃ e, exec (.energyStepdownRepeat p) s = .next (s.withDev e) ∧ d.DiesStep e (d.owns p) d.slow ∧ cnt e = cnt d ∧
        d.KeptOutside e Place.points) ∧
    (d.limit < d.pin → d.slowable ≠ [] →
      ∃ e, ∃ i ∈ d.slowable, exec (.powerCapStepdown) s = .next (s.withDev e) ∧ d.DiesStep e (· == i) d.slow ∧
        d.KeptOutside e fun q => q.points || q == .free) ∧
    ((dieSensors c).any d.hots.contains = true →
      ∃ e, exec (.thermalHotStepdown c) s = .next (s.withDev e) ∧ d.DiesStep e (· == c) (fun _ => 3) ∧
        d.KeptOutside e Place.points)

/-- Samples of power and temperature (R401, R412, R415, R421, Table 14-4). A sample of the input power stands in PIN, and one
above LIMIT counts its 1 ms window once in CAPPED_CNT; CORE_c is gated when no claimed die can step down further and runs
freely once PIN has fallen to 95 % of LIMIT; a sensor at T_WARN or T_HOT sets its warning or cap, T_HOT steps its die at once,
and the hub's sensor sets THERM_WARN only. Event ALERT is raised when a bit of ALERT rises. The model's own choices in it: log
entry 74. -/
def Obligations.PowerSamples : Prop :=
  ∀ (s : State) (w mv n : Nat) (t : Int), s.Up → w < 2 ^ 32 → 40000 ≤ mv → mv ≤ 50000 → n < 13 →
    let d := s.dev
    let p := s.pow
    let win := d.time / 1000000 % (2 ^ 32 - 1) + 1
    let alerts (e : Dev) (v : Nat) := alertRises d e p.vin v = true → bit (e.hdr pgPwr).raw.toNat 1 = true
    let th := d.thresholds n
    let warm (x : List Nat) := if th.1 ≤ t then insertNat n x else x
    (∃ e, exec (.pinSample w) s = .next (s.withDev e) ∧ e.pin = w ∧ alerts e p.vin ∧
      e.reg pgPwr 0x134 = (if d.limit < w ∧ d.reg pgPwr cappedKey ≠ win then sat 32 (d.reg pgPwr 0x134 + 1)
        else d.reg pgPwr 0x134) ∧
      (d.pin ≤ d.limit → d.limit < w → bit (e.hdr pgPwr).raw.toNat 2 = true) ∧
      d.Kept e [.hdr pgPwr, .reg pgPwr 0x10C, .reg pgPwr 0x134, .reg pgPwr cappedKey]) ∧
    (p.gated = false → d.limit < d.pin → d.slowable = [] → (∃ c < 4, (d.die c).part.isSome = true) →
      ∃ e, exec .clockGateEngage s = .next (s.withAll e { p with gated := true } s.sec) ∧
        e.reg pgPwr 0x138 = sat 32 (d.reg pgPwr 0x138 + 1) ∧ (e.hdr pgGov).errCode = 0x0D05 ∧
        e.hdr pgPwr = (d.hdr pgPwr).raised 3 ∧ d.Kept e [.reg pgPwr 0x138, .hdr pgGov, .hdr pgPwr, .hdr pgDbg, .log]) ∧
    (p.gated = true → d.pin * 100 ≤ d.limit * 95 →
      exec .clockGateRelease s = .next (s.withAll d { p with gated := false } s.sec)) ∧
    (∃ e, exec (.vinAlert mv) s = .next (s.withAll e { p with vin := mv } s.sec) ∧ alerts e mv ∧ d.Kept e [.hdr pgPwr]) ∧
    (∃ e, exec (.thermalWarn n t) s = .next (s.withDev e) ∧ (∀ i, tget 0 e.temps i = if i = n then t else tget 0 d.temps i) ∧
      e.warned = warm d.warned ∧ e.hots = d.hots ∧ alerts e p.vin ∧ d.Kept e [.temps, .hdr pgPwr]) ∧
    (∃ e, exec (.thermalHot n t) s = .next (s.withDev e) ∧ (∀ i, tget 0 e.temps i = if i = n then t else tget 0 d.temps i) ∧
      e.warned = warm d.warned ∧
      e.hots = (if th.2.1 ≤ t ∧ n < 12 then insertNat n d.hots else d.hots) ∧ alerts e p.vin ∧
      d.DiesStep e (fun c => decide (th.2.1 ≤ t) && sensorDie n == some c) (fun _ => 3) ∧
      d.KeptOutside e fun q => q.points || q == .temps || q == .hdr pgPwr)

/-- Power states (R405, R418, R424, R432, R492, R495, Tables 14-3, 15-1 and 15-5). 44 V brings STANDBY; PWR_EN brings BOOT, at
once or when 5 ms have passed; PWR_EN deasserted for 10 ms brings STANDBY again, a thermal trip TRIPPED and the loss of 44 V
OFF, and then nothing survives but what left the module, what its sensors read, and the fuses and flash. A warm-reset trigger
starts Table 15-5 with its cause; during BOOT or a warm reset it starts it again and the first cause stays. When the rails are
off, DDR5 with its channels' layout and its COMPLETE generations survive, the statistics data of every core keep their
contents (R170), the energy drawn since power-on goes on being counted, and all else of the device is as after reset, but the
proof reserve that the generations stand in. The model's own choices in it: log entries 5, 64 and 72. -/
def Obligations.PowerStates : Prop :=
  ∀ (s : State) (mv ns n : Nat) (t : Int) (w : Word), 40000 ≤ mv → mv ≤ 50000 → 10000000 ≤ ns → n < 13 →
    let d := s.dev
    let p := s.pow
    let x := s.sec
    let dark := p.mode = .off ∨ p.mode = .standby
    let nothing (e : Dev) (y : Sec) := e = { State.reset.dev with out := d.out, freeCount := d.freeCount }.sensed d ∧
      (∃ cause, y = { State.reset.sec with cause, fusedSvn := x.fusedSvn, revoked := x.revoked, flash := x.flash })
    let lost (c : Instr) (m : PwrMode) (v : Nat) := ∃ e q y, exec c s = .next (s.withAll e q y) ∧ q.mode = m ∧ q.vin = v ∧
      nothing e y
    let boots (c : Instr) := ∃ e q y, exec c s = .next (s.withAll e q y) ∧ q.mode = .boot ∧ q.stage = 0 ∧
      q.hubRails = false ∧ q.dieRails = false ∧ nothing e y
    let again := p.mode = .warmReset ∨ p.mode = .boot
    let warm (c : Instr) (cause : Nat) (code page : Nat) := ∃ e q y, exec c s = .next (s.withAll e q y) ∧
      q.mode = .warmReset ∧ q.warm = 1 ∧ q.frozen = false ∧
      y = (if again then x else { x with cause, warmResets := sat 16 (x.warmResets + 1) }) ∧
      (code ≠ 0 → p.up = true → (e.hdr page).errCode = code) ∧ d.Kept e [.hdr page, .hdr pgDbg, .log]
    (p.mode = .off → exec (.vinApply mv) s = .next (s.withAll d
      { State.reset.pow with mode := .standby, vin := mv, pwrEn := p.pwrEn, fresh := true, waiting := p.pwrEn } x)) ∧
    lost .vinRemove .off 0 ∧
    (p.mode = .standby → p.fresh = false → boots .pwrEnAssert) ∧
    (p.mode = .standby → p.fresh = true →
      exec .pwrEnAssert s = .next (s.withAll d { p with pwrEn := true, waiting := true } x)) ∧
    (p.mode = .standby → p.waiting = true → p.pwrEn = true → boots .bootDelayExpiry) ∧
    (¬dark → lost (.pwrEnDeassert ns) .standby p.vin) ∧
    (¬dark → p.mode ≠ .tripped → (d.thresholds n).2.2 ≤ t → lost (.thermalTrip n t) .tripped p.vin) ∧
    (¬dark → p.mode ≠ .tripped → warm .railFault 4 0x0D06 pgPwr) ∧
    (p.served = true → warm .watchdogExpiry 5 0x0E0A pgSec) ∧
    (p.served = true → warm .bmbWarmReset 2 0 pgSec) ∧
    (p.mode = .ready ∨ p.mode = .run → p.frozen = true → warm .bmbWarmReset 2 0 pgSec) ∧
    (p.up = true → w.toNat / 2 ^ 16 = 0xA5C3 → bit w.toNat 0 = true → warm (.secResetWrite w) 3 0 pgSec) ∧
    (p.up = true → ¬(w.toNat / 2 ^ 16 = 0xA5C3 ∧ bit w.toNat 0 = true) → ∃ e, exec (.secResetWrite w) s = .next (s.withDev e) ∧
      (e.hdr pgSec).errCode = 0x0E09 ∧ d.Kept e [.hdr pgSec, .hdr pgDbg, .log]) ∧
    (p.mode = .warmReset → p.warm = 1 → exec .ddrSelfRefreshEntered s = .next (s.withAll d { p with warm := 2 } x)) ∧
    (p.mode = .warmReset → p.warm = 2 → (d.gens.map (·.1)).Nodup → (d.cores.map (·.1)).Nodup → ∃ e q y,
      exec .warmResetRailsOff s = .next (s.withAll e q y) ∧ q.mode = .warmReset ∧ q.warm = 3 ∧ q.hubRails = false ∧
      y = { State.reset.sec with cause := x.cause, warmResets := x.warmResets, fusedSvn := x.fusedSvn, revoked := x.revoked
                                 flash := x.flash } ∧
      e.temps = d.temps ∧ (∀ a, e.mem.readByte a = if ddrBase ≤ a ∧ a < sramBase then d.mem.readByte a else Memory.blank) ∧
      (∀ i, (d.gen i).state = 3 → e.gen i = { d.gen i with use := 0, pinned := false, drained := false, drain := false }) ∧
      (∀ i, (d.gen i).state = 0 ∨ (d.gen i).state = 4 → (e.gen i).state = 0) ∧
      (∀ i, (d.gen i).state = 1 ∨ (d.gen i).state = 2 ∨ (d.gen i).state = 5 → (e.gen i).state = 4 ∧ (e.gen i).reason = 3) ∧
      (∀ k, e.core k = (d.core k).atReset) ∧ e.ddrLaid = d.ddrLaid ∧
      (∀ key, tget 0 e.meters key = if key = meterKey pgPwr 0 0x118 then tget 0 d.meters key else 0) ∧
      State.reset.dev.KeptOutside e fun
        | .mem | .gen _ | .out | .free | .temps | .core _ | .meters | .ddrLaid => true
        | .reg g o => g == pgProof && decide (0x110 ≤ o ∧ o < 0x120)
        | _ => false) ∧
    (p.mode = .warmReset → p.warm = 3 →
      exec .warmResetRestart s = .next (s.withAll d { p with mode := .boot, warm := 0, stage := 0 } x))

/-- Start-up (R257, R306, R426–R431, R433, R435, Tables 15-2 and 15-4). When the hub's rails are up the time base counts from 0
and the boot ROM measures itself; a device certificate that does not fit the identity key sets 0x0E06 and nothing is signed.
When the die rails are up PWR_GOOD is released and every die-to-die port trains. A firmware slot that passes R428 is measured
and run, and the management processor enables every link (R306); one that fails sets the code of the first check it fails, and
after the second 0x0E04 is set, FAULT_N asserted and recovery entered, where only a loaded image that passes R428 runs. Memory
training brings READY, a stack that failed marking its die unusable and asserting FAULT_N; a channel is populated where its
DIMM is supported and trains, and any other that holds a DIMM sets 0x0901, and memory stays as it was while the populated
channels are those it was laid over; READY not reached in time asserts FAULT_N with 0x0E0B and the module stays in BOOT. The
model's own choices in it: log entries 7, 49, 72 and 75. -/
def Obligations.StartUp : Prop :=
  ∀ (s : State) (slot off failing bad : Nat) (dimms : List Nat) (bytes : List Byte), s.pow.mode = .boot → s.pow.frozen = false →
    s.sec.log.length + 2 ≤ 16 →
    let d := s.dev
    let p := s.pow
    let x := s.sec
    let extended (y : Sec) (ms : List Meas) := y.log = x.log ++ ms ∧ y.chain = ms.foldl extendChain x.chain
    let ran (c : Instr) (h body : List Byte) (b rec fault : Bool) := ∃ e y,
      exec c s = .next (s.withAll e { p with stage := 2, faultN := fault } y) ∧ y.slotB = b ∧ y.recovery = rec ∧
      (∀ n < 36, e.reg (pgLink n) 0x104 = d.reg (pgLink n) 0x104 ||| 2 ^ 31 ∧
        e.link n = if (d.link n).state = .disabled then { d.link n with state := .training } else d.link n) ∧
      (d.KeptOutside e fun | .link _ => true | .reg g o => o == 0x104 && (List.range 36).any (fun n => g == pgLink n) | _ => false) ∧
      extended y [⟨2, field h 0xC 4, y.fwDigest⟩,
        ⟨3, x.fusedSvn % 256 * 2 ^ 24 + x.revoked % 256 * 2 ^ 16, digest64 (Config.fuseImage x.fusedSvn x.revoked)⟩] ∧
      y.fwDigest = digest64 (h.take 0x14E5 ++ body) ∧ y.imageSvn = field h 8 4 ∧ y.fwVersion = field h 0xC 4 ∧
      y.fusedSvn = x.fusedSvn ∧ y.signingOff = x.signingOff
    let err (c : Instr) (code : Nat) (q : Pow) (y : Sec) := ∃ e, exec c s = .next (s.withAll e q y) ∧
      (e.hdr pgSec).errCode = code ∧ d.Kept e [.hdr pgSec, .hdr pgDbg, .log]
    let key := padTo 1952 Config.identityKey
    let sound := ((Config.identityCert.drop 0x70).take 1952 == key) && Config.keyChains (digest64 Config.identityCert) key
    let h := x.flashRead slot 0 0x2000
    let body := x.flashRead slot 0x2000 (bodyLen h)
    let h' := x.image.read 0 0x2000
    let body' := x.image.read 0x2000 (bodyLen h')
    let failed (st : Nat) : Prop := st < 8 ∧ bit failing st = true
    let takes (n : Nat) : Bool := supportedDimm (dimms.getD n 0) && !bit bad n
    (p.hubRails = false → ∃ e y, exec .hubRailsInRegulation s = .next (s.withAll e { p with hubRails := true, stage := 0 } y) ∧
      e.time = 0 ∧ extended y [⟨1, Config.romRevision % 2 ^ 32, Config.romDigest⟩] ∧
      (sound = false → (e.hdr pgSec).errCode = 0x0E06 ∧ y.signingOff = true) ∧ (sound = true → y.signingOff = x.signingOff) ∧
      d.Kept e [.time, .hdr pgSec, .hdr pgDbg, .log]) ∧
    (p.hubRails = true → p.dieRails = false → ∃ e q, exec .dieRailsInRegulation s = .next (s.withAll e q x) ∧
      q = { p with dieRails := true, stage := if p.stage = 0 then 1 else p.stage } ∧ q.pwrGood = .released ∧
      (∀ c < 4, ∀ i < 3, e.d2d c i = 1) ∧
      d.KeptOutside e fun | .reg g o => (List.range 4).any (fun c => g == pgD2d c) && (List.range 3).any (fun i => o == d2dKey i 8)
                          | _ => false) ∧
    (p.stage = 1 → slot = x.slotTried →
      (x.fwCheck h body = 0 → p.faultN = false → ran (.firmwareVerified slot) h body (slot == 1) false false) ∧
      (x.fwCheck h body ≠ 0 → x.tried = 0 → err (.firmwareVerified slot) (x.fwCheck h body) p { x with tried := 1 }) ∧
      (x.fwCheck h body ≠ 0 → x.tried ≠ 0 → err (.firmwareVerified slot) 0x0E04 { p with stage := 4, faultN := true }
        { x with tried := 2, recovery := true })) ∧
    (p.stage = 4 → bytes.length = 256 → off + 256 ≤ 2 ^ 25 →
      ∃ y, exec (.recoveryLoad off bytes) s = .next (s.withAll d p y) ∧ y = { x with image := y.image } ∧
        y.image.read off 256 = bytes ∧ (x.image.wf = true → y.image.wf = true) ∧
        ∀ a, a < off ∨ off + 256 ≤ a → y.image.readByte a = x.image.readByte a) ∧
    (p.stage = 4 →
      (x.fwCheck h' body' = 0 → ran .recoveryGo h' body' false true p.unitFailed) ∧
      (x.fwCheck h' body' ≠ 0 → err .recoveryGo 0x0E05 p x)) ∧
    (p.stage = 2 → p.stuck = false → dimms.length = 12 → ∃ e q y,
      exec (.memoryTrainingDone failing dimms bad) s = .next (s.withAll e q y) ∧ q.mode = .ready ∧ q.stage = 3 ∧
      q.faultN = (p.unitFailed || failing % 256 != 0) ∧ bit (e.hdr pgSec).raw.toNat 1 = true ∧
      y.log.length = x.log.length + 1 ∧ (y.log.getLast?.map (·.typ)) = some 4 ∧
      (∀ st, failed st → (e.die (st / 2)).unusable = true ∧ (e.hdr (pgHbmc st)).errCode = 0x0808) ∧
      (∀ c, ¬failed (2 * c) → ¬failed (2 * c + 1) → (e.die c).unusable = (d.die c).unusable) ∧
      (∀ n < 12, e.dimm n = if takes n then dimms.getD n 0 else 0) ∧
      (∀ n < 12, takes n = false → dimms.getD n 0 ≠ 0 ∨ bit bad n = true → (e.hdr (pgDdr n)).errCode = 0x0901) ∧
      (∀ i, e.core i = d.core i) ∧ (d.ddrLaid = [] ∨ d.ddrLaid = (List.range 12).filter takes → e.mem = d.mem)) ∧
    (p.stage ≠ 3 → err .bootTimeout 0x0E0B { p with faultN := true, stuck := p.stage != 4 } x)

/-- Orders for a proof, and their cancelling (R338–R340). An order for a later boundary of a running partition with no order
pending and no generation copying is accepted and stands; otherwise 0x0B01, or 0x0B02 where only the copying stands against
it, or 0x0B05 where a shadow reserve is bad. A stopped or halted partition is cut at once, a cold cut only where the
conditions of R341 hold, and else is refused with 0x0B03. CANCEL withdraws a pending order, one that stands while a restore
runs too, fails a generation that is copying or signing with reason CANCELLED, and is ignored otherwise. -/
def Obligations.ProofOrders : Prop :=
  ∀ (s : State) (p : Nat) (w : Word), s.Up → p < 4 → bit w.toNat 0 = true →
    let d := s.dev
    let x := d.part p
    let y := d.proof p
    let cold := bit w.toNat 1
    let c : Instr := if cold then .proofOrderCold p w else .proofOrderWarm p w
    let busy := y.phase = .copy ∨ y.phase = .sign
    let taken := y.phase = .ordered ∨ y.phase = .quiesce ∨ y.phase = .capture ∨ y.phase = .restore
    let still := (x.state = .stopped ∨ x.state = .halted) ∧ x.run = false
    let b := d.prf p 0
    let late := serialLater 32 x.num b = false ∨ (b = (x.num + 1) % 2 ^ 32 ∧ x.nextTick ≤ d.time + d.guardNs p)
    let order : ProofSt := { y with phase := .ordered, cold, drain := bit w.toNat 2, pin := bit w.toNat 3 }
    let coldOk := d.coldReady p = true ∧ x.pos = 0
    let fail := proofReg p 0x5C
    let refused (code : Nat) := ∃ e, exec c s = .next (s.written e) ∧ (e.hdr pgProof).errCode = code ∧
      d.Kept e [.hdr pgProof, .hdr pgDbg, .log]
    (¬(still ∧ ¬busy) →
      (x.claim ≠ 2 ∨ x.run = false ∨ taken ∨ late → refused 0x0B01) ∧
      (x.claim = 2 → x.run = true → ¬taken → ¬late →
        (busy → refused 0x0B02) ∧
        (¬busy → (d.badReserve p).isSome = true → refused 0x0B05) ∧
        (¬busy → d.badReserve p = none → ∃ e, exec c s = .next (s.written e) ∧
          e.proof p = { order with immediate := false, b } ∧ d.Kept e [.proof p]))) ∧
    (still → ¬busy →
      (x.claim ≠ 2 ∨ taken → refused 0x0B01) ∧
      (x.claim = 2 → ¬taken → (d.badReserve p).isSome = true → refused 0x0B05) ∧
      (x.claim = 2 → ¬taken → d.badReserve p = none →
        (cold = true → ¬coldOk → refused 0x0B03) ∧
        (cold = false ∨ coldOk → ∃ e, exec c s = .next (s.written e) ∧
          e.proof p = { order with phase := .quiesce, immediate := true, b := x.num, cutTime := d.time, prior := x.state.code } ∧
          e.part p = { x with moversHeld := true, released := false, orders := (e.part p).orders } ∧
          ((∀ c ∈ d.diesOf p, ∀ i < 16, (d.dma (dmaIdx c i)).running = none) → d.Kept e [.proof p, .part p]) ∧
          d.KeptOutside e fun
            | .proof q | .part q => q == p | .dma _ | .mem | .cow _ | .free | .reg _ _ | .hdr _ | .log | .core _ => true
            | _ => false))) ∧
    (y.phase = .ordered → ∃ e, exec (.proofCancel p w) s = .next (s.written e) ∧ e.proof p = { y with phase := .idle } ∧
      d.Kept e [.proof p]) ∧
    (busy → ∃ e, exec (.proofCancel p w) s = .next (s.written e) ∧
      e.gen y.slot = { d.gen y.slot with state := 4, reason := 1, code := 0, frames := [], man := [], pinned := false
                                         snap := [], use := 0 } ∧
      e.proof p = { y with phase := .idle } ∧ e.reg pgProof fail = sat 32 (d.reg pgProof fail + 1) ∧
      e.hdr pgProof = (d.hdr pgProof).raised (8 * p + 3) ∧ e.signQ = d.signQ.filter (· != (0, p)) ∧
      (∀ st ∈ d.stacksOf p, (e.cow st).armed = false ∧ (e.cow st).held = [] ∧
        ∀ q, (d.cow st).dirty.has q = true ∨ (d.cow st).copySet.has q = true → (e.cow st).dirty.has q = true) ∧
      d.KeptOutside e fun
        | .gen i => i == y.slot | .proof q => q == p | .cow st => (d.stacksOf p).contains st
        | .reg g o => g == pgProof && o == fail | .hdr g => g == pgProof | .mem | .signQ | .saveHold => true | _ => false) ∧
    (y.phase = .restore → ∃ e, exec (.proofCancel p w) s = .next (s.written e) ∧ e.proof p = { y with keep := false } ∧
      d.Kept e [.proof p]) ∧
    (y.phase ≠ .ordered → y.phase ≠ .restore → ¬busy → exec (.proofCancel p w) s = .next (s.written d))

/-- GEN_CTL (R361, R371). PIN and UNPIN act on a COMPLETE generation; DELETE frees the slot selected, and is refused with 0x0B0E
where the generation is pinned, in use or being made; DRAIN_NOW puts a COMPLETE generation on the list of those to drain. The
four commands write the bits they name, in that order. The model's own choices in it: log entry 61. -/
def Obligations.GenControl : Prop :=
  ∀ (s : State) (w : Word) (c : Instr), s.Up →
    (c = .genPin w ∧ bit w.toNat 0 = true) ∨ (c = .genUnpin w ∧ bit w.toNat 1 = true) ∨
      (c = .genDelete w ∧ bit w.toNat 2 = true) ∨ (c = .drainNow w ∧ bit w.toNat 3 = true) →
    let d := s.dev
    let i := d.reg pgProof 0x130 % 16
    let g := d.gen i
    let pinned := if g.state = 3 then (if bit w.toNat 1 then false else bit w.toNat 0 || g.pinned) else g.pinned
    let waits := if bit w.toNat 3 = true ∧ g.state = 3 ∧ g.id ∉ d.drainQ then d.drainQ ++ [g.id] else d.drainQ
    let free := (g.state = 3 ∨ g.state = 4) ∧ pinned = false ∧ g.use = 0
    let kept (e : Dev) := e.gen i = { g with pinned } ∧ e.drainQ = waits ∧ e.drain = d.drain ∧ e.sinceDrain = d.sinceDrain
    (bit w.toNat 2 = false ∨ g.state = 0 → ∃ e, exec c s = .next (s.written e) ∧ kept e ∧ d.Kept e [.gen i, .drain]) ∧
    (bit w.toNat 2 = true → g.state ≠ 0 → ¬free → ∃ e, exec c s = .next (s.written e) ∧ kept e ∧
      (e.hdr pgProof).errCode = 0x0B0E ∧ d.Kept e [.gen i, .drain, .hdr pgProof, .hdr pgDbg, .log]) ∧
    (bit w.toNat 2 = true → free → ∃ e, exec c s = .next (s.written e) ∧ e.gen i = {} ∧
      e.drainQ = d.drainQ.filter (· != g.id) ∧ e.drain = d.drain ∧
      (tget 0 d.parents g.mask = g.id → g.id ≠ 0 → tget 0 e.parents g.mask = 0 ∧
        ∀ c ∈ setBits 4 g.mask, ∀ q, (e.cow (2 * c)).dirty.has q = true ∧ (e.cow (2 * c + 1)).dirty.has q = true) ∧
      e.genNext = d.genNext ∧ d.KeptOutside e fun
        | .gen j => j == i | .drain | .genNext => true | .cow st => (setBits 4 g.mask).contains (st / 2) | _ => false)

/-- A cut (R344–R346, R352, R355–R358). When quiesce is complete the Platens of the partition stand at a tile, the copy sets are
frozen, DIRTY is cleared, and the generation takes the lowest free slot and the next number; without a slot, or frames, the
proof fails with 0x0B05, and past the limit with 0x0B04: FAIL is raised, the movers go on and no number is used. Capture puts
every core's case and control image in its slot of the save area and lets the movers go on, with event CUT; a cold one with a
bad directory entry fails with 0x0B05. The model's own choices in it: log entries 43, 60 and 61. -/
def Obligations.ProofCuts : Prop :=
  ∀ (s : State) (p : Nat), s.Up → p < 4 → s.dev.NoTransfers → s.dev.NoLinkHolds →
    let d := s.dev
    let x := d.proof p
    let fail := proofReg p 0x5C
    let dd := (d.stacksOf p).foldl Dev.platenProgress d
    let cut := dd.newGen x p s.sec.debugOpen s.sec.fwDigest
    let parent := match d.genSlot cut.hdr.parent with | some i => d.gen i | none => {}
    let start : GenSt := { cut with hdr := { cut.hdr with parent := parent.id } }
    let onward (e : Dev) := (e.part p).moversHeld = false ∧ (e.part p).released = true
    let fails (e : Dev) (code : Nat) := (e.proof p).phase = .idle ∧ (e.hdr pgProof).errCode = code ∧
      bit (e.hdr pgProof).raw.toNat (8 * p + 3) = true ∧ e.reg pgProof fail = sat 32 (d.reg pgProof fail + 1) ∧ onward e
    let failsIn (c : Instr) (code : Nat) (more : Place → Bool) := ∃ e, exec c s = .next (s.withDev e) ∧ fails e code ∧
      e.genNext = d.genNext ∧ dd.KeptOutside e fun q => q.goingOn p || q == .proof p || more q
    (x.phase = .quiesce → d.quiesced p = true →
      (d.freeSlot = none → failsIn (.quiesceDone p) 0x0B05 fun _ => false) ∧
      (∀ i d2, d.freeSlot = some i → (dd.freezeSets p parent).fitGen p start parent 17 = (d2, none) →
        failsIn (.quiesceDone p) 0x0B05 fun | .gen _ | .drain | .genNext => true | _ => false) ∧
      (∀ i d2 g, d.freeSlot = some i → (dd.freezeSets p parent).fitGen p start parent 17 = (d2, some g) →
        ∃ e, exec (.quiesceDone p) s = .next (s.withDev e) ∧ e.gen i = g ∧
          g = { start with frames := g.frames, manWin := g.manWin, man := g.man } ∧ e.genNext = nextGen d.genNext ∧
          e.proof p = { x with phase := .capture, slot := i } ∧
          (∀ st ∈ d.stacksOf p, (e.cow st).armed = true ∧ (e.cow st).shadow = [] ∧ (e.cow st).done = [] ∧
            (∀ q, (e.cow st).dirty.has q = false) ∧
            (∀ q, (dd.cow st).dirty.has q = true → (e.cow st).copySet.has q = true) ∧
            (d.saveArea st, 162 * pageBytes) ∈ e.saveHold) ∧
          dd.KeptOutside e fun
            | .gen _ | .drain | .genNext | .mem | .saveHold => true | .proof q => q == p | .cow st => (d.stacksOf p).contains st
            | .reg g o => o == 0x198 && (d.stacksOf p).any (fun st => g == pgHbmc st) | _ => false)) ∧
    (x.phase = .quiesce → ∃ e, exec (.quiesceTimeout p) s = .next (s.withDev e) ∧ fails e 0x0B04 ∧
      e.time = max d.time (x.cutTime + 1000 * d.prf p 0x14) ∧ e.genNext = d.genNext ∧
      d.KeptOutside e fun q => q.goingOn p || q == .proof p || q == .time) ∧
    (x.phase = .capture → d.badReserve p = none →
      let n := d.prf p 0x24
      let tdir := if x.cold then d.read (d.reg64 pgProof (proofReg p 0x28) % 2 ^ 48) (32 * n) else []
      let bad : Bool := x.cold && (List.range n).any fun i => d.tdirBad p ((tdir.drop (32 * i)).take 32)
      (bad = true → ∃ e, exec (.captureDone p) s = .next (s.withDev e) ∧ fails e 0x0B05 ∧ e.gen x.slot = {} ∧
        (d.genNext = nextGen (d.gen x.slot).id → e.genNext = (d.gen x.slot).id) ∧
        (∀ st ∈ d.stacksOf p, (e.cow st).armed = false)) ∧
      (bad = false → ∃ e, exec (.captureDone p) s = .next (s.withDev e) ∧ e.proof p = { x with phase := .copy } ∧
        e.gen x.slot = { d.gen x.slot with tdir } ∧ e.hdr pgProof = (d.hdr pgProof).raised (8 * p) ∧ onward e ∧
        ((∀ c, ∀ y ∈ (d.coll c).chans, y.2 = none) → ∀ k, k < numCores → d.owns p (coreDie k) = true →
          d.Copied e (caseBase k) (d.caseSlot k) caseBytes ∧ e.mem.read (d.controlSlot k) 0x40000 = d.controlImage k) ∧
        d.KeptOutside e fun q => q.goingOn p || q == .proof p || q == .gen x.slot))

/-- Copying a cut (R350, R351, R358, R360). A write to a PENDING page waits; the page goes to the lowest free shadow slot and the
write lands; without a slot the wait is counted. The copier writes the page it is at to its frame, and the page is DONE. When
every page is written the controllers leave copy-on-write and the manifest waits to be signed. A bad unit in a source fails
the generation with 0x0B06, and no signature with 0x0B07; signed, the generation is COMPLETE and the parent of the next, the
oldest beyond RETAIN retire, and those that are to drain wait for it. The model's own choices in it: log entries 7, 61 and 92.
-/
def Obligations.ProofCopies : Prop :=
  ∀ (s : State) (p st q : Nat) (sig : List Byte), s.Up → p < 4 → st < 8 → s.dev.NoTransfers →
    let d := s.dev
    let x := d.proof p
    let c := d.cow st
    let g := d.gen x.slot
    let page := st * stackBytes + q * pageBytes
    let reg (e : Dev) (o : Nat) := e.reg pgProof (proofReg p o)
    let failed (e : Dev) (code : Nat) := (e.gen x.slot).state = 4 ∧ (e.gen x.slot).reason = 2 ∧ (e.gen x.slot).code = code ∧
      (e.proof p).phase = .idle ∧ (e.hdr pgProof).errCode = code ∧ bit (e.hdr pgProof).raw.toNat (8 * p + 3) = true ∧
      reg e 0x5C = sat 32 (reg d 0x5C + 1) ∧ ∀ t ∈ d.stacksOf p, (e.cow t).armed = false
    (∀ a bs, a < ddrBase → stackOf a = st → pagesOf a bs.length = [q] → d.inReserve st q = false → bs.length ≤ pageBytes →
      (c.pending q = true → (d.write a bs).mem = d.mem ∧ ((d.write a bs).cow st).held = c.held ++ [(a, bs)]) ∧
      (c.pending q = false → c.held = [] → (d.write a bs).mem.read a bs.length = bs ∧ d.SameOutside (d.write a bs) a bs.length ∧
        ((d.write a bs).cow st).dirty.has q = true) ∧
      (c.pending q = true → c.held = [(a, bs)] →
        (∀ i, (List.range (d.shadowPages st - 162)).find? (fun i => !c.shadow.any fun y => y.2 == i) = some i →
          (d.storedBad page pageBytes = none → ∃ e, exec (.shadowCopyDone st q) s = .next (s.withDev e) ∧
            d.Copied e page (d.shadowAddr st i) pageBytes ∧ e.mem.read a bs.length = bs ∧ (e.cow st).held = [] ∧
            (e.cow st).pending q = false ∧
            e.reg (pgHbmc st) 0x198 = sat 32 (d.reg (pgHbmc st) 0x198 + 1) ∧
            d.Kept e [.mem, .cow st, .reg (pgHbmc st) 0x198])) ∧
        ((List.range (d.shadowPages st - 162)).find? (fun i => !c.shadow.any fun y => y.2 == i) = none →
          ∃ e, exec (.shadowCopyDone st q) s = .next (s.withDev e) ∧
            e.reg (pgHbmc st) 0x19C = sat 32 (d.reg (pgHbmc st) 0x19C + 1) ∧ e.hdr (pgHbmc st) = (d.hdr (pgHbmc st)).raised 3 ∧
            d.Kept e [.reg (pgHbmc st) 0x19C, .hdr (pgHbmc st)]))) ∧
    (∀ f, d.copyingPart st = some p → d.nextPage st = some q → g.ownFrame st q = some f →
      let src := match c.shadow.find? fun y => y.1 == q with | some y => d.shadowAddr st y.2 | none => page
      let dst := d.frameAddr f.win f.frame
      (d.storedBad src pageBytes = none → c.held = [] → ∃ e, exec (.copierPageWritten st q) s = .next (s.withDev e) ∧
        d.Copied e src dst pageBytes ∧ d.SameOutside e dst pageBytes ∧ (e.cow st).pending q = false ∧
        (∀ y ∈ (e.cow st).shadow, y.1 ≠ q) ∧ d.Kept e [.mem, .cow st]) ∧
      ((d.storedBad src pageBytes).isSome = true → x.phase = .copy →
        ∃ e, exec (.copierPageWritten st q) s = .next (s.withDev e) ∧ failed e 0x0B06)) ∧
    (x.phase = .copy → (∀ t ∈ d.stacksOf p, d.nextPage t = none) →
      ((∀ t ∈ d.stacksOf p, d.storedBad (d.saveArea t) (162 * pageBytes) = none) →
        ∃ e, exec (.copyDone p) s = .next (s.withDev e) ∧ e.proof p = { x with phase := .sign } ∧
          (e.gen x.slot).state = 2 ∧ (e.gen x.slot).id = g.id ∧ (e.gen x.slot).manifest = (e.gen x.slot).signed ∧
          (e.gen x.slot).frames.map (fun f => (f.kind, f.unit, f.index, f.frame)) =
            g.frames.map (fun f => (f.kind, f.unit, f.index, f.frame)) ∧
          e.signQ = d.signQ ++ [(0, p)] ∧ (∀ t ∈ d.stacksOf p, (e.cow t).armed = false ∧ (e.cow t).held = []) ∧
          d.KeptOutside e fun
            | .gen i => i == x.slot | .proof y => y == p | .cow t => (d.stacksOf p).contains t | .mem | .signQ | .saveHold => true
            | _ => false) ∧
      ((∃ t ∈ d.stacksOf p, (d.storedBad (d.saveArea t) (162 * pageBytes)).isSome = true) →
        ∃ e, exec (.copyDone p) s = .next (s.withDev e) ∧ failed e 0x0B06)) ∧
    (x.phase = .sign → d.signQ.head? = some (0, p) →
      (s.sec.signingOff = true ∨ sig = [] → ∃ e, exec (.manifestSigned p sig) s = .next (s.withDev e) ∧ failed e 0x0B07) ∧
      (s.sec.signingOff = false → sig ≠ [] → ∃ e, exec (.manifestSigned p sig) s = .next (s.withDev e) ∧
        e.gen x.slot = { g with state := 3, manifest := g.manifest ++ signature sig } ∧ e.proof p = { x with phase := .idle } ∧
        e.signQ = d.signQ.tail ∧ tget 0 e.parents g.mask = g.id ∧ reg e 0x10 = g.id % 2 ^ 32 ∧
        reg e 0x58 = sat 32 (reg d 0x58 + 1) ∧ e.hdr pgProof = (d.hdr pgProof).raised (8 * p + 1) ∧
        (g.drain = true → g.id ∈ e.drainQ) ∧ e.genNext = d.genNext ∧ e.drain = d.drain ∧
        (let full := (List.range 16).filter fun i => (e.gen i).state == 3 && (e.gen i).mask == g.mask
         full.length ≤ d.prf p 0x18 % 8 ∨ ∀ i < 16, (e.gen i).retirable g.mask g.id = false) ∧
        d.KeptOutside e fun
          | .gen _ | .drain | .genNext | .mem | .signQ => true | .proof y => y == p | .hdr h => h == pgProof
          | .reg h o => h == pgProof && (o == proofReg p 0x10 || o == proofReg p 0x58) | _ => false))

/-- Drains (R361, R362, R388). With no drain running, the first generation that waits is pinned and sent on its partition's
session, a message at a time while the window is open; without an open session it fails with 0x0B0D. When the stream is sent
and acknowledged it is done, with event DRAIN; data not acknowledged in time fails it with 0x0B0D. Either way the generation
is no longer pinned nor in use. The model's own choices in it: log entry 63. -/
def Obligations.Drains : Prop :=
  ∀ (s : State) (i : Nat) (ids : List Nat), s.Up → s.dev.NoTransfers →
    let d := s.dev
    let g := d.gen i
    let slot := d.prf g.part 0x20 % 8
    let beyond (e : Dev) (drained : Bool) := e.drain = none ∧ e.gen i = { g with use := 0, pinned := false, drained }
    let failed (e : Dev) := beyond e false ∧ (e.hdr pgProof).errCode = 0x0B0D ∧ e.sinceDrain = d.sinceDrain ∧
      d.Kept e [.gen i, .drain, .hdr pgProof, .hdr pgDbg, .log]
    (d.drain = none → d.drainQ = g.id :: ids → d.genSlot g.id = some i →
      ((d.sess slot).state ≠ 2 → ∃ e, exec .proofDrainStart s = .next (s.withDev e) ∧ failed e ∧ e.drainQ = ids) ∧
      ((d.sess slot).state = 2 → ∃ e off, exec .proofDrainStart s = .next (s.withDev e) ∧
        e.drain = some { gen := g.id, session := slot, off, total := g.streamLen } ∧ e.drainQ = ids ∧
        e.sinceDrain = d.sinceDrain ∧ e.gen i = { g with use := 1, pinned := true } ∧
        ((d.sess slot).windowOpen = true → 0 < g.streamLen →
          let bs := d.streamBytes g 0 (d.rjRoom slot - 16)
          let m : RjMsg := { seq := (d.sess slot).txNext, typ := 7, flags := 0, stream := 0
                             payload := natLe 4 g.id ++ natLe 4 (b2n (decide (g.streamLen ≤ bs.length))) ++ natLe 8 0 ++ bs }
          m ∈ (e.sess slot).unacked) ∧
        d.KeptOutside e fun
          | .gen j => j == i | .sess j => j == slot | .drain | .out => true | .reg h _ => h == pgEth | _ => false)) ∧
    (∀ x, d.drain = some x → d.genSlot x.gen = some i →
      (x.total ≤ x.off → (d.sess x.session).draining = false → ∃ e, exec .proofDrainDone s = .next (s.withDev e) ∧
        beyond e true ∧ e.hdr pgProof = (d.hdr pgProof).raised (8 * g.part + 2) ∧ e.drainQ = d.drainQ ∧
        d.Kept e [.gen i, .drain, .hdr pgProof]) ∧
      ((d.sess x.session).draining = true → ∃ e, exec .drainAckTimeout s = .next (s.withDev e) ∧ failed e ∧
        e.drainQ = d.drainQ))

/-- Restores (R363–R368). A restore is refused, with nothing written, unless the partition is claimed, STOPPED and not being cut,
and its generation passes the checks of its mode; else it begins, and the generation is in use. A finished LOAD puts back what
the generation holds of the cores, sets the impression registers to go on after the cut, clears DIRTY and raises RESTORED; a
RELOCATE puts its pages where the load map says, and the partition's Gauge slots start in calibration (R127); an IMPORT is
COMPLETE once its whole stream has come. A digest that does not match ends the restore with 0x0B0B. The model's own choices in
it: log entries 60 and 62. -/
def Obligations.Restores : Prop :=
  ∀ (s : State) (p mode : Nat) (w : Word), s.Up → p < 4 → mode < 3 → bit w.toNat 0 = true → bits w.toNat 2 1 = mode →
    let d := s.dev
    let x := d.part p
    let y := d.proof p
    let c : Instr := if mode = 0 then .restoreLoad p w else if mode = 1 then .restoreRelocate p w else .restoreImport p w
    let ready := x.claim = 2 ∧ x.state = .stopped ∧ x.run = false ∧ (y.phase = .idle ∨ y.phase = .ordered)
    let begun : ProofSt := { y with phase := .restore, mode, sess := 8, got := 0, buf := [], keep := y.phase == .ordered }
    let beyond : ProofSt := { y with phase := if y.keep then .ordered else .idle, keep := false, buf := [] }
    let refused (code : Nat) := ∃ e, exec c s = .next (s.written e) ∧ (e.hdr pgProof).errCode = code ∧
      d.Kept e [.hdr pgProof, .hdr pgDbg, .log]
    let g := d.gen y.slot
    let got := d.loadFrames (d.loadPlace p) g.frames
    let held := got.1.snapOf g
    let cores : Table CoreSt := held.cores.map fun z =>
      match g.snap.find? fun t => t.1 == z.1 with | some t => (z.1, z.2.withKept t.2) | none => z
    let restored (e : Dev) := bit (e.hdr pgProof).raw.toNat (8 * p + 4) = true
    (¬ready → refused 0x0B08) ∧
    (ready → mode = 2 → (d.genSlot (d.prf p 0x40)).isSome = true → refused 0x0B08) ∧
    (ready → mode = 2 → d.genSlot (d.prf p 0x40) = none → ∃ e, exec c s = .next (s.written e) ∧
      e.proof p = { begun with slot := 16 } ∧ d.Kept e [.proof p]) ∧
    (∀ code, ready → mode ≠ 2 → d.restoreCheck p mode = some code → refused code) ∧
    (∀ i, ready → mode ≠ 2 → d.restoreCheck p mode = none → d.genSlot (d.prf p 0x40) = some i →
      ∃ e, exec c s = .next (s.written e) ∧ e.proof p = { begun with slot := i } ∧ e.gen i = { d.gen i with use := 2 } ∧
        d.Kept e [.proof p, .gen i]) ∧
    (y.phase = .restore → s.dev.NoTransfers →
      (y.mode = 0 → got.2 = none → (cores.map (·.1)).Nodup → (∀ z ∈ cores, d.ownsCore p z.1 = true ∧
          ∀ i, (z.2.galley i).en = true → (z.2.galley i).src ≠ 2) →
        ∃ e, exec (.restoreDone p) s = .next (s.withDev e) ∧ e.proof p = beyond ∧ e.gen y.slot = { g with use := 0 } ∧
          (∀ k, d.ownsCore p k = true → e.core k = tget {} cores k ∧
            ((d.core k).entersCalib (e.core k) = true → bit (e.hdr (pgGauge k)).raw.toNat 7 = true)) ∧
          (∀ k, d.ownsCore p k = false → e.core k = d.core k) ∧
          e.impr p 0x28 = (if bit g.hdr.flags 6 then g.hdr.impr else (g.hdr.impr + 1) % 2 ^ 32) % 2 ^ 32 ∧
          e.impr p 0x2C = g.hdr.step % 2 ^ 32 ∧ e.impr p 0x30 = g.hdr.pos % 2 ^ 32 ∧ e.impr p 0x04 = g.hdr.period % 2 ^ 32 ∧
          e.impr p 0x10 = g.hdr.stepLen % 2 ^ 32 ∧ tget 0 e.parents g.mask = g.id ∧ e.mem = got.1.mem ∧
          (∀ st ∈ d.stacksOf p, ∀ q, (e.cow st).dirty.has q = false) ∧ (e.part p).restored = true ∧ restored e) ∧
      (y.mode = 0 → ∀ f, got.2 = some f → ∃ e, exec (.restoreDone p) s = .next (s.withDev e) ∧ e.proof p = beyond ∧
        e.gen y.slot = { g with use := 0 } ∧ (e.hdr pgProof).errCode = 0x0B0B ∧
        d.Kept e [.proof p, .gen y.slot, .mem, .hdr pgProof, .hdr pgDbg, .log]) ∧
      (y.mode = 1 → ∀ st q a f, d.loadMap p = [(st, q, a)] →
        (g.frames.find? fun f => f.kind == 0 && f.unit == st && f.index == q) = some f →
        let src := d.frameAddr f.win f.frame
        let sound := d.storedBad src pageBytes = none ∧ d.frameDigest f = padTo 64 f.digest
        (sound → ∃ e, exec (.restoreDone p) s = .next (s.withDev e) ∧ e.proof p = beyond ∧ e.gen y.slot = { g with use := 0 } ∧
          d.Copied e src a pageBytes ∧ d.SameOutside e a pageBytes ∧
          (e.cow (stackOf a)).dirty.has (a % stackBytes / pageBytes) = true ∧ restored e ∧
          (∀ k, d.ownsCore p k = true → ((d.core k).slots.map (·.1)).Nodup →
            ∀ i, (e.core k).slot i = ((d.core k).slot i).clearHistory) ∧
          d.KeptOutside e fun
            | .proof q => q == p | .gen i => i == y.slot | .mem => true | .cow t => t == stackOf a
            | .core k => d.ownsCore p k | .hdr h => h == pgProof || pageType h == 0x24 | _ => false) ∧
        (¬sound → ∃ e, exec (.restoreDone p) s = .next (s.withDev e) ∧ e.proof p = beyond ∧ e.gen y.slot = { g with use := 0 } ∧
          (e.hdr pgProof).errCode = 0x0B0B ∧ d.Kept e [.proof p, .gen y.slot, .hdr pgProof, .hdr pgDbg, .log])) ∧
      (y.mode = 2 → d.importWhole p = true → ∃ e, exec (.restoreDone p) s = .next (s.withDev e) ∧ e.proof p = beyond ∧
        e.gen y.slot = { g with state := 3 } ∧ restored e ∧ d.Kept e [.proof p, .gen y.slot, .hdr pgProof]) ∧
      (y.mode = 2 → d.importWhole p = false → exec (.restoreDone p) s = .next s))

/-- Host requests in their turn on an open session (R378, R379, R382–R385, R388–R391, R396, R400). REG_RD answers the words it
names; REG_WR writes its words in order and answers, or writes nothing and is refused with 0x0C07 where a word is not
permitted; a DMA_WR that is whole and in reach lands and is answered, and one out of reach is refused with 0x0C06; DMA_RD
answers the bytes; CMD_SUBMIT puts its entries at the ring's tail under the session's number, or is refused with 0x0C08 where
they do not fit, or 0x0C06 where one would land in a held save area (R353); PROOF_DATA at the offset an import has reached is
kept for it, and at another ends it with 0x0C0E; ACK frees what it acknowledges. A request on a stream outside the session's
range is refused with 0x0C04. The model's own choices in it: log entries 68, 69, 70 and 92. -/
def Obligations.HostRequests : Prop :=
  ∀ (s : State) (slot : Nat) (m : List Byte), s.Hears slot m →
    let d := s.dev
    let x := d.sess slot
    let p := x.part
    let n := rjTotal m
    let addr := rjAddr m
    let body := rjBody m
    let pre := rjPreamble addr n 0
    let on := d.streamIn slot (rjStream m) = true
    let whole := rjWhole m = true ∧ bit (rjFlagsOf m) 7 = false
    let answers (c : Instr) (payload : Dev → List Byte) (more : Place → Bool) (effect : Dev → Prop) := ∃ a e,
      d.Taken a slot m ∧ exec c s = .next (s.withDev e) ∧ a.Answers e slot (rjTyp m) rjWholeResp (rjStream m) (payload a) ∧
      effect e ∧ a.KeptOutside e fun q => q.saying slot || more q
    let refused (c : Instr) (code : Nat) := ∃ a e, d.Taken a slot m ∧ exec c s = .next (s.withDev e) ∧ a.Nacks e slot code m ∧
      a.KeptOutside e fun q => q.saying slot || q == .hdr (rjPage code) || q == .hdr pgDbg || q == .log
    let landed (e : Dev) (a : Nat) (bs : List Byte) := e.mem.read a bs.length = bs ∧ d.SameOutside e a bs.length
    let calm := ∀ st, (d.cow st).armed = false ∧ (d.cow st).held = []
    let memory : Place → Bool := fun | .mem | .cow _ => true | _ => false
    let none_ : Place → Bool := fun _ => false
    let tl := d.prt p 0x20
    let l := d.prt p 0x18 % 32
    let ring := 4 ≤ l ∧ l ≤ 16 ∧ d.ringOk p (d.reg64 pgPart (partReg p 0x10)) l = true
    let count := field m 32 4
    let held := ∃ i < count, d.inHold (d.ringAddr p ((tl + i) % 2 ^ 32)) 64 = true
    let y := d.proof p
    (∀ c, (rjTyp m = 1 ∧ c = .regRd m) ∨ (rjTyp m = 2 ∧ c = .regWr m) ∨ (rjTyp m = 3 ∧ c = .dmaWr m) ∨ (rjTyp m = 4 ∧ c = .dmaRd m) ∨
      (rjTyp m = 5 ∧ c = .cmdSubmit m) → bit (rjFlagsOf m) 7 = false → ¬on → refused c 0x0C04) ∧
    (∀ page off, rjTyp m = 1 → whole → on → m.length = 48 → 1 ≤ n → n ≤ 256 → regPlace addr n = some (page, off) →
      (d.pageOutside slot page = false → answers (.regRd m)
        (fun a => pre ++ (List.range n).flatMap fun i => natLe 4 (({ s.chip with dev := a } : Chip).readReg page (off + 4 * i)).toNat)
        (fun q => q == .free) fun e => e.freeCount = d.freeCount + 1) ∧
      (d.pageOutside slot page = true → refused (.regRd m) 0x0C06)) ∧
    (∀ page off, rjTyp m = 2 → whole → on → m.length = 48 + 4 * n → 1 ≤ n → n ≤ 256 → regPlace addr n = some (page, off) →
      d.pageOutside slot page = false →
      let may := (List.range n).all fun i => d.mayWrite slot (d.selAfter page off m) page (off + 4 * i)
      (may = false → page ≠ pgSec → refused (.regWr m) 0x0C07) ∧
      (may = true → ∃ a, d.Taken a slot m ∧
        let c := ({ s.chip with dev := a } : Chip).writeWords ⟨slot, rjStream m, rjSeq m⟩ page off
          ((wordsOf 4 n body).map fun w => BitVec.ofNat 32 w)
        let z := c.dev.sess slot
        (c.pow.up = true → z = { a.sess slot with events := z.events, evmask := z.evmask, permit := z.permit } → ∃ e,
          exec (.regWr m) s = .next { s with chip := { c with dev := e } } ∧
          c.dev.Answers e slot 2 rjWholeResp (rjStream m) pre ∧ c.dev.KeptOutside e (Place.saying slot)))) ∧
    (rjTyp m = 3 → whole → on → 48 ≤ m.length → 0 < n → rjOffset m = 0 → body.length = n →
      (inRegions (d.hostRegions p) addr n = true → d.inHold addr n = false → calm →
        answers (.dmaWr m) (fun _ => pre) memory fun e => landed e addr body) ∧
      (inRegions (d.hostRegions p) addr n = false ∨ d.inHold addr n = true → refused (.dmaWr m) 0x0C06)) ∧
    (rjTyp m = 4 → whole → on → m.length = 48 → 0 < n → n ≤ d.rjRoom slot - 16 →
      (inRegions (d.hostRegions p) addr n = true → d.bad addr n = false →
        answers (.dmaRd m) (fun _ => pre ++ d.read addr n) none_ fun _ => True) ∧
      (inRegions (d.hostRegions p) addr n = false → refused (.dmaRd m) 0x0C06)) ∧
    (rjTyp m = 5 → whole → on → 1 ≤ count → count ≤ 142 → m.length = 48 + 64 * count → p < 4 → (d.part p).claim = 2 →
      (ring → (tl + 2 ^ 32 - d.prt p 0x1C) % 2 ^ 32 + count ≤ 2 ^ l → ¬held → calm →
        answers (.cmdSubmit m) (fun _ => natLe 4 tl ++ natLe 4 count)
          (fun q => memory q || q == .reg pgPart (partReg p 0x20)) fun e =>
          e.prt p 0x20 = (tl + count) % 2 ^ 32 ∧
          ∀ i < count, e.mem.read (d.ringAddr p ((tl + i) % 2 ^ 32)) 64 =
            splice ((body.drop (64 * i)).take 64) 15 [BitVec.ofNat 8 slot]) ∧
      (held → refused (.cmdSubmit m) 0x0C06) ∧
      (¬held → ¬ring ∨ 2 ^ l < (tl + 2 ^ 32 - d.prt p 0x1C) % 2 ^ 32 + count → refused (.cmdSubmit m) 0x0C08)) ∧
    (rjTyp m = 7 → bit (rjFlagsOf m) 7 = false → y.phase = .restore → y.mode = 2 → 16 ≤ (rjData m).length →
      let data := (rjData m).drop 16
      let buf := y.buf ++ data
      (field (rjData m) 8 8 = y.got →
        (if y.slot = 16 then buf.length < 256 ∨ buf.length < field buf 0x58 8 else buf.length < pageBytes) →
        ∃ a e, d.Taken a slot m ∧ exec (.proofData m) s = .next (s.withDev e) ∧
          e.proof p = { y with sess := slot, got := y.got + data.length, buf } ∧ a.Kept e [.proof p]) ∧
      (field (rjData m) 8 8 ≠ y.got → ∃ a e, d.Taken a slot m ∧ exec (.proofData m) s = .next (s.withDev e) ∧
        (e.hdr pgProof).errCode = 0x0C0E ∧
        e.proof p = { y with phase := if y.keep then .ordered else .idle, keep := false, buf := [] } ∧
        (y.slot < 16 → (e.gen y.slot).state = 4 ∧ (e.gen y.slot).frames = []) ∧
        a.Kept e [.proof p, .gen y.slot, .hdr pgProof, .hdr pgDbg, .log]))

/-- Acknowledgements (R389–R391). An ACK frees every message before its ACK field and sets the peer's window; acknowledged whole,
a window's worth of messages opens the congestion window by one. A delayed ACK and its idle repeat send an ACK message; a
timeout sends the oldest message again with RETX, counts it, and sets the congestion window to 16. An event message takes up
to 285 records, as the MTU allows, in the order they were noted (R387). The model's own choices in it: log entry 69. -/
def Obligations.Acknowledgements : Prop :=
  ∀ (s : State) (slot : Nat) (m : List Byte), s.Up → slot < 8 →
    let d := s.dev
    let x := d.sess slot
    let ece := if x.ce then rjEce else 0
    let sent (e : Dev) (typ flags seq stream : Nat) (payload : List Byte) := e.out =
      ⟨.udp x.peer, rjBytes typ (flags + ece) x.id seq x.rxNext x.sack stream (d.reg pgRailjor 0x104) payload⟩ :: d.out
    let acked (c : Instr) := ∃ e, exec c s = .next (s.withDev e) ∧ sent e 8 0 x.txNext 0 [] ∧
      e.sess slot = { x with ce := false, pendAcks := 0 } ∧ d.KeptOutside e (Place.saying slot)
    let left := x.unacked.filter fun u => !serialLater 32 u.seq (field m 0xC 4)
    (s.pow.net = true → rjHeaderOk m = true → rjTyp m = 8 → rjSession m % 8 = slot → rjSession m = x.id → x.id ≠ 0 → x.state = 2 →
      x.waiting = [] → d.drain = none →
      ∃ e, exec (.ack m) s = .next (s.withDev e) ∧ (e.sess slot).unacked.map (·.seq) = left.map (·.seq) ∧
        (e.sess slot).window = field m 0x1A 2 ∧ (e.sess slot).rxNext = x.rxNext ∧ (e.sess slot).txNext = x.txNext ∧
        (left = [] → bit (rjFlagsOf m) 3 = false →
          (e.sess slot).cwnd = if x.cwnd ≤ x.acked + x.unacked.length then x.cwnd + 1 else x.cwnd) ∧
        (x.unacked ≠ left → (e.sess slot).backoff = 0) ∧
        d.KeptOutside e fun q => q.saying slot || (match q with | .reg g _ => g == pgRailjor | .free => true | _ => false)) ∧
    (x.state = 2 → x.pendAcks ≠ 0 → acked (.ackDelayExpiry slot)) ∧
    (x.state = 2 → x.waiting = [] → x.unacked = [] → acked (.ackIdleRepeat slot)) ∧
    (∀ u us, x.unacked = u :: us → ∃ e, exec (.retransmitTimeout slot) s = .next (s.withDev e) ∧
      sent e u.typ (u.flags + rjRetx) u.seq u.stream u.payload ∧
      e.sess slot = { x with cwnd := 16, acked := 0, backoff := x.backoff + 1, ce := false, pendAcks := 0 } ∧
      e.reg pgRailjor (retxKey slot) = sat 32 (d.reg pgRailjor (retxKey slot) + 1) ∧
      d.KeptOutside e fun q => q.saying slot || q == .reg pgRailjor (retxKey slot)) ∧
    (x.state = 2 → x.events ≠ [] → x.windowOpen = true →
      let n := min 285 (d.rjRoom slot / 32)
      ∃ e, exec (.eventSend slot) s = .next (s.withDev e) ∧ (e.sess slot).events = x.events.drop n ∧
        d.Answers e slot 6 (rjFirst + rjLast) 0 ((x.events.take n).flatMap EvRec.bytes) ∧ d.KeptOutside e (Place.saying slot))

/-- Handshakes (R393–R396, R436). A datagram of OPEN_REQ or OPEN_FIN that completes none is kept for its handshake, which
HANDSHAKE_REASSEMBLY_TIMEOUT discards. A whole OPEN_REQ is refused with 0x0C0A where its trust slot does not hold the root,
with 0x0C0B where its certificate does not verify, with 0x0C0C where the slot does not permit the partition or no session is
free; else it reserves the lowest session, whose CHALLENGE waits to be signed and then goes out, piece by piece. A whole
OPEN_FIN opens its session where the signature verifies within a second, and else is refused with 0x0C0B and frees the slot. A
slot that is still OPENING a second after its CHALLENGE is free again. The model's own choices in it: log entries 6, 7 and 71.
-/
def Obligations.Handshakes : Prop :=
  ∀ (s : State) (m : List Byte) (h : Nat) (sig : List Byte), s.pow.net = true → s.Up → h < 8 →
    1500 ≤ s.dev.reg pgEth 0x114 →
    let d := s.dev
    let data := rjData m
    let handle := rjStream m
    let window := d.reg pgRailjor 0x104
    let shake := rjHeaderOk m = true ∧ rjTyp m = 5 ∧ rjSession m = 0
    let whole (len kind : Nat) := shake ∧ d.shakes = [] ∧ rjSeq m = 0 ∧ rjIsLast m = true ∧ data.length = len ∧
      field data 0 1 = kind
    let refuses (e : Dev) (peer : Peer) (handle code : Nat) := (e.hdr pgRailjor).errCode = code ∧
      bit (e.hdr pgRailjor).raw.toNat 3 = true ∧ e.reg pgRailjor 0x11C = sat 32 (d.reg pgRailjor 0x11C + 1) ∧
      e.out = ⟨.udp peer, rjBytes 9 (rjFirst + rjLast) 0 0 0 0 handle window (natLe 2 code ++ natLe 2 0 ++
        natLe 4 (rjInfo 0 handle) ++ natLe 8 0)⟩ :: d.out
    let area (i : Nat) : Place → Bool := fun
      | .sess j => j == i | .hdr g => g == pgRailjor || g == pgDbg | .log | .out | .signQ | .shakes | .free => true
      | .reg g o => g == pgEth || (g == pgRailjor && o == 0x11C) | _ => false
    let refused (c : Instr) (code i : Nat) := ∃ e, exec c s = .next (s.withDev e) ∧ refuses e {} handle code ∧
      d.KeptOutside e (area i)
    let y := d.sess h
    let trust := d.reg pgRailjor (0x200 + 0x80 * field data 2 1)
    let root := (data.drop 0x28).take 1952
    let digest := Config.shake256 root 64
    let cert := data.drop 0x7C8
    let trusted := field data 2 1 < 4 ∧ bit trust 31 = true ∧
      digest = (List.range 16).flatMap fun i => natLe 4 (d.reg pgRailjor (0x240 + 0x80 * field data 2 1 + 4 * i))
    let certified := field cert 6 1 = 1 ∧ (cert.drop 0x10).take 64 = digest ∧ s.sec.signingOff = false ∧
      Config.mldsa65Verify root (cert.take 0x810) certContext ((cert.drop 0x810).take 3309) = true
    let part := field data 1 1
    let permitted := part = 0x0F ∨ (part < 4 ∧ bit trust part = true)
    (shake → d.shakes = [] → rjIsLast m = false → rjSeq m + data.length ≤ 7368 →
      ∀ c, (c = .openReq m ∧ (rjSeq m ≠ 0 ∨ field data 0 1 = 1)) ∨ (c = .openFin m ∧ (rjSeq m ≠ 0 ∨ field data 0 1 = 3)) →
      ∃ e x, exec c s = .next (s.withDev e) ∧ e.shakes = [x] ∧ x.handle = handle ∧ x.total = none ∧
        (∀ i < data.length, tget none x.bytes (rjSeq m + i) = data[i]?) ∧ e.opens = d.opens ∧ d.Kept e [.shakes]) ∧
    (∃ e, exec (.handshakeReassemblyTimeout h) s = .next (s.withDev e) ∧ e.shakes = d.shakes.eraseIdx h ∧ e.opens = d.opens ∧
      d.Kept e [.shakes]) ∧
    (whole 7368 1 →
      (¬trusted → refused (.openReq m) 0x0C0A 8) ∧
      (trusted → ¬certified → refused (.openReq m) 0x0C0B 8) ∧
      (trusted → certified → ¬permitted ∨ d.freeSession = none → refused (.openReq m) 0x0C0C 8) ∧
      (∀ i, trusted → certified → permitted → d.freeSession = some i → ∃ e, exec (.openReq m) s = .next (s.withDev e) ∧
        (e.sess i).state = 1 ∧ (e.sess i).id = (d.opens + 1) % 2 ^ 29 * 8 + i ∧
        (e.sess i).part = (if part = 0x0F then 4 else part) ∧ (e.sess i).admin = bit trust 30 ∧ (e.sess i).handle = handle ∧
        (e.sess i).openReq = data ∧ (e.sess i).window = field data 4 2 ∧ e.opens = d.opens + 1 ∧
        e.signQ = d.signQ ++ [(1, i)] ∧ d.Kept e [.sess i, .signQ, .shakes, .free])) ∧
    (d.signQ.head? = some (1, h) → y.state = 1 →
      (sig = [] → ∃ e, exec (.handshakeSignatureDone h sig) s = .next (s.withDev e) ∧ e.sess h = {} ∧
        refuses e y.peer y.handle 0x0C0B ∧ e.signQ = d.signQ.tail ∧ d.KeptOutside e (area h)) ∧
      (sig ≠ [] → ∃ e sent, exec (.handshakeSignatureDone h sig) s = .next (s.withDev e) ∧ e.signQ = d.signQ.tail ∧
        let reply := padTo 8768 (padTo 0x48 (y.deferred.headD []) ++ padTo 5376 Config.identityCert ++ padTo 3309 sig)
        e.sess h = { y with challenge := reply, deferred := [], since := d.time } ∧ e.out = sent ++ d.out ∧
        (sent.reverse.flatMap fun o => o.bytes.drop 32) = reply ∧ (∀ o ∈ sent, o.port = .udp y.peer) ∧
        d.KeptOutside e (area h))) ∧
    (whole 3328 3 → h = field data 4 4 % 8 →
      (y.state = 0 → refused (.openFin m) 0x0C0B 8) ∧
      (y.state = 1 → y.challenge ≠ [] → y.id = field data 4 4 → y.finOk data = false ∨ y.since + 10 ^ 9 < d.time →
        ∃ e, exec (.openFin m) s = .next (s.withDev e) ∧ refuses e {} handle 0x0C0B ∧ e.sess h = {} ∧
          d.KeptOutside e (area h)) ∧
      (y.state = 1 → y.finOk data = true → d.time ≤ y.since + 10 ^ 9 → ∃ e, exec (.openFin m) s = .next (s.withDev e) ∧
        e.sess h = { y with state := 2, peer := {}, cwnd := 16, ce := false, pendAcks := 0, events := (e.sess h).events } ∧
        e.hdr pgRailjor = (d.hdr pgRailjor).raised 1 ∧
        (∃ flags, e.out = ⟨.udp {}, rjBytes 8 flags y.id y.txNext y.rxNext y.sack 0 window []⟩ :: d.out) ∧
        d.KeptOutside e (area h))) ∧
    (y.state = 1 → y.challenge ≠ [] → y.since + 10 ^ 9 < d.time →
      ∃ e, exec (.sessionTimeout h) s = .next (s.withDev e) ∧ e.sess h = {} ∧ d.Kept e [.sess h])

/-- A session ends (R392). A session that times out, or whose slot SEL names when CLOSE is written, is FREE again: its open
transactions are counted aborted, a drain or an import on it fails, and 0x0C0D and its event are set. -/
def Obligations.SessionsEnd : Prop :=
  ∀ (s : State) (w : Word) (n : Nat), s.Up → n < 8 →
    let d := s.dev
    let sel := d.reg pgRailjor 0x120 % 8
    let ends (e : Dev) (i : Nat) := e.sess i = {} ∧ (e.hdr pgRailjor).errCode = 0x0C0D ∧
      bit (e.hdr pgRailjor).raw.toNat 2 = true ∧
      e.reg pgStream (abortKey i) = sat 32 (d.reg pgStream (abortKey i) + (d.sess i).busyStreams.length) ∧
      e.signQ = d.signQ.filter (· != (1, i)) ∧
      (∀ x, d.drain = some x → x.session = i → e.drain = none) ∧
      (∀ p < 4, (d.proof p).phase = .restore → (d.proof p).mode = 2 → (d.proof p).sess = i → (e.proof p).phase ≠ .restore) ∧
      d.KeptOutside e fun
        | .sess j => j == i | .hdr g => g == pgRailjor || g == pgProof || g == pgDbg | .log | .signQ | .drain | .gen _ | .proof _ => true
        | .reg g o => g == pgStream && o == abortKey i | _ => false
    ((d.sess n).state = 2 → ∃ e, exec (.sessionTimeout n) s = .next (s.withDev e) ∧ ends e n) ∧
    (bit w.toNat 0 = true → (d.sess sel).state = 2 → ∃ e, exec (.sessionClose w) s = .next (s.written e) ∧ ends e sel) ∧
    (bit w.toNat 0 = true → (d.sess sel).state ≠ 2 → exec (.sessionClose w) s = .next (s.written d))

/-- The Ethernet port (R375–R378). A frame that MACsec does not let through counts in MACSEC_DROP, one of a type or to a place the
port does not serve in RX_DROP; a request for the device's own IPv4 address is answered; a sound UDP datagram to the Railjor
port reaches the transport with the source it came from. A change of the link raises its event. An association's predecessor
is no longer accepted once its time is over. The model's own choices in it: log entries 65, 66 and 67. -/
def Obligations.EthernetPort : Prop :=
  ∀ (s : State) (f : List Byte) (up : Bool), s.pow.net = true → s.Up →
    let d := s.dev
    let cfg := d.reg pgEth 0x110
    let b := f.drop 14
    let clear := fieldBe f 12 2 ≠ 0x88E5 ∧ bit cfg 29 = false
    let h := fieldBe b 0 1 % 16 * 4
    let len := fieldBe b 2 2
    let u := (b.take len).drop h
    let n := fieldBe u 4 2
    let src := (b.drop 12).take 4
    let ipSound := ethDst f = ownMac ∧ bit cfg 31 = true ∧ fieldBe b 0 1 / 16 = 4 ∧ 20 ≤ h ∧ h ≤ len ∧ len ≤ b.length ∧
      len ≤ d.reg pgEth 0x114 ∧ fieldBe b 6 2 % 2 ^ 14 = 0 ∧ inetSum (b.take h) = 0xFFFF ∧ (b.drop 16).take 4 = d.ownV4
    let udpSound := fieldBe b 9 1 = 17 ∧ 8 ≤ n ∧ n ≤ u.length ∧ fieldBe u 2 2 = d.reg pgEth 0x11C % 2 ^ 16 ∧
      (fieldBe u 6 2 = 0 ∨ inetSum (pseudo false src d.ownV4 17 n ++ u.take n) = 0xFFFF)
    let counted (e : Dev) (o : Nat) := e.reg pgEth o = sat 32 (d.reg pgEth o + 1) ∧ d.Kept e [.reg pgEth o]
    let taken (e : Dev) := e.reg64 pgEth 0x130 = (d.reg64 pgEth 0x130 + 1) % 2 ^ 64
    let from_ : Peer := { ip := src, port := fieldBe u 0 2, mac := ethSrc f }
    let arrives (e : Dev) : Chip := ({ s.chip with dev := e } : Chip).rjReceive from_ (fieldBe b 1 1 % 4 == 3) ((u.take n).drop 8)
    (fieldBe f 12 2 ≠ 0x88E5 → bit cfg 29 = true →
      ∃ e, exec (.ethFrameReceive f) s = .next (s.withDev e) ∧ counted e 0x158) ∧
    (fieldBe f 12 2 = 0x88E5 → openUnder d.sa (d.reg64 pgEth 0x1C8) f = none → openUnder d.oldSa (nth d.oldSa 16) f = none →
      ∃ e, exec (.ethFrameReceive f) s = .next (s.withDev e) ∧ counted e 0x158) ∧
    (clear → (∀ t ∈ [0x8100, 0x0806, 0x0800, 0x86DD], fieldBe f 12 2 ≠ t) →
      ∃ e, exec (.ethFrameReceive f) s = .next (s.withDev e) ∧ counted e 0x140) ∧
    (clear → fieldBe f 12 2 = 0x0806 → ethDst f = ownMac ∨ ethDst f = List.replicate 6 0xFF#8 →
      b.take 8 = natBe 8 0x0001080006040001 → 28 ≤ b.length → (b.drop 24).take 4 = d.ownV4 → bit cfg 31 = true →
      ∃ e, exec (.ethFrameReceive f) s = .next (s.withDev e) ∧ taken e ∧
        e.out = ⟨.arp { ip := (b.drop 14).take 4, mac := ethSrc f }, natBe 8 0x0001080006040002 ++ ownMac ++ d.ownV4 ++
          (b.drop 8).take 6 ++ (b.drop 14).take 4⟩ :: d.out ∧
        d.KeptOutside e fun | .out => true | .reg g _ => g == pgEth | _ => false) ∧
    (clear → fieldBe f 12 2 = 0x0800 → ¬ipSound → ∃ e, exec (.ethFrameReceive f) s = .next (s.withDev e) ∧ counted e 0x140) ∧
    (clear → fieldBe f 12 2 = 0x0800 → ipSound → udpSound → ∃ e, taken e ∧
      d.Kept e [.reg pgEth 0x130, .reg pgEth 0x134] ∧
      exec (.ethFrameReceive f) s = .next { s with chip := arrives e }) ∧
    (bit (d.reg pgEth ethLinkKey) 0 = !up → ∃ e, exec (.ethLinkChange up) s = .next (s.withDev e) ∧
      e.reg pgEth ethLinkKey = b2n up ∧ e.hdr pgEth = (d.hdr pgEth).raised 1 ∧ d.Kept e [.reg pgEth ethLinkKey, .hdr pgEth]) ∧
    (bit (d.reg pgEth ethLinkKey) 0 = up → exec (.ethLinkChange up) s = .next s) ∧
    (∃ e, exec .macsecOldAnExpiry s = .next (s.withDev e) ∧ e.oldSa = [] ∧ d.Kept e [.oldSa])

/-- Commands of the board-management bus (R430, R431, R438, R441, R497, Table 15-7). READ answers a register of a hub page; WRITE
reaches the addresses and MACsec words of ETH and PWR.LIMIT, and is refused with 0x0E0D elsewhere. TRUST_WRITE and DEBUG_OPEN
extend the chain first, and are refused with 0x0E07 where the log is full. FLASH_WRITE reaches the boot record and the slot
that did not boot. SVN_COMMIT raises the fused SVN to the running image's, up to 64, or is refused with 0x0E0C. The model's
own choices in it: log entries 7, 59, 75 and 76. -/
def Obligations.BusCommands : Prop :=
  ∀ (s : State) (page off slot : Nat) (w : Word) (bytes : List Byte), s.pow.served = true →
    let d := s.dev
    let p := s.pow
    let x := s.sec
    let error (c : Instr) (code : Nat) := ∃ e, exec c s = .next (s.withDev e) ∧ (e.hdr pgSec).errCode = code ∧
      d.Kept e [.hdr pgSec, .hdr pgDbg, .log]
    let set (c : Instr) (g o v : Nat) (more : List Place) := ∃ e, exec c s = .next (s.withDev e) ∧ e.reg g o = v ∧
      d.Kept e (.reg g o :: more)
    let extends_ (y : Sec) (m : Meas) := y.log = x.log ++ [m] ∧ y.chain = extendChain x.chain m ∧ y.fusedSvn = x.fusedSvn
    let old := d.reg pgEth (saKey 0x180)
    let ours := slot = 2 ∧ off + 256 ≤ 4096 ∨
      slot < 2 ∧ off + 256 ≤ 2 ^ 25 ∧ (x.recovery = true ∨ (slot = 1) ≠ (x.slotB = true))
    (page < 0x100 → off < 0x1000 → off % 4 = 0 → ∃ e, exec (.bmbRead page off) s = .next (s.withDev e) ∧
      e.out = ⟨.bmb, natLe 4 (s.chip.readReg page off).toNat⟩ :: d.out ∧ d.Kept e [.out, .free]) ∧
    (off ∈ [0x118, 0x120, 0x124, 0x128, 0x12C] ∨ (off % 4 = 0 ∧ 0x188 ≤ off ∧ off < 0x1C0) →
      set (.bmbWrite pgEth off w) pgEth off w.toNat []) ∧
    (∃ e, exec (.bmbWrite pgEth 0x180 w) s = .next (s.withDev e) ∧ e.reg pgEth 0x180 = w.toNat &&& 0xF8000000 ∧
      (∀ o ∈ macsecOffs, e.reg pgEth (saKey o) = e.reg pgEth o) ∧
      (bits old 31 30 ≠ 0 → bits old 28 27 ≠ bits w.toNat 28 27 → e.oldSa = d.sa ++ [d.reg64 pgEth 0x1C8] ∧
        e.reg64 pgEth 0x1C0 = 1 ∧ e.reg64 pgEth 0x1C8 = 1) ∧
      d.KeptOutside e fun | .reg g _ => g == pgEth | .oldSa => true | _ => false) ∧
    (600 ≤ w.toNat % 4096 → w.toNat % 4096 ≤ 2400 → sharesFit (d.shares 4 0) (w.toNat % 4096) = true →
      set (.bmbWrite pgPwr 0x110 w) pgPwr 0x110 (w.toNat % 4096) [.hdr pgPwr]) ∧
    (¬(page = pgEth ∧ busEth off = true) → ¬(page = pgPwr ∧ off = 0x110) → error (.bmbWrite page off w) 0x0E0D) ∧
    (slot < 4 → bytes.length = 128 →
      (x.log.length < 16 → ∃ e y, exec (.trustWrite slot bytes) s = .next (s.withAll e p y) ∧
        extends_ y ⟨5, slot, digest64 bytes⟩ ∧ (∀ i < 32, e.reg pgRailjor (0x200 + 0x80 * slot + 4 * i) = field bytes (4 * i) 4) ∧
        d.KeptOutside e fun
          | .reg g o => g == pgRailjor && decide (0x200 + 0x80 * slot ≤ o ∧ o < 0x280 + 0x80 * slot)
          | .hdr g => g == pgSec | _ => false) ∧
      (16 ≤ x.log.length → error (.trustWrite slot bytes) 0x0E07)) ∧
    (x.log.length < 16 → ∃ e y, exec .debugOpen s = .next (s.withAll e p y) ∧
      extends_ y ⟨6, 0, List.replicate 64 0#8⟩ ∧ y.debugOpen = true ∧ y.fwDigest = x.fwDigest ∧
      bit (e.hdr pgSec).raw.toNat 4 = true ∧ d.Kept e [.hdr pgSec]) ∧
    (16 ≤ x.log.length → error .debugOpen 0x0E07) ∧
    (bytes.length = 256 → ours → ∃ y, exec (.flashWrite slot off bytes) s = .next (s.withAll d p y) ∧
      y = { x with flash := y.flash } ∧ ∀ t < 3, ∀ a < 2 ^ 25, y.flashByte t a =
        if t = slot ∧ off ≤ a ∧ a < off + 256 then bytes.getD (a - off) 0#8 else x.flashByte t a) ∧
    (bytes.length = 256 → ¬ours → error (.flashWrite slot off bytes) 0x0E0D) ∧
    (x.fusedSvn < x.imageSvn → x.imageSvn ≤ 64 →
      exec .svnCommit s = .next (s.withAll d p { x with fusedSvn := x.imageSvn })) ∧
    (x.imageSvn ≤ x.fusedSvn ∨ 64 < x.imageSvn → error .svnCommit 0x0E0C)

/-- Attestation (R435–R437, Table 15-8). GO forms the report from the log and chain as they stand and queues it to be signed, and
is refused with 0x0E06 where nothing is signed; a GO while one is signed does nothing. Signed, the report is there to be read,
GO falls and ATTESTED is raised; a signing that fails sets 0x0E06. The model's own choices in it: log entry 7. -/
def Obligations.Attestation : Prop :=
  ∀ (s : State) (w : Word) (sig : List Byte), s.Up →
    let d := s.dev
    let x := s.sec
    (bit w.toNat 0 = true → x.attGo = false →
      (x.signingOff = true → ∃ e, exec (.attestGo w) s = .next (s.withDev e) ∧ (e.hdr pgSec).errCode = 0x0E06 ∧
        d.Kept e [.hdr pgSec, .hdr pgDbg, .log]) ∧
      (x.signingOff = false → ∃ e, exec (.attestGo w) s = .next (s.withAll e s.pow
          { x with attGo := true, attBody := s.chip.reportBody }) ∧
        e.signQ = d.signQ ++ [(2, 0)] ∧ d.Kept e [.signQ])) ∧
    (x.attGo = true → exec (.attestGo w) s = .next s) ∧
    (x.attGo = true → d.signQ.head? = some (2, 0) →
      (sig = [] → ∃ e, exec (.attestSigned sig) s = .next (s.withAll e s.pow { x with attGo := false }) ∧
        (e.hdr pgSec).errCode = 0x0E06 ∧ e.signQ = d.signQ.tail ∧ d.Kept e [.signQ, .hdr pgSec, .hdr pgDbg, .log]) ∧
      (sig ≠ [] → ∃ e, exec (.attestSigned sig) s = .next (s.withAll e s.pow
          { x with attGo := false, attReport := x.attBody ++ padTo 3309 sig }) ∧
        e.hdr pgSec = (d.hdr pgSec).raised 2 ∧ e.signQ = d.signQ.tail ∧ d.Kept e [.signQ, .hdr pgSec]))

/-- Freeze and the debug port (R453–R459). A freeze stops every domain at the time base plus 12 ns and fails the generations under
way with 0x0B07; a frozen module keeps its state whatever is commanded but for the commands that serve it. The port shifts its
boundary-scan cells; before DEBUG_OPEN it keeps its address, reads 0, writes nothing and refuses a dump; opened, it reads
registers and SRAM, writes them while the module runs, and dumps a frozen module. The model's own choices in it: log entries
77 and 78. -/
def Obligations.FreezeAndDebug : Prop :=
  ∀ (s : State) (bytes : List Byte) (a : DWord) (w : Word),
    let d := s.dev
    let p := s.pow
    let x := s.sec
    let n := p.dbgAddr.toNat % 2 ^ 48
    let reads (e : Dev) (v : Nat) := e.out = ⟨.debug, natLe 4 v⟩ :: d.out ∧ d.Kept e [.out, .free]
    let data : Pow := { p with ir := 0x11, driven := false }
    let ctl : Pow := { p with ir := 0x12, driven := false }
    let scan (c : Instr) (ir : Nat) (driven : Bool) := ∃ e seen, exec c s =
        .next (s.withAll e { p with ir, scan := bytes, driven } x) ∧
      e.out = ⟨.debug, seen⟩ :: d.out ∧ seen.length = bytes.length ∧ d.Kept e [.out, .free]
    let inSram := regPlace n 1 = none ∧ n % 4 = 0 ∧ sramBase ≤ n ∧ n < sramBase + numCores * caseBytes
    let making (g : GenSt) := g.state = 1 ∨ g.state = 2 ∨ g.state = 5
    (p.up = true → ∃ e, exec .freeze s =
        .next (s.withAll e { p with frozen := true, freezeTime := (d.time + 12) % 2 ^ 64 } x) ∧
      (∀ i < 16, making (d.gen i) → e.gen i =
        { d.gen i with state := 4, reason := 2, code := 0x0B07, frames := [], man := [], snap := [] }) ∧
      (∀ i, ¬making (d.gen i) → e.gen i = d.gen i) ∧
      ((∃ q < 4, (d.proof q).phase ∈ [.quiesce, .capture, .copy, .sign]) → (e.hdr pgProof).errCode = 0x0B07) ∧
      d.KeptOutside e fun | .gen i => decide (i < 16) | .hdr g => g == pgProof || g == pgDbg | .log => true | _ => false) ∧
    (p.frozen = true → exec .freezeRefreshKeeper s = .next (s.withAll d { p with keeper := true, faultN := true } x)) ∧
    (p.frozen = true → p.mode = .ready ∨ p.mode = .run → ∀ c, actsFrozen c = false → exec c s = .next s) ∧
    (p.mode ≠ .off → scan (.extest bytes) 0x00 true ∧ scan (.samplePreload bytes) 0x01 false ∧
      exec .bypass s = .next (s.withAll d { p with ir := 0xFF, driven := false } x) ∧
      exec (.dbgAddr a) s = .next (s.withAll d
        { p with ir := 0x10, driven := false, dbgAddr := if x.debugOpen then a else p.dbgAddr } x) ∧
      (x.debugOpen = false → ∃ e, exec (.dbgData w) s = .next (s.withAll e { data with dbgData := 0#32 } x) ∧ reads e 0) ∧
      (x.debugOpen = true → p.up = true ∨ p.frozen = true → p.dbgAddr.msb = false →
        (∀ page off, regPlace n 1 = some (page, off) → ∃ e v, v = { s.chip with pow := data }.readReg page off ∧
          exec (.dbgData w) s = .next (s.withAll e { data with dbgData := v } x) ∧ reads e v.toNat) ∧
        (inSram → d.bad n 4 = false → ∃ e v, natLe 4 v = d.read n 4 ∧
          exec (.dbgData w) s = .next (s.withAll e { data with dbgData := BitVec.ofNat 32 v } x) ∧ reads e v)) ∧
      (x.debugOpen = true → p.dbgAddr.msb = true →
        (p.frozen = true → exec (.dbgData w) s = .next (s.withAll d data x)) ∧
        (p.up = true → ∀ page off, regPlace n 1 = some (page, off) →
          exec (.dbgData w) s = .next { s with chip := { s.chip with pow := data }.writeReg {} page off w }) ∧
        (p.up = true → inSram → ∃ e, exec (.dbgData w) s = .next (s.withAll e data x) ∧
          e.mem.read n 4 = natLe 4 w.toNat ∧ d.SameOutside e n 4 ∧ d.Kept e [.mem])) ∧
      (x.debugOpen = false → ∃ e, exec (.dumpCtl w) s = .next (s.withAll e ctl x) ∧ reads e (3 * 2 ^ 30)) ∧
      (x.debugOpen = true → p.dump ≠ 1 → ∃ e, exec (.dumpCtl w) s = .next (s.withAll e
          (if bit w.toNat 31 then (if p.frozen then { ctl with dump := 1, dumpAsk := w, dumpUnits := 0 } else { ctl with dump := 3 })
           else ctl) x) ∧ reads e (p.dump * 2 ^ 30 + p.dumpUnits))) ∧
    (p.frozen = true → p.dump = 1 → ∃ e q, exec .dumpDone s = .next (s.withAll e q x) ∧
      let sent := s.chip.dumpBytes p.dumpAsk
      e.out = ⟨.dump, sent⟩ :: d.out ∧ q = { p with dump := 2, dumpUnits := q.dumpUnits, dumpBytes := sent.length } ∧
      d.Kept e [.out, .free])

/-- STEP. A step runs the command at the front of the queue on the state with the queue's rest; with none waiting, the time base
counts one cycle while the hub runs (the model's choice, log entry 2). -/
def Obligations.StepTakesFront : Prop :=
  ∀ (s : State) (c : Instr) (cs : List Instr),
    (s.pending = c :: cs → step s = exec c { s with pending := cs }) ∧
    (s.pending = [] → ∃ t, step s = .next t ∧ t.pending = [] ∧ t.pow = s.pow ∧ t.sec = s.sec ∧
      t.dev = if s.pow.up then s.dev.timeCycle.meterCycle else s.dev)

/-- Every command completes, in every state, and leaves the queue alone, but the three whose operands lie outside what the
specification gives an outcome for: an input voltage outside 40.0 to 50.0 V (R401), and a deassertion of PWR_EN shorter than
10 ms (R495). Those stop with outOfSpec. The model's own choices in it: log entries 1 and 83. -/
def Obligations.CommandsComplete : Prop :=
  ∀ (s : State) (c : Instr),
    let outside := (∃ mv, (c = .vinApply mv ∨ c = .vinAlert mv) ∧ ¬(40000 ≤ mv ∧ mv ≤ 50000)) ∨
      ∃ ns, c = .pwrEnDeassert ns ∧ ns < 10000000
    (outside → exec c s = .fault .outOfSpec) ∧
    (¬outside → ∃ t, exec c s = .next t ∧ t.pending = s.pending)

/-- The security processor's promises (R430, R431, R438). In every step the chain stays what the log recomputes to, with at most
sixteen entries. The fused SVN is raised only by SVN_COMMIT, to the SVN of the running image, is never lowered, and stays
within its 64 fuses; a commit beyond the 64th, or one that does not raise it, is refused with 0x0E0C. The debug port opens by
DEBUG_OPEN alone. -/
def Obligations.SecurityHolds : Prop :=
  ∀ s t : State, s.sec.Sound → step s = .next t →
    let x := s.sec
    let commits := s.pending.head? = some .svnCommit
    t.sec.Sound ∧
    (t.sec.fusedSvn ≠ x.fusedSvn → commits ∧ x.fusedSvn < x.imageSvn ∧ t.sec.fusedSvn = x.imageSvn) ∧
    (commits → s.pow.served = true →
      (x.fusedSvn < x.imageSvn → x.imageSvn ≤ 64 → t.sec.fusedSvn = x.imageSvn) ∧
      (x.imageSvn ≤ x.fusedSvn ∨ 64 < x.imageSvn → t.sec.fusedSvn = x.fusedSvn ∧ (t.dev.hdr pgSec).errCode = 0x0E0C)) ∧
    (t.sec.debugOpen = true → x.debugOpen = true ∨ s.pending.head? = some .debugOpen)

/-- Memory, the image loaded in recovery and the error log keep their form in every step: addresses rise with no blank byte
listed, and the hub's log holds at most 256 entries (R449). The model's own choices in it: log entry 4. -/
def Obligations.MemoryHolds : Prop :=
  ∀ s t : State, step s = .next t → s.dev.mem.wf = true → s.sec.image.wf = true → s.dev.elog.length ≤ 256 →
    t.dev.mem.wf = true ∧ t.sec.image.wf = true ∧ t.dev.elog.length ≤ 256

/-- What a reset leaves (R39, R41, R253, R355, R389, R423, R431, R480): the time base at 0, every partition unclaimed, no core out
of reset, every session FREE, every generation slot free, links disabled, every register at its reset value and header clear
with the page enabled, the chain zero and the log empty, nothing to be signed and no command waiting; and what every step
keeps holds. That memory reads zero is the model's choice (log entry 4). The model's own choices in it: log entries 3, 4 and
5. -/
def Obligations.ResetState : Prop :=
  let s := State.reset
  let d := s.dev
  d.time = 0 ∧ (∀ p, (d.part p).claim = 0 ∧ (d.part p).state = .stopped ∧ (d.part p).run = false ∧ (d.proof p).phase = .idle) ∧
  (∀ c, (d.die c).live = false ∧ (d.die c).part = none) ∧ (∀ k, d.core k = {}) ∧ (∀ i, (d.sess i).state = 0) ∧
  (∀ i, (d.gen i).state = 0) ∧ d.genNext = 1 ∧ (∀ n, (d.link n).state = .disabled) ∧
  (∀ page off, d.reg page off = resetWord page off % 2 ^ 32) ∧
  d.prf 0 0x14 = 100 ∧ d.prf 3 0x18 = 4 ∧ d.reg pgEth 0x114 = 9216 ∧
  (∀ page, d.hdr page = { enable := true, freezeMask := false, raw := 0#32, en := 0#32, flag := 0#32, errCode := 0 }) ∧
  (∀ a, d.mem.readByte a = 0#8) ∧ d.mem.wf = true ∧ s.sec.image.wf = true ∧ d.elog = [] ∧
  s.sec.Sound ∧ s.sec.log = [] ∧ s.sec.debugOpen = false ∧ d.signQ = [] ∧ s.pow.mode = .boot ∧ s.pow.up = false ∧
  s.pow.frozen = false ∧ s.pending = []

end
end

