-- ==== Sys2Proof/Laws/Table.lean ====
section
/-!
SUPPORT. Sys2Proof/Laws/Table.lean: reading a sparse table or memory after a write, and the canonical form.
-/
namespace Sys2Proof.Machine

variable {α : Type}

/-! ### Reading after a write -/

theorem tget_append_of_ne {d : α} {s t : Table α} {k : Nat} (h : ∀ c ∈ s, c.1 ≠ k) : tget d (s ++ t) k = tget d t k := by
  induction s with
  | nil => rfl
  | cons c s ih =>
    have hc := h c (by simp)
    simp only [List.cons_append, tget]
    rw [if_neg (by simpa using hc)]
    exact ih fun x hx => h x (by simp [hx])

theorem tget_of_absent {d : α} {t : Table α} {k : Nat} (h : ∀ c ∈ t, c.1 ≠ k) : tget d t k = d := by
  have := tget_append_of_ne (d := d) (t := []) h
  simpa [tget] using this

theorem tget_filter {d : α} {t : Table α} {k : Nat} (p : Nat → Bool) (h : p k = true) :
    tget d (t.filter fun c => p c.1) k = tget d t k := by
  induction t with
  | nil => rfl
  | cons c t ih =>
    obtain ⟨j, v⟩ := c
    by_cases hj : j = k
    · subst hj; simp [tget, h]
    · by_cases hp : p j = true <;> simp [tget, hp, hj, ih]

theorem tget_filter_false {d : α} {t : Table α} {k : Nat} (p : Nat → Bool) (h : p k = false) :
    tget d (t.filter fun c => p c.1) k = d := by
  refine tget_of_absent fun c hc hk => ?_
  have := (List.mem_filter.1 hc).2
  simp [hk, h] at this

@[simp] theorem tget_tdrop_self {d : α} {t : Table α} {k : Nat} : tget d (tdrop t k) k = d :=
  tget_filter_false (fun j => j != k) (by simp)

theorem tget_tdrop_ne {d : α} {t : Table α} {j k : Nat} (h : j ≠ k) : tget d (tdrop t k) j = tget d t j :=
  tget_filter (fun i => i != k) (by simp [h])

/-- The key written reads the value written. -/
@[simp] theorem tget_tset_self [DecidableEq α] {d v : α} {t : Table α} {k : Nat} : tget d (tset d t k v) k = v := by
  induction t with
  | nil => by_cases h : v = d <;> simp [tset, tcell, h, tget]
  | cons c t ih =>
    obtain ⟨j, w⟩ := c
    by_cases hj : j = k
    · subst hj
      by_cases h : v = d <;> simp [tset, tcell, h, tget]
    · by_cases hk : k < j
      · by_cases h : v = d
        · simp [tset, tcell, hj, hk, h, tget]
        · simp [tset, tcell, hj, hk, h, tget]
      · simp [tset, tget, hj, hk, ih]

/-- Every other key reads as before, whatever an unlisted key of its own reads as. -/
theorem tget_tset_ne [DecidableEq α] {e d v : α} {t : Table α} {j k : Nat} (hjk : j ≠ k) :
    tget e (tset d t k v) j = tget e t j := by
  induction t with
  | nil => by_cases h : v = d <;> simp [tset, tcell, h, tget, Ne.symm hjk]
  | cons c t ih =>
    obtain ⟨i, w⟩ := c
    by_cases hi : i = k
    · subst hi
      by_cases h : v = d <;> simp [tset, tcell, h, tget, Ne.symm hjk, tget_tdrop_ne hjk]
    · by_cases hk : k < i
      · by_cases h : v = d <;> simp [tset, tcell, hi, hk, h, tget, Ne.symm hjk, tget_tdrop_ne hjk]
      · simp [tset, tget, hi, hk, ih]

theorem tget_tset [DecidableEq α] {d v : α} {t : Table α} {j k : Nat} :
    tget d (tset d t k v) j = if j = k then v else tget d t j := by
  split
  · next h => subst h; simp
  · next h => exact tget_tset_ne h

/-! ### Memory -/

theorem cells_absent_lt {a x : Nat} {bs : List Byte} (h : x < a) : ∀ c ∈ Memory.cells a bs, c.1 ≠ x := by
  induction bs generalizing a with
  | nil => simp [Memory.cells]
  | cons b bs ih =>
    intro c hc
    simp only [Memory.cells, List.mem_append] at hc
    rcases hc with hc | hc
    · by_cases hb : b = Memory.blank
      · simp [tcell, hb] at hc
      · simp [tcell, hb] at hc; subst hc; simp; omega
    · exact ih (by omega) c hc

theorem cells_absent_ge {a x : Nat} {bs : List Byte} (h : a + bs.length ≤ x) : ∀ c ∈ Memory.cells a bs, c.1 ≠ x := by
  induction bs generalizing a with
  | nil => simp [Memory.cells]
  | cons b bs ih =>
    intro c hc
    simp only [List.length_cons] at h
    simp only [Memory.cells, List.mem_append] at hc
    rcases hc with hc | hc
    · by_cases hb : b = Memory.blank
      · simp [tcell, hb] at hc
      · simp [tcell, hb] at hc; subst hc; simp; omega
    · exact ih (by omega) c hc

theorem tget_cells {a i : Nat} {bs : List Byte} (h : i < bs.length) :
    tget Memory.blank (Memory.cells a bs) (a + i) = bs[i] := by
  induction bs generalizing a i with
  | nil => simp at h
  | cons b bs ih =>
    cases i with
    | zero =>
      by_cases hb : b = Memory.blank
      · simp only [Memory.cells, tcell, hb, if_true, List.nil_append]
        simpa [hb] using tget_of_absent (cells_absent_lt (Nat.lt_succ_self a))
      · simp [Memory.cells, tcell, hb, tget]
    | succ i =>
      have hi : i < bs.length := by simpa using h
      have := ih (a := a + 1) hi
      rw [show a + (i + 1) = a + 1 + i by omega]
      simp only [Memory.cells]
      rw [tget_append_of_ne, this]
      · simp
      · intro c hc
        by_cases hb : b = Memory.blank
        · simp [tcell, hb] at hc
        · simp [tcell, hb] at hc; subst hc; simp; omega

/-- A byte written reads back. -/
theorem readByte_write {m : Memory} {a i : Nat} {bs : List Byte} (h : i < bs.length) :
    (m.write a bs).readByte (a + i) = bs[i] := by
  unfold Memory.readByte Memory.write
  rw [tget_append_of_ne, ← tget_cells (a := a) h]
  · have hf : ∀ c ∈ m.filter fun c => decide (a + bs.length ≤ c.1), c.1 ≠ a + i := by
      intro c hc hk
      have := (List.mem_filter.1 hc).2
      simp at this; omega
    generalize m.filter (fun c => decide (a + bs.length ≤ c.1)) = t at hf
    generalize Memory.cells a bs = u
    induction u with
    | nil => simpa [tget] using tget_of_absent hf
    | cons c u ih =>
      obtain ⟨j, v⟩ := c
      by_cases hj : j = a + i <;> simp [tget, hj, ih]
  · intro c hc hk
    have := (List.mem_filter.1 hc).2
    simp at this; omega

/-- A byte outside the range written reads as before. -/
theorem readByte_write_outside {m : Memory} {a x : Nat} {bs : List Byte} (h : x < a ∨ a + bs.length ≤ x) :
    (m.write a bs).readByte x = m.readByte x := by
  unfold Memory.readByte Memory.write
  dsimp only
  rcases h with h | h
  · rw [show tget Memory.blank m x = tget Memory.blank (m.filter fun c => decide (c.1 < a)) x from
      (tget_filter (fun j => decide (j < a)) (by simpa using h)).symm]
    have hr : ∀ c ∈ Memory.cells a bs ++ m.filter (fun c => decide (a + bs.length ≤ c.1)), c.1 ≠ x := by
      intro c hc
      rcases List.mem_append.1 hc with hc | hc
      · exact cells_absent_lt h c hc
      · have := (List.mem_filter.1 hc).2
        simp at this; omega
    generalize Memory.cells a bs ++ m.filter (fun c => decide (a + bs.length ≤ c.1)) = t at hr
    generalize m.filter (fun c => decide (c.1 < a)) = u
    induction u with
    | nil => simpa [tget] using tget_of_absent hr
    | cons c u ih =>
      obtain ⟨j, v⟩ := c
      by_cases hj : j = x <;> simp [tget, hj, ih]
  · rw [tget_append_of_ne, tget_append_of_ne (cells_absent_ge h)]
    · exact tget_filter (fun j => decide (a + bs.length ≤ j)) (by simpa using h)
    · intro c hc hk
      have := (List.mem_filter.1 hc).2
      simp at this; omega

/-- What was written reads back whole. -/
theorem read_eq_map (m : Memory) (a n : Nat) : m.read a n = (List.range n).map fun i => m.readByte (a + i) := by
  induction n generalizing a with
  | zero => rfl
  | succ n ih =>
    rw [Memory.read, ih, List.range_succ_eq_map]
    simp [Nat.add_assoc, Nat.add_comm 1, Function.comp_def]

theorem read_write (m : Memory) (a : Nat) (bs : List Byte) : (m.write a bs).read a bs.length = bs := by
  rw [read_eq_map]
  apply List.ext_getElem
  · simp
  · intro i h1 h2
    simp [readByte_write h2]

/-- Erased bytes are blank, and every other byte reads as before. -/
theorem readByte_erase {m : Memory} {a n x : Nat} :
    (m.erase a n).readByte x = if a ≤ x ∧ x < a + n then Memory.blank else m.readByte x := by
  unfold Memory.readByte Memory.erase
  split
  · next h =>
    exact tget_filter_false (fun j => decide (j < a) || decide (a + n ≤ j)) (by simp; omega)
  · next h =>
    exact tget_filter (fun j => decide (j < a) || decide (a + n ≤ j)) (by simp; omega)

/-! ### The canonical form -/

theorem twf_mono [DecidableEq α] {d : α} {lo lo' : Nat} {t : Table α} (h : lo' ≤ lo) (ht : twf d lo t = true) : twf d lo' t = true := by
  cases t with
  | nil => rfl
  | cons c t =>
    obtain ⟨k, v⟩ := c
    simp only [twf, Bool.and_eq_true, decide_eq_true_eq] at ht ⊢
    exact ⟨⟨by omega, ht.1.2⟩, ht.2⟩

theorem twf_filter [DecidableEq α] {d : α} {lo : Nat} {t : Table α} (p : Nat × α → Bool) (ht : twf d lo t = true) :
    twf d lo (t.filter p) = true := by
  induction t generalizing lo with
  | nil => rfl
  | cons c t ih =>
    obtain ⟨k, v⟩ := c
    simp only [twf, Bool.and_eq_true, decide_eq_true_eq] at ht
    rw [List.filter_cons]
    split
    · simp only [twf, Bool.and_eq_true, decide_eq_true_eq]
      exact ⟨ht.1, ih ht.2⟩
    · exact twf_mono (by omega) (ih ht.2)

theorem twf_filter_ge [DecidableEq α] {d : α} {lo a : Nat} {t : Table α} (ht : twf d lo t = true) :
    twf d a (t.filter fun c => decide (a ≤ c.1)) = true := by
  induction t generalizing lo with
  | nil => rfl
  | cons c t ih =>
    obtain ⟨k, v⟩ := c
    simp only [twf, Bool.and_eq_true, decide_eq_true_eq] at ht
    rw [List.filter_cons]
    split
    · next h =>
      simp only [twf, Bool.and_eq_true, decide_eq_true_eq]
      exact ⟨⟨by simpa using h, ht.1.2⟩, twf_filter _ ht.2⟩
    · exact ih ht.2

theorem twf_append [DecidableEq α] {d : α} {lo hi : Nat} {s t : Table α} (hs : twf d lo s = true) (hb : ∀ c ∈ s, c.1 < hi)
    (hlo : lo ≤ hi) (ht : twf d hi t = true) : twf d lo (s ++ t) = true := by
  induction s generalizing lo with
  | nil => exact twf_mono hlo ht
  | cons c s ih =>
    obtain ⟨k, v⟩ := c
    simp only [twf, Bool.and_eq_true, decide_eq_true_eq] at hs
    simp only [List.cons_append, twf, Bool.and_eq_true, decide_eq_true_eq]
    have hk := hb (k, v) (by simp)
    exact ⟨hs.1, ih hs.2 (fun c hc => hb c (by simp [hc])) hk⟩

theorem twf_tcell [DecidableEq α] {d v : α} {k lo : Nat} (h : lo ≤ k) : twf d lo (tcell d k v) = true := by
  by_cases hv : v = d <;> simp [tcell, hv, twf, h]

theorem tcell_lt [DecidableEq α] {d v : α} {k : Nat} : ∀ c ∈ tcell d k v, c.1 < k + 1 := by
  intro c hc
  by_cases hv : v = d
  · simp [tcell, hv] at hc
  · simp [tcell, hv] at hc; subst hc; simp

/-- A write keeps a table canonical. -/
theorem twf_tset [DecidableEq α] {d v : α} {t : Table α} {k lo : Nat} (hk : lo ≤ k) (ht : twf d lo t = true) :
    twf d lo (tset d t k v) = true := by
  induction t generalizing lo with
  | nil => exact twf_tcell hk
  | cons c t ih =>
    obtain ⟨j, w⟩ := c
    have ht' := ht
    simp only [twf, Bool.and_eq_true, decide_eq_true_eq] at ht
    simp only [tset]
    split
    · next h =>
      have : j = k := by simpa using h
      subst this
      exact twf_append (twf_tcell hk) tcell_lt (by omega) (twf_filter _ ht.2)
    · split
      · next _ h =>
        refine twf_append (twf_tcell hk) tcell_lt (by omega) ?_
        simp only [twf, Bool.and_eq_true, decide_eq_true_eq]
        exact ⟨⟨by omega, ht.1.2⟩, twf_filter _ ht.2⟩
      · next h1 h2 =>
        have hjk : j ≠ k := by simpa using h1
        simp only [twf, Bool.and_eq_true, decide_eq_true_eq]
        exact ⟨ht.1, ih (by omega) ht.2⟩

theorem twf_cells {a lo : Nat} {bs : List Byte} (h : lo ≤ a) : twf Memory.blank lo (Memory.cells a bs) = true := by
  induction bs generalizing a lo with
  | nil => rfl
  | cons b bs ih => exact twf_append (twf_tcell h) tcell_lt (by omega) (ih (Nat.le_refl _))

theorem cells_lt {a : Nat} {bs : List Byte} : ∀ c ∈ Memory.cells a bs, c.1 < a + bs.length := by
  intro c hc
  by_contra h
  exact cells_absent_ge (x := c.1) (Nat.le_of_not_lt h) c hc rfl

/-- Every operation on memory keeps it canonical. -/
theorem wf_write {m : Memory} (h : m.wf = true) (a : Nat) (bs : List Byte) : (m.write a bs).wf = true := by
  refine twf_append (hi := a) (twf_filter _ h) ?_ (Nat.zero_le _) ?_
  · intro c hc; simpa using (List.mem_filter.1 hc).2
  · exact twf_append (hi := a + bs.length) (twf_cells (Nat.le_refl _)) cells_lt (by omega) (twf_filter_ge h)

theorem wf_writeByte {m : Memory} (h : m.wf = true) (a : Nat) (b : Byte) : (m.writeByte a b).wf = true :=
  twf_tset (Nat.zero_le _) h

theorem wf_erase {m : Memory} (h : m.wf = true) (a n : Nat) : (m.erase a n).wf = true := twf_filter _ h

theorem twf_shift {m : Memory} {a t lo lo' : Nat} (h : twf Memory.blank lo m = true) (hm : ∀ c ∈ m, a ≤ c.1) (hl : lo' ≤ max lo a - a + t) :
    twf Memory.blank lo' (m.map fun c => (c.1 - a + t, c.2)) = true := by
  induction m generalizing lo lo' with
  | nil => rfl
  | cons c m ih =>
    obtain ⟨k, v⟩ := c
    simp only [twf, Bool.and_eq_true, decide_eq_true_eq] at h
    have hk := hm (k, v) (by simp)
    simp only [List.map_cons, twf, Bool.and_eq_true, decide_eq_true_eq]
    simp only at hk
    refine ⟨⟨by omega, h.1.2⟩, ih h.2 (fun c hc => hm c (by simp [hc])) (by omega)⟩

theorem wf_copy {m : Memory} (h : m.wf = true) (a t n : Nat) : (m.copy a t n).wf = true := by
  unfold Memory.copy
  rw [List.append_assoc]
  refine twf_append (hi := t) (twf_filter _ h) ?_ (Nat.zero_le _) ?_
  · intro c hc; simpa using (List.mem_filter.1 hc).2
  · refine twf_append (hi := t + n) ?_ ?_ (by omega) (twf_filter_ge h)
    · refine twf_shift (a := a) (lo := 0) (twf_filter _ h) ?_ (by omega)
      intro c hc
      have := (List.mem_filter.1 hc).2
      simp at this; exact this.1
    · intro c hc
      obtain ⟨x, hx, rfl⟩ := List.mem_map.1 hc
      have := (List.mem_filter.1 hx).2
      simp at this; simp; omega

end Sys2Proof.Machine
end

