-- ==== Sys2Proof/Laws/State.lean ====
section
/-!
SUPPORT. Sys2Proof/Laws/State.lean: what each update of the device's state leaves alone, one lemma per field, and what it
reads back.
-/
namespace Sys2Proof.Machine

variable (d : Dev)

/-! ### setCore -/

@[simp] theorem Dev.setCore_regs (k : Nat) (x : CoreSt) : (d.setCore k x).regs = d.regs := rfl
@[simp] theorem Dev.setCore_hdrs (k : Nat) (x : CoreSt) : (d.setCore k x).hdrs = d.hdrs := rfl
@[simp] theorem Dev.setCore_elog (k : Nat) (x : CoreSt) : (d.setCore k x).elog = d.elog := rfl
@[simp] theorem Dev.setCore_elogWr (k : Nat) (x : CoreSt) : (d.setCore k x).elogWr = d.elogWr := rfl
@[simp] theorem Dev.setCore_mem (k : Nat) (x : CoreSt) : (d.setCore k x).mem = d.mem := rfl
@[simp] theorem Dev.setCore_ecc (k : Nat) (x : CoreSt) : (d.setCore k x).ecc = d.ecc := rfl
@[simp] theorem Dev.setCore_time (k : Nat) (x : CoreSt) : (d.setCore k x).time = d.time := rfl
@[simp] theorem Dev.setCore_timeFrac (k : Nat) (x : CoreSt) : (d.setCore k x).timeFrac = d.timeFrac := rfl
@[simp] theorem Dev.setCore_dies (k : Nat) (x : CoreSt) : (d.setCore k x).dies = d.dies := rfl
@[simp] theorem Dev.setCore_temps (k : Nat) (x : CoreSt) : (d.setCore k x).temps = d.temps := rfl
@[simp] theorem Dev.setCore_warned (k : Nat) (x : CoreSt) : (d.setCore k x).warned = d.warned := rfl
@[simp] theorem Dev.setCore_hots (k : Nat) (x : CoreSt) : (d.setCore k x).hots = d.hots := rfl
@[simp] theorem Dev.setCore_parts (k : Nat) (x : CoreSt) : (d.setCore k x).parts = d.parts := rfl
@[simp] theorem Dev.setCore_flights (k : Nat) (x : CoreSt) : (d.setCore k x).flights = d.flights := rfl
@[simp] theorem Dev.setCore_dmas (k : Nat) (x : CoreSt) : (d.setCore k x).dmas = d.dmas := rfl
@[simp] theorem Dev.setCore_bgFailed (k : Nat) (x : CoreSt) : (d.setCore k x).bgFailed = d.bgFailed := rfl
@[simp] theorem Dev.setCore_ddrLaid (k : Nat) (x : CoreSt) : (d.setCore k x).ddrLaid = d.ddrLaid := rfl
@[simp] theorem Dev.setCore_platens (k : Nat) (x : CoreSt) : (d.setCore k x).platens = d.platens := rfl
@[simp] theorem Dev.setCore_vc2 (k : Nat) (x : CoreSt) : (d.setCore k x).vc2 = d.vc2 := rfl
@[simp] theorem Dev.setCore_vc0 (k : Nat) (x : CoreSt) : (d.setCore k x).vc0 = d.vc0 := rfl
@[simp] theorem Dev.setCore_links (k : Nat) (x : CoreSt) : (d.setCore k x).links = d.links := rfl
@[simp] theorem Dev.setCore_cows (k : Nat) (x : CoreSt) : (d.setCore k x).cows = d.cows := rfl
@[simp] theorem Dev.setCore_colls (k : Nat) (x : CoreSt) : (d.setCore k x).colls = d.colls := rfl
@[simp] theorem Dev.setCore_servo (k : Nat) (x : CoreSt) : (d.setCore k x).servo = d.servo := rfl
@[simp] theorem Dev.setCore_out (k : Nat) (x : CoreSt) : (d.setCore k x).out = d.out := rfl
@[simp] theorem Dev.setCore_sessions (k : Nat) (x : CoreSt) : (d.setCore k x).sessions = d.sessions := rfl
@[simp] theorem Dev.setCore_opens (k : Nat) (x : CoreSt) : (d.setCore k x).opens = d.opens := rfl
@[simp] theorem Dev.setCore_shakes (k : Nat) (x : CoreSt) : (d.setCore k x).shakes = d.shakes := rfl
@[simp] theorem Dev.setCore_signQ (k : Nat) (x : CoreSt) : (d.setCore k x).signQ = d.signQ := rfl
@[simp] theorem Dev.setCore_oldSa (k : Nat) (x : CoreSt) : (d.setCore k x).oldSa = d.oldSa := rfl
@[simp] theorem Dev.setCore_proofs (k : Nat) (x : CoreSt) : (d.setCore k x).proofs = d.proofs := rfl
@[simp] theorem Dev.setCore_gens (k : Nat) (x : CoreSt) : (d.setCore k x).gens = d.gens := rfl
@[simp] theorem Dev.setCore_genNext (k : Nat) (x : CoreSt) : (d.setCore k x).genNext = d.genNext := rfl
@[simp] theorem Dev.setCore_parents (k : Nat) (x : CoreSt) : (d.setCore k x).parents = d.parents := rfl
@[simp] theorem Dev.setCore_sinceDrain (k : Nat) (x : CoreSt) : (d.setCore k x).sinceDrain = d.sinceDrain := rfl
@[simp] theorem Dev.setCore_drainQ (k : Nat) (x : CoreSt) : (d.setCore k x).drainQ = d.drainQ := rfl
@[simp] theorem Dev.setCore_drain (k : Nat) (x : CoreSt) : (d.setCore k x).drain = d.drain := rfl
@[simp] theorem Dev.setCore_saveHold (k : Nat) (x : CoreSt) : (d.setCore k x).saveHold = d.saveHold := rfl
@[simp] theorem Dev.setCore_meters (k : Nat) (x : CoreSt) : (d.setCore k x).meters = d.meters := rfl
@[simp] theorem Dev.setCore_freeCount (k : Nat) (x : CoreSt) : (d.setCore k x).freeCount = d.freeCount := rfl
@[simp] theorem Dev.die_setCore (k : Nat) (x : CoreSt) (i : Nat) : (d.setCore k x).die i = d.die i := rfl
@[simp] theorem Dev.part_setCore (k : Nat) (x : CoreSt) (i : Nat) : (d.setCore k x).part i = d.part i := rfl
@[simp] theorem Dev.dma_setCore (k : Nat) (x : CoreSt) (i : Nat) : (d.setCore k x).dma i = d.dma i := rfl
@[simp] theorem Dev.platen_setCore (k : Nat) (x : CoreSt) (i : Nat) : (d.setCore k x).platen i = d.platen i := rfl
@[simp] theorem Dev.hdr_setCore (k : Nat) (x : CoreSt) (i : Nat) : (d.setCore k x).hdr i = d.hdr i := rfl
@[simp] theorem Dev.link_setCore (k : Nat) (x : CoreSt) (i : Nat) : (d.setCore k x).link i = d.link i := rfl
@[simp] theorem Dev.coll_setCore (k : Nat) (x : CoreSt) (i : Nat) : (d.setCore k x).coll i = d.coll i := rfl
@[simp] theorem Dev.cow_setCore (k : Nat) (x : CoreSt) (i : Nat) : (d.setCore k x).cow i = d.cow i := rfl
@[simp] theorem Dev.sess_setCore (k : Nat) (x : CoreSt) (i : Nat) : (d.setCore k x).sess i = d.sess i := rfl
@[simp] theorem Dev.proof_setCore (k : Nat) (x : CoreSt) (i : Nat) : (d.setCore k x).proof i = d.proof i := rfl
@[simp] theorem Dev.gen_setCore (k : Nat) (x : CoreSt) (i : Nat) : (d.setCore k x).gen i = d.gen i := rfl
@[simp] theorem Dev.reg_setCore (k : Nat) (x : CoreSt) (g o : Nat) : (d.setCore k x).reg g o = d.reg g o := rfl

/-! ### modCore -/

@[simp] theorem Dev.modCore_regs (k : Nat) (f : CoreSt → CoreSt) : (d.modCore k f).regs = d.regs := rfl
@[simp] theorem Dev.modCore_hdrs (k : Nat) (f : CoreSt → CoreSt) : (d.modCore k f).hdrs = d.hdrs := rfl
@[simp] theorem Dev.modCore_elog (k : Nat) (f : CoreSt → CoreSt) : (d.modCore k f).elog = d.elog := rfl
@[simp] theorem Dev.modCore_elogWr (k : Nat) (f : CoreSt → CoreSt) : (d.modCore k f).elogWr = d.elogWr := rfl
@[simp] theorem Dev.modCore_mem (k : Nat) (f : CoreSt → CoreSt) : (d.modCore k f).mem = d.mem := rfl
@[simp] theorem Dev.modCore_ecc (k : Nat) (f : CoreSt → CoreSt) : (d.modCore k f).ecc = d.ecc := rfl
@[simp] theorem Dev.modCore_time (k : Nat) (f : CoreSt → CoreSt) : (d.modCore k f).time = d.time := rfl
@[simp] theorem Dev.modCore_timeFrac (k : Nat) (f : CoreSt → CoreSt) : (d.modCore k f).timeFrac = d.timeFrac := rfl
@[simp] theorem Dev.modCore_dies (k : Nat) (f : CoreSt → CoreSt) : (d.modCore k f).dies = d.dies := rfl
@[simp] theorem Dev.modCore_temps (k : Nat) (f : CoreSt → CoreSt) : (d.modCore k f).temps = d.temps := rfl
@[simp] theorem Dev.modCore_warned (k : Nat) (f : CoreSt → CoreSt) : (d.modCore k f).warned = d.warned := rfl
@[simp] theorem Dev.modCore_hots (k : Nat) (f : CoreSt → CoreSt) : (d.modCore k f).hots = d.hots := rfl
@[simp] theorem Dev.modCore_parts (k : Nat) (f : CoreSt → CoreSt) : (d.modCore k f).parts = d.parts := rfl
@[simp] theorem Dev.modCore_flights (k : Nat) (f : CoreSt → CoreSt) : (d.modCore k f).flights = d.flights := rfl
@[simp] theorem Dev.modCore_dmas (k : Nat) (f : CoreSt → CoreSt) : (d.modCore k f).dmas = d.dmas := rfl
@[simp] theorem Dev.modCore_bgFailed (k : Nat) (f : CoreSt → CoreSt) : (d.modCore k f).bgFailed = d.bgFailed := rfl
@[simp] theorem Dev.modCore_ddrLaid (k : Nat) (f : CoreSt → CoreSt) : (d.modCore k f).ddrLaid = d.ddrLaid := rfl
@[simp] theorem Dev.modCore_platens (k : Nat) (f : CoreSt → CoreSt) : (d.modCore k f).platens = d.platens := rfl
@[simp] theorem Dev.modCore_vc2 (k : Nat) (f : CoreSt → CoreSt) : (d.modCore k f).vc2 = d.vc2 := rfl
@[simp] theorem Dev.modCore_vc0 (k : Nat) (f : CoreSt → CoreSt) : (d.modCore k f).vc0 = d.vc0 := rfl
@[simp] theorem Dev.modCore_links (k : Nat) (f : CoreSt → CoreSt) : (d.modCore k f).links = d.links := rfl
@[simp] theorem Dev.modCore_cows (k : Nat) (f : CoreSt → CoreSt) : (d.modCore k f).cows = d.cows := rfl
@[simp] theorem Dev.modCore_colls (k : Nat) (f : CoreSt → CoreSt) : (d.modCore k f).colls = d.colls := rfl
@[simp] theorem Dev.modCore_servo (k : Nat) (f : CoreSt → CoreSt) : (d.modCore k f).servo = d.servo := rfl
@[simp] theorem Dev.modCore_out (k : Nat) (f : CoreSt → CoreSt) : (d.modCore k f).out = d.out := rfl
@[simp] theorem Dev.modCore_sessions (k : Nat) (f : CoreSt → CoreSt) : (d.modCore k f).sessions = d.sessions := rfl
@[simp] theorem Dev.modCore_opens (k : Nat) (f : CoreSt → CoreSt) : (d.modCore k f).opens = d.opens := rfl
@[simp] theorem Dev.modCore_shakes (k : Nat) (f : CoreSt → CoreSt) : (d.modCore k f).shakes = d.shakes := rfl
@[simp] theorem Dev.modCore_signQ (k : Nat) (f : CoreSt → CoreSt) : (d.modCore k f).signQ = d.signQ := rfl
@[simp] theorem Dev.modCore_oldSa (k : Nat) (f : CoreSt → CoreSt) : (d.modCore k f).oldSa = d.oldSa := rfl
@[simp] theorem Dev.modCore_proofs (k : Nat) (f : CoreSt → CoreSt) : (d.modCore k f).proofs = d.proofs := rfl
@[simp] theorem Dev.modCore_gens (k : Nat) (f : CoreSt → CoreSt) : (d.modCore k f).gens = d.gens := rfl
@[simp] theorem Dev.modCore_genNext (k : Nat) (f : CoreSt → CoreSt) : (d.modCore k f).genNext = d.genNext := rfl
@[simp] theorem Dev.modCore_parents (k : Nat) (f : CoreSt → CoreSt) : (d.modCore k f).parents = d.parents := rfl
@[simp] theorem Dev.modCore_sinceDrain (k : Nat) (f : CoreSt → CoreSt) : (d.modCore k f).sinceDrain = d.sinceDrain := rfl
@[simp] theorem Dev.modCore_drainQ (k : Nat) (f : CoreSt → CoreSt) : (d.modCore k f).drainQ = d.drainQ := rfl
@[simp] theorem Dev.modCore_drain (k : Nat) (f : CoreSt → CoreSt) : (d.modCore k f).drain = d.drain := rfl
@[simp] theorem Dev.modCore_saveHold (k : Nat) (f : CoreSt → CoreSt) : (d.modCore k f).saveHold = d.saveHold := rfl
@[simp] theorem Dev.modCore_meters (k : Nat) (f : CoreSt → CoreSt) : (d.modCore k f).meters = d.meters := rfl
@[simp] theorem Dev.modCore_freeCount (k : Nat) (f : CoreSt → CoreSt) : (d.modCore k f).freeCount = d.freeCount := rfl
@[simp] theorem Dev.die_modCore (k : Nat) (f : CoreSt → CoreSt) (i : Nat) : (d.modCore k f).die i = d.die i := rfl
@[simp] theorem Dev.part_modCore (k : Nat) (f : CoreSt → CoreSt) (i : Nat) : (d.modCore k f).part i = d.part i := rfl
@[simp] theorem Dev.dma_modCore (k : Nat) (f : CoreSt → CoreSt) (i : Nat) : (d.modCore k f).dma i = d.dma i := rfl
@[simp] theorem Dev.platen_modCore (k : Nat) (f : CoreSt → CoreSt) (i : Nat) : (d.modCore k f).platen i = d.platen i := rfl
@[simp] theorem Dev.hdr_modCore (k : Nat) (f : CoreSt → CoreSt) (i : Nat) : (d.modCore k f).hdr i = d.hdr i := rfl
@[simp] theorem Dev.link_modCore (k : Nat) (f : CoreSt → CoreSt) (i : Nat) : (d.modCore k f).link i = d.link i := rfl
@[simp] theorem Dev.coll_modCore (k : Nat) (f : CoreSt → CoreSt) (i : Nat) : (d.modCore k f).coll i = d.coll i := rfl
@[simp] theorem Dev.cow_modCore (k : Nat) (f : CoreSt → CoreSt) (i : Nat) : (d.modCore k f).cow i = d.cow i := rfl
@[simp] theorem Dev.sess_modCore (k : Nat) (f : CoreSt → CoreSt) (i : Nat) : (d.modCore k f).sess i = d.sess i := rfl
@[simp] theorem Dev.proof_modCore (k : Nat) (f : CoreSt → CoreSt) (i : Nat) : (d.modCore k f).proof i = d.proof i := rfl
@[simp] theorem Dev.gen_modCore (k : Nat) (f : CoreSt → CoreSt) (i : Nat) : (d.modCore k f).gen i = d.gen i := rfl
@[simp] theorem Dev.reg_modCore (k : Nat) (f : CoreSt → CoreSt) (g o : Nat) : (d.modCore k f).reg g o = d.reg g o := rfl

/-! ### modDie -/

@[simp] theorem Dev.modDie_regs (k : Nat) (f : DieSt → DieSt) : (d.modDie k f).regs = d.regs := rfl
@[simp] theorem Dev.modDie_hdrs (k : Nat) (f : DieSt → DieSt) : (d.modDie k f).hdrs = d.hdrs := rfl
@[simp] theorem Dev.modDie_elog (k : Nat) (f : DieSt → DieSt) : (d.modDie k f).elog = d.elog := rfl
@[simp] theorem Dev.modDie_elogWr (k : Nat) (f : DieSt → DieSt) : (d.modDie k f).elogWr = d.elogWr := rfl
@[simp] theorem Dev.modDie_mem (k : Nat) (f : DieSt → DieSt) : (d.modDie k f).mem = d.mem := rfl
@[simp] theorem Dev.modDie_ecc (k : Nat) (f : DieSt → DieSt) : (d.modDie k f).ecc = d.ecc := rfl
@[simp] theorem Dev.modDie_time (k : Nat) (f : DieSt → DieSt) : (d.modDie k f).time = d.time := rfl
@[simp] theorem Dev.modDie_timeFrac (k : Nat) (f : DieSt → DieSt) : (d.modDie k f).timeFrac = d.timeFrac := rfl
@[simp] theorem Dev.modDie_temps (k : Nat) (f : DieSt → DieSt) : (d.modDie k f).temps = d.temps := rfl
@[simp] theorem Dev.modDie_warned (k : Nat) (f : DieSt → DieSt) : (d.modDie k f).warned = d.warned := rfl
@[simp] theorem Dev.modDie_hots (k : Nat) (f : DieSt → DieSt) : (d.modDie k f).hots = d.hots := rfl
@[simp] theorem Dev.modDie_parts (k : Nat) (f : DieSt → DieSt) : (d.modDie k f).parts = d.parts := rfl
@[simp] theorem Dev.modDie_cores (k : Nat) (f : DieSt → DieSt) : (d.modDie k f).cores = d.cores := rfl
@[simp] theorem Dev.modDie_flights (k : Nat) (f : DieSt → DieSt) : (d.modDie k f).flights = d.flights := rfl
@[simp] theorem Dev.modDie_dmas (k : Nat) (f : DieSt → DieSt) : (d.modDie k f).dmas = d.dmas := rfl
@[simp] theorem Dev.modDie_bgFailed (k : Nat) (f : DieSt → DieSt) : (d.modDie k f).bgFailed = d.bgFailed := rfl
@[simp] theorem Dev.modDie_ddrLaid (k : Nat) (f : DieSt → DieSt) : (d.modDie k f).ddrLaid = d.ddrLaid := rfl
@[simp] theorem Dev.modDie_platens (k : Nat) (f : DieSt → DieSt) : (d.modDie k f).platens = d.platens := rfl
@[simp] theorem Dev.modDie_vc2 (k : Nat) (f : DieSt → DieSt) : (d.modDie k f).vc2 = d.vc2 := rfl
@[simp] theorem Dev.modDie_vc0 (k : Nat) (f : DieSt → DieSt) : (d.modDie k f).vc0 = d.vc0 := rfl
@[simp] theorem Dev.modDie_links (k : Nat) (f : DieSt → DieSt) : (d.modDie k f).links = d.links := rfl
@[simp] theorem Dev.modDie_cows (k : Nat) (f : DieSt → DieSt) : (d.modDie k f).cows = d.cows := rfl
@[simp] theorem Dev.modDie_colls (k : Nat) (f : DieSt → DieSt) : (d.modDie k f).colls = d.colls := rfl
@[simp] theorem Dev.modDie_servo (k : Nat) (f : DieSt → DieSt) : (d.modDie k f).servo = d.servo := rfl
@[simp] theorem Dev.modDie_out (k : Nat) (f : DieSt → DieSt) : (d.modDie k f).out = d.out := rfl
@[simp] theorem Dev.modDie_sessions (k : Nat) (f : DieSt → DieSt) : (d.modDie k f).sessions = d.sessions := rfl
@[simp] theorem Dev.modDie_opens (k : Nat) (f : DieSt → DieSt) : (d.modDie k f).opens = d.opens := rfl
@[simp] theorem Dev.modDie_shakes (k : Nat) (f : DieSt → DieSt) : (d.modDie k f).shakes = d.shakes := rfl
@[simp] theorem Dev.modDie_signQ (k : Nat) (f : DieSt → DieSt) : (d.modDie k f).signQ = d.signQ := rfl
@[simp] theorem Dev.modDie_oldSa (k : Nat) (f : DieSt → DieSt) : (d.modDie k f).oldSa = d.oldSa := rfl
@[simp] theorem Dev.modDie_proofs (k : Nat) (f : DieSt → DieSt) : (d.modDie k f).proofs = d.proofs := rfl
@[simp] theorem Dev.modDie_gens (k : Nat) (f : DieSt → DieSt) : (d.modDie k f).gens = d.gens := rfl
@[simp] theorem Dev.modDie_genNext (k : Nat) (f : DieSt → DieSt) : (d.modDie k f).genNext = d.genNext := rfl
@[simp] theorem Dev.modDie_parents (k : Nat) (f : DieSt → DieSt) : (d.modDie k f).parents = d.parents := rfl
@[simp] theorem Dev.modDie_sinceDrain (k : Nat) (f : DieSt → DieSt) : (d.modDie k f).sinceDrain = d.sinceDrain := rfl
@[simp] theorem Dev.modDie_drainQ (k : Nat) (f : DieSt → DieSt) : (d.modDie k f).drainQ = d.drainQ := rfl
@[simp] theorem Dev.modDie_drain (k : Nat) (f : DieSt → DieSt) : (d.modDie k f).drain = d.drain := rfl
@[simp] theorem Dev.modDie_saveHold (k : Nat) (f : DieSt → DieSt) : (d.modDie k f).saveHold = d.saveHold := rfl
@[simp] theorem Dev.modDie_meters (k : Nat) (f : DieSt → DieSt) : (d.modDie k f).meters = d.meters := rfl
@[simp] theorem Dev.modDie_freeCount (k : Nat) (f : DieSt → DieSt) : (d.modDie k f).freeCount = d.freeCount := rfl
@[simp] theorem Dev.core_modDie (k : Nat) (f : DieSt → DieSt) (i : Nat) : (d.modDie k f).core i = d.core i := rfl
@[simp] theorem Dev.part_modDie (k : Nat) (f : DieSt → DieSt) (i : Nat) : (d.modDie k f).part i = d.part i := rfl
@[simp] theorem Dev.dma_modDie (k : Nat) (f : DieSt → DieSt) (i : Nat) : (d.modDie k f).dma i = d.dma i := rfl
@[simp] theorem Dev.platen_modDie (k : Nat) (f : DieSt → DieSt) (i : Nat) : (d.modDie k f).platen i = d.platen i := rfl
@[simp] theorem Dev.hdr_modDie (k : Nat) (f : DieSt → DieSt) (i : Nat) : (d.modDie k f).hdr i = d.hdr i := rfl
@[simp] theorem Dev.link_modDie (k : Nat) (f : DieSt → DieSt) (i : Nat) : (d.modDie k f).link i = d.link i := rfl
@[simp] theorem Dev.coll_modDie (k : Nat) (f : DieSt → DieSt) (i : Nat) : (d.modDie k f).coll i = d.coll i := rfl
@[simp] theorem Dev.cow_modDie (k : Nat) (f : DieSt → DieSt) (i : Nat) : (d.modDie k f).cow i = d.cow i := rfl
@[simp] theorem Dev.sess_modDie (k : Nat) (f : DieSt → DieSt) (i : Nat) : (d.modDie k f).sess i = d.sess i := rfl
@[simp] theorem Dev.proof_modDie (k : Nat) (f : DieSt → DieSt) (i : Nat) : (d.modDie k f).proof i = d.proof i := rfl
@[simp] theorem Dev.gen_modDie (k : Nat) (f : DieSt → DieSt) (i : Nat) : (d.modDie k f).gen i = d.gen i := rfl
@[simp] theorem Dev.reg_modDie (k : Nat) (f : DieSt → DieSt) (g o : Nat) : (d.modDie k f).reg g o = d.reg g o := rfl

/-! ### modPart -/

@[simp] theorem Dev.modPart_regs (k : Nat) (f : PartSt → PartSt) : (d.modPart k f).regs = d.regs := rfl
@[simp] theorem Dev.modPart_hdrs (k : Nat) (f : PartSt → PartSt) : (d.modPart k f).hdrs = d.hdrs := rfl
@[simp] theorem Dev.modPart_elog (k : Nat) (f : PartSt → PartSt) : (d.modPart k f).elog = d.elog := rfl
@[simp] theorem Dev.modPart_elogWr (k : Nat) (f : PartSt → PartSt) : (d.modPart k f).elogWr = d.elogWr := rfl
@[simp] theorem Dev.modPart_mem (k : Nat) (f : PartSt → PartSt) : (d.modPart k f).mem = d.mem := rfl
@[simp] theorem Dev.modPart_ecc (k : Nat) (f : PartSt → PartSt) : (d.modPart k f).ecc = d.ecc := rfl
@[simp] theorem Dev.modPart_time (k : Nat) (f : PartSt → PartSt) : (d.modPart k f).time = d.time := rfl
@[simp] theorem Dev.modPart_timeFrac (k : Nat) (f : PartSt → PartSt) : (d.modPart k f).timeFrac = d.timeFrac := rfl
@[simp] theorem Dev.modPart_dies (k : Nat) (f : PartSt → PartSt) : (d.modPart k f).dies = d.dies := rfl
@[simp] theorem Dev.modPart_temps (k : Nat) (f : PartSt → PartSt) : (d.modPart k f).temps = d.temps := rfl
@[simp] theorem Dev.modPart_warned (k : Nat) (f : PartSt → PartSt) : (d.modPart k f).warned = d.warned := rfl
@[simp] theorem Dev.modPart_hots (k : Nat) (f : PartSt → PartSt) : (d.modPart k f).hots = d.hots := rfl
@[simp] theorem Dev.modPart_cores (k : Nat) (f : PartSt → PartSt) : (d.modPart k f).cores = d.cores := rfl
@[simp] theorem Dev.modPart_flights (k : Nat) (f : PartSt → PartSt) : (d.modPart k f).flights = d.flights := rfl
@[simp] theorem Dev.modPart_dmas (k : Nat) (f : PartSt → PartSt) : (d.modPart k f).dmas = d.dmas := rfl
@[simp] theorem Dev.modPart_bgFailed (k : Nat) (f : PartSt → PartSt) : (d.modPart k f).bgFailed = d.bgFailed := rfl
@[simp] theorem Dev.modPart_ddrLaid (k : Nat) (f : PartSt → PartSt) : (d.modPart k f).ddrLaid = d.ddrLaid := rfl
@[simp] theorem Dev.modPart_platens (k : Nat) (f : PartSt → PartSt) : (d.modPart k f).platens = d.platens := rfl
@[simp] theorem Dev.modPart_vc2 (k : Nat) (f : PartSt → PartSt) : (d.modPart k f).vc2 = d.vc2 := rfl
@[simp] theorem Dev.modPart_vc0 (k : Nat) (f : PartSt → PartSt) : (d.modPart k f).vc0 = d.vc0 := rfl
@[simp] theorem Dev.modPart_links (k : Nat) (f : PartSt → PartSt) : (d.modPart k f).links = d.links := rfl
@[simp] theorem Dev.modPart_cows (k : Nat) (f : PartSt → PartSt) : (d.modPart k f).cows = d.cows := rfl
@[simp] theorem Dev.modPart_colls (k : Nat) (f : PartSt → PartSt) : (d.modPart k f).colls = d.colls := rfl
@[simp] theorem Dev.modPart_servo (k : Nat) (f : PartSt → PartSt) : (d.modPart k f).servo = d.servo := rfl
@[simp] theorem Dev.modPart_out (k : Nat) (f : PartSt → PartSt) : (d.modPart k f).out = d.out := rfl
@[simp] theorem Dev.modPart_sessions (k : Nat) (f : PartSt → PartSt) : (d.modPart k f).sessions = d.sessions := rfl
@[simp] theorem Dev.modPart_opens (k : Nat) (f : PartSt → PartSt) : (d.modPart k f).opens = d.opens := rfl
@[simp] theorem Dev.modPart_shakes (k : Nat) (f : PartSt → PartSt) : (d.modPart k f).shakes = d.shakes := rfl
@[simp] theorem Dev.modPart_signQ (k : Nat) (f : PartSt → PartSt) : (d.modPart k f).signQ = d.signQ := rfl
@[simp] theorem Dev.modPart_oldSa (k : Nat) (f : PartSt → PartSt) : (d.modPart k f).oldSa = d.oldSa := rfl
@[simp] theorem Dev.modPart_proofs (k : Nat) (f : PartSt → PartSt) : (d.modPart k f).proofs = d.proofs := rfl
@[simp] theorem Dev.modPart_gens (k : Nat) (f : PartSt → PartSt) : (d.modPart k f).gens = d.gens := rfl
@[simp] theorem Dev.modPart_genNext (k : Nat) (f : PartSt → PartSt) : (d.modPart k f).genNext = d.genNext := rfl
@[simp] theorem Dev.modPart_parents (k : Nat) (f : PartSt → PartSt) : (d.modPart k f).parents = d.parents := rfl
@[simp] theorem Dev.modPart_sinceDrain (k : Nat) (f : PartSt → PartSt) : (d.modPart k f).sinceDrain = d.sinceDrain := rfl
@[simp] theorem Dev.modPart_drainQ (k : Nat) (f : PartSt → PartSt) : (d.modPart k f).drainQ = d.drainQ := rfl
@[simp] theorem Dev.modPart_drain (k : Nat) (f : PartSt → PartSt) : (d.modPart k f).drain = d.drain := rfl
@[simp] theorem Dev.modPart_saveHold (k : Nat) (f : PartSt → PartSt) : (d.modPart k f).saveHold = d.saveHold := rfl
@[simp] theorem Dev.modPart_meters (k : Nat) (f : PartSt → PartSt) : (d.modPart k f).meters = d.meters := rfl
@[simp] theorem Dev.modPart_freeCount (k : Nat) (f : PartSt → PartSt) : (d.modPart k f).freeCount = d.freeCount := rfl
@[simp] theorem Dev.core_modPart (k : Nat) (f : PartSt → PartSt) (i : Nat) : (d.modPart k f).core i = d.core i := rfl
@[simp] theorem Dev.die_modPart (k : Nat) (f : PartSt → PartSt) (i : Nat) : (d.modPart k f).die i = d.die i := rfl
@[simp] theorem Dev.dma_modPart (k : Nat) (f : PartSt → PartSt) (i : Nat) : (d.modPart k f).dma i = d.dma i := rfl
@[simp] theorem Dev.platen_modPart (k : Nat) (f : PartSt → PartSt) (i : Nat) : (d.modPart k f).platen i = d.platen i := rfl
@[simp] theorem Dev.hdr_modPart (k : Nat) (f : PartSt → PartSt) (i : Nat) : (d.modPart k f).hdr i = d.hdr i := rfl
@[simp] theorem Dev.link_modPart (k : Nat) (f : PartSt → PartSt) (i : Nat) : (d.modPart k f).link i = d.link i := rfl
@[simp] theorem Dev.coll_modPart (k : Nat) (f : PartSt → PartSt) (i : Nat) : (d.modPart k f).coll i = d.coll i := rfl
@[simp] theorem Dev.cow_modPart (k : Nat) (f : PartSt → PartSt) (i : Nat) : (d.modPart k f).cow i = d.cow i := rfl
@[simp] theorem Dev.sess_modPart (k : Nat) (f : PartSt → PartSt) (i : Nat) : (d.modPart k f).sess i = d.sess i := rfl
@[simp] theorem Dev.proof_modPart (k : Nat) (f : PartSt → PartSt) (i : Nat) : (d.modPart k f).proof i = d.proof i := rfl
@[simp] theorem Dev.gen_modPart (k : Nat) (f : PartSt → PartSt) (i : Nat) : (d.modPart k f).gen i = d.gen i := rfl
@[simp] theorem Dev.reg_modPart (k : Nat) (f : PartSt → PartSt) (g o : Nat) : (d.modPart k f).reg g o = d.reg g o := rfl

/-! ### modDma -/

@[simp] theorem Dev.modDma_regs (k : Nat) (f : DmaSt → DmaSt) : (d.modDma k f).regs = d.regs := rfl
@[simp] theorem Dev.modDma_hdrs (k : Nat) (f : DmaSt → DmaSt) : (d.modDma k f).hdrs = d.hdrs := rfl
@[simp] theorem Dev.modDma_elog (k : Nat) (f : DmaSt → DmaSt) : (d.modDma k f).elog = d.elog := rfl
@[simp] theorem Dev.modDma_elogWr (k : Nat) (f : DmaSt → DmaSt) : (d.modDma k f).elogWr = d.elogWr := rfl
@[simp] theorem Dev.modDma_mem (k : Nat) (f : DmaSt → DmaSt) : (d.modDma k f).mem = d.mem := rfl
@[simp] theorem Dev.modDma_ecc (k : Nat) (f : DmaSt → DmaSt) : (d.modDma k f).ecc = d.ecc := rfl
@[simp] theorem Dev.modDma_time (k : Nat) (f : DmaSt → DmaSt) : (d.modDma k f).time = d.time := rfl
@[simp] theorem Dev.modDma_timeFrac (k : Nat) (f : DmaSt → DmaSt) : (d.modDma k f).timeFrac = d.timeFrac := rfl
@[simp] theorem Dev.modDma_dies (k : Nat) (f : DmaSt → DmaSt) : (d.modDma k f).dies = d.dies := rfl
@[simp] theorem Dev.modDma_temps (k : Nat) (f : DmaSt → DmaSt) : (d.modDma k f).temps = d.temps := rfl
@[simp] theorem Dev.modDma_warned (k : Nat) (f : DmaSt → DmaSt) : (d.modDma k f).warned = d.warned := rfl
@[simp] theorem Dev.modDma_hots (k : Nat) (f : DmaSt → DmaSt) : (d.modDma k f).hots = d.hots := rfl
@[simp] theorem Dev.modDma_parts (k : Nat) (f : DmaSt → DmaSt) : (d.modDma k f).parts = d.parts := rfl
@[simp] theorem Dev.modDma_cores (k : Nat) (f : DmaSt → DmaSt) : (d.modDma k f).cores = d.cores := rfl
@[simp] theorem Dev.modDma_flights (k : Nat) (f : DmaSt → DmaSt) : (d.modDma k f).flights = d.flights := rfl
@[simp] theorem Dev.modDma_bgFailed (k : Nat) (f : DmaSt → DmaSt) : (d.modDma k f).bgFailed = d.bgFailed := rfl
@[simp] theorem Dev.modDma_ddrLaid (k : Nat) (f : DmaSt → DmaSt) : (d.modDma k f).ddrLaid = d.ddrLaid := rfl
@[simp] theorem Dev.modDma_platens (k : Nat) (f : DmaSt → DmaSt) : (d.modDma k f).platens = d.platens := rfl
@[simp] theorem Dev.modDma_vc2 (k : Nat) (f : DmaSt → DmaSt) : (d.modDma k f).vc2 = d.vc2 := rfl
@[simp] theorem Dev.modDma_vc0 (k : Nat) (f : DmaSt → DmaSt) : (d.modDma k f).vc0 = d.vc0 := rfl
@[simp] theorem Dev.modDma_links (k : Nat) (f : DmaSt → DmaSt) : (d.modDma k f).links = d.links := rfl
@[simp] theorem Dev.modDma_cows (k : Nat) (f : DmaSt → DmaSt) : (d.modDma k f).cows = d.cows := rfl
@[simp] theorem Dev.modDma_colls (k : Nat) (f : DmaSt → DmaSt) : (d.modDma k f).colls = d.colls := rfl
@[simp] theorem Dev.modDma_servo (k : Nat) (f : DmaSt → DmaSt) : (d.modDma k f).servo = d.servo := rfl
@[simp] theorem Dev.modDma_out (k : Nat) (f : DmaSt → DmaSt) : (d.modDma k f).out = d.out := rfl
@[simp] theorem Dev.modDma_sessions (k : Nat) (f : DmaSt → DmaSt) : (d.modDma k f).sessions = d.sessions := rfl
@[simp] theorem Dev.modDma_opens (k : Nat) (f : DmaSt → DmaSt) : (d.modDma k f).opens = d.opens := rfl
@[simp] theorem Dev.modDma_shakes (k : Nat) (f : DmaSt → DmaSt) : (d.modDma k f).shakes = d.shakes := rfl
@[simp] theorem Dev.modDma_signQ (k : Nat) (f : DmaSt → DmaSt) : (d.modDma k f).signQ = d.signQ := rfl
@[simp] theorem Dev.modDma_oldSa (k : Nat) (f : DmaSt → DmaSt) : (d.modDma k f).oldSa = d.oldSa := rfl
@[simp] theorem Dev.modDma_proofs (k : Nat) (f : DmaSt → DmaSt) : (d.modDma k f).proofs = d.proofs := rfl
@[simp] theorem Dev.modDma_gens (k : Nat) (f : DmaSt → DmaSt) : (d.modDma k f).gens = d.gens := rfl
@[simp] theorem Dev.modDma_genNext (k : Nat) (f : DmaSt → DmaSt) : (d.modDma k f).genNext = d.genNext := rfl
@[simp] theorem Dev.modDma_parents (k : Nat) (f : DmaSt → DmaSt) : (d.modDma k f).parents = d.parents := rfl
@[simp] theorem Dev.modDma_sinceDrain (k : Nat) (f : DmaSt → DmaSt) : (d.modDma k f).sinceDrain = d.sinceDrain := rfl
@[simp] theorem Dev.modDma_drainQ (k : Nat) (f : DmaSt → DmaSt) : (d.modDma k f).drainQ = d.drainQ := rfl
@[simp] theorem Dev.modDma_drain (k : Nat) (f : DmaSt → DmaSt) : (d.modDma k f).drain = d.drain := rfl
@[simp] theorem Dev.modDma_saveHold (k : Nat) (f : DmaSt → DmaSt) : (d.modDma k f).saveHold = d.saveHold := rfl
@[simp] theorem Dev.modDma_meters (k : Nat) (f : DmaSt → DmaSt) : (d.modDma k f).meters = d.meters := rfl
@[simp] theorem Dev.modDma_freeCount (k : Nat) (f : DmaSt → DmaSt) : (d.modDma k f).freeCount = d.freeCount := rfl
@[simp] theorem Dev.core_modDma (k : Nat) (f : DmaSt → DmaSt) (i : Nat) : (d.modDma k f).core i = d.core i := rfl
@[simp] theorem Dev.die_modDma (k : Nat) (f : DmaSt → DmaSt) (i : Nat) : (d.modDma k f).die i = d.die i := rfl
@[simp] theorem Dev.part_modDma (k : Nat) (f : DmaSt → DmaSt) (i : Nat) : (d.modDma k f).part i = d.part i := rfl
@[simp] theorem Dev.platen_modDma (k : Nat) (f : DmaSt → DmaSt) (i : Nat) : (d.modDma k f).platen i = d.platen i := rfl
@[simp] theorem Dev.hdr_modDma (k : Nat) (f : DmaSt → DmaSt) (i : Nat) : (d.modDma k f).hdr i = d.hdr i := rfl
@[simp] theorem Dev.link_modDma (k : Nat) (f : DmaSt → DmaSt) (i : Nat) : (d.modDma k f).link i = d.link i := rfl
@[simp] theorem Dev.coll_modDma (k : Nat) (f : DmaSt → DmaSt) (i : Nat) : (d.modDma k f).coll i = d.coll i := rfl
@[simp] theorem Dev.cow_modDma (k : Nat) (f : DmaSt → DmaSt) (i : Nat) : (d.modDma k f).cow i = d.cow i := rfl
@[simp] theorem Dev.sess_modDma (k : Nat) (f : DmaSt → DmaSt) (i : Nat) : (d.modDma k f).sess i = d.sess i := rfl
@[simp] theorem Dev.proof_modDma (k : Nat) (f : DmaSt → DmaSt) (i : Nat) : (d.modDma k f).proof i = d.proof i := rfl
@[simp] theorem Dev.gen_modDma (k : Nat) (f : DmaSt → DmaSt) (i : Nat) : (d.modDma k f).gen i = d.gen i := rfl
@[simp] theorem Dev.reg_modDma (k : Nat) (f : DmaSt → DmaSt) (g o : Nat) : (d.modDma k f).reg g o = d.reg g o := rfl

/-! ### modPlaten -/

@[simp] theorem Dev.modPlaten_regs (k : Nat) (f : PlatenSt → PlatenSt) : (d.modPlaten k f).regs = d.regs := rfl
@[simp] theorem Dev.modPlaten_hdrs (k : Nat) (f : PlatenSt → PlatenSt) : (d.modPlaten k f).hdrs = d.hdrs := rfl
@[simp] theorem Dev.modPlaten_elog (k : Nat) (f : PlatenSt → PlatenSt) : (d.modPlaten k f).elog = d.elog := rfl
@[simp] theorem Dev.modPlaten_elogWr (k : Nat) (f : PlatenSt → PlatenSt) : (d.modPlaten k f).elogWr = d.elogWr := rfl
@[simp] theorem Dev.modPlaten_mem (k : Nat) (f : PlatenSt → PlatenSt) : (d.modPlaten k f).mem = d.mem := rfl
@[simp] theorem Dev.modPlaten_ecc (k : Nat) (f : PlatenSt → PlatenSt) : (d.modPlaten k f).ecc = d.ecc := rfl
@[simp] theorem Dev.modPlaten_time (k : Nat) (f : PlatenSt → PlatenSt) : (d.modPlaten k f).time = d.time := rfl
@[simp] theorem Dev.modPlaten_timeFrac (k : Nat) (f : PlatenSt → PlatenSt) : (d.modPlaten k f).timeFrac = d.timeFrac := rfl
@[simp] theorem Dev.modPlaten_dies (k : Nat) (f : PlatenSt → PlatenSt) : (d.modPlaten k f).dies = d.dies := rfl
@[simp] theorem Dev.modPlaten_temps (k : Nat) (f : PlatenSt → PlatenSt) : (d.modPlaten k f).temps = d.temps := rfl
@[simp] theorem Dev.modPlaten_warned (k : Nat) (f : PlatenSt → PlatenSt) : (d.modPlaten k f).warned = d.warned := rfl
@[simp] theorem Dev.modPlaten_hots (k : Nat) (f : PlatenSt → PlatenSt) : (d.modPlaten k f).hots = d.hots := rfl
@[simp] theorem Dev.modPlaten_parts (k : Nat) (f : PlatenSt → PlatenSt) : (d.modPlaten k f).parts = d.parts := rfl
@[simp] theorem Dev.modPlaten_cores (k : Nat) (f : PlatenSt → PlatenSt) : (d.modPlaten k f).cores = d.cores := rfl
@[simp] theorem Dev.modPlaten_flights (k : Nat) (f : PlatenSt → PlatenSt) : (d.modPlaten k f).flights = d.flights := rfl
@[simp] theorem Dev.modPlaten_dmas (k : Nat) (f : PlatenSt → PlatenSt) : (d.modPlaten k f).dmas = d.dmas := rfl
@[simp] theorem Dev.modPlaten_bgFailed (k : Nat) (f : PlatenSt → PlatenSt) : (d.modPlaten k f).bgFailed = d.bgFailed := rfl
@[simp] theorem Dev.modPlaten_ddrLaid (k : Nat) (f : PlatenSt → PlatenSt) : (d.modPlaten k f).ddrLaid = d.ddrLaid := rfl
@[simp] theorem Dev.modPlaten_vc2 (k : Nat) (f : PlatenSt → PlatenSt) : (d.modPlaten k f).vc2 = d.vc2 := rfl
@[simp] theorem Dev.modPlaten_vc0 (k : Nat) (f : PlatenSt → PlatenSt) : (d.modPlaten k f).vc0 = d.vc0 := rfl
@[simp] theorem Dev.modPlaten_links (k : Nat) (f : PlatenSt → PlatenSt) : (d.modPlaten k f).links = d.links := rfl
@[simp] theorem Dev.modPlaten_cows (k : Nat) (f : PlatenSt → PlatenSt) : (d.modPlaten k f).cows = d.cows := rfl
@[simp] theorem Dev.modPlaten_colls (k : Nat) (f : PlatenSt → PlatenSt) : (d.modPlaten k f).colls = d.colls := rfl
@[simp] theorem Dev.modPlaten_servo (k : Nat) (f : PlatenSt → PlatenSt) : (d.modPlaten k f).servo = d.servo := rfl
@[simp] theorem Dev.modPlaten_out (k : Nat) (f : PlatenSt → PlatenSt) : (d.modPlaten k f).out = d.out := rfl
@[simp] theorem Dev.modPlaten_sessions (k : Nat) (f : PlatenSt → PlatenSt) : (d.modPlaten k f).sessions = d.sessions := rfl
@[simp] theorem Dev.modPlaten_opens (k : Nat) (f : PlatenSt → PlatenSt) : (d.modPlaten k f).opens = d.opens := rfl
@[simp] theorem Dev.modPlaten_shakes (k : Nat) (f : PlatenSt → PlatenSt) : (d.modPlaten k f).shakes = d.shakes := rfl
@[simp] theorem Dev.modPlaten_signQ (k : Nat) (f : PlatenSt → PlatenSt) : (d.modPlaten k f).signQ = d.signQ := rfl
@[simp] theorem Dev.modPlaten_oldSa (k : Nat) (f : PlatenSt → PlatenSt) : (d.modPlaten k f).oldSa = d.oldSa := rfl
@[simp] theorem Dev.modPlaten_proofs (k : Nat) (f : PlatenSt → PlatenSt) : (d.modPlaten k f).proofs = d.proofs := rfl
@[simp] theorem Dev.modPlaten_gens (k : Nat) (f : PlatenSt → PlatenSt) : (d.modPlaten k f).gens = d.gens := rfl
@[simp] theorem Dev.modPlaten_genNext (k : Nat) (f : PlatenSt → PlatenSt) : (d.modPlaten k f).genNext = d.genNext := rfl
@[simp] theorem Dev.modPlaten_parents (k : Nat) (f : PlatenSt → PlatenSt) : (d.modPlaten k f).parents = d.parents := rfl
@[simp] theorem Dev.modPlaten_sinceDrain (k : Nat) (f : PlatenSt → PlatenSt) : (d.modPlaten k f).sinceDrain = d.sinceDrain := rfl
@[simp] theorem Dev.modPlaten_drainQ (k : Nat) (f : PlatenSt → PlatenSt) : (d.modPlaten k f).drainQ = d.drainQ := rfl
@[simp] theorem Dev.modPlaten_drain (k : Nat) (f : PlatenSt → PlatenSt) : (d.modPlaten k f).drain = d.drain := rfl
@[simp] theorem Dev.modPlaten_saveHold (k : Nat) (f : PlatenSt → PlatenSt) : (d.modPlaten k f).saveHold = d.saveHold := rfl
@[simp] theorem Dev.modPlaten_meters (k : Nat) (f : PlatenSt → PlatenSt) : (d.modPlaten k f).meters = d.meters := rfl
@[simp] theorem Dev.modPlaten_freeCount (k : Nat) (f : PlatenSt → PlatenSt) : (d.modPlaten k f).freeCount = d.freeCount := rfl
@[simp] theorem Dev.core_modPlaten (k : Nat) (f : PlatenSt → PlatenSt) (i : Nat) : (d.modPlaten k f).core i = d.core i := rfl
@[simp] theorem Dev.die_modPlaten (k : Nat) (f : PlatenSt → PlatenSt) (i : Nat) : (d.modPlaten k f).die i = d.die i := rfl
@[simp] theorem Dev.part_modPlaten (k : Nat) (f : PlatenSt → PlatenSt) (i : Nat) : (d.modPlaten k f).part i = d.part i := rfl
@[simp] theorem Dev.dma_modPlaten (k : Nat) (f : PlatenSt → PlatenSt) (i : Nat) : (d.modPlaten k f).dma i = d.dma i := rfl
@[simp] theorem Dev.hdr_modPlaten (k : Nat) (f : PlatenSt → PlatenSt) (i : Nat) : (d.modPlaten k f).hdr i = d.hdr i := rfl
@[simp] theorem Dev.link_modPlaten (k : Nat) (f : PlatenSt → PlatenSt) (i : Nat) : (d.modPlaten k f).link i = d.link i := rfl
@[simp] theorem Dev.coll_modPlaten (k : Nat) (f : PlatenSt → PlatenSt) (i : Nat) : (d.modPlaten k f).coll i = d.coll i := rfl
@[simp] theorem Dev.cow_modPlaten (k : Nat) (f : PlatenSt → PlatenSt) (i : Nat) : (d.modPlaten k f).cow i = d.cow i := rfl
@[simp] theorem Dev.sess_modPlaten (k : Nat) (f : PlatenSt → PlatenSt) (i : Nat) : (d.modPlaten k f).sess i = d.sess i := rfl
@[simp] theorem Dev.proof_modPlaten (k : Nat) (f : PlatenSt → PlatenSt) (i : Nat) : (d.modPlaten k f).proof i = d.proof i := rfl
@[simp] theorem Dev.gen_modPlaten (k : Nat) (f : PlatenSt → PlatenSt) (i : Nat) : (d.modPlaten k f).gen i = d.gen i := rfl
@[simp] theorem Dev.reg_modPlaten (k : Nat) (f : PlatenSt → PlatenSt) (g o : Nat) : (d.modPlaten k f).reg g o = d.reg g o := rfl

/-! ### modHdr -/

@[simp] theorem Dev.modHdr_regs (k : Nat) (f : Hdr → Hdr) : (d.modHdr k f).regs = d.regs := rfl
@[simp] theorem Dev.modHdr_elog (k : Nat) (f : Hdr → Hdr) : (d.modHdr k f).elog = d.elog := rfl
@[simp] theorem Dev.modHdr_elogWr (k : Nat) (f : Hdr → Hdr) : (d.modHdr k f).elogWr = d.elogWr := rfl
@[simp] theorem Dev.modHdr_mem (k : Nat) (f : Hdr → Hdr) : (d.modHdr k f).mem = d.mem := rfl
@[simp] theorem Dev.modHdr_ecc (k : Nat) (f : Hdr → Hdr) : (d.modHdr k f).ecc = d.ecc := rfl
@[simp] theorem Dev.modHdr_time (k : Nat) (f : Hdr → Hdr) : (d.modHdr k f).time = d.time := rfl
@[simp] theorem Dev.modHdr_timeFrac (k : Nat) (f : Hdr → Hdr) : (d.modHdr k f).timeFrac = d.timeFrac := rfl
@[simp] theorem Dev.modHdr_dies (k : Nat) (f : Hdr → Hdr) : (d.modHdr k f).dies = d.dies := rfl
@[simp] theorem Dev.modHdr_temps (k : Nat) (f : Hdr → Hdr) : (d.modHdr k f).temps = d.temps := rfl
@[simp] theorem Dev.modHdr_warned (k : Nat) (f : Hdr → Hdr) : (d.modHdr k f).warned = d.warned := rfl
@[simp] theorem Dev.modHdr_hots (k : Nat) (f : Hdr → Hdr) : (d.modHdr k f).hots = d.hots := rfl
@[simp] theorem Dev.modHdr_parts (k : Nat) (f : Hdr → Hdr) : (d.modHdr k f).parts = d.parts := rfl
@[simp] theorem Dev.modHdr_cores (k : Nat) (f : Hdr → Hdr) : (d.modHdr k f).cores = d.cores := rfl
@[simp] theorem Dev.modHdr_flights (k : Nat) (f : Hdr → Hdr) : (d.modHdr k f).flights = d.flights := rfl
@[simp] theorem Dev.modHdr_dmas (k : Nat) (f : Hdr → Hdr) : (d.modHdr k f).dmas = d.dmas := rfl
@[simp] theorem Dev.modHdr_bgFailed (k : Nat) (f : Hdr → Hdr) : (d.modHdr k f).bgFailed = d.bgFailed := rfl
@[simp] theorem Dev.modHdr_ddrLaid (k : Nat) (f : Hdr → Hdr) : (d.modHdr k f).ddrLaid = d.ddrLaid := rfl
@[simp] theorem Dev.modHdr_platens (k : Nat) (f : Hdr → Hdr) : (d.modHdr k f).platens = d.platens := rfl
@[simp] theorem Dev.modHdr_vc2 (k : Nat) (f : Hdr → Hdr) : (d.modHdr k f).vc2 = d.vc2 := rfl
@[simp] theorem Dev.modHdr_vc0 (k : Nat) (f : Hdr → Hdr) : (d.modHdr k f).vc0 = d.vc0 := rfl
@[simp] theorem Dev.modHdr_links (k : Nat) (f : Hdr → Hdr) : (d.modHdr k f).links = d.links := rfl
@[simp] theorem Dev.modHdr_cows (k : Nat) (f : Hdr → Hdr) : (d.modHdr k f).cows = d.cows := rfl
@[simp] theorem Dev.modHdr_colls (k : Nat) (f : Hdr → Hdr) : (d.modHdr k f).colls = d.colls := rfl
@[simp] theorem Dev.modHdr_servo (k : Nat) (f : Hdr → Hdr) : (d.modHdr k f).servo = d.servo := rfl
@[simp] theorem Dev.modHdr_out (k : Nat) (f : Hdr → Hdr) : (d.modHdr k f).out = d.out := rfl
@[simp] theorem Dev.modHdr_sessions (k : Nat) (f : Hdr → Hdr) : (d.modHdr k f).sessions = d.sessions := rfl
@[simp] theorem Dev.modHdr_opens (k : Nat) (f : Hdr → Hdr) : (d.modHdr k f).opens = d.opens := rfl
@[simp] theorem Dev.modHdr_shakes (k : Nat) (f : Hdr → Hdr) : (d.modHdr k f).shakes = d.shakes := rfl
@[simp] theorem Dev.modHdr_signQ (k : Nat) (f : Hdr → Hdr) : (d.modHdr k f).signQ = d.signQ := rfl
@[simp] theorem Dev.modHdr_oldSa (k : Nat) (f : Hdr → Hdr) : (d.modHdr k f).oldSa = d.oldSa := rfl
@[simp] theorem Dev.modHdr_proofs (k : Nat) (f : Hdr → Hdr) : (d.modHdr k f).proofs = d.proofs := rfl
@[simp] theorem Dev.modHdr_gens (k : Nat) (f : Hdr → Hdr) : (d.modHdr k f).gens = d.gens := rfl
@[simp] theorem Dev.modHdr_genNext (k : Nat) (f : Hdr → Hdr) : (d.modHdr k f).genNext = d.genNext := rfl
@[simp] theorem Dev.modHdr_parents (k : Nat) (f : Hdr → Hdr) : (d.modHdr k f).parents = d.parents := rfl
@[simp] theorem Dev.modHdr_sinceDrain (k : Nat) (f : Hdr → Hdr) : (d.modHdr k f).sinceDrain = d.sinceDrain := rfl
@[simp] theorem Dev.modHdr_drainQ (k : Nat) (f : Hdr → Hdr) : (d.modHdr k f).drainQ = d.drainQ := rfl
@[simp] theorem Dev.modHdr_drain (k : Nat) (f : Hdr → Hdr) : (d.modHdr k f).drain = d.drain := rfl
@[simp] theorem Dev.modHdr_saveHold (k : Nat) (f : Hdr → Hdr) : (d.modHdr k f).saveHold = d.saveHold := rfl
@[simp] theorem Dev.modHdr_meters (k : Nat) (f : Hdr → Hdr) : (d.modHdr k f).meters = d.meters := rfl
@[simp] theorem Dev.modHdr_freeCount (k : Nat) (f : Hdr → Hdr) : (d.modHdr k f).freeCount = d.freeCount := rfl
@[simp] theorem Dev.core_modHdr (k : Nat) (f : Hdr → Hdr) (i : Nat) : (d.modHdr k f).core i = d.core i := rfl
@[simp] theorem Dev.die_modHdr (k : Nat) (f : Hdr → Hdr) (i : Nat) : (d.modHdr k f).die i = d.die i := rfl
@[simp] theorem Dev.part_modHdr (k : Nat) (f : Hdr → Hdr) (i : Nat) : (d.modHdr k f).part i = d.part i := rfl
@[simp] theorem Dev.dma_modHdr (k : Nat) (f : Hdr → Hdr) (i : Nat) : (d.modHdr k f).dma i = d.dma i := rfl
@[simp] theorem Dev.platen_modHdr (k : Nat) (f : Hdr → Hdr) (i : Nat) : (d.modHdr k f).platen i = d.platen i := rfl
@[simp] theorem Dev.link_modHdr (k : Nat) (f : Hdr → Hdr) (i : Nat) : (d.modHdr k f).link i = d.link i := rfl
@[simp] theorem Dev.coll_modHdr (k : Nat) (f : Hdr → Hdr) (i : Nat) : (d.modHdr k f).coll i = d.coll i := rfl
@[simp] theorem Dev.cow_modHdr (k : Nat) (f : Hdr → Hdr) (i : Nat) : (d.modHdr k f).cow i = d.cow i := rfl
@[simp] theorem Dev.sess_modHdr (k : Nat) (f : Hdr → Hdr) (i : Nat) : (d.modHdr k f).sess i = d.sess i := rfl
@[simp] theorem Dev.proof_modHdr (k : Nat) (f : Hdr → Hdr) (i : Nat) : (d.modHdr k f).proof i = d.proof i := rfl
@[simp] theorem Dev.gen_modHdr (k : Nat) (f : Hdr → Hdr) (i : Nat) : (d.modHdr k f).gen i = d.gen i := rfl
@[simp] theorem Dev.reg_modHdr (k : Nat) (f : Hdr → Hdr) (g o : Nat) : (d.modHdr k f).reg g o = d.reg g o := rfl

/-! ### modLink -/

@[simp] theorem Dev.modLink_regs (k : Nat) (f : LinkSt → LinkSt) : (d.modLink k f).regs = d.regs := rfl
@[simp] theorem Dev.modLink_hdrs (k : Nat) (f : LinkSt → LinkSt) : (d.modLink k f).hdrs = d.hdrs := rfl
@[simp] theorem Dev.modLink_elog (k : Nat) (f : LinkSt → LinkSt) : (d.modLink k f).elog = d.elog := rfl
@[simp] theorem Dev.modLink_elogWr (k : Nat) (f : LinkSt → LinkSt) : (d.modLink k f).elogWr = d.elogWr := rfl
@[simp] theorem Dev.modLink_mem (k : Nat) (f : LinkSt → LinkSt) : (d.modLink k f).mem = d.mem := rfl
@[simp] theorem Dev.modLink_ecc (k : Nat) (f : LinkSt → LinkSt) : (d.modLink k f).ecc = d.ecc := rfl
@[simp] theorem Dev.modLink_time (k : Nat) (f : LinkSt → LinkSt) : (d.modLink k f).time = d.time := rfl
@[simp] theorem Dev.modLink_timeFrac (k : Nat) (f : LinkSt → LinkSt) : (d.modLink k f).timeFrac = d.timeFrac := rfl
@[simp] theorem Dev.modLink_dies (k : Nat) (f : LinkSt → LinkSt) : (d.modLink k f).dies = d.dies := rfl
@[simp] theorem Dev.modLink_temps (k : Nat) (f : LinkSt → LinkSt) : (d.modLink k f).temps = d.temps := rfl
@[simp] theorem Dev.modLink_warned (k : Nat) (f : LinkSt → LinkSt) : (d.modLink k f).warned = d.warned := rfl
@[simp] theorem Dev.modLink_hots (k : Nat) (f : LinkSt → LinkSt) : (d.modLink k f).hots = d.hots := rfl
@[simp] theorem Dev.modLink_parts (k : Nat) (f : LinkSt → LinkSt) : (d.modLink k f).parts = d.parts := rfl
@[simp] theorem Dev.modLink_cores (k : Nat) (f : LinkSt → LinkSt) : (d.modLink k f).cores = d.cores := rfl
@[simp] theorem Dev.modLink_flights (k : Nat) (f : LinkSt → LinkSt) : (d.modLink k f).flights = d.flights := rfl
@[simp] theorem Dev.modLink_dmas (k : Nat) (f : LinkSt → LinkSt) : (d.modLink k f).dmas = d.dmas := rfl
@[simp] theorem Dev.modLink_bgFailed (k : Nat) (f : LinkSt → LinkSt) : (d.modLink k f).bgFailed = d.bgFailed := rfl
@[simp] theorem Dev.modLink_ddrLaid (k : Nat) (f : LinkSt → LinkSt) : (d.modLink k f).ddrLaid = d.ddrLaid := rfl
@[simp] theorem Dev.modLink_platens (k : Nat) (f : LinkSt → LinkSt) : (d.modLink k f).platens = d.platens := rfl
@[simp] theorem Dev.modLink_vc2 (k : Nat) (f : LinkSt → LinkSt) : (d.modLink k f).vc2 = d.vc2 := rfl
@[simp] theorem Dev.modLink_vc0 (k : Nat) (f : LinkSt → LinkSt) : (d.modLink k f).vc0 = d.vc0 := rfl
@[simp] theorem Dev.modLink_cows (k : Nat) (f : LinkSt → LinkSt) : (d.modLink k f).cows = d.cows := rfl
@[simp] theorem Dev.modLink_colls (k : Nat) (f : LinkSt → LinkSt) : (d.modLink k f).colls = d.colls := rfl
@[simp] theorem Dev.modLink_servo (k : Nat) (f : LinkSt → LinkSt) : (d.modLink k f).servo = d.servo := rfl
@[simp] theorem Dev.modLink_out (k : Nat) (f : LinkSt → LinkSt) : (d.modLink k f).out = d.out := rfl
@[simp] theorem Dev.modLink_sessions (k : Nat) (f : LinkSt → LinkSt) : (d.modLink k f).sessions = d.sessions := rfl
@[simp] theorem Dev.modLink_opens (k : Nat) (f : LinkSt → LinkSt) : (d.modLink k f).opens = d.opens := rfl
@[simp] theorem Dev.modLink_shakes (k : Nat) (f : LinkSt → LinkSt) : (d.modLink k f).shakes = d.shakes := rfl
@[simp] theorem Dev.modLink_signQ (k : Nat) (f : LinkSt → LinkSt) : (d.modLink k f).signQ = d.signQ := rfl
@[simp] theorem Dev.modLink_oldSa (k : Nat) (f : LinkSt → LinkSt) : (d.modLink k f).oldSa = d.oldSa := rfl
@[simp] theorem Dev.modLink_proofs (k : Nat) (f : LinkSt → LinkSt) : (d.modLink k f).proofs = d.proofs := rfl
@[simp] theorem Dev.modLink_gens (k : Nat) (f : LinkSt → LinkSt) : (d.modLink k f).gens = d.gens := rfl
@[simp] theorem Dev.modLink_genNext (k : Nat) (f : LinkSt → LinkSt) : (d.modLink k f).genNext = d.genNext := rfl
@[simp] theorem Dev.modLink_parents (k : Nat) (f : LinkSt → LinkSt) : (d.modLink k f).parents = d.parents := rfl
@[simp] theorem Dev.modLink_sinceDrain (k : Nat) (f : LinkSt → LinkSt) : (d.modLink k f).sinceDrain = d.sinceDrain := rfl
@[simp] theorem Dev.modLink_drainQ (k : Nat) (f : LinkSt → LinkSt) : (d.modLink k f).drainQ = d.drainQ := rfl
@[simp] theorem Dev.modLink_drain (k : Nat) (f : LinkSt → LinkSt) : (d.modLink k f).drain = d.drain := rfl
@[simp] theorem Dev.modLink_saveHold (k : Nat) (f : LinkSt → LinkSt) : (d.modLink k f).saveHold = d.saveHold := rfl
@[simp] theorem Dev.modLink_meters (k : Nat) (f : LinkSt → LinkSt) : (d.modLink k f).meters = d.meters := rfl
@[simp] theorem Dev.modLink_freeCount (k : Nat) (f : LinkSt → LinkSt) : (d.modLink k f).freeCount = d.freeCount := rfl
@[simp] theorem Dev.core_modLink (k : Nat) (f : LinkSt → LinkSt) (i : Nat) : (d.modLink k f).core i = d.core i := rfl
@[simp] theorem Dev.die_modLink (k : Nat) (f : LinkSt → LinkSt) (i : Nat) : (d.modLink k f).die i = d.die i := rfl
@[simp] theorem Dev.part_modLink (k : Nat) (f : LinkSt → LinkSt) (i : Nat) : (d.modLink k f).part i = d.part i := rfl
@[simp] theorem Dev.dma_modLink (k : Nat) (f : LinkSt → LinkSt) (i : Nat) : (d.modLink k f).dma i = d.dma i := rfl
@[simp] theorem Dev.platen_modLink (k : Nat) (f : LinkSt → LinkSt) (i : Nat) : (d.modLink k f).platen i = d.platen i := rfl
@[simp] theorem Dev.hdr_modLink (k : Nat) (f : LinkSt → LinkSt) (i : Nat) : (d.modLink k f).hdr i = d.hdr i := rfl
@[simp] theorem Dev.coll_modLink (k : Nat) (f : LinkSt → LinkSt) (i : Nat) : (d.modLink k f).coll i = d.coll i := rfl
@[simp] theorem Dev.cow_modLink (k : Nat) (f : LinkSt → LinkSt) (i : Nat) : (d.modLink k f).cow i = d.cow i := rfl
@[simp] theorem Dev.sess_modLink (k : Nat) (f : LinkSt → LinkSt) (i : Nat) : (d.modLink k f).sess i = d.sess i := rfl
@[simp] theorem Dev.proof_modLink (k : Nat) (f : LinkSt → LinkSt) (i : Nat) : (d.modLink k f).proof i = d.proof i := rfl
@[simp] theorem Dev.gen_modLink (k : Nat) (f : LinkSt → LinkSt) (i : Nat) : (d.modLink k f).gen i = d.gen i := rfl
@[simp] theorem Dev.reg_modLink (k : Nat) (f : LinkSt → LinkSt) (g o : Nat) : (d.modLink k f).reg g o = d.reg g o := rfl

/-! ### modColl -/

@[simp] theorem Dev.modColl_regs (k : Nat) (f : CollSt → CollSt) : (d.modColl k f).regs = d.regs := rfl
@[simp] theorem Dev.modColl_hdrs (k : Nat) (f : CollSt → CollSt) : (d.modColl k f).hdrs = d.hdrs := rfl
@[simp] theorem Dev.modColl_elog (k : Nat) (f : CollSt → CollSt) : (d.modColl k f).elog = d.elog := rfl
@[simp] theorem Dev.modColl_elogWr (k : Nat) (f : CollSt → CollSt) : (d.modColl k f).elogWr = d.elogWr := rfl
@[simp] theorem Dev.modColl_mem (k : Nat) (f : CollSt → CollSt) : (d.modColl k f).mem = d.mem := rfl
@[simp] theorem Dev.modColl_ecc (k : Nat) (f : CollSt → CollSt) : (d.modColl k f).ecc = d.ecc := rfl
@[simp] theorem Dev.modColl_time (k : Nat) (f : CollSt → CollSt) : (d.modColl k f).time = d.time := rfl
@[simp] theorem Dev.modColl_timeFrac (k : Nat) (f : CollSt → CollSt) : (d.modColl k f).timeFrac = d.timeFrac := rfl
@[simp] theorem Dev.modColl_dies (k : Nat) (f : CollSt → CollSt) : (d.modColl k f).dies = d.dies := rfl
@[simp] theorem Dev.modColl_temps (k : Nat) (f : CollSt → CollSt) : (d.modColl k f).temps = d.temps := rfl
@[simp] theorem Dev.modColl_warned (k : Nat) (f : CollSt → CollSt) : (d.modColl k f).warned = d.warned := rfl
@[simp] theorem Dev.modColl_hots (k : Nat) (f : CollSt → CollSt) : (d.modColl k f).hots = d.hots := rfl
@[simp] theorem Dev.modColl_parts (k : Nat) (f : CollSt → CollSt) : (d.modColl k f).parts = d.parts := rfl
@[simp] theorem Dev.modColl_cores (k : Nat) (f : CollSt → CollSt) : (d.modColl k f).cores = d.cores := rfl
@[simp] theorem Dev.modColl_flights (k : Nat) (f : CollSt → CollSt) : (d.modColl k f).flights = d.flights := rfl
@[simp] theorem Dev.modColl_dmas (k : Nat) (f : CollSt → CollSt) : (d.modColl k f).dmas = d.dmas := rfl
@[simp] theorem Dev.modColl_bgFailed (k : Nat) (f : CollSt → CollSt) : (d.modColl k f).bgFailed = d.bgFailed := rfl
@[simp] theorem Dev.modColl_ddrLaid (k : Nat) (f : CollSt → CollSt) : (d.modColl k f).ddrLaid = d.ddrLaid := rfl
@[simp] theorem Dev.modColl_platens (k : Nat) (f : CollSt → CollSt) : (d.modColl k f).platens = d.platens := rfl
@[simp] theorem Dev.modColl_vc2 (k : Nat) (f : CollSt → CollSt) : (d.modColl k f).vc2 = d.vc2 := rfl
@[simp] theorem Dev.modColl_vc0 (k : Nat) (f : CollSt → CollSt) : (d.modColl k f).vc0 = d.vc0 := rfl
@[simp] theorem Dev.modColl_links (k : Nat) (f : CollSt → CollSt) : (d.modColl k f).links = d.links := rfl
@[simp] theorem Dev.modColl_cows (k : Nat) (f : CollSt → CollSt) : (d.modColl k f).cows = d.cows := rfl
@[simp] theorem Dev.modColl_servo (k : Nat) (f : CollSt → CollSt) : (d.modColl k f).servo = d.servo := rfl
@[simp] theorem Dev.modColl_out (k : Nat) (f : CollSt → CollSt) : (d.modColl k f).out = d.out := rfl
@[simp] theorem Dev.modColl_sessions (k : Nat) (f : CollSt → CollSt) : (d.modColl k f).sessions = d.sessions := rfl
@[simp] theorem Dev.modColl_opens (k : Nat) (f : CollSt → CollSt) : (d.modColl k f).opens = d.opens := rfl
@[simp] theorem Dev.modColl_shakes (k : Nat) (f : CollSt → CollSt) : (d.modColl k f).shakes = d.shakes := rfl
@[simp] theorem Dev.modColl_signQ (k : Nat) (f : CollSt → CollSt) : (d.modColl k f).signQ = d.signQ := rfl
@[simp] theorem Dev.modColl_oldSa (k : Nat) (f : CollSt → CollSt) : (d.modColl k f).oldSa = d.oldSa := rfl
@[simp] theorem Dev.modColl_proofs (k : Nat) (f : CollSt → CollSt) : (d.modColl k f).proofs = d.proofs := rfl
@[simp] theorem Dev.modColl_gens (k : Nat) (f : CollSt → CollSt) : (d.modColl k f).gens = d.gens := rfl
@[simp] theorem Dev.modColl_genNext (k : Nat) (f : CollSt → CollSt) : (d.modColl k f).genNext = d.genNext := rfl
@[simp] theorem Dev.modColl_parents (k : Nat) (f : CollSt → CollSt) : (d.modColl k f).parents = d.parents := rfl
@[simp] theorem Dev.modColl_sinceDrain (k : Nat) (f : CollSt → CollSt) : (d.modColl k f).sinceDrain = d.sinceDrain := rfl
@[simp] theorem Dev.modColl_drainQ (k : Nat) (f : CollSt → CollSt) : (d.modColl k f).drainQ = d.drainQ := rfl
@[simp] theorem Dev.modColl_drain (k : Nat) (f : CollSt → CollSt) : (d.modColl k f).drain = d.drain := rfl
@[simp] theorem Dev.modColl_saveHold (k : Nat) (f : CollSt → CollSt) : (d.modColl k f).saveHold = d.saveHold := rfl
@[simp] theorem Dev.modColl_meters (k : Nat) (f : CollSt → CollSt) : (d.modColl k f).meters = d.meters := rfl
@[simp] theorem Dev.modColl_freeCount (k : Nat) (f : CollSt → CollSt) : (d.modColl k f).freeCount = d.freeCount := rfl
@[simp] theorem Dev.core_modColl (k : Nat) (f : CollSt → CollSt) (i : Nat) : (d.modColl k f).core i = d.core i := rfl
@[simp] theorem Dev.die_modColl (k : Nat) (f : CollSt → CollSt) (i : Nat) : (d.modColl k f).die i = d.die i := rfl
@[simp] theorem Dev.part_modColl (k : Nat) (f : CollSt → CollSt) (i : Nat) : (d.modColl k f).part i = d.part i := rfl
@[simp] theorem Dev.dma_modColl (k : Nat) (f : CollSt → CollSt) (i : Nat) : (d.modColl k f).dma i = d.dma i := rfl
@[simp] theorem Dev.platen_modColl (k : Nat) (f : CollSt → CollSt) (i : Nat) : (d.modColl k f).platen i = d.platen i := rfl
@[simp] theorem Dev.hdr_modColl (k : Nat) (f : CollSt → CollSt) (i : Nat) : (d.modColl k f).hdr i = d.hdr i := rfl
@[simp] theorem Dev.link_modColl (k : Nat) (f : CollSt → CollSt) (i : Nat) : (d.modColl k f).link i = d.link i := rfl
@[simp] theorem Dev.cow_modColl (k : Nat) (f : CollSt → CollSt) (i : Nat) : (d.modColl k f).cow i = d.cow i := rfl
@[simp] theorem Dev.sess_modColl (k : Nat) (f : CollSt → CollSt) (i : Nat) : (d.modColl k f).sess i = d.sess i := rfl
@[simp] theorem Dev.proof_modColl (k : Nat) (f : CollSt → CollSt) (i : Nat) : (d.modColl k f).proof i = d.proof i := rfl
@[simp] theorem Dev.gen_modColl (k : Nat) (f : CollSt → CollSt) (i : Nat) : (d.modColl k f).gen i = d.gen i := rfl
@[simp] theorem Dev.reg_modColl (k : Nat) (f : CollSt → CollSt) (g o : Nat) : (d.modColl k f).reg g o = d.reg g o := rfl

/-! ### modCow -/

@[simp] theorem Dev.modCow_regs (k : Nat) (f : CowSt → CowSt) : (d.modCow k f).regs = d.regs := rfl
@[simp] theorem Dev.modCow_hdrs (k : Nat) (f : CowSt → CowSt) : (d.modCow k f).hdrs = d.hdrs := rfl
@[simp] theorem Dev.modCow_elog (k : Nat) (f : CowSt → CowSt) : (d.modCow k f).elog = d.elog := rfl
@[simp] theorem Dev.modCow_elogWr (k : Nat) (f : CowSt → CowSt) : (d.modCow k f).elogWr = d.elogWr := rfl
@[simp] theorem Dev.modCow_mem (k : Nat) (f : CowSt → CowSt) : (d.modCow k f).mem = d.mem := rfl
@[simp] theorem Dev.modCow_ecc (k : Nat) (f : CowSt → CowSt) : (d.modCow k f).ecc = d.ecc := rfl
@[simp] theorem Dev.modCow_time (k : Nat) (f : CowSt → CowSt) : (d.modCow k f).time = d.time := rfl
@[simp] theorem Dev.modCow_timeFrac (k : Nat) (f : CowSt → CowSt) : (d.modCow k f).timeFrac = d.timeFrac := rfl
@[simp] theorem Dev.modCow_dies (k : Nat) (f : CowSt → CowSt) : (d.modCow k f).dies = d.dies := rfl
@[simp] theorem Dev.modCow_temps (k : Nat) (f : CowSt → CowSt) : (d.modCow k f).temps = d.temps := rfl
@[simp] theorem Dev.modCow_warned (k : Nat) (f : CowSt → CowSt) : (d.modCow k f).warned = d.warned := rfl
@[simp] theorem Dev.modCow_hots (k : Nat) (f : CowSt → CowSt) : (d.modCow k f).hots = d.hots := rfl
@[simp] theorem Dev.modCow_parts (k : Nat) (f : CowSt → CowSt) : (d.modCow k f).parts = d.parts := rfl
@[simp] theorem Dev.modCow_cores (k : Nat) (f : CowSt → CowSt) : (d.modCow k f).cores = d.cores := rfl
@[simp] theorem Dev.modCow_flights (k : Nat) (f : CowSt → CowSt) : (d.modCow k f).flights = d.flights := rfl
@[simp] theorem Dev.modCow_dmas (k : Nat) (f : CowSt → CowSt) : (d.modCow k f).dmas = d.dmas := rfl
@[simp] theorem Dev.modCow_bgFailed (k : Nat) (f : CowSt → CowSt) : (d.modCow k f).bgFailed = d.bgFailed := rfl
@[simp] theorem Dev.modCow_ddrLaid (k : Nat) (f : CowSt → CowSt) : (d.modCow k f).ddrLaid = d.ddrLaid := rfl
@[simp] theorem Dev.modCow_platens (k : Nat) (f : CowSt → CowSt) : (d.modCow k f).platens = d.platens := rfl
@[simp] theorem Dev.modCow_vc2 (k : Nat) (f : CowSt → CowSt) : (d.modCow k f).vc2 = d.vc2 := rfl
@[simp] theorem Dev.modCow_vc0 (k : Nat) (f : CowSt → CowSt) : (d.modCow k f).vc0 = d.vc0 := rfl
@[simp] theorem Dev.modCow_links (k : Nat) (f : CowSt → CowSt) : (d.modCow k f).links = d.links := rfl
@[simp] theorem Dev.modCow_colls (k : Nat) (f : CowSt → CowSt) : (d.modCow k f).colls = d.colls := rfl
@[simp] theorem Dev.modCow_servo (k : Nat) (f : CowSt → CowSt) : (d.modCow k f).servo = d.servo := rfl
@[simp] theorem Dev.modCow_out (k : Nat) (f : CowSt → CowSt) : (d.modCow k f).out = d.out := rfl
@[simp] theorem Dev.modCow_sessions (k : Nat) (f : CowSt → CowSt) : (d.modCow k f).sessions = d.sessions := rfl
@[simp] theorem Dev.modCow_opens (k : Nat) (f : CowSt → CowSt) : (d.modCow k f).opens = d.opens := rfl
@[simp] theorem Dev.modCow_shakes (k : Nat) (f : CowSt → CowSt) : (d.modCow k f).shakes = d.shakes := rfl
@[simp] theorem Dev.modCow_signQ (k : Nat) (f : CowSt → CowSt) : (d.modCow k f).signQ = d.signQ := rfl
@[simp] theorem Dev.modCow_oldSa (k : Nat) (f : CowSt → CowSt) : (d.modCow k f).oldSa = d.oldSa := rfl
@[simp] theorem Dev.modCow_proofs (k : Nat) (f : CowSt → CowSt) : (d.modCow k f).proofs = d.proofs := rfl
@[simp] theorem Dev.modCow_gens (k : Nat) (f : CowSt → CowSt) : (d.modCow k f).gens = d.gens := rfl
@[simp] theorem Dev.modCow_genNext (k : Nat) (f : CowSt → CowSt) : (d.modCow k f).genNext = d.genNext := rfl
@[simp] theorem Dev.modCow_parents (k : Nat) (f : CowSt → CowSt) : (d.modCow k f).parents = d.parents := rfl
@[simp] theorem Dev.modCow_sinceDrain (k : Nat) (f : CowSt → CowSt) : (d.modCow k f).sinceDrain = d.sinceDrain := rfl
@[simp] theorem Dev.modCow_drainQ (k : Nat) (f : CowSt → CowSt) : (d.modCow k f).drainQ = d.drainQ := rfl
@[simp] theorem Dev.modCow_drain (k : Nat) (f : CowSt → CowSt) : (d.modCow k f).drain = d.drain := rfl
@[simp] theorem Dev.modCow_saveHold (k : Nat) (f : CowSt → CowSt) : (d.modCow k f).saveHold = d.saveHold := rfl
@[simp] theorem Dev.modCow_meters (k : Nat) (f : CowSt → CowSt) : (d.modCow k f).meters = d.meters := rfl
@[simp] theorem Dev.modCow_freeCount (k : Nat) (f : CowSt → CowSt) : (d.modCow k f).freeCount = d.freeCount := rfl
@[simp] theorem Dev.core_modCow (k : Nat) (f : CowSt → CowSt) (i : Nat) : (d.modCow k f).core i = d.core i := rfl
@[simp] theorem Dev.die_modCow (k : Nat) (f : CowSt → CowSt) (i : Nat) : (d.modCow k f).die i = d.die i := rfl
@[simp] theorem Dev.part_modCow (k : Nat) (f : CowSt → CowSt) (i : Nat) : (d.modCow k f).part i = d.part i := rfl
@[simp] theorem Dev.dma_modCow (k : Nat) (f : CowSt → CowSt) (i : Nat) : (d.modCow k f).dma i = d.dma i := rfl
@[simp] theorem Dev.platen_modCow (k : Nat) (f : CowSt → CowSt) (i : Nat) : (d.modCow k f).platen i = d.platen i := rfl
@[simp] theorem Dev.hdr_modCow (k : Nat) (f : CowSt → CowSt) (i : Nat) : (d.modCow k f).hdr i = d.hdr i := rfl
@[simp] theorem Dev.link_modCow (k : Nat) (f : CowSt → CowSt) (i : Nat) : (d.modCow k f).link i = d.link i := rfl
@[simp] theorem Dev.coll_modCow (k : Nat) (f : CowSt → CowSt) (i : Nat) : (d.modCow k f).coll i = d.coll i := rfl
@[simp] theorem Dev.sess_modCow (k : Nat) (f : CowSt → CowSt) (i : Nat) : (d.modCow k f).sess i = d.sess i := rfl
@[simp] theorem Dev.proof_modCow (k : Nat) (f : CowSt → CowSt) (i : Nat) : (d.modCow k f).proof i = d.proof i := rfl
@[simp] theorem Dev.gen_modCow (k : Nat) (f : CowSt → CowSt) (i : Nat) : (d.modCow k f).gen i = d.gen i := rfl
@[simp] theorem Dev.reg_modCow (k : Nat) (f : CowSt → CowSt) (g o : Nat) : (d.modCow k f).reg g o = d.reg g o := rfl

/-! ### modSess -/

@[simp] theorem Dev.modSess_regs (k : Nat) (f : Session → Session) : (d.modSess k f).regs = d.regs := rfl
@[simp] theorem Dev.modSess_hdrs (k : Nat) (f : Session → Session) : (d.modSess k f).hdrs = d.hdrs := rfl
@[simp] theorem Dev.modSess_elog (k : Nat) (f : Session → Session) : (d.modSess k f).elog = d.elog := rfl
@[simp] theorem Dev.modSess_elogWr (k : Nat) (f : Session → Session) : (d.modSess k f).elogWr = d.elogWr := rfl
@[simp] theorem Dev.modSess_mem (k : Nat) (f : Session → Session) : (d.modSess k f).mem = d.mem := rfl
@[simp] theorem Dev.modSess_ecc (k : Nat) (f : Session → Session) : (d.modSess k f).ecc = d.ecc := rfl
@[simp] theorem Dev.modSess_time (k : Nat) (f : Session → Session) : (d.modSess k f).time = d.time := rfl
@[simp] theorem Dev.modSess_timeFrac (k : Nat) (f : Session → Session) : (d.modSess k f).timeFrac = d.timeFrac := rfl
@[simp] theorem Dev.modSess_dies (k : Nat) (f : Session → Session) : (d.modSess k f).dies = d.dies := rfl
@[simp] theorem Dev.modSess_temps (k : Nat) (f : Session → Session) : (d.modSess k f).temps = d.temps := rfl
@[simp] theorem Dev.modSess_warned (k : Nat) (f : Session → Session) : (d.modSess k f).warned = d.warned := rfl
@[simp] theorem Dev.modSess_hots (k : Nat) (f : Session → Session) : (d.modSess k f).hots = d.hots := rfl
@[simp] theorem Dev.modSess_parts (k : Nat) (f : Session → Session) : (d.modSess k f).parts = d.parts := rfl
@[simp] theorem Dev.modSess_cores (k : Nat) (f : Session → Session) : (d.modSess k f).cores = d.cores := rfl
@[simp] theorem Dev.modSess_flights (k : Nat) (f : Session → Session) : (d.modSess k f).flights = d.flights := rfl
@[simp] theorem Dev.modSess_dmas (k : Nat) (f : Session → Session) : (d.modSess k f).dmas = d.dmas := rfl
@[simp] theorem Dev.modSess_bgFailed (k : Nat) (f : Session → Session) : (d.modSess k f).bgFailed = d.bgFailed := rfl
@[simp] theorem Dev.modSess_ddrLaid (k : Nat) (f : Session → Session) : (d.modSess k f).ddrLaid = d.ddrLaid := rfl
@[simp] theorem Dev.modSess_platens (k : Nat) (f : Session → Session) : (d.modSess k f).platens = d.platens := rfl
@[simp] theorem Dev.modSess_vc2 (k : Nat) (f : Session → Session) : (d.modSess k f).vc2 = d.vc2 := rfl
@[simp] theorem Dev.modSess_vc0 (k : Nat) (f : Session → Session) : (d.modSess k f).vc0 = d.vc0 := rfl
@[simp] theorem Dev.modSess_links (k : Nat) (f : Session → Session) : (d.modSess k f).links = d.links := rfl
@[simp] theorem Dev.modSess_cows (k : Nat) (f : Session → Session) : (d.modSess k f).cows = d.cows := rfl
@[simp] theorem Dev.modSess_colls (k : Nat) (f : Session → Session) : (d.modSess k f).colls = d.colls := rfl
@[simp] theorem Dev.modSess_servo (k : Nat) (f : Session → Session) : (d.modSess k f).servo = d.servo := rfl
@[simp] theorem Dev.modSess_out (k : Nat) (f : Session → Session) : (d.modSess k f).out = d.out := rfl
@[simp] theorem Dev.modSess_opens (k : Nat) (f : Session → Session) : (d.modSess k f).opens = d.opens := rfl
@[simp] theorem Dev.modSess_shakes (k : Nat) (f : Session → Session) : (d.modSess k f).shakes = d.shakes := rfl
@[simp] theorem Dev.modSess_signQ (k : Nat) (f : Session → Session) : (d.modSess k f).signQ = d.signQ := rfl
@[simp] theorem Dev.modSess_oldSa (k : Nat) (f : Session → Session) : (d.modSess k f).oldSa = d.oldSa := rfl
@[simp] theorem Dev.modSess_proofs (k : Nat) (f : Session → Session) : (d.modSess k f).proofs = d.proofs := rfl
@[simp] theorem Dev.modSess_gens (k : Nat) (f : Session → Session) : (d.modSess k f).gens = d.gens := rfl
@[simp] theorem Dev.modSess_genNext (k : Nat) (f : Session → Session) : (d.modSess k f).genNext = d.genNext := rfl
@[simp] theorem Dev.modSess_parents (k : Nat) (f : Session → Session) : (d.modSess k f).parents = d.parents := rfl
@[simp] theorem Dev.modSess_sinceDrain (k : Nat) (f : Session → Session) : (d.modSess k f).sinceDrain = d.sinceDrain := rfl
@[simp] theorem Dev.modSess_drainQ (k : Nat) (f : Session → Session) : (d.modSess k f).drainQ = d.drainQ := rfl
@[simp] theorem Dev.modSess_drain (k : Nat) (f : Session → Session) : (d.modSess k f).drain = d.drain := rfl
@[simp] theorem Dev.modSess_saveHold (k : Nat) (f : Session → Session) : (d.modSess k f).saveHold = d.saveHold := rfl
@[simp] theorem Dev.modSess_meters (k : Nat) (f : Session → Session) : (d.modSess k f).meters = d.meters := rfl
@[simp] theorem Dev.modSess_freeCount (k : Nat) (f : Session → Session) : (d.modSess k f).freeCount = d.freeCount := rfl
@[simp] theorem Dev.core_modSess (k : Nat) (f : Session → Session) (i : Nat) : (d.modSess k f).core i = d.core i := rfl
@[simp] theorem Dev.die_modSess (k : Nat) (f : Session → Session) (i : Nat) : (d.modSess k f).die i = d.die i := rfl
@[simp] theorem Dev.part_modSess (k : Nat) (f : Session → Session) (i : Nat) : (d.modSess k f).part i = d.part i := rfl
@[simp] theorem Dev.dma_modSess (k : Nat) (f : Session → Session) (i : Nat) : (d.modSess k f).dma i = d.dma i := rfl
@[simp] theorem Dev.platen_modSess (k : Nat) (f : Session → Session) (i : Nat) : (d.modSess k f).platen i = d.platen i := rfl
@[simp] theorem Dev.hdr_modSess (k : Nat) (f : Session → Session) (i : Nat) : (d.modSess k f).hdr i = d.hdr i := rfl
@[simp] theorem Dev.link_modSess (k : Nat) (f : Session → Session) (i : Nat) : (d.modSess k f).link i = d.link i := rfl
@[simp] theorem Dev.coll_modSess (k : Nat) (f : Session → Session) (i : Nat) : (d.modSess k f).coll i = d.coll i := rfl
@[simp] theorem Dev.cow_modSess (k : Nat) (f : Session → Session) (i : Nat) : (d.modSess k f).cow i = d.cow i := rfl
@[simp] theorem Dev.proof_modSess (k : Nat) (f : Session → Session) (i : Nat) : (d.modSess k f).proof i = d.proof i := rfl
@[simp] theorem Dev.gen_modSess (k : Nat) (f : Session → Session) (i : Nat) : (d.modSess k f).gen i = d.gen i := rfl
@[simp] theorem Dev.reg_modSess (k : Nat) (f : Session → Session) (g o : Nat) : (d.modSess k f).reg g o = d.reg g o := rfl

/-! ### modProof -/

@[simp] theorem Dev.modProof_regs (k : Nat) (f : ProofSt → ProofSt) : (d.modProof k f).regs = d.regs := rfl
@[simp] theorem Dev.modProof_hdrs (k : Nat) (f : ProofSt → ProofSt) : (d.modProof k f).hdrs = d.hdrs := rfl
@[simp] theorem Dev.modProof_elog (k : Nat) (f : ProofSt → ProofSt) : (d.modProof k f).elog = d.elog := rfl
@[simp] theorem Dev.modProof_elogWr (k : Nat) (f : ProofSt → ProofSt) : (d.modProof k f).elogWr = d.elogWr := rfl
@[simp] theorem Dev.modProof_mem (k : Nat) (f : ProofSt → ProofSt) : (d.modProof k f).mem = d.mem := rfl
@[simp] theorem Dev.modProof_ecc (k : Nat) (f : ProofSt → ProofSt) : (d.modProof k f).ecc = d.ecc := rfl
@[simp] theorem Dev.modProof_time (k : Nat) (f : ProofSt → ProofSt) : (d.modProof k f).time = d.time := rfl
@[simp] theorem Dev.modProof_timeFrac (k : Nat) (f : ProofSt → ProofSt) : (d.modProof k f).timeFrac = d.timeFrac := rfl
@[simp] theorem Dev.modProof_dies (k : Nat) (f : ProofSt → ProofSt) : (d.modProof k f).dies = d.dies := rfl
@[simp] theorem Dev.modProof_temps (k : Nat) (f : ProofSt → ProofSt) : (d.modProof k f).temps = d.temps := rfl
@[simp] theorem Dev.modProof_warned (k : Nat) (f : ProofSt → ProofSt) : (d.modProof k f).warned = d.warned := rfl
@[simp] theorem Dev.modProof_hots (k : Nat) (f : ProofSt → ProofSt) : (d.modProof k f).hots = d.hots := rfl
@[simp] theorem Dev.modProof_parts (k : Nat) (f : ProofSt → ProofSt) : (d.modProof k f).parts = d.parts := rfl
@[simp] theorem Dev.modProof_cores (k : Nat) (f : ProofSt → ProofSt) : (d.modProof k f).cores = d.cores := rfl
@[simp] theorem Dev.modProof_flights (k : Nat) (f : ProofSt → ProofSt) : (d.modProof k f).flights = d.flights := rfl
@[simp] theorem Dev.modProof_dmas (k : Nat) (f : ProofSt → ProofSt) : (d.modProof k f).dmas = d.dmas := rfl
@[simp] theorem Dev.modProof_bgFailed (k : Nat) (f : ProofSt → ProofSt) : (d.modProof k f).bgFailed = d.bgFailed := rfl
@[simp] theorem Dev.modProof_ddrLaid (k : Nat) (f : ProofSt → ProofSt) : (d.modProof k f).ddrLaid = d.ddrLaid := rfl
@[simp] theorem Dev.modProof_platens (k : Nat) (f : ProofSt → ProofSt) : (d.modProof k f).platens = d.platens := rfl
@[simp] theorem Dev.modProof_vc2 (k : Nat) (f : ProofSt → ProofSt) : (d.modProof k f).vc2 = d.vc2 := rfl
@[simp] theorem Dev.modProof_vc0 (k : Nat) (f : ProofSt → ProofSt) : (d.modProof k f).vc0 = d.vc0 := rfl
@[simp] theorem Dev.modProof_links (k : Nat) (f : ProofSt → ProofSt) : (d.modProof k f).links = d.links := rfl
@[simp] theorem Dev.modProof_cows (k : Nat) (f : ProofSt → ProofSt) : (d.modProof k f).cows = d.cows := rfl
@[simp] theorem Dev.modProof_colls (k : Nat) (f : ProofSt → ProofSt) : (d.modProof k f).colls = d.colls := rfl
@[simp] theorem Dev.modProof_servo (k : Nat) (f : ProofSt → ProofSt) : (d.modProof k f).servo = d.servo := rfl
@[simp] theorem Dev.modProof_out (k : Nat) (f : ProofSt → ProofSt) : (d.modProof k f).out = d.out := rfl
@[simp] theorem Dev.modProof_sessions (k : Nat) (f : ProofSt → ProofSt) : (d.modProof k f).sessions = d.sessions := rfl
@[simp] theorem Dev.modProof_opens (k : Nat) (f : ProofSt → ProofSt) : (d.modProof k f).opens = d.opens := rfl
@[simp] theorem Dev.modProof_shakes (k : Nat) (f : ProofSt → ProofSt) : (d.modProof k f).shakes = d.shakes := rfl
@[simp] theorem Dev.modProof_signQ (k : Nat) (f : ProofSt → ProofSt) : (d.modProof k f).signQ = d.signQ := rfl
@[simp] theorem Dev.modProof_oldSa (k : Nat) (f : ProofSt → ProofSt) : (d.modProof k f).oldSa = d.oldSa := rfl
@[simp] theorem Dev.modProof_gens (k : Nat) (f : ProofSt → ProofSt) : (d.modProof k f).gens = d.gens := rfl
@[simp] theorem Dev.modProof_genNext (k : Nat) (f : ProofSt → ProofSt) : (d.modProof k f).genNext = d.genNext := rfl
@[simp] theorem Dev.modProof_parents (k : Nat) (f : ProofSt → ProofSt) : (d.modProof k f).parents = d.parents := rfl
@[simp] theorem Dev.modProof_sinceDrain (k : Nat) (f : ProofSt → ProofSt) : (d.modProof k f).sinceDrain = d.sinceDrain := rfl
@[simp] theorem Dev.modProof_drainQ (k : Nat) (f : ProofSt → ProofSt) : (d.modProof k f).drainQ = d.drainQ := rfl
@[simp] theorem Dev.modProof_drain (k : Nat) (f : ProofSt → ProofSt) : (d.modProof k f).drain = d.drain := rfl
@[simp] theorem Dev.modProof_saveHold (k : Nat) (f : ProofSt → ProofSt) : (d.modProof k f).saveHold = d.saveHold := rfl
@[simp] theorem Dev.modProof_meters (k : Nat) (f : ProofSt → ProofSt) : (d.modProof k f).meters = d.meters := rfl
@[simp] theorem Dev.modProof_freeCount (k : Nat) (f : ProofSt → ProofSt) : (d.modProof k f).freeCount = d.freeCount := rfl
@[simp] theorem Dev.core_modProof (k : Nat) (f : ProofSt → ProofSt) (i : Nat) : (d.modProof k f).core i = d.core i := rfl
@[simp] theorem Dev.die_modProof (k : Nat) (f : ProofSt → ProofSt) (i : Nat) : (d.modProof k f).die i = d.die i := rfl
@[simp] theorem Dev.part_modProof (k : Nat) (f : ProofSt → ProofSt) (i : Nat) : (d.modProof k f).part i = d.part i := rfl
@[simp] theorem Dev.dma_modProof (k : Nat) (f : ProofSt → ProofSt) (i : Nat) : (d.modProof k f).dma i = d.dma i := rfl
@[simp] theorem Dev.platen_modProof (k : Nat) (f : ProofSt → ProofSt) (i : Nat) : (d.modProof k f).platen i = d.platen i := rfl
@[simp] theorem Dev.hdr_modProof (k : Nat) (f : ProofSt → ProofSt) (i : Nat) : (d.modProof k f).hdr i = d.hdr i := rfl
@[simp] theorem Dev.link_modProof (k : Nat) (f : ProofSt → ProofSt) (i : Nat) : (d.modProof k f).link i = d.link i := rfl
@[simp] theorem Dev.coll_modProof (k : Nat) (f : ProofSt → ProofSt) (i : Nat) : (d.modProof k f).coll i = d.coll i := rfl
@[simp] theorem Dev.cow_modProof (k : Nat) (f : ProofSt → ProofSt) (i : Nat) : (d.modProof k f).cow i = d.cow i := rfl
@[simp] theorem Dev.sess_modProof (k : Nat) (f : ProofSt → ProofSt) (i : Nat) : (d.modProof k f).sess i = d.sess i := rfl
@[simp] theorem Dev.gen_modProof (k : Nat) (f : ProofSt → ProofSt) (i : Nat) : (d.modProof k f).gen i = d.gen i := rfl
@[simp] theorem Dev.reg_modProof (k : Nat) (f : ProofSt → ProofSt) (g o : Nat) : (d.modProof k f).reg g o = d.reg g o := rfl

/-! ### modGen -/

@[simp] theorem Dev.modGen_regs (k : Nat) (f : GenSt → GenSt) : (d.modGen k f).regs = d.regs := rfl
@[simp] theorem Dev.modGen_hdrs (k : Nat) (f : GenSt → GenSt) : (d.modGen k f).hdrs = d.hdrs := rfl
@[simp] theorem Dev.modGen_elog (k : Nat) (f : GenSt → GenSt) : (d.modGen k f).elog = d.elog := rfl
@[simp] theorem Dev.modGen_elogWr (k : Nat) (f : GenSt → GenSt) : (d.modGen k f).elogWr = d.elogWr := rfl
@[simp] theorem Dev.modGen_mem (k : Nat) (f : GenSt → GenSt) : (d.modGen k f).mem = d.mem := rfl
@[simp] theorem Dev.modGen_ecc (k : Nat) (f : GenSt → GenSt) : (d.modGen k f).ecc = d.ecc := rfl
@[simp] theorem Dev.modGen_time (k : Nat) (f : GenSt → GenSt) : (d.modGen k f).time = d.time := rfl
@[simp] theorem Dev.modGen_timeFrac (k : Nat) (f : GenSt → GenSt) : (d.modGen k f).timeFrac = d.timeFrac := rfl
@[simp] theorem Dev.modGen_dies (k : Nat) (f : GenSt → GenSt) : (d.modGen k f).dies = d.dies := rfl
@[simp] theorem Dev.modGen_temps (k : Nat) (f : GenSt → GenSt) : (d.modGen k f).temps = d.temps := rfl
@[simp] theorem Dev.modGen_warned (k : Nat) (f : GenSt → GenSt) : (d.modGen k f).warned = d.warned := rfl
@[simp] theorem Dev.modGen_hots (k : Nat) (f : GenSt → GenSt) : (d.modGen k f).hots = d.hots := rfl
@[simp] theorem Dev.modGen_parts (k : Nat) (f : GenSt → GenSt) : (d.modGen k f).parts = d.parts := rfl
@[simp] theorem Dev.modGen_cores (k : Nat) (f : GenSt → GenSt) : (d.modGen k f).cores = d.cores := rfl
@[simp] theorem Dev.modGen_flights (k : Nat) (f : GenSt → GenSt) : (d.modGen k f).flights = d.flights := rfl
@[simp] theorem Dev.modGen_dmas (k : Nat) (f : GenSt → GenSt) : (d.modGen k f).dmas = d.dmas := rfl
@[simp] theorem Dev.modGen_bgFailed (k : Nat) (f : GenSt → GenSt) : (d.modGen k f).bgFailed = d.bgFailed := rfl
@[simp] theorem Dev.modGen_ddrLaid (k : Nat) (f : GenSt → GenSt) : (d.modGen k f).ddrLaid = d.ddrLaid := rfl
@[simp] theorem Dev.modGen_platens (k : Nat) (f : GenSt → GenSt) : (d.modGen k f).platens = d.platens := rfl
@[simp] theorem Dev.modGen_vc2 (k : Nat) (f : GenSt → GenSt) : (d.modGen k f).vc2 = d.vc2 := rfl
@[simp] theorem Dev.modGen_vc0 (k : Nat) (f : GenSt → GenSt) : (d.modGen k f).vc0 = d.vc0 := rfl
@[simp] theorem Dev.modGen_links (k : Nat) (f : GenSt → GenSt) : (d.modGen k f).links = d.links := rfl
@[simp] theorem Dev.modGen_cows (k : Nat) (f : GenSt → GenSt) : (d.modGen k f).cows = d.cows := rfl
@[simp] theorem Dev.modGen_colls (k : Nat) (f : GenSt → GenSt) : (d.modGen k f).colls = d.colls := rfl
@[simp] theorem Dev.modGen_servo (k : Nat) (f : GenSt → GenSt) : (d.modGen k f).servo = d.servo := rfl
@[simp] theorem Dev.modGen_out (k : Nat) (f : GenSt → GenSt) : (d.modGen k f).out = d.out := rfl
@[simp] theorem Dev.modGen_sessions (k : Nat) (f : GenSt → GenSt) : (d.modGen k f).sessions = d.sessions := rfl
@[simp] theorem Dev.modGen_opens (k : Nat) (f : GenSt → GenSt) : (d.modGen k f).opens = d.opens := rfl
@[simp] theorem Dev.modGen_shakes (k : Nat) (f : GenSt → GenSt) : (d.modGen k f).shakes = d.shakes := rfl
@[simp] theorem Dev.modGen_signQ (k : Nat) (f : GenSt → GenSt) : (d.modGen k f).signQ = d.signQ := rfl
@[simp] theorem Dev.modGen_oldSa (k : Nat) (f : GenSt → GenSt) : (d.modGen k f).oldSa = d.oldSa := rfl
@[simp] theorem Dev.modGen_proofs (k : Nat) (f : GenSt → GenSt) : (d.modGen k f).proofs = d.proofs := rfl
@[simp] theorem Dev.modGen_genNext (k : Nat) (f : GenSt → GenSt) : (d.modGen k f).genNext = d.genNext := rfl
@[simp] theorem Dev.modGen_parents (k : Nat) (f : GenSt → GenSt) : (d.modGen k f).parents = d.parents := rfl
@[simp] theorem Dev.modGen_sinceDrain (k : Nat) (f : GenSt → GenSt) : (d.modGen k f).sinceDrain = d.sinceDrain := rfl
@[simp] theorem Dev.modGen_drainQ (k : Nat) (f : GenSt → GenSt) : (d.modGen k f).drainQ = d.drainQ := rfl
@[simp] theorem Dev.modGen_drain (k : Nat) (f : GenSt → GenSt) : (d.modGen k f).drain = d.drain := rfl
@[simp] theorem Dev.modGen_saveHold (k : Nat) (f : GenSt → GenSt) : (d.modGen k f).saveHold = d.saveHold := rfl
@[simp] theorem Dev.modGen_meters (k : Nat) (f : GenSt → GenSt) : (d.modGen k f).meters = d.meters := rfl
@[simp] theorem Dev.modGen_freeCount (k : Nat) (f : GenSt → GenSt) : (d.modGen k f).freeCount = d.freeCount := rfl
@[simp] theorem Dev.core_modGen (k : Nat) (f : GenSt → GenSt) (i : Nat) : (d.modGen k f).core i = d.core i := rfl
@[simp] theorem Dev.die_modGen (k : Nat) (f : GenSt → GenSt) (i : Nat) : (d.modGen k f).die i = d.die i := rfl
@[simp] theorem Dev.part_modGen (k : Nat) (f : GenSt → GenSt) (i : Nat) : (d.modGen k f).part i = d.part i := rfl
@[simp] theorem Dev.dma_modGen (k : Nat) (f : GenSt → GenSt) (i : Nat) : (d.modGen k f).dma i = d.dma i := rfl
@[simp] theorem Dev.platen_modGen (k : Nat) (f : GenSt → GenSt) (i : Nat) : (d.modGen k f).platen i = d.platen i := rfl
@[simp] theorem Dev.hdr_modGen (k : Nat) (f : GenSt → GenSt) (i : Nat) : (d.modGen k f).hdr i = d.hdr i := rfl
@[simp] theorem Dev.link_modGen (k : Nat) (f : GenSt → GenSt) (i : Nat) : (d.modGen k f).link i = d.link i := rfl
@[simp] theorem Dev.coll_modGen (k : Nat) (f : GenSt → GenSt) (i : Nat) : (d.modGen k f).coll i = d.coll i := rfl
@[simp] theorem Dev.cow_modGen (k : Nat) (f : GenSt → GenSt) (i : Nat) : (d.modGen k f).cow i = d.cow i := rfl
@[simp] theorem Dev.sess_modGen (k : Nat) (f : GenSt → GenSt) (i : Nat) : (d.modGen k f).sess i = d.sess i := rfl
@[simp] theorem Dev.proof_modGen (k : Nat) (f : GenSt → GenSt) (i : Nat) : (d.modGen k f).proof i = d.proof i := rfl
@[simp] theorem Dev.reg_modGen (k : Nat) (f : GenSt → GenSt) (g o : Nat) : (d.modGen k f).reg g o = d.reg g o := rfl

/-! ### setReg -/

@[simp] theorem Dev.setReg_hdrs (pg off w : Nat) : (d.setReg pg off w).hdrs = d.hdrs := rfl
@[simp] theorem Dev.setReg_elog (pg off w : Nat) : (d.setReg pg off w).elog = d.elog := rfl
@[simp] theorem Dev.setReg_elogWr (pg off w : Nat) : (d.setReg pg off w).elogWr = d.elogWr := rfl
@[simp] theorem Dev.setReg_mem (pg off w : Nat) : (d.setReg pg off w).mem = d.mem := rfl
@[simp] theorem Dev.setReg_ecc (pg off w : Nat) : (d.setReg pg off w).ecc = d.ecc := rfl
@[simp] theorem Dev.setReg_time (pg off w : Nat) : (d.setReg pg off w).time = d.time := rfl
@[simp] theorem Dev.setReg_timeFrac (pg off w : Nat) : (d.setReg pg off w).timeFrac = d.timeFrac := rfl
@[simp] theorem Dev.setReg_dies (pg off w : Nat) : (d.setReg pg off w).dies = d.dies := rfl
@[simp] theorem Dev.setReg_temps (pg off w : Nat) : (d.setReg pg off w).temps = d.temps := rfl
@[simp] theorem Dev.setReg_warned (pg off w : Nat) : (d.setReg pg off w).warned = d.warned := rfl
@[simp] theorem Dev.setReg_hots (pg off w : Nat) : (d.setReg pg off w).hots = d.hots := rfl
@[simp] theorem Dev.setReg_parts (pg off w : Nat) : (d.setReg pg off w).parts = d.parts := rfl
@[simp] theorem Dev.setReg_cores (pg off w : Nat) : (d.setReg pg off w).cores = d.cores := rfl
@[simp] theorem Dev.setReg_flights (pg off w : Nat) : (d.setReg pg off w).flights = d.flights := rfl
@[simp] theorem Dev.setReg_dmas (pg off w : Nat) : (d.setReg pg off w).dmas = d.dmas := rfl
@[simp] theorem Dev.setReg_bgFailed (pg off w : Nat) : (d.setReg pg off w).bgFailed = d.bgFailed := rfl
@[simp] theorem Dev.setReg_ddrLaid (pg off w : Nat) : (d.setReg pg off w).ddrLaid = d.ddrLaid := rfl
@[simp] theorem Dev.setReg_platens (pg off w : Nat) : (d.setReg pg off w).platens = d.platens := rfl
@[simp] theorem Dev.setReg_vc2 (pg off w : Nat) : (d.setReg pg off w).vc2 = d.vc2 := rfl
@[simp] theorem Dev.setReg_vc0 (pg off w : Nat) : (d.setReg pg off w).vc0 = d.vc0 := rfl
@[simp] theorem Dev.setReg_links (pg off w : Nat) : (d.setReg pg off w).links = d.links := rfl
@[simp] theorem Dev.setReg_cows (pg off w : Nat) : (d.setReg pg off w).cows = d.cows := rfl
@[simp] theorem Dev.setReg_colls (pg off w : Nat) : (d.setReg pg off w).colls = d.colls := rfl
@[simp] theorem Dev.setReg_servo (pg off w : Nat) : (d.setReg pg off w).servo = d.servo := rfl
@[simp] theorem Dev.setReg_out (pg off w : Nat) : (d.setReg pg off w).out = d.out := rfl
@[simp] theorem Dev.setReg_sessions (pg off w : Nat) : (d.setReg pg off w).sessions = d.sessions := rfl
@[simp] theorem Dev.setReg_opens (pg off w : Nat) : (d.setReg pg off w).opens = d.opens := rfl
@[simp] theorem Dev.setReg_shakes (pg off w : Nat) : (d.setReg pg off w).shakes = d.shakes := rfl
@[simp] theorem Dev.setReg_signQ (pg off w : Nat) : (d.setReg pg off w).signQ = d.signQ := rfl
@[simp] theorem Dev.setReg_oldSa (pg off w : Nat) : (d.setReg pg off w).oldSa = d.oldSa := rfl
@[simp] theorem Dev.setReg_proofs (pg off w : Nat) : (d.setReg pg off w).proofs = d.proofs := rfl
@[simp] theorem Dev.setReg_gens (pg off w : Nat) : (d.setReg pg off w).gens = d.gens := rfl
@[simp] theorem Dev.setReg_genNext (pg off w : Nat) : (d.setReg pg off w).genNext = d.genNext := rfl
@[simp] theorem Dev.setReg_parents (pg off w : Nat) : (d.setReg pg off w).parents = d.parents := rfl
@[simp] theorem Dev.setReg_sinceDrain (pg off w : Nat) : (d.setReg pg off w).sinceDrain = d.sinceDrain := rfl
@[simp] theorem Dev.setReg_drainQ (pg off w : Nat) : (d.setReg pg off w).drainQ = d.drainQ := rfl
@[simp] theorem Dev.setReg_drain (pg off w : Nat) : (d.setReg pg off w).drain = d.drain := rfl
@[simp] theorem Dev.setReg_saveHold (pg off w : Nat) : (d.setReg pg off w).saveHold = d.saveHold := rfl
@[simp] theorem Dev.setReg_meters (pg off w : Nat) : (d.setReg pg off w).meters = d.meters := rfl
@[simp] theorem Dev.setReg_freeCount (pg off w : Nat) : (d.setReg pg off w).freeCount = d.freeCount := rfl
@[simp] theorem Dev.core_setReg (pg off w : Nat) (i : Nat) : (d.setReg pg off w).core i = d.core i := rfl
@[simp] theorem Dev.die_setReg (pg off w : Nat) (i : Nat) : (d.setReg pg off w).die i = d.die i := rfl
@[simp] theorem Dev.part_setReg (pg off w : Nat) (i : Nat) : (d.setReg pg off w).part i = d.part i := rfl
@[simp] theorem Dev.dma_setReg (pg off w : Nat) (i : Nat) : (d.setReg pg off w).dma i = d.dma i := rfl
@[simp] theorem Dev.platen_setReg (pg off w : Nat) (i : Nat) : (d.setReg pg off w).platen i = d.platen i := rfl
@[simp] theorem Dev.hdr_setReg (pg off w : Nat) (i : Nat) : (d.setReg pg off w).hdr i = d.hdr i := rfl
@[simp] theorem Dev.link_setReg (pg off w : Nat) (i : Nat) : (d.setReg pg off w).link i = d.link i := rfl
@[simp] theorem Dev.coll_setReg (pg off w : Nat) (i : Nat) : (d.setReg pg off w).coll i = d.coll i := rfl
@[simp] theorem Dev.cow_setReg (pg off w : Nat) (i : Nat) : (d.setReg pg off w).cow i = d.cow i := rfl
@[simp] theorem Dev.sess_setReg (pg off w : Nat) (i : Nat) : (d.setReg pg off w).sess i = d.sess i := rfl
@[simp] theorem Dev.proof_setReg (pg off w : Nat) (i : Nat) : (d.setReg pg off w).proof i = d.proof i := rfl
@[simp] theorem Dev.gen_setReg (pg off w : Nat) (i : Nat) : (d.setReg pg off w).gen i = d.gen i := rfl

/-! ### send -/

@[simp] theorem Dev.send_regs (q : Port) (bs : List Byte) : (d.send q bs).regs = d.regs := rfl
@[simp] theorem Dev.send_hdrs (q : Port) (bs : List Byte) : (d.send q bs).hdrs = d.hdrs := rfl
@[simp] theorem Dev.send_elog (q : Port) (bs : List Byte) : (d.send q bs).elog = d.elog := rfl
@[simp] theorem Dev.send_elogWr (q : Port) (bs : List Byte) : (d.send q bs).elogWr = d.elogWr := rfl
@[simp] theorem Dev.send_mem (q : Port) (bs : List Byte) : (d.send q bs).mem = d.mem := rfl
@[simp] theorem Dev.send_ecc (q : Port) (bs : List Byte) : (d.send q bs).ecc = d.ecc := rfl
@[simp] theorem Dev.send_time (q : Port) (bs : List Byte) : (d.send q bs).time = d.time := rfl
@[simp] theorem Dev.send_timeFrac (q : Port) (bs : List Byte) : (d.send q bs).timeFrac = d.timeFrac := rfl
@[simp] theorem Dev.send_dies (q : Port) (bs : List Byte) : (d.send q bs).dies = d.dies := rfl
@[simp] theorem Dev.send_temps (q : Port) (bs : List Byte) : (d.send q bs).temps = d.temps := rfl
@[simp] theorem Dev.send_warned (q : Port) (bs : List Byte) : (d.send q bs).warned = d.warned := rfl
@[simp] theorem Dev.send_hots (q : Port) (bs : List Byte) : (d.send q bs).hots = d.hots := rfl
@[simp] theorem Dev.send_parts (q : Port) (bs : List Byte) : (d.send q bs).parts = d.parts := rfl
@[simp] theorem Dev.send_cores (q : Port) (bs : List Byte) : (d.send q bs).cores = d.cores := rfl
@[simp] theorem Dev.send_flights (q : Port) (bs : List Byte) : (d.send q bs).flights = d.flights := rfl
@[simp] theorem Dev.send_dmas (q : Port) (bs : List Byte) : (d.send q bs).dmas = d.dmas := rfl
@[simp] theorem Dev.send_bgFailed (q : Port) (bs : List Byte) : (d.send q bs).bgFailed = d.bgFailed := rfl
@[simp] theorem Dev.send_ddrLaid (q : Port) (bs : List Byte) : (d.send q bs).ddrLaid = d.ddrLaid := rfl
@[simp] theorem Dev.send_platens (q : Port) (bs : List Byte) : (d.send q bs).platens = d.platens := rfl
@[simp] theorem Dev.send_vc2 (q : Port) (bs : List Byte) : (d.send q bs).vc2 = d.vc2 := rfl
@[simp] theorem Dev.send_vc0 (q : Port) (bs : List Byte) : (d.send q bs).vc0 = d.vc0 := rfl
@[simp] theorem Dev.send_links (q : Port) (bs : List Byte) : (d.send q bs).links = d.links := rfl
@[simp] theorem Dev.send_cows (q : Port) (bs : List Byte) : (d.send q bs).cows = d.cows := rfl
@[simp] theorem Dev.send_colls (q : Port) (bs : List Byte) : (d.send q bs).colls = d.colls := rfl
@[simp] theorem Dev.send_servo (q : Port) (bs : List Byte) : (d.send q bs).servo = d.servo := rfl
@[simp] theorem Dev.send_sessions (q : Port) (bs : List Byte) : (d.send q bs).sessions = d.sessions := rfl
@[simp] theorem Dev.send_opens (q : Port) (bs : List Byte) : (d.send q bs).opens = d.opens := rfl
@[simp] theorem Dev.send_shakes (q : Port) (bs : List Byte) : (d.send q bs).shakes = d.shakes := rfl
@[simp] theorem Dev.send_signQ (q : Port) (bs : List Byte) : (d.send q bs).signQ = d.signQ := rfl
@[simp] theorem Dev.send_oldSa (q : Port) (bs : List Byte) : (d.send q bs).oldSa = d.oldSa := rfl
@[simp] theorem Dev.send_proofs (q : Port) (bs : List Byte) : (d.send q bs).proofs = d.proofs := rfl
@[simp] theorem Dev.send_gens (q : Port) (bs : List Byte) : (d.send q bs).gens = d.gens := rfl
@[simp] theorem Dev.send_genNext (q : Port) (bs : List Byte) : (d.send q bs).genNext = d.genNext := rfl
@[simp] theorem Dev.send_parents (q : Port) (bs : List Byte) : (d.send q bs).parents = d.parents := rfl
@[simp] theorem Dev.send_sinceDrain (q : Port) (bs : List Byte) : (d.send q bs).sinceDrain = d.sinceDrain := rfl
@[simp] theorem Dev.send_drainQ (q : Port) (bs : List Byte) : (d.send q bs).drainQ = d.drainQ := rfl
@[simp] theorem Dev.send_drain (q : Port) (bs : List Byte) : (d.send q bs).drain = d.drain := rfl
@[simp] theorem Dev.send_saveHold (q : Port) (bs : List Byte) : (d.send q bs).saveHold = d.saveHold := rfl
@[simp] theorem Dev.send_meters (q : Port) (bs : List Byte) : (d.send q bs).meters = d.meters := rfl
@[simp] theorem Dev.send_freeCount (q : Port) (bs : List Byte) : (d.send q bs).freeCount = d.freeCount := rfl
@[simp] theorem Dev.core_send (q : Port) (bs : List Byte) (i : Nat) : (d.send q bs).core i = d.core i := rfl
@[simp] theorem Dev.die_send (q : Port) (bs : List Byte) (i : Nat) : (d.send q bs).die i = d.die i := rfl
@[simp] theorem Dev.part_send (q : Port) (bs : List Byte) (i : Nat) : (d.send q bs).part i = d.part i := rfl
@[simp] theorem Dev.dma_send (q : Port) (bs : List Byte) (i : Nat) : (d.send q bs).dma i = d.dma i := rfl
@[simp] theorem Dev.platen_send (q : Port) (bs : List Byte) (i : Nat) : (d.send q bs).platen i = d.platen i := rfl
@[simp] theorem Dev.hdr_send (q : Port) (bs : List Byte) (i : Nat) : (d.send q bs).hdr i = d.hdr i := rfl
@[simp] theorem Dev.link_send (q : Port) (bs : List Byte) (i : Nat) : (d.send q bs).link i = d.link i := rfl
@[simp] theorem Dev.coll_send (q : Port) (bs : List Byte) (i : Nat) : (d.send q bs).coll i = d.coll i := rfl
@[simp] theorem Dev.cow_send (q : Port) (bs : List Byte) (i : Nat) : (d.send q bs).cow i = d.cow i := rfl
@[simp] theorem Dev.sess_send (q : Port) (bs : List Byte) (i : Nat) : (d.send q bs).sess i = d.sess i := rfl
@[simp] theorem Dev.proof_send (q : Port) (bs : List Byte) (i : Nat) : (d.send q bs).proof i = d.proof i := rfl
@[simp] theorem Dev.gen_send (q : Port) (bs : List Byte) (i : Nat) : (d.send q bs).gen i = d.gen i := rfl
@[simp] theorem Dev.reg_send (q : Port) (bs : List Byte) (g o : Nat) : (d.send q bs).reg g o = d.reg g o := rfl

/-! ### advanceTo -/

@[simp] theorem Dev.advanceTo_regs (t : Nat) : (d.advanceTo t).regs = d.regs := rfl
@[simp] theorem Dev.advanceTo_hdrs (t : Nat) : (d.advanceTo t).hdrs = d.hdrs := rfl
@[simp] theorem Dev.advanceTo_elog (t : Nat) : (d.advanceTo t).elog = d.elog := rfl
@[simp] theorem Dev.advanceTo_elogWr (t : Nat) : (d.advanceTo t).elogWr = d.elogWr := rfl
@[simp] theorem Dev.advanceTo_mem (t : Nat) : (d.advanceTo t).mem = d.mem := rfl
@[simp] theorem Dev.advanceTo_ecc (t : Nat) : (d.advanceTo t).ecc = d.ecc := rfl
@[simp] theorem Dev.advanceTo_timeFrac (t : Nat) : (d.advanceTo t).timeFrac = d.timeFrac := rfl
@[simp] theorem Dev.advanceTo_dies (t : Nat) : (d.advanceTo t).dies = d.dies := rfl
@[simp] theorem Dev.advanceTo_temps (t : Nat) : (d.advanceTo t).temps = d.temps := rfl
@[simp] theorem Dev.advanceTo_warned (t : Nat) : (d.advanceTo t).warned = d.warned := rfl
@[simp] theorem Dev.advanceTo_hots (t : Nat) : (d.advanceTo t).hots = d.hots := rfl
@[simp] theorem Dev.advanceTo_parts (t : Nat) : (d.advanceTo t).parts = d.parts := rfl
@[simp] theorem Dev.advanceTo_cores (t : Nat) : (d.advanceTo t).cores = d.cores := rfl
@[simp] theorem Dev.advanceTo_flights (t : Nat) : (d.advanceTo t).flights = d.flights := rfl
@[simp] theorem Dev.advanceTo_dmas (t : Nat) : (d.advanceTo t).dmas = d.dmas := rfl
@[simp] theorem Dev.advanceTo_bgFailed (t : Nat) : (d.advanceTo t).bgFailed = d.bgFailed := rfl
@[simp] theorem Dev.advanceTo_ddrLaid (t : Nat) : (d.advanceTo t).ddrLaid = d.ddrLaid := rfl
@[simp] theorem Dev.advanceTo_platens (t : Nat) : (d.advanceTo t).platens = d.platens := rfl
@[simp] theorem Dev.advanceTo_vc2 (t : Nat) : (d.advanceTo t).vc2 = d.vc2 := rfl
@[simp] theorem Dev.advanceTo_vc0 (t : Nat) : (d.advanceTo t).vc0 = d.vc0 := rfl
@[simp] theorem Dev.advanceTo_links (t : Nat) : (d.advanceTo t).links = d.links := rfl
@[simp] theorem Dev.advanceTo_cows (t : Nat) : (d.advanceTo t).cows = d.cows := rfl
@[simp] theorem Dev.advanceTo_colls (t : Nat) : (d.advanceTo t).colls = d.colls := rfl
@[simp] theorem Dev.advanceTo_servo (t : Nat) : (d.advanceTo t).servo = d.servo := rfl
@[simp] theorem Dev.advanceTo_out (t : Nat) : (d.advanceTo t).out = d.out := rfl
@[simp] theorem Dev.advanceTo_sessions (t : Nat) : (d.advanceTo t).sessions = d.sessions := rfl
@[simp] theorem Dev.advanceTo_opens (t : Nat) : (d.advanceTo t).opens = d.opens := rfl
@[simp] theorem Dev.advanceTo_shakes (t : Nat) : (d.advanceTo t).shakes = d.shakes := rfl
@[simp] theorem Dev.advanceTo_signQ (t : Nat) : (d.advanceTo t).signQ = d.signQ := rfl
@[simp] theorem Dev.advanceTo_oldSa (t : Nat) : (d.advanceTo t).oldSa = d.oldSa := rfl
@[simp] theorem Dev.advanceTo_proofs (t : Nat) : (d.advanceTo t).proofs = d.proofs := rfl
@[simp] theorem Dev.advanceTo_gens (t : Nat) : (d.advanceTo t).gens = d.gens := rfl
@[simp] theorem Dev.advanceTo_genNext (t : Nat) : (d.advanceTo t).genNext = d.genNext := rfl
@[simp] theorem Dev.advanceTo_parents (t : Nat) : (d.advanceTo t).parents = d.parents := rfl
@[simp] theorem Dev.advanceTo_sinceDrain (t : Nat) : (d.advanceTo t).sinceDrain = d.sinceDrain := rfl
@[simp] theorem Dev.advanceTo_drainQ (t : Nat) : (d.advanceTo t).drainQ = d.drainQ := rfl
@[simp] theorem Dev.advanceTo_drain (t : Nat) : (d.advanceTo t).drain = d.drain := rfl
@[simp] theorem Dev.advanceTo_saveHold (t : Nat) : (d.advanceTo t).saveHold = d.saveHold := rfl
@[simp] theorem Dev.advanceTo_meters (t : Nat) : (d.advanceTo t).meters = d.meters := rfl
@[simp] theorem Dev.advanceTo_freeCount (t : Nat) : (d.advanceTo t).freeCount = d.freeCount := rfl
@[simp] theorem Dev.core_advanceTo (t : Nat) (i : Nat) : (d.advanceTo t).core i = d.core i := rfl
@[simp] theorem Dev.die_advanceTo (t : Nat) (i : Nat) : (d.advanceTo t).die i = d.die i := rfl
@[simp] theorem Dev.part_advanceTo (t : Nat) (i : Nat) : (d.advanceTo t).part i = d.part i := rfl
@[simp] theorem Dev.dma_advanceTo (t : Nat) (i : Nat) : (d.advanceTo t).dma i = d.dma i := rfl
@[simp] theorem Dev.platen_advanceTo (t : Nat) (i : Nat) : (d.advanceTo t).platen i = d.platen i := rfl
@[simp] theorem Dev.hdr_advanceTo (t : Nat) (i : Nat) : (d.advanceTo t).hdr i = d.hdr i := rfl
@[simp] theorem Dev.link_advanceTo (t : Nat) (i : Nat) : (d.advanceTo t).link i = d.link i := rfl
@[simp] theorem Dev.coll_advanceTo (t : Nat) (i : Nat) : (d.advanceTo t).coll i = d.coll i := rfl
@[simp] theorem Dev.cow_advanceTo (t : Nat) (i : Nat) : (d.advanceTo t).cow i = d.cow i := rfl
@[simp] theorem Dev.sess_advanceTo (t : Nat) (i : Nat) : (d.advanceTo t).sess i = d.sess i := rfl
@[simp] theorem Dev.proof_advanceTo (t : Nat) (i : Nat) : (d.advanceTo t).proof i = d.proof i := rfl
@[simp] theorem Dev.gen_advanceTo (t : Nat) (i : Nat) : (d.advanceTo t).gen i = d.gen i := rfl
@[simp] theorem Dev.reg_advanceTo (t : Nat) (g o : Nat) : (d.advanceTo t).reg g o = d.reg g o := rfl

/-! ### Reading back -/

@[simp] theorem Dev.core_setCore_self (k : Nat) (x : CoreSt) : (d.setCore k x).core k = x := tget_tset_self
theorem Dev.core_setCore_ne (k : Nat) (x : CoreSt) {i : Nat} (h : i ≠ k) : (d.setCore k x).core i = d.core i := tget_tset_ne h
@[simp] theorem Dev.core_modCore_self (k : Nat) (f : CoreSt → CoreSt) : (d.modCore k f).core k = f (d.core k) := tget_tset_self
theorem Dev.core_modCore_ne (k : Nat) (f : CoreSt → CoreSt) {i : Nat} (h : i ≠ k) : (d.modCore k f).core i = d.core i := tget_tset_ne h
@[simp] theorem Dev.die_modDie_self (k : Nat) (f : DieSt → DieSt) : (d.modDie k f).die k = f (d.die k) := tget_tset_self
theorem Dev.die_modDie_ne (k : Nat) (f : DieSt → DieSt) {i : Nat} (h : i ≠ k) : (d.modDie k f).die i = d.die i := tget_tset_ne h
@[simp] theorem Dev.part_modPart_self (k : Nat) (f : PartSt → PartSt) : (d.modPart k f).part k = f (d.part k) := tget_tset_self
theorem Dev.part_modPart_ne (k : Nat) (f : PartSt → PartSt) {i : Nat} (h : i ≠ k) : (d.modPart k f).part i = d.part i := tget_tset_ne h
@[simp] theorem Dev.dma_modDma_self (k : Nat) (f : DmaSt → DmaSt) : (d.modDma k f).dma k = f (d.dma k) := tget_tset_self
theorem Dev.dma_modDma_ne (k : Nat) (f : DmaSt → DmaSt) {i : Nat} (h : i ≠ k) : (d.modDma k f).dma i = d.dma i := tget_tset_ne h
@[simp] theorem Dev.platen_modPlaten_self (k : Nat) (f : PlatenSt → PlatenSt) : (d.modPlaten k f).platen k = f (d.platen k) := tget_tset_self
theorem Dev.platen_modPlaten_ne (k : Nat) (f : PlatenSt → PlatenSt) {i : Nat} (h : i ≠ k) : (d.modPlaten k f).platen i = d.platen i := tget_tset_ne h
@[simp] theorem Dev.hdr_modHdr_self (k : Nat) (f : Hdr → Hdr) : (d.modHdr k f).hdr k = f (d.hdr k) := tget_tset_self
theorem Dev.hdr_modHdr_ne (k : Nat) (f : Hdr → Hdr) {i : Nat} (h : i ≠ k) : (d.modHdr k f).hdr i = d.hdr i := tget_tset_ne h
@[simp] theorem Dev.link_modLink_self (k : Nat) (f : LinkSt → LinkSt) : (d.modLink k f).link k = f (d.link k) := tget_tset_self
theorem Dev.link_modLink_ne (k : Nat) (f : LinkSt → LinkSt) {i : Nat} (h : i ≠ k) : (d.modLink k f).link i = d.link i := tget_tset_ne h
@[simp] theorem Dev.coll_modColl_self (k : Nat) (f : CollSt → CollSt) : (d.modColl k f).coll k = f (d.coll k) := tget_tset_self
theorem Dev.coll_modColl_ne (k : Nat) (f : CollSt → CollSt) {i : Nat} (h : i ≠ k) : (d.modColl k f).coll i = d.coll i := tget_tset_ne h
@[simp] theorem Dev.cow_modCow_self (k : Nat) (f : CowSt → CowSt) : (d.modCow k f).cow k = f (d.cow k) := tget_tset_self
theorem Dev.cow_modCow_ne (k : Nat) (f : CowSt → CowSt) {i : Nat} (h : i ≠ k) : (d.modCow k f).cow i = d.cow i := tget_tset_ne h
@[simp] theorem Dev.sess_modSess_self (k : Nat) (f : Session → Session) : (d.modSess k f).sess k = f (d.sess k) := tget_tset_self
theorem Dev.sess_modSess_ne (k : Nat) (f : Session → Session) {i : Nat} (h : i ≠ k) : (d.modSess k f).sess i = d.sess i := tget_tset_ne h
@[simp] theorem Dev.proof_modProof_self (k : Nat) (f : ProofSt → ProofSt) : (d.modProof k f).proof k = f (d.proof k) := tget_tset_self
theorem Dev.proof_modProof_ne (k : Nat) (f : ProofSt → ProofSt) {i : Nat} (h : i ≠ k) : (d.modProof k f).proof i = d.proof i := tget_tset_ne h
@[simp] theorem Dev.gen_modGen_self (k : Nat) (f : GenSt → GenSt) : (d.modGen k f).gen k = f (d.gen k) := tget_tset_self
theorem Dev.gen_modGen_ne (k : Nat) (f : GenSt → GenSt) {i : Nat} (h : i ≠ k) : (d.modGen k f).gen i = d.gen i := tget_tset_ne h

/-- A register set reads the low 32 bits of what was written. -/
theorem Dev.reg_setReg_self (pg off w : Nat) : (d.setReg pg off w).reg pg off = w % 2 ^ 32 := by
  simp [Dev.reg, Dev.setReg]

/-- Every other register reads as before. -/
theorem Dev.reg_setReg_ne {pg off g o : Nat} (w : Nat) (h : regKey g o ≠ regKey pg off) :
    (d.setReg pg off w).reg g o = d.reg g o := by
  simp only [Dev.reg, Dev.setReg, tget_tset_ne h]

theorem regKey_ne {g o pg off : Nat} (ho : o < 4096) (hoff : off < 4096) (h : g ≠ pg ∨ o ≠ off) : regKey g o ≠ regKey pg off := by
  simp only [regKey]; omega

end Sys2Proof.Machine
end

