-- ==== Sys2Proof/Laws/Report.lean ====
section
/-!
SUPPORT. Sys2Proof/Laws/Report.lean: counters, events and errors change registers, headers, the sessions' event records and
the log, and nothing else.
-/
namespace Sys2Proof.Machine

/-- Only registers, headers, sessions and the error log differ. -/
def Dev.Reports (d d' : Dev) : Prop :=
  ∃ r h s l n, d' = { d with regs := r, hdrs := h, sessions := s, elog := l, elogWr := n }

variable {d e f : Dev}

theorem Dev.Reports.rfl' : d.Reports d := ⟨_, _, _, _, _, rfl⟩

theorem Dev.Reports.trans : d.Reports e → e.Reports f → d.Reports f := by
  rintro ⟨_, _, _, _, _, rfl⟩ ⟨_, _, _, _, _, rfl⟩
  exact ⟨_, _, _, _, _, rfl⟩

theorem Dev.Reports.mem : d.Reports e → e.mem = d.mem := by rintro ⟨_, _, _, _, _, rfl⟩; rfl
theorem Dev.Reports.ecc : d.Reports e → e.ecc = d.ecc := by rintro ⟨_, _, _, _, _, rfl⟩; rfl
theorem Dev.Reports.time : d.Reports e → e.time = d.time := by rintro ⟨_, _, _, _, _, rfl⟩; rfl
theorem Dev.Reports.timeFrac : d.Reports e → e.timeFrac = d.timeFrac := by rintro ⟨_, _, _, _, _, rfl⟩; rfl
theorem Dev.Reports.dies : d.Reports e → e.dies = d.dies := by rintro ⟨_, _, _, _, _, rfl⟩; rfl
theorem Dev.Reports.temps : d.Reports e → e.temps = d.temps := by rintro ⟨_, _, _, _, _, rfl⟩; rfl
theorem Dev.Reports.warned : d.Reports e → e.warned = d.warned := by rintro ⟨_, _, _, _, _, rfl⟩; rfl
theorem Dev.Reports.hots : d.Reports e → e.hots = d.hots := by rintro ⟨_, _, _, _, _, rfl⟩; rfl
theorem Dev.Reports.parts : d.Reports e → e.parts = d.parts := by rintro ⟨_, _, _, _, _, rfl⟩; rfl
theorem Dev.Reports.cores : d.Reports e → e.cores = d.cores := by rintro ⟨_, _, _, _, _, rfl⟩; rfl
theorem Dev.Reports.flights : d.Reports e → e.flights = d.flights := by rintro ⟨_, _, _, _, _, rfl⟩; rfl
theorem Dev.Reports.dmas : d.Reports e → e.dmas = d.dmas := by rintro ⟨_, _, _, _, _, rfl⟩; rfl
theorem Dev.Reports.bgFailed : d.Reports e → e.bgFailed = d.bgFailed := by rintro ⟨_, _, _, _, _, rfl⟩; rfl
theorem Dev.Reports.ddrLaid : d.Reports e → e.ddrLaid = d.ddrLaid := by rintro ⟨_, _, _, _, _, rfl⟩; rfl
theorem Dev.Reports.platens : d.Reports e → e.platens = d.platens := by rintro ⟨_, _, _, _, _, rfl⟩; rfl
theorem Dev.Reports.vc2 : d.Reports e → e.vc2 = d.vc2 := by rintro ⟨_, _, _, _, _, rfl⟩; rfl
theorem Dev.Reports.vc0 : d.Reports e → e.vc0 = d.vc0 := by rintro ⟨_, _, _, _, _, rfl⟩; rfl
theorem Dev.Reports.links : d.Reports e → e.links = d.links := by rintro ⟨_, _, _, _, _, rfl⟩; rfl
theorem Dev.Reports.cows : d.Reports e → e.cows = d.cows := by rintro ⟨_, _, _, _, _, rfl⟩; rfl
theorem Dev.Reports.colls : d.Reports e → e.colls = d.colls := by rintro ⟨_, _, _, _, _, rfl⟩; rfl
theorem Dev.Reports.servo : d.Reports e → e.servo = d.servo := by rintro ⟨_, _, _, _, _, rfl⟩; rfl
theorem Dev.Reports.out : d.Reports e → e.out = d.out := by rintro ⟨_, _, _, _, _, rfl⟩; rfl
theorem Dev.Reports.opens : d.Reports e → e.opens = d.opens := by rintro ⟨_, _, _, _, _, rfl⟩; rfl
theorem Dev.Reports.shakes : d.Reports e → e.shakes = d.shakes := by rintro ⟨_, _, _, _, _, rfl⟩; rfl
theorem Dev.Reports.signQ : d.Reports e → e.signQ = d.signQ := by rintro ⟨_, _, _, _, _, rfl⟩; rfl
theorem Dev.Reports.oldSa : d.Reports e → e.oldSa = d.oldSa := by rintro ⟨_, _, _, _, _, rfl⟩; rfl
theorem Dev.Reports.proofs : d.Reports e → e.proofs = d.proofs := by rintro ⟨_, _, _, _, _, rfl⟩; rfl
theorem Dev.Reports.gens : d.Reports e → e.gens = d.gens := by rintro ⟨_, _, _, _, _, rfl⟩; rfl
theorem Dev.Reports.genNext : d.Reports e → e.genNext = d.genNext := by rintro ⟨_, _, _, _, _, rfl⟩; rfl
theorem Dev.Reports.parents : d.Reports e → e.parents = d.parents := by rintro ⟨_, _, _, _, _, rfl⟩; rfl
theorem Dev.Reports.sinceDrain : d.Reports e → e.sinceDrain = d.sinceDrain := by rintro ⟨_, _, _, _, _, rfl⟩; rfl
theorem Dev.Reports.drainQ : d.Reports e → e.drainQ = d.drainQ := by rintro ⟨_, _, _, _, _, rfl⟩; rfl
theorem Dev.Reports.drain : d.Reports e → e.drain = d.drain := by rintro ⟨_, _, _, _, _, rfl⟩; rfl
theorem Dev.Reports.saveHold : d.Reports e → e.saveHold = d.saveHold := by rintro ⟨_, _, _, _, _, rfl⟩; rfl
theorem Dev.Reports.meters : d.Reports e → e.meters = d.meters := by rintro ⟨_, _, _, _, _, rfl⟩; rfl
theorem Dev.Reports.freeCount : d.Reports e → e.freeCount = d.freeCount := by rintro ⟨_, _, _, _, _, rfl⟩; rfl
theorem Dev.Reports.core (h : d.Reports e) (i : Nat) : e.core i = d.core i := by obtain ⟨_, _, _, _, _, rfl⟩ := h; rfl
theorem Dev.Reports.die (h : d.Reports e) (i : Nat) : e.die i = d.die i := by obtain ⟨_, _, _, _, _, rfl⟩ := h; rfl
theorem Dev.Reports.part (h : d.Reports e) (i : Nat) : e.part i = d.part i := by obtain ⟨_, _, _, _, _, rfl⟩ := h; rfl
theorem Dev.Reports.dma (h : d.Reports e) (i : Nat) : e.dma i = d.dma i := by obtain ⟨_, _, _, _, _, rfl⟩ := h; rfl
theorem Dev.Reports.platen (h : d.Reports e) (i : Nat) : e.platen i = d.platen i := by obtain ⟨_, _, _, _, _, rfl⟩ := h; rfl
theorem Dev.Reports.link (h : d.Reports e) (i : Nat) : e.link i = d.link i := by obtain ⟨_, _, _, _, _, rfl⟩ := h; rfl
theorem Dev.Reports.coll (h : d.Reports e) (i : Nat) : e.coll i = d.coll i := by obtain ⟨_, _, _, _, _, rfl⟩ := h; rfl
theorem Dev.Reports.cow (h : d.Reports e) (i : Nat) : e.cow i = d.cow i := by obtain ⟨_, _, _, _, _, rfl⟩ := h; rfl
theorem Dev.Reports.proof (h : d.Reports e) (i : Nat) : e.proof i = d.proof i := by obtain ⟨_, _, _, _, _, rfl⟩ := h; rfl
theorem Dev.Reports.gen (h : d.Reports e) (i : Nat) : e.gen i = d.gen i := by obtain ⟨_, _, _, _, _, rfl⟩ := h; rfl

theorem reports_setReg (pg off w : Nat) : d.Reports (d.setReg pg off w) := ⟨_, _, _, _, _, rfl⟩
theorem reports_modHdr (pg : Nat) (g : Hdr → Hdr) : d.Reports (d.modHdr pg g) := ⟨_, _, _, _, _, rfl⟩
theorem reports_modSess (i : Nat) (g : Session → Session) : d.Reports (d.modSess i g) := ⟨_, _, _, _, _, rfl⟩
theorem reports_resetRegs (pg off n : Nat) : d.Reports (d.resetRegs pg off n) := ⟨_, _, _, _, _, rfl⟩

theorem reports_setReg64 (pg off v : Nat) : d.Reports (d.setReg64 pg off v) := (reports_setReg _ _ _).trans (reports_setReg _ _ _)

theorem reports_bump (pg off n : Nat) : d.Reports (d.bump pg off n) := by
  unfold Dev.bump; split
  · exact Dev.Reports.rfl'
  · exact reports_setReg _ _ _

theorem reports_bump64 (pg off n : Nat) : d.Reports (d.bump64 pg off n) := by
  unfold Dev.bump64; split
  · exact Dev.Reports.rfl'
  · exact reports_setReg64 _ _ _

theorem reports_bumpHi (pg off n : Nat) : d.Reports (d.bumpHi pg off n) := reports_setReg _ _ _
theorem reports_bumpLo (pg off n : Nat) : d.Reports (d.bumpLo pg off n) := reports_setReg _ _ _

theorem reports_foldl {α : Type} (xs : List α) (g : Dev → α → Dev) (h : ∀ d x, Dev.Reports d (g d x)) : d.Reports (xs.foldl g d) := by
  induction xs generalizing d with
  | nil => exact Dev.Reports.rfl'
  | cons x xs ih => exact (h d x).trans ih

theorem reports_notify (pg : Nat) (w : Word) : d.Reports (d.notify pg w) := by
  unfold Dev.notify
  refine reports_foldl _ _ fun d i => ?_
  dsimp only
  repeat' split
  all_goals first
    | exact Dev.Reports.rfl'
    | exact (reports_modSess _ _).trans (reports_bump _ _ _)

theorem reports_raise (pg b : Nat) : d.Reports (d.raise pg b) := by
  unfold Dev.raise
  dsimp only
  split
  · exact (reports_modHdr _ _).trans (reports_notify _ _)
  · exact reports_modHdr _ _

theorem reports_raiseIf (c : Bool) (pg b : Nat) : d.Reports (d.raiseIf c pg b) := by
  unfold Dev.raiseIf; split
  · exact reports_raise _ _
  · exact Dev.Reports.rfl'

theorem reports_elog (x : List LogEntry) (n : Nat) : d.Reports { d with elog := x, elogWr := n } := ⟨_, _, _, _, _, rfl⟩

theorem reports_setError (pg code i0 i1 : Nat) : d.Reports (d.setError pg code i0 i1) := by
  unfold Dev.setError
  dsimp only
  exact (((reports_modHdr _ _).trans (reports_raiseIf _ _ _)).trans (reports_elog _ _)).trans (reports_raise _ _)

theorem reports_noteUncorr (u : Nat) : d.Reports (d.noteUncorr u) := by
  unfold Dev.noteUncorr
  dsimp only
  repeat' split
  · exact reports_bumpHi _ _ _
  · exact ((reports_bump _ _ _).trans (reports_setReg64 _ _ _)).trans (reports_raise _ _)
  · exact Dev.Reports.rfl'

theorem reports_setErr (x : ErrRec) : d.Reports (d.setErr x) := by
  unfold Dev.setErr
  split
  · exact (reports_noteUncorr _).trans (reports_setError _ _ _ _)
  · exact reports_setError _ _ _ _

theorem reports_imprError (p code : Nat) : d.Reports (d.imprError p code) := reports_setError _ _ _ _
theorem reports_secError (code info : Nat) : d.Reports (d.secError code info) := reports_setError _ _ _ _
theorem reports_partError (code : Nat) (u : Writer) : d.Reports (d.partError code u) := reports_setError _ _ _ _
theorem reports_stallIssue (k : Nat) : d.Reports (d.stallIssue k) := reports_bump _ _ _
theorem reports_proofError (p code unit : Nat) : d.Reports (d.proofError p code unit) := reports_setError _ _ _ _

/-! ### Field by field -/

variable (d : Dev)

@[simp] theorem Dev.bump_mem (pg off n : Nat) : (d.bump pg off n).mem = d.mem := (reports_bump pg off n).mem
@[simp] theorem Dev.bump_ecc (pg off n : Nat) : (d.bump pg off n).ecc = d.ecc := (reports_bump pg off n).ecc
@[simp] theorem Dev.bump_time (pg off n : Nat) : (d.bump pg off n).time = d.time := (reports_bump pg off n).time
@[simp] theorem Dev.bump_timeFrac (pg off n : Nat) : (d.bump pg off n).timeFrac = d.timeFrac := (reports_bump pg off n).timeFrac
@[simp] theorem Dev.bump_dies (pg off n : Nat) : (d.bump pg off n).dies = d.dies := (reports_bump pg off n).dies
@[simp] theorem Dev.bump_temps (pg off n : Nat) : (d.bump pg off n).temps = d.temps := (reports_bump pg off n).temps
@[simp] theorem Dev.bump_warned (pg off n : Nat) : (d.bump pg off n).warned = d.warned := (reports_bump pg off n).warned
@[simp] theorem Dev.bump_hots (pg off n : Nat) : (d.bump pg off n).hots = d.hots := (reports_bump pg off n).hots
@[simp] theorem Dev.bump_parts (pg off n : Nat) : (d.bump pg off n).parts = d.parts := (reports_bump pg off n).parts
@[simp] theorem Dev.bump_cores (pg off n : Nat) : (d.bump pg off n).cores = d.cores := (reports_bump pg off n).cores
@[simp] theorem Dev.bump_flights (pg off n : Nat) : (d.bump pg off n).flights = d.flights := (reports_bump pg off n).flights
@[simp] theorem Dev.bump_dmas (pg off n : Nat) : (d.bump pg off n).dmas = d.dmas := (reports_bump pg off n).dmas
@[simp] theorem Dev.bump_bgFailed (pg off n : Nat) : (d.bump pg off n).bgFailed = d.bgFailed := (reports_bump pg off n).bgFailed
@[simp] theorem Dev.bump_ddrLaid (pg off n : Nat) : (d.bump pg off n).ddrLaid = d.ddrLaid := (reports_bump pg off n).ddrLaid
@[simp] theorem Dev.bump_platens (pg off n : Nat) : (d.bump pg off n).platens = d.platens := (reports_bump pg off n).platens
@[simp] theorem Dev.bump_vc2 (pg off n : Nat) : (d.bump pg off n).vc2 = d.vc2 := (reports_bump pg off n).vc2
@[simp] theorem Dev.bump_vc0 (pg off n : Nat) : (d.bump pg off n).vc0 = d.vc0 := (reports_bump pg off n).vc0
@[simp] theorem Dev.bump_links (pg off n : Nat) : (d.bump pg off n).links = d.links := (reports_bump pg off n).links
@[simp] theorem Dev.bump_cows (pg off n : Nat) : (d.bump pg off n).cows = d.cows := (reports_bump pg off n).cows
@[simp] theorem Dev.bump_colls (pg off n : Nat) : (d.bump pg off n).colls = d.colls := (reports_bump pg off n).colls
@[simp] theorem Dev.bump_servo (pg off n : Nat) : (d.bump pg off n).servo = d.servo := (reports_bump pg off n).servo
@[simp] theorem Dev.bump_out (pg off n : Nat) : (d.bump pg off n).out = d.out := (reports_bump pg off n).out
@[simp] theorem Dev.bump_opens (pg off n : Nat) : (d.bump pg off n).opens = d.opens := (reports_bump pg off n).opens
@[simp] theorem Dev.bump_shakes (pg off n : Nat) : (d.bump pg off n).shakes = d.shakes := (reports_bump pg off n).shakes
@[simp] theorem Dev.bump_signQ (pg off n : Nat) : (d.bump pg off n).signQ = d.signQ := (reports_bump pg off n).signQ
@[simp] theorem Dev.bump_oldSa (pg off n : Nat) : (d.bump pg off n).oldSa = d.oldSa := (reports_bump pg off n).oldSa
@[simp] theorem Dev.bump_proofs (pg off n : Nat) : (d.bump pg off n).proofs = d.proofs := (reports_bump pg off n).proofs
@[simp] theorem Dev.bump_gens (pg off n : Nat) : (d.bump pg off n).gens = d.gens := (reports_bump pg off n).gens
@[simp] theorem Dev.bump_genNext (pg off n : Nat) : (d.bump pg off n).genNext = d.genNext := (reports_bump pg off n).genNext
@[simp] theorem Dev.bump_parents (pg off n : Nat) : (d.bump pg off n).parents = d.parents := (reports_bump pg off n).parents
@[simp] theorem Dev.bump_sinceDrain (pg off n : Nat) : (d.bump pg off n).sinceDrain = d.sinceDrain := (reports_bump pg off n).sinceDrain
@[simp] theorem Dev.bump_drainQ (pg off n : Nat) : (d.bump pg off n).drainQ = d.drainQ := (reports_bump pg off n).drainQ
@[simp] theorem Dev.bump_drain (pg off n : Nat) : (d.bump pg off n).drain = d.drain := (reports_bump pg off n).drain
@[simp] theorem Dev.bump_saveHold (pg off n : Nat) : (d.bump pg off n).saveHold = d.saveHold := (reports_bump pg off n).saveHold
@[simp] theorem Dev.bump_meters (pg off n : Nat) : (d.bump pg off n).meters = d.meters := (reports_bump pg off n).meters
@[simp] theorem Dev.bump_freeCount (pg off n : Nat) : (d.bump pg off n).freeCount = d.freeCount := (reports_bump pg off n).freeCount
@[simp] theorem Dev.core_bump (pg off n : Nat) (i : Nat) : (d.bump pg off n).core i = d.core i := (reports_bump pg off n).core i
@[simp] theorem Dev.die_bump (pg off n : Nat) (i : Nat) : (d.bump pg off n).die i = d.die i := (reports_bump pg off n).die i
@[simp] theorem Dev.part_bump (pg off n : Nat) (i : Nat) : (d.bump pg off n).part i = d.part i := (reports_bump pg off n).part i
@[simp] theorem Dev.dma_bump (pg off n : Nat) (i : Nat) : (d.bump pg off n).dma i = d.dma i := (reports_bump pg off n).dma i
@[simp] theorem Dev.platen_bump (pg off n : Nat) (i : Nat) : (d.bump pg off n).platen i = d.platen i := (reports_bump pg off n).platen i
@[simp] theorem Dev.link_bump (pg off n : Nat) (i : Nat) : (d.bump pg off n).link i = d.link i := (reports_bump pg off n).link i
@[simp] theorem Dev.coll_bump (pg off n : Nat) (i : Nat) : (d.bump pg off n).coll i = d.coll i := (reports_bump pg off n).coll i
@[simp] theorem Dev.cow_bump (pg off n : Nat) (i : Nat) : (d.bump pg off n).cow i = d.cow i := (reports_bump pg off n).cow i
@[simp] theorem Dev.proof_bump (pg off n : Nat) (i : Nat) : (d.bump pg off n).proof i = d.proof i := (reports_bump pg off n).proof i
@[simp] theorem Dev.gen_bump (pg off n : Nat) (i : Nat) : (d.bump pg off n).gen i = d.gen i := (reports_bump pg off n).gen i

@[simp] theorem Dev.bump64_mem (pg off n : Nat) : (d.bump64 pg off n).mem = d.mem := (reports_bump64 pg off n).mem
@[simp] theorem Dev.bump64_ecc (pg off n : Nat) : (d.bump64 pg off n).ecc = d.ecc := (reports_bump64 pg off n).ecc
@[simp] theorem Dev.bump64_time (pg off n : Nat) : (d.bump64 pg off n).time = d.time := (reports_bump64 pg off n).time
@[simp] theorem Dev.bump64_timeFrac (pg off n : Nat) : (d.bump64 pg off n).timeFrac = d.timeFrac := (reports_bump64 pg off n).timeFrac
@[simp] theorem Dev.bump64_dies (pg off n : Nat) : (d.bump64 pg off n).dies = d.dies := (reports_bump64 pg off n).dies
@[simp] theorem Dev.bump64_temps (pg off n : Nat) : (d.bump64 pg off n).temps = d.temps := (reports_bump64 pg off n).temps
@[simp] theorem Dev.bump64_warned (pg off n : Nat) : (d.bump64 pg off n).warned = d.warned := (reports_bump64 pg off n).warned
@[simp] theorem Dev.bump64_hots (pg off n : Nat) : (d.bump64 pg off n).hots = d.hots := (reports_bump64 pg off n).hots
@[simp] theorem Dev.bump64_parts (pg off n : Nat) : (d.bump64 pg off n).parts = d.parts := (reports_bump64 pg off n).parts
@[simp] theorem Dev.bump64_cores (pg off n : Nat) : (d.bump64 pg off n).cores = d.cores := (reports_bump64 pg off n).cores
@[simp] theorem Dev.bump64_flights (pg off n : Nat) : (d.bump64 pg off n).flights = d.flights := (reports_bump64 pg off n).flights
@[simp] theorem Dev.bump64_dmas (pg off n : Nat) : (d.bump64 pg off n).dmas = d.dmas := (reports_bump64 pg off n).dmas
@[simp] theorem Dev.bump64_bgFailed (pg off n : Nat) : (d.bump64 pg off n).bgFailed = d.bgFailed := (reports_bump64 pg off n).bgFailed
@[simp] theorem Dev.bump64_ddrLaid (pg off n : Nat) : (d.bump64 pg off n).ddrLaid = d.ddrLaid := (reports_bump64 pg off n).ddrLaid
@[simp] theorem Dev.bump64_platens (pg off n : Nat) : (d.bump64 pg off n).platens = d.platens := (reports_bump64 pg off n).platens
@[simp] theorem Dev.bump64_vc2 (pg off n : Nat) : (d.bump64 pg off n).vc2 = d.vc2 := (reports_bump64 pg off n).vc2
@[simp] theorem Dev.bump64_vc0 (pg off n : Nat) : (d.bump64 pg off n).vc0 = d.vc0 := (reports_bump64 pg off n).vc0
@[simp] theorem Dev.bump64_links (pg off n : Nat) : (d.bump64 pg off n).links = d.links := (reports_bump64 pg off n).links
@[simp] theorem Dev.bump64_cows (pg off n : Nat) : (d.bump64 pg off n).cows = d.cows := (reports_bump64 pg off n).cows
@[simp] theorem Dev.bump64_colls (pg off n : Nat) : (d.bump64 pg off n).colls = d.colls := (reports_bump64 pg off n).colls
@[simp] theorem Dev.bump64_servo (pg off n : Nat) : (d.bump64 pg off n).servo = d.servo := (reports_bump64 pg off n).servo
@[simp] theorem Dev.bump64_out (pg off n : Nat) : (d.bump64 pg off n).out = d.out := (reports_bump64 pg off n).out
@[simp] theorem Dev.bump64_opens (pg off n : Nat) : (d.bump64 pg off n).opens = d.opens := (reports_bump64 pg off n).opens
@[simp] theorem Dev.bump64_shakes (pg off n : Nat) : (d.bump64 pg off n).shakes = d.shakes := (reports_bump64 pg off n).shakes
@[simp] theorem Dev.bump64_signQ (pg off n : Nat) : (d.bump64 pg off n).signQ = d.signQ := (reports_bump64 pg off n).signQ
@[simp] theorem Dev.bump64_oldSa (pg off n : Nat) : (d.bump64 pg off n).oldSa = d.oldSa := (reports_bump64 pg off n).oldSa
@[simp] theorem Dev.bump64_proofs (pg off n : Nat) : (d.bump64 pg off n).proofs = d.proofs := (reports_bump64 pg off n).proofs
@[simp] theorem Dev.bump64_gens (pg off n : Nat) : (d.bump64 pg off n).gens = d.gens := (reports_bump64 pg off n).gens
@[simp] theorem Dev.bump64_genNext (pg off n : Nat) : (d.bump64 pg off n).genNext = d.genNext := (reports_bump64 pg off n).genNext
@[simp] theorem Dev.bump64_parents (pg off n : Nat) : (d.bump64 pg off n).parents = d.parents := (reports_bump64 pg off n).parents
@[simp] theorem Dev.bump64_sinceDrain (pg off n : Nat) : (d.bump64 pg off n).sinceDrain = d.sinceDrain := (reports_bump64 pg off n).sinceDrain
@[simp] theorem Dev.bump64_drainQ (pg off n : Nat) : (d.bump64 pg off n).drainQ = d.drainQ := (reports_bump64 pg off n).drainQ
@[simp] theorem Dev.bump64_drain (pg off n : Nat) : (d.bump64 pg off n).drain = d.drain := (reports_bump64 pg off n).drain
@[simp] theorem Dev.bump64_saveHold (pg off n : Nat) : (d.bump64 pg off n).saveHold = d.saveHold := (reports_bump64 pg off n).saveHold
@[simp] theorem Dev.bump64_meters (pg off n : Nat) : (d.bump64 pg off n).meters = d.meters := (reports_bump64 pg off n).meters
@[simp] theorem Dev.bump64_freeCount (pg off n : Nat) : (d.bump64 pg off n).freeCount = d.freeCount := (reports_bump64 pg off n).freeCount
@[simp] theorem Dev.core_bump64 (pg off n : Nat) (i : Nat) : (d.bump64 pg off n).core i = d.core i := (reports_bump64 pg off n).core i
@[simp] theorem Dev.die_bump64 (pg off n : Nat) (i : Nat) : (d.bump64 pg off n).die i = d.die i := (reports_bump64 pg off n).die i
@[simp] theorem Dev.part_bump64 (pg off n : Nat) (i : Nat) : (d.bump64 pg off n).part i = d.part i := (reports_bump64 pg off n).part i
@[simp] theorem Dev.dma_bump64 (pg off n : Nat) (i : Nat) : (d.bump64 pg off n).dma i = d.dma i := (reports_bump64 pg off n).dma i
@[simp] theorem Dev.platen_bump64 (pg off n : Nat) (i : Nat) : (d.bump64 pg off n).platen i = d.platen i := (reports_bump64 pg off n).platen i
@[simp] theorem Dev.link_bump64 (pg off n : Nat) (i : Nat) : (d.bump64 pg off n).link i = d.link i := (reports_bump64 pg off n).link i
@[simp] theorem Dev.coll_bump64 (pg off n : Nat) (i : Nat) : (d.bump64 pg off n).coll i = d.coll i := (reports_bump64 pg off n).coll i
@[simp] theorem Dev.cow_bump64 (pg off n : Nat) (i : Nat) : (d.bump64 pg off n).cow i = d.cow i := (reports_bump64 pg off n).cow i
@[simp] theorem Dev.proof_bump64 (pg off n : Nat) (i : Nat) : (d.bump64 pg off n).proof i = d.proof i := (reports_bump64 pg off n).proof i
@[simp] theorem Dev.gen_bump64 (pg off n : Nat) (i : Nat) : (d.bump64 pg off n).gen i = d.gen i := (reports_bump64 pg off n).gen i

@[simp] theorem Dev.bumpHi_mem (pg off n : Nat) : (d.bumpHi pg off n).mem = d.mem := (reports_bumpHi pg off n).mem
@[simp] theorem Dev.bumpHi_ecc (pg off n : Nat) : (d.bumpHi pg off n).ecc = d.ecc := (reports_bumpHi pg off n).ecc
@[simp] theorem Dev.bumpHi_time (pg off n : Nat) : (d.bumpHi pg off n).time = d.time := (reports_bumpHi pg off n).time
@[simp] theorem Dev.bumpHi_timeFrac (pg off n : Nat) : (d.bumpHi pg off n).timeFrac = d.timeFrac := (reports_bumpHi pg off n).timeFrac
@[simp] theorem Dev.bumpHi_dies (pg off n : Nat) : (d.bumpHi pg off n).dies = d.dies := (reports_bumpHi pg off n).dies
@[simp] theorem Dev.bumpHi_temps (pg off n : Nat) : (d.bumpHi pg off n).temps = d.temps := (reports_bumpHi pg off n).temps
@[simp] theorem Dev.bumpHi_warned (pg off n : Nat) : (d.bumpHi pg off n).warned = d.warned := (reports_bumpHi pg off n).warned
@[simp] theorem Dev.bumpHi_hots (pg off n : Nat) : (d.bumpHi pg off n).hots = d.hots := (reports_bumpHi pg off n).hots
@[simp] theorem Dev.bumpHi_parts (pg off n : Nat) : (d.bumpHi pg off n).parts = d.parts := (reports_bumpHi pg off n).parts
@[simp] theorem Dev.bumpHi_cores (pg off n : Nat) : (d.bumpHi pg off n).cores = d.cores := (reports_bumpHi pg off n).cores
@[simp] theorem Dev.bumpHi_flights (pg off n : Nat) : (d.bumpHi pg off n).flights = d.flights := (reports_bumpHi pg off n).flights
@[simp] theorem Dev.bumpHi_dmas (pg off n : Nat) : (d.bumpHi pg off n).dmas = d.dmas := (reports_bumpHi pg off n).dmas
@[simp] theorem Dev.bumpHi_bgFailed (pg off n : Nat) : (d.bumpHi pg off n).bgFailed = d.bgFailed := (reports_bumpHi pg off n).bgFailed
@[simp] theorem Dev.bumpHi_ddrLaid (pg off n : Nat) : (d.bumpHi pg off n).ddrLaid = d.ddrLaid := (reports_bumpHi pg off n).ddrLaid
@[simp] theorem Dev.bumpHi_platens (pg off n : Nat) : (d.bumpHi pg off n).platens = d.platens := (reports_bumpHi pg off n).platens
@[simp] theorem Dev.bumpHi_vc2 (pg off n : Nat) : (d.bumpHi pg off n).vc2 = d.vc2 := (reports_bumpHi pg off n).vc2
@[simp] theorem Dev.bumpHi_vc0 (pg off n : Nat) : (d.bumpHi pg off n).vc0 = d.vc0 := (reports_bumpHi pg off n).vc0
@[simp] theorem Dev.bumpHi_links (pg off n : Nat) : (d.bumpHi pg off n).links = d.links := (reports_bumpHi pg off n).links
@[simp] theorem Dev.bumpHi_cows (pg off n : Nat) : (d.bumpHi pg off n).cows = d.cows := (reports_bumpHi pg off n).cows
@[simp] theorem Dev.bumpHi_colls (pg off n : Nat) : (d.bumpHi pg off n).colls = d.colls := (reports_bumpHi pg off n).colls
@[simp] theorem Dev.bumpHi_servo (pg off n : Nat) : (d.bumpHi pg off n).servo = d.servo := (reports_bumpHi pg off n).servo
@[simp] theorem Dev.bumpHi_out (pg off n : Nat) : (d.bumpHi pg off n).out = d.out := (reports_bumpHi pg off n).out
@[simp] theorem Dev.bumpHi_opens (pg off n : Nat) : (d.bumpHi pg off n).opens = d.opens := (reports_bumpHi pg off n).opens
@[simp] theorem Dev.bumpHi_shakes (pg off n : Nat) : (d.bumpHi pg off n).shakes = d.shakes := (reports_bumpHi pg off n).shakes
@[simp] theorem Dev.bumpHi_signQ (pg off n : Nat) : (d.bumpHi pg off n).signQ = d.signQ := (reports_bumpHi pg off n).signQ
@[simp] theorem Dev.bumpHi_oldSa (pg off n : Nat) : (d.bumpHi pg off n).oldSa = d.oldSa := (reports_bumpHi pg off n).oldSa
@[simp] theorem Dev.bumpHi_proofs (pg off n : Nat) : (d.bumpHi pg off n).proofs = d.proofs := (reports_bumpHi pg off n).proofs
@[simp] theorem Dev.bumpHi_gens (pg off n : Nat) : (d.bumpHi pg off n).gens = d.gens := (reports_bumpHi pg off n).gens
@[simp] theorem Dev.bumpHi_genNext (pg off n : Nat) : (d.bumpHi pg off n).genNext = d.genNext := (reports_bumpHi pg off n).genNext
@[simp] theorem Dev.bumpHi_parents (pg off n : Nat) : (d.bumpHi pg off n).parents = d.parents := (reports_bumpHi pg off n).parents
@[simp] theorem Dev.bumpHi_sinceDrain (pg off n : Nat) : (d.bumpHi pg off n).sinceDrain = d.sinceDrain := (reports_bumpHi pg off n).sinceDrain
@[simp] theorem Dev.bumpHi_drainQ (pg off n : Nat) : (d.bumpHi pg off n).drainQ = d.drainQ := (reports_bumpHi pg off n).drainQ
@[simp] theorem Dev.bumpHi_drain (pg off n : Nat) : (d.bumpHi pg off n).drain = d.drain := (reports_bumpHi pg off n).drain
@[simp] theorem Dev.bumpHi_saveHold (pg off n : Nat) : (d.bumpHi pg off n).saveHold = d.saveHold := (reports_bumpHi pg off n).saveHold
@[simp] theorem Dev.bumpHi_meters (pg off n : Nat) : (d.bumpHi pg off n).meters = d.meters := (reports_bumpHi pg off n).meters
@[simp] theorem Dev.bumpHi_freeCount (pg off n : Nat) : (d.bumpHi pg off n).freeCount = d.freeCount := (reports_bumpHi pg off n).freeCount
@[simp] theorem Dev.core_bumpHi (pg off n : Nat) (i : Nat) : (d.bumpHi pg off n).core i = d.core i := (reports_bumpHi pg off n).core i
@[simp] theorem Dev.die_bumpHi (pg off n : Nat) (i : Nat) : (d.bumpHi pg off n).die i = d.die i := (reports_bumpHi pg off n).die i
@[simp] theorem Dev.part_bumpHi (pg off n : Nat) (i : Nat) : (d.bumpHi pg off n).part i = d.part i := (reports_bumpHi pg off n).part i
@[simp] theorem Dev.dma_bumpHi (pg off n : Nat) (i : Nat) : (d.bumpHi pg off n).dma i = d.dma i := (reports_bumpHi pg off n).dma i
@[simp] theorem Dev.platen_bumpHi (pg off n : Nat) (i : Nat) : (d.bumpHi pg off n).platen i = d.platen i := (reports_bumpHi pg off n).platen i
@[simp] theorem Dev.link_bumpHi (pg off n : Nat) (i : Nat) : (d.bumpHi pg off n).link i = d.link i := (reports_bumpHi pg off n).link i
@[simp] theorem Dev.coll_bumpHi (pg off n : Nat) (i : Nat) : (d.bumpHi pg off n).coll i = d.coll i := (reports_bumpHi pg off n).coll i
@[simp] theorem Dev.cow_bumpHi (pg off n : Nat) (i : Nat) : (d.bumpHi pg off n).cow i = d.cow i := (reports_bumpHi pg off n).cow i
@[simp] theorem Dev.proof_bumpHi (pg off n : Nat) (i : Nat) : (d.bumpHi pg off n).proof i = d.proof i := (reports_bumpHi pg off n).proof i
@[simp] theorem Dev.gen_bumpHi (pg off n : Nat) (i : Nat) : (d.bumpHi pg off n).gen i = d.gen i := (reports_bumpHi pg off n).gen i

@[simp] theorem Dev.bumpLo_mem (pg off n : Nat) : (d.bumpLo pg off n).mem = d.mem := (reports_bumpLo pg off n).mem
@[simp] theorem Dev.bumpLo_ecc (pg off n : Nat) : (d.bumpLo pg off n).ecc = d.ecc := (reports_bumpLo pg off n).ecc
@[simp] theorem Dev.bumpLo_time (pg off n : Nat) : (d.bumpLo pg off n).time = d.time := (reports_bumpLo pg off n).time
@[simp] theorem Dev.bumpLo_timeFrac (pg off n : Nat) : (d.bumpLo pg off n).timeFrac = d.timeFrac := (reports_bumpLo pg off n).timeFrac
@[simp] theorem Dev.bumpLo_dies (pg off n : Nat) : (d.bumpLo pg off n).dies = d.dies := (reports_bumpLo pg off n).dies
@[simp] theorem Dev.bumpLo_temps (pg off n : Nat) : (d.bumpLo pg off n).temps = d.temps := (reports_bumpLo pg off n).temps
@[simp] theorem Dev.bumpLo_warned (pg off n : Nat) : (d.bumpLo pg off n).warned = d.warned := (reports_bumpLo pg off n).warned
@[simp] theorem Dev.bumpLo_hots (pg off n : Nat) : (d.bumpLo pg off n).hots = d.hots := (reports_bumpLo pg off n).hots
@[simp] theorem Dev.bumpLo_parts (pg off n : Nat) : (d.bumpLo pg off n).parts = d.parts := (reports_bumpLo pg off n).parts
@[simp] theorem Dev.bumpLo_cores (pg off n : Nat) : (d.bumpLo pg off n).cores = d.cores := (reports_bumpLo pg off n).cores
@[simp] theorem Dev.bumpLo_flights (pg off n : Nat) : (d.bumpLo pg off n).flights = d.flights := (reports_bumpLo pg off n).flights
@[simp] theorem Dev.bumpLo_dmas (pg off n : Nat) : (d.bumpLo pg off n).dmas = d.dmas := (reports_bumpLo pg off n).dmas
@[simp] theorem Dev.bumpLo_bgFailed (pg off n : Nat) : (d.bumpLo pg off n).bgFailed = d.bgFailed := (reports_bumpLo pg off n).bgFailed
@[simp] theorem Dev.bumpLo_ddrLaid (pg off n : Nat) : (d.bumpLo pg off n).ddrLaid = d.ddrLaid := (reports_bumpLo pg off n).ddrLaid
@[simp] theorem Dev.bumpLo_platens (pg off n : Nat) : (d.bumpLo pg off n).platens = d.platens := (reports_bumpLo pg off n).platens
@[simp] theorem Dev.bumpLo_vc2 (pg off n : Nat) : (d.bumpLo pg off n).vc2 = d.vc2 := (reports_bumpLo pg off n).vc2
@[simp] theorem Dev.bumpLo_vc0 (pg off n : Nat) : (d.bumpLo pg off n).vc0 = d.vc0 := (reports_bumpLo pg off n).vc0
@[simp] theorem Dev.bumpLo_links (pg off n : Nat) : (d.bumpLo pg off n).links = d.links := (reports_bumpLo pg off n).links
@[simp] theorem Dev.bumpLo_cows (pg off n : Nat) : (d.bumpLo pg off n).cows = d.cows := (reports_bumpLo pg off n).cows
@[simp] theorem Dev.bumpLo_colls (pg off n : Nat) : (d.bumpLo pg off n).colls = d.colls := (reports_bumpLo pg off n).colls
@[simp] theorem Dev.bumpLo_servo (pg off n : Nat) : (d.bumpLo pg off n).servo = d.servo := (reports_bumpLo pg off n).servo
@[simp] theorem Dev.bumpLo_out (pg off n : Nat) : (d.bumpLo pg off n).out = d.out := (reports_bumpLo pg off n).out
@[simp] theorem Dev.bumpLo_opens (pg off n : Nat) : (d.bumpLo pg off n).opens = d.opens := (reports_bumpLo pg off n).opens
@[simp] theorem Dev.bumpLo_shakes (pg off n : Nat) : (d.bumpLo pg off n).shakes = d.shakes := (reports_bumpLo pg off n).shakes
@[simp] theorem Dev.bumpLo_signQ (pg off n : Nat) : (d.bumpLo pg off n).signQ = d.signQ := (reports_bumpLo pg off n).signQ
@[simp] theorem Dev.bumpLo_oldSa (pg off n : Nat) : (d.bumpLo pg off n).oldSa = d.oldSa := (reports_bumpLo pg off n).oldSa
@[simp] theorem Dev.bumpLo_proofs (pg off n : Nat) : (d.bumpLo pg off n).proofs = d.proofs := (reports_bumpLo pg off n).proofs
@[simp] theorem Dev.bumpLo_gens (pg off n : Nat) : (d.bumpLo pg off n).gens = d.gens := (reports_bumpLo pg off n).gens
@[simp] theorem Dev.bumpLo_genNext (pg off n : Nat) : (d.bumpLo pg off n).genNext = d.genNext := (reports_bumpLo pg off n).genNext
@[simp] theorem Dev.bumpLo_parents (pg off n : Nat) : (d.bumpLo pg off n).parents = d.parents := (reports_bumpLo pg off n).parents
@[simp] theorem Dev.bumpLo_sinceDrain (pg off n : Nat) : (d.bumpLo pg off n).sinceDrain = d.sinceDrain := (reports_bumpLo pg off n).sinceDrain
@[simp] theorem Dev.bumpLo_drainQ (pg off n : Nat) : (d.bumpLo pg off n).drainQ = d.drainQ := (reports_bumpLo pg off n).drainQ
@[simp] theorem Dev.bumpLo_drain (pg off n : Nat) : (d.bumpLo pg off n).drain = d.drain := (reports_bumpLo pg off n).drain
@[simp] theorem Dev.bumpLo_saveHold (pg off n : Nat) : (d.bumpLo pg off n).saveHold = d.saveHold := (reports_bumpLo pg off n).saveHold
@[simp] theorem Dev.bumpLo_meters (pg off n : Nat) : (d.bumpLo pg off n).meters = d.meters := (reports_bumpLo pg off n).meters
@[simp] theorem Dev.bumpLo_freeCount (pg off n : Nat) : (d.bumpLo pg off n).freeCount = d.freeCount := (reports_bumpLo pg off n).freeCount
@[simp] theorem Dev.core_bumpLo (pg off n : Nat) (i : Nat) : (d.bumpLo pg off n).core i = d.core i := (reports_bumpLo pg off n).core i
@[simp] theorem Dev.die_bumpLo (pg off n : Nat) (i : Nat) : (d.bumpLo pg off n).die i = d.die i := (reports_bumpLo pg off n).die i
@[simp] theorem Dev.part_bumpLo (pg off n : Nat) (i : Nat) : (d.bumpLo pg off n).part i = d.part i := (reports_bumpLo pg off n).part i
@[simp] theorem Dev.dma_bumpLo (pg off n : Nat) (i : Nat) : (d.bumpLo pg off n).dma i = d.dma i := (reports_bumpLo pg off n).dma i
@[simp] theorem Dev.platen_bumpLo (pg off n : Nat) (i : Nat) : (d.bumpLo pg off n).platen i = d.platen i := (reports_bumpLo pg off n).platen i
@[simp] theorem Dev.link_bumpLo (pg off n : Nat) (i : Nat) : (d.bumpLo pg off n).link i = d.link i := (reports_bumpLo pg off n).link i
@[simp] theorem Dev.coll_bumpLo (pg off n : Nat) (i : Nat) : (d.bumpLo pg off n).coll i = d.coll i := (reports_bumpLo pg off n).coll i
@[simp] theorem Dev.cow_bumpLo (pg off n : Nat) (i : Nat) : (d.bumpLo pg off n).cow i = d.cow i := (reports_bumpLo pg off n).cow i
@[simp] theorem Dev.proof_bumpLo (pg off n : Nat) (i : Nat) : (d.bumpLo pg off n).proof i = d.proof i := (reports_bumpLo pg off n).proof i
@[simp] theorem Dev.gen_bumpLo (pg off n : Nat) (i : Nat) : (d.bumpLo pg off n).gen i = d.gen i := (reports_bumpLo pg off n).gen i

@[simp] theorem Dev.setReg64_mem (pg off v : Nat) : (d.setReg64 pg off v).mem = d.mem := (reports_setReg64 pg off v).mem
@[simp] theorem Dev.setReg64_ecc (pg off v : Nat) : (d.setReg64 pg off v).ecc = d.ecc := (reports_setReg64 pg off v).ecc
@[simp] theorem Dev.setReg64_time (pg off v : Nat) : (d.setReg64 pg off v).time = d.time := (reports_setReg64 pg off v).time
@[simp] theorem Dev.setReg64_timeFrac (pg off v : Nat) : (d.setReg64 pg off v).timeFrac = d.timeFrac := (reports_setReg64 pg off v).timeFrac
@[simp] theorem Dev.setReg64_dies (pg off v : Nat) : (d.setReg64 pg off v).dies = d.dies := (reports_setReg64 pg off v).dies
@[simp] theorem Dev.setReg64_temps (pg off v : Nat) : (d.setReg64 pg off v).temps = d.temps := (reports_setReg64 pg off v).temps
@[simp] theorem Dev.setReg64_warned (pg off v : Nat) : (d.setReg64 pg off v).warned = d.warned := (reports_setReg64 pg off v).warned
@[simp] theorem Dev.setReg64_hots (pg off v : Nat) : (d.setReg64 pg off v).hots = d.hots := (reports_setReg64 pg off v).hots
@[simp] theorem Dev.setReg64_parts (pg off v : Nat) : (d.setReg64 pg off v).parts = d.parts := (reports_setReg64 pg off v).parts
@[simp] theorem Dev.setReg64_cores (pg off v : Nat) : (d.setReg64 pg off v).cores = d.cores := (reports_setReg64 pg off v).cores
@[simp] theorem Dev.setReg64_flights (pg off v : Nat) : (d.setReg64 pg off v).flights = d.flights := (reports_setReg64 pg off v).flights
@[simp] theorem Dev.setReg64_dmas (pg off v : Nat) : (d.setReg64 pg off v).dmas = d.dmas := (reports_setReg64 pg off v).dmas
@[simp] theorem Dev.setReg64_bgFailed (pg off v : Nat) : (d.setReg64 pg off v).bgFailed = d.bgFailed := (reports_setReg64 pg off v).bgFailed
@[simp] theorem Dev.setReg64_ddrLaid (pg off v : Nat) : (d.setReg64 pg off v).ddrLaid = d.ddrLaid := (reports_setReg64 pg off v).ddrLaid
@[simp] theorem Dev.setReg64_platens (pg off v : Nat) : (d.setReg64 pg off v).platens = d.platens := (reports_setReg64 pg off v).platens
@[simp] theorem Dev.setReg64_vc2 (pg off v : Nat) : (d.setReg64 pg off v).vc2 = d.vc2 := (reports_setReg64 pg off v).vc2
@[simp] theorem Dev.setReg64_vc0 (pg off v : Nat) : (d.setReg64 pg off v).vc0 = d.vc0 := (reports_setReg64 pg off v).vc0
@[simp] theorem Dev.setReg64_links (pg off v : Nat) : (d.setReg64 pg off v).links = d.links := (reports_setReg64 pg off v).links
@[simp] theorem Dev.setReg64_cows (pg off v : Nat) : (d.setReg64 pg off v).cows = d.cows := (reports_setReg64 pg off v).cows
@[simp] theorem Dev.setReg64_colls (pg off v : Nat) : (d.setReg64 pg off v).colls = d.colls := (reports_setReg64 pg off v).colls
@[simp] theorem Dev.setReg64_servo (pg off v : Nat) : (d.setReg64 pg off v).servo = d.servo := (reports_setReg64 pg off v).servo
@[simp] theorem Dev.setReg64_out (pg off v : Nat) : (d.setReg64 pg off v).out = d.out := (reports_setReg64 pg off v).out
@[simp] theorem Dev.setReg64_opens (pg off v : Nat) : (d.setReg64 pg off v).opens = d.opens := (reports_setReg64 pg off v).opens
@[simp] theorem Dev.setReg64_shakes (pg off v : Nat) : (d.setReg64 pg off v).shakes = d.shakes := (reports_setReg64 pg off v).shakes
@[simp] theorem Dev.setReg64_signQ (pg off v : Nat) : (d.setReg64 pg off v).signQ = d.signQ := (reports_setReg64 pg off v).signQ
@[simp] theorem Dev.setReg64_oldSa (pg off v : Nat) : (d.setReg64 pg off v).oldSa = d.oldSa := (reports_setReg64 pg off v).oldSa
@[simp] theorem Dev.setReg64_proofs (pg off v : Nat) : (d.setReg64 pg off v).proofs = d.proofs := (reports_setReg64 pg off v).proofs
@[simp] theorem Dev.setReg64_gens (pg off v : Nat) : (d.setReg64 pg off v).gens = d.gens := (reports_setReg64 pg off v).gens
@[simp] theorem Dev.setReg64_genNext (pg off v : Nat) : (d.setReg64 pg off v).genNext = d.genNext := (reports_setReg64 pg off v).genNext
@[simp] theorem Dev.setReg64_parents (pg off v : Nat) : (d.setReg64 pg off v).parents = d.parents := (reports_setReg64 pg off v).parents
@[simp] theorem Dev.setReg64_sinceDrain (pg off v : Nat) : (d.setReg64 pg off v).sinceDrain = d.sinceDrain := (reports_setReg64 pg off v).sinceDrain
@[simp] theorem Dev.setReg64_drainQ (pg off v : Nat) : (d.setReg64 pg off v).drainQ = d.drainQ := (reports_setReg64 pg off v).drainQ
@[simp] theorem Dev.setReg64_drain (pg off v : Nat) : (d.setReg64 pg off v).drain = d.drain := (reports_setReg64 pg off v).drain
@[simp] theorem Dev.setReg64_saveHold (pg off v : Nat) : (d.setReg64 pg off v).saveHold = d.saveHold := (reports_setReg64 pg off v).saveHold
@[simp] theorem Dev.setReg64_meters (pg off v : Nat) : (d.setReg64 pg off v).meters = d.meters := (reports_setReg64 pg off v).meters
@[simp] theorem Dev.setReg64_freeCount (pg off v : Nat) : (d.setReg64 pg off v).freeCount = d.freeCount := (reports_setReg64 pg off v).freeCount
@[simp] theorem Dev.core_setReg64 (pg off v : Nat) (i : Nat) : (d.setReg64 pg off v).core i = d.core i := (reports_setReg64 pg off v).core i
@[simp] theorem Dev.die_setReg64 (pg off v : Nat) (i : Nat) : (d.setReg64 pg off v).die i = d.die i := (reports_setReg64 pg off v).die i
@[simp] theorem Dev.part_setReg64 (pg off v : Nat) (i : Nat) : (d.setReg64 pg off v).part i = d.part i := (reports_setReg64 pg off v).part i
@[simp] theorem Dev.dma_setReg64 (pg off v : Nat) (i : Nat) : (d.setReg64 pg off v).dma i = d.dma i := (reports_setReg64 pg off v).dma i
@[simp] theorem Dev.platen_setReg64 (pg off v : Nat) (i : Nat) : (d.setReg64 pg off v).platen i = d.platen i := (reports_setReg64 pg off v).platen i
@[simp] theorem Dev.link_setReg64 (pg off v : Nat) (i : Nat) : (d.setReg64 pg off v).link i = d.link i := (reports_setReg64 pg off v).link i
@[simp] theorem Dev.coll_setReg64 (pg off v : Nat) (i : Nat) : (d.setReg64 pg off v).coll i = d.coll i := (reports_setReg64 pg off v).coll i
@[simp] theorem Dev.cow_setReg64 (pg off v : Nat) (i : Nat) : (d.setReg64 pg off v).cow i = d.cow i := (reports_setReg64 pg off v).cow i
@[simp] theorem Dev.proof_setReg64 (pg off v : Nat) (i : Nat) : (d.setReg64 pg off v).proof i = d.proof i := (reports_setReg64 pg off v).proof i
@[simp] theorem Dev.gen_setReg64 (pg off v : Nat) (i : Nat) : (d.setReg64 pg off v).gen i = d.gen i := (reports_setReg64 pg off v).gen i

@[simp] theorem Dev.resetRegs_mem (pg off n : Nat) : (d.resetRegs pg off n).mem = d.mem := (reports_resetRegs pg off n).mem
@[simp] theorem Dev.resetRegs_ecc (pg off n : Nat) : (d.resetRegs pg off n).ecc = d.ecc := (reports_resetRegs pg off n).ecc
@[simp] theorem Dev.resetRegs_time (pg off n : Nat) : (d.resetRegs pg off n).time = d.time := (reports_resetRegs pg off n).time
@[simp] theorem Dev.resetRegs_timeFrac (pg off n : Nat) : (d.resetRegs pg off n).timeFrac = d.timeFrac := (reports_resetRegs pg off n).timeFrac
@[simp] theorem Dev.resetRegs_dies (pg off n : Nat) : (d.resetRegs pg off n).dies = d.dies := (reports_resetRegs pg off n).dies
@[simp] theorem Dev.resetRegs_temps (pg off n : Nat) : (d.resetRegs pg off n).temps = d.temps := (reports_resetRegs pg off n).temps
@[simp] theorem Dev.resetRegs_warned (pg off n : Nat) : (d.resetRegs pg off n).warned = d.warned := (reports_resetRegs pg off n).warned
@[simp] theorem Dev.resetRegs_hots (pg off n : Nat) : (d.resetRegs pg off n).hots = d.hots := (reports_resetRegs pg off n).hots
@[simp] theorem Dev.resetRegs_parts (pg off n : Nat) : (d.resetRegs pg off n).parts = d.parts := (reports_resetRegs pg off n).parts
@[simp] theorem Dev.resetRegs_cores (pg off n : Nat) : (d.resetRegs pg off n).cores = d.cores := (reports_resetRegs pg off n).cores
@[simp] theorem Dev.resetRegs_flights (pg off n : Nat) : (d.resetRegs pg off n).flights = d.flights := (reports_resetRegs pg off n).flights
@[simp] theorem Dev.resetRegs_dmas (pg off n : Nat) : (d.resetRegs pg off n).dmas = d.dmas := (reports_resetRegs pg off n).dmas
@[simp] theorem Dev.resetRegs_bgFailed (pg off n : Nat) : (d.resetRegs pg off n).bgFailed = d.bgFailed := (reports_resetRegs pg off n).bgFailed
@[simp] theorem Dev.resetRegs_ddrLaid (pg off n : Nat) : (d.resetRegs pg off n).ddrLaid = d.ddrLaid := (reports_resetRegs pg off n).ddrLaid
@[simp] theorem Dev.resetRegs_platens (pg off n : Nat) : (d.resetRegs pg off n).platens = d.platens := (reports_resetRegs pg off n).platens
@[simp] theorem Dev.resetRegs_vc2 (pg off n : Nat) : (d.resetRegs pg off n).vc2 = d.vc2 := (reports_resetRegs pg off n).vc2
@[simp] theorem Dev.resetRegs_vc0 (pg off n : Nat) : (d.resetRegs pg off n).vc0 = d.vc0 := (reports_resetRegs pg off n).vc0
@[simp] theorem Dev.resetRegs_links (pg off n : Nat) : (d.resetRegs pg off n).links = d.links := (reports_resetRegs pg off n).links
@[simp] theorem Dev.resetRegs_cows (pg off n : Nat) : (d.resetRegs pg off n).cows = d.cows := (reports_resetRegs pg off n).cows
@[simp] theorem Dev.resetRegs_colls (pg off n : Nat) : (d.resetRegs pg off n).colls = d.colls := (reports_resetRegs pg off n).colls
@[simp] theorem Dev.resetRegs_servo (pg off n : Nat) : (d.resetRegs pg off n).servo = d.servo := (reports_resetRegs pg off n).servo
@[simp] theorem Dev.resetRegs_out (pg off n : Nat) : (d.resetRegs pg off n).out = d.out := (reports_resetRegs pg off n).out
@[simp] theorem Dev.resetRegs_opens (pg off n : Nat) : (d.resetRegs pg off n).opens = d.opens := (reports_resetRegs pg off n).opens
@[simp] theorem Dev.resetRegs_shakes (pg off n : Nat) : (d.resetRegs pg off n).shakes = d.shakes := (reports_resetRegs pg off n).shakes
@[simp] theorem Dev.resetRegs_signQ (pg off n : Nat) : (d.resetRegs pg off n).signQ = d.signQ := (reports_resetRegs pg off n).signQ
@[simp] theorem Dev.resetRegs_oldSa (pg off n : Nat) : (d.resetRegs pg off n).oldSa = d.oldSa := (reports_resetRegs pg off n).oldSa
@[simp] theorem Dev.resetRegs_proofs (pg off n : Nat) : (d.resetRegs pg off n).proofs = d.proofs := (reports_resetRegs pg off n).proofs
@[simp] theorem Dev.resetRegs_gens (pg off n : Nat) : (d.resetRegs pg off n).gens = d.gens := (reports_resetRegs pg off n).gens
@[simp] theorem Dev.resetRegs_genNext (pg off n : Nat) : (d.resetRegs pg off n).genNext = d.genNext := (reports_resetRegs pg off n).genNext
@[simp] theorem Dev.resetRegs_parents (pg off n : Nat) : (d.resetRegs pg off n).parents = d.parents := (reports_resetRegs pg off n).parents
@[simp] theorem Dev.resetRegs_sinceDrain (pg off n : Nat) : (d.resetRegs pg off n).sinceDrain = d.sinceDrain := (reports_resetRegs pg off n).sinceDrain
@[simp] theorem Dev.resetRegs_drainQ (pg off n : Nat) : (d.resetRegs pg off n).drainQ = d.drainQ := (reports_resetRegs pg off n).drainQ
@[simp] theorem Dev.resetRegs_drain (pg off n : Nat) : (d.resetRegs pg off n).drain = d.drain := (reports_resetRegs pg off n).drain
@[simp] theorem Dev.resetRegs_saveHold (pg off n : Nat) : (d.resetRegs pg off n).saveHold = d.saveHold := (reports_resetRegs pg off n).saveHold
@[simp] theorem Dev.resetRegs_meters (pg off n : Nat) : (d.resetRegs pg off n).meters = d.meters := (reports_resetRegs pg off n).meters
@[simp] theorem Dev.resetRegs_freeCount (pg off n : Nat) : (d.resetRegs pg off n).freeCount = d.freeCount := (reports_resetRegs pg off n).freeCount
@[simp] theorem Dev.core_resetRegs (pg off n : Nat) (i : Nat) : (d.resetRegs pg off n).core i = d.core i := (reports_resetRegs pg off n).core i
@[simp] theorem Dev.die_resetRegs (pg off n : Nat) (i : Nat) : (d.resetRegs pg off n).die i = d.die i := (reports_resetRegs pg off n).die i
@[simp] theorem Dev.part_resetRegs (pg off n : Nat) (i : Nat) : (d.resetRegs pg off n).part i = d.part i := (reports_resetRegs pg off n).part i
@[simp] theorem Dev.dma_resetRegs (pg off n : Nat) (i : Nat) : (d.resetRegs pg off n).dma i = d.dma i := (reports_resetRegs pg off n).dma i
@[simp] theorem Dev.platen_resetRegs (pg off n : Nat) (i : Nat) : (d.resetRegs pg off n).platen i = d.platen i := (reports_resetRegs pg off n).platen i
@[simp] theorem Dev.link_resetRegs (pg off n : Nat) (i : Nat) : (d.resetRegs pg off n).link i = d.link i := (reports_resetRegs pg off n).link i
@[simp] theorem Dev.coll_resetRegs (pg off n : Nat) (i : Nat) : (d.resetRegs pg off n).coll i = d.coll i := (reports_resetRegs pg off n).coll i
@[simp] theorem Dev.cow_resetRegs (pg off n : Nat) (i : Nat) : (d.resetRegs pg off n).cow i = d.cow i := (reports_resetRegs pg off n).cow i
@[simp] theorem Dev.proof_resetRegs (pg off n : Nat) (i : Nat) : (d.resetRegs pg off n).proof i = d.proof i := (reports_resetRegs pg off n).proof i
@[simp] theorem Dev.gen_resetRegs (pg off n : Nat) (i : Nat) : (d.resetRegs pg off n).gen i = d.gen i := (reports_resetRegs pg off n).gen i

@[simp] theorem Dev.notify_mem (pg : Nat) (w : Word) : (d.notify pg w).mem = d.mem := (reports_notify pg w).mem
@[simp] theorem Dev.notify_ecc (pg : Nat) (w : Word) : (d.notify pg w).ecc = d.ecc := (reports_notify pg w).ecc
@[simp] theorem Dev.notify_time (pg : Nat) (w : Word) : (d.notify pg w).time = d.time := (reports_notify pg w).time
@[simp] theorem Dev.notify_timeFrac (pg : Nat) (w : Word) : (d.notify pg w).timeFrac = d.timeFrac := (reports_notify pg w).timeFrac
@[simp] theorem Dev.notify_dies (pg : Nat) (w : Word) : (d.notify pg w).dies = d.dies := (reports_notify pg w).dies
@[simp] theorem Dev.notify_temps (pg : Nat) (w : Word) : (d.notify pg w).temps = d.temps := (reports_notify pg w).temps
@[simp] theorem Dev.notify_warned (pg : Nat) (w : Word) : (d.notify pg w).warned = d.warned := (reports_notify pg w).warned
@[simp] theorem Dev.notify_hots (pg : Nat) (w : Word) : (d.notify pg w).hots = d.hots := (reports_notify pg w).hots
@[simp] theorem Dev.notify_parts (pg : Nat) (w : Word) : (d.notify pg w).parts = d.parts := (reports_notify pg w).parts
@[simp] theorem Dev.notify_cores (pg : Nat) (w : Word) : (d.notify pg w).cores = d.cores := (reports_notify pg w).cores
@[simp] theorem Dev.notify_flights (pg : Nat) (w : Word) : (d.notify pg w).flights = d.flights := (reports_notify pg w).flights
@[simp] theorem Dev.notify_dmas (pg : Nat) (w : Word) : (d.notify pg w).dmas = d.dmas := (reports_notify pg w).dmas
@[simp] theorem Dev.notify_bgFailed (pg : Nat) (w : Word) : (d.notify pg w).bgFailed = d.bgFailed := (reports_notify pg w).bgFailed
@[simp] theorem Dev.notify_ddrLaid (pg : Nat) (w : Word) : (d.notify pg w).ddrLaid = d.ddrLaid := (reports_notify pg w).ddrLaid
@[simp] theorem Dev.notify_platens (pg : Nat) (w : Word) : (d.notify pg w).platens = d.platens := (reports_notify pg w).platens
@[simp] theorem Dev.notify_vc2 (pg : Nat) (w : Word) : (d.notify pg w).vc2 = d.vc2 := (reports_notify pg w).vc2
@[simp] theorem Dev.notify_vc0 (pg : Nat) (w : Word) : (d.notify pg w).vc0 = d.vc0 := (reports_notify pg w).vc0
@[simp] theorem Dev.notify_links (pg : Nat) (w : Word) : (d.notify pg w).links = d.links := (reports_notify pg w).links
@[simp] theorem Dev.notify_cows (pg : Nat) (w : Word) : (d.notify pg w).cows = d.cows := (reports_notify pg w).cows
@[simp] theorem Dev.notify_colls (pg : Nat) (w : Word) : (d.notify pg w).colls = d.colls := (reports_notify pg w).colls
@[simp] theorem Dev.notify_servo (pg : Nat) (w : Word) : (d.notify pg w).servo = d.servo := (reports_notify pg w).servo
@[simp] theorem Dev.notify_out (pg : Nat) (w : Word) : (d.notify pg w).out = d.out := (reports_notify pg w).out
@[simp] theorem Dev.notify_opens (pg : Nat) (w : Word) : (d.notify pg w).opens = d.opens := (reports_notify pg w).opens
@[simp] theorem Dev.notify_shakes (pg : Nat) (w : Word) : (d.notify pg w).shakes = d.shakes := (reports_notify pg w).shakes
@[simp] theorem Dev.notify_signQ (pg : Nat) (w : Word) : (d.notify pg w).signQ = d.signQ := (reports_notify pg w).signQ
@[simp] theorem Dev.notify_oldSa (pg : Nat) (w : Word) : (d.notify pg w).oldSa = d.oldSa := (reports_notify pg w).oldSa
@[simp] theorem Dev.notify_proofs (pg : Nat) (w : Word) : (d.notify pg w).proofs = d.proofs := (reports_notify pg w).proofs
@[simp] theorem Dev.notify_gens (pg : Nat) (w : Word) : (d.notify pg w).gens = d.gens := (reports_notify pg w).gens
@[simp] theorem Dev.notify_genNext (pg : Nat) (w : Word) : (d.notify pg w).genNext = d.genNext := (reports_notify pg w).genNext
@[simp] theorem Dev.notify_parents (pg : Nat) (w : Word) : (d.notify pg w).parents = d.parents := (reports_notify pg w).parents
@[simp] theorem Dev.notify_sinceDrain (pg : Nat) (w : Word) : (d.notify pg w).sinceDrain = d.sinceDrain := (reports_notify pg w).sinceDrain
@[simp] theorem Dev.notify_drainQ (pg : Nat) (w : Word) : (d.notify pg w).drainQ = d.drainQ := (reports_notify pg w).drainQ
@[simp] theorem Dev.notify_drain (pg : Nat) (w : Word) : (d.notify pg w).drain = d.drain := (reports_notify pg w).drain
@[simp] theorem Dev.notify_saveHold (pg : Nat) (w : Word) : (d.notify pg w).saveHold = d.saveHold := (reports_notify pg w).saveHold
@[simp] theorem Dev.notify_meters (pg : Nat) (w : Word) : (d.notify pg w).meters = d.meters := (reports_notify pg w).meters
@[simp] theorem Dev.notify_freeCount (pg : Nat) (w : Word) : (d.notify pg w).freeCount = d.freeCount := (reports_notify pg w).freeCount
@[simp] theorem Dev.core_notify (pg : Nat) (w : Word) (i : Nat) : (d.notify pg w).core i = d.core i := (reports_notify pg w).core i
@[simp] theorem Dev.die_notify (pg : Nat) (w : Word) (i : Nat) : (d.notify pg w).die i = d.die i := (reports_notify pg w).die i
@[simp] theorem Dev.part_notify (pg : Nat) (w : Word) (i : Nat) : (d.notify pg w).part i = d.part i := (reports_notify pg w).part i
@[simp] theorem Dev.dma_notify (pg : Nat) (w : Word) (i : Nat) : (d.notify pg w).dma i = d.dma i := (reports_notify pg w).dma i
@[simp] theorem Dev.platen_notify (pg : Nat) (w : Word) (i : Nat) : (d.notify pg w).platen i = d.platen i := (reports_notify pg w).platen i
@[simp] theorem Dev.link_notify (pg : Nat) (w : Word) (i : Nat) : (d.notify pg w).link i = d.link i := (reports_notify pg w).link i
@[simp] theorem Dev.coll_notify (pg : Nat) (w : Word) (i : Nat) : (d.notify pg w).coll i = d.coll i := (reports_notify pg w).coll i
@[simp] theorem Dev.cow_notify (pg : Nat) (w : Word) (i : Nat) : (d.notify pg w).cow i = d.cow i := (reports_notify pg w).cow i
@[simp] theorem Dev.proof_notify (pg : Nat) (w : Word) (i : Nat) : (d.notify pg w).proof i = d.proof i := (reports_notify pg w).proof i
@[simp] theorem Dev.gen_notify (pg : Nat) (w : Word) (i : Nat) : (d.notify pg w).gen i = d.gen i := (reports_notify pg w).gen i

@[simp] theorem Dev.raise_mem (pg b : Nat) : (d.raise pg b).mem = d.mem := (reports_raise pg b).mem
@[simp] theorem Dev.raise_ecc (pg b : Nat) : (d.raise pg b).ecc = d.ecc := (reports_raise pg b).ecc
@[simp] theorem Dev.raise_time (pg b : Nat) : (d.raise pg b).time = d.time := (reports_raise pg b).time
@[simp] theorem Dev.raise_timeFrac (pg b : Nat) : (d.raise pg b).timeFrac = d.timeFrac := (reports_raise pg b).timeFrac
@[simp] theorem Dev.raise_dies (pg b : Nat) : (d.raise pg b).dies = d.dies := (reports_raise pg b).dies
@[simp] theorem Dev.raise_temps (pg b : Nat) : (d.raise pg b).temps = d.temps := (reports_raise pg b).temps
@[simp] theorem Dev.raise_warned (pg b : Nat) : (d.raise pg b).warned = d.warned := (reports_raise pg b).warned
@[simp] theorem Dev.raise_hots (pg b : Nat) : (d.raise pg b).hots = d.hots := (reports_raise pg b).hots
@[simp] theorem Dev.raise_parts (pg b : Nat) : (d.raise pg b).parts = d.parts := (reports_raise pg b).parts
@[simp] theorem Dev.raise_cores (pg b : Nat) : (d.raise pg b).cores = d.cores := (reports_raise pg b).cores
@[simp] theorem Dev.raise_flights (pg b : Nat) : (d.raise pg b).flights = d.flights := (reports_raise pg b).flights
@[simp] theorem Dev.raise_dmas (pg b : Nat) : (d.raise pg b).dmas = d.dmas := (reports_raise pg b).dmas
@[simp] theorem Dev.raise_bgFailed (pg b : Nat) : (d.raise pg b).bgFailed = d.bgFailed := (reports_raise pg b).bgFailed
@[simp] theorem Dev.raise_ddrLaid (pg b : Nat) : (d.raise pg b).ddrLaid = d.ddrLaid := (reports_raise pg b).ddrLaid
@[simp] theorem Dev.raise_platens (pg b : Nat) : (d.raise pg b).platens = d.platens := (reports_raise pg b).platens
@[simp] theorem Dev.raise_vc2 (pg b : Nat) : (d.raise pg b).vc2 = d.vc2 := (reports_raise pg b).vc2
@[simp] theorem Dev.raise_vc0 (pg b : Nat) : (d.raise pg b).vc0 = d.vc0 := (reports_raise pg b).vc0
@[simp] theorem Dev.raise_links (pg b : Nat) : (d.raise pg b).links = d.links := (reports_raise pg b).links
@[simp] theorem Dev.raise_cows (pg b : Nat) : (d.raise pg b).cows = d.cows := (reports_raise pg b).cows
@[simp] theorem Dev.raise_colls (pg b : Nat) : (d.raise pg b).colls = d.colls := (reports_raise pg b).colls
@[simp] theorem Dev.raise_servo (pg b : Nat) : (d.raise pg b).servo = d.servo := (reports_raise pg b).servo
@[simp] theorem Dev.raise_out (pg b : Nat) : (d.raise pg b).out = d.out := (reports_raise pg b).out
@[simp] theorem Dev.raise_opens (pg b : Nat) : (d.raise pg b).opens = d.opens := (reports_raise pg b).opens
@[simp] theorem Dev.raise_shakes (pg b : Nat) : (d.raise pg b).shakes = d.shakes := (reports_raise pg b).shakes
@[simp] theorem Dev.raise_signQ (pg b : Nat) : (d.raise pg b).signQ = d.signQ := (reports_raise pg b).signQ
@[simp] theorem Dev.raise_oldSa (pg b : Nat) : (d.raise pg b).oldSa = d.oldSa := (reports_raise pg b).oldSa
@[simp] theorem Dev.raise_proofs (pg b : Nat) : (d.raise pg b).proofs = d.proofs := (reports_raise pg b).proofs
@[simp] theorem Dev.raise_gens (pg b : Nat) : (d.raise pg b).gens = d.gens := (reports_raise pg b).gens
@[simp] theorem Dev.raise_genNext (pg b : Nat) : (d.raise pg b).genNext = d.genNext := (reports_raise pg b).genNext
@[simp] theorem Dev.raise_parents (pg b : Nat) : (d.raise pg b).parents = d.parents := (reports_raise pg b).parents
@[simp] theorem Dev.raise_sinceDrain (pg b : Nat) : (d.raise pg b).sinceDrain = d.sinceDrain := (reports_raise pg b).sinceDrain
@[simp] theorem Dev.raise_drainQ (pg b : Nat) : (d.raise pg b).drainQ = d.drainQ := (reports_raise pg b).drainQ
@[simp] theorem Dev.raise_drain (pg b : Nat) : (d.raise pg b).drain = d.drain := (reports_raise pg b).drain
@[simp] theorem Dev.raise_saveHold (pg b : Nat) : (d.raise pg b).saveHold = d.saveHold := (reports_raise pg b).saveHold
@[simp] theorem Dev.raise_meters (pg b : Nat) : (d.raise pg b).meters = d.meters := (reports_raise pg b).meters
@[simp] theorem Dev.raise_freeCount (pg b : Nat) : (d.raise pg b).freeCount = d.freeCount := (reports_raise pg b).freeCount
@[simp] theorem Dev.core_raise (pg b : Nat) (i : Nat) : (d.raise pg b).core i = d.core i := (reports_raise pg b).core i
@[simp] theorem Dev.die_raise (pg b : Nat) (i : Nat) : (d.raise pg b).die i = d.die i := (reports_raise pg b).die i
@[simp] theorem Dev.part_raise (pg b : Nat) (i : Nat) : (d.raise pg b).part i = d.part i := (reports_raise pg b).part i
@[simp] theorem Dev.dma_raise (pg b : Nat) (i : Nat) : (d.raise pg b).dma i = d.dma i := (reports_raise pg b).dma i
@[simp] theorem Dev.platen_raise (pg b : Nat) (i : Nat) : (d.raise pg b).platen i = d.platen i := (reports_raise pg b).platen i
@[simp] theorem Dev.link_raise (pg b : Nat) (i : Nat) : (d.raise pg b).link i = d.link i := (reports_raise pg b).link i
@[simp] theorem Dev.coll_raise (pg b : Nat) (i : Nat) : (d.raise pg b).coll i = d.coll i := (reports_raise pg b).coll i
@[simp] theorem Dev.cow_raise (pg b : Nat) (i : Nat) : (d.raise pg b).cow i = d.cow i := (reports_raise pg b).cow i
@[simp] theorem Dev.proof_raise (pg b : Nat) (i : Nat) : (d.raise pg b).proof i = d.proof i := (reports_raise pg b).proof i
@[simp] theorem Dev.gen_raise (pg b : Nat) (i : Nat) : (d.raise pg b).gen i = d.gen i := (reports_raise pg b).gen i

@[simp] theorem Dev.raiseIf_mem (c : Bool) (pg b : Nat) : (d.raiseIf c pg b).mem = d.mem := (reports_raiseIf c pg b).mem
@[simp] theorem Dev.raiseIf_ecc (c : Bool) (pg b : Nat) : (d.raiseIf c pg b).ecc = d.ecc := (reports_raiseIf c pg b).ecc
@[simp] theorem Dev.raiseIf_time (c : Bool) (pg b : Nat) : (d.raiseIf c pg b).time = d.time := (reports_raiseIf c pg b).time
@[simp] theorem Dev.raiseIf_timeFrac (c : Bool) (pg b : Nat) : (d.raiseIf c pg b).timeFrac = d.timeFrac := (reports_raiseIf c pg b).timeFrac
@[simp] theorem Dev.raiseIf_dies (c : Bool) (pg b : Nat) : (d.raiseIf c pg b).dies = d.dies := (reports_raiseIf c pg b).dies
@[simp] theorem Dev.raiseIf_temps (c : Bool) (pg b : Nat) : (d.raiseIf c pg b).temps = d.temps := (reports_raiseIf c pg b).temps
@[simp] theorem Dev.raiseIf_warned (c : Bool) (pg b : Nat) : (d.raiseIf c pg b).warned = d.warned := (reports_raiseIf c pg b).warned
@[simp] theorem Dev.raiseIf_hots (c : Bool) (pg b : Nat) : (d.raiseIf c pg b).hots = d.hots := (reports_raiseIf c pg b).hots
@[simp] theorem Dev.raiseIf_parts (c : Bool) (pg b : Nat) : (d.raiseIf c pg b).parts = d.parts := (reports_raiseIf c pg b).parts
@[simp] theorem Dev.raiseIf_cores (c : Bool) (pg b : Nat) : (d.raiseIf c pg b).cores = d.cores := (reports_raiseIf c pg b).cores
@[simp] theorem Dev.raiseIf_flights (c : Bool) (pg b : Nat) : (d.raiseIf c pg b).flights = d.flights := (reports_raiseIf c pg b).flights
@[simp] theorem Dev.raiseIf_dmas (c : Bool) (pg b : Nat) : (d.raiseIf c pg b).dmas = d.dmas := (reports_raiseIf c pg b).dmas
@[simp] theorem Dev.raiseIf_bgFailed (c : Bool) (pg b : Nat) : (d.raiseIf c pg b).bgFailed = d.bgFailed := (reports_raiseIf c pg b).bgFailed
@[simp] theorem Dev.raiseIf_ddrLaid (c : Bool) (pg b : Nat) : (d.raiseIf c pg b).ddrLaid = d.ddrLaid := (reports_raiseIf c pg b).ddrLaid
@[simp] theorem Dev.raiseIf_platens (c : Bool) (pg b : Nat) : (d.raiseIf c pg b).platens = d.platens := (reports_raiseIf c pg b).platens
@[simp] theorem Dev.raiseIf_vc2 (c : Bool) (pg b : Nat) : (d.raiseIf c pg b).vc2 = d.vc2 := (reports_raiseIf c pg b).vc2
@[simp] theorem Dev.raiseIf_vc0 (c : Bool) (pg b : Nat) : (d.raiseIf c pg b).vc0 = d.vc0 := (reports_raiseIf c pg b).vc0
@[simp] theorem Dev.raiseIf_links (c : Bool) (pg b : Nat) : (d.raiseIf c pg b).links = d.links := (reports_raiseIf c pg b).links
@[simp] theorem Dev.raiseIf_cows (c : Bool) (pg b : Nat) : (d.raiseIf c pg b).cows = d.cows := (reports_raiseIf c pg b).cows
@[simp] theorem Dev.raiseIf_colls (c : Bool) (pg b : Nat) : (d.raiseIf c pg b).colls = d.colls := (reports_raiseIf c pg b).colls
@[simp] theorem Dev.raiseIf_servo (c : Bool) (pg b : Nat) : (d.raiseIf c pg b).servo = d.servo := (reports_raiseIf c pg b).servo
@[simp] theorem Dev.raiseIf_out (c : Bool) (pg b : Nat) : (d.raiseIf c pg b).out = d.out := (reports_raiseIf c pg b).out
@[simp] theorem Dev.raiseIf_opens (c : Bool) (pg b : Nat) : (d.raiseIf c pg b).opens = d.opens := (reports_raiseIf c pg b).opens
@[simp] theorem Dev.raiseIf_shakes (c : Bool) (pg b : Nat) : (d.raiseIf c pg b).shakes = d.shakes := (reports_raiseIf c pg b).shakes
@[simp] theorem Dev.raiseIf_signQ (c : Bool) (pg b : Nat) : (d.raiseIf c pg b).signQ = d.signQ := (reports_raiseIf c pg b).signQ
@[simp] theorem Dev.raiseIf_oldSa (c : Bool) (pg b : Nat) : (d.raiseIf c pg b).oldSa = d.oldSa := (reports_raiseIf c pg b).oldSa
@[simp] theorem Dev.raiseIf_proofs (c : Bool) (pg b : Nat) : (d.raiseIf c pg b).proofs = d.proofs := (reports_raiseIf c pg b).proofs
@[simp] theorem Dev.raiseIf_gens (c : Bool) (pg b : Nat) : (d.raiseIf c pg b).gens = d.gens := (reports_raiseIf c pg b).gens
@[simp] theorem Dev.raiseIf_genNext (c : Bool) (pg b : Nat) : (d.raiseIf c pg b).genNext = d.genNext := (reports_raiseIf c pg b).genNext
@[simp] theorem Dev.raiseIf_parents (c : Bool) (pg b : Nat) : (d.raiseIf c pg b).parents = d.parents := (reports_raiseIf c pg b).parents
@[simp] theorem Dev.raiseIf_sinceDrain (c : Bool) (pg b : Nat) : (d.raiseIf c pg b).sinceDrain = d.sinceDrain := (reports_raiseIf c pg b).sinceDrain
@[simp] theorem Dev.raiseIf_drainQ (c : Bool) (pg b : Nat) : (d.raiseIf c pg b).drainQ = d.drainQ := (reports_raiseIf c pg b).drainQ
@[simp] theorem Dev.raiseIf_drain (c : Bool) (pg b : Nat) : (d.raiseIf c pg b).drain = d.drain := (reports_raiseIf c pg b).drain
@[simp] theorem Dev.raiseIf_saveHold (c : Bool) (pg b : Nat) : (d.raiseIf c pg b).saveHold = d.saveHold := (reports_raiseIf c pg b).saveHold
@[simp] theorem Dev.raiseIf_meters (c : Bool) (pg b : Nat) : (d.raiseIf c pg b).meters = d.meters := (reports_raiseIf c pg b).meters
@[simp] theorem Dev.raiseIf_freeCount (c : Bool) (pg b : Nat) : (d.raiseIf c pg b).freeCount = d.freeCount := (reports_raiseIf c pg b).freeCount
@[simp] theorem Dev.core_raiseIf (c : Bool) (pg b : Nat) (i : Nat) : (d.raiseIf c pg b).core i = d.core i := (reports_raiseIf c pg b).core i
@[simp] theorem Dev.die_raiseIf (c : Bool) (pg b : Nat) (i : Nat) : (d.raiseIf c pg b).die i = d.die i := (reports_raiseIf c pg b).die i
@[simp] theorem Dev.part_raiseIf (c : Bool) (pg b : Nat) (i : Nat) : (d.raiseIf c pg b).part i = d.part i := (reports_raiseIf c pg b).part i
@[simp] theorem Dev.dma_raiseIf (c : Bool) (pg b : Nat) (i : Nat) : (d.raiseIf c pg b).dma i = d.dma i := (reports_raiseIf c pg b).dma i
@[simp] theorem Dev.platen_raiseIf (c : Bool) (pg b : Nat) (i : Nat) : (d.raiseIf c pg b).platen i = d.platen i := (reports_raiseIf c pg b).platen i
@[simp] theorem Dev.link_raiseIf (c : Bool) (pg b : Nat) (i : Nat) : (d.raiseIf c pg b).link i = d.link i := (reports_raiseIf c pg b).link i
@[simp] theorem Dev.coll_raiseIf (c : Bool) (pg b : Nat) (i : Nat) : (d.raiseIf c pg b).coll i = d.coll i := (reports_raiseIf c pg b).coll i
@[simp] theorem Dev.cow_raiseIf (c : Bool) (pg b : Nat) (i : Nat) : (d.raiseIf c pg b).cow i = d.cow i := (reports_raiseIf c pg b).cow i
@[simp] theorem Dev.proof_raiseIf (c : Bool) (pg b : Nat) (i : Nat) : (d.raiseIf c pg b).proof i = d.proof i := (reports_raiseIf c pg b).proof i
@[simp] theorem Dev.gen_raiseIf (c : Bool) (pg b : Nat) (i : Nat) : (d.raiseIf c pg b).gen i = d.gen i := (reports_raiseIf c pg b).gen i

@[simp] theorem Dev.setError_mem (pg code i0 i1 : Nat) : (d.setError pg code i0 i1).mem = d.mem := (reports_setError pg code i0 i1).mem
@[simp] theorem Dev.setError_ecc (pg code i0 i1 : Nat) : (d.setError pg code i0 i1).ecc = d.ecc := (reports_setError pg code i0 i1).ecc
@[simp] theorem Dev.setError_time (pg code i0 i1 : Nat) : (d.setError pg code i0 i1).time = d.time := (reports_setError pg code i0 i1).time
@[simp] theorem Dev.setError_timeFrac (pg code i0 i1 : Nat) : (d.setError pg code i0 i1).timeFrac = d.timeFrac := (reports_setError pg code i0 i1).timeFrac
@[simp] theorem Dev.setError_dies (pg code i0 i1 : Nat) : (d.setError pg code i0 i1).dies = d.dies := (reports_setError pg code i0 i1).dies
@[simp] theorem Dev.setError_temps (pg code i0 i1 : Nat) : (d.setError pg code i0 i1).temps = d.temps := (reports_setError pg code i0 i1).temps
@[simp] theorem Dev.setError_warned (pg code i0 i1 : Nat) : (d.setError pg code i0 i1).warned = d.warned := (reports_setError pg code i0 i1).warned
@[simp] theorem Dev.setError_hots (pg code i0 i1 : Nat) : (d.setError pg code i0 i1).hots = d.hots := (reports_setError pg code i0 i1).hots
@[simp] theorem Dev.setError_parts (pg code i0 i1 : Nat) : (d.setError pg code i0 i1).parts = d.parts := (reports_setError pg code i0 i1).parts
@[simp] theorem Dev.setError_cores (pg code i0 i1 : Nat) : (d.setError pg code i0 i1).cores = d.cores := (reports_setError pg code i0 i1).cores
@[simp] theorem Dev.setError_flights (pg code i0 i1 : Nat) : (d.setError pg code i0 i1).flights = d.flights := (reports_setError pg code i0 i1).flights
@[simp] theorem Dev.setError_dmas (pg code i0 i1 : Nat) : (d.setError pg code i0 i1).dmas = d.dmas := (reports_setError pg code i0 i1).dmas
@[simp] theorem Dev.setError_bgFailed (pg code i0 i1 : Nat) : (d.setError pg code i0 i1).bgFailed = d.bgFailed := (reports_setError pg code i0 i1).bgFailed
@[simp] theorem Dev.setError_ddrLaid (pg code i0 i1 : Nat) : (d.setError pg code i0 i1).ddrLaid = d.ddrLaid := (reports_setError pg code i0 i1).ddrLaid
@[simp] theorem Dev.setError_platens (pg code i0 i1 : Nat) : (d.setError pg code i0 i1).platens = d.platens := (reports_setError pg code i0 i1).platens
@[simp] theorem Dev.setError_vc2 (pg code i0 i1 : Nat) : (d.setError pg code i0 i1).vc2 = d.vc2 := (reports_setError pg code i0 i1).vc2
@[simp] theorem Dev.setError_vc0 (pg code i0 i1 : Nat) : (d.setError pg code i0 i1).vc0 = d.vc0 := (reports_setError pg code i0 i1).vc0
@[simp] theorem Dev.setError_links (pg code i0 i1 : Nat) : (d.setError pg code i0 i1).links = d.links := (reports_setError pg code i0 i1).links
@[simp] theorem Dev.setError_cows (pg code i0 i1 : Nat) : (d.setError pg code i0 i1).cows = d.cows := (reports_setError pg code i0 i1).cows
@[simp] theorem Dev.setError_colls (pg code i0 i1 : Nat) : (d.setError pg code i0 i1).colls = d.colls := (reports_setError pg code i0 i1).colls
@[simp] theorem Dev.setError_servo (pg code i0 i1 : Nat) : (d.setError pg code i0 i1).servo = d.servo := (reports_setError pg code i0 i1).servo
@[simp] theorem Dev.setError_out (pg code i0 i1 : Nat) : (d.setError pg code i0 i1).out = d.out := (reports_setError pg code i0 i1).out
@[simp] theorem Dev.setError_opens (pg code i0 i1 : Nat) : (d.setError pg code i0 i1).opens = d.opens := (reports_setError pg code i0 i1).opens
@[simp] theorem Dev.setError_shakes (pg code i0 i1 : Nat) : (d.setError pg code i0 i1).shakes = d.shakes := (reports_setError pg code i0 i1).shakes
@[simp] theorem Dev.setError_signQ (pg code i0 i1 : Nat) : (d.setError pg code i0 i1).signQ = d.signQ := (reports_setError pg code i0 i1).signQ
@[simp] theorem Dev.setError_oldSa (pg code i0 i1 : Nat) : (d.setError pg code i0 i1).oldSa = d.oldSa := (reports_setError pg code i0 i1).oldSa
@[simp] theorem Dev.setError_proofs (pg code i0 i1 : Nat) : (d.setError pg code i0 i1).proofs = d.proofs := (reports_setError pg code i0 i1).proofs
@[simp] theorem Dev.setError_gens (pg code i0 i1 : Nat) : (d.setError pg code i0 i1).gens = d.gens := (reports_setError pg code i0 i1).gens
@[simp] theorem Dev.setError_genNext (pg code i0 i1 : Nat) : (d.setError pg code i0 i1).genNext = d.genNext := (reports_setError pg code i0 i1).genNext
@[simp] theorem Dev.setError_parents (pg code i0 i1 : Nat) : (d.setError pg code i0 i1).parents = d.parents := (reports_setError pg code i0 i1).parents
@[simp] theorem Dev.setError_sinceDrain (pg code i0 i1 : Nat) : (d.setError pg code i0 i1).sinceDrain = d.sinceDrain := (reports_setError pg code i0 i1).sinceDrain
@[simp] theorem Dev.setError_drainQ (pg code i0 i1 : Nat) : (d.setError pg code i0 i1).drainQ = d.drainQ := (reports_setError pg code i0 i1).drainQ
@[simp] theorem Dev.setError_drain (pg code i0 i1 : Nat) : (d.setError pg code i0 i1).drain = d.drain := (reports_setError pg code i0 i1).drain
@[simp] theorem Dev.setError_saveHold (pg code i0 i1 : Nat) : (d.setError pg code i0 i1).saveHold = d.saveHold := (reports_setError pg code i0 i1).saveHold
@[simp] theorem Dev.setError_meters (pg code i0 i1 : Nat) : (d.setError pg code i0 i1).meters = d.meters := (reports_setError pg code i0 i1).meters
@[simp] theorem Dev.setError_freeCount (pg code i0 i1 : Nat) : (d.setError pg code i0 i1).freeCount = d.freeCount := (reports_setError pg code i0 i1).freeCount
@[simp] theorem Dev.core_setError (pg code i0 i1 : Nat) (i : Nat) : (d.setError pg code i0 i1).core i = d.core i := (reports_setError pg code i0 i1).core i
@[simp] theorem Dev.die_setError (pg code i0 i1 : Nat) (i : Nat) : (d.setError pg code i0 i1).die i = d.die i := (reports_setError pg code i0 i1).die i
@[simp] theorem Dev.part_setError (pg code i0 i1 : Nat) (i : Nat) : (d.setError pg code i0 i1).part i = d.part i := (reports_setError pg code i0 i1).part i
@[simp] theorem Dev.dma_setError (pg code i0 i1 : Nat) (i : Nat) : (d.setError pg code i0 i1).dma i = d.dma i := (reports_setError pg code i0 i1).dma i
@[simp] theorem Dev.platen_setError (pg code i0 i1 : Nat) (i : Nat) : (d.setError pg code i0 i1).platen i = d.platen i := (reports_setError pg code i0 i1).platen i
@[simp] theorem Dev.link_setError (pg code i0 i1 : Nat) (i : Nat) : (d.setError pg code i0 i1).link i = d.link i := (reports_setError pg code i0 i1).link i
@[simp] theorem Dev.coll_setError (pg code i0 i1 : Nat) (i : Nat) : (d.setError pg code i0 i1).coll i = d.coll i := (reports_setError pg code i0 i1).coll i
@[simp] theorem Dev.cow_setError (pg code i0 i1 : Nat) (i : Nat) : (d.setError pg code i0 i1).cow i = d.cow i := (reports_setError pg code i0 i1).cow i
@[simp] theorem Dev.proof_setError (pg code i0 i1 : Nat) (i : Nat) : (d.setError pg code i0 i1).proof i = d.proof i := (reports_setError pg code i0 i1).proof i
@[simp] theorem Dev.gen_setError (pg code i0 i1 : Nat) (i : Nat) : (d.setError pg code i0 i1).gen i = d.gen i := (reports_setError pg code i0 i1).gen i

@[simp] theorem Dev.noteUncorr_mem (u : Nat) : (d.noteUncorr u).mem = d.mem := (reports_noteUncorr u).mem
@[simp] theorem Dev.noteUncorr_ecc (u : Nat) : (d.noteUncorr u).ecc = d.ecc := (reports_noteUncorr u).ecc
@[simp] theorem Dev.noteUncorr_time (u : Nat) : (d.noteUncorr u).time = d.time := (reports_noteUncorr u).time
@[simp] theorem Dev.noteUncorr_timeFrac (u : Nat) : (d.noteUncorr u).timeFrac = d.timeFrac := (reports_noteUncorr u).timeFrac
@[simp] theorem Dev.noteUncorr_dies (u : Nat) : (d.noteUncorr u).dies = d.dies := (reports_noteUncorr u).dies
@[simp] theorem Dev.noteUncorr_temps (u : Nat) : (d.noteUncorr u).temps = d.temps := (reports_noteUncorr u).temps
@[simp] theorem Dev.noteUncorr_warned (u : Nat) : (d.noteUncorr u).warned = d.warned := (reports_noteUncorr u).warned
@[simp] theorem Dev.noteUncorr_hots (u : Nat) : (d.noteUncorr u).hots = d.hots := (reports_noteUncorr u).hots
@[simp] theorem Dev.noteUncorr_parts (u : Nat) : (d.noteUncorr u).parts = d.parts := (reports_noteUncorr u).parts
@[simp] theorem Dev.noteUncorr_cores (u : Nat) : (d.noteUncorr u).cores = d.cores := (reports_noteUncorr u).cores
@[simp] theorem Dev.noteUncorr_flights (u : Nat) : (d.noteUncorr u).flights = d.flights := (reports_noteUncorr u).flights
@[simp] theorem Dev.noteUncorr_dmas (u : Nat) : (d.noteUncorr u).dmas = d.dmas := (reports_noteUncorr u).dmas
@[simp] theorem Dev.noteUncorr_bgFailed (u : Nat) : (d.noteUncorr u).bgFailed = d.bgFailed := (reports_noteUncorr u).bgFailed
@[simp] theorem Dev.noteUncorr_ddrLaid (u : Nat) : (d.noteUncorr u).ddrLaid = d.ddrLaid := (reports_noteUncorr u).ddrLaid
@[simp] theorem Dev.noteUncorr_platens (u : Nat) : (d.noteUncorr u).platens = d.platens := (reports_noteUncorr u).platens
@[simp] theorem Dev.noteUncorr_vc2 (u : Nat) : (d.noteUncorr u).vc2 = d.vc2 := (reports_noteUncorr u).vc2
@[simp] theorem Dev.noteUncorr_vc0 (u : Nat) : (d.noteUncorr u).vc0 = d.vc0 := (reports_noteUncorr u).vc0
@[simp] theorem Dev.noteUncorr_links (u : Nat) : (d.noteUncorr u).links = d.links := (reports_noteUncorr u).links
@[simp] theorem Dev.noteUncorr_cows (u : Nat) : (d.noteUncorr u).cows = d.cows := (reports_noteUncorr u).cows
@[simp] theorem Dev.noteUncorr_colls (u : Nat) : (d.noteUncorr u).colls = d.colls := (reports_noteUncorr u).colls
@[simp] theorem Dev.noteUncorr_servo (u : Nat) : (d.noteUncorr u).servo = d.servo := (reports_noteUncorr u).servo
@[simp] theorem Dev.noteUncorr_out (u : Nat) : (d.noteUncorr u).out = d.out := (reports_noteUncorr u).out
@[simp] theorem Dev.noteUncorr_opens (u : Nat) : (d.noteUncorr u).opens = d.opens := (reports_noteUncorr u).opens
@[simp] theorem Dev.noteUncorr_shakes (u : Nat) : (d.noteUncorr u).shakes = d.shakes := (reports_noteUncorr u).shakes
@[simp] theorem Dev.noteUncorr_signQ (u : Nat) : (d.noteUncorr u).signQ = d.signQ := (reports_noteUncorr u).signQ
@[simp] theorem Dev.noteUncorr_oldSa (u : Nat) : (d.noteUncorr u).oldSa = d.oldSa := (reports_noteUncorr u).oldSa
@[simp] theorem Dev.noteUncorr_proofs (u : Nat) : (d.noteUncorr u).proofs = d.proofs := (reports_noteUncorr u).proofs
@[simp] theorem Dev.noteUncorr_gens (u : Nat) : (d.noteUncorr u).gens = d.gens := (reports_noteUncorr u).gens
@[simp] theorem Dev.noteUncorr_genNext (u : Nat) : (d.noteUncorr u).genNext = d.genNext := (reports_noteUncorr u).genNext
@[simp] theorem Dev.noteUncorr_parents (u : Nat) : (d.noteUncorr u).parents = d.parents := (reports_noteUncorr u).parents
@[simp] theorem Dev.noteUncorr_sinceDrain (u : Nat) : (d.noteUncorr u).sinceDrain = d.sinceDrain := (reports_noteUncorr u).sinceDrain
@[simp] theorem Dev.noteUncorr_drainQ (u : Nat) : (d.noteUncorr u).drainQ = d.drainQ := (reports_noteUncorr u).drainQ
@[simp] theorem Dev.noteUncorr_drain (u : Nat) : (d.noteUncorr u).drain = d.drain := (reports_noteUncorr u).drain
@[simp] theorem Dev.noteUncorr_saveHold (u : Nat) : (d.noteUncorr u).saveHold = d.saveHold := (reports_noteUncorr u).saveHold
@[simp] theorem Dev.noteUncorr_meters (u : Nat) : (d.noteUncorr u).meters = d.meters := (reports_noteUncorr u).meters
@[simp] theorem Dev.noteUncorr_freeCount (u : Nat) : (d.noteUncorr u).freeCount = d.freeCount := (reports_noteUncorr u).freeCount
@[simp] theorem Dev.core_noteUncorr (u : Nat) (i : Nat) : (d.noteUncorr u).core i = d.core i := (reports_noteUncorr u).core i
@[simp] theorem Dev.die_noteUncorr (u : Nat) (i : Nat) : (d.noteUncorr u).die i = d.die i := (reports_noteUncorr u).die i
@[simp] theorem Dev.part_noteUncorr (u : Nat) (i : Nat) : (d.noteUncorr u).part i = d.part i := (reports_noteUncorr u).part i
@[simp] theorem Dev.dma_noteUncorr (u : Nat) (i : Nat) : (d.noteUncorr u).dma i = d.dma i := (reports_noteUncorr u).dma i
@[simp] theorem Dev.platen_noteUncorr (u : Nat) (i : Nat) : (d.noteUncorr u).platen i = d.platen i := (reports_noteUncorr u).platen i
@[simp] theorem Dev.link_noteUncorr (u : Nat) (i : Nat) : (d.noteUncorr u).link i = d.link i := (reports_noteUncorr u).link i
@[simp] theorem Dev.coll_noteUncorr (u : Nat) (i : Nat) : (d.noteUncorr u).coll i = d.coll i := (reports_noteUncorr u).coll i
@[simp] theorem Dev.cow_noteUncorr (u : Nat) (i : Nat) : (d.noteUncorr u).cow i = d.cow i := (reports_noteUncorr u).cow i
@[simp] theorem Dev.proof_noteUncorr (u : Nat) (i : Nat) : (d.noteUncorr u).proof i = d.proof i := (reports_noteUncorr u).proof i
@[simp] theorem Dev.gen_noteUncorr (u : Nat) (i : Nat) : (d.noteUncorr u).gen i = d.gen i := (reports_noteUncorr u).gen i

@[simp] theorem Dev.setErr_mem (e : ErrRec) : (d.setErr e).mem = d.mem := (reports_setErr e).mem
@[simp] theorem Dev.setErr_ecc (e : ErrRec) : (d.setErr e).ecc = d.ecc := (reports_setErr e).ecc
@[simp] theorem Dev.setErr_time (e : ErrRec) : (d.setErr e).time = d.time := (reports_setErr e).time
@[simp] theorem Dev.setErr_timeFrac (e : ErrRec) : (d.setErr e).timeFrac = d.timeFrac := (reports_setErr e).timeFrac
@[simp] theorem Dev.setErr_dies (e : ErrRec) : (d.setErr e).dies = d.dies := (reports_setErr e).dies
@[simp] theorem Dev.setErr_temps (e : ErrRec) : (d.setErr e).temps = d.temps := (reports_setErr e).temps
@[simp] theorem Dev.setErr_warned (e : ErrRec) : (d.setErr e).warned = d.warned := (reports_setErr e).warned
@[simp] theorem Dev.setErr_hots (e : ErrRec) : (d.setErr e).hots = d.hots := (reports_setErr e).hots
@[simp] theorem Dev.setErr_parts (e : ErrRec) : (d.setErr e).parts = d.parts := (reports_setErr e).parts
@[simp] theorem Dev.setErr_cores (e : ErrRec) : (d.setErr e).cores = d.cores := (reports_setErr e).cores
@[simp] theorem Dev.setErr_flights (e : ErrRec) : (d.setErr e).flights = d.flights := (reports_setErr e).flights
@[simp] theorem Dev.setErr_dmas (e : ErrRec) : (d.setErr e).dmas = d.dmas := (reports_setErr e).dmas
@[simp] theorem Dev.setErr_bgFailed (e : ErrRec) : (d.setErr e).bgFailed = d.bgFailed := (reports_setErr e).bgFailed
@[simp] theorem Dev.setErr_ddrLaid (e : ErrRec) : (d.setErr e).ddrLaid = d.ddrLaid := (reports_setErr e).ddrLaid
@[simp] theorem Dev.setErr_platens (e : ErrRec) : (d.setErr e).platens = d.platens := (reports_setErr e).platens
@[simp] theorem Dev.setErr_vc2 (e : ErrRec) : (d.setErr e).vc2 = d.vc2 := (reports_setErr e).vc2
@[simp] theorem Dev.setErr_vc0 (e : ErrRec) : (d.setErr e).vc0 = d.vc0 := (reports_setErr e).vc0
@[simp] theorem Dev.setErr_links (e : ErrRec) : (d.setErr e).links = d.links := (reports_setErr e).links
@[simp] theorem Dev.setErr_cows (e : ErrRec) : (d.setErr e).cows = d.cows := (reports_setErr e).cows
@[simp] theorem Dev.setErr_colls (e : ErrRec) : (d.setErr e).colls = d.colls := (reports_setErr e).colls
@[simp] theorem Dev.setErr_servo (e : ErrRec) : (d.setErr e).servo = d.servo := (reports_setErr e).servo
@[simp] theorem Dev.setErr_out (e : ErrRec) : (d.setErr e).out = d.out := (reports_setErr e).out
@[simp] theorem Dev.setErr_opens (e : ErrRec) : (d.setErr e).opens = d.opens := (reports_setErr e).opens
@[simp] theorem Dev.setErr_shakes (e : ErrRec) : (d.setErr e).shakes = d.shakes := (reports_setErr e).shakes
@[simp] theorem Dev.setErr_signQ (e : ErrRec) : (d.setErr e).signQ = d.signQ := (reports_setErr e).signQ
@[simp] theorem Dev.setErr_oldSa (e : ErrRec) : (d.setErr e).oldSa = d.oldSa := (reports_setErr e).oldSa
@[simp] theorem Dev.setErr_proofs (e : ErrRec) : (d.setErr e).proofs = d.proofs := (reports_setErr e).proofs
@[simp] theorem Dev.setErr_gens (e : ErrRec) : (d.setErr e).gens = d.gens := (reports_setErr e).gens
@[simp] theorem Dev.setErr_genNext (e : ErrRec) : (d.setErr e).genNext = d.genNext := (reports_setErr e).genNext
@[simp] theorem Dev.setErr_parents (e : ErrRec) : (d.setErr e).parents = d.parents := (reports_setErr e).parents
@[simp] theorem Dev.setErr_sinceDrain (e : ErrRec) : (d.setErr e).sinceDrain = d.sinceDrain := (reports_setErr e).sinceDrain
@[simp] theorem Dev.setErr_drainQ (e : ErrRec) : (d.setErr e).drainQ = d.drainQ := (reports_setErr e).drainQ
@[simp] theorem Dev.setErr_drain (e : ErrRec) : (d.setErr e).drain = d.drain := (reports_setErr e).drain
@[simp] theorem Dev.setErr_saveHold (e : ErrRec) : (d.setErr e).saveHold = d.saveHold := (reports_setErr e).saveHold
@[simp] theorem Dev.setErr_meters (e : ErrRec) : (d.setErr e).meters = d.meters := (reports_setErr e).meters
@[simp] theorem Dev.setErr_freeCount (e : ErrRec) : (d.setErr e).freeCount = d.freeCount := (reports_setErr e).freeCount
@[simp] theorem Dev.core_setErr (e : ErrRec) (i : Nat) : (d.setErr e).core i = d.core i := (reports_setErr e).core i
@[simp] theorem Dev.die_setErr (e : ErrRec) (i : Nat) : (d.setErr e).die i = d.die i := (reports_setErr e).die i
@[simp] theorem Dev.part_setErr (e : ErrRec) (i : Nat) : (d.setErr e).part i = d.part i := (reports_setErr e).part i
@[simp] theorem Dev.dma_setErr (e : ErrRec) (i : Nat) : (d.setErr e).dma i = d.dma i := (reports_setErr e).dma i
@[simp] theorem Dev.platen_setErr (e : ErrRec) (i : Nat) : (d.setErr e).platen i = d.platen i := (reports_setErr e).platen i
@[simp] theorem Dev.link_setErr (e : ErrRec) (i : Nat) : (d.setErr e).link i = d.link i := (reports_setErr e).link i
@[simp] theorem Dev.coll_setErr (e : ErrRec) (i : Nat) : (d.setErr e).coll i = d.coll i := (reports_setErr e).coll i
@[simp] theorem Dev.cow_setErr (e : ErrRec) (i : Nat) : (d.setErr e).cow i = d.cow i := (reports_setErr e).cow i
@[simp] theorem Dev.proof_setErr (e : ErrRec) (i : Nat) : (d.setErr e).proof i = d.proof i := (reports_setErr e).proof i
@[simp] theorem Dev.gen_setErr (e : ErrRec) (i : Nat) : (d.setErr e).gen i = d.gen i := (reports_setErr e).gen i

@[simp] theorem Dev.imprError_mem (p code : Nat) : (d.imprError p code).mem = d.mem := (reports_imprError p code).mem
@[simp] theorem Dev.imprError_ecc (p code : Nat) : (d.imprError p code).ecc = d.ecc := (reports_imprError p code).ecc
@[simp] theorem Dev.imprError_time (p code : Nat) : (d.imprError p code).time = d.time := (reports_imprError p code).time
@[simp] theorem Dev.imprError_timeFrac (p code : Nat) : (d.imprError p code).timeFrac = d.timeFrac := (reports_imprError p code).timeFrac
@[simp] theorem Dev.imprError_dies (p code : Nat) : (d.imprError p code).dies = d.dies := (reports_imprError p code).dies
@[simp] theorem Dev.imprError_temps (p code : Nat) : (d.imprError p code).temps = d.temps := (reports_imprError p code).temps
@[simp] theorem Dev.imprError_warned (p code : Nat) : (d.imprError p code).warned = d.warned := (reports_imprError p code).warned
@[simp] theorem Dev.imprError_hots (p code : Nat) : (d.imprError p code).hots = d.hots := (reports_imprError p code).hots
@[simp] theorem Dev.imprError_parts (p code : Nat) : (d.imprError p code).parts = d.parts := (reports_imprError p code).parts
@[simp] theorem Dev.imprError_cores (p code : Nat) : (d.imprError p code).cores = d.cores := (reports_imprError p code).cores
@[simp] theorem Dev.imprError_flights (p code : Nat) : (d.imprError p code).flights = d.flights := (reports_imprError p code).flights
@[simp] theorem Dev.imprError_dmas (p code : Nat) : (d.imprError p code).dmas = d.dmas := (reports_imprError p code).dmas
@[simp] theorem Dev.imprError_bgFailed (p code : Nat) : (d.imprError p code).bgFailed = d.bgFailed := (reports_imprError p code).bgFailed
@[simp] theorem Dev.imprError_ddrLaid (p code : Nat) : (d.imprError p code).ddrLaid = d.ddrLaid := (reports_imprError p code).ddrLaid
@[simp] theorem Dev.imprError_platens (p code : Nat) : (d.imprError p code).platens = d.platens := (reports_imprError p code).platens
@[simp] theorem Dev.imprError_vc2 (p code : Nat) : (d.imprError p code).vc2 = d.vc2 := (reports_imprError p code).vc2
@[simp] theorem Dev.imprError_vc0 (p code : Nat) : (d.imprError p code).vc0 = d.vc0 := (reports_imprError p code).vc0
@[simp] theorem Dev.imprError_links (p code : Nat) : (d.imprError p code).links = d.links := (reports_imprError p code).links
@[simp] theorem Dev.imprError_cows (p code : Nat) : (d.imprError p code).cows = d.cows := (reports_imprError p code).cows
@[simp] theorem Dev.imprError_colls (p code : Nat) : (d.imprError p code).colls = d.colls := (reports_imprError p code).colls
@[simp] theorem Dev.imprError_servo (p code : Nat) : (d.imprError p code).servo = d.servo := (reports_imprError p code).servo
@[simp] theorem Dev.imprError_out (p code : Nat) : (d.imprError p code).out = d.out := (reports_imprError p code).out
@[simp] theorem Dev.imprError_opens (p code : Nat) : (d.imprError p code).opens = d.opens := (reports_imprError p code).opens
@[simp] theorem Dev.imprError_shakes (p code : Nat) : (d.imprError p code).shakes = d.shakes := (reports_imprError p code).shakes
@[simp] theorem Dev.imprError_signQ (p code : Nat) : (d.imprError p code).signQ = d.signQ := (reports_imprError p code).signQ
@[simp] theorem Dev.imprError_oldSa (p code : Nat) : (d.imprError p code).oldSa = d.oldSa := (reports_imprError p code).oldSa
@[simp] theorem Dev.imprError_proofs (p code : Nat) : (d.imprError p code).proofs = d.proofs := (reports_imprError p code).proofs
@[simp] theorem Dev.imprError_gens (p code : Nat) : (d.imprError p code).gens = d.gens := (reports_imprError p code).gens
@[simp] theorem Dev.imprError_genNext (p code : Nat) : (d.imprError p code).genNext = d.genNext := (reports_imprError p code).genNext
@[simp] theorem Dev.imprError_parents (p code : Nat) : (d.imprError p code).parents = d.parents := (reports_imprError p code).parents
@[simp] theorem Dev.imprError_sinceDrain (p code : Nat) : (d.imprError p code).sinceDrain = d.sinceDrain := (reports_imprError p code).sinceDrain
@[simp] theorem Dev.imprError_drainQ (p code : Nat) : (d.imprError p code).drainQ = d.drainQ := (reports_imprError p code).drainQ
@[simp] theorem Dev.imprError_drain (p code : Nat) : (d.imprError p code).drain = d.drain := (reports_imprError p code).drain
@[simp] theorem Dev.imprError_saveHold (p code : Nat) : (d.imprError p code).saveHold = d.saveHold := (reports_imprError p code).saveHold
@[simp] theorem Dev.imprError_meters (p code : Nat) : (d.imprError p code).meters = d.meters := (reports_imprError p code).meters
@[simp] theorem Dev.imprError_freeCount (p code : Nat) : (d.imprError p code).freeCount = d.freeCount := (reports_imprError p code).freeCount
@[simp] theorem Dev.core_imprError (p code : Nat) (i : Nat) : (d.imprError p code).core i = d.core i := (reports_imprError p code).core i
@[simp] theorem Dev.die_imprError (p code : Nat) (i : Nat) : (d.imprError p code).die i = d.die i := (reports_imprError p code).die i
@[simp] theorem Dev.part_imprError (p code : Nat) (i : Nat) : (d.imprError p code).part i = d.part i := (reports_imprError p code).part i
@[simp] theorem Dev.dma_imprError (p code : Nat) (i : Nat) : (d.imprError p code).dma i = d.dma i := (reports_imprError p code).dma i
@[simp] theorem Dev.platen_imprError (p code : Nat) (i : Nat) : (d.imprError p code).platen i = d.platen i := (reports_imprError p code).platen i
@[simp] theorem Dev.link_imprError (p code : Nat) (i : Nat) : (d.imprError p code).link i = d.link i := (reports_imprError p code).link i
@[simp] theorem Dev.coll_imprError (p code : Nat) (i : Nat) : (d.imprError p code).coll i = d.coll i := (reports_imprError p code).coll i
@[simp] theorem Dev.cow_imprError (p code : Nat) (i : Nat) : (d.imprError p code).cow i = d.cow i := (reports_imprError p code).cow i
@[simp] theorem Dev.proof_imprError (p code : Nat) (i : Nat) : (d.imprError p code).proof i = d.proof i := (reports_imprError p code).proof i
@[simp] theorem Dev.gen_imprError (p code : Nat) (i : Nat) : (d.imprError p code).gen i = d.gen i := (reports_imprError p code).gen i

@[simp] theorem Dev.secError_mem (code info : Nat) : (d.secError code info).mem = d.mem := (reports_secError code info).mem
@[simp] theorem Dev.secError_ecc (code info : Nat) : (d.secError code info).ecc = d.ecc := (reports_secError code info).ecc
@[simp] theorem Dev.secError_time (code info : Nat) : (d.secError code info).time = d.time := (reports_secError code info).time
@[simp] theorem Dev.secError_timeFrac (code info : Nat) : (d.secError code info).timeFrac = d.timeFrac := (reports_secError code info).timeFrac
@[simp] theorem Dev.secError_dies (code info : Nat) : (d.secError code info).dies = d.dies := (reports_secError code info).dies
@[simp] theorem Dev.secError_temps (code info : Nat) : (d.secError code info).temps = d.temps := (reports_secError code info).temps
@[simp] theorem Dev.secError_warned (code info : Nat) : (d.secError code info).warned = d.warned := (reports_secError code info).warned
@[simp] theorem Dev.secError_hots (code info : Nat) : (d.secError code info).hots = d.hots := (reports_secError code info).hots
@[simp] theorem Dev.secError_parts (code info : Nat) : (d.secError code info).parts = d.parts := (reports_secError code info).parts
@[simp] theorem Dev.secError_cores (code info : Nat) : (d.secError code info).cores = d.cores := (reports_secError code info).cores
@[simp] theorem Dev.secError_flights (code info : Nat) : (d.secError code info).flights = d.flights := (reports_secError code info).flights
@[simp] theorem Dev.secError_dmas (code info : Nat) : (d.secError code info).dmas = d.dmas := (reports_secError code info).dmas
@[simp] theorem Dev.secError_bgFailed (code info : Nat) : (d.secError code info).bgFailed = d.bgFailed := (reports_secError code info).bgFailed
@[simp] theorem Dev.secError_ddrLaid (code info : Nat) : (d.secError code info).ddrLaid = d.ddrLaid := (reports_secError code info).ddrLaid
@[simp] theorem Dev.secError_platens (code info : Nat) : (d.secError code info).platens = d.platens := (reports_secError code info).platens
@[simp] theorem Dev.secError_vc2 (code info : Nat) : (d.secError code info).vc2 = d.vc2 := (reports_secError code info).vc2
@[simp] theorem Dev.secError_vc0 (code info : Nat) : (d.secError code info).vc0 = d.vc0 := (reports_secError code info).vc0
@[simp] theorem Dev.secError_links (code info : Nat) : (d.secError code info).links = d.links := (reports_secError code info).links
@[simp] theorem Dev.secError_cows (code info : Nat) : (d.secError code info).cows = d.cows := (reports_secError code info).cows
@[simp] theorem Dev.secError_colls (code info : Nat) : (d.secError code info).colls = d.colls := (reports_secError code info).colls
@[simp] theorem Dev.secError_servo (code info : Nat) : (d.secError code info).servo = d.servo := (reports_secError code info).servo
@[simp] theorem Dev.secError_out (code info : Nat) : (d.secError code info).out = d.out := (reports_secError code info).out
@[simp] theorem Dev.secError_opens (code info : Nat) : (d.secError code info).opens = d.opens := (reports_secError code info).opens
@[simp] theorem Dev.secError_shakes (code info : Nat) : (d.secError code info).shakes = d.shakes := (reports_secError code info).shakes
@[simp] theorem Dev.secError_signQ (code info : Nat) : (d.secError code info).signQ = d.signQ := (reports_secError code info).signQ
@[simp] theorem Dev.secError_oldSa (code info : Nat) : (d.secError code info).oldSa = d.oldSa := (reports_secError code info).oldSa
@[simp] theorem Dev.secError_proofs (code info : Nat) : (d.secError code info).proofs = d.proofs := (reports_secError code info).proofs
@[simp] theorem Dev.secError_gens (code info : Nat) : (d.secError code info).gens = d.gens := (reports_secError code info).gens
@[simp] theorem Dev.secError_genNext (code info : Nat) : (d.secError code info).genNext = d.genNext := (reports_secError code info).genNext
@[simp] theorem Dev.secError_parents (code info : Nat) : (d.secError code info).parents = d.parents := (reports_secError code info).parents
@[simp] theorem Dev.secError_sinceDrain (code info : Nat) : (d.secError code info).sinceDrain = d.sinceDrain := (reports_secError code info).sinceDrain
@[simp] theorem Dev.secError_drainQ (code info : Nat) : (d.secError code info).drainQ = d.drainQ := (reports_secError code info).drainQ
@[simp] theorem Dev.secError_drain (code info : Nat) : (d.secError code info).drain = d.drain := (reports_secError code info).drain
@[simp] theorem Dev.secError_saveHold (code info : Nat) : (d.secError code info).saveHold = d.saveHold := (reports_secError code info).saveHold
@[simp] theorem Dev.secError_meters (code info : Nat) : (d.secError code info).meters = d.meters := (reports_secError code info).meters
@[simp] theorem Dev.secError_freeCount (code info : Nat) : (d.secError code info).freeCount = d.freeCount := (reports_secError code info).freeCount
@[simp] theorem Dev.core_secError (code info : Nat) (i : Nat) : (d.secError code info).core i = d.core i := (reports_secError code info).core i
@[simp] theorem Dev.die_secError (code info : Nat) (i : Nat) : (d.secError code info).die i = d.die i := (reports_secError code info).die i
@[simp] theorem Dev.part_secError (code info : Nat) (i : Nat) : (d.secError code info).part i = d.part i := (reports_secError code info).part i
@[simp] theorem Dev.dma_secError (code info : Nat) (i : Nat) : (d.secError code info).dma i = d.dma i := (reports_secError code info).dma i
@[simp] theorem Dev.platen_secError (code info : Nat) (i : Nat) : (d.secError code info).platen i = d.platen i := (reports_secError code info).platen i
@[simp] theorem Dev.link_secError (code info : Nat) (i : Nat) : (d.secError code info).link i = d.link i := (reports_secError code info).link i
@[simp] theorem Dev.coll_secError (code info : Nat) (i : Nat) : (d.secError code info).coll i = d.coll i := (reports_secError code info).coll i
@[simp] theorem Dev.cow_secError (code info : Nat) (i : Nat) : (d.secError code info).cow i = d.cow i := (reports_secError code info).cow i
@[simp] theorem Dev.proof_secError (code info : Nat) (i : Nat) : (d.secError code info).proof i = d.proof i := (reports_secError code info).proof i
@[simp] theorem Dev.gen_secError (code info : Nat) (i : Nat) : (d.secError code info).gen i = d.gen i := (reports_secError code info).gen i

@[simp] theorem Dev.proofError_mem (p code unit : Nat) : (d.proofError p code unit).mem = d.mem := (reports_proofError p code unit).mem
@[simp] theorem Dev.proofError_ecc (p code unit : Nat) : (d.proofError p code unit).ecc = d.ecc := (reports_proofError p code unit).ecc
@[simp] theorem Dev.proofError_time (p code unit : Nat) : (d.proofError p code unit).time = d.time := (reports_proofError p code unit).time
@[simp] theorem Dev.proofError_timeFrac (p code unit : Nat) : (d.proofError p code unit).timeFrac = d.timeFrac := (reports_proofError p code unit).timeFrac
@[simp] theorem Dev.proofError_dies (p code unit : Nat) : (d.proofError p code unit).dies = d.dies := (reports_proofError p code unit).dies
@[simp] theorem Dev.proofError_temps (p code unit : Nat) : (d.proofError p code unit).temps = d.temps := (reports_proofError p code unit).temps
@[simp] theorem Dev.proofError_warned (p code unit : Nat) : (d.proofError p code unit).warned = d.warned := (reports_proofError p code unit).warned
@[simp] theorem Dev.proofError_hots (p code unit : Nat) : (d.proofError p code unit).hots = d.hots := (reports_proofError p code unit).hots
@[simp] theorem Dev.proofError_parts (p code unit : Nat) : (d.proofError p code unit).parts = d.parts := (reports_proofError p code unit).parts
@[simp] theorem Dev.proofError_cores (p code unit : Nat) : (d.proofError p code unit).cores = d.cores := (reports_proofError p code unit).cores
@[simp] theorem Dev.proofError_flights (p code unit : Nat) : (d.proofError p code unit).flights = d.flights := (reports_proofError p code unit).flights
@[simp] theorem Dev.proofError_dmas (p code unit : Nat) : (d.proofError p code unit).dmas = d.dmas := (reports_proofError p code unit).dmas
@[simp] theorem Dev.proofError_bgFailed (p code unit : Nat) : (d.proofError p code unit).bgFailed = d.bgFailed := (reports_proofError p code unit).bgFailed
@[simp] theorem Dev.proofError_ddrLaid (p code unit : Nat) : (d.proofError p code unit).ddrLaid = d.ddrLaid := (reports_proofError p code unit).ddrLaid
@[simp] theorem Dev.proofError_platens (p code unit : Nat) : (d.proofError p code unit).platens = d.platens := (reports_proofError p code unit).platens
@[simp] theorem Dev.proofError_vc2 (p code unit : Nat) : (d.proofError p code unit).vc2 = d.vc2 := (reports_proofError p code unit).vc2
@[simp] theorem Dev.proofError_vc0 (p code unit : Nat) : (d.proofError p code unit).vc0 = d.vc0 := (reports_proofError p code unit).vc0
@[simp] theorem Dev.proofError_links (p code unit : Nat) : (d.proofError p code unit).links = d.links := (reports_proofError p code unit).links
@[simp] theorem Dev.proofError_cows (p code unit : Nat) : (d.proofError p code unit).cows = d.cows := (reports_proofError p code unit).cows
@[simp] theorem Dev.proofError_colls (p code unit : Nat) : (d.proofError p code unit).colls = d.colls := (reports_proofError p code unit).colls
@[simp] theorem Dev.proofError_servo (p code unit : Nat) : (d.proofError p code unit).servo = d.servo := (reports_proofError p code unit).servo
@[simp] theorem Dev.proofError_out (p code unit : Nat) : (d.proofError p code unit).out = d.out := (reports_proofError p code unit).out
@[simp] theorem Dev.proofError_opens (p code unit : Nat) : (d.proofError p code unit).opens = d.opens := (reports_proofError p code unit).opens
@[simp] theorem Dev.proofError_shakes (p code unit : Nat) : (d.proofError p code unit).shakes = d.shakes := (reports_proofError p code unit).shakes
@[simp] theorem Dev.proofError_signQ (p code unit : Nat) : (d.proofError p code unit).signQ = d.signQ := (reports_proofError p code unit).signQ
@[simp] theorem Dev.proofError_oldSa (p code unit : Nat) : (d.proofError p code unit).oldSa = d.oldSa := (reports_proofError p code unit).oldSa
@[simp] theorem Dev.proofError_proofs (p code unit : Nat) : (d.proofError p code unit).proofs = d.proofs := (reports_proofError p code unit).proofs
@[simp] theorem Dev.proofError_gens (p code unit : Nat) : (d.proofError p code unit).gens = d.gens := (reports_proofError p code unit).gens
@[simp] theorem Dev.proofError_genNext (p code unit : Nat) : (d.proofError p code unit).genNext = d.genNext := (reports_proofError p code unit).genNext
@[simp] theorem Dev.proofError_parents (p code unit : Nat) : (d.proofError p code unit).parents = d.parents := (reports_proofError p code unit).parents
@[simp] theorem Dev.proofError_sinceDrain (p code unit : Nat) : (d.proofError p code unit).sinceDrain = d.sinceDrain := (reports_proofError p code unit).sinceDrain
@[simp] theorem Dev.proofError_drainQ (p code unit : Nat) : (d.proofError p code unit).drainQ = d.drainQ := (reports_proofError p code unit).drainQ
@[simp] theorem Dev.proofError_drain (p code unit : Nat) : (d.proofError p code unit).drain = d.drain := (reports_proofError p code unit).drain
@[simp] theorem Dev.proofError_saveHold (p code unit : Nat) : (d.proofError p code unit).saveHold = d.saveHold := (reports_proofError p code unit).saveHold
@[simp] theorem Dev.proofError_meters (p code unit : Nat) : (d.proofError p code unit).meters = d.meters := (reports_proofError p code unit).meters
@[simp] theorem Dev.proofError_freeCount (p code unit : Nat) : (d.proofError p code unit).freeCount = d.freeCount := (reports_proofError p code unit).freeCount
@[simp] theorem Dev.core_proofError (p code unit : Nat) (i : Nat) : (d.proofError p code unit).core i = d.core i := (reports_proofError p code unit).core i
@[simp] theorem Dev.die_proofError (p code unit : Nat) (i : Nat) : (d.proofError p code unit).die i = d.die i := (reports_proofError p code unit).die i
@[simp] theorem Dev.part_proofError (p code unit : Nat) (i : Nat) : (d.proofError p code unit).part i = d.part i := (reports_proofError p code unit).part i
@[simp] theorem Dev.dma_proofError (p code unit : Nat) (i : Nat) : (d.proofError p code unit).dma i = d.dma i := (reports_proofError p code unit).dma i
@[simp] theorem Dev.platen_proofError (p code unit : Nat) (i : Nat) : (d.proofError p code unit).platen i = d.platen i := (reports_proofError p code unit).platen i
@[simp] theorem Dev.link_proofError (p code unit : Nat) (i : Nat) : (d.proofError p code unit).link i = d.link i := (reports_proofError p code unit).link i
@[simp] theorem Dev.coll_proofError (p code unit : Nat) (i : Nat) : (d.proofError p code unit).coll i = d.coll i := (reports_proofError p code unit).coll i
@[simp] theorem Dev.cow_proofError (p code unit : Nat) (i : Nat) : (d.proofError p code unit).cow i = d.cow i := (reports_proofError p code unit).cow i
@[simp] theorem Dev.proof_proofError (p code unit : Nat) (i : Nat) : (d.proofError p code unit).proof i = d.proof i := (reports_proofError p code unit).proof i
@[simp] theorem Dev.gen_proofError (p code unit : Nat) (i : Nat) : (d.proofError p code unit).gen i = d.gen i := (reports_proofError p code unit).gen i

@[simp] theorem Dev.partError_mem (code : Nat) (u : Writer) : (d.partError code u).mem = d.mem := (reports_partError code u).mem
@[simp] theorem Dev.partError_ecc (code : Nat) (u : Writer) : (d.partError code u).ecc = d.ecc := (reports_partError code u).ecc
@[simp] theorem Dev.partError_time (code : Nat) (u : Writer) : (d.partError code u).time = d.time := (reports_partError code u).time
@[simp] theorem Dev.partError_timeFrac (code : Nat) (u : Writer) : (d.partError code u).timeFrac = d.timeFrac := (reports_partError code u).timeFrac
@[simp] theorem Dev.partError_dies (code : Nat) (u : Writer) : (d.partError code u).dies = d.dies := (reports_partError code u).dies
@[simp] theorem Dev.partError_temps (code : Nat) (u : Writer) : (d.partError code u).temps = d.temps := (reports_partError code u).temps
@[simp] theorem Dev.partError_warned (code : Nat) (u : Writer) : (d.partError code u).warned = d.warned := (reports_partError code u).warned
@[simp] theorem Dev.partError_hots (code : Nat) (u : Writer) : (d.partError code u).hots = d.hots := (reports_partError code u).hots
@[simp] theorem Dev.partError_parts (code : Nat) (u : Writer) : (d.partError code u).parts = d.parts := (reports_partError code u).parts
@[simp] theorem Dev.partError_cores (code : Nat) (u : Writer) : (d.partError code u).cores = d.cores := (reports_partError code u).cores
@[simp] theorem Dev.partError_flights (code : Nat) (u : Writer) : (d.partError code u).flights = d.flights := (reports_partError code u).flights
@[simp] theorem Dev.partError_dmas (code : Nat) (u : Writer) : (d.partError code u).dmas = d.dmas := (reports_partError code u).dmas
@[simp] theorem Dev.partError_bgFailed (code : Nat) (u : Writer) : (d.partError code u).bgFailed = d.bgFailed := (reports_partError code u).bgFailed
@[simp] theorem Dev.partError_ddrLaid (code : Nat) (u : Writer) : (d.partError code u).ddrLaid = d.ddrLaid := (reports_partError code u).ddrLaid
@[simp] theorem Dev.partError_platens (code : Nat) (u : Writer) : (d.partError code u).platens = d.platens := (reports_partError code u).platens
@[simp] theorem Dev.partError_vc2 (code : Nat) (u : Writer) : (d.partError code u).vc2 = d.vc2 := (reports_partError code u).vc2
@[simp] theorem Dev.partError_vc0 (code : Nat) (u : Writer) : (d.partError code u).vc0 = d.vc0 := (reports_partError code u).vc0
@[simp] theorem Dev.partError_links (code : Nat) (u : Writer) : (d.partError code u).links = d.links := (reports_partError code u).links
@[simp] theorem Dev.partError_cows (code : Nat) (u : Writer) : (d.partError code u).cows = d.cows := (reports_partError code u).cows
@[simp] theorem Dev.partError_colls (code : Nat) (u : Writer) : (d.partError code u).colls = d.colls := (reports_partError code u).colls
@[simp] theorem Dev.partError_servo (code : Nat) (u : Writer) : (d.partError code u).servo = d.servo := (reports_partError code u).servo
@[simp] theorem Dev.partError_out (code : Nat) (u : Writer) : (d.partError code u).out = d.out := (reports_partError code u).out
@[simp] theorem Dev.partError_opens (code : Nat) (u : Writer) : (d.partError code u).opens = d.opens := (reports_partError code u).opens
@[simp] theorem Dev.partError_shakes (code : Nat) (u : Writer) : (d.partError code u).shakes = d.shakes := (reports_partError code u).shakes
@[simp] theorem Dev.partError_signQ (code : Nat) (u : Writer) : (d.partError code u).signQ = d.signQ := (reports_partError code u).signQ
@[simp] theorem Dev.partError_oldSa (code : Nat) (u : Writer) : (d.partError code u).oldSa = d.oldSa := (reports_partError code u).oldSa
@[simp] theorem Dev.partError_proofs (code : Nat) (u : Writer) : (d.partError code u).proofs = d.proofs := (reports_partError code u).proofs
@[simp] theorem Dev.partError_gens (code : Nat) (u : Writer) : (d.partError code u).gens = d.gens := (reports_partError code u).gens
@[simp] theorem Dev.partError_genNext (code : Nat) (u : Writer) : (d.partError code u).genNext = d.genNext := (reports_partError code u).genNext
@[simp] theorem Dev.partError_parents (code : Nat) (u : Writer) : (d.partError code u).parents = d.parents := (reports_partError code u).parents
@[simp] theorem Dev.partError_sinceDrain (code : Nat) (u : Writer) : (d.partError code u).sinceDrain = d.sinceDrain := (reports_partError code u).sinceDrain
@[simp] theorem Dev.partError_drainQ (code : Nat) (u : Writer) : (d.partError code u).drainQ = d.drainQ := (reports_partError code u).drainQ
@[simp] theorem Dev.partError_drain (code : Nat) (u : Writer) : (d.partError code u).drain = d.drain := (reports_partError code u).drain
@[simp] theorem Dev.partError_saveHold (code : Nat) (u : Writer) : (d.partError code u).saveHold = d.saveHold := (reports_partError code u).saveHold
@[simp] theorem Dev.partError_meters (code : Nat) (u : Writer) : (d.partError code u).meters = d.meters := (reports_partError code u).meters
@[simp] theorem Dev.partError_freeCount (code : Nat) (u : Writer) : (d.partError code u).freeCount = d.freeCount := (reports_partError code u).freeCount
@[simp] theorem Dev.core_partError (code : Nat) (u : Writer) (i : Nat) : (d.partError code u).core i = d.core i := (reports_partError code u).core i
@[simp] theorem Dev.die_partError (code : Nat) (u : Writer) (i : Nat) : (d.partError code u).die i = d.die i := (reports_partError code u).die i
@[simp] theorem Dev.part_partError (code : Nat) (u : Writer) (i : Nat) : (d.partError code u).part i = d.part i := (reports_partError code u).part i
@[simp] theorem Dev.dma_partError (code : Nat) (u : Writer) (i : Nat) : (d.partError code u).dma i = d.dma i := (reports_partError code u).dma i
@[simp] theorem Dev.platen_partError (code : Nat) (u : Writer) (i : Nat) : (d.partError code u).platen i = d.platen i := (reports_partError code u).platen i
@[simp] theorem Dev.link_partError (code : Nat) (u : Writer) (i : Nat) : (d.partError code u).link i = d.link i := (reports_partError code u).link i
@[simp] theorem Dev.coll_partError (code : Nat) (u : Writer) (i : Nat) : (d.partError code u).coll i = d.coll i := (reports_partError code u).coll i
@[simp] theorem Dev.cow_partError (code : Nat) (u : Writer) (i : Nat) : (d.partError code u).cow i = d.cow i := (reports_partError code u).cow i
@[simp] theorem Dev.proof_partError (code : Nat) (u : Writer) (i : Nat) : (d.partError code u).proof i = d.proof i := (reports_partError code u).proof i
@[simp] theorem Dev.gen_partError (code : Nat) (u : Writer) (i : Nat) : (d.partError code u).gen i = d.gen i := (reports_partError code u).gen i

@[simp] theorem Dev.stallIssue_mem (k : Nat) : (d.stallIssue k).mem = d.mem := (reports_stallIssue k).mem
@[simp] theorem Dev.stallIssue_ecc (k : Nat) : (d.stallIssue k).ecc = d.ecc := (reports_stallIssue k).ecc
@[simp] theorem Dev.stallIssue_time (k : Nat) : (d.stallIssue k).time = d.time := (reports_stallIssue k).time
@[simp] theorem Dev.stallIssue_timeFrac (k : Nat) : (d.stallIssue k).timeFrac = d.timeFrac := (reports_stallIssue k).timeFrac
@[simp] theorem Dev.stallIssue_dies (k : Nat) : (d.stallIssue k).dies = d.dies := (reports_stallIssue k).dies
@[simp] theorem Dev.stallIssue_temps (k : Nat) : (d.stallIssue k).temps = d.temps := (reports_stallIssue k).temps
@[simp] theorem Dev.stallIssue_warned (k : Nat) : (d.stallIssue k).warned = d.warned := (reports_stallIssue k).warned
@[simp] theorem Dev.stallIssue_hots (k : Nat) : (d.stallIssue k).hots = d.hots := (reports_stallIssue k).hots
@[simp] theorem Dev.stallIssue_parts (k : Nat) : (d.stallIssue k).parts = d.parts := (reports_stallIssue k).parts
@[simp] theorem Dev.stallIssue_cores (k : Nat) : (d.stallIssue k).cores = d.cores := (reports_stallIssue k).cores
@[simp] theorem Dev.stallIssue_flights (k : Nat) : (d.stallIssue k).flights = d.flights := (reports_stallIssue k).flights
@[simp] theorem Dev.stallIssue_dmas (k : Nat) : (d.stallIssue k).dmas = d.dmas := (reports_stallIssue k).dmas
@[simp] theorem Dev.stallIssue_bgFailed (k : Nat) : (d.stallIssue k).bgFailed = d.bgFailed := (reports_stallIssue k).bgFailed
@[simp] theorem Dev.stallIssue_ddrLaid (k : Nat) : (d.stallIssue k).ddrLaid = d.ddrLaid := (reports_stallIssue k).ddrLaid
@[simp] theorem Dev.stallIssue_platens (k : Nat) : (d.stallIssue k).platens = d.platens := (reports_stallIssue k).platens
@[simp] theorem Dev.stallIssue_vc2 (k : Nat) : (d.stallIssue k).vc2 = d.vc2 := (reports_stallIssue k).vc2
@[simp] theorem Dev.stallIssue_vc0 (k : Nat) : (d.stallIssue k).vc0 = d.vc0 := (reports_stallIssue k).vc0
@[simp] theorem Dev.stallIssue_links (k : Nat) : (d.stallIssue k).links = d.links := (reports_stallIssue k).links
@[simp] theorem Dev.stallIssue_cows (k : Nat) : (d.stallIssue k).cows = d.cows := (reports_stallIssue k).cows
@[simp] theorem Dev.stallIssue_colls (k : Nat) : (d.stallIssue k).colls = d.colls := (reports_stallIssue k).colls
@[simp] theorem Dev.stallIssue_servo (k : Nat) : (d.stallIssue k).servo = d.servo := (reports_stallIssue k).servo
@[simp] theorem Dev.stallIssue_out (k : Nat) : (d.stallIssue k).out = d.out := (reports_stallIssue k).out
@[simp] theorem Dev.stallIssue_opens (k : Nat) : (d.stallIssue k).opens = d.opens := (reports_stallIssue k).opens
@[simp] theorem Dev.stallIssue_shakes (k : Nat) : (d.stallIssue k).shakes = d.shakes := (reports_stallIssue k).shakes
@[simp] theorem Dev.stallIssue_signQ (k : Nat) : (d.stallIssue k).signQ = d.signQ := (reports_stallIssue k).signQ
@[simp] theorem Dev.stallIssue_oldSa (k : Nat) : (d.stallIssue k).oldSa = d.oldSa := (reports_stallIssue k).oldSa
@[simp] theorem Dev.stallIssue_proofs (k : Nat) : (d.stallIssue k).proofs = d.proofs := (reports_stallIssue k).proofs
@[simp] theorem Dev.stallIssue_gens (k : Nat) : (d.stallIssue k).gens = d.gens := (reports_stallIssue k).gens
@[simp] theorem Dev.stallIssue_genNext (k : Nat) : (d.stallIssue k).genNext = d.genNext := (reports_stallIssue k).genNext
@[simp] theorem Dev.stallIssue_parents (k : Nat) : (d.stallIssue k).parents = d.parents := (reports_stallIssue k).parents
@[simp] theorem Dev.stallIssue_sinceDrain (k : Nat) : (d.stallIssue k).sinceDrain = d.sinceDrain := (reports_stallIssue k).sinceDrain
@[simp] theorem Dev.stallIssue_drainQ (k : Nat) : (d.stallIssue k).drainQ = d.drainQ := (reports_stallIssue k).drainQ
@[simp] theorem Dev.stallIssue_drain (k : Nat) : (d.stallIssue k).drain = d.drain := (reports_stallIssue k).drain
@[simp] theorem Dev.stallIssue_saveHold (k : Nat) : (d.stallIssue k).saveHold = d.saveHold := (reports_stallIssue k).saveHold
@[simp] theorem Dev.stallIssue_meters (k : Nat) : (d.stallIssue k).meters = d.meters := (reports_stallIssue k).meters
@[simp] theorem Dev.stallIssue_freeCount (k : Nat) : (d.stallIssue k).freeCount = d.freeCount := (reports_stallIssue k).freeCount
@[simp] theorem Dev.core_stallIssue (k : Nat) (i : Nat) : (d.stallIssue k).core i = d.core i := (reports_stallIssue k).core i
@[simp] theorem Dev.die_stallIssue (k : Nat) (i : Nat) : (d.stallIssue k).die i = d.die i := (reports_stallIssue k).die i
@[simp] theorem Dev.part_stallIssue (k : Nat) (i : Nat) : (d.stallIssue k).part i = d.part i := (reports_stallIssue k).part i
@[simp] theorem Dev.dma_stallIssue (k : Nat) (i : Nat) : (d.stallIssue k).dma i = d.dma i := (reports_stallIssue k).dma i
@[simp] theorem Dev.platen_stallIssue (k : Nat) (i : Nat) : (d.stallIssue k).platen i = d.platen i := (reports_stallIssue k).platen i
@[simp] theorem Dev.link_stallIssue (k : Nat) (i : Nat) : (d.stallIssue k).link i = d.link i := (reports_stallIssue k).link i
@[simp] theorem Dev.coll_stallIssue (k : Nat) (i : Nat) : (d.stallIssue k).coll i = d.coll i := (reports_stallIssue k).coll i
@[simp] theorem Dev.cow_stallIssue (k : Nat) (i : Nat) : (d.stallIssue k).cow i = d.cow i := (reports_stallIssue k).cow i
@[simp] theorem Dev.proof_stallIssue (k : Nat) (i : Nat) : (d.stallIssue k).proof i = d.proof i := (reports_stallIssue k).proof i
@[simp] theorem Dev.gen_stallIssue (k : Nat) (i : Nat) : (d.stallIssue k).gen i = d.gen i := (reports_stallIssue k).gen i

end Sys2Proof.Machine
end

