-- ==== Sys2Proof/Laws/Frame.lean ====
section
/-!
SUPPORT. Sys2Proof/Laws/Frame.lean: what each shared operation leaves alone (Dev.Kept), once per operation.
-/
namespace Sys2Proof.Machine

variable {d e f : Dev} {xs ys : List Place}

theorem Place.Same.refl (x : Place) : x.Same d d := by cases x <;> simp [Place.Same]

theorem Place.Same.trans {x : Place} (h : x.Same d e) (h' : x.Same e f) : x.Same d f := by
  cases x <;> simp only [Place.Same] at *
  case part p => exact h'.trans (congrArg (fun y : PartSt => { y with orders := (f.part p).orders }) h)
  case sess i => exact h'.trans (congrArg (fun y : Session => { y with events := (f.sess i).events }) h)
  case reg => exact fun ho hn => (h' ho hn).trans (h ho hn)
  all_goals first
    | exact h'.trans h
    | exact ⟨h'.1.trans h.1, h'.2.trans h.2⟩
    | exact ⟨h'.1.trans h.1, h'.2.1.trans h.2.1, h'.2.2.trans h.2.2⟩

theorem Dev.Kept.refl (d : Dev) : d.Kept d xs := fun x _ => .refl x

theorem Dev.Kept.trans (h : d.Kept e xs) (h' : e.Kept f ys) : d.Kept f (xs ++ ys) := fun x hx =>
  (h x fun k => hx (List.mem_append_left _ k)).trans (h' x fun k => hx (List.mem_append_right _ k))

theorem Dev.Kept.mono (h : d.Kept e xs) (hs : xs ⊆ ys) : d.Kept e ys := fun x hx => h x fun k => hx (hs k)

/-- Two steps that stay within the same places. -/
theorem Dev.Kept.seq (h : d.Kept e xs) (h' : e.Kept f xs) : d.Kept f xs := (h.trans h').mono (by simp)

theorem kept_foldl {α : Type} (as : List α) (g : Dev → α → Dev) (h : ∀ d x, x ∈ as → Dev.Kept d (g d x) xs) (d : Dev) :
    d.Kept (as.foldl g d) xs := by
  induction as generalizing d with
  | nil => exact .refl _
  | cons x as ih => exact (h d x (by simp)).seq (ih (fun d y hy => h d y (by simp [hy])) _)

theorem kept_ite {c : Prop} [Decidable c] (h : c → d.Kept e xs) (h' : ¬c → d.Kept f xs) : d.Kept (if c then e else f) xs := by
  split
  · exact h ‹_›
  · exact h' ‹_›

/-! ### Primitive updates -/

theorem kept_modCore (k : Nat) (g : CoreSt → CoreSt) : d.Kept (d.modCore k g) [.core k] := by
  intro x hx; cases x
  case core j => exact Dev.core_modCore_ne _ _ _ (by simpa using hx)
  all_goals first | exact rfl | exact ⟨rfl, rfl⟩ | exact ⟨rfl, rfl, rfl⟩ | exact fun _ _ => rfl

theorem kept_modDie (c : Nat) (g : DieSt → DieSt) : d.Kept (d.modDie c g) [.die c] := by
  intro x hx; cases x
  case die j => exact tget_tset_ne (by simpa using hx)
  all_goals first | exact rfl | exact ⟨rfl, rfl⟩ | exact ⟨rfl, rfl, rfl⟩ | exact fun _ _ => rfl

theorem kept_modPart (p : Nat) (g : PartSt → PartSt) : d.Kept (d.modPart p g) [.part p] := by
  intro x hx; cases x
  case part j => simp only [Place.Same]; rw [Dev.part_modPart_ne _ _ _ (by simpa using hx)]
  all_goals first | exact rfl | exact ⟨rfl, rfl⟩ | exact ⟨rfl, rfl, rfl⟩ | exact fun _ _ => rfl

theorem kept_orders (p : Nat) (os : List (List Byte)) : d.Kept (d.modPart p fun x => { x with orders := os }) [] := by
  intro x _; cases x
  case part j _ =>
    simp only [Place.Same]
    by_cases h : j = p
    · subst h; simp
    · rw [Dev.part_modPart_ne _ _ _ h]
  all_goals first | exact rfl | exact ⟨rfl, rfl⟩ | exact ⟨rfl, rfl, rfl⟩ | exact fun _ _ => rfl

theorem kept_modHdr (g : Nat) (h : Hdr → Hdr) : d.Kept (d.modHdr g h) [.hdr g] := by
  intro x hx; cases x
  case hdr j => exact Dev.hdr_modHdr_ne _ _ _ (by simpa using hx)
  all_goals first | exact rfl | exact ⟨rfl, rfl⟩ | exact ⟨rfl, rfl, rfl⟩ | exact fun _ _ => rfl

theorem kept_setReg (pg off w : Nat) (hoff : off < 4096) : d.Kept (d.setReg pg off w) [.reg pg off] := by
  intro x hx; cases x
  case reg g o =>
    intro ho _
    refine Dev.reg_setReg_ne _ _ (regKey_ne ho hoff ?_)
    by_cases hg : g = pg
    · exact .inr fun h => hx (by simp [hg, h])
    · exact .inl hg
  all_goals first | exact rfl | exact ⟨rfl, rfl⟩ | exact ⟨rfl, rfl, rfl⟩

theorem kept_merged (i w : Nat) (hi : i < 8) : d.Kept (d.setReg pgRailjor (evMergedKey i) w) [] := by
  intro x hx; cases x
  case reg g o =>
    intro ho hn
    have hk : evMergedKey i < 4096 := by simp only [evMergedKey]; omega
    refine Dev.reg_setReg_ne _ _ (regKey_ne ho hk ?_)
    by_cases hg : g = pgRailjor
    · refine .inr fun h => hn ⟨hg, ?_, ?_⟩ <;> simp only [evMergedKey] at * <;> omega
    · exact .inl hg
  all_goals first | exact rfl | exact ⟨rfl, rfl⟩ | exact ⟨rfl, rfl, rfl⟩

theorem kept_modDma (i : Nat) (g : DmaSt → DmaSt) : d.Kept (d.modDma i g) [.dma i] := by
  intro x hx; cases x
  case dma j => exact tget_tset_ne (by simpa using hx)
  all_goals first | exact rfl | exact ⟨rfl, rfl⟩ | exact ⟨rfl, rfl, rfl⟩ | exact fun _ _ => rfl

theorem kept_modPlaten (i : Nat) (g : PlatenSt → PlatenSt) : d.Kept (d.modPlaten i g) [.platen i] := by
  intro x hx; cases x
  case platen j => exact tget_tset_ne (by simpa using hx)
  all_goals first | exact rfl | exact ⟨rfl, rfl⟩ | exact ⟨rfl, rfl, rfl⟩ | exact fun _ _ => rfl

theorem kept_modLink (i : Nat) (g : LinkSt → LinkSt) : d.Kept (d.modLink i g) [.link i] := by
  intro x hx; cases x
  case link j => exact tget_tset_ne (by simpa using hx)
  all_goals first | exact rfl | exact ⟨rfl, rfl⟩ | exact ⟨rfl, rfl, rfl⟩ | exact fun _ _ => rfl

theorem kept_modCow (i : Nat) (g : CowSt → CowSt) : d.Kept (d.modCow i g) [.cow i] := by
  intro x hx; cases x
  case cow j => exact tget_tset_ne (by simpa using hx)
  all_goals first | exact rfl | exact ⟨rfl, rfl⟩ | exact ⟨rfl, rfl, rfl⟩ | exact fun _ _ => rfl

theorem kept_modColl (i : Nat) (g : CollSt → CollSt) : d.Kept (d.modColl i g) [.coll i] := by
  intro x hx; cases x
  case coll j => exact tget_tset_ne (by simpa using hx)
  all_goals first | exact rfl | exact ⟨rfl, rfl⟩ | exact ⟨rfl, rfl, rfl⟩ | exact fun _ _ => rfl

theorem kept_modProof (i : Nat) (g : ProofSt → ProofSt) : d.Kept (d.modProof i g) [.proof i] := by
  intro x hx; cases x
  case proof j => exact tget_tset_ne (by simpa using hx)
  all_goals first | exact rfl | exact ⟨rfl, rfl⟩ | exact ⟨rfl, rfl, rfl⟩ | exact fun _ _ => rfl

theorem kept_modGen (i : Nat) (g : GenSt → GenSt) : d.Kept (d.modGen i g) [.gen i] := by
  intro x hx; cases x
  case gen j => exact tget_tset_ne (by simpa using hx)
  all_goals first | exact rfl | exact ⟨rfl, rfl⟩ | exact ⟨rfl, rfl, rfl⟩ | exact fun _ _ => rfl

theorem kept_modSess (i : Nat) (g : Session → Session) : d.Kept (d.modSess i g) [.sess i] := by
  intro x hx; cases x
  case sess j => simp only [Place.Same]; rw [Dev.sess_modSess_ne _ _ _ (by simpa using hx)]
  all_goals first | exact rfl | exact ⟨rfl, rfl⟩ | exact ⟨rfl, rfl, rfl⟩ | exact fun _ _ => rfl

theorem kept_send (p : Port) (bs : List Byte) : d.Kept (d.send p bs) [.out] := by
  intro x hx; cases x
  case out => exact absurd (List.mem_cons_self) hx
  all_goals first | exact rfl | exact ⟨rfl, rfl⟩ | exact ⟨rfl, rfl, rfl⟩ | exact fun _ _ => rfl

theorem kept_free : d.Kept d.free.2 [.free] := by
  intro x hx; cases x
  case free => exact absurd (List.mem_cons_self) hx
  all_goals first | exact rfl | exact ⟨rfl, rfl⟩ | exact ⟨rfl, rfl, rfl⟩ | exact fun _ _ => rfl

theorem kept_elog (l : List LogEntry) (n : Nat) : d.Kept { d with elog := l, elogWr := n } [.log] := by
  intro x hx; cases x
  case log => exact absurd (List.mem_cons_self) hx
  all_goals first | exact rfl | exact ⟨rfl, rfl⟩ | exact ⟨rfl, rfl, rfl⟩ | exact fun _ _ => rfl

theorem kept_poke (a : Nat) (bs : List Byte) : d.Kept (d.poke a bs) [.mem] := by
  intro x hx; cases x
  case mem => exact absurd (List.mem_cons_self) hx
  all_goals first | exact rfl | exact ⟨rfl, rfl⟩ | exact ⟨rfl, rfl, rfl⟩ | exact fun _ _ => rfl

/-! ### Counters -/

theorem kept_bump (pg off n : Nat) (hoff : off < 4096) : d.Kept (d.bump pg off n) [.reg pg off] :=
  kept_ite (fun _ => .refl _) fun _ => kept_setReg _ _ _ hoff

theorem kept_setReg64 (pg off v : Nat) (hoff : off + 4 < 4096) : d.Kept (d.setReg64 pg off v) [.reg pg off, .reg pg (off + 4)] :=
  ((kept_setReg pg off v (by omega)).trans (kept_setReg pg (off + 4) (v / 2 ^ 32) hoff)).mono (by simp)

theorem kept_bump64 (pg off n : Nat) (hoff : off + 4 < 4096) : d.Kept (d.bump64 pg off n) [.reg pg off, .reg pg (off + 4)] :=
  kept_ite (fun _ => .refl _) fun _ => kept_setReg64 _ _ _ hoff

theorem kept_bumpHi (pg off n : Nat) (hoff : off < 4096) : d.Kept (d.bumpHi pg off n) [.reg pg off] := kept_setReg _ _ _ hoff

theorem kept_bumpLo (pg off n : Nat) (hoff : off < 4096) : d.Kept (d.bumpLo pg off n) [.reg pg off] := kept_setReg _ _ _ hoff

/-! ### Events -/

theorem addEvent_events (s : Session) (r : EvRec) : (s.addEvent r).1 = { s with events := (s.addEvent r).1.events } := by
  unfold Session.addEvent; split <;> rfl

theorem kept_event (i : Nat) (r : EvRec) : d.Kept (d.modSess i fun _ => ((d.sess i).addEvent r).1) [] := by
  intro x _; cases x
  case sess j _ =>
    simp only [Place.Same]
    by_cases h : j = i
    · subst h; rw [Dev.sess_modSess_self]; exact addEvent_events _ _
    · rw [Dev.sess_modSess_ne _ _ _ h]
  all_goals first | exact rfl | exact ⟨rfl, rfl⟩ | exact ⟨rfl, rfl, rfl⟩ | exact fun _ _ => rfl

theorem kept_notified (i : Nat) (hi : i < 8) (r : EvRec) (n : Nat) :
    d.Kept ((d.modSess i fun _ => ((d.sess i).addEvent r).1).bump pgRailjor (evMergedKey i) n) [] := by
  refine (kept_event i r).seq ?_
  exact kept_ite (fun _ => .refl _) fun _ => kept_merged _ _ hi

theorem kept_notify (pg : Nat) (w : Word) : d.Kept (d.notify pg w) [] := by
  unfold Dev.notify
  refine kept_foldl _ _ (fun d i hi => ?_) d
  have hi : i < 8 := by simpa using hi
  dsimp only
  repeat' split
  all_goals first
    | exact .refl _
    | exact kept_notified i hi _ _

theorem kept_raise (pg b : Nat) : d.Kept (d.raise pg b) [.hdr pg] := by
  unfold Dev.raise
  dsimp only
  split
  · exact (kept_modHdr _ _).seq ((kept_notify _ _).mono (by simp))
  · exact kept_modHdr _ _

theorem kept_raiseIf (c : Bool) (pg b : Nat) : d.Kept (d.raiseIf c pg b) [.hdr pg] :=
  kept_ite (fun _ => kept_raise _ _) fun _ => .refl _

theorem kept_checkOrders (p : Nat) : d.Kept (d.checkOrders p) [.hdr pgPart] := by
  unfold Dev.checkOrders
  dsimp only
  split
  · exact .refl _
  · exact ((kept_orders _ _).mono (by simp)).seq (kept_raise _ _)

theorem kept_ordersOf (k : Nat) : d.Kept (d.ordersOf k) [.hdr pgPart] := by
  unfold Dev.ordersOf; split
  · exact kept_checkOrders _
  · exact .refl _

/-! ### Errors -/

theorem kept_setError (pg code i0 i1 : Nat) : d.Kept (d.setError pg code i0 i1) [.hdr pg, .hdr pgDbg, .log] := by
  unfold Dev.setError
  dsimp only
  refine ((((kept_modHdr pg _).mono ?_).seq ((kept_raiseIf (hasErrorBit pg) pg 0).mono ?_)).seq
    ((kept_elog _ _).mono ?_)).seq ((kept_raise pgDbg 1).mono ?_) <;> simp

end Sys2Proof.Machine
end

