-- ==== Sys2Proof/Laws/Memory.lean ====
section
/-!
SUPPORT. Sys2Proof/Laws/Memory.lean: what the device's own shared operations do: writing memory, sending on a link, on a session
and to an engine, and the canonical form of memory.
-/
namespace Sys2Proof.Machine

variable {d : Dev}

/-! ### Memory -/

/-- Memory after reset has its canonical form. -/
theorem reset_mem_wf : State.reset.chip.dev.mem.wf = true := rfl

theorem poke_mem (a : Nat) (bs : List Byte) : (d.poke a bs).mem = d.mem.write a bs := rfl
theorem poke_wf (h : d.mem.wf = true) (a : Nat) (bs : List Byte) : (d.poke a bs).mem.wf = true := wf_write h a bs
theorem moveBytes_wf (h : d.mem.wf = true) (src dst n : Nat) : (d.moveBytes src dst n).mem.wf = true := wf_copy h src dst n

/-- The meters leave memory alone. -/
theorem meterCycle_mem : d.meterCycle.mem = d.mem := by
  have links (ns : List Nat) (e : Dev) (g : LinkSt → LinkSt) : (ns.foldl (fun e n => e.modLink n g) e).mem = e.mem := by
    induction ns generalizing e with
    | nil => rfl
    | cons n ns ih => exact ih (e.modLink n g)
  have events (xs : List (Nat × Nat)) (c : Nat × Nat → Bool) (e : Dev) :
      (xs.foldl (fun e x => e.raiseIf (c x) x.1 1) e).mem = e.mem := by
    induction xs generalizing e with
    | nil => rfl
    | cons x xs ih => exact (ih _).trans ((kept_raiseIf (c x) x.1 1) .mem (by simp)).1
  exact (events _ _ _).trans (links _ _ _)

/-- The contents of the die windows keep the canonical form as they follow their DIMMs. -/
theorem relayDdr_wf (h : d.mem.wf = true) : d.relayDdr.mem.wf = true := by
  unfold Dev.relayDdr
  dsimp only
  split
  · exact h
  · refine List.foldlRecOn (motive := fun m => Memory.wf m = true) _ _ (twf_filter _ h) fun m hm x _ => ?_
    split
    · exact wf_write hm _ _
    · exact hm

/-- A write outside HBM lands at once. -/
theorem write_outside {a : Nat} (h : ¬a < ddrBase) (bs : List Byte) : d.write a bs = d.poke a bs := by simp [Dev.write, h]

/-- A write lands or waits; either way memory keeps its form. -/
theorem write_mem (a : Nat) (bs : List Byte) : (d.write a bs).mem = d.mem.write a bs ∨ (d.write a bs).mem = d.mem := by
  unfold Dev.write Dev.writeHbm
  dsimp only
  repeat' split
  all_goals first
    | exact .inl rfl
    | exact .inr rfl

theorem write_wf (h : d.mem.wf = true) (a : Nat) (bs : List Byte) : (d.write a bs).mem.wf = true := by
  rcases write_mem (d := d) a bs with e | e <;> rw [e]
  · exact wf_write h a bs
  · exact h

/-- A write touches memory and the copy-on-write state of its stack. -/
theorem kept_write (a : Nat) (bs : List Byte) : d.Kept (d.write a bs) [.mem, .cow (stackOf a)] := by
  unfold Dev.write Dev.writeHbm
  refine kept_ite (fun _ => ?_) fun _ => (kept_poke a bs).mono (by simp)
  dsimp only
  repeat' split
  all_goals first
    | exact (kept_poke _ _).mono (by simp)
    | exact (kept_modCow _ _).mono (by simp)
    | exact ((kept_modCow _ _).mono (ys := [.mem, .cow (stackOf a)]) (by simp)).seq ((kept_modCow _ _).mono (by simp))
    | exact ((kept_modCow _ _).mono (ys := [.mem, .cow (stackOf a)]) (by simp)).seq ((kept_poke _ _).mono (by simp))

/-- Places within an area. -/
theorem Dev.Kept.outside {e : Dev} {xs : List Place} {area : Place → Bool} (h : d.Kept e xs) (hx : ∀ x ∈ xs, area x = true) :
    d.KeptOutside e area := fun x hn => h x fun hm => by simp [hx x hm] at hn

theorem Dev.KeptOutside.refl (d : Dev) {area : Place → Bool} : d.KeptOutside d area := fun x _ => .refl x

theorem Dev.KeptOutside.trans {e f : Dev} {area : Place → Bool} (h : d.KeptOutside e area) (h' : e.KeptOutside f area) :
    d.KeptOutside f area := fun x hx => (h x hx).trans (h' x hx)

theorem Dev.KeptOutside.mono {e : Dev} {area more : Place → Bool} (h : d.KeptOutside e area) (hm : ∀ x, area x = true → more x = true) :
    d.KeptOutside e more := fun x hx => h x (by cases ha : area x with | false => rfl | true => simp [hm x ha] at hx)

/-! ### Links -/

theorem kept_modLn (n : Nat) (f : LinkSt → LinkSt) : d.Kept (d.modLn n f) [.link (d.lnHome n)] := kept_modLink _ f

theorem lnHome_modLn (n m : Nat) (f : LinkSt → LinkSt) : (d.modLn n f).lnHome m = d.lnHome m := rfl

theorem lnMembers_modLn (n m : Nat) (f : LinkSt → LinkSt) : (d.modLn n f).lnMembers m = d.lnMembers m := rfl

theorem kept_linkError (n code : Nat) : d.Kept (d.linkError n code) [.hdr (pgLink n), .hdr pgDbg, .log] := by
  unfold Dev.linkError; exact kept_setError _ _ _ _

/-- A flit put on the wire leaves only by what has been sent. -/
theorem kept_wire (n : Nat) (f : LnFlit) : d.Kept (d.wire n f) [.out] := kept_send _ _

/-- A first send stays within the link's own state, its counters and what has been sent. -/
theorem keptOutside_firstSend (n : Nat) (f : LnFlit) : d.KeptOutside (d.firstSend n f) (Place.sendOf (d.lnHome n)) := by
  unfold Dev.firstSend
  dsimp only
  refine ((kept_modLn _ _).outside ?_).trans (((kept_bump64 _ _ _ (by decide)).outside ?_).trans ((kept_wire _ _).outside ?_)) <;>
    simp [Place.sendOf, lnHome_modLn]

/-- The members of a trunk follow from the links' CFG alone. -/
theorem lnMembers_congr {e : Dev} (h : ∀ i, e.lnCfg i = d.lnCfg i) (n : Nat) : e.lnMembers n = d.lnMembers n := by
  unfold Dev.lnMembers Dev.trunkMates Dev.lnTrunk Dev.lnMember Dev.lnWidth
  simp only [h]

theorem lnHome_congr {e : Dev} (h : ∀ i, e.lnCfg i = d.lnCfg i) (n : Nat) : e.lnHome n = d.lnHome n := by
  unfold Dev.lnHome; rw [lnMembers_congr h]

theorem lnCfg_of_kept {e : Dev} {xs : List Place} (h : d.Kept e xs) (hx : ∀ i, .reg (pgLink i) 0x104 ∉ xs) (i : Nat) :
    e.lnCfg i = d.lnCfg i :=
  h (.reg (pgLink i) 0x104) (hx i) (by decide) fun hn => by simp [evMergedKey] at hn

theorem firstSend_cfg (n i : Nat) (f : LnFlit) : (d.firstSend n f).lnCfg i = d.lnCfg i := by
  unfold Dev.firstSend
  dsimp only
  rw [lnCfg_of_kept (kept_wire _ _) (by simp), lnCfg_of_kept (kept_bump64 _ _ _ (by decide)) (by simp),
    lnCfg_of_kept (kept_modLn _ _) (by simp)]

/-- Sending what waits stays within the link. -/
theorem keptOutside_drainLink (n fuel : Nat) : d.KeptOutside (d.drainLink n fuel) (Place.sendOf (d.lnHome n)) ∧
    ∀ i, (d.drainLink n fuel).lnCfg i = d.lnCfg i := by
  induction fuel generalizing d with
  | zero => exact ⟨.refl d, fun _ => rfl⟩
  | succ fuel ih =>
    unfold Dev.drainLink
    dsimp only
    have sent (g : LinkSt → LinkSt) (f : LnFlit) :
        d.KeptOutside (((d.modLn n g).firstSend n f).drainLink n fuel) (Place.sendOf (d.lnHome n)) ∧
          ∀ i, (((d.modLn n g).firstSend n f).drainLink n fuel).lnCfg i = d.lnCfg i := by
      generalize hm : d.modLn n g = m
      have h1 : d.KeptOutside m (Place.sendOf (d.lnHome n)) := hm ▸ (kept_modLn _ _).outside (by simp [Place.sendOf])
      have hc : ∀ i, m.lnCfg i = d.lnCfg i := fun i => hm ▸ lnCfg_of_kept (kept_modLn _ _) (by simp) i
      have hc' : ∀ i, (m.firstSend n f).lnCfg i = d.lnCfg i := fun i => (firstSend_cfg _ _ _).trans (hc i)
      have h2 := keptOutside_firstSend (d := m) n f
      have h3 := ih (d := m.firstSend n f)
      rw [lnHome_congr hc] at h2
      rw [lnHome_congr hc'] at h3
      exact ⟨h1.trans (h2.trans h3.1), fun i => (h3.2 i).trans (hc' i)⟩
    split
    · exact sent _ _
    · split
      · exact ⟨.refl d, fun _ => rfl⟩
      · exact sent _ _

/-- A flit formed for a link, and a record of its own, stay within the link. -/
theorem keptOutside_pushFlit (n : Nat) (f : LnFlit) : d.KeptOutside (d.pushFlit n f) (Place.sendOf (d.lnHome n)) := by
  unfold Dev.pushFlit
  dsimp only
  exact ((kept_modLn _ _).outside (by simp [Place.sendOf])).trans (keptOutside_drainLink n _).1

theorem keptOutside_drainAll (n : Nat) : d.KeptOutside (d.drainAll n) (Place.sendOf (d.lnHome n)) := (keptOutside_drainLink n _).1

theorem keptOutside_sendRecord (n ty : Nat) (body : List Byte) :
    d.KeptOutside (d.sendRecord n ty body) (Place.sendOf (d.lnHome n)) := keptOutside_pushFlit _ _

/-! ### Sessions -/

/-- A frame sent touches the counters of ETH. -/
theorem keptOutside_txFrame (slot : Nat) : d.KeptOutside d.txFrame (Place.saying slot) := by
  unfold Dev.txFrame
  dsimp only
  split
  · exact ((kept_bump64 _ _ _ (by decide)).outside (by simp [Place.saying])).trans
      ((kept_bump64 _ _ _ (by decide)).outside (by simp [Place.saying]))
  · exact (kept_bump64 _ _ _ (by decide)).outside (by simp [Place.saying])

theorem keptOutside_rjWire (slot typ flags seq stream : Nat) (payload : List Byte) :
    d.KeptOutside (d.rjWire slot typ flags seq stream payload) (Place.saying slot) := by
  unfold Dev.rjWire
  dsimp only
  exact ((kept_send _ _).outside (by simp [Place.saying])).trans
    ((keptOutside_txFrame slot).trans ((kept_modSess _ _).outside (by simp [Place.saying])))

theorem keptOutside_rjFlush (slot n : Nat) : d.KeptOutside (d.rjFlush slot n) (Place.saying slot) := by
  induction n generalizing d with
  | zero => exact .refl d
  | succ n ih =>
    unfold Dev.rjFlush
    dsimp only
    repeat' split
    · exact .refl d
    · exact .refl d
    · next m ms _ _ =>
      have h1 := (kept_modSess (d := d) slot fun s => { s with waiting := ms, unacked := s.unacked ++ [m] }).outside
        (area := Place.saying slot) (by simp [Place.saying])
      exact h1.trans (Dev.KeptOutside.trans (keptOutside_rjWire _ _ _ _ _ _) ih)

/-- A message of a session stays within the session, the counters of ETH and what has been sent. -/
theorem keptOutside_rjSend (slot typ flags stream : Nat) (payload : List Byte) :
    d.KeptOutside (d.rjSend slot typ flags stream payload) (Place.saying slot) := by
  unfold Dev.rjSend
  dsimp only
  exact ((kept_modSess _ _).outside (by simp [Place.saying])).trans (keptOutside_rjFlush _ _)

theorem keptOutside_rjAck (slot : Nat) : d.KeptOutside (d.rjAck slot) (Place.saying slot) := by
  unfold Dev.rjAck; exact keptOutside_rjWire _ _ _ _ _ _

/-! ### Collective engines -/

theorem kept_failRun (c ch code : Nat) :
    d.Kept (d.failRun c ch code) [.coll c, .hdr (pgColl c), .hdr pgDbg, .log] := by
  unfold Dev.failRun
  split
  · exact .refl _
  · refine kept_ite (fun _ => .refl _) fun _ => ?_
    exact ((kept_modColl _ _).mono (by simp)).seq ((kept_setError _ _ _ _).mono (by simp))

end Sys2Proof.Machine
end

