-- ==== Sys2Proof/Laws/PerInstr.lean ====
section
/-!
SUPPORT. Sys2Proof/Laws/PerInstr.lean: statements about every command, one lemma per constructor of Instr.
-/
namespace Sys2Proof.Laws.Cores

/-- The core a command of a core names; none for the commands that name none. -/
def coreOf : Instr → Option Nat
  | .nop k => some k
  | .set k => some k
  | .add k => some k
  | .loop k => some k
  | .br k => some k
  | .waitTick k => some k
  | .listEnd k => some k
  | .fMatmul k => some k
  | .fused k => some k
  | .bMatmul k => some k
  | .bAdd k => some k
  | .convert k => some k
  | .convertCalibrated k => some k
  | .rowNormFwd k => some k
  | .rowNormBwd k => some k
  | .rowSoftmaxFwd k => some k
  | .rowSoftmaxBwd k => some k
  | .rowAct k => some k
  | .rowDraw k => some k
  | .msgSend k => some k
  | .msgRecv k => some k
  | .messageArrival _ _ => none
  | .galleyPush k => some k
  | .galleyPop k => some k
  | .dmaCopy k => some k
  | .dmaTcopy k => some k
  | .dmaDrain k => some k
  | .gaugeSetImageLoad k => some k
  | .gaugeSetMerge k => some k
  | .gaugeSetClearCounters k => some k
  | .gaugeSetClearHistory k => some k
  | .gaugeReadImages k => some k
  | .gaugeReadSummary k => some k
  | .platenSubmit k => some k
  | .platenSubmitLambNorm k => some k
  | .platenSubmitLambApply k => some k
  | .platenDrain k => some k
  | .passStart k _ => some k
  | .tileConvert k _ => some k
  | .laneGeneratorsAcquire k _ => some k
  | .commandRetire k _ => some k
  | .globalRecastUpdate k => some k
  | .imprRunStart _ _ => none
  | .firstImpressionStart _ => none
  | .stopPress _ _ => none
  | .announcement _ => none
  | .tickRecord _ _ => none
  | .tick _ => none
  | .haltTick _ => none
  | .listsBegin _ => none
  | .timeLoad _ => none
  | .gaugeWindowWrite k _ _ => some k
  | .slabClr k _ => some k
  | .tapClr k _ => some k
  | .laneProbeGo k _ => some k
  | .laneProbeDone k => some k
  | .cmemLoad k _ => some k
  | .cmemLoadDone k => some k
  | .listEntryWrite k _ _ => some k
  | .galleyCfgWrite k _ _ => some k
  | .galleyFlush k _ _ => some k
  | .galleyFlitArrival k _ => some k
  | .galleyCreditArrival k _ => some k
  | .galleyConsumerStart k _ => some k
  | .galleyForwardFlit k _ => some k
  | .galleyRingRead k _ => some k
  | .dmaTransferStart _ _ => none
  | .dmaTransferDone _ _ => none
  | .platenUpdateStart _ => none
  | .platenUpdateDone _ => none
  | .zeroingDone _ => none
  | .linkCfgWrite _ _ => none
  | .laneLock _ _ => none
  | .linkTrainingDone _ => none
  | .helloTimer _ => none
  | .linkRetrain _ _ => none
  | .linkRetrainDone _ => none
  | .retrainLimitExpiry _ => none
  | .linkFlitReceive _ _ => none
  | .galleyLinkFlit _ _ => none
  | .collFlit _ _ => none
  | .hello _ _ => none
  | .lcCredit _ _ => none
  | .galleyCredit _ _ => none
  | .galleyAbort _ _ => none
  | .boundary _ _ => none
  | .tsyncReq _ _ => none
  | .tsyncResp _ _ => none
  | .timeExchangeTimer _ => none
  | .collStart _ _ => none
  | .collWave _ _ => none
  | .collKick _ _ _ _ => none
  | .collRunStart _ _ => none
  | .permuteCopyDone _ _ => none
  | .collRunDone _ _ => none
  | .proofOrderWarm _ _ => none
  | .proofOrderCold _ _ => none
  | .proofCancel _ _ => none
  | .quiesceDone _ => none
  | .quiesceTimeout _ => none
  | .captureDone _ => none
  | .shadowCopyDone _ _ => none
  | .copyDone _ => none
  | .manifestSigned _ _ => none
  | .proofDrainStart => none
  | .proofDrainDone => none
  | .drainAckTimeout => none
  | .genPin _ => none
  | .genUnpin _ => none
  | .genDelete _ => none
  | .drainNow _ => none
  | .restoreLoad _ _ => none
  | .restoreRelocate _ _ => none
  | .restoreImport _ _ => none
  | .restoreDone _ => none
  | .ethFrameReceive _ => none
  | .macsecOldAnExpiry => none
  | .regRd _ => none
  | .regWr _ => none
  | .dmaWr _ => none
  | .dmaRd _ => none
  | .cmdSubmit _ => none
  | .proofData _ => none
  | .ack _ => none
  | .openReq _ => none
  | .openFin _ => none
  | .handshakeReassemblyTimeout _ => none
  | .ackDelayExpiry _ => none
  | .ackIdleRepeat _ => none
  | .retransmitTimeout _ => none
  | .sessionTimeout _ => none
  | .sessionClose _ => none
  | .eventSend _ => none
  | .partitionClaim _ _ => none
  | .partitionRelease _ _ => none
  | .maintWrite _ _ => none
  | .pointRampDone _ => none
  | .energyOverBudget _ => none
  | .energyStepdownRepeat _ => none
  | .pinSample _ => none
  | .powerCapStepdown => none
  | .clockGateEngage => none
  | .clockGateRelease => none
  | .vinAlert _ => none
  | .thermalWarn _ _ => none
  | .thermalHot _ _ => none
  | .thermalHotStepdown _ => none
  | .thermalTrip _ _ => none
  | .railFault => none
  | .vinApply _ => none
  | .vinRemove => none
  | .pwrEnAssert => none
  | .bootDelayExpiry => none
  | .pwrEnDeassert _ => none
  | .firmwareVerified _ => none
  | .memoryTrainingDone _ _ _ => none
  | .bootTimeout => none
  | .d2dRetrain _ _ => none
  | .d2dRetrainTimeout _ _ => none
  | .watchdogExpiry => none
  | .ddrSelfRefreshEntered => none
  | .warmResetRailsOff => none
  | .warmResetRestart => none
  | .bmbRead _ _ => none
  | .bmbWrite _ _ _ => none
  | .bmbWarmReset => none
  | .recoveryLoad _ _ => none
  | .recoveryGo => none
  | .trustWrite _ _ => none
  | .debugOpen => none
  | .flashWrite _ _ _ => none
  | .svnCommit => none
  | .secResetWrite _ => none
  | .attestGo _ => none
  | .attestSigned _ => none
  | .freeze => none
  | .freezeRefreshKeeper => none
  | .extest _ => none
  | .samplePreload _ => none
  | .dbgAddr _ => none
  | .dbgData _ => none
  | .dumpCtl _ => none
  | .dumpDone => none
  | .bypass => none
  | .errClr _ _ => none
  | .evtFlagClear _ _ => none
  | .evtForce _ _ => none
  | .softReset _ _ => none
  | .enable _ _ => none
  | .registerWrite _ _ _ => none
  | .copierPageWritten _ _ => none
  | .ethLinkChange _ => none
  | .hubRailsInRegulation => none
  | .dieRailsInRegulation => none
  | .d2dTrainingDone _ _ _ => none
  | .handshakeSignatureDone _ _ => none

/-- A well-formed command of a core names one that the module has (R12). -/
def Statement (i : Instr) : Prop := i.wf = true → ∀ k, coreOf i = some k → k < 1152

/-- The check a command of a core passes says so. -/
theorem of_okCore {i : Instr} {k : Nat} (h : i.wf = true → okCore k = true) (e : coreOf i = some k) : Statement i := by
  intro w j f
  obtain rfl : k = j := Option.some.inj (e.symm.trans f)
  simpa [okCore] using h w

theorem nop (k : Nat) : Statement (.nop k) := of_okCore id rfl
theorem set (k : Nat) : Statement (.set k) := of_okCore id rfl
theorem add (k : Nat) : Statement (.add k) := of_okCore id rfl
theorem loop (k : Nat) : Statement (.loop k) := of_okCore id rfl
theorem br (k : Nat) : Statement (.br k) := of_okCore id rfl
theorem waitTick (k : Nat) : Statement (.waitTick k) := of_okCore id rfl
theorem listEnd (k : Nat) : Statement (.listEnd k) := of_okCore id rfl
theorem fMatmul (k : Nat) : Statement (.fMatmul k) := of_okCore id rfl
theorem fused (k : Nat) : Statement (.fused k) := of_okCore id rfl
theorem bMatmul (k : Nat) : Statement (.bMatmul k) := of_okCore id rfl
theorem bAdd (k : Nat) : Statement (.bAdd k) := of_okCore id rfl
theorem convert (k : Nat) : Statement (.convert k) := of_okCore id rfl
theorem convertCalibrated (k : Nat) : Statement (.convertCalibrated k) := of_okCore id rfl
theorem rowNormFwd (k : Nat) : Statement (.rowNormFwd k) := of_okCore id rfl
theorem rowNormBwd (k : Nat) : Statement (.rowNormBwd k) := of_okCore id rfl
theorem rowSoftmaxFwd (k : Nat) : Statement (.rowSoftmaxFwd k) := of_okCore id rfl
theorem rowSoftmaxBwd (k : Nat) : Statement (.rowSoftmaxBwd k) := of_okCore id rfl
theorem rowAct (k : Nat) : Statement (.rowAct k) := of_okCore id rfl
theorem rowDraw (k : Nat) : Statement (.rowDraw k) := of_okCore id rfl
theorem msgSend (k : Nat) : Statement (.msgSend k) := of_okCore id rfl
theorem msgRecv (k : Nat) : Statement (.msgRecv k) := of_okCore id rfl
theorem messageArrival (src : Nat) (seq : Nat) : Statement (.messageArrival src seq) := fun _ _ h => by cases h
theorem galleyPush (k : Nat) : Statement (.galleyPush k) := of_okCore id rfl
theorem galleyPop (k : Nat) : Statement (.galleyPop k) := of_okCore id rfl
theorem dmaCopy (k : Nat) : Statement (.dmaCopy k) := of_okCore id rfl
theorem dmaTcopy (k : Nat) : Statement (.dmaTcopy k) := of_okCore id rfl
theorem dmaDrain (k : Nat) : Statement (.dmaDrain k) := of_okCore id rfl
theorem gaugeSetImageLoad (k : Nat) : Statement (.gaugeSetImageLoad k) := of_okCore id rfl
theorem gaugeSetMerge (k : Nat) : Statement (.gaugeSetMerge k) := of_okCore id rfl
theorem gaugeSetClearCounters (k : Nat) : Statement (.gaugeSetClearCounters k) := of_okCore id rfl
theorem gaugeSetClearHistory (k : Nat) : Statement (.gaugeSetClearHistory k) := of_okCore id rfl
theorem gaugeReadImages (k : Nat) : Statement (.gaugeReadImages k) := of_okCore id rfl
theorem gaugeReadSummary (k : Nat) : Statement (.gaugeReadSummary k) := of_okCore id rfl
theorem platenSubmit (k : Nat) : Statement (.platenSubmit k) := of_okCore id rfl
theorem platenSubmitLambNorm (k : Nat) : Statement (.platenSubmitLambNorm k) := of_okCore id rfl
theorem platenSubmitLambApply (k : Nat) : Statement (.platenSubmitLambApply k) := of_okCore id rfl
theorem platenDrain (k : Nat) : Statement (.platenDrain k) := of_okCore id rfl
theorem passStart (k : Nat) (arr : Nat) : Statement (.passStart k arr) := of_okCore (fun h => (Bool.and_eq_true_iff.mp h).1) rfl
theorem tileConvert (k : Nat) (unit : Nat) : Statement (.tileConvert k unit) := of_okCore (fun h => (Bool.and_eq_true_iff.mp h).1) rfl
theorem laneGeneratorsAcquire (k : Nat) (holder : Nat) : Statement (.laneGeneratorsAcquire k holder) := of_okCore (fun h => (Bool.and_eq_true_iff.mp h).1) rfl
theorem commandRetire (k : Nat) (seq : Nat) : Statement (.commandRetire k seq) := of_okCore (fun h => (Bool.and_eq_true_iff.mp h).1) rfl
theorem globalRecastUpdate (k : Nat) : Statement (.globalRecastUpdate k) := of_okCore id rfl
theorem imprRunStart (p : Nat) (w : Word) : Statement (.imprRunStart p w) := fun _ _ h => by cases h
theorem firstImpressionStart (p : Nat) : Statement (.firstImpressionStart p) := fun _ _ h => by cases h
theorem stopPress (p : Nat) (w : Word) : Statement (.stopPress p w) := fun _ _ h => by cases h
theorem announcement (p : Nat) : Statement (.announcement p) := fun _ _ h => by cases h
theorem tickRecord (n : Nat) (rec : List Byte) : Statement (.tickRecord n rec) := fun _ _ h => by cases h
theorem tick (p : Nat) : Statement (.tick p) := fun _ _ h => by cases h
theorem haltTick (p : Nat) : Statement (.haltTick p) := fun _ _ h => by cases h
theorem listsBegin (p : Nat) : Statement (.listsBegin p) := fun _ _ h => by cases h
theorem timeLoad (w : Word) : Statement (.timeLoad w) := fun _ _ h => by cases h
theorem gaugeWindowWrite (k : Nat) (off : Nat) (w : Word) : Statement (.gaugeWindowWrite k off w) := of_okCore (fun h => (Bool.and_eq_true_iff.mp h).1) rfl
theorem slabClr (k : Nat) (w : Word) : Statement (.slabClr k w) := of_okCore id rfl
theorem tapClr (k : Nat) (w : Word) : Statement (.tapClr k w) := of_okCore id rfl
theorem laneProbeGo (k : Nat) (w : Word) : Statement (.laneProbeGo k w) := of_okCore id rfl
theorem laneProbeDone (k : Nat) : Statement (.laneProbeDone k) := of_okCore id rfl
theorem cmemLoad (k : Nat) (w : Word) : Statement (.cmemLoad k w) := of_okCore id rfl
theorem cmemLoadDone (k : Nat) : Statement (.cmemLoadDone k) := of_okCore id rfl
theorem listEntryWrite (k : Nat) (off : Nat) (w : Word) : Statement (.listEntryWrite k off w) := of_okCore (fun h => (Bool.and_eq_true_iff.mp h).1) rfl
theorem galleyCfgWrite (k : Nat) (g : Nat) (w : Word) : Statement (.galleyCfgWrite k g w) := of_okCore (fun h => (Bool.and_eq_true_iff.mp h).1) rfl
theorem galleyFlush (k : Nat) (g : Nat) (w : Word) : Statement (.galleyFlush k g w) := of_okCore (fun h => (Bool.and_eq_true_iff.mp h).1) rfl
theorem galleyFlitArrival (k : Nat) (g : Nat) : Statement (.galleyFlitArrival k g) := of_okCore (fun h => (Bool.and_eq_true_iff.mp h).1) rfl
theorem galleyCreditArrival (k : Nat) (g : Nat) : Statement (.galleyCreditArrival k g) := of_okCore (fun h => (Bool.and_eq_true_iff.mp h).1) rfl
theorem galleyConsumerStart (k : Nat) (g : Nat) : Statement (.galleyConsumerStart k g) := of_okCore (fun h => (Bool.and_eq_true_iff.mp h).1) rfl
theorem galleyForwardFlit (k : Nat) (g : Nat) : Statement (.galleyForwardFlit k g) := of_okCore (fun h => (Bool.and_eq_true_iff.mp h).1) rfl
theorem galleyRingRead (k : Nat) (g : Nat) : Statement (.galleyRingRead k g) := of_okCore (fun h => (Bool.and_eq_true_iff.mp h).1) rfl
theorem dmaTransferStart (c : Nat) (e : Nat) : Statement (.dmaTransferStart c e) := fun _ _ h => by cases h
theorem dmaTransferDone (c : Nat) (e : Nat) : Statement (.dmaTransferDone c e) := fun _ _ h => by cases h
theorem platenUpdateStart (st : Nat) : Statement (.platenUpdateStart st) := fun _ _ h => by cases h
theorem platenUpdateDone (st : Nat) : Statement (.platenUpdateDone st) := fun _ _ h => by cases h
theorem zeroingDone (p : Nat) : Statement (.zeroingDone p) := fun _ _ h => by cases h
theorem linkCfgWrite (n : Nat) (w : Word) : Statement (.linkCfgWrite n w) := fun _ _ h => by cases h
theorem laneLock (n : Nat) (lane : Nat) : Statement (.laneLock n lane) := fun _ _ h => by cases h
theorem linkTrainingDone (n : Nat) : Statement (.linkTrainingDone n) := fun _ _ h => by cases h
theorem helloTimer (n : Nat) : Statement (.helloTimer n) := fun _ _ h => by cases h
theorem linkRetrain (n : Nat) (cause : Nat) : Statement (.linkRetrain n cause) := fun _ _ h => by cases h
theorem linkRetrainDone (n : Nat) : Statement (.linkRetrainDone n) := fun _ _ h => by cases h
theorem retrainLimitExpiry (n : Nat) : Statement (.retrainLimitExpiry n) := fun _ _ h => by cases h
theorem linkFlitReceive (n : Nat) (flit : List Byte) : Statement (.linkFlitReceive n flit) := fun _ _ h => by cases h
theorem galleyLinkFlit (n : Nat) (flit : List Byte) : Statement (.galleyLinkFlit n flit) := fun _ _ h => by cases h
theorem collFlit (n : Nat) (flit : List Byte) : Statement (.collFlit n flit) := fun _ _ h => by cases h
theorem hello (n : Nat) (rec : List Byte) : Statement (.hello n rec) := fun _ _ h => by cases h
theorem lcCredit (n : Nat) (rec : List Byte) : Statement (.lcCredit n rec) := fun _ _ h => by cases h
theorem galleyCredit (n : Nat) (rec : List Byte) : Statement (.galleyCredit n rec) := fun _ _ h => by cases h
theorem galleyAbort (n : Nat) (rec : List Byte) : Statement (.galleyAbort n rec) := fun _ _ h => by cases h
theorem boundary (n : Nat) (rec : List Byte) : Statement (.boundary n rec) := fun _ _ h => by cases h
theorem tsyncReq (n : Nat) (rec : List Byte) : Statement (.tsyncReq n rec) := fun _ _ h => by cases h
theorem tsyncResp (n : Nat) (rec : List Byte) : Statement (.tsyncResp n rec) := fun _ _ h => by cases h
theorem timeExchangeTimer (n : Nat) : Statement (.timeExchangeTimer n) := fun _ _ h => by cases h
theorem collStart (n : Nat) (rec : List Byte) : Statement (.collStart n rec) := fun _ _ h => by cases h
theorem collWave (n : Nat) (rec : List Byte) : Statement (.collWave n rec) := fun _ _ h => by cases h
theorem collKick (c : Nat) (src : Nat) (tag : Nat) (payload : List Byte) : Statement (.collKick c src tag payload) := fun _ _ h => by cases h
theorem collRunStart (c : Nat) (e : Nat) : Statement (.collRunStart c e) := fun _ _ h => by cases h
theorem permuteCopyDone (c : Nat) (ch : Nat) : Statement (.permuteCopyDone c ch) := fun _ _ h => by cases h
theorem collRunDone (c : Nat) (ch : Nat) : Statement (.collRunDone c ch) := fun _ _ h => by cases h
theorem proofOrderWarm (p : Nat) (w : Word) : Statement (.proofOrderWarm p w) := fun _ _ h => by cases h
theorem proofOrderCold (p : Nat) (w : Word) : Statement (.proofOrderCold p w) := fun _ _ h => by cases h
theorem proofCancel (p : Nat) (w : Word) : Statement (.proofCancel p w) := fun _ _ h => by cases h
theorem quiesceDone (p : Nat) : Statement (.quiesceDone p) := fun _ _ h => by cases h
theorem quiesceTimeout (p : Nat) : Statement (.quiesceTimeout p) := fun _ _ h => by cases h
theorem captureDone (p : Nat) : Statement (.captureDone p) := fun _ _ h => by cases h
theorem shadowCopyDone (st : Nat) (page : Nat) : Statement (.shadowCopyDone st page) := fun _ _ h => by cases h
theorem copyDone (p : Nat) : Statement (.copyDone p) := fun _ _ h => by cases h
theorem manifestSigned (p : Nat) (sig : List Byte) : Statement (.manifestSigned p sig) := fun _ _ h => by cases h
theorem proofDrainStart : Statement .proofDrainStart := fun _ _ h => by cases h
theorem proofDrainDone : Statement .proofDrainDone := fun _ _ h => by cases h
theorem drainAckTimeout : Statement .drainAckTimeout := fun _ _ h => by cases h
theorem genPin (w : Word) : Statement (.genPin w) := fun _ _ h => by cases h
theorem genUnpin (w : Word) : Statement (.genUnpin w) := fun _ _ h => by cases h
theorem genDelete (w : Word) : Statement (.genDelete w) := fun _ _ h => by cases h
theorem drainNow (w : Word) : Statement (.drainNow w) := fun _ _ h => by cases h
theorem restoreLoad (p : Nat) (w : Word) : Statement (.restoreLoad p w) := fun _ _ h => by cases h
theorem restoreRelocate (p : Nat) (w : Word) : Statement (.restoreRelocate p w) := fun _ _ h => by cases h
theorem restoreImport (p : Nat) (w : Word) : Statement (.restoreImport p w) := fun _ _ h => by cases h
theorem restoreDone (p : Nat) : Statement (.restoreDone p) := fun _ _ h => by cases h
theorem ethFrameReceive (frame : List Byte) : Statement (.ethFrameReceive frame) := fun _ _ h => by cases h
theorem macsecOldAnExpiry : Statement .macsecOldAnExpiry := fun _ _ h => by cases h
theorem regRd (msg : List Byte) : Statement (.regRd msg) := fun _ _ h => by cases h
theorem regWr (msg : List Byte) : Statement (.regWr msg) := fun _ _ h => by cases h
theorem dmaWr (msg : List Byte) : Statement (.dmaWr msg) := fun _ _ h => by cases h
theorem dmaRd (msg : List Byte) : Statement (.dmaRd msg) := fun _ _ h => by cases h
theorem cmdSubmit (msg : List Byte) : Statement (.cmdSubmit msg) := fun _ _ h => by cases h
theorem proofData (msg : List Byte) : Statement (.proofData msg) := fun _ _ h => by cases h
theorem ack (msg : List Byte) : Statement (.ack msg) := fun _ _ h => by cases h
theorem openReq (msg : List Byte) : Statement (.openReq msg) := fun _ _ h => by cases h
theorem openFin (msg : List Byte) : Statement (.openFin msg) := fun _ _ h => by cases h
theorem handshakeReassemblyTimeout (h : Nat) : Statement (.handshakeReassemblyTimeout h) := fun _ _ h => by cases h
theorem ackDelayExpiry (slot : Nat) : Statement (.ackDelayExpiry slot) := fun _ _ h => by cases h
theorem ackIdleRepeat (slot : Nat) : Statement (.ackIdleRepeat slot) := fun _ _ h => by cases h
theorem retransmitTimeout (slot : Nat) : Statement (.retransmitTimeout slot) := fun _ _ h => by cases h
theorem sessionTimeout (slot : Nat) : Statement (.sessionTimeout slot) := fun _ _ h => by cases h
theorem sessionClose (w : Word) : Statement (.sessionClose w) := fun _ _ h => by cases h
theorem eventSend (slot : Nat) : Statement (.eventSend slot) := fun _ _ h => by cases h
theorem partitionClaim (p : Nat) (w : Word) : Statement (.partitionClaim p w) := fun _ _ h => by cases h
theorem partitionRelease (p : Nat) (w : Word) : Statement (.partitionRelease p w) := fun _ _ h => by cases h
theorem maintWrite (p : Nat) (w : Word) : Statement (.maintWrite p w) := fun _ _ h => by cases h
theorem pointRampDone (c : Nat) : Statement (.pointRampDone c) := fun _ _ h => by cases h
theorem energyOverBudget (p : Nat) : Statement (.energyOverBudget p) := fun _ _ h => by cases h
theorem energyStepdownRepeat (p : Nat) : Statement (.energyStepdownRepeat p) := fun _ _ h => by cases h
theorem pinSample (watts : Nat) : Statement (.pinSample watts) := fun _ _ h => by cases h
theorem powerCapStepdown : Statement .powerCapStepdown := fun _ _ h => by cases h
theorem clockGateEngage : Statement .clockGateEngage := fun _ _ h => by cases h
theorem clockGateRelease : Statement .clockGateRelease := fun _ _ h => by cases h
theorem vinAlert (mv : Nat) : Statement (.vinAlert mv) := fun _ _ h => by cases h
theorem thermalWarn (sensor : Nat) (temp : Int) : Statement (.thermalWarn sensor temp) := fun _ _ h => by cases h
theorem thermalHot (sensor : Nat) (temp : Int) : Statement (.thermalHot sensor temp) := fun _ _ h => by cases h
theorem thermalHotStepdown (c : Nat) : Statement (.thermalHotStepdown c) := fun _ _ h => by cases h
theorem thermalTrip (sensor : Nat) (temp : Int) : Statement (.thermalTrip sensor temp) := fun _ _ h => by cases h
theorem railFault : Statement .railFault := fun _ _ h => by cases h
theorem vinApply (mv : Nat) : Statement (.vinApply mv) := fun _ _ h => by cases h
theorem vinRemove : Statement .vinRemove := fun _ _ h => by cases h
theorem pwrEnAssert : Statement .pwrEnAssert := fun _ _ h => by cases h
theorem bootDelayExpiry : Statement .bootDelayExpiry := fun _ _ h => by cases h
theorem pwrEnDeassert (ns : Nat) : Statement (.pwrEnDeassert ns) := fun _ _ h => by cases h
theorem firmwareVerified (slot : Nat) : Statement (.firmwareVerified slot) := fun _ _ h => by cases h
theorem memoryTrainingDone (failing : Nat) (dimms : List Nat) (bad : Nat) : Statement (.memoryTrainingDone failing dimms bad) := fun _ _ h => by cases h
theorem bootTimeout : Statement .bootTimeout := fun _ _ h => by cases h
theorem d2dRetrain (c : Nat) (port : Nat) : Statement (.d2dRetrain c port) := fun _ _ h => by cases h
theorem d2dRetrainTimeout (c : Nat) (port : Nat) : Statement (.d2dRetrainTimeout c port) := fun _ _ h => by cases h
theorem watchdogExpiry : Statement .watchdogExpiry := fun _ _ h => by cases h
theorem ddrSelfRefreshEntered : Statement .ddrSelfRefreshEntered := fun _ _ h => by cases h
theorem warmResetRailsOff : Statement .warmResetRailsOff := fun _ _ h => by cases h
theorem warmResetRestart : Statement .warmResetRestart := fun _ _ h => by cases h
theorem bmbRead (page : Nat) (off : Nat) : Statement (.bmbRead page off) := fun _ _ h => by cases h
theorem bmbWrite (page : Nat) (off : Nat) (w : Word) : Statement (.bmbWrite page off w) := fun _ _ h => by cases h
theorem bmbWarmReset : Statement .bmbWarmReset := fun _ _ h => by cases h
theorem recoveryLoad (off : Nat) (bytes : List Byte) : Statement (.recoveryLoad off bytes) := fun _ _ h => by cases h
theorem recoveryGo : Statement .recoveryGo := fun _ _ h => by cases h
theorem trustWrite (slot : Nat) (image : List Byte) : Statement (.trustWrite slot image) := fun _ _ h => by cases h
theorem debugOpen : Statement .debugOpen := fun _ _ h => by cases h
theorem flashWrite (target : Nat) (off : Nat) (bytes : List Byte) : Statement (.flashWrite target off bytes) := fun _ _ h => by cases h
theorem svnCommit : Statement .svnCommit := fun _ _ h => by cases h
theorem secResetWrite (w : Word) : Statement (.secResetWrite w) := fun _ _ h => by cases h
theorem attestGo (w : Word) : Statement (.attestGo w) := fun _ _ h => by cases h
theorem attestSigned (sig : List Byte) : Statement (.attestSigned sig) := fun _ _ h => by cases h
theorem freeze : Statement .freeze := fun _ _ h => by cases h
theorem freezeRefreshKeeper : Statement .freezeRefreshKeeper := fun _ _ h => by cases h
theorem extest (bits : List Byte) : Statement (.extest bits) := fun _ _ h => by cases h
theorem samplePreload (bits : List Byte) : Statement (.samplePreload bits) := fun _ _ h => by cases h
theorem dbgAddr (addr : DWord) : Statement (.dbgAddr addr) := fun _ _ h => by cases h
theorem dbgData (w : Word) : Statement (.dbgData w) := fun _ _ h => by cases h
theorem dumpCtl (w : Word) : Statement (.dumpCtl w) := fun _ _ h => by cases h
theorem dumpDone : Statement .dumpDone := fun _ _ h => by cases h
theorem bypass : Statement .bypass := fun _ _ h => by cases h
theorem errClr (page : Nat) (w : Word) : Statement (.errClr page w) := fun _ _ h => by cases h
theorem evtFlagClear (page : Nat) (w : Word) : Statement (.evtFlagClear page w) := fun _ _ h => by cases h
theorem evtForce (page : Nat) (w : Word) : Statement (.evtForce page w) := fun _ _ h => by cases h
theorem softReset (page : Nat) (w : Word) : Statement (.softReset page w) := fun _ _ h => by cases h
theorem enable (page : Nat) (w : Word) : Statement (.enable page w) := fun _ _ h => by cases h
theorem registerWrite (page : Nat) (off : Nat) (w : Word) : Statement (.registerWrite page off w) := fun _ _ h => by cases h
theorem copierPageWritten (st : Nat) (page : Nat) : Statement (.copierPageWritten st page) := fun _ _ h => by cases h
theorem ethLinkChange (up : Bool) : Statement (.ethLinkChange up) := fun _ _ h => by cases h
theorem hubRailsInRegulation : Statement .hubRailsInRegulation := fun _ _ h => by cases h
theorem dieRailsInRegulation : Statement .dieRailsInRegulation := fun _ _ h => by cases h
theorem d2dTrainingDone (c : Nat) (port : Nat) (ok : Bool) : Statement (.d2dTrainingDone c port ok) := fun _ _ h => by cases h
theorem handshakeSignatureDone (h : Nat) (sig : List Byte) : Statement (.handshakeSignatureDone h sig) := fun _ _ h => by cases h

end Sys2Proof.Laws.Cores
end

