-- ==== Sys2Proof/Laws/Run.lean ====
section
/-!
SUPPORT. Sys2Proof/Laws/Run.lean: what a command's frame does (the gates of Run.lean), and what raising an event leaves in
the header.
-/
namespace Sys2Proof.Machine

variable {s : State} {d : Dev}

/-! ### Gates -/

theorem live_up {c : Chip} (h : c.pow.up = true) (f : Dev → Dev) : c.live f = { c with dev := f c.dev } := by
  rw [Chip.live, if_pos h]; rfl

theorem run_live (h : s.Up) (f : Dev → Dev) : (s.run fun c => c.live f) = .next (s.withDev (f s.dev)) := by
  rw [State.run, live_up h]; rfl

theorem runIf_live (h : s.Up) {ok : Bool} (hok : ok = true) (f : Dev → Dev) :
    (s.runIf ok fun c => c.live f) = .next (s.withDev (f s.dev)) := by
  subst hok; exact run_live h f

theorem run_onCore {k : Nat} (h : s.CoreRuns k) (f : Dev → Dev) :
    (s.run fun c => c.onCore k f) = .next (s.withDev ((f s.dev).ordersOf k)) := by
  rw [State.run, Chip.onCore, live_up h.1, if_pos ⟨h.2.1, h.2.2⟩]; rfl

theorem runIf_onCore {k : Nat} (h : s.CoreRuns k) {ok : Bool} (hok : ok = true) (f : Dev → Dev) :
    (s.runIf ok fun c => c.onCore k f) = .next (s.withDev ((f s.dev).ordersOf k)) := by
  subst hok; exact run_onCore h f

theorem run_busWrite (h : s.Up) (page off : Nat) (w : Word) :
    (s.run fun c => c.busWrite page off w) = .next { s with chip := s.chip.writeReg {} page off w } := by
  unfold State.run Chip.busWrite State.Up at *; simp [h]

theorem runIf_busWrite (h : s.Up) {ok : Bool} (hok : ok = true) (page off : Nat) (w : Word) :
    (s.runIf ok fun c => c.busWrite page off w) = .next { s with chip := s.chip.writeReg {} page off w } := by
  subst hok; exact run_busWrite h page off w

@[simp] theorem withDev_dev (e : Dev) : (s.withDev e).dev = e := rfl
@[simp] theorem withDev_pending (e : Dev) : (s.withDev e).pending = s.pending := rfl
@[simp] theorem withDev_sec (e : Dev) : (s.withDev e).chip.sec = s.chip.sec := rfl
@[simp] theorem withDev_pow (e : Dev) : (s.withDev e).chip.pow = s.chip.pow := rfl

/-! ### Headers -/

theorem hdr_notify (pg : Nat) (w : Word) (g : Nat) : (d.notify pg w).hdr g = d.hdr g := kept_notify pg w (.hdr g) (by simp)

@[simp] theorem hdr_raise_self (pg b : Nat) : (d.raise pg b).hdr pg = (d.hdr pg).raised b := by
  unfold Dev.raise; dsimp only
  split
  · rw [hdr_notify, Dev.hdr_modHdr_self]; rfl
  · rw [Dev.hdr_modHdr_self]; rfl

theorem hdr_raise_ne {pg b g : Nat} (h : g ≠ pg) : (d.raise pg b).hdr g = d.hdr g := kept_raise pg b (.hdr g) (by simpa using h)

@[simp] theorem hdr_raiseIf_self (c : Bool) (pg b : Nat) :
    (d.raiseIf c pg b).hdr pg = if c then (d.hdr pg).raised b else d.hdr pg := by
  unfold Dev.raiseIf; split <;> simp_all

theorem hdr_raiseIf_ne {c : Bool} {pg b g : Nat} (h : g ≠ pg) : (d.raiseIf c pg b).hdr g = d.hdr g :=
  kept_raiseIf c pg b (.hdr g) (by simpa using h)

@[simp] theorem hdr_setReg (pg off w g : Nat) : (d.setReg pg off w).hdr g = d.hdr g := rfl
@[simp] theorem hdr_bump (pg off n g : Nat) : (d.bump pg off n).hdr g = d.hdr g := by unfold Dev.bump; split <;> rfl

/-! ### Ring entries -/

theorem ordersOf_same {x : Place} (k : Nat) (h : x ≠ .hdr pgPart) : x.Same d (d.ordersOf k) := kept_ordersOf k x (by simpa using h)

@[simp] theorem core_ordersOf (k j : Nat) : (d.ordersOf k).core j = d.core j := ordersOf_same (x := .core j) k (by simp)
theorem hdr_ordersOf {g : Nat} (k : Nat) (h : g ≠ pgPart) : (d.ordersOf k).hdr g = d.hdr g :=
  ordersOf_same (x := .hdr g) k (by simpa using h)
theorem pgCore_ne_pgPart (k : Nat) : pgCore k ≠ pgPart := by unfold pgCore pgOfCore pgPart; omega
@[simp] theorem hdr_core_ordersOf (k j : Nat) : (d.ordersOf k).hdr (pgCore j) = d.hdr (pgCore j) := hdr_ordersOf k (pgCore_ne_pgPart j)

end Sys2Proof.Machine
end

