-- ==== Sys2Proof/Laws/Sequencer.lean ====
section
/-!
SUPPORT. Sys2Proof/Laws/Sequencer.lean: what the sequencer's shared operations do.
-/
namespace Sys2Proof.Machine

variable {d : Dev} {k l op : Nat} {x : ListSt} {desc : List Byte}

theorem atCursor_list (h : d.atCursor k = some (l, x, desc)) : (d.core k).list l = x := by
  simp only [Dev.atCursor, Option.map_eq_some_iff, Prod.mk.injEq] at h
  obtain ⟨_, _, rfl, h, _⟩ := h; exact h

theorem atCursor_desc (h : d.atCursor k = some (l, x, desc)) : (d.core k).fetch x.cursor = desc := by
  simp only [Dev.atCursor, Option.map_eq_some_iff, Prod.mk.injEq] at h
  obtain ⟨_, _, rfl, rfl, h⟩ := h; exact h

theorem atCursor_running (h : d.atCursor k = some (l, x, desc)) : (d.core k).running = some l := by
  simp only [Dev.atCursor, Option.map_eq_some_iff, Prod.mk.injEq] at h
  obtain ⟨_, h, rfl, _, _⟩ := h; exact h

/-- Only a WAIT.TICK waits for the commands of its list. -/
theorem waitsForList_ne (h : dOp desc ≠ 5) : d.waitsForList k l desc = false := by simp [Dev.waitsForList, h]

/-- A control operation that stands at the cursor, may issue and is well formed executes. -/
theorem control_runs (f : Dev → Nat → ListSt → List Byte → Dev) (ha : d.atCursor k = some (l, x, desc))
    (he : (d.hdr (pgCore k)).enable = true) (hi : (d.core k).mayIssue desc = true) (ho : dOp desc = op)
    (hb : controlBad desc = false) (hc : dClass desc = 0) (hw : d.waitsForList k l desc = false) :
    d.control k op f = f (d.raiseIf (dEvt desc) (pgCore k) 2) l x desc := by
  simp [Dev.control, ha, he, hi, ho, hb, hc, hw]

/-- The command of a control operation, at a state that stands at it. -/
theorem run_control {s : State} (f : Dev → Nat → ListSt → List Byte → Dev) (h : s.AtControl k op l x desc)
    (hw : s.dev.waitsForList k l desc = false) :
    (s.run fun c => c.onCore k fun d => d.control k op f) =
      .next (s.withDev ((f (s.dev.raiseIf (dEvt desc) (pgCore k) 2) l x desc).ordersOf k)) := by
  obtain ⟨⟨hr, ha, he, hi⟩, ho, hb, hc⟩ := h
  rw [run_onCore hr, control_runs f ha he hi ho hb hc hw]

/-- Within the list, the cursor moves and nothing else does. -/
theorem moveCursor_in (i : Nat) (h : i ≤ ((d.core k).list l).last) :
    d.moveCursor k l i = d.modCore k fun c => c.modList l fun y => { y with cursor := i } := by
  simp [Dev.moveCursor, Nat.not_lt.mpr h]

@[simp] theorem modList_list_self (c : CoreSt) (l : Nat) (f : ListSt → ListSt) : (c.modList l f).list l = f (c.list l) :=
  tget_tset_self

theorem modList_list_ne (c : CoreSt) {l j : Nat} (f : ListSt → ListSt) (h : j ≠ l) : (c.modList l f).list j = c.list j :=
  tget_tset_ne h

@[simp] theorem setRegOf_list (c : CoreSt) (b v j : Nat) : (c.setRegOf b v).list j = c.list j := by
  unfold CoreSt.setRegOf; split <;> rfl

@[simp] theorem hdr_modCore_page (k : Nat) (f : CoreSt → CoreSt) (g : Nat) : (d.modCore k f).hdr g = d.hdr g := rfl

theorem kept_move_event (c : Bool) (f : CoreSt → CoreSt) :
    d.Kept ((((d.raiseIf c (pgCore k) 2).modCore k f)).ordersOf k) [.core k, .hdr (pgCore k), .hdr pgPart] :=
  (((kept_raiseIf c (pgCore k) 2).mono (by simp)).seq ((kept_modCore k f).mono (by simp))).seq
    ((kept_ordersOf k).mono (by simp))

/-- The sequencer passes on; nothing but its core changes. -/
theorem nextList_fits (h : (d.core k).NextFits l) : d.nextList k = d.modCore k CoreSt.passedOn := by
  unfold Dev.nextList
  cases ht : (d.core k).todo with
  | nil => simp [Dev.beginLists, Dev.modCore, CoreSt.passedOn, ht]
  | cons j js =>
    have := (h j (by simp [ht])).2
    rw [Dev.beginLists]
    simp only [if_neg (Nat.not_lt.mpr this)]
    simp only [Dev.modCore, CoreSt.passedOn, ht]

@[simp] theorem core_modCore_page (k : Nat) (f : CoreSt → CoreSt) : (d.modCore k f).core k = f (d.core k) := Dev.core_modCore_self ..

theorem markAbandoned_core (k l : Nat) :
    (d.markAbandoned k l).core k = (d.core k).modList l fun y => { y with state := .abandoned } := by
  simp [Dev.markAbandoned]

theorem kept_markAbandoned (k l : Nat) : d.Kept (d.markAbandoned k l) [.core k, .reg (pgCore k) 0x120, .hdr (pgCore k)] :=
  ((((kept_modCore k _).mono (by simp)).seq ((kept_bump (pgCore k) 0x120 _ (by omega)).mono (by simp))).seq
    ((kept_raiseIf _ (pgCore k) 2).mono (by simp))).seq ((kept_raise (pgCore k) 1).mono (by simp))

/-- The running list is abandoned, and the sequencer passes on. -/
theorem abandon_running (hr : (d.core k).running = some l) (h : (d.core k).NextFits l) :
    d.abandon k l = (d.markAbandoned k l).modCore k CoreSt.passedOn := by
  unfold Dev.abandon
  simp only [hr, if_true]
  refine nextList_fits (l := l) fun j hj => ?_
  rw [markAbandoned_core] at hj ⊢
  have := h j hj
  exact ⟨this.1, by rw [modList_list_ne _ _ this.1]; exact this.2⟩

theorem mkCmd_desc (k l i : Nat) (desc ext : List Byte) : (d.mkCmd k l i desc ext).desc = desc := by
  unfold Dev.mkCmd; dsimp only; split
  · cases d.mxSetup k desc (extOf desc ext) <;> rfl
  · split <;> rfl

theorem mkCmd_ext (k l i : Nat) (desc ext : List Byte) : (d.mkCmd k l i desc ext).ext = ext := by
  unfold Dev.mkCmd; dsimp only; split
  · cases d.mxSetup k desc (extOf desc ext) <;> rfl
  · split <;> rfl

theorem mkCmd_list (k l i : Nat) (desc ext : List Byte) : (d.mkCmd k l i desc ext).list = l := by
  unfold Dev.mkCmd; dsimp only; split
  · cases d.mxSetup k desc (extOf desc ext) <;> rfl
  · split <;> rfl

theorem mkCmd_idx (k l i : Nat) (desc ext : List Byte) : (d.mkCmd k l i desc ext).idx = i := by
  unfold Dev.mkCmd; dsimp only; split
  · cases d.mxSetup k desc (extOf desc ext) <;> rfl
  · split <;> rfl

/-- The device once an accepted command has entered its queue, taken its number and moved the cursor. -/
def Dev.afterIssue (d : Dev) (k l i : Nat) (c : Cmd) : Dev :=
  ((d.enqueue k c).takeSeq k).modCore k fun q => q.modList l fun y => { y with cursor := i + 1 }

theorem afterIssue_core (i : Nat) (c : Cmd) (hl : c.list = l) (hi : c.idx = i) :
    (d.afterIssue k l i c).core k = (d.core k).issuedWith c := by
  simp [Dev.afterIssue, Dev.enqueue, Dev.takeSeq, CoreSt.issuedWith, hl, hi]

theorem kept_afterIssue (i : Nat) (c : Cmd) : d.Kept (d.afterIssue k l i c) [.core k] :=
  ((kept_modCore k _).seq (kept_modCore k _)).seq (kept_modCore k _)

/-- An accepted command issues; its unit then does what it does with it. -/
theorem issue_accepts {s : State} {raw : List Byte} (fits : List Byte → Bool) (accept : Dev → Cmd → Dev)
    (h : s.Accepts k l x raw) (hf : fits raw = true) (hx : x.cursor < x.last) :
    s.dev.issue k fits accept =
      accept (s.dev.afterIssue k l x.cursor (s.dev.issueCmd k l x raw)) (s.dev.issueCmd k l x raw) := by
  obtain ⟨⟨hr, ha, he, hi⟩, h1, h2, h3, h4, h5⟩ := h
  have hl := atCursor_list ha
  simp only [Dev.issueCmd, mkCmd_desc, mkCmd_ext] at h1 h2 h3 h4 h5
  unfold Dev.issue
  simp only [ha, hf, he, hi, h1, h2, h3, h4, h5, Bool.not_true, Bool.or_self, Bool.false_eq_true, if_false, Option.or_none,
    if_true]
  rw [moveCursor_in]
  · rfl
  · simp [Dev.takeSeq, Dev.enqueue, CoreSt.list] at hl ⊢
    rw [hl]; omega

/-- The command of a core that issues a descriptor of its own. -/
theorem run_issue {s : State} {raw : List Byte} (fits : List Byte → Bool) (accept : Dev → Cmd → Dev)
    (h : s.Accepts k l x raw) (hf : fits raw = true) (hx : x.cursor < x.last) :
    (s.run fun c => c.onCore k fun d => d.issue k fits accept) = .next (s.withDev
      ((accept (s.dev.afterIssue k l x.cursor (s.dev.issueCmd k l x raw)) (s.dev.issueCmd k l x raw)).ordersOf k)) := by
  rw [run_onCore h.1.1, issue_accepts fits accept h hf hx]

end Sys2Proof.Machine
end

