-- ==== Sys2Proof/Tests/Slice0.lean ====
section
/-!
SUPPORT. Sys2Proof/Tests/Slice0.lean: the model's own tests: ill-formed commands are refused; each statement's hypotheses are met
by a concrete state, clause by clause; and single steps whose results the specification gives.
-/
namespace Sys2Proof.Tests
open Sys2Proof.Machine
set_option Elab.async false

/-! ### States to test on -/

/-- The module in READY around a device. -/
def ready (d : Dev) : State := { chip := { dev := d, pow := { mode := .ready, stage := 3, hubRails := true, dieRails := true } } }

/-- Die 0 claimed by partition 0, its cores out of reset. -/
def claimed : Dev := { dies := [(0, { part := some 0, live := true })], parts := [(0, { claim := 2, mask := 1 })] }

/-- A descriptor of opcode op and class cls, and fields: offset, bytes, value. -/
def descr (op cls : Nat) (fs : List (Nat × Nat × Nat)) : List Byte :=
  fs.foldl (fun d f => splice d f.1 (natLe f.2.1 f.2.2)) (splice (List.replicate 64 0#8) 0 (natLe 2 (op + 4096 * cls)))

/-- The list that runs: at index 0 of two, its segment of class 7. -/
def running : ListSt := { range := 0x10000#32, state := .running, segClass := 7 }

/-- A core that stands at a descriptor. -/
def standing (b : List Byte) (q : CoreSt := {}) : CoreSt :=
  { q with running := some 0, lists := [(0, running)], cmem := Memory.write [] 0 b }

/-- The module with core 0 at a descriptor. -/
def atDesc (b : List Byte) (q : CoreSt := {}) (d : Dev := claimed) : State := ready { d with cores := [(0, standing b q)] }

/-! ### Ill-formed commands (one for each check of WellFormed.lean) -/

theorem test_illformed_places : ([
    .nop 1152, .messageArrival 0x7FC 0, .messageArrival 0 (2 ^ 32), .tick 4, .dmaTransferStart 4 0, .platenUpdateStart 8,
    .helloTimer 36, .collFlit 40 (List.replicate 256 0#8), .passStart 0 2, .tileConvert 0 3, .laneGeneratorsAcquire 0 0,
    .laneGeneratorsAcquire 0 4, .galleyFlush 0 16 0#32, .dmaTransferDone 0 16, .permuteCopyDone 0 4, .collRunStart 0 64,
    .gaugeWindowWrite 0 0x2C0 0#32, .gaugeWindowWrite 0 0x202 0#32, .listEntryWrite 0 0x208 0#32, .laneLock 0 4,
    .linkRetrain 0 3] : List Instr).all (fun c => !c.wf) = true := by decide +kernel

theorem test_illformed_payloads : ([
    .linkFlitReceive 0 (List.replicate 255 0#8), .hello 0 (List.replicate 17 0#8), .collKick 0 0 (2 ^ 16) [],
    .shadowCopyDone 0 40960, .manifestSigned 0 [1#8], .ethFrameReceive (List.replicate 13 0#8),
    .regRd (List.replicate 31 0#8), .sessionTimeout 8, .handshakeReassemblyTimeout 8, .vinApply 39999, .vinAlert 50001,
    .pwrEnDeassert 9999999, .thermalWarn 13 0, .firmwareVerified 2, .memoryTrainingDone 0 [] 0, .d2dRetrain 0 3,
    .errClr (2 ^ 18) 0#32, .bmbRead 0x100 0, .registerWrite 0 2 0#32, .recoveryLoad 0 [], .flashWrite 3 0 (List.replicate 256 0#8),
    .trustWrite 4 (List.replicate 128 0#8), .trustWrite 0 []] : List Instr).all (fun c => !c.wf) = true := by decide +kernel

theorem test_wellformed_bounds : ([
    .nop 1151, .messageArrival 0x7FB (2 ^ 32 - 1), .tick 3, .collFlit 39 (List.replicate 256 0#8), .laneGeneratorsAcquire 0 3,
    .gaugeWindowWrite 0 0x2BC 0#32, .listEntryWrite 0 0x2F4 0#32, .manifestSigned 0 [], .vinApply 40000, .vinApply 50000,
    .pwrEnDeassert 10000000, .registerWrite (2 ^ 18 - 1) 0xFFC 0#32] : List Instr).all Instr.wf = true := by decide +kernel

/-- A command that is not well formed changes nothing. -/
theorem test_illformed_changes_nothing : exec (.nop 1152) (ready claimed) = .next (ready claimed) := rfl

/-! ### Commands of the sequencer -/

def setDesc : List Byte := descr 1 0 [(0x10, 1, 0x03), (0x18, 8, 77)]
def loopDesc : List Byte := descr 3 0 [(0x10, 1, 3), (0x12, 2, 1)]
def brDesc : List Byte := descr 4 0 [(0x12, 2, 1)]
def waitDesc (target : Nat) : List Byte := descr 5 0 [(0x10, 4, target), (0x1C, 1, 3)]

theorem witness_ControlOps : ∀ x ∈ [(0, descr 0 0 []), (1, setDesc), (2, descr 2 0 [(0x10, 1, 0x03), (0x11, 1, 0x03), (0x18, 8, 77)]),
      (3, loopDesc), (4, brDesc), (5, waitDesc 5), (5, waitDesc 0), (6, descr 6 0 [])],
    (atDesc x.2).AtControl 0 x.1 0 running x.2 ∧ running.cursor < running.last ∧ running.outside (field loopDesc 0x12 2) = false ∧
    running.outside (field brDesc 0x12 2) = false := by
  simp only [State.AtControl, State.Stands, State.CoreRuns, State.Up]; decide +kernel

/-- A WAIT.TICK that would park waits while a command of its list is in flight, and only then. -/
theorem witness_ControlOps_waits : (atDesc (waitDesc 5)).dev.waitsForList 0 0 (waitDesc 5) = false ∧
    (atDesc (waitDesc 5) { cmds := [{}] }).dev.waitsForList 0 0 (waitDesc 5) = true ∧
    (atDesc (waitDesc 5) { cmds := [{}] }).AtControl 0 5 0 running (waitDesc 5) := by
  simp only [State.AtControl, State.Stands, State.CoreRuns, State.Up]; decide +kernel

theorem witness_ControlOps_next : ((atDesc setDesc).dev.core 0).NextFits 0 := fun _ h => nomatch h

theorem witness_ControlErrors : ∀ x ∈ [descr 0 0 [(0x10, 1, 1)], descr 0 7 [], descr 3 0 [(0x12, 2, 2)], descr 4 0 [(0x12, 2, 2)]],
    (atDesc x).Stands 0 0 running x ∧ running.cursor < 1024 := by
  simp only [State.Stands, State.CoreRuns, State.Up]; decide +kernel

/-- Malformed; not of class CONTROL; out of the list; the last that is not END. -/
theorem witness_ControlErrors_clauses :
    controlBad (descr 0 0 [(0x10, 1, 1)]) = true ∧
    (controlBad (descr 0 7 []) = false ∧ dClass (descr 0 7 []) ≠ 0) ∧
    (controlBad (descr 4 0 [(0x12, 2, 2)]) = false ∧ running.outside (field (descr 4 0 [(0x12, 2, 2)]) 0x12 2) = true) ∧
    (controlBad (descr 0 0 []) = false ∧ { running with range := 0#32 }.cursor = { running with range := 0#32 }.last) := by
  decide +kernel

theorem test_set_writes : (match exec (.set 0) (atDesc setDesc) with | .next t => (t.dev.core 0).regOf 3 | _ => 0) = 77 := by
  decide +kernel

/-! ### Commands of the compute blocks -/

/-- A tile stride of n × 64 bytes at an address. -/
def tiled (a n : Nat) : Nat := a + n * 2 ^ 48
def mxDesc (op cls fi fo : Nat) : List Byte := descr op cls
  [(0x10, 8, tiled sramBase 128), (0x18, 8, tiled (sramBase + 0x10000) 128), (0x20, 8, tiled (sramBase + 0x20000) 192),
   (0x28, 4, 32), (0x2C, 4, 32), (0x34, 2, 1), (0x36, 2, 1), (0x38, 1, fi * 16 + fo), (0x39, 1, 0x10)]
def addDesc : List Byte :=
  descr 0x19 4 [(0x10, 8, tiled (sramBase + 0x20000) 192), (0x18, 4, 1), (0x1C, 1, 2), (0x1D, 1, 10), (0x24, 4, 1)]
/-- The two sources of addDesc, in its extension block. -/
def addDev : Dev := { claimed with
  mem := Memory.write [] sramBase (natLe 8 (tiled (sramBase + 0x30000) 128) ++ natLe 8 (tiled (sramBase + 0x40000) 128)) }
def cvtDesc : List Byte :=
  descr 0x20 3 [(0x10, 8, tiled sramBase 192), (0x18, 8, tiled (sramBase + 0x10000) 192), (0x20, 4, 1), (0x24, 1, 0x8A)]
def calDesc : List Byte := descr 0x20 3 [(0x24, 1, 0x80), (0x25, 1, 0x80), (0x26, 2, 0x8000)]
def calCore : CoreSt := { slots := [(0, { used := true, shared := true, calCnt := 1 })] }
def rowDesc (op : Nat) : List Byte := descr op 3
  [(0x10, 8, tiled sramBase 192), (0x18, 8, tiled (sramBase + 0x10000) 192), (0x20, 8, tiled (sramBase + 0x20000) 192),
   (0x28, 4, 32), (0x2C, 2, 1), (0x2E, 1, 0xAA)]

theorem witness_ComputeIssue_matrix : ∀ x ∈ [mxDesc 0x10 6 0 10, mxDesc 0x11 6 0 10, mxDesc 0x18 4 8 10],
    (atDesc x).Accepts 0 0 running x ∧ opIn [0x10, 0x11, 0x18] x = true := by
  simp only [State.Accepts, State.Stands, State.CoreRuns, State.Up]; decide +kernel

theorem witness_ComputeIssue_add : (atDesc addDesc {} addDev).Accepts 0 0 running addDesc ∧ opIn [0x19] addDesc = true := by
  simp only [State.Accepts, State.Stands, State.CoreRuns, State.Up]; decide +kernel

theorem witness_ComputeIssue_convert : ((atDesc cvtDesc).Accepts 0 0 running cvtDesc ∧ (CvtB.parse cvtDesc).calibrated = false) ∧
    ((atDesc calDesc calCore).Accepts 0 0 running calDesc ∧ (CvtB.parse calDesc).calibrated = true) := by
  simp only [State.Accepts, State.Stands, State.CoreRuns, State.Up]; decide +kernel

theorem witness_ComputeIssue_rows : ∀ op ∈ [0x21, 0x22, 0x23, 0x24, 0x25, 0x26],
    (atDesc (rowDesc op)).Accepts 0 0 running (rowDesc op) ∧ opIn [op] (rowDesc op) = true := by
  simp only [State.Accepts, State.Stands, State.CoreRuns, State.Up]; decide +kernel

/-! ### The other blocks' commands -/

def sendDesc : List Byte := descr 0x30 1 [(0x10, 8, sramBase), (0x18, 4, 16), (0x1C, 2, 1), (0x1E, 2, 5)]
def recvDesc : List Byte := descr 0x31 1 [(0x10, 8, sramBase), (0x18, 4, 16), (0x1C, 2, 1), (0x1E, 2, 5)]

theorem witness_MessageIssue : (atDesc sendDesc).Accepts 0 0 running sendDesc ∧ dOp sendDesc = 0x30 ∧
    (atDesc recvDesc).Accepts 0 0 running recvDesc ∧ dOp recvDesc = 0x31 ∧
    takeArrival ⟨0, false, 1, 5, 16, sramBase, none⟩ ((atDesc recvDesc).dev.core 0).arrivals = none := by
  simp only [State.Accepts, State.Stands, State.CoreRuns, State.Up]; decide +kernel

def copyDesc (last : Nat) : List Byte :=
  descr 0x38 1 [(0x10, 8, sramBase), (0x18, 8, sramBase + 0x1000), (0x20, 4, 16), (0x24, 4, 1), (6, 1, last)]
def tcopyDesc : List Byte := descr 0x39 1 [(0x10, 8, tiled sramBase 192), (0x18, 8, tiled (sramBase + 0x10000) 192),
  (0x20, 4, 1), (0x24, 4, 1), (0x28, 4, 8), (0x2C, 4, 8), (0x32, 1, 0x80)]
def drainDesc : List Byte := descr 0x38 1 [(0x31, 1, 0x80)]

theorem witness_DmaIssue : ∀ x ∈ [copyDesc 0, copyDesc 0x20, tcopyDesc, drainDesc],
    (atDesc x).Accepts 0 0 running x ∧ (DmaB.parse x).drain = decide (x = drainDesc) ∧
    (DmaB.parse x).empty = decide (x = drainDesc) ∧ dBg x = decide (x = copyDesc 0x20) := by
  simp only [State.Accepts, State.Stands, State.CoreRuns, State.Up]; decide +kernel

def gaugeDesc (op mode : Nat) : List Byte := descr op 1 [(0x10, 8, sramBase), (0x18, 4, 1), (0x1C, 2, 511), (0x1E, 2, mode)]
/-- GAUGE.SET in merge mode names its slots in its records, not in its body. -/
def mergeDesc : List Byte := descr 0x3C 1 [(0x10, 8, sramBase), (0x18, 4, 1), (0x1E, 2, 1)]

theorem witness_GaugeCommands : ∀ x ∈ [gaugeDesc 0x3C 0, mergeDesc, gaugeDesc 0x3C 2, gaugeDesc 0x3C 3, gaugeDesc 0x3D 0,
      gaugeDesc 0x3D 1], (atDesc x).Accepts 0 0 running x ∧ (MsgB.parse x).tag = field x 0x1E 2 ∧
    (atDesc x).dev.gaugeMustWait 0 ((atDesc x).dev.issueCmd 0 0 running x).desc = false ∧
    (atDesc x).dev.badAt sramBase 192 = none ∧ bit ((atDesc x).dev.reg (pgCnt 0) 0x104) 31 = false := by
  simp only [State.Accepts, State.Stands, State.CoreRuns, State.Up]; decide +kernel

def platenDesc (v aux : Nat) : List Byte := descr 0x40 2 [(0x10, 8, tiled 0 256), (0x18, 8, tiled 0x10000 256),
  (0x20, 8, 0x20000 + 2 ^ 48), (0x28, 8, v), (0x30, 8, aux)]
def platenDrainDesc : List Byte := descr 0x40 2 [(0x28, 8, 2 ^ 59)]

theorem witness_PlatenIssue : ∀ x ∈ [platenDesc 0 0, platenDesc (2 ^ 57) sramBase, platenDesc (2 ^ 58) sramBase, platenDrainDesc],
    (atDesc x).Accepts 0 0 running x ∧ dOp x = 0x40 ∧ (PltB.parse x).drain = decide (x = platenDrainDesc) ∧
    (PltB.parse x).phase = if x = platenDesc (2 ^ 57) sramBase then 1 else if x = platenDesc (2 ^ 58) sramBase then 2 else 0 := by
  simp only [State.Accepts, State.Stands, State.CoreRuns, State.Up]; decide +kernel

/-- A send of core 1 to core 2, and what receives it there: nothing, or a receive of n bytes. -/
def flight : Send := { src := 1, seq := 4, dest := 2, tag := 5, len := 16, addr := caseBase 1 }
def posted (n : Nat) : Recv := { seq := 7, src := 1, tag := 5, bound := n, addr := caseBase 2, lenToC := some 3 }
def inFlight (rs : List Recv) (xs : List Send := []) : State := ready { claimed with
  flights := [flight], cores := [(1, { cmds := [{ seq := 4 }] }), (2, { recvs := rs, arrivals := xs, cmds := [{ seq := 7 }] })] }

theorem witness_MessageMeets : ∀ rs ∈ [[], [posted 16], [posted 15]],
    (inFlight rs).Up ∧ (inFlight rs).dev.flights.find? (fun m => m.src == 1 && m.seq == 4) = some flight ∧
    (inFlight rs).dev.flights.find? (fun m => m.src == flight.src && m.dest == flight.dest) = some flight ∧
    (inFlight rs).dev.meshOpen (placeDie flight.src) (placeDie flight.dest) = true ∧
    ((inFlight rs).dev.die (placeDie flight.src)).part = ((inFlight rs).dev.die (placeDie flight.dest)).part ∧ flight.dest < 0x7F8 := by
  simp only [State.Up]; decide +kernel

theorem witness_MessageMeets_clauses : takeRecv flight [] = none ∧ takeRecv flight [posted 16] = some (posted 16, []) ∧
    takeRecv flight [posted 15] = some (posted 15, []) ∧ flight.len = (posted 16).bound ∧ (posted 15).bound < flight.len ∧
    (((inFlight []).dev.core 2).cmd? 7).isSome = true ∧ ((inFlight []).dev.core 2).arrivals.length < 32 ∧
    32 ≤ ((inFlight [] (List.replicate 32 flight)).dev.core 2).arrivals.length ∧ flight.src < numCores ∧ (inFlight []).dev.badAt flight.addr flight.len = none := by decide +kernel

/-- Core 0 with a command in flight. -/
def inCore (q : CoreSt) (d : Dev := claimed) : State := ready { d with cores := [(0, q)] }
def cmdOf (b : List Byte) (u : Nat) : Cmd := { desc := b, unit := u, started := true }

theorem witness_ComputeProgress :
    (inCore { cmds := [cmdOf (mxDesc 0x10 6 0 10) 0] }).CoreRuns 0 ∧
    CoreSt.front { cmds := [cmdOf (mxDesc 0x10 6 0 10) 0] } 0 = some (cmdOf (mxDesc 0x10 6 0 10) 0) ∧
    CoreSt.front { cmds := [cmdOf (mxDesc 0x18 4 8 10) 1] } 1 = some (cmdOf (mxDesc 0x18 4 8 10) 1) ∧
    CoreSt.held { cmds := [cmdOf (mxDesc 0x18 4 8 10) 1] } = false ∧
    CoreSt.staging { cmds := [cmdOf (mxDesc 0x10 6 0 10) 0] } 0 < 4 ∧
    CoreSt.oldest { cmds := [{ cmdOf (mxDesc 0x10 6 0 10) 0 with staged := [(3, 0, {})] }] } 0 =
      some ({ cmdOf (mxDesc 0x10 6 0 10) 0 with staged := [(3, 0, {})] }, 3, 0, {}) ∧
    CoreSt.slabWaits { cmds := [cmdOf (rowDesc 0x21) 2] } (cmdOf (rowDesc 0x21) 2) = false ∧
    CoreSt.rowFront { cmds := [cmdOf (rowDesc 0x21) 2] } = some (cmdOf (rowDesc 0x21) 2) := by
  simp only [State.CoreRuns, State.Up]; decide +kernel

/-- FP4 tiles of one row, at both operands of the matrix product of `mxDesc`; a pass of it finds them in order. -/
def passDev : Dev :=
  let h := TileHdr.bytes { rows := 1 }
  { claimed with mem := Memory.write (Memory.write [] sramBase h) (sramBase + 0x10000) h }
def passGives (d : Dev) (x : Cmd) : Bool :=
  match d.readPass 0 x x.pos with
  | .ok p => p.rows != 0 && p.cols != 0 && (match d.narrowPass 0 x x.pos p none with | .ok _ => true | .error _ => false)
  | .error _ => false
theorem witness_ComputeProgress_pass : passGives passDev (cmdOf (mxDesc 0x10 6 0 10) 0) = true ∧
    fmtNarrow (modesOf (mxDesc 0x10 6 0 10)).fmtIn = true ∧ (modesOf (mxDesc 0x10 6 0 10)).pOut = false := by decide +kernel

/-- A staged tile of a command without a slab, in no first pass of calibration, that draws nothing and writes no entries. -/
theorem witness_ComputeProgress_tile :
    let x := { cmdOf (mxDesc 0x10 6 0 10) 0 with staged := [(3, 0, {})] }
    let q : CoreSt := { cmds := [x] }
    q.slabWaits x = false ∧ q.drawsNow x = false ∧ q.firstPass x = false ∧ slabTiles (dOp x.desc) (extOf x.desc x.ext) = false ∧
    (convertTile x.conv {}).tile.hdr.fmt ≠ 1 ∧ q.laneHolder = 0 ∧ q.laneWait = [] ∧ q.lanesBefore 1 = [] := by decide +kernel

theorem witness_LanesAndRecast : (inCore { laneWait := [3] }).CoreRuns 0 ∧ (inCore {}).dev.partOf 0 = some 0 := by
  simp only [State.CoreRuns, State.Up]; decide +kernel

/-- A command whose work is over, with an error and CONT or without. -/
def beyond (e : Option ErrRec) (cont : Nat) : Cmd := { desc := descr 0x10 6 [(6, 1, cont + 0x40)], err := e, complete := true }

theorem witness_CommandRetires : ∀ c ∈ [beyond none 0, beyond (some {}) 0, beyond (some {}) 0x10],
    (inCore { cmds := [c] }).CoreRuns 0 ∧ ((inCore { cmds := [c] }).dev.core 0).cmd? 0 = some c ∧
    (inCore { cmds := [c] }).dev.mayRetire 0 c = true ∧ dEvt c.desc = true := by
  simp only [State.CoreRuns, State.Up]; decide +kernel

theorem witness_CommandRetires_clauses : dCont (beyond (some {}) 0x10).desc = true ∧ dCont (beyond (some {}) 0).desc = false ∧
    CoreSt.NextFits { cmds := [beyond (some {}) 0] } 0 := ⟨by decide +kernel, by decide +kernel, fun _ h => nomatch h⟩

def job : DmaJob := { desc := copyDesc 0 }
/-- A descriptor that reads the proof reserve of die window 0, whose channel 0 holds one GiB and whose reserve is its top frame. -/
def reserveJob : DmaJob := { desc := descr 0x38 1 [(0x10, 8, ddrBase + 2 ^ 30 - 1), (0x18, 8, sramBase), (0x20, 4, 1), (0x24, 4, 1)] }
def dmaDev (x : DmaSt) : Dev := ({ claimed with dmas := [(15, x)] }.setReg (pgDdr 0) 0x100 (2 ^ 31 + 1)).setReg pgProof 0x110 1

theorem witness_DmaTransfer : ∀ x ∈ [({ queue := [job] } : DmaSt), { queue := [reserveJob] }, { running := some job }],
    (ready (dmaDev x)).Up ∧ (dmaDev x).dieHeld 0 = false ∧ (dmaDev x).dieCut 0 = false ∧ (dmaDev x).dma (dmaIdx 0 15) = x ∧
    ((dmaDev x).hdr (pgDma 0 15)).enable = true := by
  simp only [State.Up]; decide +kernel

theorem witness_DmaTransfer_clauses :
    let r := (DmaB.parse job.desc).ranges
    let z := (DmaB.parse reserveJob.desc).ranges
    (dmaDev {}).inHold r.2.1 r.2.2 = false ∧ ({ dmaDev {} with saveHold := [(sramBase, 0x2000)] } : Dev).inHold r.2.1 r.2.2 = true ∧
    (dmaDev { running := some job }).dma (dmaIdx 0 15) = { running := some job, done := 0 } ∧
    (dmaDev {}).touchesReserve r.1.1 r.1.2 = false ∧ (dmaDev {}).touchesReserve r.2.1 r.2.2 = false ∧
    (dmaDev {}).touchesReserve z.1.1 z.1.2 = true ∧ (DmaB.parse job.desc).tcopy = false ∧
    ∀ q < (DmaB.parse job.desc).rows, (dmaDev {}).keepAny (sramBase + 0x1000) 16 = none ∧ (dmaDev {}).firstBad sramBase 16 = none := by
  decide +kernel

def submit : PlatenJob := { desc := platenDesc 0 0 }
/-- Platen 0 with profile 0: enabled with KIND 0, or as at reset. -/
def platenDev (x : PlatenSt) (cfg : Nat) : Dev := { claimed with platens := [(0, x)] }.setReg (pgPlaten 0) 0x200 cfg

theorem witness_PlatenUpdate :
    (ready (platenDev { queue := [submit] } (2 ^ 31))).Up ∧ (platenDev { queue := [submit] } (2 ^ 31)).dieHeld 0 = false ∧
    ((platenDev { queue := [submit] } (2 ^ 31)).hdr (pgPlaten 0)).enable = true ∧ phaseFits 0 0 = true ∧ kindUsesM2 0 = false ∧
    bit ((platenDev {} (2 ^ 31)).reg (pgPlaten 0) 0x200) 31 = true ∧ bit ((platenDev {} 0).reg (pgPlaten 0) 0x200) 31 = false ∧
    ((platenDev { running := some submit } 0).platen 0).running = some submit := by
  simp only [State.Up]; decide +kernel

/-- A BF16 pair of one row and one column; passes without a tile left, of norms and not. -/
def pairDesc (phase : Nat) : List Byte := platenDesc (phase * 2 ^ 57) (2 ^ 20)
def pairDev : Dev :=
  let b := PltB.parse (pairDesc 0)
  let h (f : Nat) := TileHdr.bytes { fmt := f, rows := 1, cols := 1 }
  { claimed with mem := Memory.write (Memory.write [] b.p (h (if b.masterBf16 then 8 else 10))) b.g (h 8) }
theorem witness_PlatenUpdate_tiles : pairDev.PairReady (PltB.parse (pairDesc 0)) 0 0 ∧ (PltB.parse (pairDesc 0)).count = 1 ∧
    (PltB.parse (pairDesc 0)).phase = 0 ∧ (PltB.parse (pairDesc 1)).phase = 1 ∧ pairDev.inHold (PltB.parse (pairDesc 1)).aux 16 = false ∧
    (pairDev.platenTiles 0 { desc := pairDesc 1 } (PltB.parse (pairDesc 1)) (pltConsts {} (PltB.parse (pairDesc 1))) 0 1 {}).2.2 = none := by
  simp only [Dev.PairReady]; decide +kernel

/-! ### Galleys -/

/-- Galley 15 enabled: SRC and SINK as given, its neighbour galley 3 of core 1. -/
def galley (src sink : Nat) : Galley :=
  { cfg := BitVec.ofNat 32 (2 ^ 31 + src * 2 ^ 26 + sink * 2 ^ 24), srcid := 0x1801#32, dest := 0x1801#32 }
def withGalley (x : Galley) (d : Dev := claimed) : State := inCore { galleys := [(15, x)] } d
def slot : GFlit := { data := List.replicate 64 7#8, sos := true, eos := true }
def meshFlit : MeshFlit := { core := 0, galley := 15, srcCore := 1, srcGalley := 3, flit := slot }

theorem witness_quiet (x : Galley) (h : x.dropping = false) : ((withGalley x).dev.core 0).GalleysQuiet := by
  refine ⟨fun _ h => (nomatch h), fun g => ?_⟩
  simp only [withGalley, inCore, ready, State.dev, Dev.core, tget, CoreSt.galley]
  by_cases hg : 15 = g <;> simp [tget, hg, h]

theorem witness_GalleyEvents_arrivals :
    let d : Dev := { claimed with vc2 := [meshFlit], vc0 := [⟨0, 15, 2, 1⟩] }
    (withGalley (galley 1 0) d).CoreRuns 0 ∧ d.flitFor 0 15 = some meshFlit ∧
    d.creditFor 0 15 = some ⟨0, 15, 2, 1⟩ ∧ d.meshOpen (coreDie 1) (coreDie 0) = true ∧
    (galley 1 0).en = true ∧ (galley 1 0).src = 1 ∧ (galley 1 0).srcCore = meshFlit.srcCore ∧
    (galley 1 0).srcGalley = meshFlit.srcGalley := by
  simp only [State.CoreRuns, State.Up]; decide +kernel

theorem witness_GalleyEvents_departures :
    ({ galley 0 1 with head := [slot] } : Galley).canBegin = true ∧ (galley 0 1).sink = 1 ∧ (galley 0 1).src = 0 ∧
    (withGalley { galley 0 1 with head := [slot], taking := true, credit := 1 }).dev.holds 0 = false ∧
    (let x : Galley := { galley 0 0 with ring := [{}], ringBase := 0x1000, ringSize := 4096 }
     x.ring = [{}] ∧ x.head.length < 8 ∧ x.tail = [] ∧
     (withGalley x).dev.badAt 0x1000 64 = none) := by decide +kernel

def pushDesc : List Byte := descr 0x34 1 [(0x10, 8, sramBase), (0x18, 4, 48), (0x1C, 2, 15)]
def popDesc : List Byte := descr 0x35 1 [(0x10, 8, sramBase), (0x18, 4, 48), (0x1C, 2, 15)]

theorem witness_GalleyIssue : ∀ x ∈ [pushDesc, popDesc], (atDesc x { galleys := [(15, galley 0 0)] }).Accepts 0 0 running x ∧
    (dOp x = 0x34 ∨ dOp x = 0x35) ∧ (MsgB.parse x).len ≤ 48 ∧ (MsgB.parse x).peer = 15 ∧
    (atDesc x).dev.badAt sramBase 48 = none := by
  simp only [State.Accepts, State.Stands, State.CoreRuns, State.Up]; decide +kernel

theorem witness_GalleyControl :
    (inCore {}).CoreRuns 0 ∧ ((inCore {}).dev.core 0).galley 15 = {} ∧
    ({ cfg := BitVec.ofNat 32 (0x80000000 &&& galleyCfgMask) } : Galley).en = true ∧
    (16 : Nat) < ({ cfg := BitVec.ofNat 32 (0x80110000 &&& galleyCfgMask) } : Galley).thresh ∧
    tget none ((inCore {}).dev.ln 0).grants 0 = none ∧
    (galley 1 0).src ≠ 2 := by
  simp only [State.CoreRuns, State.Up]; decide +kernel

theorem test_push_slot : (match exec (.galleyPush 0) (atDesc pushDesc { galleys := [(15, galley 0 0)] }) with
    | .next t => (((t.dev.core 0).galley 15).head.map fun f => (f.valid, f.sos, f.eos)) | _ => []) = [(64, true, true)] := by
  decide +kernel

/-! ### Registers -/

theorem witness_HeaderWrites : (ready claimed).Up ∧ ∀ page ∈ [pgImpr, pgCore 0, 0x100], claimed.pageLive page = true ∧ page ≠ pgDbg := by
  simp only [State.Up]; decide +kernel

/-- Pages that do not answer: of core 1151, whose die is not claimed; offsets outside a page or within a word. -/
theorem witness_HeaderWrites_dead : claimed.pageLive (pgCore 1151) = false ∧ (0x102 : Nat) % 4 ≠ 0 ∧ (0x1000 : Nat) ≤ 0x1000 ∧
    State.reset.chip.pow.up = false := by decide +kernel

theorem witness_SoftReset : (∀ page ∈ [pgCore 0, pgBwd 0, pgGauge 0, pgGalley 0, pgGov],
      claimed.pageLive page = true ∧ page ≠ pgDbg ∧ claimed.resetRefused page = none) ∧
    ((inCore { cmds := [{}] }).dev.resetRefused (pgCore 0)).isSome = true ∧ pageType (pgCore 0) = 0x20 ∧
    pageType (pgBwd 0) = 0x22 ∧ pageType (pgGauge 0) = 0x24 ∧ pageType (pgGalley 0) = 0x25 := by decide +kernel

theorem witness_CoreWindowWrites : (inCore {}).CoreRuns 0 ∧ isSlotWindow 0x200 = true ∧ isSlotWindow 0x2BC = true ∧
    CoreSt.slotInUse { cmds := [{ conv := { slotEn := true, slot := 0 } }] } 0 = true ∧
    CoreSt.slotBad {} 0 ((({} : GSlot)).setWord 0 0x80000000#32) 0 0 = some 0 ∧
    CoreSt.slotBad {} 0 ((({} : GSlot)).setWord 0 0xA010#32) 0 0 = none ∧
    CoreSt.namesSlab {} 0 = false ∧ CoreSt.namesTap {} 0 = false ∧
    (({ state := .running } : ListSt)).protected = true ∧ ({} : ListSt).protected = false := by
  simp only [State.CoreRuns, State.Up]; decide +kernel

theorem witness_CoreJobs : (inCore {}).CoreRuns 0 ∧
    (inCore {}).dev.cmemRefused 0 (caseBase 0) 0x03FF0000 = false ∧ (inCore {}).dev.cmemRefused 0 ddrBase 0 = true ∧
    ((inCore { cmemJob := some (caseBase 0, 0) }).dev.core 0).cmemJob = some (caseBase 0, 0) ∧
    ((inCore { probe := some 7 }).dev.core 0).probe = some 7 := by
  simp only [State.CoreRuns, State.Up]; decide +kernel

/-! ### Impressions -/

/-- Partition 0 with this state of its impressions, in 100 µs of period and steps of 4. -/
def pressing (x : PartSt) : Dev :=
  (({ claimed with parts := [(0, { x with claim := 2, mask := 1 })] }.setReg pgImpr 0x104 100000).setReg pgImpr 0x110 4).setReg
    pgImpr 0x10C 3

theorem witness_TimeBase : (ready claimed).Up ∧ (ready claimed).pending = [] ∧ ¬State.reset.chip.pow.up = true ∧
    (∀ x ∈ claimed.parts, x.2.run = false) ∧ ∃ x ∈ (pressing { run := true }).parts, x.2.run = true := by
  simp only [State.Up]; decide +kernel

theorem witness_NoLinkHolds (x : PartSt) : (pressing x).NoLinkHolds ∧ claimed.NoLinkHolds := ⟨fun _ => ⟨rfl, rfl⟩, fun _ => ⟨rfl, rfl⟩⟩

/-- START_TIME 10 µs ahead is the least that is accepted; a halted partition may start, a running one not. -/
theorem witness_RunStartStop :
    ((pressing {}).setReg pgImpr 0x120 10000).startCheck 0 = none ∧ ((pressing {}).setReg pgImpr 0x120 9999).startCheck 0 = some 0x0D82 ∧
    ((pressing { state := .pause }).setReg pgImpr 0x120 10000).startCheck 0 = some 0x0D83 ∧
    ((pressing { run := true }).part 0).run = true ∧ ((pressing { starting := true }).part 0).starting = true := by decide +kernel

theorem witness_ImpressionsBegin :
    ((pressing { starting := true, run := true }).part 0).starting = true ∧
    (let d : Dev := { pressing { state := .running } with cores := [(0, { todo := [0], lists := [(0, running)] })] }
     (d.part 0).begun = false ∧ (d.cores.map (·.1)).Nodup ∧ d.ownsCore 0 0 = true ∧ (d.core 0).todo = [0] ∧
     ((d.core 0).list 0).cursor ≤ ((d.core 0).list 0).last ∧ d.ownsCore 0 24 = false) := by decide +kernel

/-- A partition that presses impression 7 with a group, and a TICK record of its link for that impression. -/
def grouped : Dev := ((pressing { state := .running, run := true, num := 7 }).setReg pgImpr 0x100 4).setReg pgImpr 0x114 1
def tickRec : List Byte := natLe 4 0x05 ++ natLe 4 7 ++ natLe 4 9 ++ natLe 4 0x08

theorem witness_Announcing : (grouped.part 0).state = .running ∧ (grouped.part 0).ann = none ∧ grouped.lnPart 0 = some 0 ∧
    grouped.groupLink 0 0 = true ∧ grouped.recordStale 0 tickRec = false ∧ serialLater 32 (field tickRec 4 4) 7 = false ∧
    serialStale 32 (field tickRec 4 4) 7 = false ∧ (grouped.part 0).halting = none := by decide +kernel

theorem witness_Ticking_outcomes :
    (∀ o ∈ [Outc.onTime, .defer, .halt], (pressing { state := .running, ann := some o }).groupMet 0 = true ∧ combine o [] = o) ∧
    (pressing { state := .running, ann := some .halt }).complete 0 = true ∧
    ({ pressing { state := .running, ann := some .halt } with cores := [(0, { cmds := [{}] })] } : Dev).complete 0 = false ∧
    ((pressing { state := .running, halting := some false }).part 0).halting = some false ∧
    ((pressing {}).proof 0).phase ≠ .ordered := by decide +kernel

/-- A deferral moves the tick one period on and keeps the number. -/
theorem test_tick_defers : (match exec (.tick 0) (ready (pressing { state := .running, num := 7, ann := some .defer, nextTick := 500 })) with
    | .next t => let x := t.dev.part 0; (x.num, x.d, x.nextTick) | _ => default) = (7, 1, 100500) := by decide +kernel

/-! ### Partitions -/

theorem witness_PartitionLife :
    (∀ mask ∈ [1, 2, 4, 8, 3, 12, 5, 10, 15], Dev.claimRefused {} 3 mask = false) ∧ Dev.claimRefused {} 0 6 = true ∧
    claimed.claimRefused 1 1 = true ∧ (ready {}).pow.mode = .ready ∧
    (({ claimed with parts := [(0, { claim := 1, mask := 1 })] } : Dev).part 0).claim = 1 ∧ (claimed.cores.map (·.1)).Nodup ∧ claimed.owns 0 0 = true ∧
    (claimed.part 0).claim = 2 ∧ (claimed.part 0).run = false ∧ (claimed.proof 0).phase = .idle ∧
    ((pressing { run := true }).part 0).run = true := by decide +kernel

/-! ### Links -/

/-- Link 0 of claimed die 0 with this CFG, in this state. -/
def linkDev (x : LinkSt) (cfg : Nat := 2 ^ 31 + 20) (d : Dev := claimed) : Dev :=
  { d with links := [(0, x)] }.setReg (pgLink 0) 0x104 cfg
def dataFlit (kind : Nat) : LnFlit := { kind, seq := 5, wordA := 15 * 2 ^ 17 + 2 ^ 6, wordB := 10 * 2 ^ 24 }
/-- Galley 15 of core 0 receives from link 0. -/
def linkGalley (x : Galley := {}) : Dev :=
  let g := { x with cfg := BitVec.ofNat 32 (2 ^ 31 + 2 * 2 ^ 26), srcid := 0#32 }
  linkDev { state := .active, rxNext := 5 } (d := { claimed with cores := [(0, { galleys := [(15, g)] })] })

theorem witness_LinkConfig : (ready (linkDev {} 20)).Up ∧ (linkDev {} 20).lnState 0 = .disabled ∧
    (let old := (linkDev {} 20).lnCfg 0
     let w := (2 ^ 31 + 20) &&& linkCfgMask
     bit w 31 = true ∧ bit old 31 = false ∧ bits w 26 24 < 2 ∧ ((linkDev {} 20).link 0).state = .disabled ∧
     5 ≤ bits ((5 * 2 ^ 24) &&& linkCfgMask) 26 24) ∧
    (let d := linkDev { state := .active }
     d.lnState 0 ≠ .disabled ∧ d.lnActive 0 = true ∧ ((2 ^ 24 + 20) ^^^ d.lnCfg 0) &&& linkTrunkMask ≠ 0 ∧
     bit 20 31 = false ∧ bit (d.lnCfg 0) 31 = true ∧ ((20 &&& linkCfgMask) ^^^ d.lnCfg 0) &&& linkTrunkMask = 0 ∧
     bits (d.lnCfg 0) 26 24 < 2) := by
  simp only [State.Up]; decide +kernel

theorem witness_LinkTraining : (linkDev { state := .training, deadline := some 9 }).lnState 0 = .training ∧
    ((linkDev {}).lnMembers 0).all (linkDev {}).lnEn = true ∧ (linkDev {}).lnHome 0 = 0 ∧
    ((linkDev { state := .retrain, deadline := some 9 }).link 0).deadline = some 9 ∧
    ((linkDev { state := .hello }).link 0).state = .hello ∧
    (((linkDev { state := .hello, heard := true, confirmed := true }).link 0).heard = true ∧
      ((linkDev { state := .hello, heard := true, confirmed := true }).link 0).confirmed = true) := by decide +kernel

/-- Two links of one trunk train together. -/
theorem witness_LinkTraining_trunk :
    let d := (linkDev { state := .training } (2 ^ 31 + 2 * 2 ^ 24 + 20)).setReg (pgLink 1) 0x104 (2 ^ 31 + 2 * 2 ^ 24 + 2 ^ 20 + 20)
    d.lnMembers 1 = [0, 1] ∧ d.lnHome 1 = 0 ∧ d.lnState 1 = .training ∧ (d.lnMembers 1).all d.lnEn = true := by decide +kernel

theorem witness_LinkRetrains : ((linkDev { state := .active }).link 0).state = .active ∧
    ((linkDev { state := .retrain, retry := [{}], epoch := 65535 }).link 0).state = .retrain := by decide +kernel

/-- A trunk whose member 1 retrains does so whole, and a member whose EN falls leaves the other in TRAINING. -/
theorem test_trunk_retrains :
    let d := (linkDev { state := .active } (2 ^ 31 + 2 * 2 ^ 24 + 20)).setReg (pgLink 1) 0x104 (2 ^ 31 + 2 * 2 ^ 24 + 2 ^ 20 + 20)
    let e := d.linkRetrain 1 1
    let off := d.linkCfgWrite 1 (BitVec.ofNat 32 (2 * 2 ^ 24 + 2 ^ 20 + 20))
    e.lnState 0 = .retrain ∧ (e.hdr (pgLink 0)).raw = 4#32 ∧ (e.hdr (pgLink 1)).raw = 4#32 ∧ e.reg (pgLink 1) 0x138 = 1 ∧
    off.lnState 0 = .training ∧ off.lnState 1 = .disabled := by decide +kernel

/-- A HELLO of a single link and of a trunk of two, and an answer to time exchange 3. -/
def helloRec (w : Nat) : List Byte := natLe 4 1 ++ natLe 4 9 ++ natLe 1 0 ++ natLe 1 (w * 8) ++ natLe 2 7 ++ natLe 4 0
def answerRec : List Byte := natLe 4 8 ++ natLe 8 500 ++ natLe 1 3 ++ natLe 3 20

theorem witness_LinkExchanges :
    let d := linkDev { state := .hello, heard := true, asked := [(3, 400)] }
    let a := linkDev { state := .active, asked := [(3, 400)] }
    (d.link 0).state = .hello ∧ d.lnWidth 0 = 1 ∧ max 1 (bits (field (helloRec 0) 9 1) 5 3) = 1 ∧
    d.lnWidth 0 ≠ max 1 (bits (field (helloRec 2) 9 1) 5 3) ∧ (a.link 0).state = .active ∧ a.recordStale 0 answerRec = false ∧
    d.recordStale 0 answerRec = false ∧ d.lnWidth 0 < 2 ∧
    (d.link 0).heard = true ∧ (d.link 0).asked.find? (fun q => q.1 == field answerRec 0x0C 1) = some (3, 400) := by decide +kernel

theorem witness_LinkRecords :
    (linkDev { state := .active, rxEpoch := 1 }).recordStale 0 (natLe 4 2) = true ∧ linkGalley.recordStale 0 (natLe 4 2) = false ∧
    (linkDev { state := .hello, rxEpoch := 1 }).recordStale 0 (natLe 4 2) = true ∧
    (linkGalley.cores.any fun y => y.2.galleys.any fun z => linkGalley.sendsTo 0 0 15 z.2) = false ∧ bit (field (natLe 8 0x80000000000000) 6 1) 7 = true ∧
    (linkGalley.cores.map (·.1)).Nodup ∧ (∀ y ∈ linkGalley.cores, (y.2.galleys.map (·.1)).Nodup) ∧
    (linkGalley.link 0).waiting = [] := by decide +kernel

/-- Every flit the module sends has its CRC. -/
theorem test_flit_sound (f : LnFlit) (ack : Nat) (nak : Bool) : flitOk (f.bytes ack nak) = true := by
  have hp : (padTo 240 f.payload).length = 240 := by simp [padTo]; omega
  have hc := (crc32 (natLe 2 (f.kind * 2 ^ 14 + f.seq) ++ natLe 2 (b2n nak * 2 ^ 15 + ack) ++ natLe 4 f.wordA ++ natLe 4 f.wordB ++
    padTo 240 f.payload)).isLt
  simp only [LnFlit.bytes, flitOk, natLe, field] at *
  generalize padTo 240 f.payload = p at *
  simp [hp, leNat] at *
  generalize (crc32 _).toNat = c at *
  omega

/-- The same flit with another CRC. -/
def badFlit (f : LnFlit) : List Byte :=
  let b := f.bytes 0 false
  splice b 0x0C (natLe 4 (field b 0x0C 4 + 1))

theorem test_flit_bad (f : LnFlit) : flitOk (badFlit f) = false := by
  have hp : (padTo 240 f.payload).length = 240 := by simp [padTo]; omega
  simp only [badFlit, LnFlit.bytes, flitOk, natLe, field, splice] at *
  generalize padTo 240 f.payload = p at *
  simp [hp, leNat] at *
  generalize (crc32 _).toNat = c at *
  omega

theorem witness_LinkFlits :
    let d := linkGalley
    let ok (f : LnFlit) := f.bytes 0 false
    LnFlit.parse (ok (dataFlit 1)) =
      { dataFlit 1 with payload := List.replicate 240 0#8 } ∧ (d.link 0).state = .active ∧ (d.link 0).retry = [] ∧
    (d.link 0).waiting = [] ∧ (d.link 0).ahead = [] ∧ (d.link 0).hit = false ∧ (d.link 0).rxNext = 5 ∧ d.seqDue 0 = 5 ∧
    (LnFlit.parse (ok { kind := 3, seq := 5 })).records = [] ∧ (LnFlit.parse (ok { kind := 3, seq := 6 })).seq ≠ d.seqDue 0 ∧
    ((linkDev { state := .active, hit := true }).link 0).hit = true ∧ d.lnHolds 0 = false ∧ (d.link 0).held = [] ∧ d.lnPart 0 ≠ none ∧ ({ d with dies := [] } : Dev).lnPart 0 = none := by
  decide +kernel

theorem witness_LinkFlits_galley :
    let f := dataFlit 1
    f.wordA / 2 ^ 21 = 0 ∧ f.wordA / 2 ^ 17 % 16 = 15 ∧ ((linkGalley.core 0).galley 15).en = true ∧
    ((linkGalley.core 0).galley 15).src = 2 ∧ linkGalley.lnHome ((linkGalley.core 0).galley 15).srcLink = linkGalley.lnHome 0 ∧
    (f.payload.take (min 240 (f.wordB / 2 ^ 24))).length < 64 ∧ f.wordA / 2 ^ 11 % 64 = ((linkGalley.core 0).galley 15).part.length ∧
    (LnFlit.parse (f.bytes 0 false)).payload.take (min 240 (f.wordB / 2 ^ 24)) ≠ [] := by decide +kernel

/-- The movers of the partition are held for a cut: the link holds what comes. -/
theorem witness_LinkFlits_holds : (linkDev { state := .active } (d := { claimed with
    parts := [(0, { claim := 2, mask := 1, moversHeld := true })] })).lnHolds 0 = true := by decide +kernel

/-- An ABORT that names galley 15 of core 0, which receives a slug or does not. -/
def abortRec : List Byte := natLe 4 4 ++ natLe 2 0 ++ natLe 1 15 ++ natLe 9 0
theorem witness_LinkFlits_abort (x : Galley) (h : x.dropping = false) :
    (linkGalley.recordStale 0 abortRec = false ∧ field abortRec 4 2 % 2048 = 0 ∧ field abortRec 6 1 % 16 = 15) ∧
    ((linkGalley x).core 0).GalleysQuiet := by
  refine ⟨by decide +kernel, fun _ h => (nomatch h), fun g => ?_⟩
  simp only [linkGalley, linkDev, Dev.setReg, Dev.core, tget, CoreSt.galley]
  by_cases hg : 15 = g <;> simp [tget, hg, h]
theorem witness_LinkFlits_slug : ((linkGalley { receiving := true }).core 0).galley 15 =
      { ({ receiving := true } : Galley) with cfg := BitVec.ofNat 32 (2 ^ 31 + 2 * 2 ^ 26), srcid := 0#32 } ∧
    (((linkGalley { receiving := true }).core 0).galley 15).receiving = true ∧
    (((linkGalley { receiving := true }).core 0).galley 15).taking = false ∧
    (((linkGalley {}).core 0).galley 15).halfSlug = false ∧ (((linkGalley {}).core 0).galley 15).resync = false ∧
    (((linkGalley { part := [1#8], partSos := true }).core 0).galley 15).halfSlug = true := by decide +kernel

/-- Member 1 of a trunk of two has SEQ 5 due while member 0 has still to bring SEQ 4. -/
theorem witness_LinkFlits_trunk :
    let d := (linkDev { state := .active, rxNext := 4 } (2 ^ 31 + 2 * 2 ^ 24 + 20)).setReg (pgLink 1) 0x104 (2 ^ 31 + 2 * 2 ^ 24 + 2 ^ 20 + 20)
    d.seqDue 1 = 5 ∧ d.seqDue 1 ≠ (d.link (d.lnHome 1)).rxNext ∧ (LnFlit.parse ((dataFlit 1).bytes 0 false)).seq = 5 := by decide +kernel

/-! ### Collectives -/

/-- An entry of operation op over MAX units, as this rank of so many: rank 1 routes down to link 0; with so many map entries. -/
def collEnt (op rank ranks maps : Nat) : List Byte := [(0, 1, op), (1, 1, 1), (3, 1, 0x80), (4, 2, rank), (6, 2, ranks), (8, 4, 3),
  (0x0C, 2, 0), (0x0E, 2, 2 ^ 14), (0x10, 8, 0), (0x18, 8, 0x1000), (0x20, 8, 0x2000), (0x28, 4, 2), (0x2C, 4, 64),
  (0x30, 8, 0x3000), (0x38, 4, maps), (0x3C, 2, 1), (0x40, 2, 9), (0x42, 1, 1), (0x44, 2, 3)].foldl
    (fun d f => splice d f.1 (natLe f.2.1 f.2.2)) (List.replicate 128 0#8)
/-- A map entry of 64 bytes from rank s to rank d. -/
def mapEnt (s d : Nat) : List Byte :=
  natLe 12 0 ++ natLe 4 64 ++ natLe 8 (0x4000 + s * 2 ^ 48) ++ natLe 8 (0x5000 + d * 2 ^ 48)
/-- Die 0's engine over link 0, its table at 2^20 with this entry first. -/
def collDev (x : CollSt) (b : List Byte) (m : List Byte := []) : Dev :=
  { linkDev { state := .active } with colls := [(0, x)], mem := Memory.write (Memory.write [] (2 ^ 20) b) 0x3000 m }.setReg
    (pgColl 0) 0x108 (2 ^ 20)
def collRunOf (b : List Byte) : CollRun := { ent := b }
def onChannel (r : CollRun) : CollSt := { chans := [(0, some r)] }

theorem witness_CollKicks : (ready (collDev {} (collEnt 1 0 1 0))).Up ∧
    (let need (o : Nat) := field ((collDev {} (collEnt 1 0 1 0)).read ((collDev {} (collEnt 1 0 1 0)).collTable 0) 128) o 2
     need 0x3C = 1) ∧ (natLe 8 0).length = 8 ∧ field (natLe 8 0) 0 1 = tget 0 (({} : CollSt)).arms 0 ∧
    field (natLe 8 1) 0 1 ≠ tget 0 (({} : CollSt)).arms 0 := by
  simp only [State.Up]; decide +kernel

theorem witness_CollRuns_start : ∀ x ∈ [collEnt 1 0 1 0, collEnt 1 1 1 0, collEnt 7 1 2 1, collEnt 7 1 2 2],
    let d := collDev { ready := [0] } x (mapEnt 1 0 ++ mapEnt 0 0)
    let b := d.read (d.collTable 0 + 128 * 0) 128
    (List.range 4).find? (fun i => (d.collRun 0 i).isNone) = some 0 ∧ (d.coll 0).ready.head? = some 0 ∧
    (d.hdr (pgColl 0)).enable = true ∧ d.chanHeld 0 = false ∧ d.bad (d.collTable 0 + 128 * 0) 128 = false ∧ b = x ∧
    d.bad (CollEnt.parse x).map (32 * (CollEnt.parse x).mapCount) = false ∧
    d.entryOk 0 x = decide (x ≠ collEnt 1 1 1 0) ∧ (d.coll 0).early = [] ∧
    (dOp x % 256 = 7 → mapBad (CollEnt.parse x) (d.collMap (CollEnt.parse x)) = decide (x = collEnt 7 1 2 2)) := by
  decide +kernel

theorem witness_CollRuns_unreadable :
    ({ collDev { ready := [0] } (collEnt 1 0 1 0) with ecc := [2 ^ 20] } : Dev).bad (2 ^ 20) 128 = true := by decide +kernel

theorem witness_CollRuns_copy :
    let r := collRunOf (collEnt 7 1 2 1)
    let d := collDev (onChannel r) (collEnt 7 1 2 1) (mapEnt 1 0)
    d.collRun 0 0 = some r ∧ r.e.op = 7 ∧ r.fail = 0 ∧ r.copied = false ∧ r.go = false ∧ r.e.rank ≠ 0 ∧ r.ready = false ∧
    d.chanHeld 0 = false ∧ r.done = false ∧ r.sent = false ∧ r.inFlits = [] ∧ r.upWait = [] ∧ r.downWait = [] ∧
    (outgoing r.e (d.collMap r.e)).length = 1 ∧ d.bad r.e.map (32 * r.e.mapCount) = false ∧
    ({ d with ecc := [r.e.map] } : Dev).bad r.e.map (32 * r.e.mapCount) = true ∧
    ∀ q ∈ outgoing r.e (d.collMap r.e), d.bad q.2.1.src q.2.1.size = false ∧
      d.collReach 0 (r.e.scratch + q.2.2) q.2.1.size = true ∧ d.inHold (r.e.scratch + q.2.2) q.2.1.size = false := by
  decide +kernel

theorem witness_CollRuns_done : ∀ r ∈ [{ collRunOf (collEnt 1 0 1 0) with done := true }, { collRunOf (collEnt 1 0 1 0) with fail := 0x0A41 }],
    (collDev (onChannel r) []).collRun 0 0 = some r ∧ (r.done = true ∧ r.upWait = [] ∧ r.downWait = [] ∨ r.fail ≠ 0) ∧
    (collDev (onChannel r) []).chanHeld 0 = false ∧ r.e.notify = [3] ∧ claimed.ownsCore 0 3 = true := by decide +kernel

/-- A COLL_START of entry 0 and ARM 0 for another operation; a READY of that run. -/
def startRec : List Byte := natLe 16 9
/-- Stream bytes of run 0 from the rank below, at the start of the stream or past it. -/
def streamFlit (at_ : Nat) : LnFlit := { kind := 2, wordB := at_, payload := List.replicate 240 0#8 }

theorem witness_CollMessages_records :
    let r := collRunOf (collEnt 1 0 2 0)
    let d := collDev (onChannel r) []
    let p := collRunOf (collEnt 7 0 2 0)
    (ready d).Up ∧ d.recordStale 0 startRec = false ∧ (collDev {} []).findRun 0 (field startRec 4 1 / 4) (field startRec 5 1) = none ∧
    d.findRun 0 (field startRec 4 1 / 4) (field startRec 5 1) = some 0 ∧ d.collRun 0 0 = some r ∧ r.fail = 0 ∧ r.done = false ∧
    (startRec.drop 6).take 6 ≠ ((startBody r).drop 2).take 6 ∧ p.e.op = 7 ∧ p.copied = false ∧ p.go = false ∧
    field startRec 6 1 = 0 ∧ p.sent = false ∧ p.inFlits = [] ∧ d.bad p.e.map (32 * p.e.mapCount) = false ∧
    field startRec 5 1 = tget 0 ((collDev {} []).coll 0).arms (field startRec 4 1 / 4) ∧
    field startRec 5 1 ≠ tget 0 ((collDev { arms := [(0, 1)] } []).coll 0).arms (field startRec 4 1 / 4) := by
  simp only [State.Up]; decide +kernel

/-- Rank 1 of two that sums BF16 tiles receives from the rank below by link 0: the first bytes of a tile, or bytes past them. -/
def sumEnt : List Byte := splice (splice (collEnt 1 1 2 0) 1 (natLe 3 0xC08A00)) 0x10 (natLe 8 (66 * 2 ^ 48))
theorem witness_CollMessages_stream :
    let r := collRunOf sumEnt
    let d := collDev (onChannel r) []
    let f := streamFlit 0
    let up := d.collPort 0 r.e.down == some (d.lnHome 0)
    d.lnHolds 0 = false ∧ (d.link (d.lnHome 0)).held = [] ∧ d.lnPart 0 ≠ none ∧
    d.findRun 0 (f.wordA / 2 ^ 26) (f.wordA / 2 ^ 16 % 256) = some 0 ∧ d.collRun 0 0 = some r ∧ r.e.op ≠ 7 ∧ up = true ∧
    f.wordA / 2 ^ 24 % 4 = r.e.phase up ∧ f.wordB = r.rUp ∧ (streamFlit 4).wordB ≠ r.rUp ∧ r.streamOver r.e up = false ∧
    ({ r with units := r.e.count, rUp := 1000000 } : CollRun).streamOver r.e up = true ∧ r.done = false ∧ r.upWait = [] ∧ r.downWait = [] ∧
    (let f := LnFlit.parse ((streamFlit 0).bytes 0 false)
     let bs := f.payload.take (match r.e.streamBytes up with | some t => min 240 (t - r.rUp) | none => 240)
     let r' := { r with inUp := r.inUp ++ bs, rUp := r.rUp + bs.length }
     bs.length = 240 ∧ ((d.setRun 0 0 (some r')).collStep 0 0).isNone = true ∧ d.runOver 0 r' r.e = false) := by decide +kernel

theorem witness_CollCombines :
    let t (n : Nat) : List Byte := TileHdr.bytes { fmt := 8, tag := n }
    sameTile (Tile.parse (t 3)).hdr (Tile.parse (t 4)).hdr = false ∧ sameTile (Tile.parse (t 3)).hdr (Tile.parse (t 3)).hdr = true ∧
    (Tile.parse (t 3)).hdr.fmt = 8 ∧ (Tile.parse (t 3)).hdr.fmt ≠ 10 ∧ field (natLe 4 1) 0 4 ≠ field (natLe 4 2) 0 4 ∧
    isNan fnan = true ∧ isNan 0x80000000#32 = false := by decide +kernel

/-! ### The substrate and power -/

theorem witness_D2dPorts : ∀ v < 4, (ready (({} : Dev).setD2d 3 1 v)).Up ∧ (({} : Dev).setD2d 3 1 v).d2d 3 1 = v ∧
    d2dEnds 3 1 = [3, 1] := by simp only [State.Up]; decide +kernel

/-- Partition 0 presses with energy over its budget in this impression; input power over LIMIT; a hot sensor of die 0. -/
def burning : Dev := { (((pressing { state := .running, num := 7 }).setReg pgGov (overKey 0) 8).setReg pgPwr 0x110 100).setReg
  pgPwr 0x10C 101 with hots := [4] }

theorem witness_DiePoints : (ready burning).Up ∧ (burning.part 0).claim = 2 ∧ (burning.part 0).starting = false ∧
    (burning.part 0).state = .running ∧ burning.reg pgGov (overKey 0) = ((burning.part 0).num + 1) % 2 ^ 32 ∧
    (pressing { state := .running, num := 7 }).reg pgGov (overKey 0) ≠ 8 ∧ burning.limit < burning.pin ∧ burning.slowable = [0] ∧
    (dieSensors 0).any burning.hots.contains = true := by simp only [State.Up]; decide +kernel

/-- The module with this power, device and security processor. -/
def moduleOf (p : Pow) (d : Dev := {}) (x : Sec := {}) : State := { chip := { dev := d, pow := p, sec := x } }
def slowest : Dev := { burning with dies := [(0, { part := some 0, point := 3, live := true })] }

theorem witness_PowerSamples : (ready burning).Up ∧ (ready slowest).pow.gated = false ∧ slowest.limit < slowest.pin ∧
    slowest.slowable = [] ∧ (∃ c < 4, (slowest.die c).part.isSome = true) ∧
    (let d := burning.setReg pgPwr 0x10C 95
     d.pin * 100 ≤ d.limit * 95 ∧ d.pin ≤ d.limit) ∧ (burning.thresholds 4).1 ≤ 400 ∧ (burning.thresholds 4).2.1 ≤ 400 ∧
    alertRises burning burning 44000 49001 = true := by simp only [State.Up]; decide +kernel

theorem witness_PowerStates :
    (moduleOf { mode := .off }).pow.mode = .off ∧ (moduleOf { mode := .standby, fresh := true }).pow.fresh = true ∧
    (moduleOf { mode := .standby, waiting := true }).pow.waiting = true ∧ (moduleOf { mode := .standby }).pow.pwrEn = true ∧
    (ready burning).pow.mode ≠ .tripped ∧ (burning.thresholds 12).2.2 ≤ 460 ∧ (ready {}).pow.served = true ∧ (ready {}).Up ∧
    (moduleOf { mode := .run, hubRails := true, dieRails := true, frozen := true }).pow.frozen = true ∧
    (0xA5C30001#32).toNat / 2 ^ 16 = 0xA5C3 ∧ bit (0xA5C30001#32).toNat 0 = true ∧ bit (0xA5C30000#32).toNat 0 = false ∧
    (∀ n ∈ [1, 2, 3], (moduleOf { mode := .warmReset, warm := n }).pow.warm = n) ∧
    ∀ n ∈ [0, 1, 2, 3, 4, 5], (({ gens := [(3, { state := n })] } : Dev).gens.map (·.1)).Nodup ∧
      (({ gens := [(3, { state := n })], cores := [(0, { stats := [(0, 1#32)] })] } : Dev).cores.map (·.1)).Nodup ∧
      (({ gens := [(3, { state := n })] } : Dev).gen 3).state = n := by simp only [State.Up]; decide +kernel

/-- What the firmware itself must pass is opaque: the rest of each clause holds of these. -/
theorem witness_StartUp :
    State.reset.pow.mode = .boot ∧ State.reset.pow.frozen = false ∧ State.reset.sec.log.length + 2 ≤ 16 ∧
    State.reset.pow.hubRails = false ∧ (moduleOf { hubRails := true }).pow.dieRails = false ∧
    (moduleOf { stage := 1 }).pow.faultN = false ∧ (moduleOf {} {} { tried := 1 }).sec.tried ≠ 0 ∧ (moduleOf { stage := 2 }).pow.stuck = false ∧
    (List.replicate 12 (64 : Nat)).length = 12 ∧ supportedDimm 64 = true ∧ supportedDimm 24 = false ∧ bit 0x80 7 = true ∧
    (({} : Dev).ddrLaid = [] ∧ ({ ddrLaid := List.range 12 } : Dev).ddrLaid = (List.range 12).filter fun _ => supportedDimm 64) ∧ (moduleOf { stage := 2 }).pow.stage ≠ 3 := by decide +kernel

/-- The management processor sets EN of every link at start-up (R306, Table 11-11). -/
theorem test_links_enabled :
    (State.reset.dev.enableLinks.link 35).state = .training ∧ bit (State.reset.dev.enableLinks.reg (pgLink 35) 0x104) 31 = true := by
  decide +kernel

/-! ### Proofs -/

/-- A proof of partition 0 that stands so, in a partition that stands so, with n pages of shadow reserve in each stack of its die,
and PROOF_IMPR b. -/
def proving (y : ProofSt) (x : PartSt := {}) (b n : Nat := 200) : Dev :=
  ((({ pressing x with proofs := [(0, y)] }.setReg pgProof (proofReg 0 0) b).setReg (pgHbmc 0) 0x188 n).setReg (pgHbmc 1) 0x188 n)
def seven : PartSt := { state := .running, run := true, num := 7, nextTick := 100000 }

theorem witness_ProofOrders :
    (ready (proving {} seven)).Up ∧ bit (1#32).toNat 0 = true ∧ bit (3#32).toNat 1 = true ∧ bit (1#32).toNat 1 = false ∧
    (∀ d ∈ [proving {} seven 8, proving { phase := .copy } seven 8, proving {} seven 8 162],
      (d.part 0).claim = 2 ∧ (d.part 0).run = true ∧ serialLater 32 (d.part 0).num (d.prf 0 0) = true ∧
      d.time + d.guardNs 0 < (d.part 0).nextTick) ∧
    (proving {} seven 8).badReserve 0 = none ∧ ((proving {} seven 8 162).badReserve 0).isSome = true ∧
    serialLater 32 7 ((proving {} seven 7).prf 0 0) = false ∧ ((proving { phase := .copy } seven 8).proof 0).phase = .copy := by
  simp only [State.Up]; decide +kernel

/-- A partition that stands still, at the start of a step or within one; orders that stand, and one that is copying. -/
theorem witness_ProofOrders_still :
    (∀ x ∈ [({} : PartSt), { pos := 1 }], ((proving {} x).part 0).state = .stopped ∧ ((proving {} x).part 0).run = false ∧
      (proving {} x).badReserve 0 = none ∧ (proving {} x).coldReady 0 = true ∧
      ∀ c ∈ (proving {} x).diesOf 0, ∀ i < 16, ((proving {} x).dma (dmaIdx c i)).running = none) ∧ ((proving {} { pos := 1 }).part 0).pos ≠ 0 ∧
    ((proving {} {}).part 0).pos = 0 ∧ ((proving {} {} 200 162).badReserve 0).isSome = true ∧
    ((proving { phase := .ordered }).proof 0).phase = .ordered ∧ ((proving { phase := .sign }).proof 0).phase = .sign ∧
    ((proving { phase := .restore, keep := true }).proof 0).phase = .restore := by
  decide +kernel

/-- Generation 9 in slot 3, in this state. -/
def making (g : GenSt) (d : Dev := proving { phase := .copy, slot := 3 }) : Dev :=
  { d with gens := [(3, { g with id := 9, mask := 1 })] }.setReg pgProof 0x130 3

theorem witness_GenControl : ∀ n ∈ [0, 1, 2, 3, 4, 5], ∀ u ∈ [0, 1], ∀ pin ∈ [true, false],
    let d := { making { state := n, use := u, pinned := pin } with parents := [(1, 9)] }
    (ready d).Up ∧ (d.gen (d.reg pgProof 0x130 % 16)).state = n ∧ (d.gen 3).pinned = pin ∧ (d.gen 3).use = u ∧
    tget 0 d.parents (d.gen 3).mask = (d.gen 3).id ∧ (d.gen 3).id ≠ 0 := by simp only [State.Up]; decide +kernel

/-- A cut that waits for nothing, of a partition without dies: its generation needs one frame, for the manifest. -/
def cutting (frames : Nat) : Dev :=
  { (proving { phase := .quiesce }).setReg pgProof 0x110 frames with dies := [] }.setReg (pgDdr 0) 0x100 (2 ^ 31 + 1)

theorem witness_ProofCuts : ∀ d ∈ [cutting 1, cutting 0],
    (ready d).Up ∧ (d.proof 0).phase = .quiesce ∧ d.quiesced 0 = true ∧ d.freeSlot = some 0 ∧
    (let cut := d.newGen (d.proof 0) 0 false []
     (d.stacksOf 0).foldl Dev.platenProgress d = d ∧
     ((d.freezeSets 0 {}).fitGen 0 { cut with hdr := { cut.hdr with parent := 0 } } {} 17).2.isSome = decide (d = cutting 1)) := by
  simp only [State.Up]; decide +kernel

theorem witness_ProofCuts_more : (proving {}).NoTransfers ∧ (proving {}).NoLinkHolds ∧
    ({ cutting 1 with gens := (List.range 16).map fun i => (i, { state := 3 }) } : Dev).freeSlot = none ∧
    ((proving { phase := .capture, slot := 3 }).proof 0).phase = .capture ∧ (proving { phase := .capture }).badReserve 0 = none ∧
    (proving {}).tdirBad 0 (natLe 12 0 ++ natLe 20 1) = true ∧ ∀ c, ((proving {}).coll c).chans = [] :=
  ⟨fun _ => rfl, fun _ => ⟨rfl, rfl⟩, by decide +kernel, by decide +kernel, by decide +kernel, by decide +kernel, fun _ => rfl⟩

/-- Stack 0 in copy-on-write with page 200 in its copy set and this much done. -/
def copying (c : CowSt) (n : Nat := 163) (y : ProofSt := { phase := .copy, slot := 3 }) : Dev :=
  { making { state := 1, frames := [{ index := 200, fgen := 9 }] } (proving y {} 0 n) with
    cows := [(0, { c with armed := true, copySet := { but := [200] } })] }
def atPage : Nat := 200 * pageBytes

theorem witness_ProofCopies :
    (∀ c ∈ [({} : CowSt), { held := [(atPage, [1#8])] }, { done := [200] }, { shadow := [(200, 0)] }],
      let d := copying c
      (ready d).Up ∧ atPage < ddrBase ∧ stackOf atPage = 0 ∧ pagesOf atPage 1 = [200] ∧ d.inReserve 0 200 = false ∧
      (d.cow 0).pending 200 = (c.done.isEmpty && c.shadow.isEmpty) ∧ d.storedBad atPage pageBytes = none ∧
      (List.range (d.shadowPages 0 - 162)).find? (fun i => !(d.cow 0).shadow.any fun y => y.2 == i) =
        (if c.shadow = [] then some 0 else none)) ∧
    (let d := copying { shadow := [(200, 0)] }
     d.copyingPart 0 = some 0 ∧ d.nextPage 0 = some 200 ∧ (d.gen 3).ownFrame 0 200 = some { index := 200, fgen := 9 } ∧
     d.storedBad (d.shadowAddr 0 0) pageBytes = none ∧
     (({ d with ecc := [d.shadowAddr 0 0] } : Dev).storedBad (d.shadowAddr 0 0) pageBytes).isSome = true) := by
  simp only [State.Up]; decide +kernel

theorem witness_ProofCopies_end :
    (let d := making { state := 1 }
     (∀ t ∈ d.stacksOf 0, d.nextPage t = none ∧ d.storedBad (d.saveArea t) (162 * pageBytes) = none) ∧
     (({ d with ecc := [d.saveArea 1] } : Dev).storedBad (d.saveArea 1) (162 * pageBytes)).isSome = true) ∧
    (let d := { making { state := 2 } (proving { phase := .sign, slot := 3 }) with signQ := [(0, 0)] }
     (d.proof 0).phase = .sign ∧ d.signQ.head? = some (0, 0) ∧ (ready d).sec.signingOff = false) ∧
    (making {}).NoTransfers := ⟨by decide +kernel, by decide +kernel, fun _ => rfl⟩

/-- The drain of generation 9 runs, its stream sent up to `off`, or waits to start; slot 0 is open or free. -/
def draining (o : Session) (x : Option DrainSt) : Dev :=
  { making { state := 3, manifest := [1#8] } with drainQ := if x = none then [9, 4] else [], drain := x, sessions := [(0, o)] }
def opened : Session := { state := 2, id := 8, part := 0, admin := true, cwnd := 16, window := 64 }

theorem witness_Drains :
    (let d := draining opened none
     (ready d).Up ∧ d.drain = none ∧ d.drainQ = (d.gen 3).id :: [4] ∧ d.genSlot (d.gen 3).id = some 3 ∧
     (d.sess (d.prf (d.gen 3).part 0x20 % 8)).state = 2 ∧ (d.sess 0).windowOpen = true ∧ 0 < (d.gen 3).streamLen) ∧
    ((draining {} none).sess 0).state ≠ 2 ∧
    (let x : DrainSt := { gen := 9, session := 0, off := 1, total := 1 }
     let d := draining opened (some x)
     d.drain = some x ∧ d.genSlot x.gen = some 3 ∧ (d.sess x.session).draining = false ∧
     ((draining { opened with unacked := [{ typ := 7 }] } (some x)).sess x.session).draining = true) := by
  simp only [State.Up]; decide +kernel

theorem witness_Drains_quiet (o : Session) (h : o.trans = []) : (draining o none).NoTransfers := by
  intro n
  simp only [draining, making, Dev.setReg, Dev.sess, tget]
  by_cases hn : 0 = n <;> simp [hn, h]

/-- A restore that may begin of generation 9, which is not there, which an import makes, or which slot 3 holds. -/
theorem witness_Restores :
    (∀ m < 3, bit (1 + 2 * m) 0 = true ∧ bits (1 + 2 * m) 2 1 = m) ∧
    (let d := (proving {}).setReg pgProof (proofReg 0 0x40) 9
     (ready d).Up ∧ (d.part 0).claim = 2 ∧ (d.part 0).state = .stopped ∧ (d.part 0).run = false ∧ (d.proof 0).phase = .idle ∧
     d.genSlot (d.prf 0 0x40) = none ∧ d.restoreCheck 0 0 = some 0x0B08) ∧
    ((making { state := 3 }).setReg pgProof (proofReg 0 0x40) 9).genSlot 9 = some 3 := by
  simp only [State.Up]; decide +kernel

/-- A restore that runs: of a generation without frames, of one whose only frame cannot be read, of an import that has come. -/
def restoring (mode : Nat) (g : GenSt) : Dev := making { g with state := 3 } (proving { phase := .restore, mode, slot := 3 })
theorem witness_Restores_runs :
    (let d := restoring 0 { snap := [(0, {})] }
     (d.proof 0).phase = .restore ∧ (d.loadFrames (d.loadPlace 0) (d.gen 3).frames).2 = none ∧
     ((d.snapOf (d.gen 3)).cores.map (·.1)).Nodup ∧ ∀ z ∈ (d.snapOf (d.gen 3)).cores, d.ownsCore 0 z.1 = true ∧
       ∀ i < 16, (z.2.galley i).en = false) ∧
    (let f : FrameEnt := { index := 200, fgen := 9 }
     let d := { restoring 0 { frames := [f] } with ecc := [(restoring 0 {}).frameAddr 0 0] }
     (d.loadFrames (d.loadPlace 0) (d.gen 3).frames).2 = some f) ∧
    (let f : FrameEnt := { index := 200, fgen := 9 }
     let d := { (restoring 1 { frames := [f] }).setReg pgProof (proofReg 0 0x50) 1 with ecc := [(restoring 0 {}).frameAddr 0 0] }
     (d.loadMap 0).length = 1 ∧ ((d.gen 3).frames.find? fun f => f.kind == 0 && f.unit == 0 && f.index == 200) = some f ∧
     d.storedBad (d.frameAddr 0 0) pageBytes ≠ none) ∧ (({} : CoreSt).slots.map (·.1)).Nodup ∧
    (restoring 2 {}).importWhole 0 = true ∧ (restoring 2 { manifest := [1#8] }).importWhole 0 = false := by decide +kernel

/-! ### Railjor -/

/-- Slot 0 open to partition 0 over streams 0 to 15, its submission ring of sixteen entries at 64 KiB. -/
def talking (o : Session := opened) (d : Dev := claimed) : Dev :=
  (((({ d with sessions := [(0, o)] }.setReg pgStream (streamBaseKey 0) 0).setReg pgStream (streamCountKey 0) 16).setReg pgPart
    (partReg 0 0x10) 0x10000).setReg pgPart (partReg 0 0x18) 4)
/-- A whole message in its turn. -/
def said (typ stream : Nat) (payload : List Byte) : List Byte := rjBytes typ (rjFirst + rjLast) 8 1 1 0 stream 64 payload
def pre (a n : Nat) : List Byte := rjPreamble a n 0
def regAddr (page off : Nat) : Nat := regBase + page * 4096 + off
def readMsg (page : Nat) : List Byte := said 1 3 (pre (regAddr page 0x104) 1)
def writeMsg : List Byte := said 2 3 (pre (regAddr pgImpr 0x104) 1 ++ natLe 4 5)
def putMsg (a : Nat) : List Byte := said 3 3 (pre a 4 ++ natLe 4 5)
def getMsg (a : Nat) : List Byte := said 4 3 (pre a 4)
def submitMsg : List Byte := said 5 3 (natLe 16 1 ++ natLe 64 7)
def dataMsg (off : Nat) : List Byte := said 7 3 (natLe 8 9 ++ natLe 8 off ++ natLe 4 1)

theorem witness_HostRequests :
    ∀ m ∈ [readMsg pgImpr, readMsg (pgCore 24), writeMsg, putMsg 0, putMsg ddrBase, getMsg 0, getMsg ddrBase, submitMsg,
      dataMsg 0, dataMsg 1, said 1 16 (pre (regAddr pgImpr 0) 1)],
    (ready (talking)).Hears 0 m ∧ rjWhole m = true ∧ bit (rjFlagsOf m) 7 = false ∧
    talking.streamIn 0 (rjStream m) = decide (m ≠ said 1 16 (pre (regAddr pgImpr 0) 1)) := by
  simp only [State.Hears, State.Up]; decide +kernel

theorem witness_HostRequests_clauses :
    (let d := talking
     (readMsg pgImpr).length = 48 ∧ regPlace (rjAddr (readMsg pgImpr)) 1 = some (pgImpr, 0x104) ∧ d.pageOutside 0 pgImpr = false ∧
     regPlace (rjAddr (readMsg (pgCore 24))) 1 = some (pgCore 24, 0x104) ∧ d.pageOutside 0 (pgCore 24) = true ∧
     writeMsg.length = 48 + 4 * rjTotal writeMsg ∧ d.mayWrite 0 (d.selAfter pgImpr 0x104 writeMsg) pgImpr 0x104 = true ∧
     (talking { opened with part := 1, admin := false }).mayWrite 0 0 pgImpr 0x104 = false ∧
     rjOffset (putMsg 0) = 0 ∧ (rjBody (putMsg 0)).length = rjTotal (putMsg 0) ∧ inRegions (d.hostRegions 0) 0 4 = true ∧
     d.inHold 0 4 = false ∧ inRegions (d.hostRegions 0) ddrBase 4 = false ∧ rjTotal (getMsg 0) ≤ d.rjRoom 0 - 16 ∧
     d.bad 0 4 = false ∧ field submitMsg 32 4 = 1 ∧ submitMsg.length = 48 + 64 ∧ d.prt 0 0x18 % 32 = 4 ∧
     ((∀ i < 1, d.inHold (d.ringAddr 0 i) 64 = false) ∧ ({ d with saveHold := [(d.ringAddr 0 0, 64)] } : Dev).inHold (d.ringAddr 0 0) 64 = true) ∧
     d.ringOk 0 (d.reg64 pgPart (partReg 0 0x10)) 4 = true ∧ (d.prt 0 0x20 + 2 ^ 32 - d.prt 0 0x1C) % 2 ^ 32 + 1 ≤ 2 ^ 4 ∧
     d.ringOk 0 (d.reg64 pgPart (partReg 0 0x10)) 16 = true ∧
     ((d.setReg pgPart (partReg 0 0x20) 16).prt 0 0x20 + 2 ^ 32 - 0) % 2 ^ 32 + 1 = 2 ^ 4 + 1) ∧
    (let y : ProofSt := { phase := .restore, mode := 2, slot := 16 }
     let d := talking opened (proving y)
     (d.proof 0).phase = .restore ∧ 16 ≤ (rjData (dataMsg 0)).length ∧ field (rjData (dataMsg 0)) 8 8 = y.got ∧
     field (rjData (dataMsg 1)) 8 8 ≠ y.got ∧ (y.buf ++ (rjData (dataMsg 0)).drop 16).length < 256) := by decide +kernel

theorem witness_HostRequests_calm : ∀ st, (talking.cow st).armed = false ∧ (talking.cow st).held = [] := fun _ => ⟨rfl, rfl⟩

theorem witness_Acknowledgements :
    (let d := talking { opened with unacked := [{ seq := 1 }, { seq := 2 }], pendAcks := 1, events := [{}] }
     let m := rjBytes 8 0 8 1 2 0 0 64 []
     (ready d).Up ∧ (ready d).pow.net = true ∧ rjHeaderOk m = true ∧ rjTyp m = 8 ∧ rjSession m % 8 = 0 ∧ rjSession m = (d.sess 0).id ∧
     (d.sess 0).id ≠ 0 ∧ (d.sess 0).state = 2 ∧ (d.sess 0).waiting = [] ∧ d.drain = none ∧
     (d.sess 0).unacked.filter (fun u => !serialLater 32 u.seq (field m 0xC 4)) = [{ seq := 2 }] ∧ (d.sess 0).pendAcks ≠ 0 ∧
     (d.sess 0).events ≠ [] ∧ (d.sess 0).windowOpen = true) ∧ (talking.sess 0).unacked = [] := by simp only [State.Up]; decide +kernel

/-! ### Handshakes -/

/-- A whole message of a handshake on stream 5, and a first piece of one. -/
def shaken (body : List Byte) : List Byte := rjBytes 5 (rjFirst + rjLast) 0 0 0 0 5 64 body
def firstPiece : List Byte := rjBytes 5 rjFirst 0 0 0 0 5 64 (natLe 100 1)
def openReqMsg : List Byte := shaken (natLe 7368 1)
def openFinMsg : List Byte := shaken (natLe 4 3 ++ natLe 3324 8)

theorem witness_Handshakes :
    (∀ x ∈ [(openReqMsg, 7368, 1), (openFinMsg, 3328, 3)],
      rjHeaderOk x.1 = true ∧ rjTyp x.1 = 5 ∧ rjSession x.1 = 0 ∧ rjSeq x.1 = 0 ∧ rjIsLast x.1 = true ∧
      (rjData x.1).length = x.2.1 ∧ field (rjData x.1) 0 1 = x.2.2) ∧
    rjHeaderOk firstPiece = true ∧ rjTyp firstPiece = 5 ∧ rjSession firstPiece = 0 ∧ rjIsLast firstPiece = false ∧
    rjSeq firstPiece = 0 ∧ field (rjData firstPiece) 0 1 = 1 ∧ 1500 ≤ claimed.reg pgEth 0x114 ∧ claimed.shakes = [] ∧
    (ready claimed).pow.net = true ∧ (ready claimed).Up ∧
    -- no trust slot is valid at reset; what a certificate and a signature say is opaque
    bit (claimed.reg pgRailjor (0x200 + 0x80 * field (rjData openReqMsg) 2 1)) 31 = false ∧
    claimed.freeSession = some 0 := by simp only [State.Up]; decide +kernel

theorem witness_Handshakes_open :
    (let d : Dev := { sessions := [(0, { state := 1, id := 8 })], signQ := [(1, 0)] }
     d.signQ.head? = some (1, 0) ∧ (d.sess 0).state = 1) ∧
    (let y : Session := { state := 1, id := 8, challenge := [1#8] }
     let d : Dev := { sessions := [(0, y)], time := 10 ^ 9 + 1 }
     field (rjData openFinMsg) 4 4 % 8 = 0 ∧ (d.sess 0).id = field (rjData openFinMsg) 4 4 ∧ (d.sess 0).challenge ≠ [] ∧
     (d.sess 0).since + 10 ^ 9 < d.time ∧ (({} : Dev).sess 0).state = 0) := by decide +kernel

theorem witness_SessionsEnd : bit (1#32).toNat 0 = true ∧ (ready talking).Up ∧ (talking.sess 0).state = 2 ∧
    talking.reg pgRailjor 0x120 % 8 = 0 ∧ (claimed.sess 0).state ≠ 2 := by simp only [State.Up]; decide +kernel

/-! ### Ethernet -/

/-- The port with the device's address 10.0.0.1, in IPv4. -/
def wired : Dev := (claimed.setReg pgEth 0x118 0x0A000001).setReg pgEth 0x110 (2 ^ 31)
def frameOf (typ : Nat) (b : List Byte) : List Byte := ownMac ++ natBe 6 0x020000000099 ++ natBe 2 typ ++ b
def arpFrame : List Byte := frameOf 0x0806 (natBe 8 0x0001080006040001 ++ natBe 6 0x020000000099 ++ natBe 4 0x0A000002 ++
  natBe 6 0 ++ natBe 4 0x0A000001)
/-- An IPv4 packet with a UDP datagram of no payload to the Railjor port, without a UDP checksum. -/
def udpFrame (port : Nat) : List Byte :=
  let head (ck : Nat) := natBe 4 0x4500001C ++ natBe 4 0 ++ natBe 2 0x4011 ++ natBe 2 ck ++ natBe 4 0x0A000002 ++ natBe 4 0x0A000001
  frameOf 0x0800 (head (0xFFFF - inetSum (head 0)) ++ natBe 2 7 ++ natBe 2 port ++ natBe 4 (8 * 65536))

theorem witness_EthernetPort :
    (ready wired).pow.net = true ∧ (ready wired).Up ∧ bit (wired.reg pgEth 0x110) 29 = false ∧
    bit ((wired.setReg pgEth 0x110 (2 ^ 29)).reg pgEth 0x110) 29 = true ∧ fieldBe arpFrame 12 2 = 0x0806 ∧
    (arpFrame.drop 14).take 8 = natBe 8 0x0001080006040001 ∧ (arpFrame.drop 38).take 4 = wired.ownV4 ∧ bit (wired.reg pgEth 0x110) 31 = true ∧
    fieldBe (frameOf 0x88E5 []) 12 2 = 0x88E5 ∧ openUnder wired.sa (wired.reg64 pgEth 0x1C8) (frameOf 0x88E5 []) = none ∧
    openUnder wired.oldSa (nth wired.oldSa 16) (frameOf 0x88E5 []) = none ∧
    (∀ t ∈ [0x8100, 0x0806, 0x0800, 0x86DD], fieldBe (frameOf 0x0801 []) 12 2 ≠ t) := by simp only [State.Up]; decide +kernel

theorem witness_EthernetPort_own : ethDst arpFrame = ownMac ∧ ethDst (udpFrame 7) = ownMac := ⟨rfl, rfl⟩

theorem witness_EthernetPort_udp :
    let f := udpFrame (wired.reg pgEth 0x11C % 2 ^ 16)
    let b := f.drop 14
    let h := fieldBe b 0 1 % 16 * 4
    let len := fieldBe b 2 2
    let u := (b.take len).drop h
    fieldBe b 0 1 / 16 = 4 ∧ 20 ≤ h ∧ h ≤ len ∧ len ≤ b.length ∧ len ≤ wired.reg pgEth 0x114 ∧ fieldBe b 6 2 % 2 ^ 14 = 0 ∧
    inetSum (b.take h) = 0xFFFF ∧ (b.drop 16).take 4 = wired.ownV4 ∧ fieldBe b 9 1 = 17 ∧ 8 ≤ fieldBe u 4 2 ∧
    fieldBe u 4 2 ≤ u.length ∧ fieldBe u 2 2 = wired.reg pgEth 0x11C % 2 ^ 16 ∧ fieldBe u 6 2 = 0 ∧
    fieldBe ((frameOf 0x0800 []).drop 14) 0 1 / 16 ≠ 4 := by decide +kernel

/-! ### Security, freeze and debug -/

theorem witness_BusCommands :
    (ready {}).pow.served = true ∧ busEth 0x118 = true ∧ busEth 0x114 = false ∧
    sharesFit (({} : Dev).shares 4 0) 600 = true ∧ (List.replicate 128 (0 : Byte)).length = 128 ∧
    (List.replicate 256 (0 : Byte)).length = 256 ∧ ({} : Sec).log.length < 16 ∧
    16 ≤ ({ log := List.replicate 16 {} } : Sec).log.length ∧ ¬({} : Sec).recovery = true ∧ ¬({} : Sec).slotB = true ∧
    bits ((({} : Dev).setReg pgEth (saKey 0x180) (2 ^ 31)).reg pgEth (saKey 0x180)) 31 30 ≠ 0 ∧
    bits (2 ^ 31) 28 27 ≠ bits ((0x88000000#32).toNat) 28 27 ∧
    (let x : Sec := { imageSvn := 64 }
     x.fusedSvn < x.imageSvn ∧ x.imageSvn ≤ 64) ∧ (64 : Nat) < ({ imageSvn := 65 } : Sec).imageSvn := by decide +kernel

theorem witness_Attestation : (moduleOf { mode := .ready, hubRails := true, dieRails := true }).Up ∧ bit (1#32).toNat 0 = true ∧
    ({} : Sec).attGo = false ∧ ({} : Sec).signingOff = false ∧ ({ signingOff := true } : Sec).signingOff = true ∧
    ({ attGo := true } : Sec).attGo = true ∧ ({ signQ := [(2, 0)] } : Dev).signQ.head? = some (2, 0) := by
  simp only [State.Up]; decide +kernel

theorem witness_FreezeAndDebug :
    (let s := ready { gens := [(3, { state := 1 })], proofs := [(0, { phase := .copy })] }
     s.pow.up = true ∧ (s.dev.gen 3).state = 1 ∧ ∃ q < 4, (s.dev.proof q).phase ∈ [.quiesce, .capture, .copy, .sign]) ∧
    (let p : Pow := { mode := .ready, hubRails := true, dieRails := true, frozen := true, dump := 1 }
     p.frozen = true ∧ p.mode = .ready ∧ p.mode ≠ .off ∧ p.dump = 1 ∧ actsFrozen (.nop 0) = false) ∧
    (let n := (BitVec.ofNat 64 (2 ^ 63 + regAddr pgImpr 0x104)).toNat % 2 ^ 48
     regPlace n 1 = some (pgImpr, 0x104) ∧ (BitVec.ofNat 64 (2 ^ 63)).msb = true ∧ (0x10#64).msb = false) ∧
    (regPlace sramBase 1 = none ∧ sramBase % 4 = 0 ∧ sramBase < sramBase + numCores * caseBytes ∧ claimed.bad sramBase 4 = false) := by
  decide +kernel

theorem witness_StepTakesFront : ({ State.reset with pending := [.freeze, .tick 0] } : State).pending = .freeze :: [.tick 0] ∧
    State.reset.pending = [] := ⟨rfl, rfl⟩

/-- The promises hold of the reset state, and its steps answer next states. -/
theorem witness_holds : State.reset.sec.Sound ∧ State.reset.dev.mem.wf = true ∧ State.reset.sec.image.wf = true ∧
    State.reset.dev.elog.length ≤ 256 ∧ ∃ t, step { State.reset with pending := [.svnCommit] } = .next t :=
  ⟨⟨rfl, by decide, by decide⟩, rfl, rfl, by decide, ⟨_, rfl⟩⟩

theorem witness_SecurityHolds : (ready {}).pow.served = true ∧
    (let x : Sec := { imageSvn := 3 }
     x.Sound ∧ x.fusedSvn < x.imageSvn ∧ x.imageSvn ≤ 64) ∧
    ({ ready {} with pending := [.svnCommit] } : State).pending.head? = some .svnCommit :=
  ⟨rfl, ⟨⟨rfl, by decide, by decide⟩, by decide, by decide⟩, rfl⟩

/-- Just outside and just inside what the specification gives an outcome for. -/
theorem witness_CommandsComplete : ¬(40000 ≤ 39999 ∧ 39999 ≤ 50000) ∧ ¬(40000 ≤ 50001 ∧ 50001 ≤ 50000) ∧
    exec (.vinApply 39999) State.reset = .fault .outOfSpec ∧ (9999999 : Nat) < 10000000 := ⟨by decide, by decide, rfl, by decide⟩

end Sys2Proof.Tests
end

section
/-!
PROOF. The life of a partition (R22, R25, R253, R395, R439): what writes of CLAIM, RELEASE and MAINT and the end of zeroing do.
-/
namespace Sys2Proof.Machine

/-! ### Folds -/

section
variable {σ α γ : Type} {g : σ → α → σ}

/-- A fold whose steps each leave a view of the state alone, or change it by `f` where `hit` says so; `I` is what the steps keep. -/
theorem foldl_view {I : σ → Prop} (view : σ → γ) (f : γ → γ) (hit : α → Bool) (keeps : ∀ e c, I e → I (g e c))
    (steps : ∀ e c, I e → view (g e c) = if hit c then f (view e) else view e) (idem : ∀ x, f (f x) = f x) (cs : List α) {e : σ}
    (h : I e) : view (cs.foldl g e) = if cs.any hit then f (view e) else view e := by
  induction cs generalizing e with
  | nil => rfl
  | cons c cs ih =>
    rw [List.foldl_cons, ih (keeps e c h), steps e c h, List.any_cons]
    by_cases hc : hit c = true <;> by_cases hr : cs.any hit = true <;> simp [hc, hr, idem]

/-- A fold whose steps all leave a view of the state alone. -/
theorem foldl_unseen (view : σ → γ) (steps : ∀ e c, view (g e c) = view e) (cs : List α) (e : σ) :
    view (cs.foldl g e) = view e := by
  induction cs generalizing e with
  | nil => rfl
  | cons c cs ih => rw [List.foldl_cons, ih, steps]

end

/-! ### Bits and events -/

theorem bit_eq_testBit (n b : Nat) : bit n b = n.testBit b := by
  rw [Nat.testBit_eq_decide_div_mod_eq, bit, Nat.shiftRight_eq_div_pow, beq_eq_decide]

/-- An event raised shows in EVT_RAW (R475). -/
theorem bit_raised_raw (h : Hdr) {b : Nat} (hb : b < 32) : bit (h.raised b).raw.toNat b = true := by
  have hp : 2 ^ b < 2 ^ 32 := Nat.pow_lt_pow_right (by decide) hb
  have hw : (BitVec.ofNat 32 (2 ^ b)).toNat = 2 ^ b := by rw [BitVec.toNat_ofNat, Nat.mod_eq_of_lt hp]
  simp only [bit_eq_testBit, Hdr.raised, BitVec.toNat_or, hw, Nat.testBit_or, Nat.testBit_two_pow_self, Bool.or_true]

variable {s : State} {d : Dev} {p : Nat} {w : Word}

/-! ### Writes of the PART page -/

/-- A write of a partition's register that is not a CLAIM, or that finds the module READY or in RUN, acts on the device, and the
power mode follows the claims. -/
theorem run_busWrite_part (h : s.Up) {off : Nat} (ha : off % 4 = 0) (hlo : 0x200 ≤ off) (hhi : off < 0x300)
    (hm : off % 0x40 ≠ 0 ∨ s.chip.pow.mode = .ready ∨ s.chip.pow.mode = .run) :
    (s.run fun c => c.busWrite pgPart off w) = .next (s.written (s.dev.writePart {} off w)) := by
  have hl : s.chip.dev.pageLive pgPart = true := by simp [Dev.pageLive, pageType, pgPart]
  have hg : ¬(!s.chip.dev.pageLive pgPart ∨ off % 4 ≠ 0 ∨ 0x1000 ≤ off) := by simp [hl, ha]; omega
  have hb : ¬(pgPart = pgPart ∧ 0x200 ≤ off ∧ off < 0x300 ∧ off % 0x40 = 0 ∧ s.chip.pow.mode ≠ .ready ∧ s.chip.pow.mode ≠ .run) := by
    tauto
  rw [run_busWrite h, Chip.writeReg, if_neg hg, if_neg (by decide), if_neg (by omega), Chip.writeBlock, if_neg (by decide),
    if_neg (by decide), if_neg hb]
  rfl

theorem writePart_claim (u : Writer) (hp : p < 4) : d.writePart u (0x200 + 0x40 * p) w = d.claimWrite p u w := by
  have hq : (0x200 + 0x40 * p - 0x200) / 0x40 = p := by omega
  have ho : (0x200 + 0x40 * p) % 0x40 = 0 := by omega
  simp only [Dev.writePart, hq, ho]; exact if_pos (by omega)

theorem writePart_release (u : Writer) (hp : p < 4) : d.writePart u (0x204 + 0x40 * p) w = d.releaseWrite p u w := by
  have hq : (0x204 + 0x40 * p - 0x200) / 0x40 = p := by omega
  have ho : (0x204 + 0x40 * p) % 0x40 = 4 := by omega
  simp only [Dev.writePart, hq, ho]; exact if_pos (by omega)

theorem writePart_maint (u : Writer) (hp : p < 4) : d.writePart u (0x20C + 0x40 * p) w = d.maintWrite p u w := by
  have hq : (0x20C + 0x40 * p - 0x200) / 0x40 = p := by omega
  have ho : (0x20C + 0x40 * p) % 0x40 = 12 := by omega
  simp only [Dev.writePart, hq, ho]; exact if_pos (by omega)

theorem exec_partitionClaim (h : s.Up) (hp : p < 4) (hgo : bit w.toNat 4 = true)
    (hm : s.chip.pow.mode = .ready ∨ s.chip.pow.mode = .run) :
    exec (.partitionClaim p w) s = .next (s.written (s.dev.claimWrite p {} w)) := by
  calc exec (.partitionClaim p w) s
    _ = s.runIf (bit w.toNat 4) fun c => c.busWrite pgPart (0x200 + 0x40 * p) w := rfl
    _ = s.run fun c => c.busWrite pgPart (0x200 + 0x40 * p) w := by rw [hgo]; rfl
    _ = _ := by rw [run_busWrite_part h (by omega) (by omega) (by omega) (.inr hm), writePart_claim _ hp]

theorem exec_partitionRelease (h : s.Up) (hp : p < 4) (hgo : bit w.toNat 0 = true) :
    exec (.partitionRelease p w) s = .next (s.written (s.dev.releaseWrite p {} w)) := by
  calc exec (.partitionRelease p w) s
    _ = s.runIf (bit w.toNat 0) fun c => c.busWrite pgPart (0x204 + 0x40 * p) w := rfl
    _ = s.run fun c => c.busWrite pgPart (0x204 + 0x40 * p) w := by rw [hgo]; rfl
    _ = _ := by rw [run_busWrite_part h (by omega) (by omega) (by omega) (.inl (by omega)), writePart_release _ hp]

theorem exec_maintWrite (h : s.Up) (hp : p < 4) : exec (.maintWrite p w) s = .next (s.written (s.dev.maintWrite p {} w)) := by
  calc exec (.maintWrite p w) s
    _ = s.run fun c => c.busWrite pgPart (0x20C + 0x40 * p) w := rfl
    _ = _ := by rw [run_busWrite_part h (by omega) (by omega) (by omega) (.inl (by omega)), writePart_maint _ hp]

/-! ### Refusals (R400) -/

theorem errCode_partError (code : Nat) (u : Writer) : ((d.partError code u).hdr pgPart).errCode = code := by
  have hne : pgPart ≠ pgDbg := by decide
  have he : hasErrorBit pgPart = false := by decide
  unfold Dev.partError Dev.setError
  dsimp only
  rw [hdr_raise_ne hne]
  change ((Dev.raiseIf _ _ pgPart 0).hdr pgPart).errCode = code
  simp [he]

theorem kept_partError (code : Nat) (u : Writer) : d.Kept (d.partError code u) [.hdr pgPart, .hdr pgDbg, .log] :=
  kept_setError _ _ _ _

/-! ### Dies of a partition -/

theorem mem_diesOf {c : Nat} : c ∈ d.diesOf p ↔ d.owns p c = true := by
  simp only [Dev.diesOf, List.mem_filter, List.mem_range, Dev.owns, Bool.and_eq_true, decide_eq_true_eq]
  tauto

theorem any_beq_setBits {mask c : Nat} : ((setBits 4 mask).any (· == c)) = true ↔ c < 4 ∧ bit mask c = true := by
  simp [setBits]

theorem any_beq_diesOf (c : Nat) : ((d.diesOf p).any (· == c)) = d.owns p c := by
  rw [Bool.eq_iff_iff, ← mem_diesOf]; simp

/-- A die that one update of another die, or of itself, leaves. -/
theorem die_modDie (c : Nat) (f : DieSt → DieSt) (i : Nat) : (d.modDie c f).die i = if c == i then f (d.die i) else d.die i := by
  by_cases h : c = i
  · subst h; simp
  · rw [Dev.die_modDie_ne _ _ _ (Ne.symm h)]; simp [h]


/-- What a fold over dies, each step of which updates its own die by `f` and no other, makes of die i. -/
theorem die_foldl {g : Dev → Nat → Dev} (f : DieSt → DieSt) (steps : ∀ e c i, (g e c).die i = if c == i then f (e.die i) else e.die i)
    (idem : ∀ x, f (f x) = f x) (cs : List Nat) (i : Nat) :
    (cs.foldl g d).die i = if cs.any (· == i) then f (d.die i) else d.die i :=
  foldl_view (I := fun _ => True) (·.die i) f (· == i) (fun _ _ _ => trivial) (fun e c _ => steps e c i) idem cs trivial

/-! ### Reset of a die's cores (R395, R423) -/

/-- A core whose statistics hold nothing is new after a reset. -/
theorem atReset_of_isEmpty {c : CoreSt} (h : c.stats.isEmpty = true) : c.atReset = {} := by
  rw [CoreSt.atReset, List.isEmpty_iff.1 h]

theorem keys_resetTable (mine : Nat → Bool) (t : Table CoreSt) : ((resetTable mine t).map (·.1)).Sublist (t.map (·.1)) := by
  have h := (List.filter_sublist (p := fun x : Nat × CoreSt => !mine x.1 || !x.2.stats.isEmpty)
    (l := t.map fun x => (x.1, if mine x.1 then x.2.atReset else x.2))).map (·.1)
  simpa [resetTable, Function.comp_def] using h

theorem resetTable_cons (mine : Nat → Bool) (j : Nat) (v : CoreSt) (t : Table CoreSt) : resetTable mine ((j, v) :: t) =
    (if mine j then (if v.stats.isEmpty then [] else [(j, v.atReset)]) else [(j, v)]) ++ resetTable mine t := by
  cases hm : mine j <;> cases he : v.stats.isEmpty <;> simp [resetTable, hm, he, CoreSt.atReset]

/-- A table of cores, each listed once, after a reset of some. -/
theorem tget_resetTable {mine : Nat → Bool} {t : Table CoreSt} (ht : (t.map (·.1)).Nodup) (k : Nat) :
    tget {} (resetTable mine t) k = if mine k then (tget {} t k).atReset else tget {} t k := by
  induction t with
  | nil => simp [resetTable, tget, CoreSt.atReset]
  | cons x t ih =>
    obtain ⟨j, v⟩ := x
    obtain ⟨hj, ht⟩ := List.nodup_cons.1 ht
    rw [resetTable_cons]
    by_cases hjk : j = k
    · subst hjk
      have absent : ∀ c ∈ resetTable mine t, c.1 ≠ j := fun c hc hcj =>
        hj (hcj ▸ (keys_resetTable mine t).subset (List.mem_map.2 ⟨c, hc, rfl⟩))
      cases hm : mine j with
      | false => simp [tget]
      | true =>
        cases he : v.stats.isEmpty with
        | true => simpa [tget, atReset_of_isEmpty he] using tget_of_absent absent
        | false => simp [tget]
    · have other : ∀ c ∈ (if mine j then (if v.stats.isEmpty then [] else [(j, v.atReset)]) else [(j, v)]), c.1 ≠ k := by
        intro c hc; split at hc
        · split at hc <;> simp_all
        · simp_all
      rw [tget_append_of_ne other, ih ht]
      simp [tget, hjk]

/-- Core k belongs to die c of the module. -/
def coreOfDie (c k : Nat) : Bool := decide (k < numCores) && coreDie k == c

/-- The cores of a device, each listed once, after one die's reset. -/
theorem core_resetCores (h : (d.cores.map (·.1)).Nodup) (c k : Nat) :
    (d.resetCores c).core k = if coreOfDie c k then (d.core k).atReset else d.core k :=
  tget_resetTable (mine := coreOfDie c) h k

theorem nodup_resetCores (h : (d.cores.map (·.1)).Nodup) (c : Nat) : ((d.resetCores c).cores.map (·.1)).Nodup :=
  h.sublist (keys_resetTable (coreOfDie c) _)

@[simp] theorem die_resetCores (c i : Nat) : (d.resetCores c).die i = d.die i := rfl
@[simp] theorem part_resetCores (c i : Nat) : (d.resetCores c).part i = d.part i := rfl
@[simp] theorem resetCores_mem (c : Nat) : (d.resetCores c).mem = d.mem := rfl
@[simp] theorem die_resetEngines (c i : Nat) : (d.resetEngines c).die i = d.die i := rfl
@[simp] theorem resetEngines_mem (c : Nat) : (d.resetEngines c).mem = d.mem := rfl

/-! ### Zeroing of a die (R253) -/

/-- Address a lies in the SRAM of one of die c's cores, or in the die's HBM. -/
def inDie (c a : Nat) : Bool :=
  ((dieCores c).any fun k => decide (caseBase k ≤ a ∧ a < caseBase k + caseBytes)) ||
    decide (2 * c * stackBytes ≤ a ∧ a < (2 * c + 2) * stackBytes)

/-- Core k stands in the list of its die's cores (R13). -/
theorem mem_dieCores {k : Nat} (h : k < numCores) : k ∈ dieCores (coreDie k) := by
  have hk : k < 1152 := h
  refine List.mem_map.2 ⟨coreLocal k, List.mem_range.2 ?_, ?_⟩ <;> simp only [coreLocal, coreAt, coreDie] <;> omega

/-- A byte of a core's case is a byte of its die. -/
theorem inDie_of_case {k a : Nat} (h : k < numCores) (hlo : caseBase k ≤ a) (hhi : a < caseBase k + caseBytes) :
    inDie (coreDie k) a = true :=
  Bool.or_inl (List.any_eq_true.2 ⟨k, mem_dieCores h, decide_eq_true ⟨hlo, hhi⟩⟩)

theorem inDie_of_hbm {c a : Nat} (hlo : 2 * c * stackBytes ≤ a) (hhi : a < (2 * c + 2) * stackBytes) : inDie c a = true :=
  Bool.or_inr (decide_eq_true ⟨hlo, hhi⟩)

/-- Marking pages DIRTY changes the state of copy-on-write alone. -/
theorem dirtyAll_eq (mask : Nat) : ∃ cows, d.dirtyAll mask = { d with cows } := by
  refine List.foldlRecOn (motive := fun e : Dev => ∃ cows, e = { d with cows }) _ _ ⟨_, rfl⟩ ?_
  rintro _ ⟨cows, rfl⟩ c _
  exact ⟨_, rfl⟩

theorem zeroDie_eq (c : Nat) : ∃ mem ecc cows, d.zeroDie c = { d with mem, ecc, cows } := by
  unfold Dev.zeroDie
  dsimp only
  obtain ⟨cows, h⟩ := dirtyAll_eq (2 ^ c)
  exact ⟨_, _, cows, h⟩

theorem zeroDie_mem (c : Nat) : (d.zeroDie c).mem =
    (dieCores c).foldl (fun m k => m.erase (caseBase k) caseBytes) (d.mem.erase (2 * c * stackBytes) (2 * stackBytes)) := by
  unfold Dev.zeroDie
  dsimp only
  obtain ⟨cows, h⟩ := dirtyAll_eq (2 ^ c)
  rw [h]

@[simp] theorem die_zeroDie (c i : Nat) : (d.zeroDie c).die i = d.die i := by
  obtain ⟨_, _, _, h⟩ := zeroDie_eq (d := d) c; rw [h]; rfl
@[simp] theorem zeroDie_cores (c : Nat) : (d.zeroDie c).cores = d.cores := by obtain ⟨_, _, _, h⟩ := zeroDie_eq (d := d) c; rw [h]
@[simp] theorem core_zeroDie (c k : Nat) : (d.zeroDie c).core k = d.core k := by rw [Dev.core, zeroDie_cores]; rfl

/-- A zeroed die's memory reads zero, and all other memory as before. -/
theorem readByte_zeroDie (c a : Nat) : (d.zeroDie c).mem.readByte a = if inDie c a then Memory.blank else d.mem.readByte a := by
  have erased (m : Memory) : ((dieCores c).foldl (fun m k => m.erase (caseBase k) caseBytes) m).readByte a =
      if (dieCores c).any fun k => decide (caseBase k ≤ a ∧ a < caseBase k + caseBytes) then Memory.blank else m.readByte a :=
    foldl_view (I := fun _ => True) (fun m : Memory => m.readByte a) (fun _ => Memory.blank) _ (fun _ _ _ => trivial)
      (fun e k _ => by simp only [readByte_erase, decide_eq_true_eq]) (fun _ => rfl) _ trivial
  have hs : (2 * c + 2) * stackBytes = 2 * c * stackBytes + 2 * stackBytes := Nat.add_mul _ _ _
  simp only [zeroDie_mem, erased, readByte_erase, inDie, hs, Bool.or_eq_true, decide_eq_true_eq, ite_or]

/-! ### CLAIM (R25, R395) -/

theorem claimWrite_refused (u : Writer) (hgo : bit w.toNat 4 = true) (hx : (d.part p).claim ≠ 1)
    (hr : d.claimRefused p (w.toNat % 16) = true) : d.claimWrite p u w = d.partError 0x0C10 u := by
  simp [Dev.claimWrite, hgo, hx, hr]

/-- A die taken for partition p: not yet out of reset, with its event on the die's page. -/
def Dev.takeDie (p : Nat) (d : Dev) (c : Nat) : Dev :=
  (d.modDie c fun x => { x with part := some p, live := false }).raise (pgDie c) 0

/-- The partition and its dies once a claim of these dies is accepted. -/
def Dev.takeDies (d : Dev) (p mask : Nat) : Dev :=
  (setBits 4 mask).foldl (Dev.takeDie p) (d.modPart p fun x => { x with claim := 1, mask })

theorem claimWrite_accepted (u : Writer) (hgo : bit w.toNat 4 = true) (hx : (d.part p).claim ≠ 1)
    (hr : d.claimRefused p (w.toNat % 16) = false) : ∃ off v, d.claimWrite p u w = (d.takeDies p (w.toNat % 16)).setReg pgGov off v := by
  refine ⟨0x200 + 0x40 * p + 4, 515 * (setBits 4 (w.toNat % 16)).length, ?_⟩
  simp only [Dev.claimWrite, hgo, hx, hr]; rfl

theorem die_takeDie (c i : Nat) :
    (d.takeDie p c).die i = if c == i then { d.die i with part := some p, live := false } else d.die i := by
  rw [Dev.takeDie, Dev.die_raise, die_modDie]

theorem die_takeDies (mask c : Nat) : (d.takeDies p mask).die c =
    if c < 4 ∧ bit mask c = true then { d.die c with part := some p, live := false } else d.die c := by
  rw [Dev.takeDies, die_foldl (fun x => { x with part := some p, live := false }) (fun _ _ _ => die_takeDie _ _) (fun _ => rfl)]
  simp only [any_beq_setBits, Dev.die_modPart]

theorem part_takeDies (mask : Nat) : (d.takeDies p mask).part p = { d.part p with claim := 1, mask } := by
  rw [Dev.takeDies, foldl_unseen (Dev.part · p) (fun _ _ => by rw [Dev.takeDie, Dev.part_raise, Dev.part_modDie]),
    Dev.part_modPart_self]

theorem takeDies_cores (mask : Nat) : (d.takeDies p mask).cores = d.cores :=
  foldl_unseen Dev.cores (fun _ _ => by rw [Dev.takeDie, Dev.raise_cores, Dev.modDie_cores]) _ _

theorem takeDies_mem (mask : Nat) : (d.takeDies p mask).mem = d.mem :=
  foldl_unseen Dev.mem (fun _ _ => by rw [Dev.takeDie, Dev.raise_mem, Dev.modDie_mem]) _ _

/-! ### ZEROING_DONE (R253) -/

/-- A die whose memory is zeroed and whose cores leave reset. -/
def Dev.renewDie (d : Dev) (c : Nat) : Dev :=
  ((d.resetCores c).zeroDie c).modDie c fun x => { x with live := true, commitStep := 0 }

/-- The dies of partition p renewed. -/
def Dev.renewDies (d : Dev) (p : Nat) : Dev := (d.diesOf p).foldl Dev.renewDie d

theorem zeroingDone_eq (h : (d.part p).claim = 1) : d.zeroingDone p =
    ((d.renewDies p).modPart p fun x => { x with claim := 2, orders := [], globalRecast := false }).raise pgPart (4 * p) :=
  if_neg (not_not_intro h)

theorem die_renewDie (c i : Nat) :
    (d.renewDie c).die i = if c == i then { d.die i with live := true, commitStep := 0 } else d.die i := by
  rw [Dev.renewDie, die_modDie, die_zeroDie, die_resetCores]

theorem die_renewDies (c : Nat) : (d.renewDies p).die c =
    if d.owns p c then { d.die c with live := true, commitStep := 0 } else d.die c := by
  rw [Dev.renewDies, die_foldl (fun x => { x with live := true, commitStep := 0 }) (fun _ _ _ => die_renewDie _ _) (fun _ => rfl),
    any_beq_diesOf]

theorem nodup_renewDie (h : (d.cores.map (·.1)).Nodup) (c : Nat) : ((d.renewDie c).cores.map (·.1)).Nodup := by
  rw [Dev.renewDie, Dev.modDie_cores, zeroDie_cores]; exact nodup_resetCores h c

theorem core_renewDies (h : (d.cores.map (·.1)).Nodup) {k : Nat} (hk : k < numCores) (ho : d.owns p (coreDie k) = true) :
    (d.renewDies p).core k = (d.core k).atReset := by
  have steps (e : Dev) (c : Nat) (he : (e.cores.map (·.1)).Nodup) :
      (e.renewDie c).core k = if coreOfDie c k then (e.core k).atReset else e.core k := by
    rw [Dev.renewDie, Dev.core_modDie, core_zeroDie, core_resetCores he]
  have hit : (d.diesOf p).any (coreOfDie · k) = true :=
    List.any_eq_true.2 ⟨coreDie k, mem_diesOf.2 ho, by simp [coreOfDie, hk]⟩
  rw [Dev.renewDies, foldl_view (Dev.core · k) CoreSt.atReset (coreOfDie · k) (fun _ c he => nodup_renewDie he c) steps
    (fun _ => rfl) _ h, if_pos hit]

/-- The memory of the dies renewed reads zero. -/
theorem readByte_renewDies {c a : Nat} (ho : d.owns p c = true) (ha : inDie c a = true) :
    (d.renewDies p).mem.readByte a = Memory.blank := by
  have hit : (d.diesOf p).any (inDie · a) = true := List.any_eq_true.2 ⟨c, mem_diesOf.2 ho, ha⟩
  rw [Dev.renewDies, foldl_view (I := fun _ => True) (fun e : Dev => e.mem.readByte a) (fun _ => Memory.blank) (inDie · a)
    (fun _ _ _ => trivial) (fun e c _ => by rw [Dev.renewDie, Dev.modDie_mem, readByte_zeroDie]; rfl) (fun _ => rfl) _ trivial, if_pos hit]

/-! ### RELEASE (R395) -/

theorem releaseWrite_refused (u : Writer) (hgo : bit w.toNat 0 = true) (hx : (d.part p).claim ≠ 0)
    (h : (d.part p).claim = 1 ∨ (d.part p).run = true ∨ ¬((d.proof p).phase = .idle ∨ (d.proof p).phase = .ordered)) :
    d.releaseWrite p u w = d.partError 0x0C11 u := by
  rw [Dev.releaseWrite, if_neg (by simp [hgo, hx]), if_pos (by simpa using h)]

/-- A die freed: its cores and engines go back to reset, and its event is on the die's page. -/
def Dev.freeDie (d : Dev) (c : Nat) : Dev :=
  (((d.resetCores c).resetEngines c).modDie c fun x =>
    { x with part := none, live := false, point := 0, target := 0, ramp := false }).raise (pgDie c) 1

/-- The dies of partition p freed. -/
def Dev.freeDies (d : Dev) (p : Nat) : Dev := (d.diesOf p).foldl Dev.freeDie d

theorem releaseWrite_accepted (u : Writer) (hgo : bit w.toNat 0 = true) (hx : (d.part p).claim ≠ 0) (h1 : (d.part p).claim ≠ 1)
    (hr : (d.part p).run = false) (hq : (d.proof p).phase = .idle ∨ (d.proof p).phase = .ordered) :
    d.releaseWrite p u w = (((d.freeDies p).modProof p fun x => { x with phase := .idle }).modPart p fun x =>
      { x with claim := 0, mask := 0, maint := false, orders := [], globalRecast := false }).raise pgPart (4 * p + 1) := by
  rw [Dev.releaseWrite, if_neg (by simp [hgo, hx]), if_neg (by simpa [h1, hr] using or_iff_not_imp_left.1 hq)]
  rfl

theorem die_freeDie (c i : Nat) : (d.freeDie c).die i =
    if c == i then { d.die i with part := none, live := false, point := 0, target := 0, ramp := false } else d.die i := by
  rw [Dev.freeDie, Dev.die_raise, die_modDie, die_resetEngines, die_resetCores]

theorem die_freeDies (c : Nat) : (d.freeDies p).die c =
    if d.owns p c then { d.die c with part := none, live := false, point := 0, target := 0, ramp := false } else d.die c := by
  rw [Dev.freeDies, die_foldl (fun x => { x with part := none, live := false, point := 0, target := 0, ramp := false })
    (fun _ _ _ => die_freeDie _ _) (fun _ => rfl), any_beq_diesOf]

theorem freeDies_mem : (d.freeDies p).mem = d.mem :=
  foldl_unseen Dev.mem (fun _ _ => by rw [Dev.freeDie, Dev.raise_mem, Dev.modDie_mem, resetEngines_mem, resetCores_mem]) _ _

/-! ### MAINT (R439) -/

theorem maintWrite_refused (u : Writer)
    (h : (d.part p).run = true ∨ ¬((d.proof p).phase = .idle ∨ (d.proof p).phase = .ordered)) :
    d.maintWrite p u w = d.partError 0x0C0F u := if_pos (by simpa using h)

theorem maintWrite_accepted (u : Writer) (hr : (d.part p).run = false)
    (hq : (d.proof p).phase = .idle ∨ (d.proof p).phase = .ordered) :
    d.maintWrite p u w = d.modPart p fun x => { x with maint := bit w.toNat 0 } := if_neg (by simpa [hr] using or_iff_not_imp_left.1 hq)

/-! ### The statement -/

/-- A write of the PART page that ends as an error record is refused with its code, and changes nothing else. -/
theorem refused_of_partError {c : Instr} {code : Nat} (h : exec c s = .next (s.written (s.dev.partError code {}))) :
    ∃ e, exec c s = .next (s.written e) ∧ (e.hdr pgPart).errCode = code ∧ s.dev.Kept e [.hdr pgPart, .hdr pgDbg, .log] :=
  ⟨_, h, errCode_partError _ _, kept_partError _ _⟩

/-- An accepted claim takes the dies of its mask, and leaves cores and memory alone. -/
theorem claim_takes (h : s.Up) (hp : p < 4) (hgo : bit w.toNat 4 = true) (hm : s.chip.pow.mode = .ready ∨ s.chip.pow.mode = .run)
    (hx : (s.dev.part p).claim ≠ 1) (hr : s.dev.claimRefused p (w.toNat % 16) = false) :
    ∃ e, exec (.partitionClaim p w) s = .next (s.written e) ∧ (e.part p).claim = 1 ∧ (e.part p).mask = w.toNat % 16 ∧
      (∀ c, (e.die c).part = if c < 4 ∧ bit (w.toNat % 16) c = true then some p else (s.dev.die c).part) ∧
      (∀ k, e.core k = s.dev.core k) ∧ e.mem = s.dev.mem := by
  obtain ⟨off, v, hw⟩ := claimWrite_accepted {} hgo hx hr
  refine ⟨_, (exec_partitionClaim h hp hgo hm).trans (by rw [hw]), ?_, ?_, fun c => ?_, fun k => ?_, ?_⟩
  · rw [Dev.part_setReg, part_takeDies]
  · rw [Dev.part_setReg, part_takeDies]
  · rw [Dev.die_setReg, die_takeDies]; split <;> rfl
  · rw [Dev.core_setReg, Dev.core, takeDies_cores]; rfl
  · rw [Dev.setReg_mem, takeDies_mem]

/-- The end of zeroing leaves a partition CLAIMED, its dies' memory zero and their cores new but for their statistics data. -/
theorem zeroing_claims (h : s.Up) (hp : p < 4) (hx : (s.dev.part p).claim = 1) (hn : (s.dev.cores.map (·.1)).Nodup) :
    ∃ e, exec (.zeroingDone p) s = .next (s.withDev e) ∧ (e.part p).claim = 2 ∧
      (∀ c, s.dev.owns p c = true → (e.die c).live = true ∧
        ∀ a, 2 * c * stackBytes ≤ a → a < (2 * c + 2) * stackBytes → e.mem.readByte a = Memory.blank) ∧
      (∀ k a, k < numCores → s.dev.owns p (coreDie k) = true → e.core k = (s.dev.core k).atReset ∧
        (caseBase k ≤ a → a < caseBase k + caseBytes → e.mem.readByte a = Memory.blank)) ∧
      (∀ c, s.dev.owns p c = false → e.die c = s.dev.die c) ∧ bit (e.hdr pgPart).raw.toNat (4 * p) = true := by
  have hexec : exec (.zeroingDone p) s = .next (s.withDev (s.dev.zeroingDone p)) := runIf_live h (decide_eq_true hp) _
  refine ⟨_, hexec.trans (by rw [zeroingDone_eq hx]), ?_, fun c hc => ⟨?_, fun a hlo hhi => ?_⟩,
    fun k a hk hc => ⟨?_, fun hlo hhi => ?_⟩, fun c hc => ?_, ?_⟩
  · rw [Dev.part_raise, Dev.part_modPart_self]
  · rw [Dev.die_raise, Dev.die_modPart, die_renewDies, if_pos hc]
  · rw [Dev.raise_mem, Dev.modPart_mem, readByte_renewDies hc (inDie_of_hbm hlo hhi)]
  · rw [Dev.core_raise, Dev.core_modPart, core_renewDies hn hk hc]
  · rw [Dev.raise_mem, Dev.modPart_mem, readByte_renewDies hc (inDie_of_case hk hlo hhi)]
  · rw [Dev.die_raise, Dev.die_modPart, die_renewDies, if_neg (by simp [hc])]
  · rw [hdr_raise_self]; exact bit_raised_raw _ (by omega)

/-- An accepted release frees the partition's dies, and leaves the others and memory alone. -/
theorem release_frees (h : s.Up) (hp : p < 4) (hgo : bit w.toNat 0 = true) (hx : (s.dev.part p).claim ≠ 0)
    (h1 : (s.dev.part p).claim ≠ 1) (hr : (s.dev.part p).run = false)
    (hq : (s.dev.proof p).phase = .idle ∨ (s.dev.proof p).phase = .ordered) :
    ∃ e, exec (.partitionRelease p w) s = .next (s.written e) ∧ (e.part p).claim = 0 ∧ (e.part p).mask = 0 ∧
      (∀ c, s.dev.owns p c = true → (e.die c).part = none ∧ (e.die c).live = false) ∧
      (∀ c, s.dev.owns p c = false → e.die c = s.dev.die c) ∧ e.mem = s.dev.mem ∧
      bit (e.hdr pgPart).raw.toNat (4 * p + 1) = true := by
  refine ⟨_, (exec_partitionRelease h hp hgo).trans (by rw [releaseWrite_accepted {} hgo hx h1 hr hq]), ?_, ?_, fun c hc => ?_,
    fun c hc => ?_, ?_, ?_⟩
  · rw [Dev.part_raise, Dev.part_modPart_self]
  · rw [Dev.part_raise, Dev.part_modPart_self]
  · rw [Dev.die_raise, Dev.die_modPart, Dev.die_modProof, die_freeDies, if_pos hc]; exact ⟨rfl, rfl⟩
  · rw [Dev.die_raise, Dev.die_modPart, Dev.die_modProof, die_freeDies, if_neg (by simp [hc])]
  · rw [Dev.raise_mem, Dev.modPart_mem, Dev.modProof_mem, freeDies_mem]
  · rw [hdr_raise_self]; exact bit_raised_raw _ (by omega)

/-- MAINT follows what is written to a partition that does not run, and nothing else changes. -/
theorem maint_follows (h : s.Up) (hp : p < 4) (hr : (s.dev.part p).run = false)
    (hq : (s.dev.proof p).phase = .idle ∨ (s.dev.proof p).phase = .ordered) :
    ∃ e, exec (.maintWrite p w) s = .next (s.written e) ∧
      e.part p = { s.dev.part p with maint := bit w.toNat 0, orders := (e.part p).orders } ∧ s.dev.Kept e [.part p] := by
  refine ⟨_, (exec_maintWrite h hp).trans (by rw [maintWrite_accepted {} hr hq]), ?_, kept_modPart _ _⟩
  rw [Dev.part_modPart_self]

/-- Settles O26: each command of a partition's life writes one register of PART or ends the zeroing; a refusal is an error record
of that page, and what is accepted is a fold over the partition's dies that changes each of them alone. -/
theorem partitionLife : Obligations.PartitionLife := by
  intro s p w h hp
  refine ⟨fun hgo hx hm => ⟨fun hr => ?_, claim_takes h hp hgo hm hx⟩, zeroing_claims h hp,
    fun hgo hx => ⟨fun hr => ?_, release_frees h hp hgo hx⟩, maint_follows h hp, fun hr => ?_⟩
  · exact refused_of_partError (by rw [exec_partitionClaim h hp hgo hm, claimWrite_refused {} hgo hx hr])
  · exact refused_of_partError (by rw [exec_partitionRelease h hp hgo, releaseWrite_refused {} hgo hx hr])
  · exact refused_of_partError (by rw [exec_maintWrite h hp, maintWrite_refused {} hr])

end Sys2Proof.Machine
end

section
/-!
PROOF. Shared by the statements of Chapter 2: the gate of the hub, writes of a hub page, and errors.
-/
namespace Sys2Proof.Machine

variable {s : State} {d : Dev} {w : Word}

/-! ### The gate of the hub -/

@[simp] theorem live_pow (c : Chip) (f : Dev → Dev) : (c.live f).pow = c.pow := by unfold Chip.live; split <;> rfl
@[simp] theorem live_sec (c : Chip) (f : Dev → Dev) : (c.live f).sec = c.sec := by unfold Chip.live; split <;> rfl

theorem live_dev (c : Chip) (f : Dev → Dev) : (c.live f).dev = if c.pow.up then f c.dev else c.dev := by
  unfold Chip.live; split <;> rfl

theorem live_down {c : Chip} (h : ¬c.pow.up = true) (f : Dev → Dev) : c.live f = c := if_neg h

/-! ### Writes of a hub page -/

/-- A write of a block-specific register of a page that answers and is not one of the four with a meaning of its own. -/
theorem run_busWrite_page (h : s.Up) {page off : Nat} (hl : s.dev.pageLive page = true) (hp : page ∉ [pgDbg, pgPwr, pgSec, pgPart])
    (ha : off % 4 = 0) (hlo : 0x100 ≤ off) (hhi : off < 0x1000) :
    (s.run fun c => c.busWrite page off w) = .next (s.written (s.dev.writePage {} page off w)) := by
  simp only [List.mem_cons, List.not_mem_nil, or_false, not_or] at hp
  obtain ⟨h1, h2, h3, h4⟩ := hp
  have hg : ¬(!s.chip.dev.pageLive page ∨ off % 4 ≠ 0 ∨ 0x1000 ≤ off) := by simp [hl, ha, hhi]
  rw [run_busWrite h, Chip.writeReg, if_neg hg, if_neg h1, if_neg (by omega), Chip.writeBlock, if_neg h2, if_neg h3,
    if_neg fun hc => h4 hc.1]
  rfl

/-- The page whose error is set shows its code (R448). -/
theorem errCode_setError {pg : Nat} (code i0 i1 : Nat) (h : pg ≠ pgDbg) : ((d.setError pg code i0 i1).hdr pg).errCode = code := by
  unfold Dev.setError
  dsimp only
  rw [hdr_raise_ne h]
  change ((Dev.raiseIf _ _ pg 0).hdr pg).errCode = code
  rw [hdr_raiseIf_self]
  split <;> simp [Hdr.raised]

end Sys2Proof.Machine
end

section
/-!
PROOF. One step, and the time base (R41, R42): an idle step counts one cycle of TIME and of the meters, and TIME_LOAD sets it.
-/
namespace Sys2Proof.Machine

variable {s : State} {d : Dev} {w : Word}

/-- Settles O56: a step is `exec` on the front of the queue, and with none waiting a change of the device that the hub's gate lets
pass. -/
theorem stepTakesFront : Obligations.StepTakesFront := by
  intro s c cs
  exact ⟨fun h => by rw [step, h], fun h => ⟨s.idle, by rw [step, h], h, live_pow _ _, live_sec _ _, live_dev _ _⟩⟩

theorem kept_time (t n : Nat) : d.Kept { d with time := t, timeFrac := n } [.time] := by
  intro x hx; cases x
  case time => exact absurd (List.mem_cons_self) hx
  all_goals first | exact rfl | exact ⟨rfl, rfl⟩ | exact ⟨rfl, rfl, rfl⟩ | exact fun _ _ => rfl

theorem kept_meters (m : Table Nat) (n : Nat) : d.Kept { d with meters := m, freeCount := n } [.meters, .free] := by
  intro x hx; cases x
  case meters => exact absurd (List.mem_cons_self) hx
  case free => exact absurd (by simp) hx
  all_goals first | exact rfl | exact ⟨rfl, rfl⟩ | exact ⟨rfl, rfl, rfl⟩ | exact fun _ _ => rfl

/-- What one cycle of the meters may touch. -/
def meterPlaces : List Place :=
  [.meters, .free] ++ (List.range 36).map .link ++ meterCorr.map fun x => .hdr x.1

theorem kept_meterCycle : d.Kept d.meterCycle meterPlaces := by
  unfold Dev.meterCycle
  refine (((kept_meters _ _).trans (kept_foldl (xs := (List.range 36).map .link) _ _ (fun e n hn => ?_) _)).trans
    (kept_foldl (xs := meterCorr.map fun x => .hdr x.1) _ _ (fun e x hx => ?_) _))
  · exact (kept_modLink n _).mono (by simpa using List.mem_range.1 (List.mem_filter.1 hn).1)
  · exact (kept_raiseIf _ x.1 1).mono (by simpa using ⟨x.2, hx⟩)

/-- A cycle of the meters changes nothing of a link but the mark of a codeword beyond correction (R290). -/
theorem link_meterCycle (n : Nat) : d.meterCycle.link n = { d.link n with hit := (d.meterCycle.link n).hit } := by
  unfold Dev.meterCycle
  dsimp only
  rw [foldl_unseen (Dev.link · n) (fun _ _ => Dev.link_raiseIf _ _ _ _ _)]
  refine List.foldlRecOn (motive := fun e : Dev => e.link n = { d.link n with hit := (e.link n).hit }) _ _ rfl fun e he m _ => ?_
  by_cases h : n = m
  · subst h; rw [Dev.link_modLink_self]; exact congrArg (fun y : LinkSt => { y with hit := true }) he
  · rw [Dev.link_modLink_ne _ _ _ h]; exact he

theorem step_idle_up (hq : s.pending = []) (h : s.Up) : step s = .next (s.withDev s.dev.timeCycle.meterCycle) := by
  rw [step, hq]; exact congrArg (fun c => Host.Outcome.next { s with chip := c }) (live_up h _)

theorem step_idle_down (hq : s.pending = []) (h : ¬s.Up) : step s = .next s := by
  rw [step, hq]; exact congrArg (fun c => Host.Outcome.next { s with chip := c }) (live_down h _)

theorem exec_timeLoad (h : s.Up) : exec (.timeLoad w) s = .next (s.written (s.dev.timeLoad w)) :=
  run_busWrite_page h rfl (by decide) rfl (by decide) (by decide)

theorem timeLoad_accepted (hgo : bit w.toNat 0 = true) (h : ∀ x ∈ d.parts, x.2.run = false) :
    d.timeLoad w = { d with time := d.reg64 pgTime 0x108, timeFrac := 0 } := by
  have hr : ¬(d.parts.any fun x => x.2.run) = true := by simpa using h
  rw [Dev.timeLoad, if_neg (by simp [hgo]), if_neg hr]

theorem timeLoad_refused (hgo : bit w.toNat 0 = true) (h : ∃ x ∈ d.parts, x.2.run = true) :
    d.timeLoad w = d.setError pgTime 0x0D87 0 0 := by
  rw [Dev.timeLoad, if_neg (by simp [hgo]), if_pos (List.any_eq_true.2 h)]

/-- An idle step counts one cycle, and beside TIME only what the meters touch changes. -/
theorem kept_idle_cycle : d.Kept d.timeCycle.meterCycle (.time :: meterPlaces) := (kept_time _ _).trans kept_meterCycle

/-- Settles O21: an idle step is one cycle of TIME and one of the meters, each of which touches places of its own; TIME_LOAD is a
write of the TIME page that either sets the time or records an error. -/
theorem timeBase : Obligations.TimeBase := by
  intro s w
  refine ⟨fun hq h => ⟨_, step_idle_up hq h, ?_⟩, step_idle_down, fun h hgo hr => ?_, fun h hgo hr => ?_⟩
  · obtain ⟨ht, hf, hv⟩ := kept_meterCycle (d := s.dev.timeCycle) .time (by simp [meterPlaces])
    refine ⟨ht, hf, hv, fun n => link_meterCycle n, fun g hg => ?_, kept_idle_cycle.outside ?_⟩
    · exact kept_idle_cycle (.hdr g) (by simpa [meterPlaces] using hg)
    · intro x hx
      simp only [meterPlaces, List.mem_cons, List.mem_append, List.mem_map, List.not_mem_nil, or_false] at hx
      obtain rfl | ((rfl | rfl) | ⟨_, _, rfl⟩) | ⟨_, _, rfl⟩ := hx <;> rfl
  · refine ⟨_, exec_timeLoad h, ?_⟩
    rw [timeLoad_accepted hgo hr]
    exact ⟨rfl, rfl, kept_time _ _, rfl⟩
  · refine ⟨_, exec_timeLoad h, ?_⟩
    rw [timeLoad_refused hgo hr]
    exact ⟨errCode_setError _ _ _ (by decide), kept_setError _ _ _ _⟩

end Sys2Proof.Machine
end

section
/-!
PROOF. The state right after reset (R423, R480).
-/
namespace Sys2Proof.Machine

/-- The security processor's chain and log agree from the start (R431). -/
theorem sound_reset : State.reset.sec.Sound := ⟨rfl, Nat.zero_le _, Nat.zero_le _⟩

/-- A register that nothing has written reads its reset value (R480). -/
theorem reg_reset (page off : Nat) : State.reset.dev.reg page off = resetWord page off % 2 ^ 32 := BitVec.toNat_ofNat _ _

/-- Settles O60: the tables of the reset state list nothing, so that every place reads its default. -/
theorem resetState : Obligations.ResetState :=
  ⟨rfl, fun _ => ⟨rfl, rfl, rfl, rfl⟩, fun _ => ⟨rfl, rfl⟩, fun _ => rfl, fun _ => rfl, fun _ => rfl, rfl, fun _ => rfl, reg_reset,
    rfl, rfl, rfl, fun _ => rfl, fun _ => rfl, rfl, rfl, rfl, sound_reset, rfl, rfl, rfl, rfl, rfl, rfl, rfl⟩

end Sys2Proof.Machine
end

section
/-!
PROOF. Impressions start and stop (R28, R29, R39): what a write of CTRL does.
-/
namespace Sys2Proof.Machine

variable {s : State} {d e : Dev} {p : Nat} {w : Word}

/-! ### Held flits (R343) -/

/-- What a link holds undelivered, and whether it holds. -/
def Dev.heldBy (d : Dev) (n : Nat) : List LnFlit × Bool := ((d.link n).held, (d.link n).holding)

theorem heldBy_of_noLinkHolds (h : d.NoLinkHolds) : d.heldBy = fun _ => ([], false) :=
  funext fun n => Prod.ext (h n).1 (h n).2

theorem noLinkHolds_congr (h : d.NoLinkHolds) (he : e.heldBy = d.heldBy) : e.NoLinkHolds := fun n => by
  have hn : e.heldBy n = ([], false) := by rw [he, heldBy_of_noLinkHolds h]
  exact ⟨congrArg Prod.fst hn, congrArg Prod.snd hn⟩

/-- Links that hold nothing have nothing to deliver. -/
theorem releaseLinks_idle (h : d.NoLinkHolds) : d.releaseLinks p = d := by
  have idle (l : Nat) : ((d.ln l).held.isEmpty && !(d.ln l).holding) = true := by
    obtain ⟨hh, hg⟩ := h (d.lnHome l)
    simp [Dev.ln, hh, hg]
  exact List.foldl_fixed' (f := fun (e : Dev) l => if (e.ln l).held.isEmpty && !(e.ln l).holding then e else e.releaseLink l)
    (fun l => if_pos (idle l)) _

/-! ### CTRL -/

theorem writeImpr_ctrl (hp : p < 4) : d.writeImpr (0x100 + 0x80 * p) w = (d.ctrlWrite p w).releaseLinks p := by
  have hq : (0x100 + 0x80 * p - 0x100) / 0x80 = p := by omega
  have ho : (0x100 + 0x80 * p) % 0x80 = 0 := by omega
  simp only [Dev.writeImpr, hq, ho]; exact if_neg (by omega)

theorem heldBy_ctrlWrite : (d.ctrlWrite p w).heldBy = d.heldBy := by
  unfold Dev.ctrlWrite
  dsimp only
  split
  · rfl
  · split
    · split
      · exact funext fun n => by rw [Dev.heldBy, Dev.link_imprError]; rfl
      · rfl
    · split <;> rfl

/-- A write of CTRL while no link holds flits. -/
theorem run_ctrlWrite (h : s.Up) (hp : p < 4) (hn : s.dev.NoLinkHolds) :
    (s.run fun c => c.busWrite pgImpr (0x100 + 0x80 * p) w) = .next (s.written (s.dev.ctrlWrite p w)) := by
  have hw : s.dev.writePage {} pgImpr (0x100 + 0x80 * p) w = s.dev.ctrlWrite p w :=
    (writeImpr_ctrl hp).trans (releaseLinks_idle (noLinkHolds_congr hn heldBy_ctrlWrite))
  rw [run_busWrite_page h rfl (by decide) (by omega) (by omega) (by omega), hw]

theorem exec_imprRunStart (h : s.Up) (hp : p < 4) (hn : s.dev.NoLinkHolds) (hgo : bit w.toNat 0 = true) :
    exec (.imprRunStart p w) s = .next (s.written (s.dev.ctrlWrite p w)) := by
  calc exec (.imprRunStart p w) s
    _ = s.runIf (bit w.toNat 0) fun c => c.busWrite pgImpr (0x100 + 0x80 * p) w := rfl
    _ = s.run fun c => c.busWrite pgImpr (0x100 + 0x80 * p) w := by rw [hgo]; rfl
    _ = _ := run_ctrlWrite h hp hn

theorem exec_stopPress (h : s.Up) (hp : p < 4) (hn : s.dev.NoLinkHolds) (hgo : bit w.toNat 0 = false) :
    exec (.stopPress p w) s = .next (s.written (s.dev.ctrlWrite p w)) := by
  calc exec (.stopPress p w) s
    _ = s.runIf (!bit w.toNat 0) fun c => c.busWrite pgImpr (0x100 + 0x80 * p) w := rfl
    _ = s.run fun c => c.busWrite pgImpr (0x100 + 0x80 * p) w := by rw [hgo]; rfl
    _ = _ := run_ctrlWrite h hp hn

/-- GROUP and STRICT stored. -/
def Dev.putCtrl (d : Dev) (p : Nat) (w : Word) : Dev := d.setReg pgImpr (0x100 + 0x80 * p) (w.toNat &&& 6)

/-- A partition that a start was accepted for (R29). -/
def PartSt.started (x : PartSt) : PartSt :=
  { x with run := true, starting := true, state := .running, ann := none, rx := [], halting := none, stopAnn := false
           released := false, begun := false }

theorem ctrlWrite_running (hgo : bit w.toNat 0 = true) (hr : (d.part p).run = true) : d.ctrlWrite p w = d.putCtrl p w :=
  if_pos ⟨hgo, hr⟩

theorem ctrlWrite_start (hgo : bit w.toNat 0 = true) (hr : (d.part p).run = false) (hc : d.startCheck p = none) :
    d.ctrlWrite p w = (d.putCtrl p w).modPart p PartSt.started := by
  rw [Dev.ctrlWrite, if_neg (by simp [hr]), if_pos hgo, hc]; rfl

theorem ctrlWrite_refused {code : Nat} (hgo : bit w.toNat 0 = true) (hr : (d.part p).run = false)
    (hc : d.startCheck p = some code) : d.ctrlWrite p w = d.imprError p code := by
  rw [Dev.ctrlWrite, if_neg (by simp [hr]), if_pos hgo, hc]

theorem ctrlWrite_stop_waiting (hgo : bit w.toNat 0 = false) (hx : (d.part p).starting = true) :
    d.ctrlWrite p w = (d.putCtrl p w).modPart p fun x => { x with run := false, starting := false, state := .stopped } := by
  rw [Dev.ctrlWrite, if_neg (by simp [hgo]), if_neg (by simp [hgo]), if_pos hx]; rfl

theorem ctrlWrite_stop (hgo : bit w.toNat 0 = false) (hx : (d.part p).starting = false) :
    d.ctrlWrite p w = (d.putCtrl p w).modPart p fun x => { x with run := false } := by
  rw [Dev.ctrlWrite, if_neg (by simp [hgo]), if_neg (by simp [hgo]), if_neg (by simp [hx])]; rfl

theorem reg_putCtrl : (d.putCtrl p w).reg pgImpr (0x100 + 0x80 * p) = w.toNat &&& 6 := by
  rw [Dev.putCtrl, Dev.reg_setReg_self, Nat.mod_eq_of_lt (Nat.lt_of_le_of_lt Nat.and_le_left w.isLt)]

theorem kept_putCtrl (hp : p < 4) : d.Kept (d.putCtrl p w) [.part p, .reg pgImpr (0x100 + 0x80 * p)] :=
  (kept_setReg _ _ _ (by omega)).mono (by simp)

/-- A write that is not refused stores GROUP and STRICT, and changes the partition as `f` says. -/
theorem ctrl_stored {c : Instr} (f : PartSt → PartSt) (hp : p < 4)
    (h : exec c s = .next (s.written ((s.dev.putCtrl p w).modPart p f))) :
    ∃ e, exec c s = .next (s.written e) ∧ e.part p = { f (s.dev.part p) with orders := (e.part p).orders } ∧
      e.reg pgImpr (0x100 + 0x80 * p) = w.toNat &&& 6 ∧ s.dev.Kept e [.part p, .reg pgImpr (0x100 + 0x80 * p)] := by
  refine ⟨_, h, ?_, ?_, (kept_putCtrl hp).seq ((kept_modPart _ _).mono (by simp))⟩
  · rw [Dev.part_modPart_self]; rfl
  · rw [Dev.reg_modPart, reg_putCtrl]

/-- Settles O22: a write of CTRL takes one of five ways, each of which is a word stored and a change of the partition, or an error
record; with no link holding flits nothing more comes of it. -/
theorem runStartStop : Obligations.RunStartStop := by
  intro s p w h hp hn
  refine ⟨fun hgo hr => ?_, fun hgo hr hc => ?_, fun code hgo hr hc => ?_, fun hgo hx => ?_, fun hgo hx => ?_⟩
  · refine ⟨_, exec_imprRunStart h hp hn hgo, ?_⟩
    rw [ctrlWrite_running hgo hr]
    exact ⟨rfl, reg_putCtrl, kept_putCtrl hp⟩
  · exact ctrl_stored PartSt.started hp (by rw [exec_imprRunStart h hp hn hgo, ctrlWrite_start hgo hr hc])
  · refine ⟨_, exec_imprRunStart h hp hn hgo, ?_⟩
    rw [ctrlWrite_refused hgo hr hc]
    exact ⟨errCode_setError _ _ _ (by decide), kept_setError _ _ _ _⟩
  · exact ctrl_stored _ hp (by rw [exec_stopPress h hp hn hgo, ctrlWrite_stop_waiting hgo hx])
  · exact ctrl_stored _ hp (by rw [exec_stopPress h hp hn hgo, ctrlWrite_stop hgo hx])

end Sys2Proof.Machine
end

section
/-!
PROOF. What goes on beside the time base, the partitions' numbers, the proofs and the IMPR page: sending on links, admission, and
what a step's end does in the cores.
-/
namespace Sys2Proof.Machine

variable {d e f : Dev} {p : Nat} {links : Bool}

/-- Places of the cores, the dies, the governor and the hub beside the time base, the partitions, the proofs and the IMPR page; with
`links`, those of the links too. -/
def Place.beside (links : Bool) : Place → Bool
  | .core _ | .die _ | .reg _ _ | .log | .temps | .free => true
  | .hdr g => g != pgImpr
  | .link _ | .out => links
  | _ => false

theorem keptOutside_foldl {α : Type} {area : Place → Bool} (g : Dev → α → Dev) (h : ∀ e c, Dev.KeptOutside e (g e c) area)
    (cs : List α) (d : Dev) : d.KeptOutside (cs.foldl g d) area := by
  induction cs generalizing d with
  | nil => exact .refl d
  | cons c cs ih => exact (h d c).trans (ih _)

theorem part_of_same {q : Nat} (h : Place.Same d e (.part q)) : e.part q = { d.part q with orders := (e.part q).orders } := h

theorem part_beside (h : d.KeptOutside e (Place.beside links)) (q : Nat) :
    e.part q = { d.part q with orders := (e.part q).orders } := h (.part q) rfl

theorem hdr_beside (h : d.KeptOutside e (Place.beside links)) : e.hdr pgImpr = d.hdr pgImpr := h (.hdr pgImpr) rfl

/-! ### Sending -/

theorem pgLink_ne_pgImpr (n : Nat) : pgLink n ≠ pgImpr := by simp only [pgLink, pgDie, pgImpr]; omega

theorem beside_sendRecord (l ty : Nat) (body : List Byte) : d.KeptOutside (d.sendRecord l ty body) (Place.beside true) :=
  (keptOutside_sendRecord l ty body).mono fun x hx => by
    cases x <;> simp_all [Place.sendOf, Place.beside, pgLink_ne_pgImpr]

/-- A record sent on each of some links. -/
theorem keptOutside_sendAll (ls : List Nat) (ty : Nat) (body : Dev → List Byte) (d : Dev) :
    d.KeptOutside (ls.foldl (fun e l => e.sendRecord l ty (body e)) d) (Place.beside true) :=
  keptOutside_foldl _ (fun _ l => beside_sendRecord l ty _) _ _

end Sys2Proof.Machine
end

section
/-!
PROOF. Announcements and tick records (R33–R38, R313).
-/
namespace Sys2Proof.Machine

variable {s : State} {d : Dev} {p n : Nat} {rec : List Byte}

/-- The partition once it has formed its own announcement, at the announcement point. -/
def Dev.announced (d : Dev) (p : Nat) : Dev :=
  (d.advanceTo ((d.part p).nextTick - d.guardNs p)).modPart p fun x =>
    { x with ann := some (d.ownOutcome p), nextM := d.multiplier p, stopAnn := !x.run && d.ownOutcome p == .halt }

theorem announcement_alone (hs : (d.part p).state = .running) (hw : (d.part p).starting = false) (ha : (d.part p).ann = none)
    (hh : (d.part p).halting = none) (hg : bit (d.impr p 0) 2 = false) : d.announcement p = d.announced p := by
  rw [Dev.announcement, if_neg (by simp [hs, hw, ha, hh])]
  exact if_neg (by rw [Bool.not_eq_true]; exact hg)

theorem announcement_group (hs : (d.part p).state = .running) (hw : (d.part p).starting = false) (ha : (d.part p).ann = none)
    (hh : (d.part p).halting = none) (hg : bit (d.impr p 0) 2 = true) :
    d.announcement p = (d.groupLinks p).foldl (fun e l =>
      e.sendRecord l 5 (tickBody (d.part p).num (e.origin p) (d.ownOutcome p) (d.multiplier p))) (d.announced p) := by
  rw [Dev.announcement, if_neg (by simp [hs, hw, ha, hh])]
  exact if_pos hg

theorem kept_advanceTo (t : Nat) : d.Kept (d.advanceTo t) [.time] := kept_time _ _

theorem kept_announced : d.Kept (d.announced p) [.part p, .time] :=
  ((kept_advanceTo _).mono (by simp)).seq ((kept_modPart _ _).mono (by simp))

theorem announcement_announces (hs : (d.part p).state = .running) (hw : (d.part p).starting = false) (ha : (d.part p).ann = none)
    (hh : (d.part p).halting = none) : (d.announced p).KeptOutside (d.announcement p) (Place.beside true) := by
  cases hg : bit (d.impr p 0) 2 with
  | false => rw [announcement_alone hs hw ha hh hg]; exact .refl _
  | true =>
    rw [announcement_group hs hw ha hh hg]; exact keptOutside_sendAll _ _ _ _

theorem part_announced : (d.announced p).part p = { d.part p with
    ann := some (d.ownOutcome p), nextM := d.multiplier p, stopAnn := !(d.part p).run && d.ownOutcome p == .halt } :=
  Dev.part_modPart_self _ _ _

/-- What a TICK record says, as link n's announcement. -/
def tickAnn (n : Nat) (rec : List Byte) (copy : Bool) : AnnRx :=
  let b := field rec 0x0C 1
  ⟨n, field rec 8 4 * 4 + b / 64, field rec 4 4, Outc.ofCode (bits b 2 1), bits b 5 3, copy⟩

/-- The announcement's origin is the partition itself, or one that was heard for this impression (R34). -/
def Dev.heardBefore (d : Dev) (p : Nat) (rec : List Byte) : Bool :=
  let a := tickAnn 0 rec false
  a.origin == d.origin p || (d.part p).rx.any fun b => b.num == a.num && b.origin == a.origin

/-- The device with an announcement received. -/
def Dev.annJoined (d : Dev) (p : Nat) (a : AnnRx) : Dev := d.modPart p fun x => { x with rx := x.rx ++ [a] }

/-- A record of the present impression from a link of the group joins the announcements received, and is forwarded or counted. -/
theorem tickRx_joins (hp : d.lnPart n = some p) (hg : d.groupLink p n = true)
    (hl : serialLater 32 (field rec 4 4) (d.part p).num = false) (ht : serialStale 32 (field rec 4 4) (d.part p).num = false)
    (hh : field rec 4 4 ≠ (d.part p).num ∨ (d.part p).halting = none) :
    (d.annJoined p (tickAnn n rec (d.heardBefore p rec))).KeptOutside (d.tickRx n rec) (Place.beside true) := by
  have hnow : (field rec 4 4 == (d.part p).num && (d.part p).halting.isSome) = false := by
    obtain h | h := hh <;> simp [h]
  unfold Dev.tickRx
  simp only [hp, hg, hl, ht, hnow, Bool.not_true, Bool.or_self, Bool.false_eq_true, if_false]
  split
  · exact (kept_bump _ _ _ (by decide)).outside (by simp [Place.beside])
  · exact keptOutside_sendAll _ _ (fun _ => (rec.drop 4).take 12) _

/-- Settles O24: an announcement is a change of the partition at the announcement point, and a record one of what it received; what is
sent to the group touches links alone. -/
theorem announcing : Obligations.Announcing := by
  intro s p n rec h hp hn
  refine ⟨fun hs hw ha hh => ?_, fun he hlp hg hl ht hh => ?_⟩
  · have hk := announcement_announces hs hw ha hh
    refine ⟨_, runIf_live h (decide_eq_true hp) _, (hk .time rfl).1, ?_, fun hg => ?_⟩
    · rw [part_beside hk p, part_announced]
    · rw [announcement_alone hs hw ha hh hg]; exact kept_announced
  · have hk := tickRx_joins hlp hg hl ht hh
    have hrec : s.dev.tickRecord n rec = s.dev.tickRx n rec := if_neg (by simp [he])
    refine ⟨_, tickAnn n rec (s.dev.heardBefore p rec), runIf_live h (decide_eq_true hn) _, ?_, rfl, rfl, rfl, rfl, rfl⟩
    rw [hrec, part_beside hk p, Dev.annJoined, Dev.part_modPart_self]

end Sys2Proof.Machine
end

section
/-!
PROOF. What the governor and the ring do at a tick (R404–R410) touches cores, dies, registers and the log.
-/
namespace Sys2Proof.Machine

variable {d e f : Dev} {p : Nat} {links : Bool}

/-! ### Single updates -/

theorem pgDbg_ne_pgImpr : pgDbg ≠ pgImpr := by decide
theorem pgPart_ne_pgImpr : pgPart ≠ pgImpr := by decide
theorem pgGov_ne_pgImpr : pgGov ≠ pgImpr := by decide

theorem keptOutside_modCore (k : Nat) (g : CoreSt → CoreSt) : d.KeptOutside (d.modCore k g) (Place.beside links) :=
  (kept_modCore k g).outside (by simp [Place.beside])

theorem keptOutside_modDie (c : Nat) (g : DieSt → DieSt) : d.KeptOutside (d.modDie c g) (Place.beside links) :=
  (kept_modDie c g).outside (by simp [Place.beside])

/-- A register set, whatever its place. -/
theorem keptOutside_setReg (g o w : Nat) : d.KeptOutside (d.setReg g o w) (Place.beside links) := by
  intro x hx; cases x
  case reg => simp [Place.beside] at hx
  all_goals first | exact rfl | exact ⟨rfl, rfl⟩ | exact ⟨rfl, rfl, rfl⟩

theorem keptOutside_bump (g o n : Nat) : d.KeptOutside (d.bump g o n) (Place.beside links) := by
  unfold Dev.bump; split
  · exact .refl d
  · exact keptOutside_setReg _ _ _

theorem keptOutside_raise {g : Nat} (b : Nat) (h : g ≠ pgImpr) : d.KeptOutside (d.raise g b) (Place.beside links) :=
  (kept_raise g b).outside (by simp [Place.beside, h])

theorem keptOutside_raiseIf {c : Bool} {g : Nat} (b : Nat) (h : g ≠ pgImpr) : d.KeptOutside (d.raiseIf c g b) (Place.beside links) :=
  (kept_raiseIf c g b).outside (by simp [Place.beside, h])

theorem keptOutside_setError {g : Nat} (code i0 i1 : Nat) (h : g ≠ pgImpr) :
    d.KeptOutside (d.setError g code i0 i1) (Place.beside links) :=
  (kept_setError g code i0 i1).outside (by simp [Place.beside, h, pgDbg_ne_pgImpr])

theorem keptOutside_free : d.KeptOutside d.free.2 (Place.beside links) := kept_free.outside (by simp [Place.beside])

/-! ### Meters, caps, the ring and admission -/

theorem keptOutside_meter : d.KeptOutside (d.meter p) (Place.beside links) := by
  unfold Dev.meter
  dsimp only
  refine (keptOutside_free.trans (keptOutside_setReg _ _ _)).trans (keptOutside_foldl _ (fun e c => ?_) _ _)
  exact keptOutside_free.trans (keptOutside_setReg _ _ _)

theorem keptOutside_liftCaps : d.KeptOutside (d.liftCaps p) (Place.beside links) := by
  intro x hx; cases x
  case temps => simp [Place.beside] at hx
  all_goals first | exact rfl | exact ⟨rfl, rfl⟩ | exact ⟨rfl, rfl, rfl⟩ | exact fun _ _ => rfl

theorem keptOutside_takeEntry (b : List Byte) : d.KeptOutside (d.takeEntry p b) (Place.beside links) := by
  unfold Dev.takeEntry
  dsimp only
  have eligible (e : Dev) (g : CoreSt → CoreSt) :
      e.KeptOutside ((entryCores b).foldl (fun e k => e.modCore k g) e) (Place.beside links) :=
    keptOutside_foldl _ (fun _ k => keptOutside_modCore k _) _ _
  have loaded (src dst : Nat) : d.KeptOutside ((entryCores b).foldl (fun e k => e.cmemCopy k src dst) d) (Place.beside links) :=
    keptOutside_foldl (fun e k => e.cmemCopy k src dst) (fun _ k => keptOutside_modCore k _) _ _
  have listed (e : Dev) (c : Prop) [Decidable c] :
      e.KeptOutside (if c then e.modPart p fun x => { x with orders := x.orders ++ [b] } else e) (Place.beside links) := by
    split
    · exact (kept_orders p ((e.part p).orders ++ [b])).outside (by simp)
    · exact .refl e
  refine Dev.KeptOutside.trans ?_ ((eligible _ _).trans (listed _ _))
  split
  · exact loaded _ _
  · exact .refl d

theorem keptOutside_takeRing (n fuel : Nat) : d.KeptOutside (d.takeRing p n fuel) (Place.beside links) := by
  induction fuel generalizing d with
  | zero => exact .refl d
  | succ fuel ih =>
    unfold Dev.takeRing
    dsimp only
    split
    · exact .refl d
    · split
      · exact .refl d
      · refine Dev.KeptOutside.trans ?_ (((keptOutside_setReg _ _ _).trans (keptOutside_setReg _ _ _)).trans ih)
        split
        · exact ((keptOutside_bump _ _ _).trans (keptOutside_setError _ _ _ pgPart_ne_pgImpr)).trans
            (keptOutside_raise _ pgPart_ne_pgImpr)
        · exact keptOutside_takeEntry _

theorem keptOutside_admitSegments : d.KeptOutside (d.admitSegments p) (Place.beside links) := by
  unfold Dev.admitSegments
  dsimp only
  have counted (e : Dev) (c : Prop) [Decidable c] (o n b : Nat) :
      e.KeptOutside (if c then e else (e.bump pgGov o n).raise pgGov b) (Place.beside links) := by
    split
    · exact .refl e
    · exact (keptOutside_bump _ _ _).trans (keptOutside_raise _ pgGov_ne_pgImpr)
  refine Dev.KeptOutside.trans ?_ (keptOutside_foldl _ (fun _ c => keptOutside_modDie c _) _ _)
  refine Dev.KeptOutside.trans ?_ (keptOutside_foldl _ (fun _ k => keptOutside_modCore k _) _ _)
  refine Dev.KeptOutside.trans ?_ (counted _ _ _ _ _)
  refine Dev.KeptOutside.trans ?_ (counted _ _ _ _ _)
  exact ((keptOutside_setReg _ _ _).trans (keptOutside_setReg _ _ _)).trans (keptOutside_setReg _ _ _)

theorem keptOutside_openImpression : d.KeptOutside (d.openImpression p) (Place.beside links) := by
  unfold Dev.openImpression Dev.takeAtTick
  split
  · exact (keptOutside_takeRing _ _).trans keptOutside_admitSegments
  · exact .refl d

theorem keptOutside_sendBoundaries (n : Nat) : d.KeptOutside (d.sendBoundaries p n) (Place.beside true) := by
  unfold Dev.sendBoundaries
  dsimp only
  refine keptOutside_foldl _ (fun e l => ?_) _ _
  split
  · exact (keptOutside_setReg _ _ _).trans (beside_sendRecord l 6 _)
  · exact .refl e

theorem keptOutside_tickWaits (n : Nat) (ks : List Nat) :
    d.KeptOutside (ks.foldl (fun d k => d.modCore k fun c => c.tickWaits n) d) (Place.beside links) :=
  keptOutside_foldl _ (fun _ k => keptOutside_modCore k _) _ _

end Sys2Proof.Machine
end

section
/-!
PROOF. The first impression, and the lists of an impression (R29, R31, R40).
-/
namespace Sys2Proof.Machine

variable {s : State} {d : Dev} {p : Nat} {links : Bool}

/-- The partition with its start numbers, at START_TIME or when that has passed. -/
def Dev.atFirst (d : Dev) (p : Nat) : Dev :=
  (d.advanceTo (d.reg64 pgImpr (0x120 + 0x80 * p))).modPart p fun x =>
    { x with starting := false, num := d.impr p 0x28, step := d.impr p 0x2C, pos := d.impr p 0x30 % 2 ^ 16, m := 1, nextM := 1, d := 0
             tickTime := d.reg64 pgImpr (0x120 + 0x80 * p), nextTick := d.reg64 pgImpr (0x120 + 0x80 * p) + d.period p, begun := false
             restored := false }

theorem firstImpression_eq (hw : (d.part p).starting = true) (hr : (d.part p).run = true) :
    ∃ ks : List Nat, d.firstImpression p = (((ks.foldl (fun e k => e.modCore k fun c => c.tickWaits (d.impr p 0x28))
      (((d.atFirst p).liftCaps p).raise pgImpr (8 * p))).sendBoundaries p (d.impr p 0x28)).openImpression p) := by
  rw [Dev.firstImpression, if_neg (by simp [hw, hr])]
  exact ⟨_, rfl⟩

theorem kept_dropPastOrder : d.Kept (d.dropPastOrder p) [.proof p] := by
  unfold Dev.dropPastOrder
  exact kept_ite (fun _ => kept_modProof _ _) fun _ => .refl d

/-- Beside the first tick, which is reported, nothing of the time base and the partitions changes. -/
theorem firstImpression_begins (hw : (d.part p).starting = true) (hr : (d.part p).run = true) :
    (((d.atFirst p).liftCaps p).raise pgImpr (8 * p)).KeptOutside ((d.firstImpression p).dropPastOrder p)
      fun | .proof _ => true | x => x.beside true := by
  obtain ⟨ks, he⟩ := firstImpression_eq hw hr
  rw [he]
  refine Dev.KeptOutside.trans (Dev.KeptOutside.mono (((keptOutside_tickWaits _ _).trans
    (keptOutside_sendBoundaries _)).trans keptOutside_openImpression) fun x hx => ?_) (kept_dropPastOrder.outside (by simp))
  split
  · rfl
  · exact hx

theorem firstImpression_starts (h : s.Up) (hp : p < 4) (hw : (s.dev.part p).starting = true) (hr : (s.dev.part p).run = true) :
    let d := s.dev
    let t := d.reg64 pgImpr (0x120 + 0x80 * p)
    ∃ e, exec (.firstImpressionStart p) s = .next (s.withDev e) ∧ e.time = max d.time t ∧
      e.part p = { d.part p with
        starting := false, num := d.impr p 0x28, step := d.impr p 0x2C, pos := d.impr p 0x30 % 2 ^ 16, m := 1, nextM := 1
        d := 0, tickTime := t, nextTick := t + d.period p, begun := false, restored := false, orders := (e.part p).orders } ∧
      bit (e.hdr pgImpr).raw.toNat (8 * p) = true ∧ ∀ q, q ≠ p → (e.part q).num = (d.part q).num := by
  have hk := firstImpression_begins hw hr
  have hpart (q : Nat) : (((s.dev.atFirst p).liftCaps p).raise pgImpr (8 * p)).part q = (s.dev.atFirst p).part q :=
    Dev.part_raise _ _ _ _
  refine ⟨_, runIf_live h (decide_eq_true hp) _, (hk .time rfl).1.trans (Dev.raise_time _ _ _), ?_, ?_, fun q hq => ?_⟩
  · rw [part_of_same (hk (.part p) rfl), hpart, Dev.atFirst, Dev.part_modPart_self]; rfl
  · rw [hk (.hdr pgImpr) rfl, hdr_raise_self]; exact bit_raised_raw _ (by omega)
  · rw [part_of_same (hk (.part q) rfl), hpart, Dev.atFirst, Dev.part_modPart_ne _ _ _ hq]; rfl

/-! ### LISTS_BEGIN -/

theorem kept_beginLists (k : Nat) (ls : List Nat) :
    d.Kept (d.beginLists k ls) [.core k, .reg (pgCore k) 0x120, .hdr (pgCore k), .hdr pgDbg, .log] := by
  induction ls generalizing d with
  | nil => exact (kept_modCore _ _).mono (by simp)
  | cons l ls ih =>
    unfold Dev.beginLists
    dsimp only
    refine kept_ite (fun _ => ?_) fun _ => (kept_modCore _ _).mono (by simp)
    exact (((kept_setError _ _ _ _).mono (by simp)).seq ((kept_markAbandoned _ _).mono (by simp))).seq ih

/-- A core starts the first of the lists it was admitted, if any. -/
def Dev.startLists (d : Dev) (k : Nat) : Dev := if (d.core k).todo.isEmpty then d else d.nextList k

theorem kept_startLists (k : Nat) :
    d.Kept (d.startLists k) [.core k, .reg (pgCore k) 0x120, .hdr (pgCore k), .hdr pgDbg, .log] :=
  kept_ite (fun _ => .refl d) fun _ => kept_beginLists _ _

theorem core_startLists_self {k l : Nat} {ls : List Nat} (ht : (d.core k).todo = l :: ls)
    (hc : ((d.core k).list l).cursor ≤ ((d.core k).list l).last) : (d.startLists k).core k = (d.core k).passedOn := by
  have fits : (d.core k).NextFits (l + 1) := fun j hj => by
    obtain rfl : l = j := by simpa [ht] using hj
    exact ⟨by omega, hc⟩
  rw [Dev.startLists, if_neg (by simp [ht]), nextList_fits fits, Dev.core_modCore_self]

/-- Cores that are not of the list stay as they are. -/
theorem core_startAll_ne {k : Nat} {ks : List Nat} (h : k ∉ ks) : (ks.foldl Dev.startLists d).core k = d.core k :=
  kept_foldl (xs := ks.flatMap fun j => [.core j, .reg (pgCore j) 0x120, .hdr (pgCore j), .hdr pgDbg, .log]) ks _
    (fun _ j hj => (kept_startLists j).mono fun _ hx => List.mem_flatMap.2 ⟨j, hj, hx⟩) d (.core k) (by simpa using h)

/-- Each core of the list starts its own. -/
theorem core_startAll {k l : Nat} {ks ls : List Nat} (hn : ks.Nodup) (hk : k ∈ ks) (ht : (d.core k).todo = l :: ls)
    (hc : ((d.core k).list l).cursor ≤ ((d.core k).list l).last) : (ks.foldl Dev.startLists d).core k = (d.core k).passedOn := by
  obtain ⟨as, bs, rfl⟩ := List.append_of_mem hk
  obtain ⟨hk, -⟩ := List.nodup_cons.1 (List.nodup_middle.1 hn)
  obtain ⟨ha, hb⟩ : k ∉ as ∧ k ∉ bs := by simpa using hk
  have same : (as.foldl Dev.startLists d).core k = d.core k := core_startAll_ne ha
  rw [List.foldl_append, List.foldl_cons, core_startAll_ne hb, core_startLists_self (l := l) (ls := ls) (by rw [same, ht])
    (by rw [same]; exact hc), same]

theorem pgCore_ne_pgImpr (k : Nat) : pgCore k ≠ pgImpr := by simp only [pgCore, pgOfCore, pgImpr]; omega

theorem keptOutside_startAll (ks : List Nat) : d.KeptOutside (ks.foldl Dev.startLists d) (Place.beside links) :=
  keptOutside_foldl _ (fun _ k => (kept_startLists k).outside (by simp [Place.beside, pgCore_ne_pgImpr, pgDbg_ne_pgImpr])) _ _

/-- The device at 500 ns after the tick, with the partition's points stepped down. -/
def Dev.atLists (d : Dev) (p : Nat) : Dev :=
  ((d.advanceTo ((d.part p).tickTime + 500)).applyPoints p).modPart p fun x => { x with begun := true }

theorem listsBegin_eq (hs : (d.part p).state = .running) (hw : (d.part p).starting = false) (hb : (d.part p).begun = false) :
    d.listsBegin p = (((d.atLists p).coresOf p).foldl Dev.startLists (d.atLists p)).checkOrders p := by
  rw [Dev.listsBegin, if_neg (by simp [hs, hw, hb])]; rfl

theorem keptOutside_applyPoints {area : Place → Bool} (h : ∀ c, area (.die c) = true) : d.KeptOutside (d.applyPoints p) area :=
  keptOutside_foldl _ (fun _ c => (kept_modDie c _).outside (by simp [h])) _ _

/-- Points change nothing of a die's claim. -/
theorem diePart_applyPoints (c : Nat) : ((d.applyPoints p).die c).part = (d.die c).part :=
  foldl_unseen (fun e : Dev => (e.die c).part) (fun e i => by rw [die_modDie]; split <;> rfl) _ _

theorem applyPoints_cores : (d.applyPoints p).cores = d.cores := foldl_unseen Dev.cores (fun e i => e.modDie_cores i _) _ _

theorem coresOf_atLists : (d.atLists p).coresOf p = d.coresOf p := by
  have owns (k : Nat) : (d.atLists p).ownsCore p k = d.ownsCore p k := by
    simp only [Dev.ownsCore, Dev.owns, Dev.atLists, Dev.die_modPart, diePart_applyPoints, Dev.die_advanceTo]
  simp only [Dev.coresOf, owns]
  rw [Dev.atLists, Dev.modPart_cores, applyPoints_cores]; rfl

theorem mem_coresOf {k : Nat} (ho : d.ownsCore p k = true) (hc : d.core k ≠ {}) : k ∈ d.coresOf p := by
  refine List.mem_filter.2 ⟨?_, ho⟩
  by_contra hk
  exact hc (tget_of_absent fun c hm hck => hk (hck ▸ List.mem_map_of_mem hm))

theorem listsBegin_starts (h : s.Up) (hp : p < 4) (hs : (s.dev.part p).state = .running) (hw : (s.dev.part p).starting = false)
    (hb : (s.dev.part p).begun = false) (hn : (s.dev.cores.map (·.1)).Nodup) :
    ∃ e, exec (.listsBegin p) s = .next (s.withDev e) ∧ e.time = max s.dev.time ((s.dev.part p).tickTime + 500) ∧
      (e.part p).begun = true ∧
      (∀ k l ls, s.dev.ownsCore p k = true → (s.dev.core k).todo = l :: ls →
        ((s.dev.core k).list l).cursor ≤ ((s.dev.core k).list l).last → e.core k = (s.dev.core k).passedOn) ∧
      ∀ k, s.dev.ownsCore p k = false → e.core k = s.dev.core k := by
  have hexec : exec (.listsBegin p) s = .next (s.withDev (s.dev.listsBegin p)) := runIf_live h (decide_eq_true hp) _
  have hd : s.dev.KeptOutside (s.dev.atLists p) fun | .die _ | .part _ | .time => true | _ => false :=
    (((kept_advanceTo _).outside (by simp)).trans (keptOutside_applyPoints fun _ => rfl)).trans
      ((kept_modPart _ _).outside (by simp))
  have hc (k : Nat) : (s.dev.atLists p).core k = s.dev.core k := hd (.core k) rfl
  have hks : ((s.dev.atLists p).coresOf p).Nodup := by rw [coresOf_atLists]; exact hn.filter _
  have hk : (s.dev.atLists p).KeptOutside (s.dev.listsBegin p) (Place.beside false) := by
    rw [listsBegin_eq hs hw hb]
    exact (keptOutside_startAll _).trans ((kept_checkOrders p).outside (by simp [Place.beside, pgPart_ne_pgImpr]))
  have ho (e : Dev) (k : Nat) : (e.checkOrders p).core k = e.core k := kept_checkOrders p (.core k) (by simp)
  have hcore (k : Nat) : (s.dev.listsBegin p).core k =
      (((s.dev.atLists p).coresOf p).foldl Dev.startLists (s.dev.atLists p)).core k := by rw [listsBegin_eq hs hw hb, ho]
  refine ⟨_, hexec, ?_, ?_, fun k l ls hk ht hl => ?_, fun k hk => ?_⟩
  · exact (hk .time rfl).1.trans (keptOutside_applyPoints (area := Place.beside false) (fun _ => rfl) .time rfl).1
  · rw [part_beside hk p, Dev.atLists, Dev.part_modPart_self]
  · rw [hcore, core_startAll hks (l := l) (ls := ls), hc]
    · rw [coresOf_atLists]; exact mem_coresOf hk fun h0 => by simp [h0] at ht
    · rw [hc, ht]
    · rw [hc]; exact hl
  · rw [hcore, core_startAll_ne, hc]
    rw [coresOf_atLists]; exact fun hm => by simp [(List.mem_filter.1 hm).2] at hk

/-- Settles O23: both commands are a change of the partition at their time; what follows the first lies beside the partitions, and
the lists begin core by core. -/
theorem impressionsBegin : Obligations.ImpressionsBegin :=
  ⟨fun _ _ h hp hw hr => firstImpression_starts h hp hw hr, fun _ _ h hp hs hw hb hn => listsBegin_starts h hp hs hw hb hn⟩

end Sys2Proof.Machine
end

section
/-!
PROOF. Ticks (R34–R37, R40): what a tick that fires does to its partition, and what comes with it.
-/
namespace Sys2Proof.Machine

variable {s : State} {d e f : Dev} {p : Nat} {own : Outc} {m : Nat}

/-! ### Held flits -/

theorem heldBy_modPart (q : Nat) (g : PartSt → PartSt) : (d.modPart q g).heldBy = d.heldBy := rfl

theorem heldBy_of_kept (h : d.KeptOutside e (Place.beside false)) : e.heldBy = d.heldBy :=
  funext fun n => congrArg (fun x : LinkSt => (x.held, x.holding)) (h (.link n) rfl)

theorem heldBy_of_reports (h : d.Reports e) : e.heldBy = d.heldBy :=
  funext fun n => congrArg (fun x : LinkSt => (x.held, x.holding)) (h.link n)

theorem heldBy_bump (g o n : Nat) : (d.bump g o n).heldBy = d.heldBy := heldBy_of_reports (reports_bump _ _ _)
theorem heldBy_raise (g b : Nat) : (d.raise g b).heldBy = d.heldBy := heldBy_of_reports (reports_raise _ _)

theorem heldBy_modLn (n : Nat) {g : LinkSt → LinkSt} (h : ∀ x, (g x).held = x.held ∧ (g x).holding = x.holding) :
    (d.modLn n g).heldBy = d.heldBy := by
  funext i
  unfold Dev.heldBy Dev.modLn
  by_cases hi : i = d.lnHome n
  · rw [hi, Dev.link_modLink_self]; exact Prod.ext (h _).1 (h _).2
  · rw [Dev.link_modLink_ne _ _ _ hi]

theorem heldBy_firstSend (n : Nat) (x : LnFlit) : (d.firstSend n x).heldBy = d.heldBy := by
  unfold Dev.firstSend
  dsimp only
  exact (heldBy_of_reports (reports_bump64 _ _ _)).trans (heldBy_modLn n fun _ => ⟨rfl, rfl⟩)

/-- Sending takes nothing from what a link holds, and adds nothing to it. -/
theorem heldBy_drainLink (n fuel : Nat) : (d.drainLink n fuel).heldBy = d.heldBy := by
  induction fuel generalizing d with
  | zero => rfl
  | succ fuel ih =>
    unfold Dev.drainLink
    dsimp only
    split
    · rw [ih, heldBy_firstSend]; exact heldBy_modLn n fun _ => ⟨rfl, rfl⟩
    · split
      · rfl
      · rw [ih, heldBy_firstSend]; exact heldBy_modLn n fun _ => ⟨rfl, rfl⟩

theorem heldBy_sendRecord (n ty : Nat) (body : List Byte) : (d.sendRecord n ty body).heldBy = d.heldBy := by
  unfold Dev.sendRecord Dev.pushFlit
  dsimp only
  rw [heldBy_drainLink]; exact heldBy_modLn n fun _ => ⟨rfl, rfl⟩

theorem heldBy_sendBoundaries (n : Nat) : (d.sendBoundaries p n).heldBy = d.heldBy := by
  unfold Dev.sendBoundaries
  dsimp only
  refine foldl_unseen Dev.heldBy (fun e l => ?_) _ _
  split
  · rw [heldBy_sendRecord]; rfl
  · rfl

/-! ### What follows a partition's new numbers -/

/-- From d to e the time, partition p's numbers and its proof stay, what the IMPR page has reported stays reported, and the links hold
what they held. -/
structure Dev.Follows (p : Nat) (d e : Dev) : Prop where
  time : e.time = d.time
  part : e.part p = { d.part p with orders := (e.part p).orders, globalRecast := (e.part p).globalRecast }
  proof : e.proof p = d.proof p
  reported : ∀ b, bit (d.hdr pgImpr).raw.toNat b = true → bit (e.hdr pgImpr).raw.toNat b = true
  held : e.heldBy = d.heldBy

theorem Dev.Follows.refl (d : Dev) : d.Follows p d := ⟨rfl, rfl, rfl, fun _ h => h, rfl⟩

theorem Dev.Follows.trans (h : Dev.Follows p d e) (h' : Dev.Follows p e f) : Dev.Follows p d f where
  time := h'.time.trans h.time
  part := h'.part.trans (congrArg (fun x : PartSt =>
    { x with orders := (f.part p).orders, globalRecast := (f.part p).globalRecast }) h.part)
  proof := h'.proof.trans h.proof
  reported b hb := h'.reported b (h.reported b hb)
  held := h'.held.trans h.held

/-- What lies beside the partitions follows, where it leaves alone what the links hold. -/
theorem follows_of_beside {links : Bool} (h : d.KeptOutside e (Place.beside links)) (hh : e.heldBy = d.heldBy) : d.Follows p e where
  time := (h .time rfl).1
  part := (part_beside h p).trans (by rw [part_beside h p])
  proof := h (.proof p) rfl
  reported b hb := by rw [h (.hdr pgImpr) rfl]; exact hb
  held := hh

theorem follows_of_kept (h : d.KeptOutside e (Place.beside false)) : d.Follows p e := follows_of_beside h (heldBy_of_kept h)

/-- Raising one event leaves those that were raised (R475). -/
theorem bit_raised_of_bit {h : Hdr} {a : Nat} (b : Nat) (ha : bit h.raw.toNat a = true) : bit (h.raised b).raw.toNat a = true := by
  rw [bit_eq_testBit] at *
  simp only [Hdr.raised, BitVec.toNat_or, Nat.testBit_or, ha, Bool.true_or]

theorem follows_raise (b : Nat) : d.Follows p (d.raise pgImpr b) where
  time := Dev.raise_time _ _ _
  part := by rw [Dev.part_raise]
  proof := Dev.proof_raise _ _ _ _
  reported a ha := by rw [hdr_raise_self]; exact bit_raised_of_bit b ha
  held := heldBy_raise _ _

theorem pgGauge_ne_pgImpr (k : Nat) : pgGauge k ≠ pgImpr := by simp only [pgGauge, pgOfCore, pgImpr]; omega
theorem pgBwd_ne_pgImpr (k : Nat) : pgBwd k ≠ pgImpr := by simp only [pgBwd, pgOfCore, pgImpr]; omega

theorem keptOutside_commitCore (k : Nat) : d.KeptOutside (d.commitCore k) (Place.beside false) := by
  unfold Dev.commitCore Dev.withRecast
  dsimp only
  exact (((keptOutside_modCore k fun _ => _).trans (keptOutside_raiseIf 5 (pgGauge_ne_pgImpr k))).trans
    ((keptOutside_bump _ _ _).trans (keptOutside_raiseIf 4 (pgGauge_ne_pgImpr k)))).trans
    (keptOutside_raiseIf 3 (pgGauge_ne_pgImpr k))

theorem keptOutside_latchTaps (k : Nat) : d.KeptOutside (d.latchTaps k) (Place.beside false) := by
  unfold Dev.latchTaps
  split
  · exact (keptOutside_modCore k _).trans (keptOutside_raise 3 (pgBwd_ne_pgImpr k))
  · exact .refl d

theorem follows_updateGlobal (step : Bool) : d.Follows p (d.updateGlobal p step) := by
  have mark (g : Bool) : d.Follows p (d.modPart p fun x => { x with globalRecast := g }) :=
    ⟨rfl, by rw [Dev.part_modPart_self], rfl, fun _ h => h, rfl⟩
  unfold Dev.updateGlobal
  dsimp only
  split
  · refine (mark _).trans (follows_of_kept (Dev.KeptOutside.trans (keptOutside_foldl _ (fun _ k => ?_) _ _)
      (keptOutside_raise _ pgGov_ne_pgImpr)))
    exact keptOutside_raise 6 (pgGauge_ne_pgImpr k)
  · exact mark _

/-- The end of a step is reported first; what else it does follows. -/
theorem follows_stepEnds : (d.raise pgImpr (8 * p + 1)).Follows p (d.stepEnds p) := by
  unfold Dev.stepEnds
  dsimp only
  refine Dev.Follows.trans ?_ (follows_updateGlobal true)
  refine Dev.Follows.trans ?_ (follows_of_kept (keptOutside_foldl _ (fun _ k => keptOutside_modCore k _) _ _))
  refine Dev.Follows.trans ?_ (follows_of_kept (keptOutside_foldl _ (fun _ c => keptOutside_modDie c _) _ _))
  exact follows_of_kept (keptOutside_foldl _ (fun _ k => (keptOutside_commitCore k).trans (keptOutside_latchTaps k)) _ _)

theorem reported_raise {b : Nat} (hb : b < 32) : bit ((d.raise pgImpr b).hdr pgImpr).raw.toNat b = true := by
  rw [hdr_raise_self]; exact bit_raised_raw _ hb

/-! ### A tick that fires -/

/-- Partition p with the numbers of the impression that begins, its tick now and the next after m periods. -/
def Dev.numbered (d : Dev) (p m : Nat) : Dev :=
  (d.nextNumbers p).1.modPart p fun x => { x with tickTime := d.time, nextTick := d.time + m * d.period p, m := m }

/-- The numbers taken, and the tick reported. -/
def Dev.tickReported (d : Dev) (p m : Nat) : Dev := (((d.numbered p m).meter p).liftCaps p).raise pgImpr (8 * p)

/-- The waits that a tick ends, and its BOUNDARY records. -/
def Dev.waitsEnd (d : Dev) (p : Nat) : Dev :=
  ((d.coresOf p).foldl (fun e k => e.modCore k fun c => c.tickWaits (d.part p).num) d).sendBoundaries p (d.part p).num

/-- All of a tick that comes before a proof's cut. -/
def Dev.ticked (d : Dev) (p m : Nat) : Dev :=
  (if (d.nextNumbers p).2 then (d.tickReported p m).stepEnds p else d.tickReported p m).waitsEnd p

theorem cutHook_none {ends : Bool} (h : (d.proof p).phase ≠ .ordered) : d.cutHook p ends = (d, false) := if_pos (.inl h)

/-- STATE after a tick that ends in a halt, or in the stop the partition announced (R37, R39). -/
def PartSt.restState (x : PartSt) (late : Bool) : PState := if x.stopAnn && !late then .stopped else .halted

/-- The partition at rest. -/
def Dev.comesToRest (d : Dev) (p : Nat) (final : PState) : Dev :=
  d.modPart p fun x => { x with run := false, stopAnn := false, nextTick := x.tickTime, state := final, afterCut := final }

/-- A halt is counted and reported (R37, R49). -/
def Dev.reportHalt (d : Dev) (p : Nat) (late : Bool) : Dev :=
  (((d.bump pgImpr (0x154 + 0x80 * p) 1).raise pgImpr (8 * p + 3)).imprError p (if late then 0x0D86 else 0x0D85)).raiseIf late pgImpr
    (8 * p + 4)

theorem reports_reportHalt (late : Bool) : d.Reports (d.reportHalt p late) :=
  (((reports_bump _ _ _).trans (reports_raise _ _)).trans (reports_imprError _ _)).trans (reports_raiseIf _ _ _)

section
variable {late : Bool} {cut : Dev → Nat → Bool → Dev × Bool} (hcut : cut (d.ticked p m) p (d.nextNumbers p).2 = (d.ticked p m, false))
include hcut

/-- A tick at which no cut begins, and the partition runs on. -/
theorem fire_running :
    d.fire p false late m cut = ((d.ticked p m).modPart p fun x => { x with state := .running }).openImpression p := by
  have hf : d.fire p false late m cut =
      let c := cut (d.ticked p m) p (d.nextNumbers p).2
      if c.2 then (c.1.modPart p fun x => { x with state := .pause, released := false, afterCut := .pause }).takeAtTick p
      else (c.1.modPart p fun x => { x with state := .running }).openImpression p := rfl
  rw [hf, hcut]; dsimp only; rw [if_neg Bool.false_ne_true]

/-- A tick at which no cut begins, and the partition comes to rest. -/
theorem fire_resting : d.fire p true late m cut =
    if (d.part p).stopAnn && !late then (d.ticked p m).comesToRest p ((d.part p).restState late)
    else ((d.ticked p m).comesToRest p ((d.part p).restState late)).reportHalt p late := by
  have hf : d.fire p true late m cut =
      let c := cut (d.ticked p m) p (d.nextNumbers p).2
      let final := (d.part p).restState late
      let e := c.1.modPart p fun x =>
        { x with run := false, stopAnn := false, nextTick := x.tickTime, state := if c.2 then .pause else final, afterCut := final }
      if (d.part p).stopAnn && !late then e else e.reportHalt p late := rfl
  rw [hf, hcut]; simp only [Bool.false_eq_true, if_false]; rfl

end

/-- What a tick that fires makes of the numbers of partition x (R40): `ends` where a step ends, t the tick, m the multiplier. -/
def PartSt.Fired (x y : PartSt) (ends : Bool) (t m : Nat) : Prop :=
  y.num = (x.num + 1) % 2 ^ 32 ∧ y.pos = (if ends then 0 else x.pos + 1) ∧ y.step = (if ends then (x.step + 1) % 2 ^ 32 else x.step) ∧
    y.d = 0 ∧ y.ann = none ∧ y.tickTime = t ∧ y.m = m

/-- It says nothing of a partition's other parts. -/
theorem PartSt.Fired.elsewhere {x y : PartSt} {ends : Bool} {t : Nat} (h : x.Fired y ends t m) (os : List (List Byte)) (g r a : Bool)
    (st c : PState) (nt : Nat) : x.Fired { y with
      orders := os, globalRecast := g, run := r, stopAnn := a, state := st, afterCut := c, nextTick := nt } ends t m := h

/-- The position after the present one is past the last of the step (R40). -/
def Dev.stepEnding (d : Dev) (p : Nat) : Bool := decide (d.stepLen p ≤ (d.part p).pos + 1)

section
variable (hs : (d.part p).state = .running)
include hs

theorem nextNumbers_ends : (d.nextNumbers p).2 = d.stepEnding p := by simp [Dev.nextNumbers, Dev.stepEnding, hs]

theorem fired_numbered : (d.part p).Fired ((d.numbered p m).part p) (d.stepEnding p) d.time m := by
  rw [Dev.numbered, Dev.part_modPart_self]
  simp [Dev.nextNumbers, Dev.stepEnding, hs, PartSt.Fired]

end

theorem follows_tickReported : (d.numbered p m).Follows p (d.tickReported p m) :=
  (follows_of_kept (keptOutside_meter.trans keptOutside_liftCaps)).trans (follows_raise _)

theorem follows_waitsEnd : d.Follows p (d.waitsEnd p) :=
  (follows_of_kept (keptOutside_tickWaits _ _)).trans
    (follows_of_beside (keptOutside_sendBoundaries _) (heldBy_sendBoundaries _))

theorem follows_ticked : (d.tickReported p m).Follows p (d.ticked p m) := by
  refine Dev.Follows.trans ?_ follows_waitsEnd
  split
  · exact (follows_raise _).trans follows_stepEnds
  · exact .refl _

theorem follows_ticked_of_ends (h : (d.nextNumbers p).2 = true) :
    ((d.tickReported p m).raise pgImpr (8 * p + 1)).Follows p (d.ticked p m) := by
  rw [Dev.ticked, if_pos h]
  exact follows_stepEnds.trans follows_waitsEnd

theorem cutHook_ticked (hq : (d.proof p).phase ≠ .ordered) :
    Dev.cutHook (d.ticked p m) p (d.nextNumbers p).2 = (d.ticked p m, false) := by
  refine cutHook_none ?_
  rw [follows_ticked.proof, follows_tickReported.proof]
  exact hq

theorem fired_ticked (hs : (d.part p).state = .running) :
    (d.part p).Fired ((d.ticked p m).part p) (d.stepEnding p) d.time m := by
  rw [follows_ticked.part, follows_tickReported.part]
  exact (fired_numbered hs).elsewhere _ _ _ _ _ _ _

theorem heldBy_ticked : (d.ticked p m).heldBy = d.heldBy := by
  rw [follows_ticked.held, follows_tickReported.held]; rfl

/-- A tick with no proof ordered that fires, and the partition runs on. -/
theorem fire_fires {late : Bool} (hp : p < 4) (hs : (d.part p).state = .running) (hq : (d.proof p).phase ≠ .ordered)
    (hf : d.fire p false late m Dev.cutHook = e) :
    (d.part p).Fired (e.part p) (d.stepEnding p) d.time m ∧ (e.part p).nextTick = d.time + m * d.period p ∧
      (e.part p).state = .running ∧ bit (e.hdr pgImpr).raw.toNat (8 * p) = true ∧
      (d.stepEnding p = true → bit (e.hdr pgImpr).raw.toNat (8 * p + 1) = true) ∧ e.heldBy = d.heldBy := by
  have he : ((d.ticked p m).modPart p fun x => { x with state := .running }).openImpression p = e := by
    rw [← hf, fire_running (cut := Dev.cutHook) (cutHook_ticked hq)]
  have hk : ((d.ticked p m).modPart p fun x => { x with state := .running }).KeptOutside e (Place.beside false) :=
    by rw [← he]; exact keptOutside_openImpression
  have hx := part_beside hk p
  rw [Dev.part_modPart_self] at hx; dsimp only at hx
  have hh := hdr_beside hk
  rw [Dev.hdr_modPart] at hh
  refine ⟨?_, ?_, ?_, ?_, ?_, ?_⟩
  · rw [hx]; exact (fired_ticked hs).elsewhere _ _ _ _ _ _ _
  · rw [hx, follows_ticked.part, follows_tickReported.part, Dev.numbered, Dev.part_modPart_self]
  · rw [hx]
  · rw [hh]; exact follows_ticked.reported _ (reported_raise (by omega))
  · intro hends; rw [hh]; exact (follows_ticked_of_ends ((nextNumbers_ends hs).trans hends)).reported _ (reported_raise (by omega))
  · rw [heldBy_of_kept hk, heldBy_modPart, heldBy_ticked]

/-- A tick with no proof ordered that fires, and halts or stops the partition. -/
theorem fire_rests {late : Bool} (hs : (d.part p).state = .running) (hq : (d.proof p).phase ≠ .ordered)
    (hf : d.fire p true late m Dev.cutHook = e) :
    (d.part p).Fired (e.part p) (d.stepEnding p) d.time m ∧ (e.part p).run = false ∧
      (e.part p).state = (d.part p).restState late ∧ e.heldBy = d.heldBy := by
  have hr : ((d.ticked p m).comesToRest p ((d.part p).restState late)).Reports e := by
    rw [← hf, fire_resting (cut := Dev.cutHook) (cutHook_ticked hq)]
    split
    · exact .rfl'
    · exact reports_reportHalt late
  have hx := hr.part p
  rw [Dev.comesToRest, Dev.part_modPart_self] at hx
  refine ⟨?_, ?_, ?_, ?_⟩
  · rw [hx]; exact (fired_ticked hs).elsewhere _ _ _ _ _ _ _
  · rw [hx]
  · rw [hx]
  · rw [heldBy_of_reports hr, Dev.comesToRest, heldBy_modPart, heldBy_ticked]

/-! ### TICK and HALT_TICK -/

/-- The announcements of the present impression that count (R34). -/
def PartSt.counted (x : PartSt) : List AnnRx := x.rx.filter fun a => a.num == x.num && !a.copy

/-- The combined outcome, a halt where the group is not met (R34, R35). -/
def Dev.outcome (d : Dev) (p : Nat) (own : Outc) : Outc :=
  if d.groupMet p then combine own ((d.part p).counted.map (·.out)) else .halt

/-- The greatest multiplier announced (R38). -/
def PartSt.greatestM (x : PartSt) : Nat := (x.counted.map (·.m)).foldl max x.nextM

/-- An event raised leaves every register but the transport's counts of merged records (R387). -/
theorem reg_raise {g b pg off : Nat} (ho : off < 4096) (hg : pg ≠ pgRailjor) : (d.raise g b).reg pg off = d.reg pg off :=
  kept_raise g b (.reg pg off) (by simp) ho fun hn => hg hn.1

theorem sat_lt (v : Nat) : sat 32 v < 2 ^ 32 := by unfold sat; omega

/-- A counter advanced (R480). -/
theorem reg_bump_self {pg off n : Nat} (h : n ≠ 0) : (d.bump pg off n).reg pg off = sat 32 (d.reg pg off + n) := by
  rw [Dev.bump, if_neg h, Dev.reg_setReg_self, Nat.mod_eq_of_lt (sat_lt _)]

section
variable {cut : Dev → Nat → Bool → Dev × Bool} (ha : (d.part p).ann = some own) (hs : (d.part p).state = .running)
  (hh : (d.part p).halting = none)
include ha hs hh

/-- A tick goes by the combined outcome of the announcements. -/
theorem tickAt_eq : d.tickAt p cut =
    let e := d.advanceTo (d.part p).nextTick
    match d.outcome p own with
    | .defer => ((e.modPart p fun x =>
        { x with nextTick := x.nextTick + d.period p, d := x.d + 1, ann := none, rx := [] }).bump pgImpr (0x150 + 0x80 * p) 1).raise
          pgImpr (8 * p + 2)
    | .onTime => e.fire p false false (d.part p).greatestM cut
    | .halt =>
      if d.complete p then e.fire p true (!d.groupMet p) (d.part p).greatestM cut
      else e.modPart p fun x => { x with halting := some (!d.groupMet p), nextM := (d.part p).greatestM } := by
  unfold Dev.tickAt
  simp only [ha]
  rw [if_neg (by simp [hs, hh])]
  rfl

end

theorem exec_tick (h : s.Up) (hp : p < 4) (hn : s.dev.NoLinkHolds) (he : s.dev.tickAt p Dev.cutHook = e)
    (hk : e.heldBy = s.dev.heldBy) : exec (.tick p) s = .next (s.withDev e) := by
  calc exec (.tick p) s
    _ = .next (s.withDev ((s.dev.tickAt p Dev.cutHook).releaseLinks p)) := runIf_live h (decide_eq_true hp) _
    _ = _ := by rw [he, releaseLinks_idle (noLinkHolds_congr hn hk)]

theorem exec_haltTick (h : s.Up) (hp : p < 4) (hn : s.dev.NoLinkHolds) (he : s.dev.haltTickAt p Dev.cutHook = e)
    (hk : e.heldBy = s.dev.heldBy) : exec (.haltTick p) s = .next (s.withDev e) := by
  calc exec (.haltTick p) s
    _ = .next (s.withDev ((s.dev.haltTickAt p Dev.cutHook).releaseLinks p)) := runIf_live h (decide_eq_true hp) _
    _ = _ := by rw [he, releaseLinks_idle (noLinkHolds_congr hn hk)]

section
variable (h : s.Up) (hp : p < 4) (hn : s.dev.NoLinkHolds)
include h hp hn

/-- A halt ordered before fires once the partition's work is done (R37). -/
theorem haltTick_rests {late : Bool} (hq : (s.dev.proof p).phase ≠ .ordered) (hl : (s.dev.part p).halting = some late)
    (hs : (s.dev.part p).state = .running) (hc : s.dev.complete p = true) :
    ∃ e, exec (.haltTick p) s = .next (s.withDev e) ∧
      (s.dev.part p).Fired (e.part p) (s.dev.stepEnding p) (s.dev.time + 1) (s.dev.part p).nextM ∧
      (e.part p).run = false ∧ (e.part p).state = (s.dev.part p).restState late := by
  have he : s.dev.haltTickAt p Dev.cutHook =
      Dev.fire { s.dev with time := s.dev.time + 1 } p true late (s.dev.part p).nextM Dev.cutHook := by
    unfold Dev.haltTickAt
    simp only [hl]
    rw [if_pos hc]
  obtain ⟨hf, hr, hst, hk⟩ := fire_rests (d := { s.dev with time := s.dev.time + 1 }) hs hq he.symm
  exact ⟨_, exec_haltTick h hp hn rfl hk, hf, hr, hst⟩

section
variable (ha : (s.dev.part p).ann = some own) (hs : (s.dev.part p).state = .running) (hh : (s.dev.part p).halting = none)
include ha hs hh

theorem tick_fires (hq : (s.dev.proof p).phase ≠ .ordered) (ho : s.dev.outcome p own = .onTime) :
    let d := s.dev
    let x := d.part p
    let t := max d.time x.nextTick
    ∃ e, exec (.tick p) s = .next (s.withDev e) ∧ x.Fired (e.part p) (d.stepEnding p) t x.greatestM ∧
      (e.part p).nextTick = t + x.greatestM * d.period p ∧ (e.part p).state = .running ∧
      bit (e.hdr pgImpr).raw.toNat (8 * p) = true ∧ (d.stepEnding p = true → bit (e.hdr pgImpr).raw.toNat (8 * p + 1) = true) := by
  have he := tickAt_eq (cut := Dev.cutHook) ha hs hh
  rw [ho] at he
  obtain ⟨hf, hnt, hst, hb, hb', hk⟩ := fire_fires (d := s.dev.advanceTo (s.dev.part p).nextTick) hp hs hq he.symm
  exact ⟨_, exec_tick h hp hn rfl hk, hf, hnt, hst, hb, hb'⟩

theorem tick_rests (hq : (s.dev.proof p).phase ≠ .ordered) (ho : s.dev.outcome p own = .halt) (hc : s.dev.complete p = true) :
    let d := s.dev
    let x := d.part p
    ∃ e, exec (.tick p) s = .next (s.withDev e) ∧ x.Fired (e.part p) (d.stepEnding p) (max d.time x.nextTick) x.greatestM ∧
      (e.part p).run = false ∧ (e.part p).state = x.restState (!d.groupMet p) := by
  have he := tickAt_eq (cut := Dev.cutHook) ha hs hh
  rw [ho] at he
  dsimp only at he
  rw [if_pos hc] at he
  obtain ⟨hf, hr, hst, hk⟩ := fire_rests (d := s.dev.advanceTo (s.dev.part p).nextTick) hs hq he.symm
  exact ⟨_, exec_tick h hp hn rfl hk, hf, hr, hst⟩

theorem tick_waits (ho : s.dev.outcome p own = .halt) (hc : s.dev.complete p = false) :
    ∃ e, exec (.tick p) s = .next (s.withDev e) ∧
      e.part p = { s.dev.part p with
        halting := some (!s.dev.groupMet p), nextM := (s.dev.part p).greatestM, orders := (e.part p).orders } ∧
      s.dev.Kept e [.part p, .time] := by
  have he := tickAt_eq (cut := Dev.cutHook) ha hs hh
  rw [ho] at he
  dsimp only at he
  rw [if_neg (by simp [hc])] at he
  refine ⟨_, exec_tick h hp hn he rfl, ?_, ((kept_advanceTo _).mono (by simp)).seq ((kept_modPart _ _).mono (by simp))⟩
  rw [Dev.part_modPart_self]; rfl

theorem tick_defers (ho : s.dev.outcome p own = .defer) :
    let d := s.dev
    let x := d.part p
    ∃ e, exec (.tick p) s = .next (s.withDev e) ∧ e.time = max d.time x.nextTick ∧
      e.part p = { x with nextTick := x.nextTick + d.period p, d := x.d + 1, ann := none, rx := [], orders := (e.part p).orders } ∧
      e.reg pgImpr (0x150 + 0x80 * p) = sat 32 (d.reg pgImpr (0x150 + 0x80 * p) + 1) ∧
      e.hdr pgImpr = (d.hdr pgImpr).raised (8 * p + 2) ∧
      d.Kept e [.part p, .time, .reg pgImpr (0x150 + 0x80 * p), .hdr pgImpr] := by
  have he := tickAt_eq (cut := Dev.cutHook) ha hs hh
  rw [ho] at he
  dsimp only at he
  refine ⟨_, exec_tick h hp hn he (by rw [heldBy_raise, heldBy_bump, heldBy_modPart]; rfl), ?_, ?_, ?_, ?_, ?_⟩
  · rw [Dev.raise_time, Dev.bump_time]; rfl
  · rw [Dev.part_raise, Dev.part_bump, Dev.part_modPart_self]; rfl
  · rw [reg_raise (by omega) (by decide), reg_bump_self (by decide)]; rfl
  · rw [hdr_raise_self, hdr_bump]; rfl
  · exact (((kept_advanceTo _).mono (by simp)).seq ((kept_modPart _ _).mono (by simp))).seq
      (((kept_bump _ _ _ (by omega)).mono (by simp)).seq ((kept_raise _ _).mono (by simp)))

end
end

/-- Settles O25: with no proof ordered no cut begins at the tick, so that what it does is its new numbers and what follows them;
with no link holding flits nothing is delivered after it. -/
theorem ticking : Obligations.Ticking := by
  intro s p own h hp hn hq
  refine ⟨fun ha hs hh => ⟨tick_fires h hp hn ha hs hh hq, tick_defers h hp hn ha hs hh, tick_waits h hp hn ha hs hh,
    fun ho hc => ?_⟩, fun late => haltTick_rests h hp hn hq⟩
  obtain ⟨e, he, hf, hr, hst⟩ := tick_rests h hp hn ha hs hh hq ho hc
  exact ⟨e, he, hf, hr, by rw [hst, PartSt.restState, Bool.not_not]⟩

end Sys2Proof.Machine
end

section
/-!
PROOF. The compute blocks of a core at work: what a unit of work leaves alone, of the device and of the command it works on.
-/
namespace Sys2Proof.Machine

variable {d e f : Dev} {k seq : Nat} {c : CoreSt}

/-! ### Commands in flight -/

/-- What progress speaks of in a command: its descriptor, its units started and committed, its staged tiles and its error. -/
def Cmd.work (y : Cmd) : List Byte × Nat × Nat × List (Nat × Nat × Staged) × Option ErrRec :=
  (y.desc, y.pos, y.done, y.staged, y.err)

/-- The same of the command in flight that has a number. -/
def CoreSt.workOf (c : CoreSt) (seq : Nat) : Option (List Byte × Nat × Nat × List (Nat × Nat × Staged) × Option ErrRec) :=
  (c.cmd? seq).map Cmd.work

theorem work_eq_iff {y z : Cmd} :
    y.work = z.work ↔ y.desc = z.desc ∧ y.pos = z.pos ∧ y.done = z.done ∧ y.staged = z.staged ∧ y.err = z.err := by
  simp [Cmd.work]

theorem cmd?_seq {x : Cmd} (h : c.cmd? seq = some x) : x.seq = seq := by simpa using List.find?_some h

theorem cmd?_of_mem {x : Cmd} (h : x ∈ c.cmds) (hu : ∀ y ∈ c.cmds, y.seq = x.seq → y = x) : c.cmd? x.seq = some x := by
  unfold CoreSt.cmd?
  cases hf : c.cmds.find? (fun y => y.seq == x.seq) with
  | none => exact absurd (beq_self_eq_true x.seq) (List.find?_eq_none.1 hf x h)
  | some y => rw [hu y (List.mem_of_find?_eq_some hf) (by simpa using List.find?_some hf)]

/-- A change of one command that keeps its number is read back. -/
theorem cmd?_modCmd (g : Cmd → Cmd) (hg : ∀ y, y.seq = seq → (g y).seq = seq) (s : Nat) :
    (c.modCmd seq g).cmd? s = (c.cmd? s).map fun y => if y.seq == seq then g y else y := by
  simp only [CoreSt.cmd?, CoreSt.modCmd, List.find?_map]
  congr 2
  funext y
  simp only [Function.comp_apply]
  split
  · next h => rw [hg y (by simpa using h), eq_of_beq h]
  · rfl

theorem cmd?_modCmd_self (g : Cmd → Cmd) (hg : ∀ y, y.seq = seq → (g y).seq = seq) :
    (c.modCmd seq g).cmd? seq = (c.cmd? seq).map g := by
  rw [cmd?_modCmd g hg]
  cases h : c.cmd? seq with
  | none => rfl
  | some x => simp [cmd?_seq h]

theorem workOf_congr {c' : CoreSt} (h : c'.cmds = c.cmds) : c'.workOf seq = c.workOf seq := by
  simp only [CoreSt.workOf, CoreSt.cmd?, h]

theorem workOf_modCmd (g : Cmd → Cmd) (hg : ∀ y, (g y).seq = y.seq ∧ (g y).work = y.work) (s : Nat) :
    (c.modCmd seq g).workOf s = c.workOf s := by
  rw [CoreSt.workOf, cmd?_modCmd g fun y h => (hg y).1.trans h, CoreSt.workOf]
  cases c.cmd? s with
  | none => rfl
  | some x =>
    simp only [Option.map_some]
    split
    · rw [(hg x).2]
    · rfl

/-! ### Pages of a core -/

/-- A page of core k (R468). -/
def OwnPage (k pg : Nat) : Prop := pgOfCore k 0 ≤ pg ∧ pg ≤ pgOfCore k 7

theorem ownPage_pgOfCore {i : Nat} (h : i ≤ 7) : OwnPage k (pgOfCore k i) := by unfold OwnPage pgOfCore; omega

@[simp] theorem ownPage_core : OwnPage k (pgCore k) := ownPage_pgOfCore (by decide)
@[simp] theorem ownPage_fwd : OwnPage k (pgFwd k) := ownPage_pgOfCore (by decide)
@[simp] theorem ownPage_bwd : OwnPage k (pgBwd k) := ownPage_pgOfCore (by decide)
@[simp] theorem ownPage_row : OwnPage k (pgRow k) := ownPage_pgOfCore (by decide)
@[simp] theorem ownPage_gauge : OwnPage k (pgGauge k) := ownPage_pgOfCore (by decide)
@[simp] theorem ownPage_lane : OwnPage k (pgLane k) := ownPage_pgOfCore (by decide)

/-! ### Notes: registers, events and the core's own state -/

/-- What a unit touches as it notes what it did: the core, and the headers and registers of its pages. -/
def Place.notesOf (k : Nat) : Place → Bool
  | .core j => j == k
  | .hdr g | .reg g _ => decide (pgOfCore k 0 ≤ g ∧ g ≤ pgOfCore k 7)
  | _ => false

@[simp] theorem notesOf_hdr {g : Nat} : (Place.hdr g).notesOf k = true ↔ OwnPage k g := decide_eq_true_iff
@[simp] theorem notesOf_reg {g o : Nat} : (Place.reg g o).notesOf k = true ↔ OwnPage k g := decide_eq_true_iff

theorem computeOf_of_notesOf {x : Place} (h : x.notesOf k = true) : x.computeOf k = true := by
  cases x <;> simp_all [Place.notesOf, Place.computeOf]

/-- A core that noted something: its command's work, its count of staged tiles and the tags of its slots are as they were. -/
def CoreSt.Notes (c c' : CoreSt) (seq : Nat) : Prop :=
  c'.workOf seq = c.workOf seq ∧ c'.stamp = c.stamp ∧ ∀ i, (c'.slot i).tag = (c.slot i).tag

/-- From d to e the units of core k noted what they did, and no more: memory and copy-on-write are as they were. -/
structure Dev.Notes (d e : Dev) (k seq : Nat) : Prop where
  outside : d.KeptOutside e (Place.notesOf k)
  core : (d.core k).Notes (e.core k) seq
  cows : e.cows = d.cows

theorem CoreSt.Notes.refl (c : CoreSt) : c.Notes c seq := ⟨rfl, rfl, fun _ => rfl⟩

theorem Dev.Notes.refl (d : Dev) : d.Notes d k seq := ⟨.refl d, .refl _, rfl⟩

theorem Dev.Notes.trans (h : d.Notes e k seq) (h' : e.Notes f k seq) : d.Notes f k seq := by
  obtain ⟨h1, ⟨h2, h3, h4⟩, h5⟩ := h
  obtain ⟨h1', ⟨h2', h3', h4'⟩, h5'⟩ := h'
  exact ⟨h1.trans h1', ⟨h2'.trans h2, h3'.trans h3, fun i => (h4' i).trans (h4 i)⟩, h5'.trans h5⟩

theorem Dev.Notes.mem (h : d.Notes e k seq) : e.mem = d.mem := (h.outside .mem rfl).1
theorem Dev.Notes.ecc (h : d.Notes e k seq) : e.ecc = d.ecc := (h.outside .mem rfl).2
theorem Dev.Notes.stamp (h : d.Notes e k seq) : (e.core k).stamp = (d.core k).stamp := h.core.2.1

theorem notes_ite {p : Prop} [Decidable p] (h : p → d.Notes e k seq) (h' : ¬p → d.Notes f k seq) :
    d.Notes (if p then e else f) k seq := by
  split
  · exact h ‹_›
  · exact h' ‹_›

theorem notes_foldl {α : Type} (xs : List α) (g : Dev → α → Dev) (h : ∀ d x, Dev.Notes d (g d x) k seq) (d : Dev) :
    d.Notes (xs.foldl g d) k seq := by
  induction xs generalizing d with
  | nil => exact .refl d
  | cons x xs ih => exact (h d x).trans (ih _)

theorem notes_modCore (g : CoreSt → CoreSt) (h : (d.core k).Notes (g (d.core k)) seq) : d.Notes (d.modCore k g) k seq :=
  ⟨(kept_modCore k g).outside (by simp [Place.notesOf]), by rw [Dev.core_modCore_self]; exact h, rfl⟩

/-- A change of one command that its work does not show. -/
theorem notes_modCmd (g : Cmd → Cmd) (hg : ∀ y, (g y).seq = y.seq ∧ (g y).work = y.work) {s : Nat} :
    d.Notes (d.modCore k fun x => x.modCmd s g) k seq :=
  notes_modCore _ ⟨workOf_modCmd g hg seq, rfl, fun _ => rfl⟩

theorem tag_modSlot (i : Nat) (g : GSlot → GSlot) (hg : ∀ s, (g s).tag = s.tag) (j : Nat) :
    ((c.modSlot i g).slot j).tag = (c.slot j).tag := by
  simp only [CoreSt.slot, CoreSt.modSlot]
  rw [tget_tset]
  split
  · subst j; exact hg _
  · rfl

theorem notes_modSlot (i : Nat) (g : GSlot → GSlot) (hg : ∀ s, (g s).tag = s.tag) :
    d.Notes (d.modCore k fun x => x.modSlot i g) k seq :=
  notes_modCore _ ⟨rfl, rfl, tag_modSlot i g hg⟩

/-- Registers and headers of the core's own pages. -/
theorem notes_of_reports {xs : List Place} (hr : d.Reports e) (hk : d.Kept e xs) (hx : ∀ x ∈ xs, x.notesOf k = true) :
    d.Notes e k seq :=
  ⟨hk.outside hx, by rw [hr.core]; exact .refl _, hr.cows⟩

section
variable {pg : Nat} (hp : OwnPage k pg)
include hp

theorem notes_bump (off n : Nat) (ho : off < 4096) : d.Notes (d.bump pg off n) k seq :=
  notes_of_reports (reports_bump _ _ _) (kept_bump _ _ _ ho) (by simpa using hp)

theorem notes_bump64 (off n : Nat) (ho : off + 4 < 4096) : d.Notes (d.bump64 pg off n) k seq :=
  notes_of_reports (reports_bump64 _ _ _) (kept_bump64 _ _ _ ho) (by simpa using hp)

theorem notes_bumpHi (off n : Nat) (ho : off < 4096) : d.Notes (d.bumpHi pg off n) k seq :=
  notes_of_reports (reports_bumpHi _ _ _) (kept_bumpHi _ _ _ ho) (by simpa using hp)

theorem notes_bumpLo (off n : Nat) (ho : off < 4096) : d.Notes (d.bumpLo pg off n) k seq :=
  notes_of_reports (reports_bumpLo _ _ _) (kept_bumpLo _ _ _ ho) (by simpa using hp)

theorem notes_raiseIf (t : Bool) (b : Nat) : d.Notes (d.raiseIf t pg b) k seq :=
  notes_of_reports (reports_raiseIf _ _ _) (kept_raiseIf _ _ _) (by simpa using hp)

end

theorem notes_setLive (i s v : Nat) : d.Notes (d.setLive k i s v) k seq := notes_modCore _ (.refl _)

/-- Noting that a command started. -/
theorem notes_startCmd (x : Cmd) (live : Nat) : d.Notes (d.startCmd k x live) k seq := by
  unfold Dev.startCmd
  refine notes_ite (fun _ => .refl d) fun _ => Dev.Notes.trans ?_ (notes_setLive _ _ _)
  refine notes_modCore _ ⟨?_, rfl, fun _ => rfl⟩
  exact workOf_modCmd (fun y => { y with started := true, startTime := d.time }) (fun _ => ⟨rfl, rfl⟩) seq

theorem notes_countInvalid (t : Tile) (n : Nat) : d.Notes (d.countInvalid k t n) k seq :=
  notes_ite (fun _ => notes_modSlot _ _ fun _ => rfl) fun _ => .refl d

/-- Noting the invalid blocks of a tile (R115). -/
theorem notes_noteInvalid (s key : Nat) (t : Tile) (unread : List Nat) : d.Notes (d.noteInvalid k s key t unread) k seq := by
  unfold Dev.noteInvalid
  dsimp only
  split
  · exact .refl d
  · refine notes_ite (fun _ => .refl d) fun _ => Dev.Notes.trans ?_ (notes_countInvalid _ _)
    exact notes_modCmd (fun y => { y with invalidSeen := key :: y.invalidSeen }) fun _ => ⟨rfl, rfl⟩

theorem notes_noteNonfin (vals : List (List F32)) : d.Notes (d.noteNonfin k vals) k seq :=
  (notes_bump ownPage_bwd _ _ (by decide)).trans (notes_raiseIf ownPage_bwd _ _)

theorem notes_countDraws (draws jumps : Nat) : d.Notes (d.countDraws k draws jumps) k seq :=
  (notes_bump64 ownPage_lane _ _ (by decide)).trans (notes_bump ownPage_lane _ _ (by decide))

theorem notes_withRecast (g : Dev → Dev) (h : d.Notes (g d) k seq) : d.Notes (d.withRecast k g) k seq :=
  h.trans (notes_raiseIf ownPage_gauge _ _)

theorem notes_tapTile (x : Ext) (t : Tile) (es : List Nat) : d.Notes (d.tapTile k x t es) k seq :=
  notes_ite (fun _ => .refl d) fun _ => notes_modCore _ (.refl _)

/-! ### Work: notes, and writes of memory -/

/-- From d to e the compute blocks of core k worked: nothing but theirs and memory changed, and the work of the command is as it
was. -/
structure Dev.Works (d e : Dev) (k seq : Nat) : Prop where
  outside : d.KeptOutside e (Place.computeOf k)
  work : (e.core k).workOf seq = (d.core k).workOf seq

theorem Dev.Notes.works (h : d.Notes e k seq) : d.Works e k seq := ⟨h.outside.mono fun _ => computeOf_of_notesOf, h.core.1⟩

theorem Dev.Works.refl (d : Dev) : d.Works d k seq := ⟨.refl d, rfl⟩

theorem Dev.Works.trans (h : d.Works e k seq) (h' : e.Works f k seq) : d.Works f k seq :=
  ⟨h.outside.trans h'.outside, h'.work.trans h.work⟩

theorem works_ite {p : Prop} [Decidable p] (h : p → d.Works e k seq) (h' : ¬p → d.Works f k seq) :
    d.Works (if p then e else f) k seq := by
  split
  · exact h ‹_›
  · exact h' ‹_›

theorem works_foldl {α : Type} (xs : List α) (g : Dev → α → Dev) (h : ∀ d x, Dev.Works d (g d x) k seq) (d : Dev) :
    d.Works (xs.foldl g d) k seq := by
  induction xs generalizing d with
  | nil => exact .refl d
  | cons x xs ih => exact (h d x).trans (ih _)

/-- Places of the compute blocks beside the core. -/
theorem works_of_kept {xs : List Place} (hk : d.Kept e xs) (hx : ∀ x ∈ xs, x.computeOf k = true) (hc : .core k ∉ xs) :
    d.Works e k seq :=
  ⟨hk.outside hx, by rw [show e.core k = d.core k from hk (.core k) hc]⟩

theorem works_modCore (g : CoreSt → CoreSt) (h : (g (d.core k)).workOf seq = (d.core k).workOf seq) :
    d.Works (d.modCore k g) k seq :=
  ⟨(kept_modCore k g).outside (by simp [Place.computeOf]), by rw [Dev.core_modCore_self]; exact h⟩

theorem works_write (a : Nat) (bs : List Byte) : d.Works (d.write a bs) k seq :=
  works_of_kept (kept_write a bs) (by simp [Place.computeOf]) (by simp)

theorem works_writeAll (ws : List (Nat × List Byte)) : d.Works (d.writeAll ws) k seq :=
  works_foldl _ _ (fun _ _ => works_write _ _) d

theorem works_free : d.Works d.free.2 k seq := works_of_kept kept_free (by simp [Place.computeOf]) (by simp)

theorem works_ordersOf (j : Nat) : d.Works (d.ordersOf j) k seq :=
  works_of_kept (kept_ordersOf j) (by simp [Place.computeOf]) (by simp)

theorem pgHbmc_hbmPage {a : Nat} (h : a < ddrBase) : hbmPage (pgHbmc (stackOf a)) = true := by
  have : stackOf a < 205 := by unfold stackOf stackBytes; unfold ddrBase at h; omega
  simp only [hbmPage, pgHbmc, pgDie, Bool.and_eq_true, Bool.or_eq_true, beq_iff_eq]
  exact ⟨decide_eq_true (by omega), by omega⟩

theorem works_noteUncorr (u : Nat) : d.Works (d.noteUncorr u) k seq := by
  unfold Dev.noteUncorr
  refine works_ite (fun _ => works_of_kept (kept_bumpHi _ _ _ (by decide)) ?_ (by simp)) fun _ =>
    works_ite (fun h => ?_) fun _ => .refl d
  · simp [Place.computeOf, pgCore, pgOfCore]
  · have hb := pgHbmc_hbmPage h
    refine works_of_kept (((kept_bump _ _ _ (by decide)).trans (kept_setReg64 _ _ _ (by decide))).trans (kept_raise _ _)) ?_
      (by simp)
    simp [Place.computeOf, hb]

/-- An error of one of the core's own pages. -/
theorem works_setErr {x : ErrRec} (hx : OwnPage k x.page) : d.Works (d.setErr x) k seq := by
  have set (e : Dev) : e.Works (e.setError x.page x.code x.info0 x.info1) k seq := by
    refine works_of_kept (kept_setError _ _ _ _) ?_ (by simp)
    simp only [List.forall_mem_cons]
    exact ⟨computeOf_of_notesOf (notesOf_hdr.2 hx), by simp [Place.computeOf], rfl, nofun⟩
  unfold Dev.setErr
  split
  · exact (works_noteUncorr _).trans (set _)
  · exact set d

end Sys2Proof.Machine
end

section
/-!
PROOF. What units read: an error that a read ends with stands on a page of the core, and a read sees memory and the tags of the
slots alone.
-/
namespace Sys2Proof.Machine

variable {d e : Dev} {k s : Nat} {c : Cmd} {α β : Type}

/-! ### Results of a unit's reads -/

/-- An error is one of core k's own pages, and a value is as `Q` says. -/
def Gives (k : Nat) (Q : α → Prop) : Except ErrRec α → Prop
  | .error x => OwnPage k x.page
  | .ok a => Q a

/-- A read of core k: its errors are of the core's own pages. -/
abbrev Reads (k : Nat) (r : Except ErrRec α) : Prop := Gives k (fun _ => True) r

section
variable {Q : α → Prop} {r : Except ErrRec α}

theorem Gives.page {x : ErrRec} (h : Gives k Q r) (hr : r = .error x) : OwnPage k x.page := by subst hr; exact h
theorem Gives.value {a : α} (h : Gives k Q r) (hr : r = .ok a) : Q a := by subst hr; exact h

theorem Gives.imp {Q' : α → Prop} (h : Gives k Q r) (hi : ∀ a, Q a → Q' a) : Gives k Q' r := by
  cases r with
  | error x => exact h
  | ok a => exact hi a h

theorem gives_error {pg code i n : Nat} (hp : OwnPage k pg) : Gives k Q (.error (errOn pg code i n)) := hp

theorem gives_ite {p : Prop} [Decidable p] {r' : Except ErrRec α} (h : p → Gives k Q r) (h' : ¬p → Gives k Q r') :
    Gives k Q (if p then r else r') := by
  split
  · exact h ‹_›
  · exact h' ‹_›

end

/-! ### Tiles -/

theorem ownPage_uncorr {pg a n : Nat} {x : ErrRec} (hp : OwnPage k pg) (h : d.uncorr k pg c a n = some x) : OwnPage k x.page := by
  obtain ⟨u, -, rfl⟩ := Option.map_eq_some_iff.1 h
  split
  · exact ownPage_core
  · exact hp

theorem reads_readTile {q : TileReq} (hp : OwnPage k q.page) (i a : Nat) : Reads k (d.readTile k c q i a) := by
  unfold Dev.readTile
  dsimp only
  split
  · next h => exact ownPage_uncorr hp h
  refine gives_ite (fun _ => gives_error hp) fun _ => gives_ite (fun _ => gives_error hp) fun _ =>
    gives_ite (fun _ => gives_error hp) fun _ => ?_
  split
  · next h => exact ownPage_uncorr hp h
  refine gives_ite (fun _ => trivial) fun _ => gives_ite (fun _ => gives_error hp) fun _ => ?_
  split
  · next h => exact ownPage_uncorr hp h
  · exact gives_ite (fun _ => trivial) fun _ => gives_error hp

theorem reads_readRow_go {q : TileReq} (hp : OwnPage k q.page) (base stride first n : Nat) (ts : List Nat) (r : RowIn) :
    Reads k (Dev.readRow.go d k c q base stride first n ts r) := by
  induction ts generalizing r with
  | nil => trivial
  | cons t ts ih =>
    unfold Dev.readRow.go
    split
    · next h => exact (reads_readTile (q := { q with ts := some (d.hdrAt base).tscale }) hp _ _).page h
    · exact ih _

theorem reads_readRow {q : TileReq} (hp : OwnPage k q.page) (base stride first n : Nat) :
    Reads k (d.readRow k c q base stride first n) := by
  unfold Dev.readRow
  split
  · next h => exact (reads_readRow_go hp _ _ _ _ _ _).page h
  · trivial

theorem reads_readParam (base stride first n : Nat) : Reads k (d.readParam k c base stride first n) := by
  unfold Dev.readParam
  dsimp only
  split
  · next h => exact (reads_readRow ownPage_row _ _ _ _).page h
  · trivial

theorem reads_readX (base stride i cols : Nat) : Reads k (d.readX k c base stride i cols) := by
  unfold Dev.readX
  dsimp only
  split
  · next h => exact (reads_readTile ownPage_row _ _).page h
  · trivial

/-! ### Operands and results of a pass -/

theorem reads_readPass_go {m : Mx} {narrow : Bool} {pg extent i j : Nat} {qa qb : TileReq} {cols : Nat → Nat}
    (hp : OwnPage k pg) (ha : OwnPage k qa.page) (hb : OwnPage k qb.page) (bs : List Nat) (p : PassIn) :
    Reads k (Dev.readPass.go d k c m narrow pg extent i j qa qb cols bs p) := by
  induction bs generalizing p with
  | nil => trivial
  | cons b bs ih =>
    unfold Dev.readPass.go
    dsimp only
    split
    · next h => exact (reads_readTile ha _ _).page h
    refine gives_ite (fun _ => gives_error hp) fun _ => ?_
    split
    · next h => exact (reads_readTile hb _ _).page h
    exact gives_ite (fun _ => gives_error hp) fun _ => gives_ite (fun _ => gives_error hp) fun _ => ih _

theorem ownPage_array (narrow : Bool) : OwnPage k (if narrow then pgFwd k else pgBwd k) := by cases narrow <;> simp

theorem reads_readPass (u : Nat) : Reads k (d.readPass k c u) := by
  unfold Dev.readPass
  dsimp only
  split
  · next h => exact (reads_readPass_go (ownPage_array _) (ownPage_array _) (ownPage_array _) _ _).page h
  · split <;> trivial

theorem reads_longIn (u : Nat) (p : PassIn) : Reads k (d.longIn k c u p) := by
  unfold Dev.longIn
  dsimp only
  split
  · next h => exact ownPage_uncorr ownPage_fwd h
  · split
    · exact gives_error ownPage_fwd
    · trivial

theorem reads_wideIn {pg : Nat} (hp : OwnPage k pg) (code a room rows cols tag tileRow tileCol kTotal fmt kk : Nat)
    (own : List Entry) : Reads k (d.wideIn k pg code c a room rows cols tag tileRow tileCol kTotal fmt kk own) := by
  unfold Dev.wideIn
  dsimp only
  split
  · next h => exact ownPage_uncorr hp h
  split
  · next h => exact ownPage_uncorr hp h
  split
  · exact gives_error hp
  · trivial

theorem reads_displayRow_go {m : Mx} {x : Ext} {q : TileReq} (hp : OwnPage k q.page) (r : Nat) (bs : List Nat) :
    Reads k (Dev.displayRow.go d k c m x r q bs) := by
  induction bs with
  | nil => trivial
  | cons b bs ih =>
    unfold Dev.displayRow.go
    split
    · next h => exact (reads_readTile hp _ _).page h
    · split
      · next h => exact ih.page h
      · trivial

theorem reads_displayRow (m : Mx) (x : Ext) (r : Nat) : Reads k (d.displayRow k c m x r) := reads_displayRow_go ownPage_bwd _ _

theorem reads_narrowPass_cols (m : Mx) (x : Ext) (av : List (List ExpBlock × List Fl)) (qs : List (Nat × Nat)) :
    Reads k (Dev.narrowPass.cols d k c m x av qs) := by
  induction qs with
  | nil => trivial
  | cons q qs ih =>
    unfold Dev.narrowPass.cols
    split
    · next h => exact (reads_displayRow _ _ _).page h
    · split
      · next h => exact ih.page h
      · trivial

theorem reads_narrowPass (u : Nat) (p : PassIn) (v : Option (List (List Fl))) : Reads k (d.narrowPass k c u p v) := by
  unfold Dev.narrowPass
  dsimp only
  split
  · next h =>
    split at h
    · split at h
      · cases h
      · next h' => cases h; exact (reads_longIn _ _).page h'
    · cases h
  · split
    · next h => exact (reads_narrowPass_cols _ _ _ _).page h
    · exact gives_ite (fun _ => trivial) fun _ => trivial

theorem reads_widePass (u : Nat) (p : PassIn) (v : List (List Fl)) : Reads k (d.widePass k c u p v) := by
  unfold Dev.widePass
  dsimp only
  split
  · next h =>
    split at h
    · split at h
      · cases h
      · next h' => cases h; exact (reads_wideIn ownPage_bwd _ _ _ _ _ _ _ _ _ _ _ _).page h'
    · cases h
  · trivial

theorem reads_applyTile (i b : Nat) (t : Tile) (es : List Nat) : Reads k (d.applyTile k c i b t es) := by
  unfold Dev.applyTile
  dsimp only
  split
  · next h => exact (reads_readX _ _ _ _).page h
  · exact gives_ite (fun _ => gives_error ownPage_row) fun _ => gives_ite (fun _ => gives_error ownPage_row) fun _ =>
      gives_ite (fun _ => gives_error ownPage_row) fun _ => trivial

theorem reads_aValues_go {m : Mx} {x : Ext} {i : Nat} {first : Bool} {un : Tile → F32 → Fl} (ts : List (Nat × Tile × List Nat))
    (acc : List (List Fl)) (ws : List (Nat × List Byte)) : Reads k (Dev.aValues.go d k c m x i first un ts acc ws) := by
  induction ts generalizing acc ws with
  | nil => trivial
  | cons t ts ih =>
    unfold Dev.aValues.go
    dsimp only
    split
    · next h => exact (reads_applyTile _ _ _ _).page h
    · exact ih _ _

theorem reads_aValues (u : Nat) (p : PassIn) : Reads k (d.aValues k c u p) := reads_aValues_go _ _ _

theorem reads_epilogue (u : Nat) (p : PassIn) (tag : Nat) (z : List (List F32)) : Reads k (d.epilogue k c u p tag z) := by
  unfold Dev.epilogue
  dsimp only
  split
  · trivial
  · trivial
  · split
    · next h => exact (reads_readX _ _ _ _).page h
    · next h _ => exact (reads_readParam _ _ _ _).page h
    · exact gives_ite (fun _ => gives_error ownPage_row) fun _ => trivial
  · split
    · next h => exact (reads_readX _ _ _ _).page h
    · exact gives_ite (fun _ => gives_error ownPage_row) fun _ => trivial
  · split
    · next h =>
      split at h
      · cases h
      · exact (reads_readParam _ _ _ _).page h
    · trivial
  · trivial

/-- A sum over at least one source has a first tile. -/
theorem gives_addPass_go (u : Nat) (b : AddB) (xs : List (Nat × Nat × Nat)) (t0 : Option Tile) (acc : List (List F32))
    (h : xs ≠ [] ∨ t0.isSome = true) : Gives k (fun r => r.1.isSome = true) (Dev.addPass.go d k c u b xs t0 acc) := by
  induction xs generalizing t0 acc with
  | nil => exact h.resolve_left (· rfl)
  | cons x xs ih =>
    unfold Dev.addPass.go
    dsimp only
    split
    · next hr => exact (reads_readTile ownPage_bwd _ _).page hr
    · split
      · exact ih _ _ (.inr rfl)
      · exact gives_ite (fun _ => gives_error ownPage_bwd) fun _ => ih _ _ (.inr rfl)

/-! ### What a read depends on -/

/-- The command as it is once it has begun. -/
def Cmd.begun (c : Cmd) (b : Bool) (t : Nat) : Cmd := { c with started := b, startTime := t }

section
variable (h : d.Notes e k s) (b : Bool) (t : Nat)
include h

theorem read_notes (a n : Nat) : e.read a n = d.read a n := by unfold Dev.read Dev.heldWrites; rw [h.mem, h.cows]

theorem hdrAt_notes (a : Nat) : e.hdrAt a = d.hdrAt a := by unfold Dev.hdrAt; rw [read_notes h]

theorem readNat_notes (a n : Nat) : e.readNat a n = d.readNat a n := by unfold Dev.readNat; rw [read_notes h]

theorem uncorr_notes (pg a n : Nat) : e.uncorr k pg (c.begun b t) a n = d.uncorr k pg c a n := by
  unfold Dev.uncorr Dev.badAt Dev.badUnits Dev.heldWrites; rw [h.ecc, h.cows]; rfl

theorem readTile_notes (q : TileReq) (i a : Nat) : e.readTile k (c.begun b t) q i a = d.readTile k c q i a := by
  unfold Dev.readTile
  simp only [hdrAt_notes h, read_notes h, uncorr_notes h]
  rfl

theorem readPass_go_notes {m : Mx} {narrow : Bool} {pg extent i j : Nat} {qa qb : TileReq} {cols : Nat → Nat} (bs : List Nat)
    (p : PassIn) : Dev.readPass.go e k (c.begun b t) m narrow pg extent i j qa qb cols bs p =
      Dev.readPass.go d k c m narrow pg extent i j qa qb cols bs p := by
  induction bs generalizing p with
  | nil => rfl
  | cons x bs ih =>
    unfold Dev.readPass.go
    simp only [readTile_notes h, ih]
    rfl

theorem readPass_notes (u : Nat) : e.readPass k (c.begun b t) u = d.readPass k c u := by
  unfold Dev.readPass
  simp only [readPass_go_notes h, hdrAt_notes h]
  rfl

theorem passTag_notes : e.passTag k (c.begun b t) = d.passTag k c := by
  unfold Dev.passTag CoreSt.outTagOf; rw [h.core.2.2]; rfl

theorem longIn_notes (u : Nat) (p : PassIn) : e.longIn k (c.begun b t) u p = d.longIn k c u p := by
  unfold Dev.longIn
  simp only [uncorr_notes h, read_notes h, passTag_notes h]
  rfl

theorem displayRow_go_notes (m : Mx) (x : Ext) (r : Nat) (q : TileReq) (bs : List Nat) :
    Dev.displayRow.go e k (c.begun b t) m x r q bs = Dev.displayRow.go d k c m x r q bs := by
  induction bs with
  | nil => rfl
  | cons y bs ih => unfold Dev.displayRow.go; simp only [readTile_notes h, ih]

theorem displayRow_notes (m : Mx) (x : Ext) (r : Nat) : e.displayRow k (c.begun b t) m x r = d.displayRow k c m x r := by
  unfold Dev.displayRow; simp only [displayRow_go_notes h, hdrAt_notes h]

theorem narrowPass_cols_notes (m : Mx) (x : Ext) (av : List (List ExpBlock × List Fl)) (qs : List (Nat × Nat)) :
    Dev.narrowPass.cols e k (c.begun b t) m x av qs = Dev.narrowPass.cols d k c m x av qs := by
  induction qs with
  | nil => rfl
  | cons q qs ih => unfold Dev.narrowPass.cols; simp only [displayRow_notes h, ih]

theorem narrowPass_notes (u : Nat) (p : PassIn) (v : Option (List (List Fl))) :
    e.narrowPass k (c.begun b t) u p v = d.narrowPass k c u p v := by
  unfold Dev.narrowPass
  simp only [longIn_notes h, narrowPass_cols_notes h]
  rfl

theorem wideIn_notes (pg code a room rows cols tag tileRow tileCol kTotal fmt kk : Nat) (own : List Entry) :
    e.wideIn k pg code (c.begun b t) a room rows cols tag tileRow tileCol kTotal fmt kk own =
      d.wideIn k pg code c a room rows cols tag tileRow tileCol kTotal fmt kk own := by
  unfold Dev.wideIn
  simp only [uncorr_notes h, read_notes h, readNat_notes h]
  rfl

theorem widePass_notes (u : Nat) (p : PassIn) (v : List (List Fl)) : e.widePass k (c.begun b t) u p v = d.widePass k c u p v := by
  unfold Dev.widePass
  simp only [wideIn_notes h, passTag_notes h]
  rfl

end

end Sys2Proof.Machine
end

section
/-!
PROOF. What becomes of a staged tile (R105–R118, R160, R510), and statistics sets: the tile commits, or its error stands on a page
of the core.
-/
namespace Sys2Proof.Machine

variable {d e : Dev} {k s : Nat} {c : Cmd}

/-! ### A tile converted -/

/-- What a command makes of a staged tile (R173). -/
def Cmd.convOut (c : Cmd) (st : Staged) : ConvOut := convertTile { c.conv with key := { c.conv.key with tag := st.tag } } st

/-- Entries of the output sort list that a converted tile has (R510). -/
def ConvOut.listed (o : ConvOut) : List Nat := if o.tile.hdr.fmt = 1 then o.entries else []

/-- Entries a command has assigned so far (R510). -/
def CoreSt.sortUsedOf (q : CoreSt) (s : Nat) : Nat := match q.cmd? s with | some x => x.sortUsed | none => 0

/-- First entry of a converted tile in the sort list. -/
def Cmd.sortIndex (c : Cmd) (o : ConvOut) (used : Nat) : Nat :=
  if o.tile.hdr.fmt = 1 then (extOf c.desc c.ext).sortOutFirst + used else 0

/-- A converted tile with its place in the sort list. -/
def ConvOut.placed (o : ConvOut) (i : Nat) : Tile := { o.tile with hdr := { o.tile.hdr with sortIndex := i } }

/-- A converted tile at its destination, with its entries in the sort list (R510). -/
def Dev.putTile (d : Dev) (c : Cmd) (o : ConvOut) (i dest : Nat) : Dev :=
  (if o.listed = [] then d else d.write ((extOf c.desc c.ext).sortOut + 2 * i) (o.listed.flatMap (natLe 2))).write dest
    (o.placed i).bytes

/-- What is counted of a tile with its command: `n` entries of the sort list. -/
def Cmd.counted (st : Staged) (o : ConvOut) (n : Nat) (y : Cmd) : Cmd :=
  { y with sortUsed := y.sortUsed + n
           counts := { y.counts with tiles := y.counts.tiles.add o.counts, converted := y.counts.converted + st.rows * st.cols } }

/-- A tile that stands at its destination is counted with its command, its slot and its tap (R105–R118, R165). -/
def Dev.noteTile (d : Dev) (k : Nat) (c : Cmd) (st : Staged) (o : ConvOut) (t : Tile) (n : Nat) : Dev :=
  let d := if c.conv.draws then d.countDraws k 2048 64 else d
  let d := d.modCore k fun x => x.modCmd c.seq (Cmd.counted st o n)
  let d :=
    if c.conv.slotEn then
      let d := d.withRecast k fun d => d.modCore k fun x => x.modSlot c.conv.slot fun s => s.note st (some o)
      (((d.raiseIf (o.resets != 0) (pgGauge k) 1).raiseIf o.tileRecast (pgGauge k) 2).bump (pgGauge k) 0x114
        o.resets).bump (pgGauge k) 0x118 o.counts.recast
    else d
  d.tapTile k (extOf c.desc c.ext) t o.entries

theorem tag_note (x : GSlot) (st : Staged) (o : Option ConvOut) : (x.note st o).tag = x.tag := by cases o <;> rfl

theorem notes_noteTile (st : Staged) (o : ConvOut) (t : Tile) (n : Nat) : d.Notes (d.noteTile k c st o t n) k s := by
  unfold Dev.noteTile
  dsimp only
  refine Dev.Notes.trans ?_ (notes_tapTile _ _ _)
  have counted (e : Dev) : e.Notes (e.modCore k fun x => x.modCmd c.seq (Cmd.counted st o n)) k s :=
    notes_modCmd (Cmd.counted st o n) fun _ => ⟨rfl, rfl⟩
  have slot (e : Dev) : e.Notes (e.modCore k fun x => x.modSlot c.conv.slot fun s => s.note st (some o)) k s :=
    notes_modSlot _ _ fun _ => tag_note _ _ _
  have draws : d.Notes (if c.conv.draws then d.countDraws k 2048 64 else d) k s :=
    notes_ite (fun _ => notes_countDraws _ _) fun _ => .refl d
  refine (draws.trans (counted _)).trans ?_
  refine notes_ite (fun _ => ?_) fun _ => .refl _
  exact ((((notes_withRecast _ (slot _)).trans (notes_raiseIf ownPage_gauge _ _)).trans (notes_raiseIf ownPage_gauge _ _)).trans
    (notes_bump ownPage_gauge _ _ (by decide))).trans (notes_bump ownPage_gauge _ _ (by decide))

theorem noteTile_cmds (st : Staged) (o : ConvOut) (t : Tile) (n : Nat) :
    ((d.noteTile k c st o t n).core k).cmds = ((d.core k).modCmd c.seq (Cmd.counted st o n)).cmds := by
  have draws : (if c.conv.draws then d.countDraws k 2048 64 else d).core k = d.core k := by
    split
    · simp [Dev.countDraws]
    · rfl
  have tap (e : Dev) (x : Ext) : ((e.tapTile k x t o.entries).core k).cmds = (e.core k).cmds := by
    unfold Dev.tapTile; split
    · rfl
    · dsimp only; rw [Dev.core_modCore_self]; split <;> rfl
  unfold Dev.noteTile
  dsimp only
  rw [tap]
  split
  · simp only [Dev.core_bump, Dev.core_raiseIf, Dev.withRecast, Dev.core_modCore_self, draws]; rfl
  · rw [Dev.core_modCore_self, draws]

/-- A tile that has been converted commits (R105, R510), or its entries find no room in the sort list. -/
def Dev.commitOut (d : Dev) (k unit u : Nat) (c : Cmd) (st : Staged) (dest : Nat) (o : ConvOut) : Except ErrRec Dev :=
  let nd := o.tile.hdr.fmt == 1
  let n := if nd then o.entries.length else 0
  let idx := (extOf c.desc c.ext).sortOutFirst + (d.core k).sortUsedOf c.seq
  let t := o.placed (if nd then idx else 0)
  if n ≠ 0 ∧ (extOf c.desc c.ext).sortOutBound < (d.core k).sortUsedOf c.seq + n then
    .error (errOn (convPage k unit).1 ((convPage k unit).2 + 3) (tileInfo 2 u) c.seq)
  else
    .ok (((if n = 0 then d else d.write ((extOf c.desc c.ext).sortOut + 2 * idx) (o.entries.flatMap (natLe 2))).write dest
      t.bytes).noteTile k c st o t n)

theorem commitTile_eq (unit u : Nat) (st : Staged) (dest : Nat) :
    d.commitTile k unit u c st dest =
      if (d.core k).firstPass c then d.calibrationWrite k c st dest else d.commitOut k unit u c st dest (c.convOut st) := rfl

theorem commitOut_eq (unit u : Nat) (st : Staged) (dest : Nat) (o : ConvOut) :
    d.commitOut k unit u c st dest o =
      if o.listed ≠ [] ∧ (extOf c.desc c.ext).sortOutBound < (d.core k).sortUsedOf c.seq + o.listed.length then
        .error (errOn (convPage k unit).1 ((convPage k unit).2 + 3) (tileInfo 2 u) c.seq)
      else
        let i := c.sortIndex o ((d.core k).sortUsedOf c.seq)
        .ok ((d.putTile c o i dest).noteTile k c st o (o.placed i) o.listed.length) := by
  unfold Dev.commitOut Dev.putTile
  by_cases hn : o.tile.hdr.fmt = 1 <;> by_cases hz : o.entries = [] <;> simp [ConvOut.listed, Cmd.sortIndex, hn, hz]

theorem ownPage_convPage (unit : Nat) : OwnPage k (convPage k unit).1 := by
  unfold convPage; split
  · exact ownPage_fwd
  · exact ownPage_bwd
  · exact ownPage_row

theorem works_putTile (o : ConvOut) (i dest : Nat) : d.Works (d.putTile c o i dest) k s :=
  Dev.Works.trans (works_ite (fun _ => .refl d) fun _ => works_write _ _) (works_write _ _)

theorem gives_calibrationWrite (st : Staged) (dest : Nat) : Gives k (d.Works · k s) (d.calibrationWrite k c st dest) := by
  unfold Dev.calibrationWrite
  refine gives_ite (fun _ => gives_error ownPage_gauge) fun _ => ?_
  exact ((works_write _ _).trans (works_write _ _)).trans (works_modCore _ rfl)

theorem gives_commitTile (unit u : Nat) (st : Staged) (dest : Nat) :
    Gives k (d.Works · k s) (d.commitTile k unit u c st dest) := by
  rw [commitTile_eq]
  refine gives_ite (fun _ => gives_calibrationWrite _ _) fun _ => ?_
  rw [commitOut_eq]
  exact gives_ite (fun _ => gives_error (ownPage_convPage unit)) fun _ => (works_putTile _ _ _).trans (notes_noteTile _ _ _ _).works

/-! ### Slabs (R160, R161) -/

theorem works_modSlab (i : Nat) (g : Slab → Slab) : d.Works (d.modCore k fun x => x.modSlab i g) k s := works_modCore _ rfl

theorem gives_slabUpdate (x : Ext) (u : Nat) (st : Staged) : Gives k (d.Works ·.2 k s) (d.slabUpdate k c x u st) := by
  unfold Dev.slabUpdate
  dsimp only
  split
  · next h =>
    split at h
    · cases h
    · exact ownPage_uncorr ownPage_bwd h
  · exact Dev.Works.trans (works_write _ _) (works_modSlab _ _)

theorem gives_settleTile (unit u n : Nat) (st : Staged) (dest : Nat) :
    Gives k (d.Works · k s) (d.settleTile k unit u n c st dest) := by
  unfold Dev.settleTile
  refine gives_ite (fun _ => ?_) fun _ => gives_commitTile _ _ _ _
  have hs := gives_slabUpdate (d := d) (k := k) (s := s) (c := c) (extOf c.desc c.ext) n st
  split
  · next h => exact hs.page h
  · next st' e h =>
    have he : d.Works e k s := hs.value h
    split
    · exact (gives_commitTile unit u st' dest).imp fun _ => he.trans
    · exact he

theorem gives_commitAll (unit u : Nat) (ts : List (Nat × Staged × Nat)) : Gives k (d.Works · k s) (d.commitAll k unit u c ts) := by
  induction ts generalizing d with
  | nil => exact .refl d
  | cons t ts ih =>
    unfold Dev.commitAll
    have ht := gives_settleTile (d := d) (k := k) (s := s) (c := c) unit u t.1 t.2.1 t.2.2
    split
    · next h => exact ht.page h
    · next e h =>
      have he : d.Works e k s := ht.value h
      exact ih.imp fun _ => he.trans

/-! ### Statistics sets (R152) -/

theorem putStats_cmds (q : CoreSt) (i : Nat) (h : SetHdr) (ws : List (F32 × F32)) : (q.putStats i h ws).cmds = q.cmds :=
  foldl_unseen CoreSt.cmds (by intros; rfl) _ _

theorem works_putStats (i : Nat) (h : SetHdr) (ws : List (F32 × F32)) :
    d.Works (d.modCore k fun x => x.putStats i h ws) k s := works_modCore _ (workOf_congr (putStats_cmds _ _ _ _))

theorem works_transferSets (io addr first n : Nat) : d.Works (d.transferSets k io addr first n) k s := by
  refine works_foldl _ _ (fun e i => ?_) d
  refine works_ite (fun _ => ?_) fun _ => works_ite (fun _ => works_write _ _) fun _ => .refl e
  exact works_modCore _ (workOf_congr (putStats_cmds _ _ _ _))

/-! ### Partials (R99, R141, R153) -/

theorem gives_writePartial (u : Nat) (p : PassIn) (o : PassOut) : Gives k (d.Works · k s) (d.writePartial k c u p o) := by
  unfold Dev.writePartial
  refine gives_ite (fun _ => ?_) fun _ => gives_ite (fun _ => gives_error ownPage_core) fun _ => ?_
  · exact (works_write _ _).trans (notes_bumpHi ownPage_fwd _ _ (by decide)).works
  · exact (works_write _ _).trans (notes_bumpHi ownPage_bwd _ _ (by decide)).works

theorem gives_rowTerms (g : Nat) (r : RowIn) (total : Nat) (ta tb : List (List F32)) :
    Gives k (d.Works ·.2 k s) (d.rowTerms k c g r total ta tb) := by
  unfold Dev.rowTerms
  refine gives_ite (fun _ => .refl d) fun _ => ?_
  dsimp only
  split
  · next h =>
    split at h
    · split at h
      · cases h
      · next h' => cases h; exact (reads_wideIn ownPage_row _ _ _ _ _ _ _ _ _ _ _ _).page h'
    · cases h
  · next e h =>
    have he : e = d := by
      split at h
      · split at h
        · exact ((Prod.mk.inj (Prod.mk.inj (Prod.mk.inj (Except.ok.inj h)).2).2).2).symm
        · cases h
      · exact ((Prod.mk.inj (Prod.mk.inj (Prod.mk.inj (Except.ok.inj h)).2).2).2).symm
    subst he
    refine gives_ite (fun _ => gives_ite (fun _ => gives_error ownPage_core) fun _ => ?_) fun _ => .refl e
    exact works_write _ _

end Sys2Proof.Machine
end

section
/-!
PROOF. The row caster's groups (R152–R157, R188, R189).
-/
namespace Sys2Proof.Machine

variable {d e : Dev} {k s : Nat} {c : Cmd}

theorem notes_rowInvalid (operand first : Nat) (r : RowIn) : d.Notes (d.rowInvalid k c operand first r) k s :=
  notes_foldl _ _ (fun _ _ => notes_noteInvalid _ _ _ _) d

/-- A group of ROW.NORM.BWD leaves its sums and its parameter gradients. -/
theorem works_gatherGroup (i : Nat) (h : SetHdr) (ws : List (F32 × F32)) (g : Cmd → List (List (List F32))) :
    d.Works (d.modCore k fun x => (x.putStats i h ws).modCmd c.seq fun y => { y with gather := g y }) k s :=
  works_modCore _ ((workOf_modCmd (fun y => { y with gather := g y }) (fun _ => ⟨rfl, rfl⟩) s).trans
    (workOf_congr (putStats_cmds _ _ _ _)))

theorem gives_rowGroup (g : Nat) : Gives k (d.Works ·.2.2 k s) (d.rowGroup k c g) := by
  unfold Dev.rowGroup
  dsimp only
  split
  · next h => exact (reads_readRow ownPage_row _ _ _ _).page h
  next r hr =>
  split
  · next h =>
    split at h
    · exact (reads_readRow ownPage_row _ _ _ _).page h
    · cases h
  next r2 hr2 =>
  have noted {p : Prop} [Decidable p] {a b : Nat} : d.Works (if p then
      (d.rowInvalid k c 0 a r).rowInvalid k c 1 b r2 else d.rowInvalid k c 0 a r) k s :=
    works_ite (fun _ => ((notes_rowInvalid _ _ _).trans (notes_rowInvalid _ _ _)).works) fun _ => (notes_rowInvalid _ _ _).works
  split
  · split
    · next h => exact (reads_readParam _ _ _ _).page h
    · next h _ => exact (reads_readParam _ _ _ _).page h
    · exact noted.trans (works_putStats _ _ _)
  · refine gives_ite (fun _ => gives_error ownPage_row) fun _ => ?_
    split
    · next h => exact (reads_readParam _ _ _ _).page h
    split
    · next h => exact (gives_rowTerms (s := s) _ _ _ _ _).page h
    · next h => exact noted.trans ((gives_rowTerms _ _ _ _ _).value h)
    · next h =>
      exact (noted.trans ((gives_rowTerms _ _ _ _ _).value h)).trans (works_gatherGroup _ _ _ _)
  · exact noted.trans (works_putStats _ _ _)
  · refine gives_ite (fun _ => gives_error ownPage_row) fun _ => ?_
    split
    · next h => exact (gives_rowTerms (s := s) _ _ _ _ _).page h
    · next h => exact noted.trans ((gives_rowTerms _ _ _ _ _).value h)
    · next h => exact (noted.trans ((gives_rowTerms _ _ _ _ _).value h)).trans (works_putStats _ _ _)
  · split
    · next h =>
      split at h
      · cases h
      · exact (reads_readParam _ _ _ _).page h
    · exact noted

theorem gives_slabParams_go (x : Ext) (ts : List (Nat × Staged)) : Gives k (d.Works · k s) (Dev.slabParams.go k c x ts d) := by
  induction ts generalizing d with
  | nil => exact .refl d
  | cons t ts ih =>
    unfold Dev.slabParams.go
    have hs := gives_slabUpdate (d := d) (k := k) (s := s) (c := c) x t.1 t.2
    split
    · next h => exact hs.page h
    next st' e h =>
    have he : d.Works e k s := hs.value h
    split
    · have hc := gives_commitTile (d := e) (k := k) (s := s) (c := c) 2 t.1 st' (x.aux1 + t.1 * x.aux1Stride)
      split
      · next h' => exact hc.page h'
      · next h' => exact ih.imp fun _ => (he.trans (hc.value h')).trans
    · exact ih.imp fun _ => he.trans

theorem gives_slabParams (x : Ext) (tag n : Nat) : Gives k (d.Works · k s) (d.slabParams k c x tag n) := by
  unfold Dev.slabParams
  split
  · exact .refl d
  · exact gives_slabParams_go _ _

end Sys2Proof.Machine
end

section
/-!
PROOF. Progress of a command, and the passes of the arrays (R75, R91, R134, R140).
-/
namespace Sys2Proof.Machine

variable {d e f : Dev} {k s u : Nat} {c x : Cmd} {P : Cmd → Prop}

/-! ### Progress -/

/-- A command of core k in flight whose work is that of x. -/
def Dev.Holds (d : Dev) (k : Nat) (x : Cmd) : Prop := (d.core k).workOf x.seq = some x.work

/-- From d to e the compute blocks of core k worked on command x: it is in flight still, and as `P` says or ended by an error. -/
structure Dev.Makes (d e : Dev) (k : Nat) (x : Cmd) (P : Cmd → Prop) : Prop where
  outside : d.KeptOutside e (Place.computeOf k)
  cmd : ∃ y, (e.core k).cmd? x.seq = some y ∧ y.desc = x.desc ∧ (P y ∨ y.err.isSome = true)

theorem holds_iff : d.Holds k x ↔ ∃ y, (d.core k).cmd? x.seq = some y ∧ y.work = x.work := Option.map_eq_some_iff

theorem Dev.Holds.works (h : d.Holds k x) (hw : d.Works e k x.seq) : e.Holds k x := hw.work.trans h

theorem Dev.Makes.after (h : e.Makes f k x P) (hw : d.Works e k s) : d.Makes f k x P := ⟨hw.outside.trans h.outside, h.cmd⟩

theorem Dev.Makes.before (h : d.Makes e k x P) (ho : e.KeptOutside f (Place.computeOf k))
    (hc : (f.core k).cmds = (e.core k).cmds) : d.Makes f k x P := by
  obtain ⟨y, hy, hp⟩ := h.cmd
  exact ⟨h.outside.trans ho, y, by rw [CoreSt.cmd?, hc]; exact hy, hp⟩

theorem computeOf_modCore (g : CoreSt → CoreSt) : d.KeptOutside (d.modCore k g) (Place.computeOf k) :=
  (kept_modCore k g).outside (by simp [Place.computeOf])

/-- A command in flight is updated. -/
theorem makes_modCmd (h : d.Holds k x) (g : Cmd → Cmd) (hs : ∀ y, y.seq = x.seq → (g y).seq = x.seq)
    (hg : ∀ y, y.work = x.work → (g y).desc = x.desc ∧ (P (g y) ∨ (g y).err.isSome = true)) :
    d.Makes (d.modCore k fun z => z.modCmd x.seq g) k x P := by
  obtain ⟨y, hy, hw⟩ := holds_iff.1 h
  refine ⟨computeOf_modCore _, g y, ?_, hg y hw⟩
  rw [Dev.core_modCore_self, cmd?_modCmd_self g hs, hy]; rfl

theorem makes_workCmd (h : d.Holds k x) (g : Cmd → Cmd) (hs : ∀ y, y.seq = x.seq → (g y).seq = x.seq)
    (hg : ∀ y, y.work = x.work → (g y).desc = x.desc ∧ P (g y).settle) : d.Makes (d.workCmd k x.seq g) k x P :=
  makes_modCmd h (fun y => (g y).settle) hs fun y hy => ⟨(hg y hy).1, .inl (hg y hy).2⟩

theorem makes_failCmd (h : d.Holds k x) {r : ErrRec} (hr : OwnPage k r.page) : d.Makes (d.failCmd k x r) k x P :=
  (makes_modCmd (h.works (works_setErr hr)) (fun _ => { x with err := some r, complete := x.staged.isEmpty }) (fun _ _ => rfl)
    fun _ _ => ⟨rfl, .inr rfl⟩).after (works_setErr (seq := x.seq) hr)

theorem makes_failUnit (h : d.Holds k x) {r : ErrRec} (hr : OwnPage k r.page) : d.Makes (d.failUnit k x r) k x P :=
  (makes_modCmd (h.works (works_setErr hr)) (fun y => { y with err := some r, staged := [], complete := true }) (fun _ h => h)
    fun _ hy => ⟨(work_eq_iff.1 hy).1, .inr rfl⟩).after (works_setErr (seq := x.seq) hr)

/-! ### The parts of a pass -/

/-- The device as a pass begins: the first of a FUSED command loads the sets it names (R152). -/
def Dev.passBegun (d : Dev) (k : Nat) (c : Cmd) (u : Nat) : Dev :=
  let e := extOf c.desc c.ext
  if u = 0 ∧ dOp c.desc = 0x11 ∧ 1 ≤ e.epi ∧ e.epi ≤ 6 ∧ e.statsIo = 1 then
    d.transferSets k 1 e.aux2 e.stats (Mx.parse c.desc).mt
  else d

/-- The device once the invalid blocks of a pass's operands are counted (R115). -/
def Dev.passNoted (d : Dev) (k : Nat) (c : Cmd) (u : Nat) (p : PassIn) : Dev :=
  let m := Mx.parse c.desc
  let (i, j, h) := m.passAt u
  ((List.range p.a.length).zip (p.a.zip p.b)).foldl (fun d (b, ta, tb) =>
    (d.noteInvalid k c.seq (i * m.kb + b) ta.1 []).noteInvalid k c.seq (2 ^ 40 + 2 * (j * m.kb + b) + h) tb.1 (unreadB c j h)) d

/-- What a pass computes from its operands, and the dx tiles of an apply prologue (R156). -/
def Dev.passOut (d : Dev) (k : Nat) (c : Cmd) (u : Nat) (p : PassIn) : Except ErrRec (PassOut × List (Nat × List Byte)) :=
  let av : Except ErrRec (Option (List (List Fl)) × List (Nat × List Byte)) :=
    if c.applies then (match d.aValues k c u p with | .ok (v, ws) => .ok (some v, ws) | .error x => .error x)
    else .ok (none, [])
  match av with
  | .error x => .error x
  | .ok (v, ws) =>
    match if fmtNarrow (modesOf c.desc).fmtIn then d.narrowPass k c u p v
      else d.widePass k c u p (v.getD ((rowsOf p.a p.rows id).map (rowVals (Mx.parse c.desc).k))) with
    | .ok o => .ok (o, ws)
    | .error x => .error x

/-- A pass that runs on the F-array. -/
def Cmd.onF (c : Cmd) : Bool := fmtNarrow (modesOf c.desc).fmtIn && !c.onB

/-- Display columns of a pass (R97). -/
def Cmd.shownAt (c : Cmd) (u cols : Nat) : List Nat :=
  let (_, j, h) := (Mx.parse c.desc).passAt u
  (displayCols c (64 * j + 32 * h) cols).map (·.1)

/-- The F-array holds the registers and the escape entries of its last pass (R80, R81). -/
def Dev.passKept (d : Dev) (k : Nat) (c : Cmd) (p : PassIn) (o : PassOut) : Dev :=
  if c.onF then d.modCore k fun x => x.afterPass p (maskRegs p.rows p.cols o.regs) else d

/-- An array counts its pass. -/
def Dev.passTallied (d : Dev) (k : Nat) (c : Cmd) (u : Nat) (p : PassIn) (o : PassOut) : Dev :=
  if c.onF then
    (((d.bump64 (pgFwd k) 0x110 1).bump64 (pgFwd k) 0x118 o.blanks).bump (pgFwd k) 0x120 o.nonfin).raiseIf
      (o.nonfin != 0) (pgFwd k) 1 |>.bump (pgFwd k) 0x128 (b2n (c.onF && !(c.shownAt u p.cols).isEmpty))
  else if c.unit = 1 then d.bump64 (pgBwd k) 0x110 1 else d

/-- An incoming partial is counted (R99, R143). -/
def Dev.partialTallied (d : Dev) (k : Nat) (c : Cmd) : Dev :=
  if (modesOf c.desc).pIn then
    (if fmtNarrow (modesOf c.desc).fmtIn then d.bumpLo (pgFwd k) 0x12C 1 else d.bumpLo (pgBwd k) 0x128 1)
  else d

/-- The live counter follows a pass (R446). -/
def Dev.liveTallied (d : Dev) (k : Nat) (c : Cmd) (o : PassOut) : Dev :=
  match (d.core k).cmd? c.seq with
  | some y => if c.unit = 0 then d.setLive k 0 c.seq (y.counts.fMac + o.fMac) else d.setLive k 1 c.seq (y.counts.bMac + o.bMac)
  | none => d

/-- What the arrays keep and count of a pass. -/
def Dev.passCounted (d : Dev) (k : Nat) (c : Cmd) (u : Nat) (p : PassIn) (o : PassOut) : Dev :=
  (((d.passKept k c p o).passTallied k c u p o).partialTallied k c).liveTallied k c o

/-- What a command counts of a pass. -/
def PassOut.count (o : PassOut) (y : Cmd) : Cmd :=
  { y with counts := { y.counts with
    fMac := y.counts.fMac + o.fMac, fMacRecast := y.counts.fMacRecast + o.fMacRecast, bMac := y.counts.bMac + o.bMac
    kCount := max y.counts.kCount o.kCount } }

/-- The row terms that an epilogue of command c gathers from a pass (R156). -/
def Cmd.gathered (c : Cmd) (u tag tileRow : Nat) (ta tb : List (List F32)) (y : Cmd) : Cmd :=
  let e := extOf c.desc c.ext
  let (i, _, _) := (Mx.parse c.desc).passAt u
  if decide (1 ≤ e.epi ∧ e.epi ≤ 4) && dOp c.desc == 0x11 then
    let g := y.gather ++ List.replicate (2 * i + 2 - y.gather.length) []
    { y with gather := (g.set (2 * i) (appendTerms (g.getD (2 * i) []) ta)).set (2 * i + 1) (appendTerms (g.getD (2 * i + 1) []) tb)
             gatherId := setNth (y.gatherId ++ List.replicate (i + 1 - y.gatherId.length) (0, 0)) i (tag, tileRow) }
  else y

/-- The results of a pass become a partial, or a staged tile once the epilogue has worked on them. -/
def Dev.passEnds (d : Dev) (k : Nat) (c : Cmd) (u : Nat) (p : PassIn) (o : PassOut) (ws : List (Nat × List Byte)) : Dev :=
  let e := extOf c.desc c.ext
  if (modesOf c.desc).pOut then
    match d.writePartial k c u p o with
    | .error x => d.failCmd k c x
    | .ok d => (d.writeAll ws).workCmd k c.seq fun y => { o.count y with pos := u + 1, done := y.done + 1 }
  else
    let tag := d.passTag k c
    let z := rescalePass c u o.y
    match if dOp c.desc = 0x11 then d.epilogue k c u p tag z else .ok (z, [], []) with
    | .error x => d.failCmd k c x
    | .ok (vals, ta, tb) =>
      let d := d.noteNonfin k (if c.onF then vals.map fun row => (c.shownAt u p.cols).map fun x => row.getD x 0#32 else vals)
      let d := if dOp c.desc = 0x11 ∧ e.epi = 7 ∧ e.dropout then d.countDraws k (64 * p.cols) 64 else d
      d.stage k c u { rows := p.rows, cols := p.cols, vals, tag, tileRow := p.tileRow, tileCol := p.tileCol }
        fun y => { c.gathered u tag p.tileRow ta tb (o.count y) with dxTiles := y.dxTiles ++ ws.map fun w => (u, w) }

/-- A pass whose operands are read. -/
def Dev.passRest (d : Dev) (k : Nat) (c : Cmd) (u : Nat) (p : PassIn) : Dev :=
  if p.rows = 0 ∨ p.cols = 0 then d.workCmd k c.seq fun y => { y with pos := u + 1, done := y.done + 1 }
  else
    match d.passOut k c u p with
    | .error x => d.failCmd k c x
    | .ok (o, ws) => (d.passCounted k c u p o).passEnds k c u p o ws

theorem matrixPass_eq : d.matrixPass k c u =
    match (d.passBegun k c u).readPass k c u with
    | .error x => (d.passBegun k c u).failCmd k c x
    | .ok p => ((d.passBegun k c u).passNoted k c u p).passRest k c u p := rfl

/-! ### Progress of a pass -/

theorem works_passBegun : d.Works (d.passBegun k c u) k s := works_ite (fun _ => works_transferSets _ _ _ _) fun _ => .refl d

theorem notes_passNoted (p : PassIn) : d.Notes (d.passNoted k c u p) k s :=
  notes_foldl _ _ (fun _ _ => (notes_noteInvalid _ _ _ _).trans (notes_noteInvalid _ _ _ _)) d

theorem reads_passOut (p : PassIn) : Reads k (d.passOut k c u p) := by
  unfold Dev.passOut
  dsimp only
  split
  · next h =>
    split at h
    · split at h
      · cases h
      · next h' => cases h; exact (reads_aValues _ _).page h'
    · cases h
  · split
    · trivial
    · next h =>
      split at h
      · exact (reads_narrowPass _ _ _).page h
      · exact (reads_widePass _ _ _).page h

theorem notes_passKept (p : PassIn) (o : PassOut) : d.Notes (d.passKept k c p o) k s :=
  notes_ite (fun _ => notes_modCore _ ⟨rfl, rfl, fun _ => rfl⟩) fun _ => .refl d

theorem notes_passTallied (p : PassIn) (o : PassOut) : d.Notes (d.passTallied k c u p o) k s := by
  refine notes_ite (fun _ => ?_) fun _ => notes_ite (fun _ => notes_bump64 ownPage_bwd _ _ (by decide)) fun _ => .refl d
  exact ((((notes_bump64 ownPage_fwd _ _ (by decide)).trans (notes_bump64 ownPage_fwd _ _ (by decide))).trans
    (notes_bump ownPage_fwd _ _ (by decide))).trans (notes_raiseIf ownPage_fwd _ _)).trans (notes_bump ownPage_fwd _ _ (by decide))

theorem notes_partialTallied : d.Notes (d.partialTallied k c) k s :=
  notes_ite (fun _ => notes_ite (fun _ => notes_bumpLo ownPage_fwd _ _ (by decide)) fun _ => notes_bumpLo ownPage_bwd _ _ (by decide))
    fun _ => .refl d

theorem notes_liveTallied (o : PassOut) : d.Notes (d.liveTallied k c o) k s := by
  unfold Dev.liveTallied
  split
  · exact notes_ite (fun _ => notes_setLive _ _ _) fun _ => notes_setLive _ _ _
  · exact .refl d

theorem notes_passCounted (p : PassIn) (o : PassOut) : d.Notes (d.passCounted k c u p o) k s :=
  (((notes_passKept p o).trans (notes_passTallied p o)).trans notes_partialTallied).trans (notes_liveTallied o)

theorem gathered_keeps (tag tileRow : Nat) (ta tb : List (List F32)) (y : Cmd) :
    (c.gathered u tag tileRow ta tb y).work = y.work ∧ (c.gathered u tag tileRow ta tb y).seq = y.seq := by
  unfold Cmd.gathered
  dsimp only
  split <;> exact ⟨rfl, rfl⟩

/-- A result tile is staged: its unit of work counts as started. -/
theorem makes_stage (h : d.Holds k c) (hw : d.Works e k c.seq) (st : Staged) (g : Cmd → Cmd)
    (hg : ∀ y, (g y).work = y.work ∧ (g y).seq = y.seq) : d.Makes (e.stage k c u st g) k c (fun y => y.pos = u + 1) := by
  have hs : d.Works (e.modCore k fun x => { x with stamp := (e.core k).stamp + 1 }) k c.seq := hw.trans (works_modCore _ rfl)
  refine (makes_workCmd (P := fun y => y.pos = u + 1) (h.works hs) _ ?_ ?_).after hs
  · exact fun y hy => (hg y).2.trans hy
  · exact fun y hy => ⟨(work_eq_iff.1 (hg y).1).1.trans (work_eq_iff.1 hy).1, rfl⟩

theorem makes_passEnds (h : d.Holds k c) (p : PassIn) (o : PassOut) (ws : List (Nat × List Byte)) :
    d.Makes (d.passEnds k c u p o ws) k c (fun y => y.pos = u + 1) := by
  unfold Dev.passEnds
  dsimp only
  split
  · have hp := gives_writePartial (d := d) (k := k) (s := c.seq) (c := c) u p o
    split
    · next hr => exact makes_failCmd h (hp.page hr)
    · next e hr =>
      have hw : d.Works (e.writeAll ws) k c.seq := (hp.value hr : d.Works e k c.seq).trans (works_writeAll ws)
      refine (makes_workCmd (P := fun y => y.pos = u + 1) (h.works hw) _ ?_ ?_).after hw
      · exact fun _ hy => hy
      · exact fun y hy => ⟨(work_eq_iff.1 hy).1, rfl⟩
  · split
    · next hr =>
      split at hr
      · exact makes_failCmd h ((reads_epilogue _ _ _ _).page hr)
      · cases hr
    · have hn (vals : List (List F32)) {q : Prop} [Decidable q] : d.Works (if q then
          (d.noteNonfin k vals).countDraws k (64 * p.cols) 64 else d.noteNonfin k vals) k c.seq :=
        works_ite (fun _ => ((notes_noteNonfin _).trans (notes_countDraws _ _)).works) fun _ => (notes_noteNonfin _).works
      exact makes_stage h (hn _) _ _ fun y => gathered_keeps _ _ _ _ (o.count y)

theorem makes_matrixPass (h : d.Holds k c) : d.Makes (d.matrixPass k c u) k c (fun y => y.pos = u + 1) := by
  rw [matrixPass_eq]
  have hb : d.Works (d.passBegun k c u) k c.seq := works_passBegun
  refine Dev.Makes.after ?_ hb
  have h := h.works hb
  split
  · next hr => exact makes_failCmd h ((reads_readPass _).page hr)
  · next p hr =>
    have hn : (d.passBegun k c u).Works ((d.passBegun k c u).passNoted k c u p) k c.seq := (notes_passNoted p).works
    refine Dev.Makes.after ?_ hn
    have h := h.works hn
    unfold Dev.passRest
    split
    · exact makes_workCmd h _ (fun _ hy => hy) fun y hy => ⟨(work_eq_iff.1 hy).1, rfl⟩
    split
    · next hr => exact makes_failCmd h ((reads_passOut _).page hr)
    · next o ws _ =>
      have hc := (notes_passCounted (d := (d.passBegun k c u).passNoted k c u p) (k := k) (c := c) (u := u) (s := c.seq) p o).works
      exact (makes_passEnds (h.works hc) p o ws).after hc

/-! ### A tile of B.ADD (R140) -/

theorem makes_addPass (h : d.Holds k c) (hs : (extOf c.desc c.ext).srcs.take (AddB.parse c.desc).nsrc ≠ []) :
    d.Makes (d.addPass k c u) k c (fun y => y.pos = u + 1) := by
  have hz : (List.range ((extOf c.desc c.ext).srcs.take (AddB.parse c.desc).nsrc).length).zip
      ((extOf c.desc c.ext).srcs.take (AddB.parse c.desc).nsrc) ≠ [] := by
    intro hn
    exact hs (List.length_eq_zero_iff.1 (by simpa using congrArg List.length hn))
  have hgo := gives_addPass_go (d := d) (k := k) (c := c) u (AddB.parse c.desc) _ none [] (.inl hz)
  unfold Dev.addPass
  dsimp only
  split
  · next hr => exact makes_failCmd h (hgo.page hr)
  · next hr => exact absurd (hgo.value hr) (by simp)
  · have counted (n : Nat) (vals : List (List F32)) : d.Works ((d.bump64 (pgBwd k) 0x118 n).noteNonfin k vals) k c.seq :=
      ((notes_bump64 ownPage_bwd _ _ (by decide)).trans (notes_noteNonfin _)).works
    split
    · exact makes_stage h ((counted _ _).trans (notes_setLive _ _ _).works) _ _ fun _ => ⟨rfl, rfl⟩
    · exact makes_stage h (counted _ _) _ _ fun _ => ⟨rfl, rfl⟩

/-! ### PASS_START -/

/-- A command that its unit starts is in flight as it was, but for the note of its start. -/
theorem cmd?_startCmd (h : (d.core k).cmd? x.seq = some x) (live : Nat) :
    ∃ b t, ((d.startCmd k x live).core k).cmd? x.seq = some (x.begun b t) := by
  unfold Dev.startCmd
  split
  · exact ⟨x.started, x.startTime, h⟩
  · refine ⟨true, d.time, ?_⟩
    rw [Dev.setLive, Dev.core_modCore_self]
    change ((d.modCore k _).core k).cmd? x.seq = _
    rw [Dev.core_modCore_self]
    change (CoreSt.modCmd (d.core k) x.seq fun y => y.begun true d.time).cmd? x.seq = _
    rw [cmd?_modCmd_self (fun y => y.begun true d.time) fun _ hy => hy, h]
    rfl

end Sys2Proof.Machine
end

section
/-!
PROOF. PASS_START: the front command of an array does its next pass or tile (R74, R75, R91).
-/
namespace Sys2Proof.Machine

variable {d e : Dev} {k arr u : Nat} {c x : Cmd} {p : PassIn} {o : PassOut}

/-! ### A pass whose operands are in order -/

/-- A staged tile stands behind the command's others. -/
theorem stage_cmd (h : e.Holds k c) (st : Staged) (g : Cmd → Cmd) (hg : ∀ y, (g y).work = y.work ∧ (g y).seq = y.seq) :
    ∃ y, ((e.stage k c u st g).core k).cmd? c.seq = some y ∧ y.pos = u + 1 ∧ y.err = c.err ∧
      y.staged = c.staged ++ [((e.core k).stamp, u, st)] := by
  obtain ⟨y, hy, hw⟩ := holds_iff.1 h
  obtain ⟨-, -, -, hs, he⟩ := work_eq_iff.1 hw
  obtain ⟨-, -, -, -, he'⟩ := work_eq_iff.1 (hg y).1
  refine ⟨Cmd.settle { g y with pos := u + 1, staged := y.staged ++ [((e.core k).stamp, u, st)] }, ?_, rfl, he'.trans he,
    congrArg (· ++ _) hs⟩
  rw [Dev.stage, Dev.workCmd, Dev.core_modCore_self, cmd?_modCmd_self, Dev.core_modCore_self]
  · exact congrArg (Option.map _) hy
  · exact fun y hy => (hg y).2.trans hy

/-- A command that is no FUSED one computes its results from its operands alone (R75, R134). -/
theorem passOut_eq (ha : c.applies = false)
    (ho : (if fmtNarrow (modesOf c.desc).fmtIn then d.narrowPass k c u p none
      else d.widePass k c u p ((rowsOf p.a p.rows id).map (rowVals (Mx.parse c.desc).k))) = .ok o) :
    d.passOut k c u p = .ok (o, []) := by
  unfold Dev.passOut
  rw [if_neg (by simp [ha])]
  dsimp only
  rw [Option.getD_none, ho]

/-- What a pass of F.MATMUL or B.MATMUL computes is staged, rescaled (R90, R91). -/
theorem matrixPass_gives {b : Bool} {t : Nat} (hn : d.Notes e k x.seq) (h : d.PassGives k x p o)
    (hp : (modesOf x.desc).pOut = false) : ∃ f st g, e.matrixPass k (x.begun b t) x.pos = f.stage k (x.begun b t) x.pos st g ∧
      d.Notes f k x.seq ∧ (∀ y, (g y).work = y.work ∧ (g y).seq = y.seq) ∧
      st.rows = p.rows ∧ st.cols = p.cols ∧ st.vals = rescalePass x x.pos o.y := by
  obtain ⟨hop, hr, hrows, hcols, ho⟩ := h
  have hf : dOp x.desc ≠ 0x11 := by omega
  generalize hc : x.begun b t = c
  have hcf : dOp c.desc ≠ 0x11 := by subst hc; exact hf
  have hb : e.passBegun k c x.pos = e := if_neg fun h => hcf h.2.1
  have hr' : e.readPass k c x.pos = .ok p := by subst hc; rw [readPass_notes hn]; exact hr
  have hn1 : d.Notes (e.passNoted k c x.pos p) k x.seq := hn.trans (notes_passNoted p)
  have hn2 := hn1.trans (notes_passCounted (c := c) (u := x.pos) p o)
  have ho' : (e.passNoted k c x.pos p).passOut k c x.pos p = .ok (o, []) := by
    subst hc
    refine passOut_eq (by simp [Cmd.applies, hcf]) ?_
    rw [narrowPass_notes hn1, widePass_notes hn1]
    exact ho
  rw [matrixPass_eq, hb, hr']
  dsimp only
  rw [Dev.passRest, if_neg (by simp [hrows, hcols]), ho']
  dsimp only
  rw [Dev.passEnds, if_neg (by subst hc; exact Bool.eq_false_iff.1 hp)]
  dsimp only
  rw [if_neg hcf]
  dsimp only
  rw [if_neg fun h => hcf h.1]
  refine ⟨_, _, _, rfl, hn2.trans (notes_noteNonfin _), fun y => gathered_keeps _ _ _ _ (o.count y), rfl, rfl, ?_⟩
  subst hc; rfl

/-! ### The front command -/

section
variable (hf : (d.core k).front arr = some x) (ha : arr = 0 ∨ arr = 1)
  (hen : (d.hdr (if arr = 0 then pgFwd k else pgBwd k)).enable = true) (hh : arr = 1 → (d.core k).held = false)
  (hst : (d.core k).staging x.convUnit < if x.convUnit = 0 then 4 else 2) (hx : (d.core k).cmd? x.seq = some x)
include hf ha hen hh hst hx

/-- An array that may begin does the next pass of its front command, or the next tile of a sum. -/
theorem passStart_eq : ∃ e b t, d.Notes e k x.seq ∧ e.Holds k (x.begun b t) ∧ d.passStart k arr =
    if dOp x.desc = 0x19 then e.addPass k (x.begun b t) x.pos else e.matrixPass k (x.begun b t) x.pos := by
  have hw : d.Notes (if arr = 1 then d.modCore k fun z => { z with bWaits := false } else d) k x.seq :=
    notes_ite (fun _ => notes_modCore _ (.refl _)) fun _ => .refl d
  have hx1 : ((if arr = 1 then d.modCore k fun z => { z with bWaits := false } else d).core k).cmd? x.seq = some x := by
    split
    · rw [Dev.core_modCore_self]; exact hx
    · exact hx
  obtain ⟨b, t, hy⟩ := cmd?_startCmd hx1 arr
  refine ⟨_, b, t, hw.trans (notes_startCmd x arr), holds_iff.2 ⟨_, hy, rfl⟩, ?_⟩
  unfold Dev.passStart
  simp only [hf]
  rw [if_neg (by rw [hen]; simp; omega), if_neg (by simpa using hh), if_neg (by simpa using hst)]
  simp only [hy]
  rfl

theorem makes_passStart (hs : dOp x.desc = 0x19 → (extOf x.desc x.ext).srcs.take (AddB.parse x.desc).nsrc ≠ []) :
    d.Makes (d.passStart k arr) k x (fun y => y.pos = x.pos + 1) := by
  obtain ⟨e, b, t, hn, hh, heq⟩ := passStart_eq hf ha hen hh hst hx
  have hm : e.Makes (d.passStart k arr) k (x.begun b t) (fun y => y.pos = x.pos + 1) := by
    rw [heq]
    split
    · next hop => exact makes_addPass hh (hs hop)
    · exact makes_matrixPass hh
  exact ⟨hn.works.outside.trans hm.outside, hm.cmd⟩

theorem passStart_gives (hg : d.PassGives k x p o) (hp : (modesOf x.desc).pOut = false) :
    (d.passStart k arr).mem = d.mem ∧ ∃ y st, ((d.passStart k arr).core k).cmd? x.seq = some y ∧
      y.pos = x.pos + 1 ∧ y.err = x.err ∧ y.staged = x.staged ++ [((d.core k).stamp, x.pos, st)] ∧
      st.rows = p.rows ∧ st.cols = p.cols ∧ st.vals = rescalePass x x.pos o.y := by
  obtain ⟨e, b, t, hn, hh, heq⟩ := passStart_eq hf ha hen hh hst hx
  obtain ⟨f, st, g, hm, hnf, hgk, hrows, hcols, hvals⟩ := matrixPass_gives (b := b) (t := t) hn hg hp
  have hop : dOp x.desc ≠ 0x19 := by have := hg.1; omega
  rw [heq, if_neg hop, hm]
  have hhf : f.Holds k (x.begun b t) := hnf.core.1.trans (hn.core.1.symm.trans hh)
  obtain ⟨y, hy, hpos, herr, hsta⟩ := stage_cmd (u := x.pos) hhf st g hgk
  exact ⟨hnf.mem, y, st, hy, hpos, herr, hnf.stamp ▸ hsta, hrows, hcols, hvals⟩

end

end Sys2Proof.Machine
end

section
/-!
PROOF. TILE_CONVERT on the arrays' staged tiles (R117, R180).
-/
namespace Sys2Proof.Machine

variable {d e : Dev} {k s u h i n : Nat} {c x : Cmd} {st : Staged}

/-! ### Memory as writes see it -/

/-- What a write of memory depends on: memory, copy-on-write, and the registers of the HBM controllers. -/
def Place.storeOf : Place → Bool
  | .mem | .cow _ => true
  | .reg g _ => hbmPage g
  | _ => false

/-- Two devices whose memory and copy-on-write state agree. -/
def Dev.SameStore (d e : Dev) : Prop := ∀ p : Place, p.storeOf = true → p.Same d e

theorem Dev.SameStore.mem (h : d.SameStore e) : e.mem = d.mem := (h .mem rfl).1

theorem Dev.Notes.sameStore (h : d.Notes e k s) : d.SameStore e := by
  refine fun p hp => h.outside p ?_
  cases p <;> simp_all [Place.storeOf, Place.notesOf, hbmPage, pgOfCore]
  omega

/-- Equal updates of copy-on-write agree. -/
theorem Dev.SameStore.modCow (h : d.SameStore e) (i : Nat) (g : CowSt → CowSt) : (d.modCow i g).SameStore (e.modCow i g) := by
  intro p hp
  cases p with
  | cow j =>
    by_cases hj : j = i
    · subst hj
      change _ = _
      rw [Dev.cow_modCow_self, Dev.cow_modCow_self, show e.cow j = d.cow j from h (.cow j) rfl]
    · change _ = _
      rw [Dev.cow_modCow_ne _ _ _ hj, Dev.cow_modCow_ne _ _ _ hj]; exact h (.cow j) rfl
  | mem => exact h .mem rfl
  | reg g o => exact h (.reg g o) hp
  | _ => cases hp

theorem Dev.SameStore.poke (h : d.SameStore e) (a : Nat) (bs : List Byte) : (d.poke a bs).SameStore (e.poke a bs) := by
  intro p hp
  cases p with
  | cow j => exact h (.cow j) rfl
  | mem => exact ⟨congrArg (Memory.write · a bs) (h .mem rfl).1, congrArg (List.filter _) (h .mem rfl).2⟩
  | reg g o => exact h (.reg g o) hp
  | _ => cases hp

theorem Dev.SameStore.inReserve (h : d.SameStore e) {a : Nat} (ha : a < ddrBase) (p : Nat) :
    e.inReserve (stackOf a) p = d.inReserve (stackOf a) p := by
  have hr (o : Nat) (ho : o < 4096) : e.reg (pgHbmc (stackOf a)) o = d.reg (pgHbmc (stackOf a)) o :=
    h (.reg _ o) (pgHbmc_hbmPage ha) ho fun hg => by have := hg.1; simp [pgHbmc, pgDie, pgRailjor] at this; omega
  simp only [Dev.inReserve, hr _ (by decide : 0x184 < 4096), hr _ (by decide : 0x188 < 4096)]

theorem Dev.SameStore.ite {p : Prop} [Decidable p] {d' e' : Dev} (h : d.SameStore e) (h' : d'.SameStore e') :
    (if p then d else d').SameStore (if p then e else e') := by
  split
  · exact h
  · exact h'

/-- Equal writes of devices that agree agree (R349, R350). -/
theorem Dev.SameStore.write (h : d.SameStore e) (a : Nat) (bs : List Byte) : (d.write a bs).SameStore (e.write a bs) := by
  unfold Dev.write
  by_cases ha : a < ddrBase
  · rw [if_pos ha, if_pos ha]
    unfold Dev.writeHbm
    simp only [h.inReserve ha]
    have hd (ps : List Nat) (g : CowSt → CowSt) : (if ps.isEmpty then d else d.modCow (stackOf a) g).SameStore
        (if ps.isEmpty then e else e.modCow (stackOf a) g) := h.ite (h.modCow _ g)
    have hc := hd ((pagesOf a bs.length).filter fun p => !d.inReserve (stackOf a) p)
      (fun c => { c with dirty := ((pagesOf a bs.length).filter fun p => !d.inReserve (stackOf a) p).foldl PageSet.add c.dirty })
    rw [show Dev.cow _ _ = _ from hc (.cow (stackOf a)) rfl]
    exact (hc.modCow _ _).ite (hc.poke a bs)
  · rw [if_neg ha, if_neg ha]; exact h.poke a bs

theorem Dev.SameStore.writeAll (h : d.SameStore e) (ws : List (Nat × List Byte)) :
    (d.writeAll ws).SameStore (e.writeAll ws) := by
  induction ws generalizing d e with
  | nil => exact h
  | cons w ws ih => exact ih (h.write w.1 w.2)

theorem Dev.SameStore.putTile (h : d.SameStore e) (o : ConvOut) (j dest : Nat) :
    (d.putTile c o j dest).SameStore (e.putTile c o j dest) :=
  (h.ite (h.write _ _)).write dest _

theorem core_write (a : Nat) (bs : List Byte) (j : Nat) : (d.write a bs).core j = d.core j := kept_write a bs (.core j) (by simp)

theorem core_writeAll (ws : List (Nat × List Byte)) (j : Nat) : (d.writeAll ws).core j = d.core j :=
  foldl_unseen (Dev.core · j) (by intros; exact core_write _ _ _) ws d

theorem core_putTile (o : ConvOut) (j dest m : Nat) : (d.putTile c o j dest).core m = d.core m := by
  rw [Dev.putTile, core_write]
  split
  · rfl
  · exact core_write _ _ _

/-! ### The lane generators (R180) -/

/-- A holder may take the lane generators at once: it has them, or nobody does, waits for them, or comes before it. -/
def CoreSt.lanesFree (q : CoreSt) (h : Nat) : Prop :=
  q.laneHolder = h ∨ (q.laneHolder = 0 ∧ q.laneWait = [] ∧ q.lanesBefore h = [])

theorem takeLanes_free (hl : (d.core k).lanesFree h) : ∃ e, d.takeLanes k h = (e, true) ∧ d.Notes e k s ∧
    (e.core k).cmds = (d.core k).cmds ∧ (e.core k).slots = (d.core k).slots := by
  unfold Dev.takeLanes
  dsimp only
  by_cases hh : (d.core k).laneHolder = h
  · exact ⟨d, if_pos hh, .refl d, rfl, rfl⟩
  · obtain ⟨h0, hw, hb⟩ := hl.resolve_left hh
    rw [if_neg hh, if_pos (by simp [h0, hw, hb])]
    exact ⟨_, rfl, notes_modCore _ (.refl _), by rw [Dev.core_modCore_self], by rw [Dev.core_modCore_self]⟩

/-! ### The oldest staged tile -/

theorem oldest_mem {q : CoreSt} (ho : q.oldest u = some (x, n, i, st)) : x ∈ q.cmds := by
  have hm : ∀ r : Cmd × Nat × Nat × Staged, q.oldest u = some r → r.1 ∈ q.cmds := by
    refine List.foldlRecOn (motive := fun b => ∀ r : Cmd × Nat × Nat × Staged, b = some r → r.1 ∈ q.cmds) _ _ (by simp) ?_
    intro b hb y hy r hr
    have hy : y ∈ q.cmds := (List.mem_filter.1 hy).1
    split at hr
    · split at hr
      · split at hr
        · cases hr; exact hy
        · exact hb r hr
      · cases hr; exact hy
    · exact hb r hr
  exact hm _ ho

/-- A command whose oldest staged tile, of unit of work u, has been settled. -/
def Cmd.committed (u : Nat) (y : Cmd) : Cmd :=
  { y with staged := y.staged.tail, done := y.done + 1, dxTiles := y.dxTiles.filter fun w => w.1 != u }

/-- A converter settles a tile, and its command counts its unit committed. -/
def Dev.convertNext (d : Dev) (k unit : Nat) (c : Cmd) (u : Nat) (st : Staged) : Dev :=
  match d.settleTile k unit u u c st (c.destOf u) with
  | .error x => d.failUnit k c x
  | .ok d =>
    (d.writeAll ((c.dxTiles.filter fun w => w.1 == u).map (·.2))).workCmd k c.seq (Cmd.committed u)

/-- A converter whose turn it is settles its oldest tile, and lets the lane generators go where it took them. -/
theorem convertStaged_eq (ho : (d.core k).oldest u = some (x, n, i, st)) (hs : (d.core k).slabWaits x = false)
    (hl : (d.core k).drawsNow x = true → (d.core k).lanesFree (u + 1)) :
    ∃ e, d.Notes e k x.seq ∧ (e.core k).cmds = (d.core k).cmds ∧ (e.core k).slots = (d.core k).slots ∧
      (d.convertStaged k u = e.convertNext k u x i st ∨ d.convertStaged k u = (e.convertNext k u x i st).dropLanes k (u + 1)) := by
  unfold Dev.convertStaged
  simp only [ho, hs]
  cases hd : (d.core k).drawsNow x with
  | false => exact ⟨d, .refl d, rfl, rfl, .inl rfl⟩
  | true =>
    obtain ⟨e, he, hn, hc, hsl⟩ := takeLanes_free (s := x.seq) (hl hd)
    refine ⟨e, hn, hc, hsl, .inr ?_⟩
    simp only [he]
    rfl

theorem makes_convertNext (h : d.Holds k c) (u i : Nat) (st : Staged) :
    d.Makes (d.convertNext k u c i st) k c (fun y => y.done = c.done + 1 ∧ y.staged = c.staged.tail) := by
  have hg := gives_settleTile (d := d) (k := k) (s := c.seq) (c := c) u i i st (c.destOf i)
  unfold Dev.convertNext
  split
  · next hr => exact makes_failUnit h (hg.page hr)
  · next e hr =>
    have hw := (hg.value hr : d.Works e k c.seq).trans (works_writeAll ((c.dxTiles.filter fun w => w.1 == i).map (·.2)))
    refine (makes_workCmd (P := fun y => y.done = c.done + 1 ∧ y.staged = c.staged.tail) (h.works hw) _ ?_ ?_).after hw
    · exact fun _ hy => hy
    · intro y hy
      obtain ⟨hdesc, -, hdone, hsta, -⟩ := work_eq_iff.1 hy
      exact ⟨hdesc, congrArg (· + 1) hdone, congrArg List.tail hsta⟩

theorem makes_convertStaged (hx : (d.core k).cmd? x.seq = some x) (ho : (d.core k).oldest u = some (x, n, i, st))
    (hs : (d.core k).slabWaits x = false) (hl : (d.core k).drawsNow x = true → (d.core k).lanesFree (u + 1)) :
    d.Makes (d.convertStaged k u) k x (fun y => y.done = x.done + 1 ∧ y.staged = x.staged.tail) := by
  obtain ⟨e, hn, -, -, heq⟩ := convertStaged_eq ho hs hl
  have hm := (makes_convertNext ((holds_iff.2 ⟨x, hx, rfl⟩ : d.Holds k x).works hn.works) u i st).after hn.works
  rcases heq with heq | heq <;> rw [heq]
  · exact hm
  · exact hm.before (computeOf_modCore _) (by rw [Dev.dropLanes, Dev.core_modCore_self])

/-! ### A tile that commits -/

/-- A tile of a command that names no slab and is in no first pass of calibration stands converted at its destination, its entries
before it in the sort list, with the dx tiles of its unit (R105, R117, R510). -/
theorem convertNext_commits (hx : (d.core k).cmd? x.seq = some x) (hf : (d.core k).firstPass x = false)
    (hsl : slabTiles (dOp x.desc) (extOf x.desc x.ext) = false)
    (hr : (x.convOut st).listed = [] ∨ x.sortUsed + (x.convOut st).listed.length ≤ (extOf x.desc x.ext).sortOutBound) :
    (d.convertNext k u x i st).mem = ((d.putTile x (x.convOut st) (x.sortIndex (x.convOut st) x.sortUsed) (x.destOf i)).writeAll
      ((x.dxTiles.filter fun w => w.1 == i).map (·.2))).mem ∧
    ∃ y, ((d.convertNext k u x i st).core k).cmd? x.seq = some y ∧ y.done = x.done + 1 ∧ y.staged = x.staged.tail ∧
      y.err = x.err ∧ y.sortUsed = x.sortUsed + (x.convOut st).listed.length := by
  generalize hj : x.sortIndex (x.convOut st) x.sortUsed = j
  generalize hp : d.putTile x (x.convOut st) j (x.destOf i) = p
  have hu : (d.core k).sortUsedOf x.seq = x.sortUsed := by rw [CoreSt.sortUsedOf, hx]
  have hc : d.settleTile k u i i x st (x.destOf i) = .ok (p.noteTile k x st (x.convOut st) ((x.convOut st).placed j)
      (x.convOut st).listed.length) := by
    unfold Dev.settleTile
    rw [if_neg (by simp [hsl]), commitTile_eq, if_neg (by simp [hf]), commitOut_eq, hu, hj]
    exact (if_neg fun h => by have := hr.resolve_left h.1; omega).trans
      (congrArg (fun e => Except.ok (Dev.noteTile e _ _ _ _ _ _)) hp)
  generalize hws : ((x.dxTiles.filter fun w => w.1 == i).map (·.2)) = ws at *
  have hy : ((p.noteTile k x st (x.convOut st) ((x.convOut st).placed j) (x.convOut st).listed.length).core k).cmd? x.seq =
      some (Cmd.counted st (x.convOut st) (x.convOut st).listed.length x) := by
    rw [CoreSt.cmd?, noteTile_cmds, ← hp, core_putTile]
    exact (cmd?_modCmd_self (c := d.core k) (Cmd.counted st (x.convOut st) (x.convOut st).listed.length) fun _ hy => hy).trans
      (by rw [hx]; rfl)
  unfold Dev.convertNext
  simp only [hc, hws]
  refine ⟨?_, (Cmd.committed i (Cmd.counted st (x.convOut st) (x.convOut st).listed.length x)).settle, ?_, rfl, rfl, rfl, rfl⟩
  · exact ((notes_noteTile (k := k) (s := x.seq) _ _ _ _).sameStore.writeAll ws).mem
  · rw [Dev.workCmd, Dev.core_modCore_self, core_writeAll, cmd?_modCmd_self _ ?_, hy]
    · rfl
    · exact fun _ hy => hy

end Sys2Proof.Machine
end

section
/-!
PROOF. The row caster does its next unit of work (R152–R157, R173, R188, R189).
-/
namespace Sys2Proof.Machine

variable {d e : Dev} {k s g : Nat} {c x : Cmd}

/-! ### A tile of CONVERT (R129, R173) -/

theorem makes_convertStep (h : d.Holds k c) : d.Makes (d.convertStep k c) k c (fun y => y.pos = c.pos + 1) := by
  have done (e : Dev) (hw : d.Works e k c.seq) :
      d.Makes (e.workCmd k c.seq fun y => { y with pos := c.pos + 1, done := y.done + 1 }) k c (fun y => y.pos = c.pos + 1) :=
    (makes_workCmd (h.works hw) (fun y => { y with pos := c.pos + 1, done := y.done + 1 }) (fun _ hy => hy)
      fun y hy => ⟨(work_eq_iff.1 hy).1, rfl⟩).after hw
  unfold Dev.convertStep
  dsimp only
  split
  · next hr => exact makes_failCmd h ((reads_readTile ownPage_row _ _).page hr)
  split
  · next hr => exact makes_failUnit h ((gives_commitTile (s := c.seq) _ _ _ _).page hr)
  · next e hr =>
    have hw : d.Works e k c.seq := (gives_commitTile _ _ _ _).value hr
    split
    · exact (done e hw).before (computeOf_modCore _) (by rw [Dev.core_modCore_self]; rfl)
    · exact done e hw

/-! ### A row group -/

/-- The device as a row group begins: the first of a command loads the sets it names (R152). -/
def Dev.rowBegun (d : Dev) (k : Nat) (c : Cmd) : Dev :=
  let b := RowB.parse c.desc
  let e := extOf c.desc c.ext
  if c.pos = 0 ∧ rowStats (dOp c.desc) ∧ e.statsIo = 1 then d.free.2.transferSets k 1 e.aux2 b.stats b.rt else d.free.2

/-- The live counter of the row caster follows a group (R446). -/
def Dev.rowTallied (d : Dev) (k : Nat) (c : Cmd) (ops : Nat) : Dev :=
  let d := d.bump64 (pgRow k) 0x110 ops
  match (d.core k).cmd? c.seq with | some y => d.setLive k 2 c.seq (y.counts.rowOps + ops) | none => d

/-- A command one row group further. -/
def Cmd.rowDone (g ops converted : Nat) (y : Cmd) : Cmd :=
  { y with pos := g + 1, done := y.done + 1
           counts := { y.counts with rowOps := y.counts.rowOps + ops, converted := y.counts.converted + converted } }

/-- A row group ends. -/
def Dev.rowEnds (d : Dev) (k : Nat) (c : Cmd) (ops converted : Nat) : Dev :=
  (d.rowTallied k c ops).workCmd k c.seq (Cmd.rowDone c.pos ops converted)

/-- Non-finite results of the row caster are counted. -/
def Dev.rowNonfin (d : Dev) (k n : Nat) : Dev := (d.bump (pgRow k) 0x10C n).raiseIf (n != 0) (pgRow k) 1

/-- A row group of ROW.DRAW (R189). -/
def Dev.rowDrawStep (d : Dev) (k : Nat) (c : Cmd) (ops : Nat) : Dev :=
  let b := RowB.parse c.desc
  let e := extOf c.desc c.ext
  let q : TileReq :=
    { page := pgRow k, code := 0x05F0, operand := 0, fmtOk := operandTakes (modesOf c.desc).fmtIn false, sort := e.sortA
      bound := e.sortABound }
  match d.readRow k c q b.inAddr b.inStride (c.pos * b.tilesPerRow) b.n with
  | .error x => d.failCmd k c x
  | .ok r =>
    let d := d.rowInvalid k c 0 (c.pos * b.tilesPerRow) r
    let rows := if b.n = 0 then d.emptyRows else (r, d)
    let drawn := rows.2.drawGroup k c c.pos rows.1
    let d := if isZero b.param ∨ b.n = 0 then drawn.1 else drawn.1.countDraws k (64 * b.n) 64
    (d.rowNonfin k drawn.2).rowEnds k c ops rows.1.rows

/-- The result tiles of a row group with their numbers and destinations. -/
def Cmd.rowDests (c : Cmd) (ts : List Staged) : List (Nat × Staged × Nat) :=
  let b := RowB.parse c.desc
  ((List.range ts.length).zip ts).map fun (t, st) =>
    (c.pos * b.tilesPerRow + t, st, b.outAddr + (c.pos * b.tilesPerRow + t) * b.outStride)

/-- Results of a row group are counted, with their draws. -/
def Dev.rowCounted (d : Dev) (k : Nat) (c : Cmd) (vals : List (List F32)) : Dev :=
  let d := d.rowNonfin k ((vals.flatMap id).countP nonFin)
  if dOp c.desc = 0x25 ∧ (extOf c.desc c.ext).dropout then d.countDraws k (64 * (RowB.parse c.desc).n) 64 else d

/-- A row group of the other ROW commands: its results commit (R152–R157, R188). -/
def Dev.rowGroupStep (d : Dev) (k : Nat) (c : Cmd) (ops : Nat) : Dev :=
  let b := RowB.parse c.desc
  let o := modesOf c.desc
  let e := extOf c.desc c.ext
  match d.rowGroup k c c.pos with
  | .error x => d.failCmd k c x
  | .ok (_, none, d) => d.rowEnds k c ops 0
  | .ok (r, some vals, before) =>
    let d := before.rowCounted k c vals
    let slotTag := if o.slotEn then some ((d.core k).slot o.slot).tag else none
    match d.commitAll k 2 c.pos c (c.rowDests (rowStaged r slotTag vals)) with
    | .error x => before.failUnit k c x
    | .ok f =>
      let f := f.bump (pgRow k) 0x118 (f.resetTotal k - d.resetTotal k)
      match if c.pos + 1 == b.rt && dOp c.desc == 0x22 && e.slabEn then f.slabParams k c e (slotTag.getD r.tag) b.n else .ok f with
      | .error x => before.failUnit k c x
      | .ok f => f.rowEnds k c ops 0

theorem rowStep_eq : d.rowStep k c =
    if dOp c.desc = 0x26 then (d.rowBegun k c).rowDrawStep k c (d.free.1.toNat % 2 ^ 32)
    else (d.rowBegun k c).rowGroupStep k c (d.free.1.toNat % 2 ^ 32) := rfl

theorem works_rowBegun : d.Works (d.rowBegun k c) k s :=
  works_ite (fun _ => works_free.trans (works_transferSets _ _ _ _)) fun _ => works_free

theorem notes_rowTallied (ops : Nat) : d.Notes (d.rowTallied k c ops) k s := by
  have hb : d.Notes (d.bump64 (pgRow k) 0x110 ops) k s := notes_bump64 ownPage_row _ _ (by decide)
  unfold Dev.rowTallied
  dsimp only
  split
  · exact hb.trans (notes_setLive _ _ _)
  · exact hb

theorem notes_rowNonfin (n : Nat) : d.Notes (d.rowNonfin k n) k s :=
  (notes_bump ownPage_row _ _ (by decide)).trans (notes_raiseIf ownPage_row _ _)

theorem notes_rowCounted (vals : List (List F32)) : d.Notes (d.rowCounted k c vals) k s :=
  notes_ite (fun _ => (notes_rowNonfin _).trans (notes_countDraws _ _)) fun _ => notes_rowNonfin _

theorem makes_rowEnds (h : d.Holds k c) (hw : d.Works e k c.seq) (ops converted : Nat) :
    d.Makes (e.rowEnds k c ops converted) k c (fun y => y.pos = c.pos + 1) := by
  have ht : d.Works (e.rowTallied k c ops) k c.seq := hw.trans (notes_rowTallied ops).works
  exact (makes_workCmd (h.works ht) (Cmd.rowDone c.pos ops converted) (fun _ hy => hy)
    fun y hy => ⟨(work_eq_iff.1 hy).1, rfl⟩).after ht

theorem works_emptyRows : d.Works d.emptyRows.2 k s := works_free

theorem works_drawGroup (r : RowIn) : d.Works (d.drawGroup k c g r).1 k s := works_write _ _

theorem makes_rowDrawStep (h : d.Holds k c) (ops : Nat) : d.Makes (d.rowDrawStep k c ops) k c (fun y => y.pos = c.pos + 1) := by
  unfold Dev.rowDrawStep
  dsimp only
  split
  · next hr => exact makes_failCmd h ((reads_readRow ownPage_row _ _ _ _).page hr)
  next r _ =>
  have hr : d.Works (if (RowB.parse c.desc).n = 0 then (d.rowInvalid k c 0 (c.pos * (RowB.parse c.desc).tilesPerRow) r).emptyRows
      else (r, d.rowInvalid k c 0 (c.pos * (RowB.parse c.desc).tilesPerRow) r)).2 k c.seq := by
    split
    · exact (notes_rowInvalid _ _ _).works.trans works_emptyRows
    · exact (notes_rowInvalid _ _ _).works
  refine makes_rowEnds h (Dev.Works.trans ?_ (notes_rowNonfin _).works) _ _
  exact works_ite (fun _ => hr.trans (works_drawGroup _)) fun _ => (hr.trans (works_drawGroup _)).trans (notes_countDraws _ _).works

theorem makes_rowGroupStep (h : d.Holds k c) (ops : Nat) : d.Makes (d.rowGroupStep k c ops) k c (fun y => y.pos = c.pos + 1) := by
  have hg := gives_rowGroup (d := d) (k := k) (s := c.seq) (c := c) c.pos
  unfold Dev.rowGroupStep
  dsimp only
  split
  · next hr => exact makes_failCmd h (hg.page hr)
  · next hr => exact makes_rowEnds h (hg.value hr) _ _
  next r vals before hr =>
  have hb : d.Works before k c.seq := hg.value hr
  have hn : d.Works (before.rowCounted k c vals) k c.seq := hb.trans (notes_rowCounted vals).works
  have failed (x : ErrRec) (hx : OwnPage k x.page) : d.Makes (before.failUnit k c x) k c (fun y => y.pos = c.pos + 1) :=
    (makes_failUnit (h.works hb) hx).after hb
  split
  · next hc => exact failed _ ((gives_commitAll (s := c.seq) _ _ _).page hc)
  next f hc =>
  have hf (n : Nat) : d.Works (f.bump (pgRow k) 0x118 n) k c.seq :=
    (hn.trans ((gives_commitAll _ _ _).value hc)).trans (notes_bump ownPage_row _ _ (by decide)).works
  split
  · next hp =>
    split at hp
    · exact failed _ ((gives_slabParams (s := c.seq) _ _ _).page hp)
    · cases hp
  · next f' hp =>
    split at hp
    · exact makes_rowEnds h ((hf _).trans ((gives_slabParams _ _ _).value hp)) _ _
    · cases hp; exact makes_rowEnds h (hf _) _ _

theorem makes_rowStep (h : d.Holds k c) : d.Makes (d.rowStep k c) k c (fun y => y.pos = c.pos + 1) := by
  have hb : d.Works (d.rowBegun k c) k c.seq := works_rowBegun
  rw [rowStep_eq]
  split
  · exact (makes_rowDrawStep (h.works hb) _).after hb
  · exact (makes_rowGroupStep (h.works hb) _).after hb

/-! ### The front command of the row caster -/

theorem tag_modSlot_modCmd (c : CoreSt) {i : Nat} {g : GSlot → GSlot} {q : Nat} {f : Cmd → Cmd}
    (hg : ∀ s, (g s).tag = s.tag) (j : Nat) : (((c.modSlot i g).modCmd q f).slot j).tag = (c.slot j).tag :=
  tag_modSlot i g hg j

theorem notes_calibrateStart : d.Notes (d.calibrateStart k x) k s := by
  unfold Dev.calibrateStart
  dsimp only
  refine notes_modCore _ ⟨?_, rfl, ?_⟩
  · exact workOf_modCmd _ (by exact fun _ => ⟨rfl, rfl⟩) s
  · exact tag_modSlot_modCmd (d.core k) (by exact fun _ => rfl)

/-- A command as the row caster takes it up: a calibrated CONVERT takes its scale (R129), and its start is noted. -/
def Dev.rowTaken (d : Dev) (k : Nat) (x : Cmd) : Dev :=
  (if !x.started && dOp x.desc = 0x20 && (CvtB.parse x.desc).calibrated then d.calibrateStart k x else d).startCmd k x 2

/-- The row caster does the next unit of work of a command. -/
def Dev.rowUnit (d : Dev) (k : Nat) (x : Cmd) : Dev :=
  match ((d.rowTaken k x).core k).cmd? x.seq with
  | none => d.rowTaken k x
  | some y => if dOp y.desc = 0x20 then (d.rowTaken k x).convertStep k y else (d.rowTaken k x).rowStep k y

theorem notes_rowTaken : d.Notes (d.rowTaken k x) k s :=
  Dev.Notes.trans (notes_ite (fun _ => notes_calibrateStart) fun _ => .refl d) (notes_startCmd _ _)

theorem makes_rowUnit (h : d.Holds k x) : d.Makes (d.rowUnit k x) k x (fun y => y.pos = x.pos + 1) := by
  have hw : d.Works (d.rowTaken k x) k x.seq := notes_rowTaken.works
  obtain ⟨y, hy, hyw⟩ := holds_iff.1 (h.works hw)
  have hseq : y.seq = x.seq := cmd?_seq hy
  obtain ⟨hdesc, hpos, -⟩ := work_eq_iff.1 hyw
  have hh : (d.rowTaken k x).Holds k y := holds_iff.2 ⟨y, hseq ▸ hy, rfl⟩
  have hm : (d.rowTaken k x).Makes (d.rowUnit k x) k y (fun z => z.pos = y.pos + 1) := by
    unfold Dev.rowUnit
    simp only [hy]
    split
    · exact makes_convertStep hh
    · exact makes_rowStep hh
  refine ⟨hw.outside.trans hm.outside, ?_⟩
  rw [← hseq, ← hdesc, ← hpos]
  exact hm.cmd

/-- The row caster takes up its front command, and after a CONVERT lets the lane generators go. -/
theorem rowWork_eq (hf : (d.core k).rowFront = some x) (hen : (d.hdr (pgRow k)).enable = true)
    (hs : (d.core k).slabWaits x = false) (hl : ((d.core k).drawsNow x || rowDraws x) = true → (d.core k).lanesFree 3) :
    ∃ e, d.Notes e k x.seq ∧ d.rowWork k = if dOp x.desc = 0x20 then (e.rowUnit k x).dropLanes k 3 else e.rowUnit k x := by
  unfold Dev.rowWork
  simp only [hf, hen, hs]
  cases hd : (d.core k).drawsNow x || rowDraws x with
  | false => exact ⟨d, .refl d, rfl⟩
  | true =>
    obtain ⟨e, he, hn, -, -⟩ := takeLanes_free (s := x.seq) (hl hd)
    refine ⟨e, hn, ?_⟩
    simp only [he]
    rfl

theorem makes_rowWork (hf : (d.core k).rowFront = some x) (hen : (d.hdr (pgRow k)).enable = true)
    (hs : (d.core k).slabWaits x = false) (hl : ((d.core k).drawsNow x || rowDraws x) = true → (d.core k).lanesFree 3)
    (hx : (d.core k).cmd? x.seq = some x) : d.Makes (d.rowWork k) k x (fun y => y.pos = x.pos + 1) := by
  obtain ⟨e, hn, heq⟩ := rowWork_eq hf hen hs hl
  have hm := (makes_rowUnit ((holds_iff.2 ⟨x, hx, rfl⟩ : d.Holds k x).works hn.works)).after hn.works
  rw [heq]
  split
  · exact hm.before (computeOf_modCore _) (by rw [Dev.dropLanes, Dev.core_modCore_self])
  · exact hm

end Sys2Proof.Machine
end

section
/-!
PROOF. PASS_START and TILE_CONVERT get work done.
-/
namespace Sys2Proof.Machine

variable {s : State} {d : Dev} {k arr u n i : Nat} {x : Cmd} {st : Staged} {P : Cmd → Prop}

theorem exec_passStart (h : s.CoreRuns k) (ha : arr = 0 ∨ arr = 1) :
    exec (.passStart k arr) s = .next (s.withDev ((s.dev.passStart k arr).ordersOf k)) :=
  runIf_onCore h (decide_eq_true (by omega)) fun d => d.passStart k arr

theorem exec_tileConvert (h : s.CoreRuns k) (hu : u < 3) :
    exec (.tileConvert k u) s = .next (s.withDev ((s.dev.tileConvert k u).ordersOf k)) :=
  runIf_onCore h (decide_eq_true hu) fun d => d.tileConvert k u

theorem mem_ordersOf (k : Nat) : (d.ordersOf k).mem = d.mem := (ordersOf_same (x := .mem) k (by simp)).1

theorem tileConvert_array (hu : u = 0 ∨ u = 1) : d.tileConvert k u = d.convertStaged k u := if_pos hu

/-- A step of core k that makes progress on x does so in the state. -/
theorem progress_of_makes {c : Instr} {e : Dev} (he : exec c s = .next (s.withDev (e.ordersOf k))) (h : s.dev.Makes e k x P) :
    ∃ e y, exec c s = .next (s.withDev e) ∧ (e.core k).cmd? x.seq = some y ∧ y.desc = x.desc ∧ (P y ∨ y.err.isSome = true) ∧
      s.dev.KeptOutside e (Place.computeOf k) := by
  have hm := h.before (works_ordersOf (seq := x.seq) k).outside (by rw [core_ordersOf])
  obtain ⟨y, hy, hd, hp⟩ := hm.cmd
  exact ⟨_, y, he, hy, hd, hp, hm.outside⟩

/-- A tile of a command without a slab, in no first pass of calibration, commits in the state. -/
theorem convertStaged_commits (hx : (d.core k).cmd? x.seq = some x) (ho : (d.core k).oldest u = some (x, n, i, st))
    (hs : (d.core k).slabWaits x = false) (hl : (d.core k).drawsNow x = true → (d.core k).lanesFree (u + 1))
    (hf : (d.core k).firstPass x = false) (hsl : slabTiles (dOp x.desc) (extOf x.desc x.ext) = false)
    (hr : (x.convOut st).listed = [] ∨ x.sortUsed + (x.convOut st).listed.length ≤ (extOf x.desc x.ext).sortOutBound) :
    (d.convertStaged k u).mem = ((d.putTile x (x.convOut st) (x.sortIndex (x.convOut st) x.sortUsed) (x.destOf i)).writeAll
      ((x.dxTiles.filter fun w => w.1 == i).map (·.2))).mem ∧
    ∃ y, ((d.convertStaged k u).core k).cmd? x.seq = some y ∧ y.done = x.done + 1 ∧ y.staged = x.staged.tail ∧
      y.err = x.err ∧ y.sortUsed = x.sortUsed + (x.convOut st).listed.length := by
  obtain ⟨e, hn, hc, hslots, heq⟩ := convertStaged_eq ho hs hl
  have hx' : (e.core k).cmd? x.seq = some x := by rw [CoreSt.cmd?, hc]; exact hx
  have hf' : (e.core k).firstPass x = false := by
    rw [← hf, CoreSt.firstPass, CoreSt.firstPass, CoreSt.slot, CoreSt.slot, hslots]
  obtain ⟨hmem, y, hy, hrest⟩ := convertNext_commits (u := u) (i := i) (st := st) hx' hf' hsl hr
  have hm := hmem.trans ((hn.sameStore.putTile _ _ _).writeAll _).mem
  rcases heq with heq | heq <;> rw [heq]
  · exact ⟨hm, y, hy, hrest⟩
  · exact ⟨hm, y, by rw [Dev.dropLanes, Dev.core_modCore_self]; exact hy, hrest⟩

/-- Settles O9: a unit of work notes what it did, writes memory, and at its end moves its command one unit on or ends it with an
error of the core's own pages. -/
theorem computeProgress : Obligations.ComputeProgress := by
  intro s k x hk q lanes did huniq
  have known (hx : x ∈ q.cmds) : (s.dev.core k).cmd? x.seq = some x := cmd?_of_mem hx huniq
  refine ⟨fun arr hf ha hen hh hst hsrc => ?_, fun u n i st hu ho hs hl => ?_, fun u n i st hu ho hs hl hfp hsl => ?_,
    fun hf hen hs hl => ?_⟩
  · have hx := known (List.mem_of_find?_eq_some hf)
    refine ⟨progress_of_makes (exec_passStart hk ha) (makes_passStart hf ha hen hh hst hx hsrc), fun p o hg hp => ?_⟩
    obtain ⟨hmem, y, st, hy, hpos, herr, hsta, hst'⟩ := passStart_gives hf ha hen hh hst hx hg hp
    refine ⟨_, y, st, exec_passStart hk ha, ?_, hpos, herr, hsta, hst'.1, hst'.2.1, hst'.2.2, ?_⟩
    · rw [core_ordersOf]; exact hy
    · rw [mem_ordersOf, hmem]
  · refine progress_of_makes (exec_tileConvert hk (by omega)) ?_
    rw [tileConvert_array hu]
    exact makes_convertStaged (known (oldest_mem ho)) ho hs hl
  · intro b o es hr idx tile sorted
    obtain ⟨hmem, y, hy, hdone, hsta, herr, hused⟩ := convertStaged_commits (known (oldest_mem ho)) ho hs hl hfp hsl hr
    refine ⟨_, y, exec_tileConvert hk (by omega), ?_, hdone, hsta, herr, hused, ?_⟩
    · rw [core_ordersOf, tileConvert_array hu]; exact hy
    · rw [mem_ordersOf, tileConvert_array hu, hmem]; rfl
  · exact progress_of_makes (exec_tileConvert hk (by decide)) (makes_rowWork hf hen hs hl (known (List.mem_of_find?_eq_some hf)))

end Sys2Proof.Machine
end

section
/-!
PROOF. What a collective computes of two units: the order of FP32 values under MAX, and each combination's refusal and result.
-/
namespace Sys2Proof.Machine

/-! ### The order of values -/

/-- Two finite values are compared at the smaller exponent, which is the same whichever comes first. -/
theorem flLt_asymm {x y : Fl} (h : flLt x y = true) : flLt y x = false := by
  cases x with
  | nan => cases h
  | inf a =>
    cases y with
    | nan => cases h
    | inf b => simp_all [flLt]
    | fin b n f => simp_all [flLt]
  | fin a m e =>
    cases y with
    | nan => cases h
    | inf b => simp_all [flLt]
    | fin b n f =>
      simp only [flLt, decide_eq_true_eq, decide_eq_false_iff_not, not_lt] at h ⊢
      rw [min_comm f e]
      exact h.le

theorem flt_asymm {x y : F32} (h : flt x y = true) : flt y x = false := flLt_asymm h

theorem flt_irrefl (x : F32) : flt x x = false := by
  cases h : flt x x with
  | false => rfl
  | true => exact h.symm.trans (flt_asymm h)

/-! ### MAX -/

theorem maxWord_nan {x y : F32} (h : isNan x = true ∨ isNan y = true) : maxWord x y = fnan :=
  if_pos ((Bool.or_eq_true _ _).mpr h)

section
variable {x y : F32} (hx : isNan x = false) (hy : isNan y = false)
include hx hy

theorem maxWord_number : maxWord x y = if flt x y then y else if flt y x then x else if bit x.toNat 31 then y else x := by
  rw [maxWord, hx, hy]; rfl

/-- MAX of two words one of which is above the other is that one. -/
theorem maxWord_of_flt (h : flt x y = true) : maxWord x y = y ∧ maxWord y x = y := by
  rw [maxWord_number hx hy, maxWord_number hy hx, h, flt_asymm h]; exact ⟨rfl, rfl⟩

/-- Between two words neither of which is above the other (equal values, or the two zeros) the first one's sign decides. -/
theorem maxWord_of_not_flt (h : flt x y = false) (h' : flt y x = false) : maxWord x y = x ∨ maxWord x y = y := by
  rw [maxWord_number hx hy, h, h']
  cases bit x.toNat 31 with
  | true => exact .inr rfl
  | false => exact .inl rfl

theorem maxWord_greatest :
    (maxWord x y = x ∨ maxWord x y = y) ∧ flt (maxWord x y) x = false ∧ flt (maxWord x y) y = false := by
  cases hxy : flt x y with
  | true =>
    rw [(maxWord_of_flt hx hy hxy).1]
    exact ⟨.inr rfl, flt_asymm hxy, flt_irrefl y⟩
  | false =>
    cases hyx : flt y x with
    | true =>
      rw [(maxWord_of_flt hy hx hyx).2]
      exact ⟨.inl rfl, flt_irrefl x, hxy⟩
    | false =>
      have hm := maxWord_of_not_flt hx hy hxy hyx
      refine ⟨hm, ?_⟩
      rcases hm with hm | hm <;> rw [hm]
      · exact ⟨flt_irrefl x, hxy⟩
      · exact ⟨hyx, flt_irrefl y⟩
end

/-- Table 11-7: the positive zero is the larger of the two, whichever comes first. -/
theorem maxWord_zeros : maxWord 0x80000000#32 0#32 = 0#32 ∧ maxWord 0#32 0x80000000#32 = 0#32 := by decide

/-! ### Two units (Table 11-7) -/

section
variable {fmt : Nat} {inc own : List Byte}

/-- The FP32 tile of the sums of two stored tiles, of the second one's name and extent. -/
def sumTile (a b : Tile) : Tile :=
  { b.asFp32 with
    codes := (inExtent b.hdr (List.zipWith (List.zipWith fadd) a.values b.values)).map fun r => r.map BitVec.toNat }

theorem combineUnit_sum_refused (h : sameTile (Tile.parse inc).hdr (Tile.parse own).hdr = false ∨ (Tile.parse own).hdr.fmt ≠ fmt) :
    combineUnit 0 fmt inc own = .error 0x0A43 :=
  if_pos (by simpa using h)

theorem combineUnit_sum (hs : sameTile (Tile.parse inc).hdr (Tile.parse own).hdr = true) (hf : (Tile.parse own).hdr.fmt = fmt) :
    combineUnit 0 fmt inc own = .ok (sumTile (Tile.parse inc) (Tile.parse own)).bytes :=
  if_neg (by simp [hs, hf])

theorem combineUnit_long_refused (h : (LongPartial.parse inc).typ ≠ 0x4C ∨ (LongPartial.parse inc).ver ≠ 1) :
    combineUnit 2 fmt inc own = .error 0x0A42 :=
  if_pos (h.imp_right .inl)

theorem combineUnit_wide_refused (h : (WidePartial.parse inc).typ ≠ 0x57 ∨ (WidePartial.parse inc).ver ≠ 1) :
    combineUnit 3 fmt inc own = .error 0x0A42 :=
  if_pos (h.imp_right .inl)

theorem combineUnit_gauge_refused (h : field inc 0 4 ≠ field own 0 4 ∨ field inc 0x0C 2 % 512 ≠ field own 0x0C 2 % 512) :
    combineUnit 4 fmt inc own = .error 0x0A43 :=
  if_pos h
end

/-- Settles O36: the order of values is asymmetric, so that MAX is below neither word; every other combination first tests what the
units name themselves, and SUM's tile is what it gives when the test passes. -/
theorem collCombines : Obligations.CollCombines := by
  intro fmt inc own a b
  exact ⟨rfl, fun x y => ⟨maxWord_nan, maxWord_greatest, maxWord_zeros⟩, combineUnit_sum_refused,
    fun hs hf => ⟨sumTile a b, combineUnit_sum hs hf, rfl, rfl⟩, combineUnit_long_refused, combineUnit_wide_refused,
    combineUnit_gauge_refused⟩

end Sys2Proof.Machine
end

section
/-!
PROOF. Writes of a core's pages (R131, R168, R206, R224): the gate to them, the Gauge's slots, and the windows of the slots, slabs,
taps and list entries.
-/
namespace Sys2Proof.Machine

variable {s : State} {d : Dev} {k i off : Nat} {w : Word}

/-! ### Pages of a core -/

theorem pageType_pgOfCore (hk : k < numCores) (hi : i < 8) : pageType (pgOfCore k i) = 0x20 + i := by
  have hr : 0x20000 ≤ pgOfCore k i ∧ pgOfCore k i < 0x22400 := by unfold numCores at hk; unfold pgOfCore; omega
  unfold pageType; rw [if_pos hr]; unfold pgOfCore; omega

theorem core_of_pgOfCore (hi : i < 8) : (pgOfCore k i - 0x20000) / 8 = k := by unfold pgOfCore; omega

theorem pageInstance_pgOfCore (hk : k < numCores) (hi : i < 8) : pageInstance (pgOfCore k i) = k := by
  rw [pageInstance, pageType_pgOfCore hk hi, core_of_pgOfCore hi]
  interval_cases i <;> rfl

theorem pageLive_pgOfCore (h : s.CoreRuns k) (hi : i < 8) : s.dev.pageLive (pgOfCore k i) = true := by
  obtain ⟨-, hk, hl⟩ := h
  simp [Dev.pageLive, pageType_pgOfCore hk hi, core_of_pgOfCore hi, hl]

/-- The pages of the hub lie below those of the cores. -/
theorem pgOfCore_ne_of_lt {pg : Nat} (h : pg < 0x20000) : pgOfCore k i ≠ pg := by unfold pgOfCore; omega

/-- A write of a block-specific register of a core that runs. -/
theorem run_busWrite_core (h : s.CoreRuns k) (hi : i < 8) (ha : off % 4 = 0) (hlo : 0x100 ≤ off) (hhi : off < 0x1000) :
    (s.run fun c => c.busWrite (pgOfCore k i) off w) = .next (s.written (s.dev.writePage {} (pgOfCore k i) off w)) := by
  refine run_busWrite_page h.1 (pageLive_pgOfCore h hi) ?_ ha hlo hhi
  simp only [List.mem_cons, List.not_mem_nil, or_false, not_or]
  exact ⟨pgOfCore_ne_of_lt (by decide), pgOfCore_ne_of_lt (by decide), pgOfCore_ne_of_lt (by decide),
    pgOfCore_ne_of_lt (by decide)⟩

theorem writePage_core (hk : k < numCores) : d.writePage {} (pgCore k) off w = d.writeCore k off w := by
  unfold Dev.writePage; rw [pgCore, pageType_pgOfCore hk (by decide), pageInstance_pgOfCore hk (by decide)]; rfl

theorem writePage_bwd (hk : k < numCores) : d.writePage {} (pgBwd k) off w = d.writeBwd k off w := by
  unfold Dev.writePage; rw [pgBwd, pageType_pgOfCore hk (by decide), pageInstance_pgOfCore hk (by decide)]; rfl

theorem writePage_gauge (hk : k < numCores) : d.writePage {} (pgGauge k) off w = d.writeGauge k off w := by
  unfold Dev.writePage; rw [pgGauge, pageType_pgOfCore hk (by decide), pageInstance_pgOfCore hk (by decide)]; rfl

/-- A write that ends as an error of a core's page is refused with its code, and changes nothing else. -/
theorem refused_of_setError {c : Instr} {code i0 i1 : Nat}
    (h : exec c s = .next (s.written (s.dev.setError (pgOfCore k i) code i0 i1))) :
    ∃ e, exec c s = .next (s.written e) ∧ (e.hdr (pgOfCore k i)).errCode = code ∧
      s.dev.Kept e [.hdr (pgOfCore k i), .hdr pgDbg, .log] :=
  ⟨_, h, errCode_setError _ _ _ (pgOfCore_ne_of_lt (by decide)), kept_setError _ _ _ _⟩

/-! ### Slots of the Gauge -/

theorem slot_modSlot (c : CoreSt) (i j : Nat) (f : GSlot → GSlot) :
    (c.modSlot i f).slot j = if j = i then f (c.slot j) else c.slot j := by
  rw [CoreSt.slot, CoreSt.modSlot, tget_tset]
  split
  · next h => rw [h]
  · rfl

theorem core_putSlot (x : GSlot) : (d.putSlot k i x).core k = (d.core k).modSlot i fun _ => x := by
  rw [Dev.putSlot, Dev.core_raiseIf, Dev.core_modCore_self]

theorem slot_putSlot (x : GSlot) (j : Nat) : ((d.putSlot k i x).core k).slot j = if j = i then x else (d.core k).slot j := by
  rw [core_putSlot, slot_modSlot]

theorem kept_putSlot (x : GSlot) : d.Kept (d.putSlot k i x) [.core k, .hdr (pgGauge k)] :=
  ((kept_modCore _ _).mono (by simp)).seq ((kept_raiseIf _ _ _).mono (by simp))

theorem core_withRecast (f : Dev → Dev) (j : Nat) : (d.withRecast k f).core j = (f d).core j := Dev.core_raiseIf _ _ _ _ _

theorem kept_withRecast {xs : List Place} (f : Dev → Dev) (h : d.Kept (f d) xs) (hx : .hdr (pgGauge k) ∈ xs) :
    d.Kept (d.withRecast k f) xs := h.seq ((kept_raiseIf _ _ _).mono (by simpa using hx))

/-! ### The slot window (R131) -/

theorem slotWindow_inUse (h : (d.core k).slotInUse (d.reg (pgGauge k) 0x104 % 512) = true) :
    ∃ i0, d.slotWindow k off w = d.setError (pgGauge k) 0x0302 i0 0 := ⟨_, if_pos h⟩

section
variable (h : (d.core k).slotInUse (d.reg (pgGauge k) 0x104 % 512) = false)
include h

theorem slotWindow_illegal {o : Nat} (hb : (d.core k).slotBad (d.reg (pgGauge k) 0x104 % 512)
      (((d.core k).slot (d.reg (pgGauge k) 0x104 % 512)).setWord off w) off off = some o) :
    ∃ i0, d.slotWindow k off w = d.setError (pgGauge k) 0x0304 i0 0 :=
  ⟨_, by simp only [Dev.slotWindow, h, hb]; rfl⟩

theorem slotWindow_legal (hb : (d.core k).slotBad (d.reg (pgGauge k) 0x104 % 512)
      (((d.core k).slot (d.reg (pgGauge k) 0x104 % 512)).setWord off w) off off = none) :
    d.slotWindow k off w = d.withRecast k fun e => e.putSlot k (d.reg (pgGauge k) 0x104 % 512)
      (((d.core k).slot (d.reg (pgGauge k) 0x104 % 512)).setWord off w) := by
  simp only [Dev.slotWindow, h, hb]; rfl
end

theorem exec_gaugeWindowWrite (h : s.CoreRuns k) (hw : isSlotWindow off = true) :
    exec (.gaugeWindowWrite k off w) s = .next (s.written (s.dev.slotWindow k (off - 0x200) w)) := by
  have hr : (0x200 ≤ off ∧ off < 0x2C0) ∧ off % 4 = 0 := by simpa [isSlotWindow] using hw
  obtain ⟨⟨hlo, hhi⟩, ha⟩ := hr
  calc exec (.gaugeWindowWrite k off w) s
    _ = s.runIf (isSlotWindow off) fun c => c.busWrite (pgGauge k) off w := rfl
    _ = s.run fun c => c.busWrite (pgGauge k) off w := by rw [hw]; rfl
    _ = .next (s.written (s.dev.writePage {} (pgGauge k) off w)) :=
      run_busWrite_core h (by decide) ha (by omega) (by omega)
    _ = _ := by rw [writePage_gauge h.2.1, Dev.writeGauge, if_neg (by omega), Dev.gaugeWindowWrite, if_pos hw]

/-! ### Slabs and taps (R168) -/

theorem slabClr_refused (hgo : bit w.toNat 0 = true) (h : (d.core k).namesSlab (d.slabSel k) = true) :
    ∃ i0, d.slabClr k w = d.setError (pgBwd k) 0x0402 i0 0 := ⟨_, by rw [Dev.slabClr, if_neg (by simp [hgo]), if_pos h]; rfl⟩

theorem slabClr_clears (hgo : bit w.toNat 0 = true) (h : (d.core k).namesSlab (d.slabSel k) = false) :
    d.slabClr k w = d.modCore k fun c => c.modSlab (d.slabSel k) fun x => { x with nonfin := false, filled := false, count := 0 } := by
  rw [Dev.slabClr, if_neg (by simp [hgo]), if_neg (by simp [h])]

theorem tapClr_refused (hgo : bit w.toNat 0 = true) (h : (d.core k).namesTap (d.tapSel k) = true) :
    ∃ i0, d.tapClr k w = d.setError (pgBwd k) 0x0402 i0 0 := ⟨_, by rw [Dev.tapClr, if_neg (by simp [hgo]), if_pos h]; rfl⟩

theorem tapClr_clears (hgo : bit w.toNat 0 = true) (h : (d.core k).namesTap (d.tapSel k) = false) :
    d.tapClr k w = d.modCore k fun c => c.modTap (d.tapSel k) fun x => { x with mb := 0#64, acc := 0#64, n := 0 } := by
  rw [Dev.tapClr, if_neg (by simp [hgo]), if_neg (by simp [h])]

theorem exec_slabClr (h : s.CoreRuns k) : exec (.slabClr k w) s = .next (s.written (s.dev.slabClr k w)) :=
  (run_busWrite_core (i := 2) h (by decide) rfl (by decide) (by decide)).trans (by rw [← pgBwd, writePage_bwd h.2.1]; rfl)

theorem exec_tapClr (h : s.CoreRuns k) : exec (.tapClr k w) s = .next (s.written (s.dev.tapClr k w)) :=
  (run_busWrite_core (i := 2) h (by decide) rfl (by decide) (by decide)).trans (by rw [← pgBwd, writePage_bwd h.2.1]; rfl)

/-! ### List entries (R206, R224) -/

/-- A list entry with the word at `off` of the CORE page written: CFG or RANGE, and IDLE again. -/
def ListSt.entryWritten (x : ListSt) (off : Nat) (w : Word) : ListSt :=
  if off % 16 = 0 then { cfg := w &&& 0x8F0003FF#32, range := x.range } else { cfg := x.cfg, range := w &&& 0x03FFFFFF#32 }

theorem ofNat_toNat_and (w : Word) (m : Nat) : BitVec.ofNat 32 (w.toNat &&& m) = w &&& BitVec.ofNat 32 m := by
  rw [BitVec.ofNat_and, BitVec.ofNat_toNat, BitVec.setWidth_eq]

section
variable (hlo : 0x200 ≤ off) (hhi : off < 0x300) (ho : off % 16 = 0 ∨ off % 16 = 4)
include hlo hhi ho

theorem listEntryWrite_refused (h : ((d.core k).list ((off - 0x200) / 16)).protected = true) :
    ∃ i0, d.listEntryWrite k off w = d.setError (pgCore k) 0x0106 i0 0 :=
  ⟨_, by rw [Dev.listEntryWrite, if_neg (by omega), if_pos h]; rfl⟩

theorem listEntryWrite_writes (h : ((d.core k).list ((off - 0x200) / 16)).protected = false) :
    d.listEntryWrite k off w = d.modCore k fun c => c.modList ((off - 0x200) / 16) fun _ =>
      ((d.core k).list ((off - 0x200) / 16)).entryWritten off w := by
  rw [Dev.listEntryWrite, if_neg (by omega), if_neg (by simp [h]), ofNat_toNat_and, ofNat_toNat_and]; rfl

theorem exec_listEntryWrite (h : s.CoreRuns k) :
    exec (.listEntryWrite k off w) s = .next (s.written (s.dev.listEntryWrite k off w)) := by
  calc exec (.listEntryWrite k off w) s
    _ = s.runIf (decide (0x200 ≤ off ∧ off < 0x300)) fun c => c.busWrite (pgCore k) off w := rfl
    _ = s.run fun c => c.busWrite (pgCore k) off w := by rw [decide_eq_true ⟨hlo, hhi⟩]; rfl
    _ = .next (s.written (s.dev.writePage {} (pgCore k) off w)) :=
      run_busWrite_core h (by decide) (by omega) (by omega) (by omega)
    _ = _ := by
      rw [writePage_core h.2.1]; unfold Dev.writeCore
      rw [if_neg (by omega), if_pos ⟨hlo, hhi⟩]
end

/-! ### The statement -/

/-- A write of a core's page that changes the core alone. -/
theorem changes_of_modCore {c : Instr} {f : CoreSt → CoreSt} (h : exec c s = .next (s.written (s.dev.modCore k f))) :
    ∃ e, exec c s = .next (s.written e) ∧ e.core k = f (s.dev.core k) ∧ s.dev.Kept e [.core k, .hdr (pgGauge k)] :=
  ⟨_, h, Dev.core_modCore_self _ _ _, (kept_modCore _ _).mono (by simp)⟩

/-- Settles O18: each of these writes is refused by an error of its page, or changes one entry of one table of the core. -/
theorem coreWindowWrites : Obligations.CoreWindowWrites := by
  intro s k off w h q i slot b t l did refused
  refine ⟨fun hw => ⟨fun hu => ?_, fun o hu hb => ?_, fun hu hb => ?_⟩,
    fun hgo => ⟨fun hn => ?_, fun hn => ?_, fun hn => ?_, fun hn => ?_⟩,
    fun hlo hhi ho => ⟨fun hp => ?_, fun hp => ?_⟩⟩
  · obtain ⟨i0, he⟩ := slotWindow_inUse (off := off - 0x200) (w := w) hu
    exact refused_of_setError (by rw [exec_gaugeWindowWrite h hw, he]; rfl)
  · obtain ⟨i0, he⟩ := slotWindow_illegal hu hb
    exact refused_of_setError (by rw [exec_gaugeWindowWrite h hw, he]; rfl)
  · refine ⟨_, exec_gaugeWindowWrite h hw, fun j => ?_, ?_⟩ <;> rw [slotWindow_legal hu hb]
    · rw [core_withRecast, slot_putSlot]
    · exact kept_withRecast _ (kept_putSlot _) (by simp)
  · obtain ⟨i0, he⟩ := slabClr_refused hgo hn
    exact refused_of_setError (by rw [exec_slabClr h, he]; rfl)
  · obtain ⟨e, he, hc, hk⟩ := changes_of_modCore ((exec_slabClr h).trans (by rw [slabClr_clears hgo hn]))
    exact ⟨e, he, fun j => by rw [hc]; exact tget_tset, hk⟩
  · obtain ⟨i0, he⟩ := tapClr_refused hgo hn
    exact refused_of_setError (by rw [exec_tapClr h, he]; rfl)
  · obtain ⟨e, he, hc, hk⟩ := changes_of_modCore ((exec_tapClr h).trans (by rw [tapClr_clears hgo hn]))
    exact ⟨e, he, fun j => by rw [hc]; exact tget_tset, hk⟩
  · obtain ⟨i0, he⟩ := listEntryWrite_refused (w := w) hlo hhi ho hp
    exact refused_of_setError (by rw [exec_listEntryWrite hlo hhi ho h, he]; rfl)
  · obtain ⟨e, he, hc, hk⟩ := changes_of_modCore
      ((exec_listEntryWrite (w := w) hlo hhi ho h).trans (by rw [listEntryWrite_writes hlo hhi ho hp]))
    exact ⟨e, he, fun j => by rw [hc]; exact tget_tset, hk⟩

end Sys2Proof.Machine
end

section
/-!
PROOF. Retirement (R203–R205, R444, R445): what a command that retires leaves alone, of the device and of its core.
-/
namespace Sys2Proof.Machine

variable {d : Dev} {k l : Nat} {c : Cmd} {q q' q'' : CoreSt}

/-! ### Command records -/

/-- What writing a command's record may touch: the CNT page of its core, memory, and the log. -/
def Place.recordOf (k : Nat) : Place → Bool
  | .hdr g => g == pgCnt k || g == pgDbg
  | .reg g _ => g == pgCnt k
  | .cow _ | .mem | .log | .free => true
  | _ => false

theorem retireOf_of_recordOf {x : Place} (h : x.recordOf k = true) : x.retireOf k = true := by
  cases x with
  | hdr g =>
    have hg : g = pgCnt k ∨ g = pgDbg := by simpa [Place.recordOf] using h
    rcases hg with rfl | rfl <;> simp [Place.retireOf]
  | _ => simp_all [Place.recordOf, Place.retireOf]

section
variable {off : Nat} (ho : off < 4096)
include ho

theorem recordOf_setReg (w : Nat) : d.KeptOutside (d.setReg (pgCnt k) off w) (Place.recordOf k) :=
  (kept_setReg _ _ _ ho).outside (by simp [Place.recordOf])

theorem recordOf_bump (n : Nat) : d.KeptOutside (d.bump (pgCnt k) off n) (Place.recordOf k) :=
  (kept_bump _ _ _ ho).outside (by simp [Place.recordOf])
end

/-- A record lost is counted, and its event raised. -/
theorem recordOf_lost : d.KeptOutside ((d.bump (pgCnt k) 0x118 1).raise (pgCnt k) 1) (Place.recordOf k) :=
  (recordOf_bump (by decide) 1).trans ((kept_raise _ _).outside (by simp [Place.recordOf]))

theorem keptOutside_writeRecord (c : Cmd) : d.KeptOutside (d.writeRecord k c) (Place.recordOf k) := by
  unfold Dev.writeRecord
  dsimp only
  split
  · exact .refl d
  · split
    · exact recordOf_lost
    · split
      · exact (recordOf_bump (by decide) 1).trans ((kept_setError _ _ _ _).outside (by simp [Place.recordOf]))
      · refine (kept_free.outside (by simp [Place.recordOf])).trans (Dev.KeptOutside.trans ?_
          (((kept_write _ _).outside (by simp [Place.recordOf])).trans (recordOf_setReg (by decide) _)))
        split
        · exact (recordOf_setReg (by decide) _).trans recordOf_lost
        · exact .refl _

theorem writeRecord_off (h : bit (d.reg (pgCnt k) 0x104) 31 = false) (c : Cmd) : d.writeRecord k c = d := by
  rw [Dev.writeRecord, if_pos (by simpa using h)]

/-! ### The core's lists -/

/-- Only the lists of the core differ: what they hold, which runs, and which are still to run. -/
def CoreSt.SameButLists (q q' : CoreSt) : Prop := ∃ ls r t, q' = { q with lists := ls, running := r, todo := t }

theorem CoreSt.SameButLists.refl (q : CoreSt) : q.SameButLists q := ⟨_, _, _, rfl⟩

theorem CoreSt.SameButLists.trans : q.SameButLists q' → q'.SameButLists q'' → q.SameButLists q'' := by
  rintro ⟨_, _, _, rfl⟩ ⟨_, _, _, rfl⟩; exact ⟨_, _, _, rfl⟩

theorem CoreSt.SameButLists.slot (h : q.SameButLists q') (i : Nat) : q'.slot i = q.slot i := by obtain ⟨_, _, _, rfl⟩ := h; rfl
theorem CoreSt.SameButLists.cmd? (h : q.SameButLists q') (n : Nat) : q'.cmd? n = q.cmd? n := by obtain ⟨_, _, _, rfl⟩ := h; rfl
theorem CoreSt.SameButLists.seqNext (h : q.SameButLists q') : q'.seqNext = q.seqNext := by obtain ⟨_, _, _, rfl⟩ := h; rfl
theorem CoreSt.SameButLists.seqRetired (h : q.SameButLists q') : q'.seqRetired = q.seqRetired := by obtain ⟨_, _, _, rfl⟩ := h; rfl

theorem sameButLists_modList (q : CoreSt) (l : Nat) (f : ListSt → ListSt) : q.SameButLists (q.modList l f) := ⟨_, _, _, rfl⟩

theorem sameButLists_markAbandoned : (d.core k).SameButLists ((d.markAbandoned k l).core k) := by
  rw [markAbandoned_core]; exact sameButLists_modList _ _ _

theorem sameButLists_beginLists (ls : List Nat) : (d.core k).SameButLists ((d.beginLists k ls).core k) := by
  induction ls generalizing d with
  | nil => rw [Dev.beginLists, Dev.core_modCore_self]; exact ⟨_, _, _, rfl⟩
  | cons l ls ih =>
    unfold Dev.beginLists
    dsimp only
    split
    · have h := (sameButLists_markAbandoned (l := l)).trans (ih (d := (d.setError (pgCore k) 0x0108
        (seqInfo l ((d.core k).list l).last) 0).markAbandoned k l))
      rwa [Dev.core_setError] at h
    · rw [Dev.core_modCore_self]; exact ⟨_, _, _, rfl⟩

theorem sameButLists_abandon : (d.core k).SameButLists ((d.abandon k l).core k) := by
  unfold Dev.abandon
  dsimp only
  split
  · exact sameButLists_markAbandoned.trans (sameButLists_beginLists _)
  · exact sameButLists_markAbandoned

/-! ### What abandoning a list touches -/

theorem retireOf_modCore (f : CoreSt → CoreSt) : d.KeptOutside (d.modCore k f) (Place.retireOf k) :=
  (kept_modCore _ _).outside (by simp [Place.retireOf])

theorem retireOf_raiseIf (b : Bool) (n : Nat) : d.KeptOutside (d.raiseIf b (pgCore k) n) (Place.retireOf k) :=
  (kept_raiseIf _ _ _).outside (by simp [Place.retireOf])

theorem retireOf_markAbandoned : d.KeptOutside (d.markAbandoned k l) (Place.retireOf k) :=
  (kept_markAbandoned k l).outside (by simp [Place.retireOf])

theorem retireOf_setError (code i0 i1 : Nat) : d.KeptOutside (d.setError (pgCore k) code i0 i1) (Place.retireOf k) :=
  (kept_setError _ _ _ _).outside (by simp [Place.retireOf])

theorem retireOf_beginLists (ls : List Nat) : d.KeptOutside (d.beginLists k ls) (Place.retireOf k) := by
  induction ls generalizing d with
  | nil => exact retireOf_modCore _
  | cons l ls ih =>
    unfold Dev.beginLists
    dsimp only
    split
    · exact (retireOf_setError _ _ _).trans (retireOf_markAbandoned.trans ih)
    · exact retireOf_modCore _

theorem retireOf_abandon : d.KeptOutside (d.abandon k l) (Place.retireOf k) := by
  unfold Dev.abandon
  dsimp only
  split
  · exact retireOf_markAbandoned.trans (retireOf_beginLists _)
  · exact retireOf_markAbandoned

/-! ### A command retires -/

/-- The core once command number `seq` is no longer in flight, and the last to have retired. -/
def CoreSt.without (q : CoreSt) (seq : Nat) : CoreSt :=
  { q with cmds := q.cmds.filter fun y => y.seq != seq, seqRetired := seq, recvs := q.recvs.filter fun r => r.seq != seq }

theorem cmd?_without (q : CoreSt) (seq : Nat) : (q.without seq).cmd? seq = none := by
  simp [CoreSt.cmd?, CoreSt.without]

/-- The command out of flight, its record written and its event raised: what retirement is but for an error's consequence. -/
def Dev.retireClean (d : Dev) (k : Nat) (c : Cmd) : Dev :=
  ((d.modCore k fun q => q.without c.seq).writeRecord k c).raiseIf (dEvt c.desc) (pgCore k) 2

theorem retire_of_no_error (h : c.err = none) : d.retire k c = d.retireClean k c := if_pos (by simp [h])

theorem retire_cases (d : Dev) (k : Nat) (c : Cmd) : d.retire k c = d.retireClean k c ∨
    d.retire k c = ((d.retireClean k c).modCore k fun q => q.modList c.list fun x => { x with err := true }) ∨
    d.retire k c = (d.retireClean k c).abandon k c.list := by
  by_cases he : c.err.isNone = true
  · exact .inl (if_pos he)
  · refine .inr ?_
    by_cases hc : dCont c.desc = true
    · exact .inl ((if_neg he).trans (if_pos hc))
    · exact .inr ((if_neg he).trans (if_neg hc))

theorem core_retireClean : (d.retireClean k c).core k = (d.core k).without c.seq := by
  rw [Dev.retireClean, Dev.core_raiseIf, show Dev.core _ k = _ from keptOutside_writeRecord c (.core k) rfl, Dev.core_modCore_self]

theorem keptOutside_retireClean : d.KeptOutside (d.retireClean k c) (Place.retireOf k) :=
  ((retireOf_modCore _).trans ((keptOutside_writeRecord c).mono fun _ => retireOf_of_recordOf)).trans (retireOf_raiseIf _ _)

/-- A command that retires leaves its core as it is without it, but for the lists. -/
theorem core_retire : ((d.core k).without c.seq).SameButLists ((d.retire k c).core k) := by
  rw [← core_retireClean]
  rcases retire_cases d k c with h | h | h <;> rw [h]
  · exact .refl _
  · rw [Dev.core_modCore_self]; exact sameButLists_modList _ _ _
  · exact sameButLists_abandon

theorem keptOutside_retire : d.KeptOutside (d.retire k c) (Place.retireOf k) := by
  rcases retire_cases d k c with h | h | h <;> rw [h]
  · exact keptOutside_retireClean
  · exact keptOutside_retireClean.trans (retireOf_modCore _)
  · exact keptOutside_retireClean.trans retireOf_abandon

/-- What the core and the device show of a command that has retired. -/
theorem retire_shows (d : Dev) (k : Nat) (c : Cmd) :
    (((d.retire k c).ordersOf k).core k).seqNext = (d.core k).seqNext ∧
    (((d.retire k c).ordersOf k).core k).seqRetired = c.seq ∧
    (((d.retire k c).ordersOf k).core k).cmd? c.seq = none ∧
    (∀ j, (((d.retire k c).ordersOf k).core k).slot j = (d.core k).slot j) ∧
    d.KeptOutside ((d.retire k c).ordersOf k) (Place.retireOf k) := by
  have h := core_retire (d := d) (k := k) (c := c)
  rw [core_ordersOf]
  exact ⟨h.seqNext, h.seqRetired, (h.cmd? _).trans (cmd?_without _ _), h.slot,
    keptOutside_retire.trans ((kept_ordersOf k).outside (by simp [Place.retireOf]))⟩

/-- With command records off, a command that retires without error stores nothing. -/
theorem mem_retire (he : c.err = none) (hr : bit (d.reg (pgCnt k) 0x104) 31 = false) : (d.retire k c).mem = d.mem := by
  rw [retire_of_no_error he, Dev.retireClean, Dev.raiseIf_mem, writeRecord_off (d := d.modCore k _) hr, Dev.modCore_mem]

end Sys2Proof.Machine
end

section
/-!
PROOF. GAUGE.SET and GAUGE.READ (R106, R112, R113, R116, R127): what each mode makes of the slots, and what a read stores.
-/
namespace Sys2Proof.Machine

variable {s : State} {d e f : Dev} {k l i j seq : Nat} {x : ListSt} {raw : List Byte} {c : Cmd}

/-! ### Slots that change -/

/-- From d to e the Gauge of core k changed slots, and noted what it did, and no more. -/
structure Dev.SlotsMove (d e : Dev) (k : Nat) : Prop where
  kept : d.Kept e [.core k, .hdr (pgGauge k), .hdr pgDbg, .log]
  core : ∃ t, e.core k = { d.core k with slots := t }
  cows : e.cows = d.cows

theorem Dev.SlotsMove.refl (d : Dev) : d.SlotsMove d k := ⟨.refl d, ⟨_, rfl⟩, rfl⟩

theorem Dev.SlotsMove.trans (h : d.SlotsMove e k) (h' : e.SlotsMove f k) : d.SlotsMove f k := by
  obtain ⟨t, ht⟩ := h.core
  obtain ⟨t', ht'⟩ := h'.core
  exact ⟨h.kept.seq h'.kept, ⟨t', by rw [ht', ht]⟩, h'.cows.trans h.cows⟩

theorem Dev.SlotsMove.read (h : d.SlotsMove e k) (a n : Nat) : e.read a n = d.read a n := by
  obtain ⟨hm, -⟩ : e.mem = d.mem ∧ e.ecc = d.ecc := h.kept .mem (by simp)
  unfold Dev.read Dev.heldWrites; rw [hm, h.cows]

theorem slotsMove_foldl {α : Type} (g : Dev → α → Dev) (h : ∀ e a, Dev.SlotsMove e (g e a) k) (as : List α) (d : Dev) :
    d.SlotsMove (as.foldl g d) k := by
  induction as generalizing d with
  | nil => exact .refl d
  | cons a as ih => exact (h d a).trans (ih _)

theorem slotsMove_setError (code i0 i1 : Nat) : d.SlotsMove (d.setError (pgGauge k) code i0 i1) k :=
  ⟨(kept_setError _ _ _ _).mono (by simp), ⟨_, Dev.core_setError _ _ _ _ _ _⟩, (reports_setError _ _ _ _).cows⟩

theorem slotsMove_putSlot (y : GSlot) : d.SlotsMove (d.putSlot k i y) k :=
  ⟨(kept_putSlot y).mono (by simp), ⟨_, core_putSlot y⟩, by rw [Dev.putSlot, Dev.raiseIf_cows, Dev.modCore_cows]⟩

theorem slotsMove_withRecast (g : Dev → Dev) (h : d.SlotsMove (g d) k) : d.SlotsMove (d.withRecast k g) k :=
  ⟨kept_withRecast g h.kept (by simp), by rw [core_withRecast]; exact h.core,
    by rw [Dev.withRecast, Dev.raiseIf_cows]; exact h.cows⟩

/-! ### One image, one record -/

section
variable (b : List Byte)

theorem loadImage_legal (h : (d.core k).slotBad i (GSlot.ofImage b) 0 0xBF = none) :
    (d.loadImage k seq i b).1 = d.withRecast k fun d => d.putSlot k i (GSlot.ofImage b) := by
  unfold Dev.loadImage; simp only [h]

theorem loadImage_illegal (h : (d.core k).slotBad i (GSlot.ofImage b) 0 0xBF ≠ none) :
    ∃ i0, (d.loadImage k seq i b).1 = d.setError (pgGauge k) 0x0304 i0 seq := by
  obtain ⟨o, ho⟩ := Option.ne_none_iff_exists'.1 h
  exact ⟨_, by unfold Dev.loadImage; simp only [ho]; rfl⟩

theorem slotsMove_loadImage : d.SlotsMove (d.loadImage k seq i b).1 k := by
  by_cases h : (d.core k).slotBad i (GSlot.ofImage b) 0 0xBF = none
  · rw [loadImage_legal b h]; exact slotsMove_withRecast _ (slotsMove_putSlot _)
  · obtain ⟨i0, hi⟩ := loadImage_illegal (seq := seq) b h
    rw [hi]; exact slotsMove_setError _ _ _

theorem slot_loadImage_legal (h : (d.core k).slotBad i (GSlot.ofImage b) 0 0xBF = none) :
    ((d.loadImage k seq i b).1.core k).slot i = GSlot.ofImage b := by
  rw [loadImage_legal b h, core_withRecast, slot_putSlot, if_pos rfl]

theorem slot_loadImage_illegal (h : (d.core k).slotBad i (GSlot.ofImage b) 0 0xBF ≠ none) (j : Nat) :
    ((d.loadImage k seq i b).1.core k).slot j = (d.core k).slot j := by
  obtain ⟨i0, hi⟩ := loadImage_illegal (seq := seq) b h
  rw [hi, Dev.core_setError]

theorem slot_loadImage_ne (h : j ≠ i) : ((d.loadImage k seq i b).1.core k).slot j = (d.core k).slot j := by
  by_cases hb : (d.core k).slotBad i (GSlot.ofImage b) 0 0xBF = none
  · rw [loadImage_legal b hb, core_withRecast, slot_putSlot, if_neg h]
  · exact slot_loadImage_illegal b hb j
end

/-- A slot under a record (R112): folded where the record names it and it is in use under the record's tag. -/
def GSlot.merged (g : GSlot) (j : Nat) (r : List Byte) : GSlot :=
  if field r 0x0C 2 % 512 = j ∧ g.used = true ∧ g.tag = field r 0 4 then g.fold r else g

theorem mergeRecord_cases (n : Nat) (r : List Byte) : let g := (d.core k).slot (field r 0x0C 2 % 512)
    (g.used = true ∧ g.tag = field r 0 4 ∧
      (d.mergeRecord k seq n r).1 = d.withRecast k fun d => d.putSlot k (field r 0x0C 2 % 512) (g.fold r)) ∨
    (¬(g.used = true ∧ g.tag = field r 0 4) ∧
      ∃ i0, (d.mergeRecord k seq n r).1 = d.setError (pgGauge k) 0x0306 i0 seq) := by
  intro g
  unfold Dev.mergeRecord
  dsimp only
  by_cases h : g.used = true ∧ g.tag = field r 0 4
  · exact .inl ⟨h.1, h.2, by rw [if_neg (by simpa [g] using h)]⟩
  · refine .inr ⟨h, _, by rw [if_pos (by simpa [g, imp_iff_not_or] using h)]; rfl⟩

theorem slotsMove_mergeRecord (n : Nat) (r : List Byte) : d.SlotsMove (d.mergeRecord k seq n r).1 k := by
  rcases mergeRecord_cases (d := d) (k := k) (seq := seq) n r with ⟨_, _, h⟩ | ⟨_, _, h⟩ <;> rw [h]
  · exact slotsMove_withRecast _ (slotsMove_putSlot _)
  · exact slotsMove_setError _ _ _

theorem slot_mergeRecord (n : Nat) (r : List Byte) (j : Nat) :
    ((d.mergeRecord k seq n r).1.core k).slot j = ((d.core k).slot j).merged j r := by
  rcases mergeRecord_cases (d := d) (k := k) (seq := seq) n r with ⟨hu, ht, h⟩ | ⟨hn, _, h⟩ <;> rw [h]
  · rw [core_withRecast, slot_putSlot, GSlot.merged]
    by_cases hj : field r 0x0C 2 % 512 = j
    · subst hj; rw [if_pos rfl, if_pos ⟨rfl, hu, ht⟩]
    · rw [if_neg (Ne.symm hj), if_neg fun hc => hj hc.1]
  · rw [Dev.core_setError, GSlot.merged, if_neg]
    rintro ⟨rfl, hc⟩; exact hn hc

/-! ### The modes of GAUGE.SET -/

theorem eachOf_fst {α : Type} (g : Dev → α → Dev × Option ErrRec) (as : List α) (d : Dev) (o : Option ErrRec) :
    (Dev.eachOf g as d o).1 = as.foldl (fun e a => (g e a).1) d := by
  induction as generalizing d o with
  | nil => rfl
  | cons a as ih => exact ih _ _

/-- Slot j is among the slots of a GAUGE.SET that names consecutive ones. -/
theorem any_named (a n j : Nat) : (List.range n).any (fun i => a + i == j) = decide (a ≤ j ∧ j < a + n) := by
  rw [Bool.eq_iff_iff]
  simp only [List.any_eq_true, List.mem_range, beq_iff_eq, decide_eq_true_eq]
  exact ⟨fun ⟨i, hi, h⟩ => by omega, fun h => ⟨j - a, by omega, by omega⟩⟩

section
variable (d : Dev) (k : Nat) (c : Cmd)

/-- GAUGE.SET in IMAGE_LOAD mode, image by image. -/
theorem gaugeApply_images (ht : (MsgB.parse c.desc).tag = 0) : (d.gaugeApply k c).1 =
    (List.range (MsgB.parse c.desc).len).foldl (fun e i => (e.loadImage k c.seq ((MsgB.parse c.desc).peer + i)
      (e.read ((MsgB.parse c.desc).addr + 192 * i) 192)).1) d := by
  unfold Dev.gaugeApply; simp only [ht]; exact eachOf_fst _ _ _ _

/-- GAUGE.SET in MERGE mode, record by record. -/
theorem gaugeApply_records (ht : (MsgB.parse c.desc).tag = 1) : (d.gaugeApply k c).1 =
    (List.range (MsgB.parse c.desc).len).foldl (fun e i => (e.mergeRecord k c.seq i
      (e.read ((MsgB.parse c.desc).addr + 16 * i) 16)).1) d := by
  unfold Dev.gaugeApply; simp only [ht]; exact eachOf_fst _ _ _ _

/-- The counters of consecutive slots cleared. -/
def CoreSt.clearedFrom (q : CoreSt) (a n : Nat) : CoreSt :=
  (List.range n).foldl (fun q i => q.modSlot (a + i) GSlot.clearCounters) q

theorem gaugeApply_counters (ht : (MsgB.parse c.desc).tag = 2) : (d.gaugeApply k c).1 =
    d.modCore k fun q => q.clearedFrom (MsgB.parse c.desc).peer (MsgB.parse c.desc).len := by
  unfold Dev.gaugeApply; simp only [ht]; rfl

/-- GAUGE.SET in CLEAR_HISTORY mode, slot by slot. -/
theorem gaugeApply_history (ht : 3 ≤ (MsgB.parse c.desc).tag) : (d.gaugeApply k c).1 =
    (List.range (MsgB.parse c.desc).len).foldl (fun e i => e.putSlot k ((MsgB.parse c.desc).peer + i)
      ((e.core k).slot ((MsgB.parse c.desc).peer + i)).clearHistory) d := by
  obtain ⟨m, hm⟩ : ∃ m, (MsgB.parse c.desc).tag = m + 3 := ⟨_, (Nat.sub_add_cancel ht).symm⟩
  unfold Dev.gaugeApply; simp only [hm]
end

theorem slot_clearedFrom (q : CoreSt) (a n j : Nat) :
    (q.clearedFrom a n).slot j = if a ≤ j ∧ j < a + n then (q.slot j).clearCounters else q.slot j := by
  rw [CoreSt.clearedFrom, foldl_view (I := fun _ => True) (CoreSt.slot · j) GSlot.clearCounters (fun i => a + i == j)
    (fun _ _ _ => trivial) (fun q i _ => ?_) (fun _ => rfl) _ trivial, any_named]
  · simp only [decide_eq_true_eq]
  · simp only [slot_modSlot, beq_iff_eq, eq_comm (a := j)]

theorem slotsMove_clearedFrom (a n : Nat) : d.SlotsMove (d.modCore k fun q => q.clearedFrom a n) k := by
  refine ⟨(kept_modCore _ _).mono (by simp), ?_, rfl⟩
  rw [Dev.core_modCore_self]
  refine List.foldlRecOn (motive := fun q : CoreSt => ∃ t, q = { d.core k with slots := t }) _ _ ⟨_, rfl⟩ ?_
  rintro _ ⟨t, rfl⟩ i -
  exact ⟨_, rfl⟩

/-- Whatever its mode, a GAUGE.SET changes slots alone. -/
theorem slotsMove_gaugeApply (d : Dev) (k : Nat) (c : Cmd) : d.SlotsMove (d.gaugeApply k c).1 k := by
  rcases Nat.lt_or_ge (MsgB.parse c.desc).tag 3 with h | h
  · interval_cases ht : (MsgB.parse c.desc).tag
    · rw [gaugeApply_images d k c ht]; exact slotsMove_foldl _ (fun _ _ => slotsMove_loadImage _) _ _
    · rw [gaugeApply_records d k c ht]; exact slotsMove_foldl _ (fun _ _ => slotsMove_mergeRecord _ _) _ _
    · rw [gaugeApply_counters d k c ht]; exact slotsMove_clearedFrom _ _
  · rw [gaugeApply_history d k c h]; exact slotsMove_foldl _ (fun _ _ => slotsMove_putSlot _) _ _

section
variable (ht : (MsgB.parse c.desc).tag = 0)
include ht

/-- An image that is a legal slot whatever the other slots hold stands in its slot. -/
theorem slot_images_legal (hi : i < (MsgB.parse c.desc).len)
    (h : ∀ q : CoreSt, q.slotBad ((MsgB.parse c.desc).peer + i)
      (GSlot.ofImage (d.read ((MsgB.parse c.desc).addr + 192 * i) 192)) 0 0xBF = none) :
    ((d.gaugeApply k c).1.core k).slot ((MsgB.parse c.desc).peer + i) =
      GSlot.ofImage (d.read ((MsgB.parse c.desc).addr + 192 * i) 192) := by
  rw [gaugeApply_images d k c ht, foldl_view (I := fun e => d.SlotsMove e k)
    (fun e => (e.core k).slot ((MsgB.parse c.desc).peer + i))
    (fun _ => GSlot.ofImage (d.read ((MsgB.parse c.desc).addr + 192 * i) 192)) (fun m => m == i)
    (fun _ _ he => he.trans (slotsMove_loadImage _)) (fun e m he => ?_) (fun _ => rfl) _ (.refl d), if_pos (by simpa using hi)]
  by_cases hm : m = i
  · subst hm
    rw [he.read, if_pos (beq_self_eq_true m)]; exact slot_loadImage_legal _ (h _)
  · rw [if_neg (by simpa using hm)]; exact slot_loadImage_ne _ (by omega)

/-- A slot that no image names, or only one that is no legal slot whatever the other slots hold, stays as it was. -/
theorem slot_images_other (h : ∀ i < (MsgB.parse c.desc).len, (MsgB.parse c.desc).peer + i = j →
      ∀ q : CoreSt, q.slotBad j (GSlot.ofImage (d.read ((MsgB.parse c.desc).addr + 192 * i) 192)) 0 0xBF ≠ none) :
    ((d.gaugeApply k c).1.core k).slot j = (d.core k).slot j := by
  rw [gaugeApply_images d k c ht]
  refine (List.foldlRecOn (motive := fun e : Dev => d.SlotsMove e k ∧ (e.core k).slot j = (d.core k).slot j) _ _
    ⟨.refl d, rfl⟩ fun e he i hi => ⟨he.1.trans (slotsMove_loadImage _), ?_⟩).2
  rw [he.1.read, ← he.2]
  by_cases hj : (MsgB.parse c.desc).peer + i = j
  · subst hj; exact slot_loadImage_illegal _ (h i (List.mem_range.1 hi) rfl _) _
  · exact slot_loadImage_ne _ (Ne.symm hj)
end

theorem slot_records (ht : (MsgB.parse c.desc).tag = 1) (j : Nat) : ((d.gaugeApply k c).1.core k).slot j =
    (List.range (MsgB.parse c.desc).len).foldl (fun g i => g.merged j (d.read ((MsgB.parse c.desc).addr + 16 * i) 16))
      ((d.core k).slot j) := by
  have fold (is : List Nat) (e : Dev) (he : d.SlotsMove e k) :
      ((is.foldl (fun e i => (e.mergeRecord k c.seq i (e.read ((MsgB.parse c.desc).addr + 16 * i) 16)).1) e).core k).slot j =
        is.foldl (fun g i => g.merged j (d.read ((MsgB.parse c.desc).addr + 16 * i) 16)) ((e.core k).slot j) := by
    induction is generalizing e with
    | nil => rfl
    | cons i is ih =>
      rw [List.foldl_cons, ih _ (he.trans (slotsMove_mergeRecord _ _)), slot_mergeRecord, he.read, List.foldl_cons]
  rw [gaugeApply_records d k c ht, fold _ d (.refl d)]

theorem slot_counters (ht : (MsgB.parse c.desc).tag = 2) (j : Nat) : ((d.gaugeApply k c).1.core k).slot j =
    if (MsgB.parse c.desc).peer ≤ j ∧ j < (MsgB.parse c.desc).peer + (MsgB.parse c.desc).len then
      ((d.core k).slot j).clearCounters else (d.core k).slot j := by
  rw [gaugeApply_counters d k c ht, Dev.core_modCore_self, slot_clearedFrom]

theorem slot_history (ht : (MsgB.parse c.desc).tag = 3) (j : Nat) : ((d.gaugeApply k c).1.core k).slot j =
    if (MsgB.parse c.desc).peer ≤ j ∧ j < (MsgB.parse c.desc).peer + (MsgB.parse c.desc).len then
      ((d.core k).slot j).clearHistory else (d.core k).slot j := by
  rw [gaugeApply_history d k c ht.ge, foldl_view (I := fun _ => True) (fun e : Dev => (e.core k).slot j) GSlot.clearHistory
    (fun i => (MsgB.parse c.desc).peer + i == j) (fun _ _ _ => trivial) (fun e i _ => ?_) (fun _ => rfl) _ trivial, any_named]
  · simp only [decide_eq_true_eq]
  · by_cases hj : (MsgB.parse c.desc).peer + i = j
    · subst hj; rw [slot_putSlot, if_pos rfl, if_pos (beq_self_eq_true _)]
    · rw [slot_putSlot, if_neg (Ne.symm hj), if_neg (by simpa using hj)]

/-! ### A command that issues -/

theorem mkCmd_seq (i : Nat) (desc ext : List Byte) : (d.mkCmd k l i desc ext).seq = (d.core k).seqNext := by
  unfold Dev.mkCmd; dsimp only; split
  · cases d.mxSetup k desc (extOf desc ext) <;> rfl
  · split <;> rfl

theorem mkCmd_err (i : Nat) (desc ext : List Byte) : (d.mkCmd k l i desc ext).err = none := by
  unfold Dev.mkCmd; dsimp only; split
  · cases d.mxSetup k desc (extOf desc ext) <;> rfl
  · split <;> rfl

theorem gaugeSetDone_reads
    (h0 : (MsgB.parse c.desc).tag = 0 → d.badAt (MsgB.parse c.desc).addr (192 * (MsgB.parse c.desc).len) = none)
    (h1 : (MsgB.parse c.desc).tag = 1 → d.badAt (MsgB.parse c.desc).addr (16 * (MsgB.parse c.desc).len) = none) :
    d.gaugeSetDone k c = (d.gaugeApply k c).1.retire k { c with err := (d.gaugeApply k c).2 } := by
  unfold Dev.gaugeSetDone
  dsimp only
  split
  · next u hu => split_ifs at hu <;> simp_all
  · rfl

@[simp] theorem seqNext_afterIssue (i : Nat) (c : Cmd) :
    ((d.afterIssue k l i c).core k).seqNext = ((d.core k).seqNext + 1) % 2 ^ 32 := by
  simp [Dev.afterIssue, Dev.enqueue, Dev.takeSeq, CoreSt.modList]

@[simp] theorem slot_afterIssue (i : Nat) (c : Cmd) (j : Nat) : ((d.afterIssue k l i c).core k).slot j = (d.core k).slot j := by
  simp [Dev.afterIssue, Dev.enqueue, Dev.takeSeq, CoreSt.modList, CoreSt.slot]

/-- Issuing a command leaves memory as writes see it. -/
theorem sameStore_afterIssue (i : Nat) (c : Cmd) : d.SameStore (d.afterIssue k l i c) :=
  fun p hp => kept_afterIssue i c p (by rintro hm; rw [List.mem_singleton.1 hm] at hp; cases hp)

/-! ### What a GAUGE.READ writes -/

theorem gaugeBytes_congr {q q' : CoreSt} (h : ∀ j, q'.slot j = q.slot j) (b : MsgB) : q'.gaugeBytes b = q.gaugeBytes b := by
  unfold CoreSt.gaugeBytes; simp only [h]

theorem gaugeBytes_images {q : CoreSt} {b : MsgB} (h : b.tag = 0) :
    q.gaugeBytes b = (List.range b.len).flatMap fun i => (q.slot (b.peer + i)).image := by
  unfold CoreSt.gaugeBytes; simp only [h, if_true]

theorem gaugeBytes_records {q : CoreSt} {b : MsgB} (h : b.tag = 1) :
    q.gaugeBytes b = (List.range b.len).flatMap fun i => (q.slot (b.peer + i)).summary (b.peer + i) := by
  unfold CoreSt.gaugeBytes; simp [h]

/-! ### The commands -/

section
variable (h : s.Accepts k l x raw) (hx : x.cursor < x.last) (hc : s.dev.issueCmd k l x raw = c) {fits : Nat → Bool}
  (hf : fits (field raw 0x1E 2) = true)
include h hx hc hf

theorem gaugeSet_issues (hop : dOp raw = 0x3C) (hw : s.dev.gaugeMustWait k c.desc = false) :
    s.dev.gaugeSet k fits = (s.dev.afterIssue k l x.cursor c).gaugeSetDone k c := by
  subst hc
  have hok : ((dOp raw == 0x3C && fits (field raw 0x1E 2)) || opIn [] raw) = true := by simp [hop, hf]
  have hwait : s.dev.gaugeMustWait k (resolve (s.dev.core k) raw) = false := by
    rw [Dev.issueCmd, mkCmd_desc] at hw; exact hw
  have hat : s.dev.atCursor k = some (l, x, raw) := h.1.2.1
  unfold Dev.gaugeSet
  simp only [hat, hok, hwait, Bool.and_false, Bool.false_eq_true, if_false]
  exact issue_accepts (fun _ => true) _ h rfl hx

/-- A GAUGE.SET that need not wait, and whose source reads well, makes of the slots what its mode says, and retires. -/
theorem gaugeSet_retires (hop : dOp raw = 0x3C) (hw : s.dev.gaugeMustWait k c.desc = false)
    (h0 : (MsgB.parse c.desc).tag = 0 → s.dev.badAt (MsgB.parse c.desc).addr (192 * (MsgB.parse c.desc).len) = none)
    (h1 : (MsgB.parse c.desc).tag = 1 → s.dev.badAt (MsgB.parse c.desc).addr (16 * (MsgB.parse c.desc).len) = none) :
    ∃ e, (s.run fun c => c.onCore k fun d => d.gaugeSet k fits) = .next (s.withDev e) ∧
      (e.core k).seqNext = ((s.dev.core k).seqNext + 1) % 2 ^ 32 ∧ (e.core k).seqRetired = c.seq ∧
      (e.core k).cmd? c.seq = none ∧
      (∀ j, (e.core k).slot j = (((s.dev.afterIssue k l x.cursor c).gaugeApply k c).1.core k).slot j) ∧
      s.dev.KeptOutside e fun p => p.retireOf k || p == .hdr (pgGauge k) := by
  have issued : s.dev.Kept (s.dev.afterIssue k l x.cursor c) [.core k] := kept_afterIssue _ _
  have seq : ((s.dev.afterIssue k l x.cursor c).core k).seqNext = _ := seqNext_afterIssue _ _
  have done : (s.dev.afterIssue k l x.cursor c).gaugeSetDone k c = _ := gaugeSetDone_reads h0 h1
  rw [← gaugeSet_issues h hx hc hf hop hw] at done
  generalize s.dev.afterIssue k l x.cursor c = a at *
  have moves := slotsMove_gaugeApply a k c
  obtain ⟨t, ht⟩ := moves.core
  obtain ⟨hn, hr, hq, hs, hk⟩ := retire_shows (a.gaugeApply k c).1 k { c with err := (a.gaugeApply k c).2 }
  refine ⟨_, (run_onCore h.1.1 _).trans (by rw [done]), ?_, hr, hq, hs, ?_⟩
  · rw [hn, ht]; exact seq
  · refine (issued.outside ?_).trans ((moves.kept.outside ?_).trans (hk.mono fun p hp => by simp [hp])) <;> simp [Place.retireOf]

/-- A GAUGE.READ writes the bytes of its slots at its address, and retires. -/
theorem gaugeRead_retires (hop : dOp raw = 0x3D) :
    ∃ e, (s.run fun c => c.onCore k fun d => d.gaugeRead k fits) = .next (s.withDev e) ∧
      (e.core k).seqNext = ((s.dev.core k).seqNext + 1) % 2 ^ 32 ∧ (e.core k).seqRetired = c.seq ∧
      (e.core k).cmd? c.seq = none ∧
      (bit (s.dev.reg (pgCnt k) 0x104) 31 = false → e.mem =
        (s.dev.write (MsgB.parse c.desc).addr ((s.dev.core k).gaugeBytes (MsgB.parse c.desc))).mem) ∧
      (∀ j, (e.core k).slot j = (s.dev.core k).slot j) ∧ s.dev.KeptOutside e (Place.retireOf k) := by
  have run := run_issue (fun raw => (dOp raw == 0x3D && fits (field raw 0x1E 2)) || opIn [] raw) (fun d c =>
    (d.write (MsgB.parse c.desc).addr ((d.core k).gaugeBytes (MsgB.parse c.desc))).retire k c) h (by simp [hop, hf]) hx
  have err : c.err = none := hc ▸ mkCmd_err _ _ _
  have issued : s.dev.Kept (s.dev.afterIssue k l x.cursor c) [.core k] := kept_afterIssue _ _
  have store : s.dev.SameStore (s.dev.afterIssue k l x.cursor c) := sameStore_afterIssue _ _
  have seq : ((s.dev.afterIssue k l x.cursor c).core k).seqNext = _ := seqNext_afterIssue _ _
  have slots : ∀ j, ((s.dev.afterIssue k l x.cursor c).core k).slot j = (s.dev.core k).slot j := slot_afterIssue _ _
  rw [hc] at run
  generalize s.dev.afterIssue k l x.cursor c = a at *
  rw [show (a.core k).gaugeBytes (MsgB.parse c.desc) = _ from gaugeBytes_congr slots _] at run
  generalize (s.dev.core k).gaugeBytes (MsgB.parse c.desc) = bs at *
  have written := kept_write (d := a) (MsgB.parse c.desc).addr bs
  have core : (a.write (MsgB.parse c.desc).addr bs).core k = a.core k := core_write _ _ _
  have reg : (a.write (MsgB.parse c.desc).addr bs).reg (pgCnt k) 0x104 = s.dev.reg (pgCnt k) 0x104 := by
    have hcnt : ¬(pgCnt k = pgRailjor ∧ evMergedKey 0 ≤ 0x104 ∧ 0x104 < evMergedKey 8) := fun hp => by simp [evMergedKey] at hp
    exact (written (.reg _ _) (by simp) (by decide) hcnt).trans (issued (.reg _ _) (by simp) (by decide) hcnt)
  obtain ⟨hn, hr, hq, hs, hk⟩ := retire_shows (a.write (MsgB.parse c.desc).addr bs) k c
  refine ⟨_, run, ?_, hr, hq, fun hoff => ?_, fun j => ?_, ?_⟩
  · rw [hn, core, seq]
  · rw [((kept_ordersOf k) .mem (by simp)).1, mem_retire err (by rw [reg]; exact hoff)]
    exact (store.write _ _).mem
  · rw [hs, core, slots]
  · exact (issued.outside (by simp [Place.retireOf])).trans ((written.outside (by simp [Place.retireOf])).trans hk)
end

/-! ### The statement -/

/-- Settles O6: each command does its work on the device that has issued it, and retires, which leaves slots alone; a SET's work is a
fold over its images, its records or its slots. -/
theorem gaugeCommands : Obligations.GaugeCommands := by
  refine ⟨fun s k l x raw h hx hop => ?_, fun s k l x raw h hx hop => ?_⟩
  · intro cmd b q image record hw ran
    refine ⟨fun hm ht hg => ?_, fun hm ht hg => ?_, fun hm ht => ?_, fun hm ht => ?_⟩
    · obtain ⟨e, he, hn, hr, hq, hs, hk⟩ := gaugeSet_retires h hx rfl (fits := fun m => m == 0 || decide (4 ≤ m)) (by simp [hm])
        hop hw (fun _ => hg) fun h1 => absurd (ht.symm.trans h1) (by decide)
      have stays (j : Nat) (hj : ∀ i < b.len, b.peer + i = j →
          ∀ c : CoreSt, c.slotBad j (GSlot.ofImage (image i)) 0 0xBF ≠ none) : (e.core k).slot j = q.slot j :=
        (hs j).trans ((slot_images_other (d := s.dev.afterIssue k l x.cursor cmd) ht hj).trans (slot_afterIssue _ _ _))
      refine ⟨e, he, hn, hr, hq, ⟨fun i hi hl => (hs _).trans ?_, fun i _ hl => stays _ fun m _ hm => ?_,
        fun j hj => stays j fun m hm hj' => ?_⟩, hk⟩
      · exact slot_images_legal (d := s.dev.afterIssue k l x.cursor cmd) ht hi hl
      · obtain rfl : m = i := Nat.add_left_cancel hm
        exact hl
      · exact absurd hj (by rw [← hj']; exact not_or.2 ⟨by omega, by omega⟩)
    · obtain ⟨e, he, hn, hr, hq, hs, hk⟩ := gaugeSet_retires h hx rfl (fits := (· == 1)) (by simp [hm])
        hop hw (fun h0 => absurd (ht.symm.trans h0) (by decide)) fun _ => hg
      exact ⟨e, he, hn, hr, hq, fun j => (hs j).trans ((slot_records ht j).trans (by rw [slot_afterIssue]; rfl)), hk⟩
    · obtain ⟨e, he, hn, hr, hq, hs, hk⟩ := gaugeSet_retires h hx rfl (fits := (· == 2)) (by simp [hm])
        hop hw (fun h0 => absurd (ht.symm.trans h0) (by decide)) fun h1 => absurd (ht.symm.trans h1) (by decide)
      exact ⟨e, he, hn, hr, hq, fun j => (hs j).trans ((slot_counters ht j).trans (by rw [slot_afterIssue])), hk⟩
    · obtain ⟨e, he, hn, hr, hq, hs, hk⟩ := gaugeSet_retires h hx rfl (fits := (· == 3)) (by simp [hm])
        hop hw (fun h0 => absurd (ht.symm.trans h0) (by decide)) fun h1 => absurd (ht.symm.trans h1) (by decide)
      exact ⟨e, he, hn, hr, hq, fun j => (hs j).trans ((slot_history ht j).trans (by rw [slot_afterIssue])), hk⟩
  · intro cmd b q ran
    refine ⟨fun hm ht => ?_, fun hm ht => ?_⟩
    · have done := gaugeRead_retires h hx rfl (fits := fun m => m == 0 || decide (2 ≤ m)) (by simp [hm]) hop
      rwa [gaugeBytes_images ht] at done
    · have done := gaugeRead_retires h hx rfl (fits := (· == 1)) (by simp [hm]) hop
      rwa [gaugeBytes_records ht] at done

end Sys2Proof.Machine
end

section
/-!
PROOF. The lane generators (R180) and GLOBAL_RECAST (R125): a waiting holder takes the generators when they are free, and a core's
ALL_RECAST reaches its partition.
-/
namespace Sys2Proof.Machine

variable {s : State} {d e : Dev} {k p h : Nat}

/-! ### Lane generators (R180) -/

theorem exec_laneGeneratorsAcquire (hr : s.CoreRuns k) (hh : 1 ≤ h ∧ h ≤ 3) :
    exec (.laneGeneratorsAcquire k h) s = .next (s.withDev ((s.dev.lanesAcquire k h).ordersOf k)) :=
  runIf_onCore hr (decide_eq_true hh) fun d => d.lanesAcquire k h

theorem kept_lanesAcquire : d.Kept (d.lanesAcquire k h) [.core k] := kept_modCore _ _

/-- Free generators pass to the holder that has waited longest, and to no other (R180). -/
theorem core_lanesAcquire : (d.lanesAcquire k h).core k =
    if (d.core k).laneHolder = 0 ∧ (d.core k).laneWait.head? = some h then
      { d.core k with laneHolder := h, laneWait := (d.core k).laneWait.tail }
    else d.core k := by
  rw [Dev.lanesAcquire, Dev.core_modCore_self]
  simp only [Bool.and_eq_true, decide_eq_true_eq, beq_iff_eq]

/-! ### GLOBAL_RECAST (R125) -/

/-- Page headers: all that raising events touches. -/
def Place.header : Place → Bool
  | .hdr _ => true
  | _ => false

theorem eq_hdr_of_header {x : Place} (hx : x.header = true) : ∃ g, x = .hdr g := by
  cases x with
  | hdr g => exact ⟨g, rfl⟩
  | _ => cases hx

theorem keptOutside_raise_header (g b : Nat) : d.KeptOutside (d.raise g b) Place.header :=
  (kept_raise g b).outside (by simp [Place.header])

/-- The condition of GLOBAL_RECAST looks at the cores and at which dies are the partition's. -/
theorem globalCondition_congr (hc : e.cores = d.cores) (hd : ∀ c, e.die c = d.die c) :
    e.globalCondition p = d.globalCondition p := by
  have core : e.core = d.core := by funext j; simp only [Dev.core, hc]
  have listed : e.coresOf p = d.coresOf p := by simp only [Dev.coresOf, Dev.ownsCore, Dev.owns, hc, hd]
  simp only [Dev.globalCondition, core, listed]

theorem ordersOf_cores (k : Nat) : (d.ordersOf k).cores = d.cores := by
  unfold Dev.ordersOf Dev.checkOrders
  dsimp only
  repeat' split
  · rfl
  · rw [Dev.raise_cores, Dev.modPart_cores]
  · rfl

/-- The partition with its GLOBAL_RECAST in the midst of a step: it rises with its condition, and does not fall. -/
def Dev.recastMarked (d : Dev) (p : Nat) : Dev :=
  d.modPart p fun x => { x with globalRecast := (d.part p).globalRecast || d.globalCondition p }

/-- What raises GLOBAL_RECAST is reported to each core of the partition, and on the GOV page (R125). -/
def Dev.recastReported (d : Dev) (p : Nat) : Dev :=
  ((d.coresIn p).foldl (fun d k => d.raise (pgGauge k) 6) d).raise pgGov (4 * p + 3)

theorem updateGlobal_midStep : d.updateGlobal p false =
    if d.globalCondition p && !(d.part p).globalRecast then (d.recastMarked p).recastReported p else d.recastMarked p := by
  unfold Dev.updateGlobal Dev.recastMarked
  cases d.globalCondition p <;> cases (d.part p).globalRecast <;> rfl

theorem keptOutside_recastReported : d.KeptOutside (d.recastReported p) Place.header :=
  (keptOutside_foldl _ (fun _ k => keptOutside_raise_header (pgGauge k) 6) _ _).trans (keptOutside_raise_header _ _)

/-- Beside the mark, an update in the midst of a step touches headers only. -/
theorem keptOutside_updateGlobal : (d.recastMarked p).KeptOutside (d.updateGlobal p false) Place.header := by
  rw [updateGlobal_midStep]
  split
  · exact keptOutside_recastReported
  · exact .refl _

theorem updateGlobal_cores : (d.updateGlobal p false).cores = d.cores := by
  rw [updateGlobal_midStep]
  split
  · rw [Dev.recastReported, Dev.raise_cores, foldl_unseen Dev.cores fun e k => e.raise_cores (pgGauge k) 6]; rfl
  · rfl

theorem gov_updateGlobal (hp : p < 4) (was : (d.part p).globalRecast = false) (now : d.globalCondition p = true) :
    bit ((d.updateGlobal p false).hdr pgGov).raw.toNat (4 * p + 3) = true := by
  rw [updateGlobal_midStep, was, now]
  exact (congrArg (fun x : Hdr => bit x.raw.toNat (4 * p + 3)) (hdr_raise_self _ _)).trans (bit_raised_raw _ (by omega))

/-- An update in the midst of a step, and the ring entries of core k's partition that are done with it. -/
def Dev.recastUpdated (d : Dev) (k p : Nat) : Dev := (d.updateGlobal p false).ordersOf k

theorem keptOutside_recastUpdated : (d.recastMarked p).KeptOutside (d.recastUpdated k p) Place.header :=
  keptOutside_updateGlobal.trans ((kept_ordersOf k).outside (by simp [Place.header]))

/-- The update leaves its own condition as it found it. -/
theorem globalCondition_recastUpdated : (d.recastUpdated k p).globalCondition p = d.globalCondition p :=
  globalCondition_congr ((ordersOf_cores k).trans updateGlobal_cores) fun c => keptOutside_recastUpdated (.die c) rfl

theorem core_recastUpdated (j : Nat) : (d.recastUpdated k p).core j = d.core j := keptOutside_recastUpdated (.core j) rfl

theorem part_recastUpdated : (d.recastUpdated k p).part p = { d.part p with
    globalRecast := (d.part p).globalRecast || (d.recastUpdated k p).globalCondition p,
    orders := ((d.recastUpdated k p).part p).orders } := by
  have marked := part_of_same (keptOutside_recastUpdated (d := d) (k := k) (p := p) (.part p) rfl)
  rwa [Dev.recastMarked, Dev.part_modPart_self, ← globalCondition_recastUpdated (k := k)] at marked

theorem gov_recastUpdated (hp : p < 4) (was : (d.part p).globalRecast = false) (now : (d.recastUpdated k p).globalCondition p = true) :
    bit ((d.recastUpdated k p).hdr pgGov).raw.toNat (4 * p + 3) = true := by
  rw [Dev.recastUpdated, hdr_ordersOf k (by decide)]
  exact gov_updateGlobal hp was (globalCondition_recastUpdated.symm.trans now)

/-- The core with its ALL_RECAST as it asserts it. -/
def Dev.recastSent (d : Dev) (k : Nat) : Dev := d.modCore k fun c => { c with allRecast := (d.core k).assertsAll }

theorem kept_recastSent : d.Kept ((d.recastSent k).recastMarked p) [.core k, .part p] := (kept_modCore k _).trans (kept_modPart p _)

theorem exec_globalRecastUpdate (hr : s.CoreRuns k) (hk : s.dev.partOf k = some p) :
    exec (.globalRecastUpdate k) s = .next (s.withDev ((s.dev.recastSent k).recastUpdated k p)) := by
  have owner : (s.dev.recastSent k).partOf k = some p := hk
  have updated : s.dev.globalRecastUpdate k = (s.dev.recastSent k).updateGlobal p false := by
    unfold Dev.recastSent at *
    simp only [Dev.globalRecastUpdate, owner]
  rw [Dev.recastUpdated, ← updated]
  exact run_onCore hr fun d => d.globalRecastUpdate k

/-! ### The statement -/

/-- Settles O10: the generators pass on in the core alone; an update of GLOBAL_RECAST marks the core and its partition, and all that
follows touches headers, which the condition does not look at. -/
theorem lanesAndRecast : Obligations.LanesAndRecast := by
  refine ⟨fun s k h hr hh => ?_, fun s k p hr hk hp => ?_⟩
  · exact ⟨_, exec_laneGeneratorsAcquire hr hh, (core_ordersOf k k).trans core_lanesAcquire, kept_lanesAcquire.trans (kept_ordersOf k)⟩
  · refine ⟨_, exec_globalRecastUpdate hr hk, ?_, part_recastUpdated, gov_recastUpdated (d := s.dev.recastSent k) hp, ?_⟩
    · exact (core_recastUpdated k).trans (Dev.core_modCore_self ..)
    · exact (kept_recastSent.outside (by simp)).trans
        (keptOutside_recastUpdated.mono fun x hx => by obtain ⟨_, rfl⟩ := eq_hdr_of_header hx; rfl)

end Sys2Proof.Machine
end

section
/-!
PROOF. Commands that issue (R200, R201, R220): compute commands, which only enter their queue, and the sends and receives of the
message engine, which start at once.
-/
namespace Sys2Proof.Machine

variable {s : State} {d : Dev} {k l n i : Nat} {x : ListSt} {raw : List Byte} {c : Cmd}

/-! ### Compute commands -/

/-- An accepted command that only enters its queue. -/
theorem queued_of_issue {instr : Instr} (fits : List Byte → Bool)
    (arm : exec instr s = s.run fun c => c.onCore k fun d => d.issue k fits keepQueued)
    (h : s.Accepts k l x raw) (hf : fits raw = true) (hx : x.cursor < x.last) :
    ∃ e, exec instr s = .next (s.withDev e) ∧ e.core k = (s.dev.core k).issuedWith (s.dev.issueCmd k l x raw) ∧
      s.dev.Kept e [.core k, .hdr pgPart] :=
  ⟨_, arm.trans (run_issue fits keepQueued h hf hx),
    (core_ordersOf k k).trans (afterIssue_core _ _ (mkCmd_list ..) (mkCmd_idx ..)), (kept_afterIssue _ _).trans (kept_ordersOf k)⟩

/-- Settles O3: each of the twelve commands issues with the opcodes of its own, and nothing is done with it but entering its queue. -/
theorem computeIssue : Obligations.ComputeIssue := by
  intro s k l x raw c fits hc h hf hx cmd
  refine ⟨mkCmd_seq .., mkCmd_desc .., mkCmd_list .., mkCmd_idx .., queued_of_issue fits ?_ h hf hx⟩
  simp only [List.mem_cons, Prod.mk.injEq, List.not_mem_nil, or_false] at hc
  rcases hc with ⟨rfl, rfl⟩ | ⟨rfl, rfl⟩ | ⟨rfl, rfl⟩ | ⟨rfl, rfl⟩ | ⟨rfl, rfl⟩ | ⟨rfl, rfl⟩ | ⟨rfl, rfl⟩ | ⟨rfl, rfl⟩ |
    ⟨rfl, rfl⟩ | ⟨rfl, rfl⟩ | ⟨rfl, rfl⟩ | ⟨rfl, rfl⟩ <;> rfl

/-! ### Messages -/

/-- A command that starts changes of its core the command, CUR_SEQ and a live counter alone. -/
theorem core_startCmd (d : Dev) (k : Nat) (c : Cmd) (n : Nat) :
    ∃ cs u v, (d.startCmd k c n).core k = { d.core k with cmds := cs, curSeq := u, live := v } := by
  unfold Dev.startCmd
  split
  · exact ⟨_, _, _, rfl⟩
  · dsimp only
    rw [Dev.setLive, Dev.core_modCore_self, Dev.core_modCore_self]
    exact ⟨_, _, _, rfl⟩

theorem kept_startCmd (c : Cmd) (n : Nat) : d.Kept (d.startCmd k c n) [.core k] := by
  unfold Dev.startCmd
  exact kept_ite (fun _ => .refl d) fun _ => (kept_modCore _ _).seq (kept_modCore _ _)

theorem kept_flights (fs : List Send) : d.Kept { d with flights := fs } [.flights] := by
  intro x hx; cases x
  case flights => exact absurd List.mem_cons_self hx
  all_goals first | exact rfl | exact ⟨rfl, rfl⟩ | exact ⟨rfl, rfl, rfl⟩ | exact fun _ _ => rfl

/-- The message that MSG.SEND command c of core k sends (R220). -/
def Cmd.sends (c : Cmd) (k : Nat) : Send :=
  let b := MsgB.parse c.desc
  { src := k, seq := c.seq, dest := b.peer, tag := b.tag, len := b.len, addr := b.addr }

/-- The receive that MSG.RECV command c posts (R220). -/
def Cmd.posts (c : Cmd) : Recv :=
  let b := MsgB.parse c.desc
  ⟨c.seq, b.any, b.peer, b.tag, b.len, b.addr, b.lenToC⟩

/-- A device whose command has issued and started. -/
def Dev.issuedStarted (d : Dev) (k l i : Nat) (c : Cmd) : Dev := (d.afterIssue k l i c).startCmd k c 3

theorem kept_issuedStarted (i : Nat) (c : Cmd) : d.Kept (d.issuedStarted k l i c) [.core k] :=
  (kept_afterIssue i c).seq (kept_startCmd c 3)

/-- A command that has issued and started has its number and place behind it; receives and arrivals are as they were. -/
theorem core_issuedStarted (hl : c.list = l) (hi : c.idx = i) :
    ((d.issuedStarted k l i c).core k).seqNext = ((d.core k).seqNext + 1) % 2 ^ 32 ∧
    (((d.issuedStarted k l i c).core k).list l).cursor = i + 1 ∧
    ((d.issuedStarted k l i c).core k).recvs = (d.core k).recvs ∧
    ((d.issuedStarted k l i c).core k).arrivals = (d.core k).arrivals := by
  subst hl hi
  obtain ⟨cs, u, v, hc⟩ := core_startCmd (d.afterIssue k c.list c.idx c) k c 3
  rw [Dev.issuedStarted, hc, afterIssue_core c.idx c rfl rfl]
  exact ⟨rfl, congrArg ListSt.cursor tget_tset_self, rfl, rfl⟩

/-- MSG.SEND puts its message in flight. -/
theorem msgSend_issues (h : s.Accepts k l x raw) (hx : x.cursor < x.last) (hop : dOp raw = 0x30)
    (hc : s.dev.issueCmd k l x raw = c) :
    exec (.msgSend k) s = .next (s.withDev (Dev.ordersOf { s.dev.issuedStarted k l x.cursor c with
      flights := s.dev.flights ++ [c.sends k] } k)) := by
  have flights : (s.dev.issuedStarted k l x.cursor c).flights = s.dev.flights := kept_issuedStarted _ _ .flights (by simp)
  rw [← flights, ← hc]
  exact run_issue (opIn [0x30]) _ h (by simp [opIn, hop]) hx

/-- The receive of a command in flight meets the first arrival that it accepts, or is posted. -/
def Dev.meetOrPost (d : Dev) (k : Nat) (c : Cmd) : Dev :=
  match takeArrival c.posts (d.core k).arrivals with
  | some (m, ms) => (d.modCore k fun q => { q with arrivals := ms }).deliver k m c.posts
  | none => d.modCore k fun q => { q with recvs := q.recvs ++ [c.posts] }

/-- MSG.RECV meets an arrival or is posted. -/
theorem msgRecv_issues (h : s.Accepts k l x raw) (hx : x.cursor < x.last) (hop : dOp raw = 0x31)
    (hc : s.dev.issueCmd k l x raw = c) :
    exec (.msgRecv k) s = .next (s.withDev (((s.dev.issuedStarted k l x.cursor c).meetOrPost k c).ordersOf k)) := by
  rw [← hc]
  exact run_issue (opIn [0x31]) _ h (by simp [opIn, hop]) hx

theorem meetOrPost_none (h : takeArrival c.posts (d.core k).arrivals = none) :
    d.meetOrPost k c = d.modCore k fun q => { q with recvs := q.recvs ++ [c.posts] } := by
  unfold Dev.meetOrPost; rw [h]

/-- Settles O4: a send that starts goes into flight, and a receive that no arrival meets goes behind the others; both leave the rest of
the device as issuing them does. -/
theorem messageIssue : Obligations.MessageIssue := by
  intro s k l x raw h hx
  have seq : (s.dev.issueCmd k l x raw).seq = (s.dev.core k).seqNext := mkCmd_seq ..
  obtain ⟨hn, hcur, hr, ha⟩ := core_issuedStarted (d := s.dev) (k := k) (c := s.dev.issueCmd k l x raw) (mkCmd_list ..) (mkCmd_idx ..)
  have sends := msgSend_issues h hx (hc := rfl)
  have posts := msgRecv_issues h hx (hc := rfl)
  generalize s.dev.issueCmd k l x raw = c at *
  have started : s.dev.Kept (s.dev.issuedStarted k l x.cursor c) [.core k] := kept_issuedStarted _ _
  intro cmd b q
  refine ⟨fun hop => ⟨_, sends hop, ?_, ?_, ?_, (started.trans (kept_flights _)).trans (kept_ordersOf k)⟩,
    fun hop hnone => ?_⟩
  · rw [← seq]; exact kept_ordersOf k .flights (by simp)
  · rw [core_ordersOf]; exact hn
  · rw [core_ordersOf]; exact hcur
  · rw [← seq] at hnone
    have run := posts hop
    rw [meetOrPost_none (by rw [ha]; exact hnone)] at run
    refine ⟨_, run, ?_, ?_, ?_, ?_, (started.seq (kept_modCore k _)).trans (kept_ordersOf k)⟩ <;>
      rw [core_ordersOf, Dev.core_modCore_self]
    · rw [hr, ← seq]; rfl
    · exact ha
    · exact hn
    · exact hcur

end Sys2Proof.Machine
end

section
/-!
PROOF. Jobs of a core that end by events of their own: loads of command memory (R225, R226) and probes of the lane generators (R191).
-/
namespace Sys2Proof.Machine

variable {s : State} {d : Dev} {k : Nat} {w : Word}

/-! ### 64-bit registers -/

section
variable {pg off o : Nat} (h : off + 4 < 4096)
include h

theorem reg64_setReg64_self (v : Nat) : (d.setReg64 pg off v).reg64 pg off = v % 2 ^ 64 := by
  have low := Dev.reg_setReg_ne (d.setReg pg off v) (v / 2 ^ 32) (regKey_ne (g := pg) (pg := pg) (o := off) (by omega) h (.inr (by omega)))
  rw [Dev.setReg64, Dev.reg64, low, Dev.reg_setReg_self, Dev.reg_setReg_self]
  omega

theorem reg64_setReg64_ne (v : Nat) (ho : o + 4 < 4096) (hne : o + 4 < off ∨ off + 4 < o) :
    (d.setReg64 pg off v).reg64 pg o = d.reg64 pg o := by
  have other {a b : Nat} (ha : a < 4096) (hb : b < 4096) (hn : a ≠ b) (e : Dev) (w : Nat) : (e.setReg pg b w).reg pg a = e.reg pg a :=
    e.reg_setReg_ne w (regKey_ne ha hb (.inr hn))
  have both {a : Nat} (ha : a < 4096) (hlo : a ≠ off) (hhi : a ≠ off + 4) : (d.setReg64 pg off v).reg pg a = d.reg pg a :=
    (other ha h hhi _ _).trans (other ha (by omega) hlo _ _)
  rw [Dev.reg64, Dev.reg64, both (by omega) (by omega) (by omega), both ho (by omega) (by omega)]

theorem reg64_raise {g b : Nat} (hg : pg ≠ pgRailjor) : (d.raise g b).reg64 pg off = d.reg64 pg off := by
  rw [Dev.reg64, Dev.reg64, reg_raise (by omega) hg, reg_raise h hg]

theorem reg64_ordersOf (hg : pg ≠ pgRailjor) : (d.ordersOf k).reg64 pg off = d.reg64 pg off := by
  have same {a : Nat} (ha : a < 4096) : (d.ordersOf k).reg pg a = d.reg pg a :=
    ordersOf_same (x := .reg pg a) k (by simp) ha fun hn => hg hn.1
  rw [Dev.reg64, Dev.reg64, same (by omega), same h]
end

/-! ### Loads of command memory (R225, R226) -/

theorem writeCore_cmemGo : d.writeCore k 0x13C w = d.cmemLoad k w := by
  unfold Dev.writeCore
  rw [if_neg (by decide), if_neg (by decide), if_neg (by decide)]
  rfl

theorem exec_cmemLoad (h : s.CoreRuns k) : exec (.cmemLoad k w) s = .next (s.written (s.dev.cmemLoad k w)) :=
  (run_busWrite_core (i := 0) h (by decide) rfl (by decide) (by decide)).trans
    (by rw [← pgCore, writePage_core h.2.1, writeCore_cmemGo])

section
variable (hgo : bit w.toNat 0 = true) (hn : (d.core k).cmemJob = none)
include hgo hn

theorem cmemLoad_refused (h : d.cmemRefused k (d.reg64 (pgCore k) 0x130 % 2 ^ 48 / 64 * 64) (d.reg (pgCore k) 0x138) = true) :
    ∃ i0, d.cmemLoad k w = d.setError (pgCore k) 0x010B i0 0 :=
  ⟨_, by rw [Dev.cmemLoad, if_neg (by simp [hgo, hn]), if_pos h]; rfl⟩

theorem cmemLoad_starts (h : d.cmemRefused k (d.reg64 (pgCore k) 0x130 % 2 ^ 48 / 64 * 64) (d.reg (pgCore k) 0x138) = false) :
    d.cmemLoad k w = d.modCore k fun c =>
      { c with cmemJob := some (d.reg64 (pgCore k) 0x130 % 2 ^ 48 / 64 * 64, d.reg (pgCore k) 0x138) } := by
  rw [Dev.cmemLoad, if_neg (by simp [hgo, hn]), if_neg (by rw [h]; decide)]
end

/-- A load that is done: the descriptors stand in command memory, and CMEM_GO has fallen. -/
def Dev.cmemLoaded (d : Dev) (k a b : Nat) : Dev := (d.cmemCopy k a b).modCore k fun c => { c with cmemJob := none }

theorem cmemLoadDone_eq {a b : Nat} (h : (d.core k).cmemJob = some (a, b)) :
    d.cmemLoadDone k = (d.cmemLoaded k a b).raise (pgCore k) 3 := by
  simp only [Dev.cmemLoadDone, h, Dev.cmemLoaded]

theorem core_cmemLoaded (a b : Nat) : (d.cmemLoaded k a b).core k = { d.core k with
    cmem := (d.core k).cmem.write (64 * (cmemDst b).1) (d.read a (64 * (cmemDst b).2)), cmemJob := none } := by
  rw [Dev.cmemLoaded, Dev.core_modCore_self, Dev.cmemCopy, Dev.core_modCore_self]

theorem kept_cmemLoaded (a b : Nat) : d.Kept (d.cmemLoaded k a b) [.core k] := (kept_modCore _ _).seq (kept_modCore _ _)

theorem hdr_cmemLoaded (a b g : Nat) : (d.cmemLoaded k a b).hdr g = d.hdr g := rfl

/-! ### Probes (R191) -/

theorem writePage_lane {off : Nat} (hk : k < numCores) : d.writePage {} (pgLane k) off w = d.writeLane k off w := by
  unfold Dev.writePage; rw [pgLane, pageType_pgOfCore hk (by decide), pageInstance_pgOfCore hk (by decide)]; rfl

theorem exec_laneProbeGo (h : s.CoreRuns k) : exec (.laneProbeGo k w) s = .next (s.written (s.dev.laneProbeGo k w)) :=
  (run_busWrite_core (i := 6) h (by decide) rfl (by decide) (by decide)).trans (by rw [← pgLane, writePage_lane h.2.1]; rfl)

theorem laneProbeGo_starts (hgo : bit w.toNat 0 = true) (hn : (d.core k).probe = none) :
    d.laneProbeGo k w = d.modCore k fun c => { c with probe := some (d.reg64 (pgLane k) 0x108) } := by
  rw [Dev.laneProbeGo, if_neg (by simp [hgo, hn])]

/-- The generator's state at the probe's inputs, with the SEED that PROBE_GO found. -/
def Dev.probeState (d : Dev) (k seed : Nat) : Nat :=
  let r (o : Nat) := d.reg (pgLane k) o
  ({ seed, tag := r 0x124, step := r 0x128, cls := r 0x120 } : DrawKey).stateAt (d.reg64 (pgLane k) 0x130)

/-- The probe's registers show the state `st` and its draw. -/
def Dev.probeRegs (d : Dev) (k st : Nat) : Dev :=
  ((d.setReg64 (pgLane k) 0x140 (stippleOut st)).setReg64 (pgLane k) 0x148 (st % 2 ^ 64)).setReg64 (pgLane k) 0x150 (st / 2 ^ 64)

/-- A probe that is done: its registers show the state `st`, and PROBE_GO has fallen. -/
def Dev.probeShown (d : Dev) (k st : Nat) : Dev := (d.probeRegs k st).modCore k fun c => { c with probe := none }

theorem laneProbeDone_eq {seed : Nat} (h : (d.core k).probe = some seed) :
    d.laneProbeDone k = (d.probeShown k (d.probeState k seed)).raise (pgLane k) 1 := by
  simp only [Dev.laneProbeDone, h]; rfl

theorem reg64_probeRegs (st : Nat) : (d.probeRegs k st).reg64 (pgLane k) 0x140 = stippleOut st % 2 ^ 64 ∧
    (d.probeRegs k st).reg64 (pgLane k) 0x148 = st % 2 ^ 64 ∧ (d.probeRegs k st).reg64 (pgLane k) 0x150 = st / 2 ^ 64 % 2 ^ 64 := by
  unfold Dev.probeRegs
  refine ⟨?_, ?_, reg64_setReg64_self (by decide) _⟩
  · rw [reg64_setReg64_ne (by decide) _ (by decide) (by decide), reg64_setReg64_ne (by decide) _ (by decide) (by decide),
      reg64_setReg64_self (by decide)]
  · rw [reg64_setReg64_ne (by decide) _ (by decide) (by decide), reg64_setReg64_self (by decide), Nat.mod_mod]

/-- The three 64-bit registers in which a probe shows its results. -/
def Place.probeOf (k : Nat) : Place → Bool
  | .core j => j == k
  | .reg g o => g == pgLane k && decide (0x140 ≤ o ∧ o < 0x158)
  | _ => false

theorem keptOutside_probeShown (st : Nat) : d.KeptOutside (d.probeShown k st) (Place.probeOf k) := by
  unfold Dev.probeShown Dev.probeRegs
  refine (((kept_setReg64 _ _ _ (by decide)).outside ?_).trans ((kept_setReg64 _ _ _ (by decide)).outside ?_)).trans
    (((kept_setReg64 _ _ _ (by decide)).outside ?_).trans ((kept_modCore _ _).outside ?_)) <;> simp [Place.probeOf]

/-- Settles O20: a GO is refused by an error of its page, or notes its job in the core; the job's end changes the core and the
probe's registers, and raises its event. -/
theorem coreJobs : Obligations.CoreJobs := by
  intro s k w h d q src dst
  refine ⟨fun hgo hn => ⟨fun hr => ?_, fun hr => ?_⟩, fun a b hj => ?_, fun hgo hn => ?_, fun seed hp => ?_⟩
  · refine ⟨_, exec_cmemLoad h, ?_⟩
    rw [cmemLoad_starts hgo hn hr]
    exact ⟨Dev.core_modCore_self _ _ _, kept_modCore _ _⟩
  · obtain ⟨i0, he⟩ := cmemLoad_refused hgo hn hr
    exact refused_of_setError (i := 0) (by rw [exec_cmemLoad h, he]; rfl)
  · have run : exec (.cmemLoadDone k) s = _ := run_onCore h fun d => d.cmemLoadDone k
    rw [cmemLoadDone_eq hj] at run
    refine ⟨_, run, ?_, ?_, ((kept_cmemLoaded _ _).trans (kept_raise _ _)).trans (kept_ordersOf k)⟩
    · rw [core_ordersOf, Dev.core_raise, core_cmemLoaded]
    · rw [hdr_core_ordersOf, hdr_raise_self, hdr_cmemLoaded]
  · refine ⟨_, exec_laneProbeGo h, ?_⟩
    rw [laneProbeGo_starts hgo hn]
    exact ⟨Dev.core_modCore_self _ _ _, kept_modCore _ _⟩
  · have run : exec (.laneProbeDone k) s = _ := run_onCore h fun d => d.laneProbeDone k
    rw [laneProbeDone_eq hp] at run
    have hl : pgLane k ≠ pgPart := pgOfCore_ne_of_lt (by decide)
    have hr : pgLane k ≠ pgRailjor := pgOfCore_ne_of_lt (by decide)
    obtain ⟨draw, low, high⟩ := reg64_probeRegs (d := d) (k := k) (d.probeState k seed)
    have reads {o : Nat} (ho : o + 4 < 4096) :
        (((d.probeShown k (d.probeState k seed)).raise (pgLane k) 1).ordersOf k).reg64 (pgLane k) o =
          (d.probeRegs k (d.probeState k seed)).reg64 (pgLane k) o :=
      (reg64_ordersOf ho hr).trans (reg64_raise ho hr)
    refine ⟨_, run, ?_, (reads (by decide)).trans draw, (reads (by decide)).trans low, (reads (by decide)).trans high, ?_, ?_⟩
    · rw [core_ordersOf, Dev.core_raise, Dev.probeShown, Dev.core_modCore_self]; rfl
    · rw [hdr_ordersOf k hl, hdr_raise_self]; rfl
    · refine ((keptOutside_probeShown _).mono fun p hp => ?_).trans
        (((kept_raise _ _).outside (by simp)).trans ((kept_ordersOf k).outside (by simp)))
      cases p <;> simp_all [Place.probeOf]

end Sys2Proof.Machine
end

section
/-!
PROOF. Commands of a core that end, and messages that arrive (R220–R222).
-/
namespace Sys2Proof.Machine

variable {d e f : Dev} {k j seq n len : Nat} {c : Cmd} {q q' q'' : CoreSt} {p : Cmd → Prop}

/-! ### Commands in flight that a change of the core leaves there -/

/-- A command in flight of number `n` is as `p` says. -/
def CoreSt.Has (q : CoreSt) (n : Nat) (p : Cmd → Prop) : Prop := ∃ y ∈ q.cmds, y.seq = n ∧ p y

/-- Commands stay in flight, those that have ended stay ended, and posted receives, arrivals and c registers are as they were. -/
structure CoreSt.GoesOn (q q' : CoreSt) (p : Cmd → Prop) : Prop where
  recvs : q'.recvs = q.recvs
  regs : q'.c = q.c
  flying : ∀ n, (q'.cmd? n).isSome = (q.cmd? n).isSome
  has : ∀ n, q.Has n p → q'.Has n p

theorem CoreSt.GoesOn.refl (q : CoreSt) : q.GoesOn q p := ⟨rfl, rfl, fun _ => rfl, fun _ => id⟩

theorem CoreSt.GoesOn.trans (h : q.GoesOn q' p) (h' : q'.GoesOn q'' p) : q.GoesOn q'' p :=
  ⟨h'.recvs.trans h.recvs, h'.regs.trans h.regs, fun n => (h'.flying n).trans (h.flying n), fun n => h'.has n ∘ h.has n⟩

section
variable {g : Cmd → Cmd} (hg : ∀ y, (g y).seq = y.seq)
include hg

theorem flying_modCmd (q : CoreSt) (s n : Nat) : ((q.modCmd s g).cmd? n).isSome = (q.cmd? n).isSome := by
  rw [cmd?_modCmd g fun y hy => (hg y).trans hy, Option.isSome_map]

theorem has_modCmd (hp : ∀ y, p y → p (g y)) (s n : Nat) (h : q.Has n p) : (q.modCmd s g).Has n p := by
  obtain ⟨y, hy, hn, hpy⟩ := h
  refine ⟨if y.seq == s then g y else y, List.mem_map_of_mem hy, ?_, ?_⟩
  · split
    · exact (hg y).trans hn
    · exact hn
  · split
    · exact hp y hpy
    · exact hpy

theorem goesOn_modCmd (hp : ∀ y, p y → p (g y)) (q : CoreSt) (s : Nat) : q.GoesOn (q.modCmd s g) p :=
  ⟨rfl, rfl, flying_modCmd hg q s, has_modCmd hg hp s⟩

/-- A command in flight that is changed is as the change makes it. -/
theorem has_modCmd_self (hp : ∀ y, p (g y)) {s : Nat} (h : (q.cmd? s).isSome = true) : (q.modCmd s g).Has s p := by
  obtain ⟨y, hy⟩ := Option.isSome_iff_exists.1 h
  have hs : y.seq = s := cmd?_seq hy
  refine ⟨g y, List.mem_map.2 ⟨y, List.mem_of_find?_eq_some hy, if_pos (by simp [hs])⟩, (hg y).trans hs, hp y⟩
end

/-- What has ended goes on in every core. -/
def Dev.GoesOn (d e : Dev) (p : Cmd → Prop) : Prop := ∀ j, (d.core j).GoesOn (e.core j) p

theorem Dev.GoesOn.refl (d : Dev) : d.GoesOn d p := fun _ => .refl _

theorem Dev.GoesOn.trans (h : d.GoesOn e p) (h' : e.GoesOn f p) : d.GoesOn f p := fun j => (h j).trans (h' j)

theorem goesOn_modCore {g : CoreSt → CoreSt} (h : (d.core k).GoesOn (g (d.core k)) p) : d.GoesOn (d.modCore k g) p := by
  intro j
  by_cases hj : j = k
  · subst hj; rw [Dev.core_modCore_self]; exact h
  · rw [Dev.core_modCore_ne _ _ _ hj]; exact .refl _

theorem goesOn_of_core (h : ∀ j, e.core j = d.core j) : d.GoesOn e p := fun j => by rw [h j]; exact .refl _

theorem goesOn_setLive (i s v : Nat) : d.GoesOn (d.setLive k i s v) p := goesOn_modCore ⟨rfl, rfl, fun _ => rfl, fun _ => id⟩

/-! ### A command that ends -/

/-- A command that has done its work, with an error or without. -/
def Cmd.ended (x : Option ErrRec) (y : Cmd) : Cmd := { y with err := if x.isSome then x else y.err, complete := true }

theorem endCmd_none : d.endCmd k seq none = d.modCore k fun c => c.modCmd seq (Cmd.ended none) := rfl

theorem endCmd_some (x : ErrRec) : d.endCmd k seq (some x) = (d.setErr x).modCore k fun c => c.modCmd seq (Cmd.ended (some x)) := rfl

theorem core_endCmd (x : Option ErrRec) : (d.endCmd k seq x).core k = (d.core k).modCmd seq (Cmd.ended x) := by
  cases x with
  | none => rw [endCmd_none, Dev.core_modCore_self]
  | some x => rw [endCmd_some, Dev.core_modCore_self, (reports_setErr x).core]

theorem goesOn_endCmd {x : Option ErrRec} (hp : ∀ y, p y → p (y.ended x)) : d.GoesOn (d.endCmd k seq x) p := by
  cases x with
  | none => exact goesOn_modCore (goesOn_modCmd (g := Cmd.ended none) (fun _ => rfl) hp _ _)
  | some x =>
    exact (goesOn_of_core (reports_setErr x).core).trans
      (goesOn_modCore (goesOn_modCmd (g := Cmd.ended (some x)) (fun _ => rfl) hp _ _))

/-- What the error of an issued command's sequencer touches. -/
def Place.faultOf (k : Nat) : Place → Bool
  | .core j => j == k
  | .hdr g => g == pgCore k || g == pgDbg
  | .log => true
  | _ => false

theorem keptOutside_endCmd_coreErr (c : Cmd) (code : Nat) :
    d.KeptOutside (d.endCmd k seq (some (c.coreErr k code))) (Place.faultOf k) := by
  rw [endCmd_some]
  exact ((kept_setError _ _ _ _).outside (by simp [Place.faultOf, Cmd.coreErr, errOn])).trans
    ((kept_modCore _ _).outside (by simp [Place.faultOf]))

/-! ### The send of a message ends -/

/-- The sender's command with what the message counts for. -/
def Cmd.messaged (len : Nat) (y : Cmd) : Cmd := { y with counts := { y.counts with bytes := len, msgs := 1 } }

theorem endSend_absent {m : Send} (h : (d.core m.src).cmd? m.seq = none) (g : Cmd → Option ErrRec) : d.endSend m g = d := by
  unfold Dev.endSend; rw [h]

theorem endSend_error {m : Send} (h : (d.core m.src).cmd? m.seq = some c) (g : Cmd → ErrRec) :
    (d.endSend m fun c => some (g c)) = d.endCmd m.src m.seq (some (g c)) := by
  simp only [Dev.endSend, h, Option.isNone_some, Bool.false_eq_true, if_false]

theorem endSend_clean {m : Send} (h : (d.core m.src).cmd? m.seq = some c) : (d.endSend m fun _ => none) =
    (d.modCore m.src fun q => q.modCmd m.seq (Cmd.messaged m.len)).endCmd m.src m.seq none := by
  simp only [Dev.endSend, h, Option.isNone_none, if_true]; rfl

/-- A command has done its work. -/
def Cmd.Done (y : Cmd) : Prop := y.complete = true

/-- A command has ended with an error of this code. -/
def Cmd.Failed (code : Nat) (y : Cmd) : Prop := y.complete = true ∧ y.err.map (·.code) = some code

theorem has_endCmd {x : Option ErrRec} (hp : ∀ y : Cmd, p (y.ended x)) (h : ((d.core k).cmd? seq).isSome = true) :
    ((d.endCmd k seq x).core k).Has seq p := by
  rw [core_endCmd]; exact has_modCmd_self (g := Cmd.ended x) (p := p) (fun _ => rfl) hp h

section
variable {m : Send}

/-- The send's command ends without error, where it is in flight. -/
theorem endSend_clean_shows (d : Dev) : d.GoesOn (d.endSend m fun _ => none) Cmd.Done ∧
    d.Kept (d.endSend m fun _ => none) [.core m.src] ∧
    (((d.core m.src).cmd? m.seq).isSome = true → ((d.endSend m fun _ => none).core m.src).Has m.seq Cmd.Done) := by
  cases h : (d.core m.src).cmd? m.seq with
  | none => rw [endSend_absent h]; exact ⟨.refl d, .refl d, fun hs => by cases hs⟩
  | some c =>
    have counted : d.GoesOn (d.modCore m.src fun q => q.modCmd m.seq (Cmd.messaged m.len)) Cmd.Done :=
      goesOn_modCore (goesOn_modCmd (g := Cmd.messaged m.len) (fun _ => rfl) (fun _ => id) _ _)
    rw [endSend_clean h]
    refine ⟨counted.trans (goesOn_endCmd fun _ _ => rfl), (kept_modCore _ _).seq (kept_modCore _ _), fun _ => ?_⟩
    exact has_endCmd (fun _ => rfl) ((counted m.src).flying m.seq ▸ h ▸ rfl)

/-- The send's command ends with an error of code `code`, where it is in flight. -/
theorem endSend_error_shows (d : Dev) (code : Nat) :
    d.GoesOn (d.endSend m fun c => some (c.coreErr m.src code)) (Cmd.Failed code) ∧
    d.KeptOutside (d.endSend m fun c => some (c.coreErr m.src code)) (Place.faultOf m.src) := by
  cases h : (d.core m.src).cmd? m.seq with
  | none => rw [endSend_absent h]; exact ⟨.refl d, .refl d⟩
  | some c =>
    rw [endSend_error h fun c => c.coreErr m.src code]
    exact ⟨goesOn_endCmd fun _ _ => ⟨rfl, rfl⟩, keptOutside_endCmd_coreErr _ _⟩
end

/-! ### A message meets its receive -/

/-- The receiving core with the message counted, and its length in the register the receive names (R221). -/
def CoreSt.receives (q : CoreSt) (r : Recv) (len : Nat) : CoreSt :=
  let x := q.modCmd r.seq (Cmd.messaged len)
  match r.lenToC with
  | some i => x.setC i len
  | none => x

theorem receives_shows (q : CoreSt) (r : Recv) (len : Nat) : (q.receives r len).recvs = q.recvs ∧
    (∀ i, r.lenToC = some i → (q.receives r len).creg i = len % 2 ^ 32) ∧
    ∀ n, ((q.receives r len).cmd? n).isSome = (q.cmd? n).isSome := by
  unfold CoreSt.receives
  cases r.lenToC with
  | none => exact ⟨rfl, (fun i hi => nomatch hi), flying_modCmd (g := Cmd.messaged len) (fun _ => rfl) _ _⟩
  | some i =>
    refine ⟨rfl, fun j hj => ?_, flying_modCmd (g := Cmd.messaged len) (fun _ => rfl) _ _⟩
    cases hj; exact tget_tset_self

/-- The bytes of a message stand at its receive's address, and the receive has done its work. -/
def Dev.received (d : Dev) (k : Nat) (r : Recv) (bs : List Byte) (len : Nat) : Dev :=
  ((((d.write r.addr bs).modCore k fun q => q.receives r len).setLive k 3 r.seq len).endCmd k r.seq none)

section
variable {r : Recv} {m : Send} (h : (d.core k).cmd? r.seq = some c)
include h

theorem deliver_long (hl : r.bound < m.len) : d.deliver k m r =
    (d.endCmd k r.seq (some (c.coreErr k 0x0109))).endSend m fun c => some (c.coreErr m.src 0x0109) := by
  unfold Dev.deliver; rw [h]; exact if_pos hl

theorem deliver_fits (hl : m.len ≤ r.bound) (hs : m.src < numCores) (hb : d.badAt m.addr m.len = none) : d.deliver k m r =
    ((d.received k r (d.read m.addr m.len) m.len).setLive m.src 3 m.seq m.len).endSend m fun _ => none := by
  have data : d.sendData m = .ok (d.read m.addr m.len) := by
    unfold Dev.sendData; rw [if_neg (Nat.not_le.2 hs), hb]
  unfold Dev.deliver
  simp only [h, if_neg (Nat.not_lt.2 hl), data, if_pos hs]
  rfl

/-- The receive has done its work: it is in the register and the command, and the bytes are written. -/
theorem received_shows (bs : List Byte) (len : Nat) :
    ((d.received k r bs len).core k).recvs = (d.core k).recvs ∧
    (∀ i, r.lenToC = some i → ((d.received k r bs len).core k).creg i = len % 2 ^ 32) ∧
    ((d.received k r bs len).core k).Has r.seq Cmd.Done ∧
    (∀ j n, (((d.received k r bs len).core j).cmd? n).isSome = ((d.core j).cmd? n).isSome) ∧
    (d.write r.addr bs).Kept (d.received k r bs len) [.core k] := by
  have core : ((d.received k r bs len).core k) =
      { ((d.core k).receives r len).modCmd r.seq (Cmd.ended none) with
        live := tset (0, 0) ((d.core k).receives r len).live 3 (len % 2 ^ 48, r.seq % 2 ^ 16) } := by
    rw [Dev.received, core_endCmd, Dev.setLive, Dev.core_modCore_self, Dev.core_modCore_self, core_write]; rfl
  have kept : (d.write r.addr bs).Kept (d.received k r bs len) [.core k] :=
    ((kept_modCore _ _).seq (kept_modCore _ _)).seq (kept_modCore _ _)
  obtain ⟨hr, hl, hf⟩ := receives_shows (d.core k) r len
  have flying (n : Nat) : (((d.received k r bs len).core k).cmd? n).isSome = ((d.core k).cmd? n).isSome := by
    rw [core]; exact (flying_modCmd (g := Cmd.ended none) (fun _ => rfl) _ _ _).trans (hf n)
  refine ⟨by rw [core]; exact hr, fun i hi => by rw [core]; exact hl i hi, ?_, fun j n => ?_, kept⟩
  · rw [core]
    exact has_modCmd_self (g := Cmd.ended none) (p := Cmd.Done) (fun _ => rfl) (fun _ => rfl) (by rw [hf, h]; rfl)
  · by_cases hj : j = k
    · subst hj; exact flying n
    · rw [show Dev.core _ j = _ from kept (.core j) (by simpa using hj), core_write]

/-- Delivery with room (R221): the bytes are written, both commands have done their work, and nothing but their cores changes
beside. -/
theorem deliver_fits_shows (hl : m.len ≤ r.bound) (hs : m.src < numCores) (hb : d.badAt m.addr m.len = none) :
    ((d.deliver k m r).core k).recvs = (d.core k).recvs ∧
    (∀ i, r.lenToC = some i → ((d.deliver k m r).core k).creg i = m.len % 2 ^ 32) ∧
    ((d.deliver k m r).core k).Has r.seq Cmd.Done ∧
    (((d.core m.src).cmd? m.seq).isSome = true → ((d.deliver k m r).core m.src).Has m.seq Cmd.Done) ∧
    (d.write r.addr (d.read m.addr m.len)).Kept (d.deliver k m r) [.core k, .core m.src] := by
  obtain ⟨recvs, regs, done, flying, kept⟩ := received_shows h (d.read m.addr m.len) m.len
  rw [deliver_fits h hl hs hb]
  generalize d.received k r (d.read m.addr m.len) m.len = a at *
  obtain ⟨on, ended, sent⟩ := endSend_clean_shows (m := m) (a.setLive m.src 3 m.seq m.len)
  have live : a.GoesOn (a.setLive m.src 3 m.seq m.len) Cmd.Done := goesOn_setLive _ _ _
  have both := live.trans on k
  refine ⟨both.recvs.trans recvs, fun i hi => (congrArg (tget 0 · i) both.regs).trans (regs i hi), both.has _ done, fun hf => ?_, ?_⟩
  · exact sent (((live m.src).flying m.seq).trans ((flying _ _).trans hf))
  · exact (kept.trans ((kept_modCore m.src _).seq ended)).mono (by simp)

/-- Delivery beyond the bound (R221): the receive ends with 0x0109, and nothing moves. -/
theorem deliver_long_shows (hl : r.bound < m.len) :
    ((d.deliver k m r).core k).recvs = (d.core k).recvs ∧ ((d.deliver k m r).core k).Has r.seq (Cmd.Failed 0x0109) ∧
    d.KeptOutside (d.deliver k m r) fun p => p.faultOf k || p.faultOf m.src := by
  have ended := keptOutside_endCmd_coreErr (d := d) (k := k) (seq := r.seq) c 0x0109
  have failed : ((d.endCmd k r.seq (some (c.coreErr k 0x0109))).core k).Has r.seq (Cmd.Failed 0x0109) :=
    has_endCmd (fun _ => ⟨rfl, rfl⟩) (h ▸ rfl)
  have first : d.GoesOn (d.endCmd k r.seq (some (c.coreErr k 0x0109))) (Cmd.Failed 0x0109) := goesOn_endCmd fun _ _ => ⟨rfl, rfl⟩
  rw [deliver_long h hl]
  obtain ⟨on, kept⟩ := endSend_error_shows (m := m) (d.endCmd k r.seq (some (c.coreErr k 0x0109))) 0x0109
  exact ⟨((first.trans on) k).recvs, (on k).has _ failed,
    (ended.mono fun p hp => by simp [hp]).trans (kept.mono fun p hp => by simp [hp])⟩
end

/-! ### MESSAGE_ARRIVAL -/

/-- The device once a message has left the mesh. -/
def Dev.landed (d : Dev) (src seq : Nat) : Dev := { d with flights := d.flights.filter fun m => !(m.src == src && m.seq == seq) }

theorem kept_landed (src : Nat) : d.Kept (d.landed src seq) [.flights] := by
  intro x hx; cases x
  case flights => exact absurd List.mem_cons_self hx
  all_goals first | exact rfl | exact ⟨rfl, rfl⟩ | exact ⟨rfl, rfl, rfl⟩ | exact fun _ _ => rfl

/-- The device once message m is out of the mesh and the receive that takes it out of its table, which then holds `rs`. -/
def Dev.matched (d : Dev) (m : Send) (rs : List Recv) : Dev := (d.landed m.src m.seq).modCore m.dest fun c => { c with recvs := rs }

theorem kept_matched (m : Send) (rs : List Recv) : d.Kept (d.matched m rs) [.core m.dest, .flights] :=
  ((kept_landed _).trans (kept_modCore _ _)).mono (by simp)

/-- Commands in flight are as they were. -/
theorem cmd?_matched (m : Send) (rs : List Recv) (j n : Nat) : ((d.matched m rs).core j).cmd? n = (d.core j).cmd? n := by
  by_cases hj : j = m.dest
  · subst hj; rw [Dev.matched, Dev.core_modCore_self]; rfl
  · rw [show Dev.core _ j = _ from kept_matched m rs (.core j) (by simpa using hj)]

theorem recvs_matched (m : Send) (rs : List Recv) : ((d.matched m rs).core m.dest).recvs = rs := by
  rw [Dev.matched, Dev.core_modCore_self]

theorem arrive_taken {m : Send} {r : Recv} {rs : List Recv} (h : takeRecv m (d.core m.dest).recvs = some (r, rs)) :
    (d.landed m.src m.seq).arrive m = (d.matched m rs).deliver m.dest m r := by
  unfold Dev.arrive; dsimp only; rw [show takeRecv m ((d.landed m.src m.seq).core m.dest).recvs = _ from h]; rfl

theorem arrive_waits {m : Send} (h : takeRecv m (d.core m.dest).recvs = none) : (d.landed m.src m.seq).arrive m =
    (d.landed m.src m.seq).modCore m.dest fun c => { c with arrivals := c.arrivals ++ [m] } := by
  unfold Dev.arrive; dsimp only; rw [show takeRecv m ((d.landed m.src m.seq).core m.dest).recvs = _ from h]

section
variable {s : State} {src : Nat} {m : Send}

/-- The first message of its route, whose ends are of one partition and reach each other, arrives unless it must wait (R222). -/
theorem exec_messageArrival (h : s.Up) (hm : s.dev.flights.find? (fun f => f.src == src && f.seq == seq) = some m)
    (hfirst : s.dev.flights.find? (fun f => f.src == m.src && f.dest == m.dest) = some m)
    (hopen : s.dev.meshOpen (placeDie m.src) (placeDie m.dest) = true)
    (hpart : (s.dev.die (placeDie m.src)).part = (s.dev.die (placeDie m.dest)).part) (hd : m.dest < 0x7F8) :
    exec (.messageArrival src seq) s =
      .next (s.withDev (if s.dev.mustWait m then s.dev else (s.dev.landed src seq).arrive m)) := by
  have own : m.src = src ∧ m.seq = seq := by simpa using List.find?_some hm
  have arrives : s.dev.messageArrival src seq = if s.dev.mustWait m then s.dev else (s.dev.landed src seq).arrive m := by
    unfold Dev.messageArrival Dev.messageArrives
    simp only [hm, hfirst, hopen, hpart, own.2, Option.any_some, bne_self_eq_false, Bool.not_true, Bool.or_self, Bool.false_eq_true,
      if_false, Nat.not_le.2 hd]
    rfl
  rw [← arrives]
  exact run_live h fun d => d.messageArrival src seq
end

/-- Settles O8: a message that may arrive enters the table of arrivals, or meets its receive, which it fits or exceeds; delivery of
either kind then changes the two commands and, where it fits, writes memory. -/
theorem messageMeets : Obligations.MessageMeets := by
  intro s src seq m h hm hfirst hopen hpart hd gone q bytes
  obtain ⟨rfl, rfl⟩ : m.src = src ∧ m.seq = seq := by simpa using List.find?_some hm
  have run := exec_messageArrival h hm hfirst hopen hpart hd
  have room (hq : q.arrivals.length < 32) : exec (.messageArrival m.src m.seq) s =
      .next (s.withDev ((s.dev.landed m.src m.seq).arrive m)) := by
    rw [run, if_neg (by simpa [Dev.mustWait] using hq)]
  refine ⟨fun hfull => ?_, fun hnone hq => ⟨_, room hq, ?_⟩, fun r rs rc ht hq hc hl hs hb => ⟨_, room hq, ?_⟩,
    fun r rs rc ht hq hc hl => ⟨_, room hq, ?_⟩⟩
  · rw [run, if_pos (by simpa [Dev.mustWait] using hfull)]; rfl
  · rw [arrive_waits hnone]
    exact ⟨rfl, Dev.core_modCore_self _ _ _, ((kept_landed _).trans (kept_modCore _ _)).mono (by simp)⟩
  · have store : s.dev.SameStore (s.dev.matched m rs) := fun p hp =>
      kept_matched m rs p (by cases p <;> simp_all [Place.storeOf])
    obtain ⟨recvs, regs, done, sent, kept⟩ := deliver_fits_shows (d := s.dev.matched m rs) ((cmd?_matched ..).trans hc) hl hs hb
    have flights := (kept_write _ _).trans kept .flights (by simp)
    have all := (kept_matched m rs).trans ((kept_write _ _).trans kept)
    rw [arrive_taken ht]
    refine ⟨flights, recvs.trans (recvs_matched m rs), (kept .mem (by simp)).1.trans (store.write _ _).mem, done, regs,
      fun sc hsc => sent (by rw [cmd?_matched, hsc]; rfl), all.outside ?_⟩
    simp
  · obtain ⟨recvs, failed, kept⟩ := deliver_long_shows (d := s.dev.matched m rs) ((cmd?_matched ..).trans hc) hl
    rw [arrive_taken ht]
    refine ⟨kept .flights rfl, recvs.trans (recvs_matched m rs), failed, ((kept_matched m rs).outside (by simp)).trans (kept.mono fun p hp => ?_)⟩
    cases p <;> simp_all [Place.faultOf]
    tauto

end Sys2Proof.Machine
end

section
/-!
PROOF. Control operations (R45, R195–R199, Tables 8-1 and 8-2): what each makes of its core, short of its list's last index.
-/
namespace Sys2Proof.Machine

variable {s : State} {d : Dev} {k l op i : Nat} {x : ListSt} {desc : List Byte} {q : CoreSt}

/-! ### The frame of a control operation -/

/-- A control operation that may execute, and changes its core alone to `q`: CMD is raised where EVT asks (R204). -/
theorem control_changes {instr : Instr} (f : Dev → Nat → ListSt → List Byte → Dev)
    (arm : exec instr s = s.run fun c => c.onCore k fun d => d.control k op f)
    (h : s.AtControl k op l x desc) (hw : s.dev.waitsForList k l desc = false)
    (hf : ∀ d : Dev, s.dev.Reports d → (d.core k).list l = x → (f d l x desc).core k = q ∧ d.Kept (f d l x desc) [.core k]) :
    ∃ e, exec instr s = .next (s.withDev e) ∧ e.core k = q ∧
      e.hdr (pgCore k) = (if dEvt desc then (s.dev.hdr (pgCore k)).raised 2 else s.dev.hdr (pgCore k)) ∧
      s.dev.Kept e [.core k, .hdr (pgCore k), .hdr pgPart] := by
  have raised : s.dev.Reports (s.dev.raiseIf (dEvt desc) (pgCore k) 2) := reports_raiseIf _ _ _
  obtain ⟨core, kept⟩ := hf _ raised (by rw [raised.core]; exact atCursor_list h.1.2.1)
  refine ⟨_, arm.trans (run_control f h hw), (core_ordersOf k k).trans core, ?_, ?_⟩
  · rw [hdr_core_ordersOf, ← hdr_raiseIf_self]
    exact kept (.hdr (pgCore k)) (by simp)
  · exact (((kept_raiseIf _ _ _).trans kept).trans (kept_ordersOf k)).mono (by simp)

/-- Changes of a list that agree on the list as it stands agree. -/
theorem modList_congr {f g : ListSt → ListSt} (h : f (q.list l) = g (q.list l)) : q.modList l f = q.modList l g := by
  unfold CoreSt.modList; rw [h]

/-- A change of the core that keeps the list, and a move of the cursor within it. -/
theorem move_within (g : CoreSt → CoreSt) (hg : (g (d.core k)).list l = x) (hi : i ≤ x.last) :
    ((d.modCore k g).moveCursor k l i).core k = (g (d.core k)).modList l (fun y => { y with cursor := i }) ∧
    d.Kept ((d.modCore k g).moveCursor k l i) [.core k] := by
  rw [moveCursor_in i (by rw [Dev.core_modCore_self, hg]; exact hi)]
  exact ⟨by rw [Dev.core_modCore_self, Dev.core_modCore_self], (kept_modCore _ _).seq (kept_modCore _ _)⟩

theorem move_within_list (hl : (d.core k).list l = x) (hi : i ≤ x.last) :
    (d.moveCursor k l i).core k = (d.core k).modList l (fun y => { y with cursor := i }) ∧ d.Kept (d.moveCursor k l i) [.core k] := by
  rw [moveCursor_in i (by rw [hl]; exact hi)]
  exact ⟨Dev.core_modCore_self _ _ _, kept_modCore _ _⟩

/-- A list parks or ends, and the sequencer passes on (R195). -/
theorem leave_list (f : ListSt → ListSt) (h : (d.core k).NextFits l) :
    ((d.modCore k fun c => c.modList l f).nextList k).core k = ((d.core k).modList l f).passedOn ∧
    d.Kept ((d.modCore k fun c => c.modList l f).nextList k) [.core k] := by
  have fits : ((d.modCore k fun c => c.modList l f).core k).NextFits l := by
    rw [Dev.core_modCore_self]
    intro j hj
    obtain ⟨hne, hle⟩ := h j hj
    exact ⟨hne, by rw [modList_list_ne _ _ hne]; exact hle⟩
  rw [nextList_fits fits]
  exact ⟨by rw [Dev.core_modCore_self, Dev.core_modCore_self], (kept_modCore _ _).seq (kept_modCore _ _)⟩

/-! ### What an event leaves of the tests that control operations make -/

section
variable {e : Dev} (h : d.Reports e)
include h

theorem branchHolds_reports (k l : Nat) (desc : List Byte) : e.branchHolds k l desc = d.branchHolds k l desc := by
  obtain ⟨_, _, _, _, _, rfl⟩ := h; rfl

theorem imprNum_reports (k : Nat) : e.imprNum k = d.imprNum k := by obtain ⟨_, _, _, _, _, rfl⟩ := h; rfl

theorem waitTarget_reports (k : Nat) (desc : List Byte) : e.waitTarget k desc = d.waitTarget k desc := by
  obtain ⟨_, _, _, _, _, rfl⟩ := h; rfl
end

theorem outside_false (h : x.outside i = false) : i ≤ x.last := by
  have := of_decide_eq_false h; omega

/-! ### The operations -/

theorem atControl_waits (h : s.AtControl k op l x desc) (hop : op ≠ 5) : s.dev.waitsForList k l desc = false :=
  waitsForList_ne (by rw [h.2.1]; exact hop)

/-- LOOP within its list. -/
theorem opLoop_within (hl : (d.core k).list l = x) (hx : x.cursor < x.last) (ht : x.outside (field desc 0x12 2) = false) :
    (d.opLoop k l x desc).core k = (if (d.core k).creg (field desc 0x10 1 % 16) = 0
      then (d.core k).modList l (fun y => { y with cursor := x.cursor + 1 })
      else ((d.core k).setC (field desc 0x10 1 % 16) ((d.core k).creg (field desc 0x10 1 % 16) - 1)).modList l
        fun y => { y with cursor := field desc 0x12 2 }) ∧
    d.Kept (d.opLoop k l x desc) [.core k] := by
  unfold Dev.opLoop
  simp only [ht, Bool.false_eq_true, if_false]
  split
  · exact move_within_list hl hx
  · exact move_within _ hl (outside_false ht)

/-- BR within its list. -/
theorem opBr_within (hl : (d.core k).list l = x) (hx : x.cursor < x.last) (ht : x.outside (field desc 0x12 2) = false) :
    (d.opBr k l x desc).core k = (if d.branchHolds k l desc
      then (d.core k).modList l (fun y => { y with cursor := field desc 0x12 2 })
      else (d.core k).modList l fun y => { y with cursor := x.cursor + 1 }) ∧
    d.Kept (d.opBr k l x desc) [.core k] := by
  unfold Dev.opBr
  simp only [ht, Bool.false_eq_true, if_false]
  split
  · exact move_within_list hl (outside_false ht)
  · exact move_within_list hl hx

/-- WAIT.TICK parks its list, or goes on. -/
theorem opWaitTick_within (hl : (d.core k).list l = x) (hx : x.cursor < x.last) (hn : (d.core k).NextFits l) :
    (d.opWaitTick k l x desc).core k = (if serialLater 32 (d.imprNum k) (d.waitTarget k desc) then
        ((d.core k).modList l fun y => { y with cursor := x.cursor + 1, state := .parked, target := d.waitTarget k desc, ready := false
                                                segClass := field desc 0x1C 1 % 16, segEnergy := field desc 0x18 4 }).passedOn
      else (d.core k).modList l fun y => { y with cursor := x.cursor + 1 }) ∧
    d.Kept (d.opWaitTick k l x desc) [.core k] := by
  unfold Dev.opWaitTick
  dsimp only
  split
  · obtain ⟨core, kept⟩ := leave_list (fun y => { y with cursor := y.cursor + 1, state := .parked, target := d.waitTarget k desc
                                                         ready := false, segClass := field desc 0x1C 1 % 16
                                                         segEnergy := field desc 0x18 4 }) hn
    exact ⟨core.trans (congrArg CoreSt.passedOn (modList_congr (by rw [hl]))), kept⟩
  · exact move_within_list hl hx

/-- END ends its list. -/
theorem opEnd_ends (hl : (d.core k).list l = x) (hn : (d.core k).NextFits l) :
    (d.opEnd k l x desc).core k = ((d.core k).modList l fun y => { y with cursor := x.cursor + 1, state := .ended }).passedOn ∧
    d.Kept (d.opEnd k l x desc) [.core k] := by
  obtain ⟨core, kept⟩ := leave_list (fun y => { y with cursor := y.cursor + 1, state := .ended }) hn
  exact ⟨core.trans (congrArg CoreSt.passedOn (modList_congr (by rw [hl]))), kept⟩

/-- A WAIT.TICK that waits for its list's earlier commands is counted, and stays where it is. -/
theorem waitTick_waits (h : s.AtControl k 5 l x desc) (hw : s.dev.waitsForList k l desc = true) :
    exec (.waitTick k) s = .next (s.withDev ((s.dev.stallIssue k).ordersOf k)) := by
  obtain ⟨⟨hr, ha, he, hi⟩, ho, hb, hc⟩ := h
  have stalls : s.dev.control k 5 (fun d l x desc => d.opWaitTick k l x desc) = s.dev.stallIssue k := by
    simp [Dev.control, ha, he, hi, ho, hb, hc, hw]
  rw [← stalls]
  exact run_onCore hr fun d => d.control k 5 fun d l x desc => d.opWaitTick k l x desc

/-- Settles O1: a control operation is a change of its core alone, which each operation makes by moving the cursor within its list or
by leaving the list to the next one that fits. -/
theorem controlOps : Obligations.ControlOps := by
  refine ⟨⟨fun s k l x desc hx => ?_, fun s k l x desc hx ht => ?_⟩, fun s k l x desc hx hn => ?_⟩
  · intro c stepped done
    refine ⟨fun h => ?_, fun h => ?_, fun h => ?_⟩
    · refine control_changes _ rfl h (atControl_waits h (by decide)) fun d hd hl => ?_
      obtain ⟨core, kept⟩ := move_within_list hl hx
      exact ⟨core.trans (by rw [hd.core]), kept⟩
    · refine control_changes _ rfl h (atControl_waits h (by decide)) fun d hd hl => ?_
      obtain ⟨core, kept⟩ := move_within (d := d) (fun c => c.setRegOf (field desc 0x10 1) (field desc 0x18 8))
        (by rw [setRegOf_list]; exact hl) hx
      exact ⟨core.trans (by rw [hd.core]), kept⟩
    · refine control_changes _ rfl h (atControl_waits h (by decide)) fun d hd hl => ?_
      obtain ⟨core, kept⟩ := move_within (d := d) (fun q => q.setRegOf (field desc 0x10 1) ((d.core k).regOf (field desc 0x11 1) +
        field desc 0x18 8 + if bit (field desc 0x12 1) 7 then (d.core k).regOf (field desc 0x12 1) else 0))
        (by rw [setRegOf_list]; exact hl) hx
      exact ⟨core.trans (by rw [hd.core]), kept⟩
  · intro c r goTo done
    refine ⟨fun h => ?_, fun h => ?_⟩
    · refine control_changes _ rfl h (atControl_waits h (by decide)) fun d hd hl => ?_
      obtain ⟨core, kept⟩ := opLoop_within hl hx ht
      exact ⟨core.trans (by rw [hd.core]), kept⟩
    · refine control_changes _ rfl h (atControl_waits h (by decide)) fun d hd hl => ?_
      obtain ⟨core, kept⟩ := opBr_within hl hx ht
      exact ⟨core.trans (by rw [hd.core, branchHolds_reports hd]), kept⟩
  · intro now target c done
    refine ⟨fun h hw => ?_, fun h hw => ?_, fun h => ?_⟩
    · refine ⟨_, waitTick_waits h hw, ?_, ?_, (kept_bump _ _ _ (by decide)).trans (kept_ordersOf k)⟩
      · rw [core_ordersOf, Dev.core_stallIssue]
      · have hp : pgCore k ≠ pgRailjor := pgOfCore_ne_of_lt (by decide)
        rw [← reg_bump_self (by decide)]
        exact ordersOf_same (x := .reg (pgCore k) 0x11C) k (by simp) (by decide) fun hn => hp hn.1
    · refine control_changes _ rfl h hw fun d hd hl => ?_
      obtain ⟨core, kept⟩ := opWaitTick_within (desc := desc) hl hx (by rw [hd.core]; exact hn)
      exact ⟨core.trans (by rw [hd.core, imprNum_reports hd, waitTarget_reports hd]; rfl), kept⟩
    · refine control_changes _ rfl h (atControl_waits h (by decide)) fun d hd hl => ?_
      obtain ⟨core, kept⟩ := opEnd_ends (desc := desc) hl (by rw [hd.core]; exact hn)
      exact ⟨core.trans (by rw [hd.core]), kept⟩

end Sys2Proof.Machine
end

section
/-!
PROOF. Galleys at work (R234–R246): what letting the pushes and pops of a core go on leaves of its sequencer, and of the device.
-/
namespace Sys2Proof.Machine

variable {d e f : Dev} {k g seq n : Nat} {q q' q'' : CoreSt} {area more : Place → Bool}

/-! ### Events stay raised -/

/-- Events raised on page `pg` stay raised. -/
def Dev.FlagsStay (pg : Nat) (d e : Dev) : Prop :=
  ∀ b, bit (d.hdr pg).raw.toNat b = true → bit (e.hdr pg).raw.toNat b = true

variable {pg : Nat}

theorem flagsStay_of_hdr (h : e.hdr pg = d.hdr pg) : d.FlagsStay pg e := fun b hb => by rw [h]; exact hb

theorem Dev.FlagsStay.refl (d : Dev) : d.FlagsStay pg d := fun _ => id

theorem Dev.FlagsStay.trans (h : d.FlagsStay pg e) (h' : e.FlagsStay pg f) : d.FlagsStay pg f := fun b => h' b ∘ h b

theorem flagsStay_raise (g b : Nat) : d.FlagsStay pg (d.raise g b) := by
  intro a ha
  by_cases hg : pg = g
  · subst hg; rw [hdr_raise_self]; exact bit_raised_of_bit b ha
  · rw [hdr_raise_ne hg]; exact ha

theorem flagsStay_raiseIf (c : Bool) (g b : Nat) : d.FlagsStay pg (d.raiseIf c g b) := by
  unfold Dev.raiseIf
  split
  · exact flagsStay_raise _ _
  · exact .refl d

theorem flagsStay_errored (g code : Nat) (i0 i1 : Word) :
    d.FlagsStay pg (d.modHdr g fun h => { h with errCode := code, errInfo0 := i0, errInfo1 := i1 }) := by
  intro a ha
  by_cases hg : pg = g
  · subst hg; rw [Dev.hdr_modHdr_self]; exact ha
  · rw [Dev.hdr_modHdr_ne _ _ _ hg]; exact ha

theorem flagsStay_setError (g code i0 i1 : Nat) : d.FlagsStay pg (d.setError g code i0 i1) := by
  unfold Dev.setError
  dsimp only
  exact ((flagsStay_errored _ _ _ _).trans (flagsStay_raiseIf _ _ _)).trans
    (Dev.FlagsStay.trans (flagsStay_of_hdr (kept_elog _ _ (.hdr pg) (by simp))) (flagsStay_raise _ _))

theorem flagsStay_noteUncorr (u : Nat) : d.FlagsStay pg (d.noteUncorr u) := by
  unfold Dev.noteUncorr
  dsimp only
  split
  · exact flagsStay_of_hdr (kept_bumpHi _ _ _ (by decide) (.hdr pg) (by simp))
  · split
    · refine Dev.FlagsStay.trans (flagsStay_of_hdr ?_) (flagsStay_raise _ _)
      exact ((kept_bump _ _ _ (by decide)).trans (kept_setReg64 _ _ _ (by decide))) (.hdr pg) (by simp)
    · exact .refl d

/-! ### The sequencer's part of a core -/

/-- The lists, the numbers of the commands in flight, and the last one retired are as they were. -/
structure CoreSt.Keeps (q q' : CoreSt) : Prop where
  lists : q'.lists = q.lists
  running : q'.running = q.running
  todo : q'.todo = q.todo
  seqRetired : q'.seqRetired = q.seqRetired
  seqs : q'.cmds.map (·.seq) = q.cmds.map (·.seq)

theorem CoreSt.Keeps.refl (q : CoreSt) : q.Keeps q := ⟨rfl, rfl, rfl, rfl, rfl⟩

theorem CoreSt.Keeps.trans (h : q.Keeps q') (h' : q'.Keeps q'') : q.Keeps q'' :=
  ⟨h'.lists.trans h.lists, h'.running.trans h.running, h'.todo.trans h.todo, h'.seqRetired.trans h.seqRetired, h'.seqs.trans h.seqs⟩

theorem CoreSt.Keeps.list (h : q.Keeps q') (l : Nat) : q'.list l = q.list l := by rw [CoreSt.list, h.lists]; rfl

/-- Whether a command has a number in flight is a matter of the numbers. -/
theorem cmd?_eq_none_iff : q.cmd? n = none ↔ n ∉ q.cmds.map (·.seq) := by
  simp [CoreSt.cmd?, List.find?_eq_none]

theorem CoreSt.Keeps.cmd?_none (h : q.Keeps q') (hn : q.cmd? n = none) : q'.cmd? n = none := by
  rw [cmd?_eq_none_iff] at *; rwa [h.seqs]

theorem keeps_modCmd {c : Cmd → Cmd} (hc : ∀ y, (c y).seq = y.seq) (q : CoreSt) (s : Nat) : q.Keeps (q.modCmd s c) := by
  refine ⟨rfl, rfl, rfl, rfl, ?_⟩
  simp only [CoreSt.modCmd, List.map_map]
  refine List.map_congr_left fun y _ => ?_
  simp only [Function.comp_apply]
  split
  · exact hc y
  · rfl

/-! ### What serves a core -/

/-- A step within `area` that serves core k: its sequencer goes on as it was, and the events raised on its page stay raised. -/
structure Dev.Serves (k : Nat) (area : Place → Bool) (d e : Dev) : Prop where
  outside : d.KeptOutside e area
  core : (d.core k).Keeps (e.core k)
  flags : d.FlagsStay (pgCore k) e

theorem Dev.Serves.refl (d : Dev) : d.Serves k area d := ⟨.refl d, .refl _, .refl d⟩

theorem Dev.Serves.trans (h : d.Serves k area e) (h' : e.Serves k area f) : d.Serves k area f :=
  ⟨h.outside.trans h'.outside, h.core.trans h'.core, h.flags.trans h'.flags⟩

theorem Dev.Serves.mono (h : d.Serves k area e) (hm : ∀ x, area x = true → more x = true) : d.Serves k more e :=
  ⟨h.outside.mono hm, h.core, h.flags⟩

theorem serves_ite {p : Prop} [Decidable p] (h : p → d.Serves k area e) (h' : ¬p → d.Serves k area f) :
    d.Serves k area (if p then e else f) := by
  split
  · exact h ‹_›
  · exact h' ‹_›

theorem serves_foldl {α : Type} (xs : List α) (s : Dev → α → Dev) (h : ∀ d x, Dev.Serves k area d (s d x)) (d : Dev) :
    d.Serves k area (xs.foldl s d) := by
  induction xs generalizing d with
  | nil => exact .refl d
  | cons x xs ih => exact (h d x).trans (ih _)

/-- A step that leaves the cores as they are. -/
theorem serves_of_cores (hk : d.KeptOutside e area) (hc : e.core k = d.core k) (hf : d.FlagsStay (pgCore k) e) : d.Serves k area e :=
  ⟨hk, hc ▸ .refl _, hf⟩

section
variable {s : CoreSt → CoreSt}

theorem serves_modCore (h : (d.core k).Keeps (s (d.core k))) : d.Serves k (Place.fabricOf k) (d.modCore k s) :=
  ⟨(kept_modCore _ _).outside (by simp [Place.fabricOf]), by rw [Dev.core_modCore_self]; exact h, flagsStay_of_hdr rfl⟩
end

theorem serves_modGalley (s : Galley → Galley) : d.Serves k (Place.fabricOf k) (d.modGalley k g s) :=
  serves_modCore ⟨rfl, rfl, rfl, rfl, rfl⟩

theorem serves_modCmd {c : Cmd → Cmd} (hc : ∀ y, (c y).seq = y.seq) (s : Nat) :
    d.Serves k (Place.fabricOf k) (d.modCore k fun x => x.modCmd s c) := serves_modCore (keeps_modCmd hc _ _)

theorem serves_write (a : Nat) (bs : List Byte) : d.Serves k (Place.fabricOf k) (d.write a bs) :=
  have kept := kept_write (d := d) a bs
  serves_of_cores (kept.outside (by simp [Place.fabricOf])) (core_write a bs k) (flagsStay_of_hdr (kept (.hdr _) (by simp)))

theorem serves_setError (g code i0 i1 : Nat) : d.Serves k (Place.fabricOf k) (d.setError g code i0 i1) :=
  serves_of_cores ((kept_setError _ _ _ _).outside (by simp [Place.fabricOf])) (Dev.core_setError _ _ _ _ _ _) (flagsStay_setError _ _ _ _)

theorem keptOutside_noteUncorr (u : Nat) : d.KeptOutside (d.noteUncorr u) (Place.fabricOf k) := by
  unfold Dev.noteUncorr
  dsimp only
  split
  · exact (kept_bumpHi _ _ _ (by decide)).outside (by simp [Place.fabricOf])
  · split
    · exact (((kept_bump _ _ _ (by decide)).outside (by simp [Place.fabricOf])).trans
        ((kept_setReg64 _ _ _ (by decide)).outside (by simp [Place.fabricOf]))).trans
        ((kept_raise _ _).outside (by simp [Place.fabricOf]))
    · exact .refl d

theorem serves_noteUncorr (u : Nat) : d.Serves k (Place.fabricOf k) (d.noteUncorr u) :=
  serves_of_cores (keptOutside_noteUncorr u) ((reports_noteUncorr u).core k) (flagsStay_noteUncorr u)

theorem serves_setErr (x : ErrRec) : d.Serves k (Place.fabricOf k) (d.setErr x) := by
  unfold Dev.setErr
  split
  · exact (serves_noteUncorr _).trans (serves_setError _ _ _ _)
  · exact serves_setError _ _ _ _

theorem serves_raiseIf (c : Bool) (g b : Nat) : d.Serves k (Place.fabricOf k) (d.raiseIf c g b) :=
  serves_of_cores ((kept_raiseIf _ _ _).outside (by simp [Place.fabricOf])) (Dev.core_raiseIf _ _ _ _ _) (flagsStay_raiseIf _ _ _)

theorem serves_endCmd (x : Option ErrRec) : d.Serves k (Place.fabricOf k) (d.endCmd k seq x) := by
  cases x with
  | none => exact serves_modCmd (c := fun y => { y with err := y.err, complete := true }) (fun _ => rfl) _
  | some x =>
    exact (serves_setErr x).trans (serves_modCmd (c := fun y => { y with err := some x, complete := true }) (fun _ => rfl) _)

/-! ### Records sent on a link -/

theorem hdr_firstSend (l : Nat) (x : LnFlit) (p : Nat) : (d.firstSend l x).hdr p = d.hdr p := by
  unfold Dev.firstSend Dev.bump64
  dsimp only
  split <;> rfl

theorem hdr_drainLink (l fuel p : Nat) : (d.drainLink l fuel).hdr p = d.hdr p := by
  induction fuel generalizing d with
  | zero => rfl
  | succ fuel ih =>
    unfold Dev.drainLink
    dsimp only
    split
    · rw [ih, hdr_firstSend]; rfl
    · split
      · rfl
      · rw [ih, hdr_firstSend]; rfl

theorem serves_sendRecord (l ty : Nat) (body : List Byte) : d.Serves k (Place.fabricOf k) (d.sendRecord l ty body) := by
  have kept := keptOutside_sendRecord (d := d) l ty body
  refine serves_of_cores (kept.mono fun x hx => ?_) (kept (.core k) rfl) (flagsStay_of_hdr (hdr_drainLink _ _ _))
  cases x <;> simp_all [Place.sendOf, Place.fabricOf]

/-! ### Galleys -/

theorem serves_credits (x : List MeshCredit) : d.Serves k (Place.fabricOf k) { d with vc0 := x } := by
  refine serves_of_cores (fun p hp => ?_) rfl (flagsStay_of_hdr rfl)
  cases p
  case mesh => cases hp
  all_goals first | exact rfl | exact ⟨rfl, rfl⟩ | exact ⟨rfl, rfl, rfl⟩ | exact fun _ _ => rfl

theorem serves_creditBack (m : Nat) : d.Serves k (Place.fabricOf k) (d.creditBack k g m) := by
  unfold Dev.creditBack
  dsimp only
  refine serves_ite (fun _ => .refl d) fun _ => serves_ite (fun _ => serves_credits _) fun _ => serves_ite (fun _ => ?_) fun _ => .refl d
  exact (serves_modGalley _).trans (serves_sendRecord _ _ _)

theorem serves_settleGalley (fuel : Nat) : d.Serves k (Place.fabricOf k) (d.settleGalley k g fuel) := by
  induction fuel generalizing d with
  | zero => exact .refl d
  | succ fuel ih =>
    unfold Dev.settleGalley
    dsimp only
    split
    · exact .refl d
    · refine serves_ite (fun _ => (serves_modGalley _).trans ih) fun _ => serves_ite (fun _ => ?_) fun _ => .refl d
      exact (serves_ite (fun _ => serves_setError _ _ _ _) fun _ => serves_write _ _).trans ((serves_modGalley _).trans ih)

theorem serves_ringToHead : d.Serves k (Place.fabricOf k) (d.ringToHead k g) := by
  unfold Dev.ringToHead
  dsimp only
  split
  · exact .refl d
  · refine serves_ite (fun _ => .refl d) fun _ => ?_
    refine Dev.Serves.trans ?_ ((serves_modGalley _).trans (serves_settleGalley _))
    split
    · exact serves_noteUncorr _
    · exact .refl d

theorem serves_enterSlot (x : GFlit) : d.Serves k (Place.fabricOf k) (d.enterSlot k g x) := by
  unfold Dev.enterSlot
  exact (serves_ite (fun _ => .refl d) fun _ => serves_ringToHead).trans ((serves_modGalley _).trans (serves_settleGalley _))

theorem serves_stallGalley : d.Serves k (Place.fabricOf k) (d.stallGalley k g) :=
  (serves_modGalley _).trans (serves_raiseIf _ _ _)

theorem serves_startGalleys (fuel : Nat) : d.Serves k (Place.fabricOf k) (d.startGalleys k fuel) := by
  induction fuel generalizing d with
  | zero => exact .refl d
  | succ fuel ih =>
    unfold Dev.startGalleys
    dsimp only
    split
    · exact .refl d
    · exact serves_ite (fun _ => .refl d) fun _ =>
        (serves_modCmd (c := fun y => { y with started := true, startTime := d.time }) (fun _ => rfl) _).trans ih

theorem serves_pushSlots (fuel : Nat) : d.Serves k (Place.fabricOf k) (d.pushSlots k g seq fuel) := by
  induction fuel generalizing d with
  | zero => exact .refl d
  | succ fuel ih =>
    unfold Dev.pushSlots
    dsimp only
    split
    · exact .refl d
    · refine serves_ite (fun _ => .refl d) fun _ => ?_
      split
      · exact serves_endCmd _
      · refine serves_ite (fun _ => ?_) fun _ => ?_
        · exact serves_stallGalley.trans
            (serves_modCmd (c := fun y => { y with counts := { y.counts with stall := y.counts.stall + 1 } }) (fun _ => rfl) _)
        · refine Dev.Serves.trans ?_ ih
          refine Dev.Serves.trans ?_ (serves_modCmd ?_ _)
          · exact Dev.Serves.trans (serves_modGalley _) (serves_enterSlot _)
          · exact fun _ => rfl

theorem serves_dropSlug : d.Serves k (Place.fabricOf k) (d.dropSlug k g) := by
  unfold Dev.dropSlug
  dsimp only
  exact (serves_modGalley _).trans ((serves_creditBack _).trans (serves_settleGalley _))

theorem serves_popSlots (fuel : Nat) : d.Serves k (Place.fabricOf k) (d.popSlots k g fuel) := by
  induction fuel generalizing d with
  | zero => exact .refl d
  | succ fuel ih =>
    unfold Dev.popSlots
    dsimp only
    split
    · exact .refl d
    · refine serves_ite (fun _ => .refl d) fun _ => ?_
      split
      · exact .refl d
      · refine serves_ite (fun _ => ?_) fun _ => ?_
        · refine Dev.Serves.trans ?_ (serves_ite (fun _ => serves_modGalley _) fun _ => serves_dropSlug)
          refine Dev.Serves.trans (Dev.Serves.trans ?_ (serves_endCmd _)) (serves_modGalley _)
          exact Dev.Serves.trans (serves_modGalley _) (serves_creditBack _)
        · refine Dev.Serves.trans (Dev.Serves.trans ?_ (serves_settleGalley _)) ih
          refine Dev.Serves.trans ?_ (serves_modCmd ?_ _)
          · exact Dev.Serves.trans (Dev.Serves.trans (serves_modGalley _) (serves_creditBack _)) (serves_write _ _)
          · exact fun _ => rfl

/-- The pushes and pops of core k go on. -/
theorem serves_pumpGalleys : d.Serves k (Place.fabricOf k) (d.pumpGalleys k) := by
  unfold Dev.pumpGalleys
  dsimp only
  refine (serves_startGalleys 4).trans (Dev.Serves.trans (serves_foldl _ _ (fun e x => ?_) _) (serves_foldl _ _ (fun e g => ?_) _))
  · refine serves_ite (fun _ => ?_) fun _ => .refl e
    exact serves_ite (fun _ => serves_pushSlots _) fun _ => serves_popSlots _
  · exact serves_ite (fun _ => serves_dropSlug) fun _ => .refl e

end Sys2Proof.Machine
end

section
/-!
PROOF. O11 (R203–R207): a command whose work is over retires, and its error acts on its list as CONT says.
-/
namespace Sys2Proof.Machine

variable {d e f : Dev} {k l seq : Nat} {q q' : CoreSt} {c c' : Cmd} {area : Place → Bool}

/-! ### Before the command retires -/

theorem keeps_putStats (i : Nat) (h : SetHdr) (ws : List (F32 × F32)) : q.Keeps (q.putStats i h ws) :=
  ⟨foldl_unseen CoreSt.lists (by intros; rfl) _ _, foldl_unseen CoreSt.running (by intros; rfl) _ _,
    foldl_unseen CoreSt.todo (by intros; rfl) _ _, foldl_unseen CoreSt.seqRetired (by intros; rfl) _ _,
    congrArg _ (putStats_cmds q i h ws)⟩

theorem keeps_gatherWrite (i tag row : Nat) : q.Keeps (q.gatherWrite c i tag row) := by
  unfold CoreSt.gatherWrite
  dsimp only
  split
  case h_5 => exact .refl q
  all_goals exact keeps_putStats _ _ _

theorem serves_saveSets (addr first n : Nat) : d.Serves k (Place.fabricOf k) (d.transferSets k 2 addr first n) :=
  serves_foldl _ _ (fun e i => serves_ite (fun h => absurd h (by decide)) fun _ => serves_ite (fun _ => serves_write _ _) fun _ => .refl e) d

/-- What a compute command does as it retires leaves its core's sequencer alone. -/
theorem serves_finishCompute : d.Serves k (Place.fabricOf k) (d.finishCompute k c) := by
  unfold Dev.finishCompute
  dsimp only
  refine Dev.Serves.trans ?_ (serves_ite (fun _ => serves_modCore ⟨rfl, rfl, rfl, rfl, rfl⟩) fun _ => .refl _)
  refine Dev.Serves.trans ?_ (serves_ite (fun _ => serves_modCore ⟨rfl, rfl, rfl, rfl, rfl⟩) fun _ => .refl _)
  refine Dev.Serves.trans ?_ (serves_ite (fun _ => serves_ite (fun _ => serves_saveSets _ _ _) fun _ =>
    serves_ite (fun _ => serves_saveSets _ _ _) fun _ => .refl _) fun _ => .refl _)
  exact serves_ite (fun _ => serves_foldl _ _ (fun e i => serves_modCore (keeps_gatherWrite _ _ _)) d) fun _ => .refl d

/-- The work that is left when a command may retire: what a compute command then saves, and the length a POP returns. -/
def Dev.finish (d : Dev) (k : Nat) (c : Cmd) : Dev :=
  let d := if c.unit ≤ 2 then d.finishCompute k c else d
  match if dOp c.desc = 0x35 ∧ c.err.isNone then (MsgB.parse c.desc).lenToC else none with
  | some i => d.modCore k fun x => x.setC i c.moved
  | none => d

theorem serves_finish : d.Serves k (Place.fabricOf k) (d.finish k c) := by
  unfold Dev.finish
  dsimp only
  have computed : d.Serves k (Place.fabricOf k) (if c.unit ≤ 2 then d.finishCompute k c else d) :=
    serves_ite (fun _ => serves_finishCompute) fun _ => .refl d
  refine computed.trans ?_
  generalize (if c.unit ≤ 2 then d.finishCompute k c else d) = e
  split
  · exact serves_modCore ⟨rfl, rfl, rfl, rfl, rfl⟩
  · exact .refl _

/-- What the retirement of a command of core k that works stack `st` may touch. -/
def Place.endOf (k st : Nat) (p : Place) : Bool := p.fabricOf k || p == .bgFailed || p == .platen st

theorem endOf_of_fabricOf {st : Nat} (p : Place) (h : p.fabricOf k = true) : p.endOf k st = true := by simp [Place.endOf, h]

theorem keptOutside_bgFailed {st : Nat} (xs : List (Nat × Nat)) : d.KeptOutside { d with bgFailed := xs } (Place.endOf k st) := by
  intro p hp
  cases p
  case bgFailed => simp [Place.endOf] at hp
  all_goals first | exact rfl | exact ⟨rfl, rfl⟩ | exact ⟨rfl, rfl, rfl⟩ | exact fun _ _ => rfl

theorem serves_bgFailed {st : Nat} (xs : List (Nat × Nat)) : d.Serves k (Place.endOf k st) { d with bgFailed := xs } :=
  serves_of_cores (keptOutside_bgFailed xs) rfl (flagsStay_of_hdr rfl)

theorem serves_modPlaten {i st : Nat} (hi : i = st) (g : PlatenSt → PlatenSt) : d.Serves k (Place.endOf k st) (d.modPlaten i g) :=
  serves_of_cores ((kept_modPlaten i g).outside (by simp [Place.endOf, hi])) rfl (flagsStay_of_hdr rfl)

/-- The stack of the Platen that a command would submit to. -/
def Cmd.stack (c : Cmd) : Nat := stackOf (PltB.parse c.desc).p

theorem serves_drainError : d.Serves k (Place.endOf k c.stack) (d.drainError k c).1 := by
  unfold Dev.drainError
  dsimp only
  split
  · exact .refl d
  · split
    · exact (serves_bgFailed _).trans ((serves_setErr _).mono endOf_of_fabricOf)
    · split
      · exact (serves_modPlaten rfl _).trans ((serves_setErr _).mono endOf_of_fabricOf)
      · exact .refl d

/-- A DRAIN that is told of a failure is the command with that error, and a command with an error of its own stays as it is. -/
theorem drainError_cmd (d : Dev) (k : Nat) (c : Cmd) :
    ∃ x, (d.drainError k c).2 = { c with err := x } ∧ (c.err.isSome = true → x = c.err) := by
  unfold Dev.drainError
  dsimp only
  split
  · exact ⟨c.err, rfl, fun _ => rfl⟩
  · next h =>
    split
    · exact ⟨_, rfl, fun h' => absurd h' h⟩
    · split
      · exact ⟨_, rfl, fun h' => absurd h' h⟩
      · exact ⟨c.err, rfl, fun _ => rfl⟩

/-! ### The command retires -/

theorem flagsStay_markAbandoned : d.FlagsStay (pgCore k) (d.markAbandoned k l) := by
  unfold Dev.markAbandoned
  dsimp only
  refine Dev.FlagsStay.trans (Dev.FlagsStay.trans (flagsStay_of_hdr ?_) (flagsStay_raiseIf _ _ _)) (flagsStay_raise _ _)
  rw [hdr_bump, hdr_modCore_page]

theorem flagsStay_beginLists (ls : List Nat) : d.FlagsStay (pgCore k) (d.beginLists k ls) := by
  induction ls generalizing d with
  | nil => exact flagsStay_of_hdr rfl
  | cons l ls ih =>
    unfold Dev.beginLists
    dsimp only
    split
    · exact (flagsStay_setError _ _ _ _).trans (flagsStay_markAbandoned.trans ih)
    · exact flagsStay_of_hdr rfl

theorem flagsStay_abandon : d.FlagsStay (pgCore k) (d.abandon k l) := by
  unfold Dev.abandon
  dsimp only
  split
  · exact flagsStay_markAbandoned.trans (flagsStay_beginLists _)
  · exact flagsStay_markAbandoned

/-- Event CMD stands where the retired command's EVT asked for it. -/
theorem raised_retire (h : dEvt c.desc = true) : bit ((d.retire k c).hdr (pgCore k)).raw.toNat 2 = true := by
  have raised : bit ((d.retireClean k c).hdr (pgCore k)).raw.toNat 2 = true := by
    rw [Dev.retireClean, hdr_raiseIf_self, if_pos h]; exact bit_raised_raw _ (by decide)
  rcases retire_cases d k c with h | h | h <;> rw [h]
  · exact raised
  · exact raised
  · exact flagsStay_abandon _ raised

theorem retire_cont (he : c.err.isSome = true) (hc : dCont c.desc = true) :
    d.retire k c = (d.retireClean k c).modCore k fun q => q.modList c.list fun x => { x with err := true } :=
  (if_neg (by simpa [Option.isSome_iff_ne_none] using he)).trans (if_pos hc)

theorem retire_stop (he : c.err.isSome = true) (hc : dCont c.desc = false) :
    d.retire k c = (d.retireClean k c).abandon k c.list :=
  (if_neg (by simpa [Option.isSome_iff_ne_none] using he)).trans (if_neg (by simp [hc]))

/-- An abandoned list is so marked once the sequencer has passed on, where the next list is another and fits. -/
theorem abandoned_abandon (h : (d.core k).NextFits l) : (((d.abandon k l).core k).list l).state = .abandoned := by
  have marked : (((d.markAbandoned k l).core k).list l).state = .abandoned := by rw [markAbandoned_core, modList_list_self]
  by_cases hr : (d.core k).running = some l
  · rw [abandon_running hr h, Dev.core_modCore_self]
    have todo : ((d.markAbandoned k l).core k).todo = (d.core k).todo := by rw [markAbandoned_core]; rfl
    unfold CoreSt.passedOn
    split
    · exact marked
    · next j js hj =>
      have ne : l ≠ j := fun he => (h j (by rw [← todo, hj]; rfl)).1 he.symm
      exact (congrArg ListSt.state (modList_list_ne _ (fun y => { y with state := .running }) ne)).trans marked
  · unfold Dev.abandon
    rw [if_neg hr]; exact marked

theorem nextFits_retireClean (h : (d.core k).NextFits l) : ((d.retireClean k c).core k).NextFits l := by
  rw [core_retireClean]; exact h

theorem CoreSt.Keeps.nextFits (h : q.Keeps q') (hq : q.NextFits l) : q'.NextFits l := fun j hj => by
  rw [h.todo] at hj
  rw [h.list]; exact hq j hj

theorem fabricOf_of_retireOf (p : Place) (h : p.retireOf k = true) : p.fabricOf k = true := by
  cases p
  case core => exact h
  all_goals first | exact rfl | cases h

/-! ### After the command has retired -/

theorem serves_checkOrders (p : Nat) : d.Serves k (Place.fabricOf k) (d.checkOrders p) :=
  have kept := kept_checkOrders (d := d) p
  serves_of_cores (kept.outside (by simp [Place.fabricOf])) (kept (.core k) (by simp))
    (flagsStay_of_hdr (kept (.hdr _) (by simp [pgCore_ne_pgPart])))

/-- Core k retires a command: it serves the core up to the retirement, which it makes of the command itself but for an error
that a DRAIN is told of, and after it. -/
theorem commandRetire_serves (hc : (d.core k).cmd? seq = some c) (hm : d.mayRetire k c = true) :
    ∃ b x, d.Serves k (Place.endOf k c.stack) b ∧ (c.err.isSome = true → x = c.err) ∧
      (b.retire k { c with err := x }).Serves k (Place.fabricOf k) (d.commandRetire k seq) := by
  obtain ⟨x, hx, own⟩ := drainError_cmd (d.finish k c) k c
  refine ⟨((d.finish k c).drainError k c).1, x, (serves_finish.mono endOf_of_fabricOf).trans serves_drainError, own, ?_⟩
  have shape : d.commandRetire k seq =
      let r := (d.finish k c).drainError k c
      let e := if c.unit = 4 then (r.1.retire k r.2).pumpGalleys k else r.1.retire k r.2
      match e.partOf k with | some p => e.checkOrders p | none => e := by
    unfold Dev.commandRetire
    rw [hc]
    simp only [hm, Bool.not_true, Bool.false_eq_true, if_false]
    rfl
  rw [shape, ← hx]
  dsimp only
  generalize ((d.finish k c).drainError k c).1.retire k ((d.finish k c).drainError k c).2 = b
  have pumped : b.Serves k (Place.fabricOf k) (if c.unit = 4 then b.pumpGalleys k else b) :=
    serves_ite (fun _ => serves_pumpGalleys) fun _ => .refl b
  refine pumped.trans ?_
  generalize (if c.unit = 4 then b.pumpGalleys k else b) = e
  split
  · exact serves_checkOrders _
  · exact .refl _

/-- Settles O11: up to the retirement and after it only the core's galleys and units are served, which leaves its lists and its
numbers; the retirement takes the command out of flight and makes of its error what CONT says. -/
theorem commandRetires : Obligations.CommandRetires := by
  intro s k seq c hk hc hm
  obtain ⟨b, x, before, own, after⟩ := commandRetire_serves hc hm
  obtain rfl := cmd?_seq hc
  generalize hf : s.dev.commandRetire k c.seq = f at after
  refine ⟨f.ordersOf k, (run_onCore hk _).trans (by rw [hf]), ?_, ?_, ?_, ?_, ?_, ?_⟩
  · rw [core_ordersOf]
    exact after.core.cmd?_none ((core_retire.cmd? _).trans (cmd?_without _ _))
  · rw [core_ordersOf, after.core.seqRetired]
    exact core_retire.seqRetired
  · rw [hdr_core_ordersOf]
    exact fun hevt => after.flags _ (raised_retire hevt)
  · intro he hcont
    rw [core_ordersOf, after.core.list, own he, retire_cont he hcont, Dev.core_modCore_self, modList_list_self]
  · intro he hcont hfits
    rw [core_ordersOf, after.core.list, own he, retire_stop he hcont]
    exact abandoned_abandon (nextFits_retireClean (before.core.nextFits hfits))
  · have retired : b.KeptOutside (b.retire k { c with err := x }) (Place.fabricOf k) := keptOutside_retire.mono fabricOf_of_retireOf
    have orders : f.KeptOutside (f.ordersOf k) (Place.fabricOf k) := (kept_ordersOf k).outside (by simp [Place.fabricOf])
    exact before.outside.trans (((retired.trans after.outside).trans orders).mono endOf_of_fabricOf)

end Sys2Proof.Machine
end

section
/-!
PROOF. Galleys of a core that has no galley command in flight: slots that enter and leave them, and credits (R236, R237, R240, R241).
-/
namespace Sys2Proof.Machine

variable {s : State} {d e f : Dev} {k g : Nat} {q : CoreSt} {x y : Galley}

/-! ### One galley changes -/

theorem core_modGalley (t : Galley → Galley) : (d.modGalley k g t).core k = (d.core k).modGalley g t := Dev.core_modCore_self _ _ _

@[simp] theorem galley_modGalley_self (q : CoreSt) (g : Nat) (t : Galley → Galley) : (q.modGalley g t).galley g = t (q.galley g) :=
  tget_tset_self

theorem galley_modGalley (q : CoreSt) (g : Nat) (t : Galley → Galley) (j : Nat) :
    (q.modGalley g t).galley j = if j = g then t (q.galley g) else q.galley j := tget_tset

theorem kept_modGalley (t : Galley → Galley) : d.Kept (d.modGalley k g t) [.core k] := kept_modCore _ _

theorem kept_mesh (vc2 : List MeshFlit) (vc0 : List MeshCredit) : d.Kept { d with vc2, vc0 } [.mesh] := by
  intro x hx; cases x
  case mesh => exact absurd List.mem_cons_self hx
  all_goals first | exact rfl | exact ⟨rfl, rfl⟩ | exact ⟨rfl, rfl, rfl⟩ | exact fun _ _ => rfl

/-! ### No galley command is in flight -/

theorem quiet_modGalley (h : q.GalleysQuiet) {t : Galley → Galley} (ht : (t (q.galley g)).dropping = false) :
    (q.modGalley g t).GalleysQuiet := by
  refine ⟨h.1, fun j => ?_⟩
  rw [galley_modGalley]
  split
  · exact ht
  · exact h.2 j

theorem galleyCmd_quiet (h : q.GalleysQuiet) {op : Nat} (hop : op = 0x34 ∨ op = 0x35) : q.galleyCmd op g = none := by
  refine List.find?_eq_none.2 fun c hc => ?_
  obtain ⟨-, push, pop⟩ := h.1 c hc
  obtain rfl | rfl := hop <;> simp [push, pop]

theorem foldl_idle {α : Type} {t : Dev → α → Dev} {as : List α} (h : ∀ a ∈ as, t d a = d) : as.foldl t d = d := by
  induction as with
  | nil => rfl
  | cons a as ih => rw [List.foldl_cons, h a (by simp)]; exact ih fun b hb => h b (by simp [hb])

/-- No command of the GALLEY unit waits for its start. -/
theorem startGalleys_idle (h : ∀ c ∈ (d.core k).cmds, c.unit = 4 → c.started = true) (n : Nat) : d.startGalleys k n = d := by
  cases n with
  | zero => rfl
  | succ n =>
    have none : ((d.core k).cmds.filter fun c => c.unit == 4).find? (fun c => !c.started) = none := by
      simpa [List.find?_eq_none] using h
    unfold Dev.startGalleys
    simp only [none]

theorem dropSlugs_idle (h : ∀ j, ((d.core k).galley j).dropping = false) (js : List Nat) :
    js.foldl (fun d j => if ((d.core k).galley j).dropping then d.dropSlug k j else d) d = d :=
  foldl_idle fun j _ => if_neg (by simp [h j])

/-- With no command in flight nothing goes on. -/
theorem pumpGalleys_quiet (h : (d.core k).GalleysQuiet) : d.pumpGalleys k = d := by
  unfold Dev.pumpGalleys
  rw [startGalleys_idle fun c hc hu => absurd hu (h.1 c hc).1]
  dsimp only
  rw [foldl_idle fun c hc => if_neg fun hu => (h.1 c hc).1 hu.1, dropSlugs_idle h.2]

/-! ### A slot enters -/

/-- The galley with a slot come into its tail (R236, R239). -/
def Galley.entered (x : Galley) (m : GFlit) : Galley :=
  let y := { x with tail := x.tail ++ [m], receiving := !m.eos, pushCnt := if m.eos then sat 32 (x.pushCnt + 1) else x.pushCnt }
  { y with peak := max y.peak y.occ }

/-- The only slot of the tail moves on to the head. -/
def Galley.settled (x : Galley) (m : GFlit) : Galley := { x with head := x.head ++ [m], tail := [] }

theorem settleGalley_nil (h : ((d.core k).galley g).tail = []) (n : Nat) : d.settleGalley k g n = d := by
  cases n with
  | zero => rfl
  | succ n => unfold Dev.settleGalley; simp only [h]

theorem settleGalley_single {m : GFlit} (ht : ((d.core k).galley g).tail = [m]) (hr : ((d.core k).galley g).ring = [])
    (hh : ((d.core k).galley g).head.length < 8) : d.settleGalley k g 1 = d.modGalley k g fun x => x.settled m := by
  unfold Dev.settleGalley
  simp only [ht, hr, hh, List.isEmpty_nil, decide_true, Bool.and_self, if_true]
  rfl

/-- A slot that comes to a galley with nothing behind its head stands at the back of the head. -/
theorem enterSlot_head (hr : ((d.core k).galley g).ring = []) (ht : ((d.core k).galley g).tail = [])
    (hh : ((d.core k).galley g).head.length < 8) (m : GFlit) :
    d.enterSlot k g m = (d.modGalley k g fun x => x.entered m).modGalley k g fun x => x.settled m := by
  have now : ((d.modGalley k g fun x => x.entered m).core k).galley g = ((d.core k).galley g).entered m := by
    rw [core_modGalley, galley_modGalley_self]
  have tail : (((d.modGalley k g fun x => x.entered m).core k).galley g).tail = [m] := by rw [now, Galley.entered, ht]; rfl
  rw [← settleGalley_single tail (by rw [now]; exact hr) (by rw [now]; exact hh)]
  unfold Dev.enterSlot
  rw [if_pos (by simp [ht])]
  exact congrArg (Dev.settleGalley _ k g) (congrArg List.length tail)

/-! ### Arrivals (R231, R240, R244) -/

/-- The device once galley g waits no longer for the start of a slug. -/
def Dev.inSync (d : Dev) (k g : Nat) : Dev :=
  if ((d.core k).galley g).resync then d.modGalley k g fun x => { x with resync := false } else d

theorem galley_inSync : ((d.inSync k g).core k).galley g = { (d.core k).galley g with resync := false } := by
  unfold Dev.inSync
  split
  · rw [core_modGalley, galley_modGalley_self]
  · next h => rw [Bool.not_eq_true] at h; rw [← h]

theorem quiet_inSync (h : (d.core k).GalleysQuiet) : ((d.inSync k g).core k).GalleysQuiet := by
  unfold Dev.inSync
  split
  · rw [core_modGalley]; exact quiet_modGalley h (h.2 g)
  · exact h

theorem kept_inSync : d.Kept (d.inSync k g) [.core k] := kept_ite (fun _ => kept_modGalley _) fun _ => .refl d

/-- A flit has entered galley g, at the back of its head. -/
def Dev.tookFlit (d : Dev) (k g : Nat) (m : GFlit) : Dev :=
  ((d.inSync k g).modGalley k g fun x => x.entered m).modGalley k g fun x => x.settled m

theorem galley_tookFlit (m : GFlit) : ((d.tookFlit k g m).core k).galley g =
    (({ (d.core k).galley g with resync := false } : Galley).entered m).settled m := by
  rw [Dev.tookFlit, core_modGalley, galley_modGalley_self, core_modGalley, galley_modGalley_self, galley_inSync]

theorem kept_tookFlit (m : GFlit) : d.Kept (d.tookFlit k g m) [.core k] :=
  (kept_inSync.seq (kept_modGalley _)).seq (kept_modGalley _)

theorem quiet_tookFlit (h : (d.core k).GalleysQuiet) (m : GFlit) : ((d.tookFlit k g m).core k).GalleysQuiet := by
  have sync := quiet_inSync (g := g) h
  rw [Dev.tookFlit, core_modGalley, core_modGalley]
  refine quiet_modGalley (quiet_modGalley sync (sync.2 g)) ?_
  rw [galley_modGalley_self]; exact sync.2 g

/-- A flit that is no ABORT and is not passed over enters its galley. -/
theorem acceptFlit_enters (hq : (d.core k).GalleysQuiet) {m : GFlit} (ha : m.abort = false)
    (hs : ((d.core k).galley g).resync = false ∨ m.sos = true) (hr : ((d.core k).galley g).ring = [])
    (ht : ((d.core k).galley g).tail = []) (hh : ((d.core k).galley g).head.length < 8) (own : Nat) :
    d.acceptFlit k g own m = d.tookFlit k g m := by
  have heard : (((d.core k).galley g).resync && !m.sos) = false := by obtain h | h := hs <;> simp [h]
  calc d.acceptFlit k g own m
    _ = ((d.inSync k g).enterSlot k g m).pumpGalleys k := by
      unfold Dev.acceptFlit
      simp only [heard, ha, Bool.false_eq_true, if_false]
      rfl
    _ = (d.tookFlit k g m).pumpGalleys k := by
      rw [enterSlot_head (by rw [galley_inSync]; exact hr) (by rw [galley_inSync]; exact ht) (by rw [galley_inSync]; exact hh)]
      rfl
    _ = d.tookFlit k g m := pumpGalleys_quiet (quiet_tookFlit hq m)

/-- The device with flit `m` gone from the mesh. -/
def Dev.lifted (d : Dev) (m : MeshFlit) : Dev := { d with vc2 := d.vc2.erase m }

@[simp] theorem core_lifted (m : MeshFlit) (j : Nat) : (d.lifted m).core j = d.core j := rfl

theorem kept_lifted (m : MeshFlit) : d.Kept (d.lifted m) [.mesh] := kept_mesh _ _

/-- The oldest flit for a galley, from the source it is set to take from, is accepted. -/
theorem galleyFlitArrival_accepts {m : MeshFlit} (hm : d.flitFor k g = some m)
    (ho : d.meshOpen (coreDie m.srcCore) (coreDie k) = true) (he : ((d.core k).galley g).en = true)
    (hs : ((d.core k).galley g).src = 1) (hc : ((d.core k).galley g).srcCore = m.srcCore)
    (hg : ((d.core k).galley g).srcGalley = m.srcGalley) :
    d.galleyFlitArrival k g = (d.lifted m).acceptFlit k g 1 m.flit := by
  unfold Dev.galleyFlitArrival
  simp only [hm, ho, Bool.not_true, Bool.false_eq_true, if_false]
  exact if_neg (by simpa using ⟨⟨⟨he, hs⟩, hc⟩, hg⟩)

theorem galleyCreditArrival_adds {m : MeshCredit} (hm : d.creditFor k g = some m)
    (ho : d.meshOpen (coreDie m.srcCore) (coreDie k) = true) :
    d.galleyCreditArrival k g =
      Dev.modGalley { d with vc0 := d.vc0.erase m } k g fun x => { x with credit := x.credit + m.n } := by
  unfold Dev.galleyCreditArrival
  simp only [hm, ho, Bool.not_true, Bool.false_eq_true, if_false]

/-! ### The consumer (R237, R238, R245) -/

theorem kept_noteStamp (hg : g < 16) (bs : List Byte) :
    d.Kept (d.noteStamp k g bs) [.hdr (pgGalley k), .reg (pgCnt k) (0x140 + 4 * g)] := by
  unfold Dev.noteStamp
  refine kept_ite (fun _ => ?_) fun _ => .refl d
  exact ((kept_bump _ _ _ (by omega)).mono (by simp)).seq ((kept_raise _ _).mono (by simp))

/-- A consumer that is the next galley takes up the slug at the front. -/
theorem galleyConsumerStart_forwards (hg : g < 16) (hb : ((d.core k).galley g).canBegin = true)
    (hs : ((d.core k).galley g).sink = 1) : d.galleyConsumerStart k g =
      (d.noteStamp k g (((d.core k).galley g).head.headD {}).data).modGalley k g fun x => { x with taking := true, taken := 0 } := by
  unfold Dev.galleyConsumerStart
  rw [if_neg (by simp [hb, hg])]
  exact if_neg (by rw [hs]; decide)

/-! ### Slots that leave (R236, R240) -/

/-- The galley once its consumer has taken slot `m` from the head, which leaves `ms` there. -/
def Galley.gave (x : Galley) (m : GFlit) (ms : List GFlit) : Galley :=
  { x with head := ms, taken := if m.eos then 0 else x.taken + 1, taking := !m.eos
           popCnt := if m.eos then sat 32 (x.popCnt + 1) else x.popCnt }

theorem takeHead_cons {m : GFlit} {ms : List GFlit} (h : x.head = m :: ms) : x.takeHead = some (m, x.gave m ms) := by
  unfold Galley.takeHead; rw [h]; rfl

/-- A galley that is fed by a push of its own core returns no credit. -/
theorem creditBack_local (h : ((d.core k).galley g).src = 0) (n : Nat) : d.creditBack k g n = d := by
  unfold Dev.creditBack
  simp [h]

/-- The flit that galley g of core k sends to the next galley on the mesh. -/
def Galley.flitOut (x : Galley) (k g : Nat) (m : GFlit) : MeshFlit :=
  { core := x.destCore, galley := x.destGalley, srcCore := k, srcGalley := g, flit := m }

/-- The galley once slot `m` has gone downstream, for one credit. -/
def Galley.paid (x : Galley) (m : GFlit) (ms : List GFlit) : Galley := { x.gave m ms with credit := x.credit - 1, stalled := false }

/-- The device with the slot at the front of galley g gone to the mesh. -/
def Dev.forwarded (d : Dev) (k g : Nat) (m : GFlit) (ms : List GFlit) : Dev :=
  let x := (d.core k).galley g
  { d.modGalley k g fun _ => x.paid m ms with vc2 := d.vc2 ++ [x.flitOut k g m] }

theorem galley_forwarded (m : GFlit) (ms : List GFlit) :
    ((d.forwarded k g m ms).core k).galley g = ((d.core k).galley g).paid m ms :=
  (congrArg (CoreSt.galley · g) (core_modGalley _)).trans (galley_modGalley_self _ _ _)

theorem sendGalleyFlit_paid (hs : ((d.core k).galley g).sink = 1) (m : GFlit) (ms : List GFlit) :
    (d.modGalley k g fun _ => ((d.core k).galley g).paid m ms).sendGalleyFlit k g m = d.forwarded k g m ms := by
  have now : ((d.modGalley k g fun _ => ((d.core k).galley g).paid m ms).core k).galley g = _ := galley_forwarded m ms
  unfold Dev.sendGalleyFlit
  rw [now]
  exact if_pos hs

theorem quiet_forwarded (h : (d.core k).GalleysQuiet) (m : GFlit) (ms : List GFlit) :
    ((d.forwarded k g m ms).core k).GalleysQuiet := by
  have core : (d.forwarded k g m ms).core k = _ := core_modGalley _
  rw [core]
  exact quiet_modGalley h (h.2 g)

theorem kept_forwarded (m : GFlit) (ms : List GFlit) : d.Kept (d.forwarded k g m ms) [.core k, .mesh] :=
  (kept_modGalley _).trans (kept_mesh _ _)

/-- A slot goes on to the next galley: nothing returns a credit, and nothing moves up behind it. -/
theorem galleyForwardFlit_sends (hq : (d.core k).GalleysQuiet) (hg : g < 16) {m : GFlit} {ms : List GFlit}
    (he : ((d.core k).galley g).en = true) (hs : ((d.core k).galley g).sink = 1) (hh : d.holds k = false)
    (ha : ((d.core k).galley g).owesAbort = false) (ht : ((d.core k).galley g).taking = true)
    (hm : ((d.core k).galley g).head = m :: ms) (hc : 0 < ((d.core k).galley g).credit)
    (htail : ((d.core k).galley g).tail = []) (hsrc : ((d.core k).galley g).src = 0) :
    d.galleyForwardFlit k g = d.forwarded k g m ms := by
  have now := galley_forwarded (d := d) (k := k) (g := g) m ms
  calc d.galleyForwardFlit k g
    _ = ((((d.forwarded k g m ms).creditBack k g 1).settleGalley k g
          ((((d.forwarded k g m ms).creditBack k g 1).core k).galley g).tail.length).pumpGalleys k) := by
      unfold Dev.galleyForwardFlit
      rw [if_neg (by simp [he, hs, hh, hg])]
      simp only [ha, ht, takeHead_cons hm]
      rw [if_neg (by decide), if_neg (by decide), if_neg (by simp [hs]; omega), ← sendGalleyFlit_paid hs]
      rfl
    _ = (d.forwarded k g m ms).pumpGalleys k := by
      rw [creditBack_local (by rw [now]; exact hsrc), settleGalley_nil (by rw [now]; exact htail)]
    _ = d.forwarded k g m ms := pumpGalleys_quiet (quiet_forwarded hq m ms)

/-! ### The spill ring (R236, R246) -/

/-- The device with the oldest slot of galley g's ring, as it lies in memory, at the back of its head. -/
def Dev.ringRead (d : Dev) (k g : Nat) (r : RingSlot) (rs : List RingSlot) : Dev :=
  let a := ((d.core k).galley g).ringBase + 64 * r.place
  d.modGalley k g fun x => { x with head := x.head ++ [⟨d.read a 64, r.valid, r.sos, r.eos, false, r.poison⟩], ring := rs }

theorem galleyRingRead_moves (hq : (d.core k).GalleysQuiet) (hg : g < 16) {r : RingSlot} {rs : List RingSlot}
    (hr : ((d.core k).galley g).ring = r :: rs) (hh : ((d.core k).galley g).head.length < 8)
    (hb : d.badAt (((d.core k).galley g).ringBase + 64 * r.place) 64 = none) (ht : ((d.core k).galley g).tail = []) :
    d.galleyRingRead k g = d.ringRead k g r rs := by
  have core : (d.ringRead k g r rs).core k = _ := core_modGalley _
  have tail : (((d.ringRead k g r rs).core k).galley g).tail = [] := by rw [core, galley_modGalley_self]; exact ht
  calc d.galleyRingRead k g
    _ = ((d.ringRead k g r rs).settleGalley k g (((d.ringRead k g r rs).core k).galley g).tail.length).pumpGalleys k := by
      unfold Dev.galleyRingRead Dev.ringToHead
      rw [if_neg (by simp [hr, hg, hh])]
      simp only [hr, hb, Option.isSome_none, Bool.or_false]
      rw [if_neg (by omega)]
      rfl
    _ = (d.ringRead k g r rs).pumpGalleys k := by rw [settleGalley_nil tail]
    _ = d.ringRead k g r rs := pumpGalleys_quiet (by rw [core]; exact quiet_modGalley hq (hq.2 g))

/-! ### The statement -/

/-- What an event of core k that leaves the device `f` shows, but for the ring entries that wait for lists of its partition. -/
theorem shown_of_event {c : Instr} {xs : List Place} (run : exec c s = .next (s.withDev (f.ordersOf k))) (h : s.dev.Kept f xs) :
    ∃ e, exec c s = .next (s.withDev e) ∧ e.core k = f.core k ∧ e.vc2 = f.vc2 ∧ e.vc0 = f.vc0 ∧
      s.dev.Kept e (xs ++ [.hdr pgPart]) := by
  obtain ⟨vc2, vc0⟩ : Place.Same f (f.ordersOf k) .mesh := ordersOf_same k (by simp)
  exact ⟨_, run, core_ordersOf k k, vc2, vc0, h.trans (kept_ordersOf k)⟩

/-- Settles O14: each event changes galley g of the core, and the mesh where a flit or a credit comes or goes; no command is there to
go on after it. -/
theorem galleyEvents : Obligations.GalleyEvents := by
  intro s k g h hg hq x at_
  have ok : decide (g < 16) = true := decide_eq_true hg
  refine ⟨fun m hm ho he hs hc hsg ha hsync hr ht hh => ?_, fun m hm ho => ?_, fun hb hs => ?_,
    fun m ms he hs hh ha ht hm hc htail hsrc => ?_, fun r rs hr hh hb ht => ?_⟩
  · have run : exec (.galleyFlitArrival k g) s = _ := runIf_onCore h ok fun d => d.galleyFlitArrival k g
    have arrive := acceptFlit_enters (d := s.dev.lifted m) (k := k) (g := g) (m := m.flit)
    simp only [core_lifted] at arrive
    rw [galleyFlitArrival_accepts hm ho he hs hc hsg, arrive hq ha hsync hr ht hh] at run
    obtain ⟨e, run, core, vc2, -, kept⟩ := shown_of_event run ((kept_lifted _).trans (kept_tookFlit _))
    have now : at_ e = _ := (congrArg (CoreSt.galley · g) core).trans (galley_tookFlit _)
    rw [core_lifted] at now
    refine ⟨e, run, ?_, ?_, ?_, ?_, ?_, kept.mono (by simp)⟩
    · rw [now]; rfl
    · rw [now]; rfl
    · rw [now]; rfl
    · exact vc2.trans (kept_tookFlit _ .mesh (by simp)).1
    · rw [now]; rfl
  · have run : exec (.galleyCreditArrival k g) s = _ := runIf_onCore h ok fun d => d.galleyCreditArrival k g
    rw [galleyCreditArrival_adds hm ho] at run
    obtain ⟨e, run, core, -, vc0, kept⟩ := shown_of_event run ((kept_mesh _ _).trans (kept_modGalley _))
    refine ⟨e, run, ?_, vc0, kept.mono (by simp)⟩
    exact (congrArg (CoreSt.galley · g) (core.trans (core_modGalley _))).trans (galley_modGalley_self _ _ _)
  · have run : exec (.galleyConsumerStart k g) s = _ := runIf_onCore h ok fun d => d.galleyConsumerStart k g
    rw [galleyConsumerStart_forwards hg hb hs] at run
    obtain ⟨e, run, core, -, -, kept⟩ := shown_of_event run ((kept_noteStamp hg _).trans (kept_modGalley _))
    have same : ((s.dev.noteStamp k g (x.head.headD {}).data).core k) = s.dev.core k := kept_noteStamp hg _ (.core k) (by simp)
    have now : at_ e = _ := (congrArg (CoreSt.galley · g) (core.trans (core_modGalley _))).trans (galley_modGalley_self _ _ _)
    rw [same] at now
    exact ⟨e, run, by rw [now], by rw [now], by rw [now], kept.mono (by simp)⟩
  · have run : exec (.galleyForwardFlit k g) s = _ := runIf_onCore h ok fun d => d.galleyForwardFlit k g
    rw [galleyForwardFlit_sends hq hg he hs hh ha ht hm hc htail hsrc] at run
    obtain ⟨e, run, core, vc2, -, kept⟩ := shown_of_event run (kept_forwarded m ms)
    have now : at_ e = _ := (congrArg (CoreSt.galley · g) core).trans (galley_forwarded m ms)
    exact ⟨e, run, by rw [now]; rfl, by rw [now]; rfl, vc2, kept⟩
  · have run : exec (.galleyRingRead k g) s = _ := runIf_onCore h ok fun d => d.galleyRingRead k g
    rw [galleyRingRead_moves hq hg hr hh hb ht] at run
    obtain ⟨e, run, core, -, -, kept⟩ := shown_of_event run (kept_modGalley _)
    have now : at_ e = _ := (congrArg (CoreSt.galley · g) (core.trans (core_modGalley _))).trans (galley_modGalley_self _ _ _)
    exact ⟨e, run, by rw [now], by rw [now], kept⟩

end Sys2Proof.Machine
end

section
/-!
PROOF. Writes of the GALLEY page (R243, R248): configurations of a galley, and its flush.
-/
namespace Sys2Proof.Machine

variable {s : State} {d : Dev} {k g off : Nat} {w : Word} {q : CoreSt} {x : Galley}

/-! ### The page -/

theorem writePage_galley (hk : k < numCores) : d.writePage {} (pgGalley k) off w = d.writeGalley k off w := by
  unfold Dev.writePage; rw [pgGalley, pageType_pgOfCore hk (by decide), pageInstance_pgOfCore hk (by decide)]; rfl

theorem writeGalley_set (hg : g < 16) (ho : off < 0x40) :
    d.writeGalley k (0x100 + off + 0x40 * g) w = d.galleySetWrite k g off w := by
  have set : (0x100 + off + 0x40 * g - 0x100) / 0x40 = g := by omega
  have within : (0x100 + off + 0x40 * g) % 0x40 = off := by omega
  rw [Dev.writeGalley, if_pos (by omega), set, within]

/-- A write of a register of galley g's set. -/
theorem run_galleySet (h : s.CoreRuns k) (hg : g < 16) (ho : off < 0x40) (ha : off % 4 = 0) :
    (s.runIf (decide (g < 16)) fun c => c.busWrite (pgGalley k) (0x100 + off + 0x40 * g) w) =
      .next (s.written (s.dev.galleySetWrite k g off w)) := by
  rw [decide_eq_true hg, ← writeGalley_set hg ho, ← writePage_galley h.2.1]
  exact run_busWrite_core h (by decide) (by omega) (by omega) (by omega)

theorem exec_galleyCfgWrite (h : s.CoreRuns k) (hg : g < 16) :
    exec (.galleyCfgWrite k g w) s = .next (s.written (s.dev.galleySetWrite k g 0 w)) :=
  run_galleySet (off := 0) h hg (by decide) rfl

theorem exec_galleyFlush (h : s.CoreRuns k) (hg : g < 16) :
    exec (.galleyFlush k g w) s = .next (s.written (s.dev.galleySetWrite k g 0x28 w)) :=
  run_galleySet (off := 0x28) h hg (by decide) rfl

/-! ### Configuration (R248) -/

/-- The galley with the word written to CFG. -/
def Galley.configured (x : Galley) (w : Word) : Galley := { x with cfg := BitVec.ofNat 32 (w.toNat &&& galleyCfgMask) }

/-- The device with galley g of core k as it is configured. -/
def Dev.galleySet (d : Dev) (k g : Nat) (y : Galley) : Dev := d.modGalley k g fun _ => y

theorem galley_galleySet (y : Galley) : ((d.galleySet k g y).core k).galley g = y :=
  (congrArg (CoreSt.galley · g) (core_modGalley _)).trans (galley_modGalley_self _ _ _)

theorem kept_galleySet (y : Galley) : d.Kept (d.galleySet k g y) [.core k] := kept_modGalley _

/-- No link has granted credit for the galley's destination, so that there is none to take up. -/
theorem takeGrant_none (h : ((d.core k).galley g).sink = 2 → tget none (d.ln ((d.core k).galley g).destLink).grants
    (((d.core k).galley g).destCore * 16 + ((d.core k).galley g).destGalley) = none) : d.takeGrant k g = d := by
  unfold Dev.takeGrant
  dsimp only
  by_cases hs : ((d.core k).galley g).sink = 2
  · rw [if_pos hs, h hs]
  · rw [if_neg hs]

/-- A write of CFG is refused where its threshold lies above the capacity. -/
theorem galleyCfg_tooHigh (hx : ((d.core k).galley g).configured w = x) (h : x.capacity < x.thresh) :
    d.galleySetWrite k g 0 w = d.setError (pgGalley k) 0x0606 (galleyInfo g 0) 0 := by
  subst hx
  have refused : d.galleyConfig k g 0 w = .error (0x0606, 0) := by
    unfold Dev.galleyConfig
    rw [if_pos rfl]
    exact if_pos (Bool.or_eq_true_iff.2 (.inr (decide_eq_true h)))
  unfold Dev.galleySetWrite
  rw [if_neg (by decide), if_pos (.inl rfl), refused]

section
variable (hx : ((d.core k).galley g).configured w = x) (was : ((d.core k).galley g).en = false) (h : x.thresh ≤ x.capacity)
include hx was h

/-- A galley that is disabled and stays so takes its configuration. -/
theorem galleyCfg_idle (hq : (d.core k).GalleysQuiet) (stays : x.en = false)
    (hn : x.sink = 2 → tget none (d.ln x.destLink).grants (x.destCore * 16 + x.destGalley) = none) :
    d.galleySetWrite k g 0 w = d.galleySet k g { x with peak := x.occ } := by
  have quiet : ((d.galleySet k g { x with peak := x.occ }).core k).GalleysQuiet := by
    have core : (d.galleySet k g { x with peak := x.occ }).core k = _ := core_modGalley _
    rw [core]
    subst hx
    exact quiet_modGalley hq (hq.2 g)
  have fits (b : Bool) : ¬(((d.core k).galley g).en && b || decide (x.capacity < x.thresh)) = true := by simp [was, h]
  have keeps : ¬(x.en && !((d.core k).galley g).en) = true := by simp [stays]
  have taken : d.galleyConfig k g 0 w = .ok (((d.galleySet k g { x with peak := x.occ }).takeGrant k g).pumpGalleys k) := by
    subst hx
    unfold Dev.galleyConfig
    refine (if_pos rfl).trans ((if_neg (fits _)).trans ((if_neg keeps).trans ?_))
    simp only [was, Bool.false_and, Bool.false_eq_true, if_false]
    rfl
  unfold Dev.galleySetWrite
  rw [if_neg (by decide), if_pos (.inl rfl), taken, takeGrant_none (by rw [galley_galleySet]; exact hn)]
  exact pumpGalleys_quiet quiet

/-- A galley that is fed and drained by commands of its own core, and has no ring, is enabled. -/
theorem galleyCfg_enables (now : x.en = true) (hsrc : x.src = 0) (hsink : x.sink = 0) (hr : x.ringSize = 0) :
    d.galleySetWrite k g 0 w = d.galleySet k g { x with peak := x.occ, freed := 0 } := by
  have fits (b : Bool) : ¬(((d.core k).galley g).en && b || decide (x.capacity < x.thresh)) = true := by simp [was, h]
  have turns : (x.en && !((d.core k).galley g).en) = true := by simp [now, was]
  have ring (b : Bool) : ¬(x.ringSize % 4096 ≠ 0 ∨ 0x1000000 < x.ringSize ∨ (x.ringSize ≠ 0 ∧ b = false)) := by simp [hr]
  have src (b c : Bool) : ¬(x.src == 3 || (x.src == 1 && b) || (x.src == 2 && c)) = true := by simp [hsrc]
  have sink (b c : Bool) : ¬(x.sink == 3 || (x.sink == 1 && b) || (x.sink == 2 && c)) = true := by simp [hsink]
  have home : x.src ≠ 1 ∧ x.src ≠ 2 := by omega
  have taken : d.galleyConfig k g 0 w = .ok ((d.galleySet k g { x with peak := x.occ, freed := 0 }).takeGrant k g) := by
    subst hx
    unfold Dev.galleyConfig
    refine (if_pos rfl).trans ((if_neg (fits _)).trans ((if_pos turns).trans ((if_neg (ring _)).trans
      ((if_neg (src _ _)).trans ((if_neg (sink _ _)).trans (congrArg Except.ok ?_))))))
    refine (if_neg home.1).trans ((if_neg home.2).trans ?_)
    exact congrArg (fun n => (d.galleySet k g { ((d.core k).galley g).configured w with
      peak := (((d.core k).galley g).configured w).occ, freed := n }).takeGrant k g) (if_neg home.2)
  unfold Dev.galleySetWrite
  rw [if_neg (by decide), if_pos (.inl rfl), taken]
  refine takeGrant_none fun hs => ?_
  rw [galley_galleySet] at hs
  exact absurd (hsink.symm.trans hs) (by decide)
end

/-! ### Flush (R243) -/

/-- The galley emptied, what was cut in it counted, and the next slug's start awaited where a neighbour sends it. -/
def Galley.flushed (x : Galley) : Galley :=
  { x with
    head := [], ring := [], tail := [], ringNext := 0, peak := 0, partVoid := !x.part.isEmpty, left := 0
    partialCnt := sat 16 (x.partialCnt + x.flushCounts.1), wholeCnt := sat 16 (x.wholeCnt + x.flushCounts.2)
    owesAbort := x.owesAbort || (x.sink != 0 && x.taking && decide (0 < x.taken))
    taking := false, taken := 0, dropping := false, receiving := false, stalled := false
    resync := x.src != 0 }

/-- Slots go back as credits to a forwarding source on the mesh, and to none where the galley is fed by its own core. -/
theorem creditBack_mesh (h : ((d.core k).galley g).src ≠ 2) (n : Nat) : d.creditBack k g n =
    { d with vc0 := if ((d.core k).galley g).src = 1 ∧ n ≠ 0 then
        d.vc0 ++ [⟨((d.core k).galley g).srcCore, ((d.core k).galley g).srcGalley, n, k⟩] else d.vc0 } := by
  unfold Dev.creditBack
  by_cases hn : n = 0
  · simp [hn]
  · by_cases hs : ((d.core k).galley g).src = 1 <;> simp [hn, hs, h]

/-- The device with galley g's slots gone and its credits on their way. -/
def Dev.emptied (d : Dev) (k g : Nat) : Dev :=
  (d.galleySet k g ((d.core k).galley g).flushed).creditBack k g ((d.core k).galley g).occ

section
variable (hsrc : ((d.core k).galley g).src ≠ 2)
include hsrc

theorem emptied_eq : d.emptied k g = { d.galleySet k g ((d.core k).galley g).flushed with
    vc0 := if ((d.core k).galley g).src = 1 ∧ ((d.core k).galley g).occ ≠ 0 then
      d.vc0 ++ [⟨((d.core k).galley g).srcCore, ((d.core k).galley g).srcGalley, ((d.core k).galley g).occ, k⟩] else d.vc0 } := by
  have now := galley_galleySet (d := d) (k := k) (g := g) ((d.core k).galley g).flushed
  rw [Dev.emptied, creditBack_mesh (by rw [now]; exact hsrc), now]
  rfl

theorem core_emptied : (d.emptied k g).core k = (d.core k).modGalley g fun _ => ((d.core k).galley g).flushed := by
  rw [emptied_eq hsrc]; exact core_modGalley _

theorem kept_emptied : d.Kept (d.emptied k g) [.core k, .mesh] := by
  rw [emptied_eq hsrc]; exact (kept_galleySet _).trans (kept_mesh _ _)

/-- A flush with no command in flight empties the galley and raises FLUSHED. -/
theorem galleyFlush_empties (hq : (d.core k).GalleysQuiet) (hgo : bit w.toNat 0 = true) :
    d.galleySetWrite k g 0x28 w = (d.emptied k g).raise (pgGalley k) 2 := by
  have quiet : (((d.emptied k g).raise (pgGalley k) 2).core k).GalleysQuiet := by
    rw [Dev.core_raise, core_emptied hsrc]; exact quiet_modGalley hq rfl
  calc d.galleySetWrite k g 0x28 w
    _ = d.flushGalley k g := (if_pos rfl).trans (if_pos hgo)
    _ = ((d.emptied k g).raise (pgGalley k) 2).pumpGalleys k := by
      unfold Dev.flushGalley
      simp only [galleyCmd_quiet hq (.inl rfl), galleyCmd_quiet hq (.inr rfl)]
      rfl
    _ = (d.emptied k g).raise (pgGalley k) 2 := pumpGalleys_quiet quiet
end

/-! ### The statement -/

/-- Settles O19: a write of CFG is refused by an error of the page, or sets the galley; a flush empties it. No command is there to go
on after either. -/
theorem galleyControl : Obligations.GalleyControl := by
  intro s k g w h hg hq x y
  have hy : x.configured w = y := rfl
  refine ⟨fun was stays fits hn => ?_, fun was now fits hsrc hsink hr => ?_, fun high => ?_, fun hgo hsrc => ?_⟩
  · refine ⟨_, exec_galleyCfgWrite h hg, ?_⟩
    rw [galleyCfg_idle hy was fits hq stays hn]
    exact ⟨galley_galleySet _, kept_galleySet _⟩
  · refine ⟨_, exec_galleyCfgWrite h hg, ?_⟩
    rw [galleyCfg_enables hy was fits now hsrc hsink hr]
    exact ⟨galley_galleySet _, kept_galleySet _⟩
  · exact refused_of_setError (i := 5) (by rw [exec_galleyCfgWrite h hg, galleyCfg_tooHigh hy high]; rfl)
  · refine ⟨_, exec_galleyFlush h hg, ?_⟩
    rw [galleyFlush_empties hsrc hq hgo]
    have now : (((s.dev.emptied k g).raise (pgGalley k) 2).core k).galley g = x.flushed := by
      rw [Dev.core_raise, core_emptied hsrc, galley_modGalley_self]
    refine ⟨?_, ?_, ?_, ?_, ?_, ?_, ?_, ?_⟩
    · rw [now]; rfl
    · rw [now]; rfl
    · rw [now]; rfl
    · rw [now]; rfl
    · rw [now]; exact Bool.eq_iff_iff.2 (by simp [Galley.flushed])
    · rw [Dev.raise_vc0, emptied_eq hsrc]
    · rw [hdr_raise_self]; exact bit_raised_raw _ (by decide)
    · exact ((kept_emptied hsrc).trans (kept_raise _ _)).mono (by simp)

end Sys2Proof.Machine
end

section
/-!
PROOF. GALLEY.PUSH and GALLEY.POP issue (R234, R238): the one galley command in flight starts, and goes as far as its galley allows.
-/
namespace Sys2Proof.Machine

variable {s : State} {d : Dev} {k g l n : Nat} {x : ListSt} {raw : List Byte} {c : Cmd} {cs : List Cmd} {q : CoreSt}

/-! ### The command -/

/-- A galley command as it enters its queue. -/
structure Cmd.Fresh (c : Cmd) : Prop where
  unit : c.unit = 4
  started : c.started = false
  complete : c.complete = false
  moved : c.moved = 0

theorem mkCmd_galley {desc : List Byte} (h : dOp desc = 0x34 ∨ dOp desc = 0x35) (i : Nat) (ext : List Byte) :
    (d.mkCmd k l i desc ext).Fresh := by
  have unit : unitOf desc = some 4 := by obtain h | h := h <;> simp [unitOf, h]
  unfold Dev.mkCmd
  dsimp only
  rw [if_neg (by omega), if_neg (by omega), unit]
  exact ⟨rfl, rfl, rfl, rfl⟩

theorem issueCmd_fresh (h : dOp (d.issueCmd k l x raw).desc = 0x34 ∨ dOp (d.issueCmd k l x raw).desc = 0x35) :
    (d.issueCmd k l x raw).Fresh := by
  rw [Dev.issueCmd, mkCmd_desc] at h
  exact mkCmd_galley h _ _

/-- The command once it has started at time `t`. -/
def Cmd.startedAt (c : Cmd) (t : Nat) : Cmd := { c with started := true, startTime := t }

/-! ### One galley command in flight -/

/-- Command c, of the GALLEY unit, is the last in flight; the others are of other units, and have other numbers. -/
structure CoreSt.Alone (q : CoreSt) (cs : List Cmd) (c : Cmd) : Prop where
  cmds : q.cmds = cs ++ [c]
  units : ∀ y ∈ cs, y.unit ≠ 4
  seqs : ∀ y ∈ cs, y.seq ≠ c.seq
  unit : c.unit = 4

theorem CoreSt.Alone.mem (h : q.Alone cs c) : c ∈ q.cmds := by simp [h.cmds]

theorem CoreSt.Alone.cmd? (h : q.Alone cs c) : q.cmd? c.seq = some c := by
  refine cmd?_of_mem h.mem fun y hy hs => ?_
  rw [h.cmds, List.mem_append, List.mem_singleton] at hy
  exact hy.resolve_left fun hm => h.seqs y hm hs

theorem CoreSt.Alone.modCmd (h : q.Alone cs c) {t : Cmd → Cmd} (ht : (t c).seq = c.seq ∧ (t c).unit = c.unit) :
    (q.modCmd c.seq t).Alone cs (t c) := by
  have others : cs.map (fun y => if y.seq == c.seq then t y else y) = cs :=
    (List.map_congr_left fun y hy => if_neg (by simpa using h.seqs y hy)).trans (List.map_id _)
  refine ⟨?_, h.units, fun y hy => ht.1 ▸ h.seqs y hy, ht.2.trans h.unit⟩
  simp only [CoreSt.modCmd, h.cmds, List.map_append, others, List.map_cons, List.map_nil, beq_self_eq_true, if_true]

theorem CoreSt.Alone.modGalley (h : q.Alone cs c) (g : Nat) (t : Galley → Galley) : (q.modGalley g t).Alone cs c :=
  ⟨h.cmds, h.units, h.seqs, h.unit⟩

/-- The device with command `c` started. -/
def Dev.galleyStarted (d : Dev) (k : Nat) (c : Cmd) : Dev := d.modCore k fun q => q.modCmd c.seq fun y => y.startedAt d.time

theorem alone_galleyStarted (h : (d.core k).Alone cs c) : ((d.galleyStarted k c).core k).Alone cs (c.startedAt d.time) := by
  rw [Dev.galleyStarted, Dev.core_modCore_self]
  exact h.modCmd (t := fun y => y.startedAt d.time) ⟨rfl, rfl⟩

theorem startGalleys_alone (h : (d.core k).Alone cs c) (hs : c.started = false) :
    d.startGalleys k 4 = d.galleyStarted k c := by
  have mine : (d.core k).cmds.filter (fun y => y.unit == 4) = [c] := by
    rw [h.cmds, List.filter_append, List.filter_eq_nil_iff.2 (by simpa using h.units)]
    simp [h.unit]
  have idle : (d.galleyStarted k c).startGalleys k 3 = d.galleyStarted k c := by
    refine startGalleys_idle (fun y hy hu => ?_) 3
    rw [(alone_galleyStarted h).cmds] at hy
    obtain hy | hy := List.mem_append.1 hy
    · exact absurd hu (h.units y hy)
    · rw [List.mem_singleton.1 hy]; rfl
  unfold Dev.startGalleys
  simp only [mine, hs, List.find?_cons, List.filter_cons, List.filter_nil, Bool.not_false]
  exact idle

/-- The device once command `c` has gone as far as its galley allows. -/
def Dev.galleyGone (d : Dev) (k : Nat) (c : Cmd) : Dev :=
  let g := (MsgB.parse c.desc).peer
  if dOp c.desc = 0x34 then d.pushSlots k g c.seq (((d.core k).galley g).capacity + 1)
  else d.popSlots k g (((d.core k).galley g).capacity + 1)

/-- Letting the galleys go on starts the one command in flight and lets it go on. -/
theorem pumpGalleys_alone {e : Dev} (h : (d.core k).Alone cs c) (hs : c.started = false) (hc : c.complete = false)
    (he : (d.galleyStarted k c).galleyGone k (c.startedAt d.time) = e)
    (hd : ∀ j, ((e.core k).galley j).dropping = false) : d.pumpGalleys k = e := by
  have cmds := (alone_galleyStarted h).cmds
  have drops := dropSlugs_idle hd (List.range 16)
  rw [← he] at drops ⊢
  refine Eq.trans ?_ drops
  unfold Dev.pumpGalleys
  rw [startGalleys_alone h hs]
  dsimp only
  rw [cmds, List.foldl_append, foldl_idle fun y hy => if_neg fun hu => h.units y hy hu.1, List.foldl_cons, List.foldl_nil,
    if_pos ⟨h.unit, rfl, by simp [Cmd.startedAt, hc]⟩]
  rfl

/-! ### GALLEY.PUSH (R234, R235) -/

/-- The one slot of a slug that fits it: its header before its payload. -/
def Dev.wholeSlug (d : Dev) (k g : Nat) (c : Cmd) : GFlit :=
  let b := MsgB.parse c.desc
  ⟨slugHeader k g (d.imprNum k) c ++ d.read b.addr b.len, 16 + b.len, true, true, false, false⟩

theorem slugSlot_whole (h : (MsgB.parse c.desc).len ≤ 48) :
    d.slugSlot (slugHeader k g (d.imprNum k) c) (MsgB.parse c.desc).addr (MsgB.parse c.desc).len 0 = d.wholeSlug k g c := by
  unfold Dev.slugSlot Dev.wholeSlug
  have last : 16 + (MsgB.parse c.desc).len ≤ 64 := by omega
  simp [last]

/-- The command of a push that has moved its one slot. -/
def Cmd.pushed (n : Nat) (y : Cmd) : Cmd := { y with moved := y.moved + 1, complete := true, counts := { y.counts with bytes := n } }

/-- The device with a slug of one slot in galley g. -/
def Dev.slugIn (d : Dev) (k g : Nat) (m : GFlit) : Dev :=
  ((d.modGalley k g fun x => { x with stalled := false }).modGalley k g fun x => x.entered m).modGalley k g fun x => x.settled m

theorem core_slugIn (m : GFlit) : (d.slugIn k g m).core k = (((d.core k).modGalley g fun x => { x with stalled := false }).modGalley g
    fun x => x.entered m).modGalley g fun x => x.settled m := by
  rw [Dev.slugIn, core_modGalley, core_modGalley, core_modGalley]

theorem alone_slugIn (h : (d.core k).Alone cs c) (m : GFlit) : ((d.slugIn k g m).core k).Alone cs c := by
  rw [core_slugIn]
  exact ((h.modGalley _ _).modGalley _ _).modGalley _ _

theorem head_slugIn (h : ((d.core k).galley g).head = []) (m : GFlit) : (((d.slugIn k g m).core k).galley g).head = [m] := by
  rw [core_slugIn, galley_modGalley_self, galley_modGalley_self, galley_modGalley_self]
  simp [Galley.settled, Galley.entered, h]

theorem dropping_slugIn (h : ∀ j, ((d.core k).galley j).dropping = false) (m : GFlit) (j : Nat) :
    (((d.slugIn k g m).core k).galley j).dropping = false := by
  rw [core_slugIn]
  simp only [galley_modGalley]
  split <;> simp [Galley.settled, Galley.entered, h]

theorem kept_slugIn (m : GFlit) : d.Kept (d.slugIn k g m) [.core k] :=
  ((kept_modGalley _).seq (kept_modGalley _)).seq (kept_modGalley _)

theorem pushSlots_complete (h : (d.core k).cmd? c.seq = some c) (hc : c.complete = true) (n : Nat) :
    d.pushSlots k g c.seq n = d := by
  cases n with
  | zero => rfl
  | succ n => unfold Dev.pushSlots; simp only [h, hc, if_true]

/-- The device after the push of a slug that fits one slot. -/
def Dev.slugPushed (d : Dev) (k g : Nat) (c : Cmd) : Dev :=
  (d.slugIn k g (d.wholeSlug k g c)).modCore k fun q => q.modCmd c.seq (Cmd.pushed (MsgB.parse c.desc).len)

theorem alone_slugPushed (h : (d.core k).Alone cs c) :
    ((d.slugPushed k g c).core k).Alone cs (c.pushed (MsgB.parse c.desc).len) := by
  rw [Dev.slugPushed, Dev.core_modCore_self]
  exact (alone_slugIn h _).modCmd ⟨rfl, rfl⟩

/-- A push of a slug that fits one slot, into an empty galley, puts that slot at the head and has done its work. -/
theorem pushSlots_whole (h : (d.core k).Alone cs c) (hc : c.complete = false) (hm : c.moved = 0)
    (hl : (MsgB.parse c.desc).len ≤ 48) (hb : d.badAt (MsgB.parse c.desc).addr (MsgB.parse c.desc).len = none)
    (hh : ((d.core k).galley g).head = []) (hr : ((d.core k).galley g).ring = []) (ht : ((d.core k).galley g).tail = []) (n : Nat) :
    d.pushSlots k g c.seq (n + 1) = d.slugPushed k g c := by
  have room : ¬((d.core k).galley g).capacity ≤ ((d.core k).galley g).occ := by
    simp [Galley.capacity, Galley.occ, hh, hr, ht]
  have clear : (((d.modGalley k g fun x => { x with stalled := false }).core k).galley g) =
      { (d.core k).galley g with stalled := false } := by rw [core_modGalley, galley_modGalley_self]
  have enters : (d.modGalley k g fun x => { x with stalled := false }).enterSlot k g (d.wholeSlug k g c) =
      d.slugIn k g (d.wholeSlug k g c) :=
    enterSlot_head (by rw [clear]; exact hr) (by rw [clear]; exact ht) (by rw [clear]; simp [hh]) _
  unfold Dev.pushSlots
  simp only [h.cmd?, hc, hm, hb, if_true, Bool.false_eq_true, if_false]
  rw [if_neg room, slugSlot_whole hl, enters]
  exact pushSlots_complete (c := c.pushed (MsgB.parse c.desc).len) (alone_slugPushed h).cmd? rfl n

theorem list_modGalley (q : CoreSt) (g l : Nat) (t : Galley → Galley) : (q.modGalley g t).list l = q.list l := rfl

theorem list_modCmd (q : CoreSt) (n l : Nat) (t : Cmd → Cmd) : (q.modCmd n t).list l = q.list l := rfl

theorem galley_slugPushed (j : Nat) : ((d.slugPushed k g c).core k).galley j = ((d.slugIn k g (d.wholeSlug k g c)).core k).galley j := by
  rw [Dev.slugPushed, Dev.core_modCore_self]; rfl

/-- What a push leaves of its core: the next number and the lists. -/
theorem rest_slugPushed : ((d.slugPushed k g c).core k).seqNext = (d.core k).seqNext ∧
    ((d.slugPushed k g c).core k).list l = (d.core k).list l := by
  rw [Dev.slugPushed, Dev.core_modCore_self, core_slugIn]
  exact ⟨rfl, by rw [list_modCmd, list_modGalley, list_modGalley, list_modGalley]⟩

theorem kept_slugPushed : d.Kept (d.slugPushed k g c) [.core k] := (kept_slugIn _).seq (kept_modCore _ _)

/-! ### GALLEY.POP (R238) -/

/-- A pop of a galley whose consumer has not begun waits. -/
theorem popSlots_waits (h : ((d.core k).galley g).taking = false) (n : Nat) : d.popSlots k g n = d := by
  cases n with
  | zero => rfl
  | succ n =>
    unfold Dev.popSlots
    cases (d.core k).galleyCmd 0x35 g with
    | none => rfl
    | some y => simp only [h, Bool.not_false, if_true]

/-! ### Issue -/

/-- The device with a galley command issued and started. -/
def Dev.galleyIssued (d : Dev) (k l i : Nat) (c : Cmd) : Dev := (d.afterIssue k l i c).galleyStarted k c

theorem kept_galleyIssued (i : Nat) : d.Kept (d.galleyIssued k l i c) [.core k] := (kept_afterIssue _ _).seq (kept_modCore _ _)

/-- The slug is read as memory and the impression stood before the issue. -/
theorem wholeSlug_galleyIssued (i t : Nat) : (d.galleyIssued k l i c).wholeSlug k g (c.startedAt t) = d.wholeSlug k g c := by
  unfold Dev.wholeSlug
  exact congrArg (fun h => (⟨h ++ d.read _ _, _, _, _, _, _⟩ : GFlit)) rfl

/-- A command that issues where none of its unit is in flight is the one in flight. -/
theorem alone_afterIssue (hl : c.list = l) (hi : c.idx = n) (hq : (d.core k).GalleysQuiet)
    (hs : ∀ y ∈ (d.core k).cmds, y.seq ≠ c.seq) (hc : c.Fresh) : ((d.afterIssue k l n c).core k).Alone (d.core k).cmds c := by
  rw [afterIssue_core n c hl hi]
  exact ⟨rfl, fun y hy => (hq.1 y hy).1, hs, hc.unit⟩

/-- What a started galley command leaves of its core beside itself. -/
theorem core_galleyIssued (hl : c.list = l) (hi : c.idx = n) :
    (∀ j, ((d.galleyIssued k l n c).core k).galley j = (d.core k).galley j) ∧
    ((d.galleyIssued k l n c).core k).seqNext = ((d.core k).seqNext + 1) % 2 ^ 32 ∧
    (((d.galleyIssued k l n c).core k).list l).cursor = n + 1 := by
  subst hl hi
  rw [Dev.galleyIssued, Dev.galleyStarted, Dev.core_modCore_self, afterIssue_core _ _ rfl rfl]
  exact ⟨fun _ => rfl, rfl, congrArg ListSt.cursor tget_tset_self⟩

theorem galleyPush_issues (h : s.Accepts k l x raw) (hx : x.cursor < x.last) (hop : dOp raw = 0x34)
    (hc : s.dev.issueCmd k l x raw = c) :
    exec (.galleyPush k) s = .next (s.withDev (((s.dev.afterIssue k l x.cursor c).pumpGalleys k).ordersOf k)) := by
  rw [← hc]
  exact run_issue (opIn [0x34]) _ h (by simp [opIn, hop]) hx

theorem galleyPop_issues (h : s.Accepts k l x raw) (hx : x.cursor < x.last) (hop : dOp raw = 0x35)
    (hc : s.dev.issueCmd k l x raw = c) :
    exec (.galleyPop k) s = .next (s.withDev (((s.dev.afterIssue k l x.cursor c).pumpGalleys k).ordersOf k)) := by
  rw [← hc]
  exact run_issue (opIn [0x35]) _ h (by simp [opIn, hop]) hx

/-- A push of a slug that fits one slot, issued where its galley is empty and no other command is in flight, does all its work. -/
theorem pumpGalleys_push (hl : c.list = l) (hi : c.idx = n) (hq : (d.core k).GalleysQuiet)
    (hs : ∀ y ∈ (d.core k).cmds, y.seq ≠ c.seq) (hc : c.Fresh) (hop : dOp c.desc = 0x34)
    (hlen : (MsgB.parse c.desc).len ≤ 48) (hb : d.badAt (MsgB.parse c.desc).addr (MsgB.parse c.desc).len = none)
    (hg : (MsgB.parse c.desc).peer = g) (hh : ((d.core k).galley g).head = []) (hr : ((d.core k).galley g).ring = [])
    (ht : ((d.core k).galley g).tail = []) :
    (d.afterIssue k l n c).pumpGalleys k = (d.galleyIssued k l n c).slugPushed k g (c.startedAt d.time) := by
  obtain ⟨galley, -, -⟩ := core_galleyIssued (d := d) (k := k) hl hi
  have alone := alone_afterIssue hl hi hq hs hc
  refine pumpGalleys_alone alone hc.started hc.complete ?_ fun j => ?_
  · refine Eq.trans (if_pos hop) ?_
    rw [← galley] at hh hr ht
    subst hg
    exact pushSlots_whole (alone_galleyStarted alone) hc.complete hc.moved hlen hb hh hr ht _
  · rw [galley_slugPushed]
    exact dropping_slugIn (fun i => by rw [galley]; exact hq.2 i) _ j

/-- A pop, issued where its galley's consumer has not begun and no other command is in flight, starts and waits. -/
theorem pumpGalleys_pop (hl : c.list = l) (hi : c.idx = n) (hq : (d.core k).GalleysQuiet)
    (hs : ∀ y ∈ (d.core k).cmds, y.seq ≠ c.seq) (hc : c.Fresh) (hop : dOp c.desc = 0x35)
    (ht : ((d.core k).galley (MsgB.parse c.desc).peer).taking = false) :
    (d.afterIssue k l n c).pumpGalleys k = d.galleyIssued k l n c := by
  obtain ⟨galley, -, -⟩ := core_galleyIssued (d := d) (k := k) hl hi
  have alone := alone_afterIssue hl hi hq hs hc
  refine pumpGalleys_alone alone hc.started hc.complete ?_ fun j => by rw [galley]; exact hq.2 j
  have other : ¬dOp c.desc = 0x34 := by rw [hop]; decide
  refine Eq.trans (if_neg other) ?_
  rw [← galley] at ht
  exact popSlots_waits ht _

/-- Settles O15: the command is alone in the GALLEY unit, so it starts at once; the push fills its slot and the pop waits. -/
theorem galleyIssue : Obligations.GalleyIssue := by
  intro s k l x raw h hx hq
  have hlist : (s.dev.issueCmd k l x raw).list = l := mkCmd_list ..
  have hidx : (s.dev.issueCmd k l x raw).idx = x.cursor := mkCmd_idx ..
  have seq : (s.dev.issueCmd k l x raw).seq = (s.dev.core k).seqNext := mkCmd_seq ..
  have fresh := issueCmd_fresh (d := s.dev) (k := k) (l := l) (x := x) (raw := raw)
  have pushes := galleyPush_issues h hx (hc := rfl)
  have pops := galleyPop_issues h hx (hc := rfl)
  generalize s.dev.issueCmd k l x raw = c at *
  intro cmd b q hs
  obtain ⟨galley, next, cursor⟩ := core_galleyIssued (d := s.dev) (k := k) hlist hidx
  have kept : s.dev.Kept (s.dev.galleyIssued k l x.cursor cmd) [.core k] := kept_galleyIssued _
  have alone : cmd.Fresh → ((s.dev.galleyIssued k l x.cursor cmd).core k).Alone q.cmds (cmd.startedAt s.dev.time) :=
    fun hc => alone_galleyStarted (alone_afterIssue hlist hidx hq (seq ▸ hs) hc)
  refine ⟨fun hop hop' hl hb hh hr ht => ?_, fun hop hop' ht => ?_⟩
  · have run := pushes hop
    rw [pumpGalleys_push hlist hidx hq (seq ▸ hs) (fresh (.inl hop')) hop' hl hb rfl hh hr ht] at run
    obtain ⟨next', list'⟩ := rest_slugPushed (d := s.dev.galleyIssued k l x.cursor cmd) (k := k) (g := b.peer) (l := l)
      (c := cmd.startedAt s.dev.time)
    refine ⟨_, run, ?_, ?_, ?_, ?_, (kept.seq kept_slugPushed).trans (kept_ordersOf k)⟩ <;> rw [core_ordersOf]
    · rw [galley_slugPushed, wholeSlug_galleyIssued]
      exact head_slugIn (by rw [galley]; exact hh) _
    · exact ⟨_, (alone_slugPushed (alone (fresh (.inl hop')))).mem, rfl, rfl⟩
    · exact next'.trans next
    · exact (congrArg ListSt.cursor list').trans cursor
  · have run := pops hop
    have hc := fresh (.inr hop')
    rw [pumpGalleys_pop hlist hidx hq (seq ▸ hs) hc hop' ht] at run
    refine ⟨_, run, ?_, ?_, ?_, ?_, kept.trans (kept_ordersOf k)⟩ <;> rw [core_ordersOf]
    · exact ⟨_, (alone hc).mem, rfl, rfl, hc.complete⟩
    · exact galley
    · exact next
    · exact cursor

end Sys2Proof.Machine
end

section
/-!
PROOF. Credit and boundary records of a link, and records of a past epoch (R241, R295, R300, R301, R314, R343).
-/
namespace Sys2Proof.Machine

variable {s : State} {d e : Dev} {n k g i j : Nat} {rec : List Byte} {c : Instr} {x : Galley} {t : Galley → Galley}

/-! ### Records of a past epoch (R295) -/

theorem onRecord_stale (h : d.recordStale n rec = true) (f : Dev → Dev) :
    d.onRecord n rec f = d.bump (pgLink (d.lnHome n)) 0x13C 1 := if_pos h

theorem onRecord_fresh (h : d.recordStale n rec = false) (f : Dev → Dev) : d.onRecord n rec f = f d := if_neg (by simp [h])

/-- A command that acts on a record counts one of a past epoch and does no more. -/
theorem stale_counted {f : Dev → Dev} (run : exec c s = .next (s.withDev (s.dev.onRecord n rec f)))
    (h : s.dev.recordStale n rec = true) : ∃ e, exec c s = .next (s.withDev e) ∧
      e.reg (pgLink (s.dev.lnHome n)) 0x13C = sat 32 (s.dev.reg (pgLink (s.dev.lnHome n)) 0x13C + 1) ∧
      s.dev.Kept e [.reg (pgLink (s.dev.lnHome n)) 0x13C] := by
  rw [onRecord_stale h] at run
  exact ⟨_, run, reg_bump_self (by decide), kept_bump _ _ _ (by decide)⟩

/-- A link in HELLO or ACTIVE hears time exchanges. -/
theorem hears (h : (d.ln n).state = .hello ∨ (d.ln n).state = .active) : ¬((d.ln n).state ≠ .hello ∧ ¬d.lnActive n = true) := by
  obtain h | h := h <;> simp [Dev.lnActive, h]

theorem tsyncReq_onRecord (h : (d.ln n).state = .hello ∨ (d.ln n).state = .active) : ∃ f, d.tsyncReq n rec = d.onRecord n rec f :=
  ⟨_, if_neg (hears h)⟩

theorem tsyncResp_onRecord (h : (d.ln n).state = .hello ∨ (d.ln n).state = .active) : ∃ f, d.tsyncResp n rec = d.onRecord n rec f :=
  ⟨_, if_neg (hears h)⟩

/-! ### LC_CREDIT (R300) -/

/-- What the partner of a link has freed, as the link knows it. -/
def Dev.freed (d : Dev) (i : Nat) : Nat × Nat := ((d.link i).lcFree, (d.link i).lcFree2)

theorem freed_modLn (n : Nat) {f : LinkSt → LinkSt} (h : ∀ x, (f x).lcFree = x.lcFree ∧ (f x).lcFree2 = x.lcFree2) :
    (d.modLn n f).freed = d.freed := by
  funext i
  unfold Dev.freed Dev.modLn
  by_cases hi : i = d.lnHome n
  · rw [hi, Dev.link_modLink_self]; exact Prod.ext (h _).1 (h _).2
  · rw [Dev.link_modLink_ne _ _ _ hi]

theorem freed_firstSend (n : Nat) (x : LnFlit) : (d.firstSend n x).freed = d.freed := by
  have counts (m o v : Nat) (e : Dev) : (e.bump64 m o v).freed = e.freed :=
    funext fun i => congrArg (fun x : LinkSt => (x.lcFree, x.lcFree2)) ((reports_bump64 _ _ _).link i)
  unfold Dev.firstSend
  dsimp only
  exact (counts _ _ _ _).trans (freed_modLn n fun _ => ⟨rfl, rfl⟩)

/-- Sending leaves what the partner has freed. -/
theorem freed_drainLink (n fuel : Nat) : (d.drainLink n fuel).freed = d.freed := by
  induction fuel generalizing d with
  | zero => rfl
  | succ fuel ih =>
    unfold Dev.drainLink
    dsimp only
    split
    · rw [ih, freed_firstSend]; exact freed_modLn n fun _ => ⟨rfl, rfl⟩
    · split
      · rfl
      · rw [ih, freed_firstSend]; exact freed_modLn n fun _ => ⟨rfl, rfl⟩

/-- The device with what an LC_CREDIT record says. -/
def Dev.lcSet (d : Dev) (n : Nat) (rec : List Byte) : Dev :=
  d.modLn n fun x => { x with lcFree := field rec 4 4, lcFree2 := field rec 8 4 }

theorem link_lcSet : (d.lcSet n rec).link (d.lnHome n) =
    { d.link (d.lnHome n) with lcFree := field rec 4 4, lcFree2 := field rec 8 4 } := Dev.link_modLink_self _ _ _

theorem freed_lcCredit : ((d.lcSet n rec).drainAll n).freed (d.lnHome n) = (field rec 4 4, field rec 8 4) := by
  rw [Dev.drainAll, freed_drainLink, Dev.freed, link_lcSet]

theorem kept_lcSet : d.Kept (d.lcSet n rec) [.link (d.lnHome n)] := kept_modLn _ _

theorem keptOutside_lcCredit : d.KeptOutside ((d.lcSet n rec).drainAll n) (Place.sendOf (d.lnHome n)) :=
  (kept_lcSet.outside (by simp [Place.sendOf])).trans (keptOutside_drainAll (d := d.lcSet n rec) n)

/-- With nothing waiting nothing is sent. -/
theorem drainAll_none (h : (d.ln n).waiting = []) : d.drainAll n = d := by rw [Dev.drainAll, h]; rfl

theorem lcCredit_none (h : (d.link (d.lnHome n)).waiting = []) : (d.lcSet n rec).drainAll n = d.lcSet n rec := by
  refine drainAll_none ?_
  have home : (d.lcSet n rec).ln n = _ := link_lcSet
  rw [home]; exact h

/-! ### BOUNDARY (R314, R343) -/

theorem leNat_lt (bs : List Byte) : leNat bs < 256 ^ bs.length := by
  induction bs with
  | nil => decide
  | cons b bs ih => have := b.isLt; rw [leNat, List.length_cons, pow_succ]; omega

/-- A field of four bytes fits a register. -/
theorem field_four_lt (bs : List Byte) (off : Nat) : field bs off 4 < 2 ^ 32 :=
  (leNat_lt _).trans_le ((Nat.pow_le_pow_right (by decide) (List.length_take_le 4 _)).trans (by decide))

/-- The device once link n's home shows boundary number `v`. -/
def Dev.shows (d : Dev) (n v : Nat) : Dev := d.setReg (pgLink (d.lnHome n)) 0x15C v

theorem kept_shows (v : Nat) : d.Kept (d.shows n v) [.reg (pgLink (d.lnHome n)) 0x15C] := kept_setReg _ _ _ (by decide)

theorem lnHome_shows (v : Nat) : (d.shows n v).lnHome n = d.lnHome n :=
  lnHome_congr (lnCfg_of_kept (kept_shows v) (by simp)) n

/-- No word of a partition in the IMPR page is that register. -/
theorem impr_shows (v p : Nat) {o : Nat} (ho : o = 0 ∨ o = 0x14 ∨ o = 0x18) : (d.shows n v).impr p o = d.impr p o :=
  Dev.reg_setReg_ne _ _ (by unfold regKey pgLink pgDie pgImpr; omega)

theorem groupLink_shows (v p : Nat) : (d.shows n v).groupLink p n = d.groupLink p n := by
  unfold Dev.groupLink
  rw [impr_shows v p (.inl rfl), impr_shows v p (.inr (.inl rfl)), impr_shows v p (.inr (.inr rfl))]

/-- The partner is a boundary ahead of the partition that link n serves. -/
def Dev.ahead (d : Dev) (n v : Nat) : Bool :=
  match d.lnPart n with | some p => d.groupLink p n && serialLater 32 (d.part p).num v | none => false

theorem ahead_shows (v : Nat) : (d.shows n v).ahead n v = d.ahead n v := by
  unfold Dev.ahead
  simp only [groupLink_shows]
  rfl

theorem boundary_eq (h : d.recordStale n rec = false) : d.boundary n rec =
    let v := field rec 4 4
    if (d.shows n v).ahead n v then (d.shows n v).modLn n fun x => { x with holding := true } else d.shows n v := by
  refine (onRecord_fresh h _).trans ?_
  have shows : d.setReg (pgLink (d.lnHome n)) 0x15C (field rec 4 4) = d.shows n (field rec 4 4) := rfl
  dsimp only
  rw [shows]
  unfold Dev.ahead
  cases (d.shows n (field rec 4 4)).lnPart n with
  | none => rfl
  | some p => rfl

theorem boundary_shows (h : d.recordStale n rec = false) :
    (d.boundary n rec).reg (pgLink (d.lnHome n)) 0x15C = field rec 4 4 ∧
    (d.boundary n rec).link (d.lnHome n) =
      { d.link (d.lnHome n) with holding := (d.link (d.lnHome n)).holding || d.ahead n (field rec 4 4) } ∧
    d.Kept (d.boundary n rec) [.link (d.lnHome n), .reg (pgLink (d.lnHome n)) 0x15C] := by
  have shown : (d.shows n (field rec 4 4)).reg (pgLink (d.lnHome n)) 0x15C = field rec 4 4 :=
    (Dev.reg_setReg_self _ _ _ _).trans (Nat.mod_eq_of_lt (field_four_lt _ _))
  have link : (d.shows n (field rec 4 4)).link (d.lnHome n) = d.link (d.lnHome n) := kept_shows _ (.link _) (by simp)
  have kept := kept_shows (d := d) (n := n) (field rec 4 4)
  have home := lnHome_shows (d := d) (n := n) (field rec 4 4)
  rw [boundary_eq h]
  dsimp only
  rw [ahead_shows]
  split
  · next ha =>
    refine ⟨shown, ?_, ?_⟩
    · rw [Dev.modLn, home, Dev.link_modLink_self, link, ha, Bool.or_true]
    · have more := kept_modLn (d := d.shows n (field rec 4 4)) n fun x => { x with holding := true }
      rw [home] at more
      exact (kept.trans more).mono (by simp)
  · next ha =>
    refine ⟨shown, ?_, kept.mono (by simp)⟩
    rw [link, Bool.eq_false_of_not_eq_true ha, Bool.or_false]

/-! ### Tables, entry by entry -/

section
variable {α : Type} {dflt : α} {ts : Table α}

/-- Whether the entry under key `k` has property `p` shows in the value read there, where the value of an unlisted key has it not. -/
theorem any_entry (hn : (ts.map (·.1)).Nodup) {p : α → Bool} (h : p dflt = false) (k : Nat) :
    (ts.any fun c => c.1 == k && p c.2) = p (tget dflt ts k) := by
  induction ts with
  | nil => exact h.symm
  | cons c ts ih =>
    obtain ⟨fresh, rest⟩ := List.nodup_cons.1 hn
    rw [List.any_cons, tget]
    by_cases hk : c.1 = k
    · have others : (ts.any fun c => c.1 == k && p c.2) = false :=
        List.any_eq_false.2 fun y hy hp => fresh (List.mem_map.2 ⟨y, hy, (beq_iff_eq.1 (Bool.and_eq_true_iff.1 hp).1).trans hk.symm⟩)
      simp [hk, others]
    · simp [hk, ih rest]

theorem forall_tget {Q : α → Prop} (h : ∀ c ∈ ts, Q c.2) (hd : Q dflt) (k : Nat) : Q (tget dflt ts k) := by
  induction ts with
  | nil => exact hd
  | cons c ts ih =>
    rw [tget]
    split
    · exact h c (by simp)
    · exact ih fun y hy => h y (by simp [hy])

end

/-! ### GALLEY_CREDIT (R241, R301) -/

/-- The galley with the credit that the receiver's total grants; a RESET counts the slots sent again. -/
def Galley.granted (total : Nat) (reset : Bool) (x : Galley) : Galley :=
  let sent := if reset then 0 else x.sent
  { x with sent, credit := (total + 2 ^ 32 - sent) % 2 ^ 32 }

theorem granted_granted (total : Nat) (reset : Bool) (x : Galley) :
    (x.granted total reset).granted total reset = x.granted total reset := by
  cases reset <;> simp [Galley.granted]

/-- One galley of core i has its credit set, where it sends over the link to galley g of core k. -/
def Dev.grantGalley (n k g : Nat) (t : Galley → Galley) (i : Nat) (d : Dev) (z : Nat × Galley) : Dev :=
  if d.sendsTo n k g z.2 then d.modGalley i z.1 t else d

/-- So have those galleys of one core. -/
def Dev.grantCore (n k g : Nat) (t : Galley → Galley) (d : Dev) (y : Nat × CoreSt) : Dev :=
  y.2.galleys.foldl (Dev.grantGalley n k g t y.1) d

theorem regs_grantGalley (i : Nat) (z : Nat × Galley) : (d.grantGalley n k g t i z).regs = d.regs := by
  unfold Dev.grantGalley; split <;> rfl

theorem regs_grantCore (y : Nat × CoreSt) : (d.grantCore n k g t y).regs = d.regs :=
  foldl_unseen Dev.regs (fun _ z => regs_grantGalley y.1 z) _ d

/-- Who sends over a link follows from the registers alone. -/
theorem sendsTo_congr (h : e.regs = d.regs) (x : Galley) : e.sendsTo n k g x = d.sendsTo n k g x := by
  have cfg (i : Nat) : e.lnCfg i = d.lnCfg i := by unfold Dev.lnCfg Dev.reg; rw [h]
  unfold Dev.sendsTo
  rw [lnHome_congr cfg, lnHome_congr cfg]

theorem galley_grantGalley (a : Nat) (z : Nat × Galley) : ((d.grantGalley n k g t a z).core i).galley j =
    if (a == i && (z.1 == j && d.sendsTo n k g z.2)) = true then t ((d.core i).galley j) else (d.core i).galley j := by
  unfold Dev.grantGalley
  by_cases hs : d.sendsTo n k g z.2 = true
  · rw [if_pos hs, Dev.modGalley]
    by_cases ha : i = a
    · subst ha
      rw [Dev.core_modCore_self, galley_modGalley]
      by_cases hj : j = z.1
      · simp [hj, hs]
      · simp [hj, Ne.symm hj]
    · rw [Dev.core_modCore_ne _ _ _ ha]
      simp [Ne.symm ha]
  · simp [hs]

/-- Does the entry of core i, galley j send over the link to galley g of core k? -/
def Dev.granting (d : Dev) (n k g i j : Nat) (y : Nat × CoreSt) : Bool :=
  y.1 == i && y.2.galleys.any fun z => z.1 == j && d.sendsTo n k g z.2

theorem galley_grantCore (ht : ∀ x, t (t x) = t x) (h : e.regs = d.regs) (y : Nat × CoreSt) :
    ((e.grantCore n k g t y).core i).galley j =
      if d.granting n k g i j y = true then t ((e.core i).galley j) else (e.core i).galley j := by
  have each := foldl_view (I := fun e : Dev => e.regs = d.regs) (fun e => (e.core i).galley j) t
    (fun z => y.1 == i && (z.1 == j && d.sendsTo n k g z.2)) (fun _ z he => (regs_grantGalley y.1 z).trans he)
    (fun e z he => by rw [galley_grantGalley (t := t) (n := n) (k := k) (g := g), sendsTo_congr he]) ht y.2.galleys h
  refine each.trans ?_
  unfold Dev.granting
  cases y.1 == i with
  | true => rfl
  | false => rw [List.any_eq_false.2 fun z _ => by simp, Bool.false_and]

/-- Every galley that sends over the link to galley g of core k has its credit set, and no other. -/
theorem galley_grants (ht : ∀ x, t (t x) = t x) : ((d.cores.foldl (Dev.grantCore n k g t) d).core i).galley j =
    if (d.cores.any (d.granting n k g i j)) = true then t ((d.core i).galley j) else (d.core i).galley j :=
  foldl_view (I := fun e : Dev => e.regs = d.regs) (fun e => (e.core i).galley j) t (d.granting n k g i j)
    (fun _ y he => (regs_grantCore y).trans he) (fun _ y he => galley_grantCore ht he y) ht d.cores rfl

/-- The entry of core i, galley j is the galley read there. -/
theorem any_granting (hc : (d.cores.map (·.1)).Nodup) (hg : ∀ y ∈ d.cores, (y.2.galleys.map (·.1)).Nodup) :
    (d.cores.any (d.granting n k g i j)) = d.sendsTo n k g ((d.core i).galley j) := by
  refine (any_entry (dflt := ({} : CoreSt)) hc (p := fun q => q.galleys.any fun z => z.1 == j && d.sendsTo n k g z.2) rfl i).trans ?_
  have keys : ((d.core i).galleys.map (·.1)).Nodup :=
    forall_tget (Q := fun q : CoreSt => (q.galleys.map (·.1)).Nodup) (dflt := ({} : CoreSt)) hg List.nodup_nil i
  exact any_entry (dflt := ({} : Galley)) (p := d.sendsTo n k g) keys rfl j

/-- Some galley sends over the link to galley g of core k. -/
def Dev.placed (d : Dev) (n k g : Nat) : Bool := d.cores.any fun y => y.2.galleys.any fun z => d.sendsTo n k g z.2

theorem any_granting_of_placed (h : d.placed n k g = false) : (d.cores.any (d.granting n k g i j)) = false := by
  rw [Dev.placed, List.any_eq_false] at h
  refine List.any_eq_false.2 fun y hy hh => h y hy ?_
  obtain ⟨-, hh⟩ := Bool.and_eq_true_iff.1 hh
  obtain ⟨z, hz, hs⟩ := List.any_eq_true.1 hh
  exact List.any_eq_true.2 ⟨z, hz, (Bool.and_eq_true_iff.1 hs).2⟩

/-- The galley that a GALLEY_CREDIT record names, as core and number, its RESET, and its total. -/
def creditCore (rec : List Byte) : Nat := field rec 4 2 % 2048
def creditGalley (rec : List Byte) : Nat := field rec 6 1 % 16
def creditReset (rec : List Byte) : Bool := bit (field rec 6 1) 7
def creditTotal (rec : List Byte) : Nat := field rec 8 4

/-- The device with the credit of a placed sender set. -/
def Dev.creditSet (d : Dev) (n : Nat) (rec : List Byte) : Dev :=
  d.cores.foldl (Dev.grantCore n (creditCore rec) (creditGalley rec) (Galley.granted (creditTotal rec) (creditReset rec))) d

/-- The device with a grant that waits for its sender. -/
def Dev.creditLeft (d : Dev) (n : Nat) (rec : List Byte) : Dev :=
  d.modLn n fun x => { x with grants := tset none x.grants (creditCore rec * 16 + creditGalley rec) (some (creditTotal rec)) }

theorem galleyCredit_placed (h : d.recordStale n rec = false) (hp : d.placed n (creditCore rec) (creditGalley rec) = true) :
    d.galleyCredit n rec = d.creditSet n rec :=
  (onRecord_fresh h _).trans (if_neg (by rw [Bool.not_eq_true', Bool.not_eq_false]; exact hp))

theorem galleyCredit_unplaced (h : d.recordStale n rec = false) (hp : d.placed n (creditCore rec) (creditGalley rec) = false) :
    d.galleyCredit n rec =
      if creditReset rec || (tget none (d.ln n).grants (creditCore rec * 16 + creditGalley rec)).isSome then d.creditLeft n rec else d :=
  (onRecord_fresh h _).trans (if_pos (by rw [Bool.not_eq_true']; exact hp))

/-- The cores alone. -/
def Place.isCore : Place → Bool
  | .core _ => true
  | _ => false

theorem kept_grantGalley (z : Nat × Galley) : d.KeptOutside (d.grantGalley n k g t i z) Place.isCore := by
  unfold Dev.grantGalley
  split
  · exact (kept_modGalley _).outside (by simp [Place.isCore])
  · exact .refl d

theorem kept_grantCore (y : Nat × CoreSt) : d.KeptOutside (d.grantCore n k g t y) Place.isCore :=
  keptOutside_foldl (Dev.grantGalley n k g t y.1) (fun _ z => kept_grantGalley z) _ d

theorem kept_creditSet : d.KeptOutside (d.creditSet n rec) Place.isCore :=
  keptOutside_foldl (Dev.grantCore n _ _ _) (fun _ y => kept_grantCore y) _ d

theorem kept_creditLeft : d.Kept (d.creditLeft n rec) [.link (d.lnHome n)] := kept_modLn _ _

/-- What a GALLEY_CREDIT record sets stays within the cores, where a sender is placed. -/
theorem kept_galleyCredit_placed (h : d.recordStale n rec = false)
    (hp : d.placed n (creditCore rec) (creditGalley rec) = true) : d.KeptOutside (d.galleyCredit n rec) Place.isCore := by
  rw [galleyCredit_placed h hp]; exact kept_creditSet

/-- Where none is placed, it stays within the link. -/
theorem kept_galleyCredit_unplaced (h : d.recordStale n rec = false)
    (hp : d.placed n (creditCore rec) (creditGalley rec) = false) : d.Kept (d.galleyCredit n rec) [.link (d.lnHome n)] := by
  rw [galleyCredit_unplaced h hp]
  exact kept_ite (fun _ => kept_creditLeft) fun _ => .refl d

theorem galley_galleyCredit (h : d.recordStale n rec = false) (hc : (d.cores.map (·.1)).Nodup)
    (hg : ∀ y ∈ d.cores, (y.2.galleys.map (·.1)).Nodup) : ((d.galleyCredit n rec).core i).galley j =
      if d.sendsTo n (creditCore rec) (creditGalley rec) ((d.core i).galley j) = true
      then ((d.core i).galley j).granted (creditTotal rec) (creditReset rec) else (d.core i).galley j := by
  rw [← any_granting hc hg]
  cases hp : d.placed n (creditCore rec) (creditGalley rec) with
  | true =>
    rw [galleyCredit_placed h hp]
    exact galley_grants (granted_granted _ _)
  | false =>
    rw [any_granting_of_placed hp, if_neg (by decide)]
    exact congrArg (CoreSt.galley · j) (kept_galleyCredit_unplaced h hp (.core i) (by simp))

theorem sendsTo_iff : d.sendsTo n k g x = true ↔ x.sink = 2 ∧ x.destCore = k ∧ x.destGalley = g ∧ d.lnHome x.destLink = d.lnHome n := by
  simp [Dev.sendsTo, and_assoc]

theorem link_galleyCredit (h : d.recordStale n rec = false) : (d.galleyCredit n rec).link (d.lnHome n) =
    if d.placed n (creditCore rec) (creditGalley rec) = false ∧ (creditReset rec = true ∨
        tget none (d.link (d.lnHome n)).grants (creditCore rec * 16 + creditGalley rec) ≠ none) then
      { d.link (d.lnHome n) with
        grants := tset none (d.link (d.lnHome n)).grants (creditCore rec * 16 + creditGalley rec) (some (creditTotal rec)) }
    else d.link (d.lnHome n) := by
  cases hp : d.placed n (creditCore rec) (creditGalley rec) with
  | true => rw [if_neg (by simp)]; exact kept_galleyCredit_placed h hp (.link _) rfl
  | false =>
    rw [galleyCredit_unplaced h hp]
    have known : (creditReset rec || (tget none (d.ln n).grants (creditCore rec * 16 + creditGalley rec)).isSome) = true ↔
        creditReset rec = true ∨ tget none (d.link (d.lnHome n)).grants (creditCore rec * 16 + creditGalley rec) ≠ none := by
      rw [Bool.or_eq_true, Option.isSome_iff_ne_none]; rfl
    split
    · next hk => rw [if_pos ⟨rfl, known.1 hk⟩]; exact Dev.link_modLink_self _ _ _
    · next hk => rw [if_neg fun hn => hk (known.2 hn.2)]

/-- Settles O31: a record of a past epoch is counted alone; of one that is not past, each of the three sets what it names. -/
theorem linkRecords : Obligations.LinkRecords := by
  intro s n rec h hn d home x
  have ok : decide (n < 36) = true := decide_eq_true hn
  refine ⟨fun hs c hc => ?_, fun hs => ?_, fun hs => ?_, fun hs hcores hgalleys => ?_⟩
  · simp only [List.mem_cons, List.not_mem_nil, or_false] at hc
    obtain (rfl | rfl | rfl | rfl | rfl | rfl | rfl) | ⟨hx, rfl | rfl⟩ := hc
    · exact stale_counted (runIf_live h ok fun d => d.lcCredit n rec) hs
    · exact stale_counted (runIf_live h ok fun d => d.galleyCredit n rec) hs
    · exact stale_counted (runIf_live h ok fun d => d.galleyAbort n rec) hs
    · exact stale_counted (runIf_live h ok fun d => d.boundary n rec) hs
    · exact stale_counted (runIf_live h ok fun d => d.tickRecord n rec) hs
    · have run : exec (.collStart n rec) s = _ := runIf_live h (decide_eq_true (by omega)) fun d => d.collStartRec n rec
      rw [Dev.collStartRec, if_neg (by omega)] at run
      exact stale_counted run hs
    · have run : exec (.collWave n rec) s = _ := runIf_live h (decide_eq_true (by omega)) fun d => d.collWaveRec n rec
      rw [Dev.collWaveRec, if_neg (by omega)] at run
      exact stale_counted run hs
    · have run : exec (.tsyncReq n rec) s = _ := runIf_live h ok fun d => d.tsyncReq n rec
      obtain ⟨f, hf⟩ := tsyncReq_onRecord (rec := rec) hx
      rw [hf] at run
      exact stale_counted run hs
    · have run : exec (.tsyncResp n rec) s = _ := runIf_live h ok fun d => d.tsyncResp n rec
      obtain ⟨f, hf⟩ := tsyncResp_onRecord (rec := rec) hx
      rw [hf] at run
      exact stale_counted run hs
  · have run : exec (.lcCredit n rec) s = _ := runIf_live h ok fun d => d.lcCredit n rec
    rw [show d.lcCredit n rec = (d.lcSet n rec).drainAll n from onRecord_fresh hs _] at run
    obtain ⟨free, free2⟩ := Prod.mk.injEq .. ▸ freed_lcCredit (d := d) (n := n) (rec := rec)
    refine ⟨_, run, free, free2, keptOutside_lcCredit, fun hw => ?_⟩
    rw [lcCredit_none hw]
    exact ⟨link_lcSet, kept_lcSet⟩
  · have run : exec (.boundary n rec) s = _ := runIf_live h ok fun d => d.boundary n rec
    obtain ⟨reg, link, kept⟩ := boundary_shows hs
    exact ⟨_, run, reg, link, kept⟩
  · have run : exec (.galleyCredit n rec) s = _ := runIf_live h ok fun d => d.galleyCredit n rec
    refine ⟨_, run, fun i j => ?_, link_galleyCredit hs, ?_⟩
    · exact (galley_galleyCredit hs hcores hgalleys).trans (if_congr sendsTo_iff rfl rfl)
    · cases hp : d.placed n (creditCore rec) (creditGalley rec) with
      | true => exact (kept_galleyCredit_placed hs hp).mono fun p hp => by cases p <;> simp_all [Place.isCore]
      | false => exact (kept_galleyCredit_unplaced hs hp).outside (by simp [home])

end Sys2Proof.Machine
end

section
/-!
PROOF. DMA.COPY, DMA.TCOPY and PLATEN.SUBMIT issue (R262, R266, R272, R275): the command starts at once, and enters the queue of its
engine or its Platen.
-/
namespace Sys2Proof.Machine

variable {s : State} {d : Dev} {k l : Nat} {x : ListSt} {raw : List Byte} {c : Cmd}

/-! ### A command that starts as it issues -/

theorem CoreSt.Has.flying {q : CoreSt} {n : Nat} {p : Cmd → Prop} (h : q.Has n p) : (q.cmd? n).isSome = true := by
  obtain ⟨y, hy, hn, -⟩ := h
  rw [Option.isSome_iff_ne_none, Ne, cmd?_eq_none_iff, not_not]
  exact hn ▸ List.mem_map_of_mem hy

/-- The command is in flight, and has started. -/
theorem started_galleyIssued (i : Nat) (hl : c.list = l) (hi : c.idx = i) :
    ((d.galleyIssued k l i c).core k).Has c.seq (·.started = true) := by
  rw [Dev.galleyIssued, Dev.galleyStarted, Dev.core_modCore_self]
  refine has_modCmd_self (g := fun y => y.startedAt _) (fun _ => rfl) (fun _ => rfl) ?_
  rw [afterIssue_core i c hl hi]
  exact CoreSt.Has.flying (p := fun _ => True) ⟨c, by simp [CoreSt.issuedWith, CoreSt.modList], rfl, trivial⟩

/-! ### DMA commands -/

/-- The engine that a DMA command of core k names. -/
def Cmd.engineOf (c : Cmd) (k : Nat) : Nat := dmaIdx (coreDie k) (DmaB.parse c.desc).engine

/-- The device with a DMA command of core k in the queue of its engine. -/
def Dev.dmaQueued (d : Dev) (k : Nat) (c : Cmd) : Dev :=
  let e := d.modDma (c.engineOf k) fun x => { x with queue := x.queue ++ [⟨k, c.seq, c.list, c.desc, dBg c.desc⟩] }
  e.raiseIf ((e.dma (c.engineOf k)).accepted == 64) (pgDma (coreDie k) (DmaB.parse c.desc).engine) 2

/-- What becomes of a DMA command that has started: with no data to move it is done; else it is queued, and with BG it is done, or
retires unless it drains. -/
def Dev.dmaTaken (d : Dev) (k : Nat) (c : Cmd) : Dev :=
  if (DmaB.parse c.desc).empty then d.endCmd k c.seq none
  else if !dBg c.desc then d.dmaQueued k c
  else if (DmaB.parse c.desc).drain then (d.dmaQueued k c).endCmd k c.seq none
  else (d.dmaQueued k c).retire k c

theorem dma_dmaQueued : (d.dmaQueued k c).dma (c.engineOf k) =
    { d.dma (c.engineOf k) with
      queue := (d.dma (c.engineOf k)).queue ++ [⟨k, c.seq, c.list, c.desc, dBg c.desc⟩] } := by
  rw [Dev.dmaQueued, Dev.dma_raiseIf, Dev.dma_modDma_self]

theorem core_dmaQueued (j : Nat) : (d.dmaQueued k c).core j = d.core j := Dev.core_raiseIf _ _ _ _ _

/-- What a DMA command that issues may touch: what its retirement may, its engine, and the header of the engine's page. -/
def Place.dmaIssueOf (k : Nat) (c : Cmd) (p : Place) : Bool :=
  p.retireOf k || p == .dma (c.engineOf k) || p == .hdr (pgDma (coreDie k) (DmaB.parse c.desc).engine)

theorem dmaIssueOf_of_retireOf (p : Place) (h : p.retireOf k = true) : p.dmaIssueOf k c = true := by simp [Place.dmaIssueOf, h]

theorem keptOutside_dmaQueued : d.KeptOutside (d.dmaQueued k c) (Place.dmaIssueOf k c) :=
  ((kept_modDma _ _).outside (by simp [Place.dmaIssueOf])).trans ((kept_raiseIf _ _ _).outside (by simp [Place.dmaIssueOf]))

theorem retireOf_endCmd_none (n : Nat) : d.KeptOutside (d.endCmd k n none) (Place.retireOf k) := retireOf_modCore _

theorem dma_retire (i : Nat) : (d.retire k c).dma i = d.dma i := keptOutside_retire (.dma i) rfl

theorem dma_dmaTaken : (d.dmaTaken k c).dma (c.engineOf k) =
    if (DmaB.parse c.desc).empty then d.dma (c.engineOf k) else { d.dma (c.engineOf k) with
      queue := (d.dma (c.engineOf k)).queue ++ [⟨k, c.seq, c.list, c.desc, dBg c.desc⟩] } := by
  unfold Dev.dmaTaken
  split
  · rfl
  · rw [← dma_dmaQueued]
    split
    · rfl
    · split
      · rfl
      · exact dma_retire _

theorem core_dmaTaken (he : c.err = none) : (d.dmaTaken k c).core k =
    if (DmaB.parse c.desc).empty then (d.core k).modCmd c.seq (Cmd.ended none)
    else if !dBg c.desc then d.core k
    else if (DmaB.parse c.desc).drain then (d.core k).modCmd c.seq (Cmd.ended none)
    else (d.core k).without c.seq := by
  unfold Dev.dmaTaken
  simp only [apply_ite (Dev.core · k), core_endCmd, core_dmaQueued, retire_of_no_error he, core_retireClean]

theorem keptOutside_dmaTaken : d.KeptOutside (d.dmaTaken k c) (Place.dmaIssueOf k c) := by
  unfold Dev.dmaTaken
  split
  · exact (retireOf_endCmd_none _).mono dmaIssueOf_of_retireOf
  · split
    · exact keptOutside_dmaQueued
    · split
      · exact keptOutside_dmaQueued.trans ((retireOf_endCmd_none _).mono dmaIssueOf_of_retireOf)
      · exact keptOutside_dmaQueued.trans (keptOutside_retire.mono dmaIssueOf_of_retireOf)

/-- A DMA command keeps its core's numbering and cursor; it stays in flight unless it retires in the background. -/
theorem dmaTaken_shows (he : c.err = none) :
    ((d.dmaTaken k c).core k).seqNext = (d.core k).seqNext ∧
    ((d.dmaTaken k c).core k).list l = (d.core k).list l ∧
    ((DmaB.parse c.desc).empty = false → dBg c.desc = true → (DmaB.parse c.desc).drain = false →
      ((d.dmaTaken k c).core k).cmd? c.seq = none ∧ ((d.dmaTaken k c).core k).seqRetired = c.seq) ∧
    ((DmaB.parse c.desc).empty = true ∨ dBg c.desc = false ∨ (DmaB.parse c.desc).drain = true →
      (d.core k).Has c.seq (·.started = true) → ((d.dmaTaken k c).core k).Has c.seq (·.started = true)) := by
  have ends (h : (d.core k).Has c.seq (·.started = true)) :
      ((d.core k).modCmd c.seq (Cmd.ended none)).Has c.seq (·.started = true) :=
    has_modCmd (g := Cmd.ended none) (fun _ => rfl) (fun _ h => h) _ _ h
  rw [core_dmaTaken he]
  split_ifs with h0 h1 h2
  · exact ⟨rfl, rfl, fun h => absurd h0 (by simp [h]), fun _ => ends⟩
  · exact ⟨rfl, rfl, fun _ h => absurd h1 (by simp [h]), fun _ => id⟩
  · exact ⟨rfl, rfl, fun _ _ h => absurd h2 (by simp [h]), fun _ => ends⟩
  · exact ⟨rfl, rfl, fun _ _ _ => ⟨cmd?_without _ _, rfl⟩, fun h => by simp_all⟩

/-- Settles O5: the command starts as it issues, and what becomes of it then is its four ways through the engine's queue. -/
theorem dmaIssue : Obligations.DmaIssue := by
  intro s k l x raw c fits hc h hf hx
  have run : exec c s = .next (s.withDev (((s.dev.galleyIssued k l x.cursor (s.dev.issueCmd k l x raw)).dmaTaken k
      (s.dev.issueCmd k l x raw)).ordersOf k)) := by
    have arm : exec c s = s.run fun c => c.onCore k fun d => d.dmaIssue k fits := by
      simp only [List.mem_cons, Prod.mk.injEq, List.not_mem_nil, or_false] at hc
      rcases hc with ⟨rfl, rfl⟩ | ⟨rfl, rfl⟩ | ⟨rfl, rfl⟩ <;> rfl
    exact arm.trans (run_issue (fun raw => fits raw || opIn [] raw) (fun d c => d.dmaAccept k c) h (by simp [hf]) hx)
  have list : (s.dev.issueCmd k l x raw).list = l := mkCmd_list ..
  have idx : (s.dev.issueCmd k l x raw).idx = x.cursor := mkCmd_idx ..
  have err : (s.dev.issueCmd k l x raw).err = none := mkCmd_err ..
  generalize s.dev.issueCmd k l x raw = cmd at *
  intro cmd b i bg
  have kept : s.dev.Kept (s.dev.galleyIssued k l x.cursor cmd) [.core k] := kept_galleyIssued _
  have started := started_galleyIssued (d := s.dev) (k := k) x.cursor list idx
  obtain ⟨-, next, cursor⟩ := core_galleyIssued (d := s.dev) (k := k) list idx
  have dma : (s.dev.galleyIssued k l x.cursor cmd).dma i = s.dev.dma i := kept (.dma i) (by simp)
  generalize s.dev.galleyIssued k l x.cursor cmd = a at *
  have queue := dma_dmaTaken (d := a) (k := k) (c := cmd)
  obtain ⟨next', list', retires, stays⟩ := dmaTaken_shows (d := a) (k := k) (l := l) err
  have orders : ((a.dmaTaken k cmd).ordersOf k).dma i = (a.dmaTaken k cmd).dma i := ordersOf_same (x := .dma i) k (by simp)
  refine ⟨_, run, ?_, ?_, fun h0 => ?_, fun h0 => ?_, fun h0 h1 h2 => ?_, fun h0 => ?_, ?_⟩
  · rw [core_ordersOf, next', next]
  · rw [core_ordersOf, list', cursor]
  · rw [orders, ← dma, ← list]
    exact queue.trans (if_neg (by simpa using h0))
  · rw [orders, ← dma]
    exact queue.trans (if_pos h0)
  · rw [core_ordersOf]
    exact retires h0 h1 h2
  · rw [core_ordersOf]
    exact stays h0 started
  · exact (kept.outside (by simp [Place.retireOf])).trans (keptOutside_dmaTaken.trans
      ((kept_ordersOf k).outside (by simp [Place.dmaIssueOf, Place.retireOf])))

/-! ### Submits -/

/-- The device with a submit of core k in the queue of its Platen. -/
def Dev.platenQueued (d : Dev) (k : Nat) (c : Cmd) : Dev :=
  d.modPlaten c.stack fun x => { x with queue := x.queue ++ [⟨k, c.seq, c.desc⟩] }

/-- A PLATEN.SUBMIT that issues starts; a DRAIN is then done, and any other is queued and retires. -/
theorem platenIssue_issues {fits : PltB → Bool} (h : s.Accepts k l x raw) (hx : x.cursor < x.last) (hop : dOp raw = 0x40)
    (hf : fits (PltB.parse raw) = true) (hc : s.dev.issueCmd k l x raw = c) :
    (s.run fun c => c.onCore k fun d => d.platenIssue k fits) = .next (s.withDev
      ((if (PltB.parse c.desc).drain then (s.dev.galleyIssued k l x.cursor c).endCmd k c.seq none
        else ((s.dev.galleyIssued k l x.cursor c).platenQueued k c).retire k c).ordersOf k)) := by
  rw [← hc]
  exact run_issue (fun raw => (dOp raw == 0x40 && fits (PltB.parse raw)) || opIn [] raw) (fun d c =>
    if (PltB.parse c.desc).drain then (d.galleyStarted k c).endCmd k c.seq none
    else ((d.galleyStarted k c).platenQueued k c).retire k c) h (by simp [hop, hf]) hx

theorem platen_retire (i : Nat) : (d.retire k c).platen i = d.platen i := keptOutside_retire (.platen i) rfl

/-- Settles O7: a submit goes behind the others of its Platen before it retires; a DRAIN has done its work as it issues. -/
theorem platenIssue : Obligations.PlatenIssue := by
  intro s k l x raw h hx hop
  have issues (fits : PltB → Bool) (hf : fits (PltB.parse raw) = true) := platenIssue_issues (fits := fits) h hx hop hf rfl
  have list : (s.dev.issueCmd k l x raw).list = l := mkCmd_list ..
  have idx : (s.dev.issueCmd k l x raw).idx = x.cursor := mkCmd_idx ..
  generalize s.dev.issueCmd k l x raw = cmd at *
  intro cmd b st
  have kept : s.dev.Kept (s.dev.galleyIssued k l x.cursor cmd) [.core k] := kept_galleyIssued _
  have started := started_galleyIssued (d := s.dev) (k := k) x.cursor list idx
  obtain ⟨-, next, -⟩ := core_galleyIssued (d := s.dev) (k := k) list idx
  have platen : (s.dev.galleyIssued k l x.cursor cmd).platen st = s.dev.platen st := kept (.platen st) (by simp)
  generalize s.dev.galleyIssued k l x.cursor cmd = a at *
  refine ⟨fun c hc hraw hdrain => ?_, fun hraw hdrain => ?_⟩
  · rw [if_neg (by simpa using hdrain)] at issues
    have run : exec c s = .next (s.withDev (((a.platenQueued k cmd).retire k cmd).ordersOf k)) := by
      simp only [List.mem_cons, Prod.mk.injEq, List.not_mem_nil, or_false] at hc
      rcases hc with ⟨rfl, hp⟩ | ⟨rfl, hp⟩ | ⟨rfl, hp⟩
      · exact issues (fun b => !b.drain && (b.phase == 0 || b.phase == 3))
          (show (!b.drain && (b.phase == 0 || b.phase == 3)) = true by rw [hraw, hp]; rfl)
      · exact issues (fun b => !b.drain && b.phase == 1) (show (!b.drain && b.phase == 1) = true by rw [hraw, hp]; rfl)
      · exact issues (fun b => !b.drain && b.phase == 2) (show (!b.drain && b.phase == 2) = true by rw [hraw, hp]; rfl)
    obtain ⟨hn, hr, hq, -, hk⟩ := retire_shows (a.platenQueued k cmd) k cmd
    refine ⟨_, run, ?_, hn.trans next, hr, hq, (kept.outside (by simp [Place.retireOf])).trans
      (Dev.KeptOutside.trans ((kept_modPlaten _ _).outside (by simp [st, Cmd.stack])) (hk.mono fun p hp => by simp [hp]))⟩
    rw [show Dev.platen _ st = _ from ordersOf_same (x := .platen st) k (by simp), platen_retire, ← platen]
    exact Dev.platen_modPlaten_self _ _ _
  · rw [if_pos hdrain] at issues
    refine ⟨_, issues (·.drain) hraw, ?_, ?_, (kept.seq (kept_modCore _ _)).trans (kept_ordersOf k)⟩ <;>
      rw [core_ordersOf, core_endCmd]
    · exact next
    · exact has_modCmd_self (g := Cmd.ended none) (p := Cmd.Done) (fun _ => rfl) (fun _ => rfl) started.flying

end Sys2Proof.Machine
end

section
/-!
PROOF. A DMA transfer's end (R262–R269), refuted: a copy of no bytes stores nothing, and a store of no bytes may rearrange memory.
-/
namespace Sys2Proof.Machine

/-! ### A copy of no bytes -/

/-- A DMA.COPY of one row of no bytes, to address 1. -/
def emptyCopy : DmaJob where
  desc := List.replicate 0x18 0#8 ++ 1#8 :: List.replicate 11 0#8 ++ 1#8 :: List.replicate 27 0#8
  bg := true

/-- A device whose engine 0 runs that copy, and whose memory lists address 1 before address 0: out of its canonical form. -/
def emptyCopyRuns : Dev where
  mem := [(1, 1#8), (0, 1#8)]
  dmas := [(0, { running := some emptyCopy })]

/-- The module in READY with that device. -/
def emptyCopyState : State where
  chip := { dev := emptyCopyRuns, pow := { mode := .ready, stage := 3, hubRails := true, dieRails := true } }

theorem parse_emptyCopy : DmaB.parse emptyCopy.desc = { dst := 1, rows := 1 } := by decide

/-- With no bytes to write, no row is copied. -/
theorem mem_dmaDone_emptyCopy : (emptyCopyRuns.dmaDone 0 0).mem = [(1, 1#8), (0, 1#8)] := by decide

/-- A write of no bytes puts what lies below its address before what lies at it. -/
theorem mem_write_nothing : (emptyCopyRuns.write 1 []).mem = [(0, 1#8), (1, 1#8)] := by decide

/-- Refutes O12: the transfer's end leaves memory as it was, and the statement's write of no bytes at address 1 does not. -/
theorem not_dmaTransfer : ¬ Obligations.DmaTransfer := by
  intro h
  obtain ⟨-, done⟩ := h emptyCopyState 0 0 emptyCopy rfl (by decide) (by decide) rfl rfl
  obtain ⟨e, run, -, -, copies⟩ := done rfl
  obtain ⟨copied, -⟩ := copies (by decide) rfl (by decide) (by decide)
  have ends : exec (.dmaTransferDone 0 0) emptyCopyState = .next (emptyCopyState.withDev (emptyCopyRuns.dmaDone 0 0)) :=
    runIf_live (s := emptyCopyState) rfl (by decide) (·.dmaDone 0 0)
  have dev : e = emptyCopyRuns.dmaDone 0 0 := congrArg State.dev (Host.Outcome.next.inj (run.symm.trans ends))
  rw [dev, mem_dmaDone_emptyCopy, parse_emptyCopy] at copied
  exact absurd (copied.trans mem_write_nothing) (by decide)

end Sys2Proof.Machine
end

section
/-!
PROOF. Platen updates (R274–R281): what a tile of a submit changes, and how a submit starts and ends.
-/
namespace Sys2Proof.Machine

variable {s : State} {d e f : Dev} {st n : Nat} {b : PltB} {c : PltK} {j : PlatenJob}

/-! ### One pair of tiles -/

/-- What storing a pair of tiles touches: memory, and the event and the count of values that became NaN or infinite. -/
def Place.tileOf (st : Nat) : Place → Bool
  | .mem | .cow _ => true
  | .hdr g => g == pgPlaten st
  | .reg g o => g == pgPlaten st && o == 0x11C
  | _ => false

/-- The valid elements of a pair of tiles, and those of its moments that were clipped, are counted. -/
abbrev Dev.platenCount (d : Dev) (st elems clip : Nat) : Dev :=
  (d.bump64 (pgPlaten st) 0x110 elems).bump (pgPlaten st) 0x120 clip

theorem tileOf_write (a : Nat) (bs : List Byte) : d.KeptOutside (d.write a bs) (Place.tileOf st) :=
  (kept_write _ _).outside (by simp [Place.tileOf])

theorem tileOf_momWrite (a : Nat) (ps : List (Nat × List Byte)) : d.KeptOutside (d.momWrite a ps) (Place.tileOf st) :=
  keptOutside_foldl _ (fun _ _ => tileOf_write _ _) _ _

theorem tileOf_made (made : Nat) :
    d.KeptOutside ((d.bump (pgPlaten st) 0x11C made).raiseIf (made != 0) (pgPlaten st) 1) (Place.tileOf st) :=
  ((kept_bump _ _ _ (by decide)).outside (by simp [Place.tileOf])).trans ((kept_raiseIf _ _ _).outside (by simp [Place.tileOf]))

/-- What a pair of tiles yields, where it yields anything, satisfies `P`. -/
def Yields (P : Dev × PltSums → Prop) : Except (Option Nat) (Dev × PltSums) → Prop
  | .error _ => True
  | .ok x => P x

section
variable {P : Dev × PltSums → Prop} {r r' : Except (Option Nat) (Dev × PltSums)}

theorem yields_ite {p : Prop} [Decidable p] (h : Yields P r) (h' : Yields P r') : Yields P (if p then r else r') := by
  split
  · exact h
  · exact h'

/-- A bad unit yields nothing. -/
theorem yields_unless {o : Option Nat} (h : Yields P r) : Yields P (match o with | some u => .error (some u) | none => r) := by
  cases o with
  | none => exact h
  | some u => trivial
end

/-- The device comes of storing a pair of tiles and then counting its elements. -/
def Dev.Paired (d : Dev) (st elems : Nat) (x : Dev × PltSums) : Prop :=
  ∃ e clip, d.KeptOutside e (Place.tileOf st) ∧ x.1 = e.platenCount st elems clip

theorem yields_counted {elems clip : Nat} {sums : PltSums} (h : d.KeptOutside e (Place.tileOf st)) :
    Yields (d.Paired st elems) (.ok (e.platenCount st elems clip, sums)) := ⟨e, clip, h, rfl⟩

/-- A pair of tiles that is updated is stored, and then counted. -/
theorem yields_platenTile (sums : PltSums) : Yields (d.Paired st
    ((d.hdrAt (b.p + n * b.pStride)).rows * (d.hdrAt (b.p + n * b.pStride)).cols)) (d.platenTile st b c n sums) := by
  unfold Dev.platenTile
  dsimp only
  refine yields_unless (yields_ite trivial (yields_unless (yields_ite (yields_counted ?_)
    (yields_ite (yields_counted ?_) (yields_counted ?_)))))
  · exact (keptOutside_foldl _ (fun _ _ => tileOf_write _ _) _ _).trans (tileOf_made _)
  · exact (tileOf_momWrite _ _).trans (tileOf_momWrite _ _)
  · exact ((keptOutside_foldl _ (fun _ _ => tileOf_write _ _) _ _).trans (tileOf_made _)).trans
      ((tileOf_momWrite _ _).trans (tileOf_momWrite _ _))

section
variable {r r' : Except (Option Nat) (Dev × PltSums)}

theorem ok_ite {p : Prop} [Decidable p] (h : p → ∃ x, r = .ok x) (h' : ¬p → ∃ x, r' = .ok x) :
    ∃ x, (if p then r else r') = .ok x := by
  split
  · exact h ‹_›
  · exact h' ‹_›

/-- Ranges that all read well stop nothing. -/
theorem ok_reads {xs : List (Nat × Nat)} (hx : ∀ y ∈ xs, d.firstBad y.1 y.2 = none) (h : ∃ x, r = .ok x) :
    ∃ x, (match xs.findSome? fun y => d.firstBad y.1 y.2 with | some u => Except.error (some u) | none => r) = .ok x := by
  rw [List.findSome?_eq_none_iff.2 hx]; exact h
end

/-- A pair that reads well and fits is updated. -/
theorem platenTile_ready (h : d.PairReady b c.kind n) (sums : PltSums) : ∃ x, d.platenTile st b c n sums = .ok x := by
  obtain ⟨-, fits, reads⟩ := h
  simp only [List.mem_append, List.mem_cons, List.not_mem_nil, or_false] at reads
  unfold Dev.platenTile
  dsimp only
  refine ok_reads (fun y hy => reads y ?_) (ok_ite (fun hn => absurd fits (by simpa using hn)) fun _ =>
    ok_reads (fun y hy => reads y ?_) (ok_ite (fun _ => ⟨_, rfl⟩) fun _ => ok_ite (fun _ => ⟨_, rfl⟩) fun _ => ⟨_, rfl⟩))
  · simp only [List.mem_cons, List.not_mem_nil, or_false] at hy
    tauto
  · simp only [List.mem_append, List.mem_cons, List.not_mem_nil, or_false, List.mem_ite_nil_right] at hy
    tauto

/-! ### The tiles of a submit -/

/-- What updating a pair of tiles touches: every register of its Platen's page but the count of submits. -/
def Place.pairOf (st : Nat) : Place → Bool
  | .mem | .cow _ => true
  | .hdr g => g == pgPlaten st
  | .reg g o => g == pgPlaten st && o != 0x118
  | _ => false

theorem pairOf_of_tileOf (p : Place) (h : p.tileOf st = true) : p.pairOf st = true := by
  cases p <;> simp_all [Place.tileOf, Place.pairOf]

theorem pairOf_platenCount (elems clip : Nat) : d.KeptOutside (d.platenCount st elems clip) (Place.pairOf st) :=
  ((kept_bump64 _ _ _ (by decide)).outside (by simp [Place.pairOf])).trans
    ((kept_bump _ _ _ (by decide)).outside (by simp [Place.pairOf]))

theorem platenTile_paired {sums : PltSums} {x : Dev × PltSums} (h : d.platenTile st b c n sums = .ok x) :
    d.Paired st ((d.hdrAt (b.p + n * b.pStride)).rows * (d.hdrAt (b.p + n * b.pStride)).cols) x := by
  have y := yields_platenTile (d := d) (st := st) (b := b) (c := c) (n := n) sums
  rwa [h] at y

theorem Dev.Paired.outside {elems : Nat} {x : Dev × PltSums} (h : d.Paired st elems x) : d.KeptOutside x.1 (Place.pairOf st) := by
  obtain ⟨e, clip, kept, hx⟩ := h
  rw [hx]
  exact (kept.mono pairOf_of_tileOf).trans (pairOf_platenCount _ _)

theorem reports_noteDdr (u core seq : Nat) : d.Reports (d.noteDdr u core seq) := by
  unfold Dev.noteDdr
  split
  · exact .rfl'
  · exact (((reports_bump _ _ _).trans (reports_setReg64 _ _ _)).trans (reports_raise _ _)).trans (reports_setError _ _ _ _)

theorem reports_noteAny (u core seq : Nat) : d.Reports (d.noteAny u core seq) := by
  unfold Dev.noteAny
  split
  · exact reports_noteDdr _ _ _
  · exact reports_noteUncorr _

/-- The tiles of a submit are updated to the last, or as far as one that fails, of which a bad unit is counted. -/
theorem platenTiles_cases (fuel n : Nat) (sums : PltSums) : ∃ e, d.KeptOutside e (Place.pairOf st) ∧
    let r := d.platenTiles st j b c fuel n sums
    (r.2.2 = none ∧ r.1 = e ∨ (∃ x, r.2.2 = some x) ∧ e.Reports r.1) := by
  induction fuel generalizing d n sums with
  | zero => exact ⟨d, .refl d, .inl ⟨rfl, rfl⟩⟩
  | succ fuel ih =>
    unfold Dev.platenTiles
    dsimp only
    split
    · exact ⟨d, .refl d, .inr ⟨⟨_, rfl⟩, .rfl'⟩⟩
    · split
      · exact ⟨d, .refl d, .inr ⟨⟨_, rfl⟩, reports_noteAny _ _ _⟩⟩
      · exact ⟨d, .refl d, .inr ⟨⟨_, rfl⟩, .rfl'⟩⟩
      · next e sums' he =>
        obtain ⟨f, kept, hf⟩ := ih (d := e) (n + 1) sums'
        exact ⟨f, (platenTile_paired he).outside.trans kept, hf⟩

theorem platenTiles_clean {fuel n : Nat} {sums : PltSums} (h : (d.platenTiles st j b c fuel n sums).2.2 = none) :
    d.KeptOutside (d.platenTiles st j b c fuel n sums).1 (Place.pairOf st) := by
  obtain ⟨e, kept, ⟨-, he⟩ | ⟨⟨x, hx⟩, -⟩⟩ := platenTiles_cases (d := d) (st := st) (j := j) (b := b) (c := c) fuel n sums
  · rw [he]; exact kept
  · rw [h] at hx; cases hx

/-- Cores, Platens and engines stand as they did, whether or not the tiles pass. -/
theorem platenTiles_same (fuel n : Nat) (sums : PltSums) (m : Nat) :
    (d.platenTiles st j b c fuel n sums).1.core m = d.core m ∧
    (d.platenTiles st j b c fuel n sums).1.platen m = d.platen m ∧
    (d.platenTiles st j b c fuel n sums).1.dma m = d.dma m := by
  obtain ⟨e, kept, h⟩ := platenTiles_cases (d := d) (st := st) (j := j) (b := b) (c := c) fuel n sums
  have reports : e.Reports (d.platenTiles st j b c fuel n sums).1 := h.elim (fun h => h.2 ▸ .rfl') (·.2)
  exact ⟨(reports.core m).trans (kept (.core m) rfl), (reports.platen m).trans (kept (.platen m) rfl),
    (reports.dma m).trans (kept (.dma m) rfl)⟩

theorem pgPlaten_ne_pgRailjor : pgPlaten st ≠ pgRailjor := by simp only [pgPlaten, pgDie, pgRailjor]; omega
theorem pgPlaten_ne_pgDbg : pgPlaten st ≠ pgDbg := by simp only [pgPlaten, pgDie, pgDbg]; omega

theorem submits_pairOf (h : d.KeptOutside e (Place.pairOf st)) : e.reg (pgPlaten st) 0x118 = d.reg (pgPlaten st) 0x118 :=
  h (.reg _ _) (by simp [Place.pairOf]) (by decide) fun hn => pgPlaten_ne_pgRailjor hn.1

/-! ### The end of a submit -/

/-- The Platen with submit j no longer running, and noted as failed where it did. -/
def PlatenSt.rests (y : PlatenSt) (j : PlatenJob) (failed : Bool) : PlatenSt :=
  { y with running := none, next := 0, sp := 0#64, sq := 0#64, failed := if failed then (j.core, j.seq) :: y.failed else y.failed }

theorem platen_platenEnd (x : Option ErrRec) : (d.platenEnd st j x).platen st = (d.platen st).rests j x.isSome := by
  cases x <;> simp [Dev.platenEnd, PlatenSt.rests]

theorem platenEnd_same (x : Option ErrRec) (m : Nat) : (d.platenEnd st j x).core m = d.core m ∧
    (m ≠ st → (d.platenEnd st j x).platen m = d.platen m) ∧ (d.platenEnd st j x).dma m = d.dma m := by
  refine ⟨?_, fun hm => ?_, ?_⟩ <;> cases x <;> simp [Dev.platenEnd, Dev.platen_modPlaten_ne, *]

theorem errCode_raised (h : Hdr) (n : Nat) : (h.raised n).errCode = h.errCode := rfl

theorem errCode_platenEnd (code info seq : Nat) :
    ((d.platenEnd st j (some (errOn (pgPlaten st) code info seq))).hdr (pgPlaten st)).errCode = code := by
  unfold Dev.platenEnd
  dsimp only
  rw [hdr_raiseIf_self, apply_ite Hdr.errCode, errCode_raised, ite_self, Dev.hdr_modPlaten]
  exact errCode_setError _ _ _ pgPlaten_ne_pgDbg

theorem kept_platenEnd_none : d.Kept (d.platenEnd st j none) [.platen st, .reg (pgPlaten st) 0x118, .hdr (pgPlaten st)] :=
  ((kept_modPlaten _ _).trans (kept_bump _ _ _ (by decide))).trans (kept_raiseIf _ _ _)

/-- A submit that ends well is counted. -/
theorem submits_platenEnd : (d.platenEnd st j none).reg (pgPlaten st) 0x118 = sat 32 (d.reg (pgPlaten st) 0x118 + 1) := by
  unfold Dev.platenEnd Dev.raiseIf
  dsimp only
  split
  · rw [reg_raise (by decide) pgPlaten_ne_pgRailjor]
    exact reg_bump_self (by decide)
  · exact reg_bump_self (by decide)

end Sys2Proof.Machine
end

section
/-!
PROOF. PLATEN_UPDATE_START and PLATEN_UPDATE_DONE (R274, R275): the two steps of a submit that the Platen runs.
-/
namespace Sys2Proof.Machine

variable {s : State} {d e : Dev} {st : Nat} {b : PltB} {c : PltK} {j : PlatenJob}

/-! ### The start of a submit -/

/-- The six words of the profile that a submit names. -/
def Dev.platenProfile (d : Dev) (st : Nat) (b : PltB) : List Word :=
  (List.range 6).map fun i => BitVec.ofNat 32 (d.reg (pgPlaten st) (0x200 + 32 * b.profile + 4 * i))

/-- The device whose Platen has taken submit j, with its profile and its φ. -/
def Dev.platenTaken (d : Dev) (st : Nat) (j : PlatenJob) (rest : List PlatenJob) (profile : List Word) (phi : F32) : Dev :=
  d.modPlaten st fun y => { y with queue := rest, running := some j, profile, phi, curSeq := j.seq, curCore := j.core }

/-- The profile's first word does not suit the submit: it is not enabled, does not fit the phase, or wants a step. -/
abbrev PltB.unfit (b : PltB) (cfg : Nat) : Prop :=
  (!bit cfg 31) = true ∨ (!phaseFits (cfg % 8) b.phase) = true ∨ (kindUsesM2 (cfg % 8) = true ∧ b.step = 0)

/-- A submit that was taken runs, unless its profile or its φ refuses it. -/
def Dev.platenChecked (d : Dev) (st : Nat) (j : PlatenJob) (b : PltB) (cfg : Nat) (phi : F32) : Dev :=
  let ends (d : Dev) (code info : Nat) := d.platenEnd st j (some (errOn (pgPlaten st) code info j.seq))
  if b.unfit cfg then ends d 0x0802 (b.profile * 2 ^ 28 + j.core)
  else if b.phase = 2 then
    match d.badAt b.aux 4 with
    | some u => ends (d.noteAny u j.core j.seq) 0x0803 j.core
    | none => if badPhi phi then ends d 0x0806 phi.toNat else d
  else d

theorem platenStart_eq {rest : List PlatenJob} (hst : st < 8) (free : d.dieHeld (st / 2) = false)
    (hq : (d.platen st).queue = j :: rest) (idle : (d.platen st).running = none) (on : (d.hdr (pgPlaten st)).enable = true) :
    let b := PltB.parse j.desc
    let prof := d.platenProfile st b
    let phi := BitVec.ofNat 32 (d.readNat b.aux 4)
    d.platenStart st = (d.platenTaken st j rest prof phi).platenChecked st j b (prof.headD 0#32).toNat phi := by
  unfold Dev.platenStart
  dsimp only
  rw [hq, idle]
  dsimp only
  rw [if_neg (by simp [hst, free, on])]
  rfl

theorem platen_platenTaken (rest : List PlatenJob) (profile : List Word) (phi : F32) :
    (d.platenTaken st j rest profile phi).platen st =
      { d.platen st with queue := rest, running := some j, profile, phi, curSeq := j.seq, curCore := j.core } :=
  Dev.platen_modPlaten_self ..

theorem platenChecked_unfit {cfg : Nat} {phi : F32} (h : b.unfit cfg) :
    d.platenChecked st j b cfg phi =
      d.platenEnd st j (some (errOn (pgPlaten st) 0x0802 (b.profile * 2 ^ 28 + j.core) j.seq)) := if_pos h

theorem platenChecked_fit {cfg : Nat} {phi : F32} (h : ¬b.unfit cfg) (hp : b.phase ≠ 2) : d.platenChecked st j b cfg phi = d := by
  unfold Dev.platenChecked
  rw [if_neg h, if_neg hp]

theorem reports_noteAny_platen (u core seq i : Nat) : (d.noteAny u core seq).platen i = d.platen i := (reports_noteAny u core seq).platen i

/-- A submit that was taken runs, or its Platen rests. -/
theorem platen_platenChecked (cfg : Nat) (phi : F32) :
    (d.platenChecked st j b cfg phi).platen st = d.platen st ∨
    (d.platenChecked st j b cfg phi).platen st = (d.platen st).rests j true := by
  unfold Dev.platenChecked
  dsimp only
  split
  · exact .inr (platen_platenEnd _)
  · split
    · split
      · exact .inr ((platen_platenEnd _).trans (by rw [reports_noteAny_platen]; rfl))
      · split
        · exact .inr (platen_platenEnd _)
        · exact .inl rfl
    · exact .inl rfl

/-- Whatever becomes of it, the submit leaves the queue, and its profile and number stay to be seen. -/
theorem platenChecked_shows (cfg : Nat) (phi : F32) :
    let y := (d.platenChecked st j b cfg phi).platen st
    y.queue = (d.platen st).queue ∧ y.profile = (d.platen st).profile ∧ y.curSeq = (d.platen st).curSeq := by
  obtain h | h := platen_platenChecked (d := d) (st := st) (j := j) (b := b) cfg phi <;> rw [h] <;> exact ⟨rfl, rfl, rfl⟩

theorem kept_platenTaken (rest : List PlatenJob) (profile : List Word) (phi : F32) :
    d.Kept (d.platenTaken st j rest profile phi) [.platen st] := kept_modPlaten _ _

theorem exec_platenUpdateStart (h : s.Up) (hst : st < 8) :
    exec (.platenUpdateStart st) s = .next (s.withDev (s.dev.platenStart st)) := runIf_live h (by simp [hst]) _

theorem exec_platenUpdateDone (h : s.Up) (hst : st < 8) :
    exec (.platenUpdateDone st) s = .next (s.withDev (s.dev.platenDone st)) := runIf_live h (by simp [hst]) _

/-! ### The end of a submit -/

/-- The tiles of the running submit that are left. -/
def Dev.platenRest (d : Dev) (st : Nat) (j : PlatenJob) : Dev × PltSums × Option ErrRec :=
  let b := PltB.parse j.desc
  let x := d.platen st
  d.platenTiles st j b (pltConsts x b) (b.count - x.next) x.next { sp := x.sp, sq := x.sq }

/-- The sums of a norm pass as they stand at AUX. -/
def Dev.normWritten (d : Dev) (b : PltB) (s : PltSums) : Dev := d.write b.aux (natLe 8 s.sp.toNat ++ natLe 8 s.sq.toNat)

section
variable (free : d.dieHeld (st / 2) = false) (runs : (d.platen st).running = some j)
include free runs

theorem platenDone_eq : d.platenDone st =
    if (PltB.parse j.desc).phase = 1 ∧ (d.platenRest st j).2.2.isNone then
      if (d.platenRest st j).1.inHold (PltB.parse j.desc).aux 16 then
        (d.platenRest st j).1.platenEnd st j (some (errOn (pgPlaten st) 0x0801 (4 * 2 ^ 28 + j.core) j.seq))
      else ((d.platenRest st j).1.normWritten (PltB.parse j.desc) (d.platenRest st j).2.1).platenEnd st j none
    else (d.platenRest st j).1.platenEnd st j (d.platenRest st j).2.2 := by
  unfold Dev.platenDone
  dsimp only
  rw [runs]
  dsimp only
  rw [if_neg (by simp [free])]
  rfl

theorem platenDone_passed (h : (d.platenRest st j).2.2 = none) (hp : (PltB.parse j.desc).phase ≠ 1) :
    d.platenDone st = (d.platenRest st j).1.platenEnd st j none := by
  rw [platenDone_eq free runs, if_neg (fun hn => hp hn.1), h]

theorem platenDone_norms (h : (d.platenRest st j).2.2 = none) (hp : (PltB.parse j.desc).phase = 1)
    (unheld : (d.platenRest st j).1.inHold (PltB.parse j.desc).aux 16 = false) :
    d.platenDone st = ((d.platenRest st j).1.normWritten (PltB.parse j.desc) (d.platenRest st j).2.1).platenEnd st j none := by
  rw [platenDone_eq free runs, if_pos ⟨hp, by simp [h]⟩, if_neg (by simp [unheld])]
end

theorem kept_normWritten (b : PltB) (s : PltSums) : d.Kept (d.normWritten b s) [.mem, .cow (stackOf b.aux)] := kept_write _ _

/-- The tiles are done, and memory and copy-on-write apart the rest of the device is as the tiles left it. -/
theorem platenDone_cases (free : d.dieHeld (st / 2) = false) (runs : (d.platen st).running = some j) : ∃ (e : Dev) (x : Option ErrRec),
    d.platenDone st = e.platenEnd st j x ∧
    (∀ m, e.core m = d.core m ∧ e.platen m = d.platen m ∧ e.dma m = d.dma m) ∧
    (x = none → e.reg (pgPlaten st) 0x118 = d.reg (pgPlaten st) 0x118) := by
  have same := platenTiles_same (d := d) (st := st) (j := j) (b := PltB.parse j.desc) (c := pltConsts (d.platen st) (PltB.parse j.desc))
    ((PltB.parse j.desc).count - (d.platen st).next) (d.platen st).next { sp := (d.platen st).sp, sq := (d.platen st).sq }
  rw [platenDone_eq free runs]
  split_ifs with h h'
  · exact ⟨_, _, rfl, same, fun hn => by cases hn⟩
  · have kept := kept_normWritten (d := (d.platenRest st j).1) (PltB.parse j.desc) (d.platenRest st j).2.1
    refine ⟨_, _, rfl, fun m => ?_, fun _ => ?_⟩
    · obtain ⟨core, platen, dma⟩ := same m
      exact ⟨Eq.trans (kept (.core m) (by simp)) core, Eq.trans (kept (.platen m) (by simp)) platen,
        Eq.trans (kept (.dma m) (by simp)) dma⟩
    · exact Eq.trans (kept (.reg _ _) (by simp) (by decide) fun hn => pgPlaten_ne_pgRailjor hn.1)
        (submits_pairOf (platenTiles_clean (Option.isNone_iff_eq_none.1 h.2)))
  · exact ⟨_, _, rfl, same, fun hx => submits_pairOf (platenTiles_clean hx)⟩

/-- A submit that ends well leaves its Platen idle, and is counted. -/
theorem platenEnd_counts (hp : e.platen st = d.platen st) (hc : e.reg (pgPlaten st) 0x118 = d.reg (pgPlaten st) 0x118) :
    (e.platenEnd st j none).platen st = { d.platen st with running := none, next := 0, sp := 0#64, sq := 0#64 } ∧
    (e.platenEnd st j none).reg (pgPlaten st) 0x118 = sat 32 (d.reg (pgPlaten st) 0x118 + 1) ∧
    (e.platenEnd st j none).mem = e.mem := by
  refine ⟨?_, ?_, (kept_platenEnd_none .mem (by simp)).1⟩
  · rw [platen_platenEnd, hp]; rfl
  · rw [submits_platenEnd, hc]

/-! ### The last tile of a submit -/

/-- A last pair that reads well and fits: it is stored and counted, and the submit has come to its end. -/
theorem platenRest_last (last : (PltB.parse j.desc).count = (d.platen st).next + 1)
    (ready : d.PairReady (PltB.parse j.desc) (pltConsts (d.platen st) (PltB.parse j.desc)).kind (d.platen st).next) :
    let ph := d.hdrAt ((PltB.parse j.desc).p + (d.platen st).next * (PltB.parse j.desc).pStride)
    (d.platenRest st j).2.2 = none ∧ ∃ x, d.Paired st (ph.rows * ph.cols) x ∧ (d.platenRest st j).1 = x.1 := by
  obtain ⟨x, hx⟩ := platenTile_ready (st := st) ready { sp := (d.platen st).sp, sq := (d.platen st).sq }
  have tile := platenTile_paired hx
  unfold Dev.platenRest
  dsimp only
  rw [last, Nat.add_sub_cancel_left, Dev.platenTiles, ready.1]
  dsimp only
  rw [hx]
  exact ⟨rfl, x, tile, rfl⟩

theorem reg64_lt (pg off : Nat) : d.reg64 pg off < 2 ^ 64 := by
  have lo : d.reg pg off < 2 ^ 32 := BitVec.isLt _
  have hi : d.reg pg (off + 4) < 2 ^ 32 := BitVec.isLt _
  rw [Dev.reg64]; omega

theorem reg64_bump64_self {pg off : Nat} (h : off + 4 < 4096) (n : Nat) :
    (d.bump64 pg off n).reg64 pg off = (d.reg64 pg off + n) % 2 ^ 64 := by
  unfold Dev.bump64
  split
  · next hn => rw [hn, Nat.add_zero, Nat.mod_eq_of_lt (reg64_lt _ _)]
  · rw [reg64_setReg64_self h, Nat.mod_mod]

/-- The count of elements stands where neither of its halves is touched. -/
theorem reg64_of_same (h : ∀ o ∈ [0x110, 0x114], Place.Same d e (.reg (pgPlaten st) o)) :
    e.reg64 (pgPlaten st) 0x110 = d.reg64 (pgPlaten st) 0x110 := by
  have same {o : Nat} (ho : o ∈ [0x110, 0x114]) (lt : o < 4096) : e.reg (pgPlaten st) o = d.reg (pgPlaten st) o :=
    h o ho lt fun hn => pgPlaten_ne_pgRailjor hn.1
  rw [Dev.reg64, Dev.reg64, same (by simp) (by decide), same (by simp) (by decide)]

/-- A pair's elements are counted, and stay so as its submit ends. -/
theorem elements_paired {elems : Nat} {x : Dev × PltSums} (h : d.Paired st elems x) :
    (x.1.platenEnd st j none).reg64 (pgPlaten st) 0x110 = (d.reg64 (pgPlaten st) 0x110 + elems) % 2 ^ 64 := by
  obtain ⟨e, clip, kept, hx⟩ := h
  have ends : (x.1.platenEnd st j none).reg64 (pgPlaten st) 0x110 = x.1.reg64 (pgPlaten st) 0x110 :=
    reg64_of_same fun o ho => kept_platenEnd_none _ (by rintro hn; simp at hn ho; omega)
  have clips : x.1.reg64 (pgPlaten st) 0x110 = (e.bump64 (pgPlaten st) 0x110 elems).reg64 (pgPlaten st) 0x110 := by
    rw [hx]
    exact reg64_of_same fun o ho => kept_bump _ _ _ (by decide) _ (by rintro hn; simp at hn ho; omega)
  have stored : e.reg64 (pgPlaten st) 0x110 = d.reg64 (pgPlaten st) 0x110 :=
    reg64_of_same fun o ho => kept _ (by simp at ho; rcases ho with rfl | rfl <;> simp [Place.tileOf])
  rw [ends, clips, reg64_bump64_self (by decide), stored]

/-- Settles O13: the start takes the oldest submit and checks it; the end is that of the tiles left, which are all clean where the
submit is counted. -/
theorem platenUpdate : Obligations.PlatenUpdate := by
  intro s st j up hst free x b prof cfg
  refine ⟨fun rest hq idle on => ?_, fun runs => ?_, fun runs => ?_⟩
  · have taken := platenChecked_shows (d := s.dev.platenTaken st j rest prof (BitVec.ofNat 32 (s.dev.readNat b.aux 4)))
      (st := st) (j := j) (b := b) cfg (BitVec.ofNat 32 (s.dev.readNat b.aux 4))
    obtain ⟨queue, profile, number⟩ := taken
    rw [platen_platenTaken] at queue profile number
    refine ⟨_, (exec_platenUpdateStart up hst).trans (by rw [platenStart_eq hst free hq idle on]; rfl), queue, profile, number, ?_, ?_⟩
    · intro enabled fits stepped hp
      have fit : ¬b.unfit cfg := by simp [PltB.unfit, enabled, fits]; exact stepped
      rw [platenChecked_fit fit hp]
      exact ⟨by rw [platen_platenTaken], kept_platenTaken _ _ _⟩
    · intro bad
      have unfit : b.unfit cfg := by simpa [PltB.unfit] using bad
      rw [platenChecked_unfit unfit]
      exact ⟨by rw [platen_platenEnd]; rfl, errCode_platenEnd _ _ _, by rw [platen_platenEnd]; exact List.mem_cons_self ..⟩
  · obtain ⟨e, o, done, same, counted⟩ := platenDone_cases free runs
    refine ⟨_, (exec_platenUpdateDone up hst).trans (by rw [done]), ?_, ?_, ?_, fun m => ?_⟩
    · rw [platen_platenEnd]; rfl
    · rw [platen_platenEnd, (same st).2.1]; rfl
    · cases o with
      | none => exact .inl (by rw [submits_platenEnd, counted rfl])
      | some z => exact .inr (by rw [platen_platenEnd]; exact List.mem_cons_self ..)
    · obtain ⟨core, platen, dma⟩ := platenEnd_same (d := e) (st := st) (j := j) o m
      obtain ⟨core', platen', dma'⟩ := same m
      exact ⟨core.trans core', fun hm => (platen hm).trans platen', dma.trans dma'⟩
  · intro r ends
    have tiles {P : Dev → Prop} (clean : r.2.2 = none) (hp : b.phase ≠ 1) (h : P (r.1.platenEnd st j none)) :
        ends (.platenUpdateDone st) P := by
      obtain ⟨idle, counted, -⟩ := platenEnd_counts (d := s.dev) (e := r.1) (st := st) (j := j) (platenTiles_same _ _ _ st).2.1
        (submits_pairOf (platenTiles_clean clean))
      exact ⟨_, (exec_platenUpdateDone up hst).trans (by rw [platenDone_passed free runs clean hp]; rfl), idle, counted, h⟩
    refine ⟨fun clean hp => tiles clean hp (kept_platenEnd_none .mem (by simp)).1, fun clean hp unheld => ?_, fun last ready hp => ?_⟩
    · have kept := kept_normWritten (d := r.1) b r.2.1
      obtain ⟨idle, counted, mem⟩ := platenEnd_counts (d := s.dev) (e := r.1.normWritten b r.2.1) (st := st) (j := j)
        (Eq.trans (kept (.platen st) (by simp)) (platenTiles_same _ _ _ st).2.1)
        (Eq.trans (kept (.reg _ _) (by simp) (by decide) fun hn => pgPlaten_ne_pgRailjor hn.1) (submits_pairOf (platenTiles_clean clean)))
      exact ⟨_, (exec_platenUpdateDone up hst).trans (by rw [platenDone_norms free runs clean hp unheld]; rfl), idle, counted, mem⟩
    · obtain ⟨clean, y, paired, hy⟩ := platenRest_last last ready
      refine tiles clean hp ?_
      have hr : r.1 = y.1 := hy
      rw [hr]
      exact elements_paired paired

end Sys2Proof.Machine
end

section
/-!
PROOF. Start-up up to the management processor (R306, R428–R431, R433, R435): measurements, the rails, the firmware slots and recovery.
-/
namespace Sys2Proof.Machine

variable {s : State} {d e : Dev} {c : Chip}

/-! ### Folds over a list whose elements matter -/

section
variable {α γ : Type} {cs : List α} {g : Dev → α → Dev}

theorem outside_foldl {area : Place → Bool} (h : ∀ e, ∀ c ∈ cs, Dev.KeptOutside e (g e c) area) (d : Dev) :
    d.KeptOutside (cs.foldl g d) area := by
  induction cs generalizing d with
  | nil => exact .refl d
  | cons c cs ih => exact (h d c (by simp)).trans (ih (fun e x hx => h e x (by simp [hx])) _)

/-- A fold each of whose steps sets a view to a value, where `hit` says so, or leaves it alone. -/
theorem foldl_sets {view : Dev → γ} {v : γ} {hit : α → Bool}
    (steps : ∀ e, ∀ c ∈ cs, view (g e c) = if hit c then v else view e) (d : Dev) :
    view (cs.foldl g d) = if cs.any hit then v else view d := by
  induction cs generalizing d with
  | nil => rfl
  | cons c cs ih =>
    rw [List.foldl_cons, ih (fun e x hx => steps e x (by simp [hx])), steps d c (by simp), List.any_cons]
    by_cases hc : hit c = true <;> simp [hc]

theorem any_range_eq {n m : Nat} (h : n < m) : ((List.range m).any fun i => i == n) = true :=
  List.any_eq_true.2 ⟨n, List.mem_range.2 h, beq_self_eq_true n⟩
end

/-! ### Errors of the SEC page -/

/-- The SEC page shows an error, which the log takes, and nothing else is new. -/
def Dev.secFailed (d e : Dev) (code : Nat) : Prop := (e.hdr pgSec).errCode = code ∧ d.Kept e [.hdr pgSec, .hdr pgDbg, .log]

theorem kept_secError (code info : Nat) : d.Kept (d.secError code info) [.hdr pgSec, .hdr pgDbg, .log] := kept_setError _ _ _ _

theorem secFailed_secError (code info : Nat) : d.secFailed (d.secError code info) code :=
  ⟨errCode_setError _ _ _ (by decide), kept_secError _ _⟩

theorem secFailed_again {code' : Nat} (h : d.secFailed e code') (code info : Nat) : d.secFailed (e.secError code info) code :=
  ⟨errCode_setError _ _ _ (by decide), h.2.seq (kept_secError _ _)⟩

/-! ### Measurements (R431) -/

/-- The log and the chain extended by a measurement. -/
def Sec.extended (s : Sec) (m : Meas) : Sec := { s with chain := extendChain s.chain m, log := s.log ++ [m] }

/-- Before READY an extend raises no event. -/
theorem extend_eq (m : Meas) (room : c.sec.log.length < 16) (early : c.pow.stage ≠ 3) :
    (c.extend m).1 = { c with sec := c.sec.extended m } := by
  have added : c.sec.extend m = some (c.sec.extended m) := if_pos room
  have quiet : c.dev.raiseIf (c.pow.stage == 3) pgSec 3 = c.dev := if_neg (by simpa using early)
  rw [Chip.extend, added]
  dsimp only
  rw [quiet]

/-! ### The rails (R430, R431, R433, R435) -/

/-- The boot ROM's own measurement. -/
def romMeas : Meas := ⟨1, Config.romRevision % 2 ^ 32, Config.romDigest⟩

/-- The device certificate fits the identity key. -/
def certSound : Bool :=
  let key := padTo 1952 Config.identityKey
  ((Config.identityCert.drop 0x70).take 1952 == key) && Config.keyChains (digest64 Config.identityCert) key

/-- The time base set to 0. -/
def Dev.timeZero (d : Dev) : Dev := { d with time := 0, timeFrac := 0 }

/-- The hub's rails are up, and nothing is measured yet. -/
def Chip.hubUp (c : Chip) : Chip := { c with dev := c.dev.timeZero, pow := { c.pow with hubRails := true, stage := 0 } }

/-- No certificate fits: nothing is signed. -/
def Chip.signless (c : Chip) : Chip := { c with dev := c.dev.secError 0x0E06 0, sec := { c.sec with signingOff := true } }

theorem kept_timeZero : d.Kept d.timeZero [.time] := kept_time 0 0

theorem hubRails_eq (boot : c.pow.mode = .boot) (down : c.pow.hubRails = false) (room : c.sec.log.length < 16) :
    c.hubRails =
      if certSound then { c.hubUp with sec := c.sec.extended romMeas } else { c.hubUp with sec := c.sec.extended romMeas }.signless := by
  have measured : (c.hubUp.extend romMeas).1 = { c.hubUp with sec := c.sec.extended romMeas } :=
    extend_eq (c := c.hubUp) romMeas room (by simp [Chip.hubUp])
  unfold Chip.hubRails
  rw [if_neg (by simp [boot, down]), ← measured]
  rfl

theorem secFailed_timeZero : d.timeZero.secFailed (d.timeZero.secError 0x0E06 0) 0x0E06 := secFailed_secError _ _

theorem kept_timeZero_secError : d.Kept (d.timeZero.secError 0x0E06 0) [.time, .hdr pgSec, .hdr pgDbg, .log] :=
  kept_timeZero.trans (kept_secError _ _)

/-- A port of a die begins to train. -/
theorem d2d_setD2d {k q i n : Nat} (hq : q < 3) (hi : i < 3) : (d.setD2d k q 1).d2d n i = if k == n && q == i then 1 else d.d2d n i := by
  unfold Dev.setD2d Dev.d2d
  by_cases h : k = n ∧ q = i
  · obtain ⟨rfl, rfl⟩ := h
    rw [Dev.reg_setReg_self]; simp
  · have other : pgD2d n ≠ pgD2d k ∨ d2dKey i 8 ≠ d2dKey q 8 := by simp only [pgD2d, pgDie, d2dKey]; omega
    rw [Dev.reg_setReg_ne _ _ (regKey_ne (by simp only [d2dKey]; omega) (by simp only [d2dKey]; omega) other), if_neg (by simpa using h)]

/-- The ports of a die begin to train. -/
def Dev.d2dBegun (d : Dev) (k : Nat) : Dev := (List.range 3).foldl (fun d q => d.setD2d k q 1) d

theorem d2d_d2dBegun {k i n : Nat} (hi : i < 3) : (d.d2dBegun k).d2d n i = if k == n then 1 else d.d2d n i := by
  rw [Dev.d2dBegun, foldl_sets (view := (·.d2d n i)) (hit := fun q => k == n && q == i)
    fun e q hq => d2d_setD2d (List.mem_range.1 hq) hi]
  cases k == n
  · simp
  · simp [hi]

/-- Every die-to-die port trains. -/
def Dev.meshBegun (d : Dev) : Dev := (List.range 4).foldl Dev.d2dBegun d

theorem d2d_meshBegun {n i : Nat} (hn : n < 4) (hi : i < 3) : d.meshBegun.d2d n i = 1 := by
  rw [Dev.meshBegun, foldl_sets (view := (·.d2d n i)) (hit := (· == n)) fun e k _ => d2d_d2dBegun hi, any_range_eq hn]
  rfl

/-- The state of every die-to-die port. -/
def Place.d2dState : Place → Bool
  | .reg g o => (List.range 4).any (fun c => g == pgD2d c) && (List.range 3).any (fun i => o == d2dKey i 8)
  | _ => false

theorem d2dState_meshBegun : d.KeptOutside d.meshBegun Place.d2dState := by
  refine outside_foldl (fun e k hk => outside_foldl (fun f q hq => ?_) e) d
  have hq3 := List.mem_range.1 hq
  refine (kept_setReg _ _ _ (by simp only [d2dKey]; omega)).outside fun x hx => ?_
  rw [List.mem_singleton.1 hx, Place.d2dState, Bool.and_eq_true, List.any_eq_true, List.any_eq_true]
  exact ⟨⟨k, hk, beq_self_eq_true _⟩, q, hq, beq_self_eq_true _⟩

theorem dieRails_eq (boot : c.pow.mode = .boot) (thawed : c.pow.frozen = false) (hub : c.pow.hubRails = true)
    (down : c.pow.dieRails = false) : c.dieRails =
      { c with dev := c.dev.meshBegun
               pow := { c.pow with dieRails := true, stage := if c.pow.stage = 0 then 1 else c.pow.stage } } := by
  unfold Chip.dieRails
  rw [if_neg (by simp [boot, hub, down]), if_neg (by simp [thawed])]
  rfl

/-! ### The management processor starts (R306, R429, R431) -/

/-- The management processor sets EN of a link, which trains. -/
def LinkSt.enabled (x : LinkSt) : LinkSt := if x.state = .disabled then { x with state := .training } else x

/-- EN of link n set. -/
def Dev.linkOn (d : Dev) (n : Nat) : Dev := (d.setReg (pgLink n) 0x104 (d.reg (pgLink n) 0x104 ||| 2 ^ 31)).modLink n LinkSt.enabled

theorem enableLinks_eq : d.enableLinks = (List.range 36).foldl Dev.linkOn d := rfl

theorem enabled_enabled (x : LinkSt) : x.enabled.enabled = x.enabled := by
  unfold LinkSt.enabled
  by_cases h : x.state = .disabled <;> simp [h]

theorem reg_modLink (n g o : Nat) (f : LinkSt → LinkSt) : (d.modLink n f).reg g o = d.reg g o := rfl
theorem link_setReg (g o w n : Nat) : (d.setReg g o w).link n = d.link n := rfl

theorem reg_linkOn (n i : Nat) :
    (d.linkOn i).reg (pgLink n) 0x104 = if i == n then d.reg (pgLink n) 0x104 ||| 2 ^ 31 else d.reg (pgLink n) 0x104 := by
  rw [Dev.linkOn, reg_modLink]
  by_cases h : i = n
  · subst h
    have lt : d.reg (pgLink i) 0x104 ||| 2 ^ 31 < 2 ^ 32 := Nat.or_lt_two_pow (BitVec.isLt _) (by decide)
    rw [Dev.reg_setReg_self, Nat.mod_eq_of_lt lt]; simp
  · have other : pgLink n ≠ pgLink i := by simp only [pgLink, pgDie]; omega
    rw [Dev.reg_setReg_ne _ _ (regKey_ne (by decide) (by decide) (.inl other))]; simp [h]

theorem link_linkOn (n i : Nat) : (d.linkOn i).link n = if i == n then (d.link n).enabled else d.link n := by
  by_cases h : i = n
  · subst h; simp [Dev.linkOn]
  · rw [Dev.linkOn, Dev.link_modLink_ne _ _ _ (Ne.symm h), link_setReg]; simp [h]

/-- Every link's EN is set, and the links that were disabled train. -/
theorem enableLinks_link {n : Nat} (hn : n < 36) :
    d.enableLinks.reg (pgLink n) 0x104 = d.reg (pgLink n) 0x104 ||| 2 ^ 31 ∧ d.enableLinks.link n = (d.link n).enabled := by
  have hit := any_range_eq hn
  rw [enableLinks_eq]
  constructor
  · rw [foldl_view (I := fun _ => True) (fun e : Dev => e.reg (pgLink n) 0x104) (· ||| 2 ^ 31) (· == n) (fun _ _ h => h)
      (fun _ i _ => reg_linkOn n i) (fun x => by rw [Nat.or_assoc, Nat.or_self]) _ trivial, if_pos hit]
  · rw [foldl_view (I := fun _ => True) (fun e : Dev => e.link n) LinkSt.enabled (· == n) (fun _ _ h => h)
      (fun _ i _ => link_linkOn n i) enabled_enabled _ trivial, if_pos hit]

/-- The links, and the registers of their pages that hold EN. -/
def Place.linkEn : Place → Bool
  | .link _ => true
  | .reg g o => o == 0x104 && (List.range 36).any (fun n => g == pgLink n)
  | _ => false

theorem linkEn_enableLinks : d.KeptOutside d.enableLinks Place.linkEn := by
  refine outside_foldl (fun e n hn => ?_) d
  refine ((kept_setReg _ _ _ (by decide)).outside fun x hx => ?_).trans ((kept_modLink _ _).outside fun x hx => ?_)
  · rw [List.mem_singleton.1 hx, Place.linkEn, Bool.and_eq_true, List.any_eq_true]
    exact ⟨rfl, n, hn, beq_self_eq_true _⟩
  · rw [List.mem_singleton.1 hx]; rfl

/-- The digest of an accepted image, and its two measurements. -/
abbrev imageDigest (h body : List Byte) : List Byte := digest64 (h.take 0x14E5 ++ body)
abbrev imageMeas (h body : List Byte) : Meas := ⟨2, field h 0xC 4, imageDigest h body⟩
def Sec.fuseMeas (x : Sec) : Meas :=
  ⟨3, x.fusedSvn % 256 * 2 ^ 24 + x.revoked % 256 * 2 ^ 16, digest64 (Config.fuseImage x.fusedSvn x.revoked)⟩

/-- The security state once an image runs. -/
def Sec.running (x : Sec) (h body : List Byte) (slotB recovery : Bool) : Sec :=
  { (x.extended (imageMeas h body)).extended x.fuseMeas with
    slotB, recovery, imageSvn := field h 8 4, fwVersion := field h 0xC 4, fwDigest := imageDigest h body }

theorem runImage_eq (h body : List Byte) (slotB recovery : Bool) (room : c.sec.log.length + 2 ≤ 16) (early : c.pow.stage ≠ 3) :
    c.runImage h body slotB recovery =
      { dev := c.dev.enableLinks, pow := { c.pow with stage := 2 }, sec := c.sec.running h body slotB recovery } := by
  have more : (c.sec.extended (imageMeas h body)).log.length < 16 := by
    rw [Sec.extended, List.length_append, List.length_singleton]; omega
  unfold Chip.runImage
  dsimp only
  rw [extend_eq _ (by omega) early, extend_eq (c := { c with sec := c.sec.extended (imageMeas h body) }) _ more early]
  rfl

/-! ### The firmware slots (R428) -/

section
variable {slot : Nat} (boot : c.pow.mode = .boot) (thawed : c.pow.frozen = false)
include boot thawed

section
variable (here : c.pow.stage = 1) (tried : slot = c.sec.slotTried)
include here tried

/-- The header and the body of the image in a slot. -/
abbrev Sec.slotHead (x : Sec) (slot : Nat) : List Byte := x.flashRead slot 0 0x2000
abbrev Sec.slotBody (x : Sec) (slot : Nat) : List Byte := x.flashRead slot 0x2000 (bodyLen (x.slotHead slot))

theorem firmwareVerified_runs (sound : c.sec.fwCheck (c.sec.slotHead slot) (c.sec.slotBody slot) = 0) :
    c.firmwareVerified slot = c.runImage (c.sec.slotHead slot) (c.sec.slotBody slot) (slot == 1) false := by
  unfold Chip.firmwareVerified
  rw [if_neg (by simp [boot, thawed, here, ← tried])]
  exact if_pos sound

variable (bad : c.sec.fwCheck (c.sec.slotHead slot) (c.sec.slotBody slot) ≠ 0)
include bad

/-- A first slot that fails. -/
theorem firmwareVerified_first (fresh : c.sec.tried = 0) :
    ∃ info, c.firmwareVerified slot =
      { c with dev := c.dev.secError (c.sec.fwCheck (c.sec.slotHead slot) (c.sec.slotBody slot)) info
               sec := { c.sec with tried := 1 } } := by
  unfold Chip.firmwareVerified
  rw [if_neg (by simp [boot, thawed, here, ← tried])]
  exact ⟨_, (if_neg bad).trans (if_pos fresh)⟩

/-- A second slot that fails: recovery. -/
theorem firmwareVerified_second (again : c.sec.tried ≠ 0) :
    ∃ info, c.firmwareVerified slot =
      { dev := (c.dev.secError (c.sec.fwCheck (c.sec.slotHead slot) (c.sec.slotBody slot)) info).secError 0x0E04 0
        pow := { c.pow with stage := 4, faultN := true }, sec := { c.sec with tried := 2, recovery := true } } := by
  unfold Chip.firmwareVerified
  rw [if_neg (by simp [boot, thawed, here, ← tried])]
  exact ⟨_, (if_neg bad).trans (if_neg again)⟩
end

/-! ### Recovery (R429) -/

section
variable (here : c.pow.stage = 4)
include here

theorem recoveryLoad_eq {off : Nat} {bs : List Byte} (full : bs.length = 256) (fits : off + 256 ≤ 2 ^ 25) :
    c.recoveryLoad off bs = { c with sec := { c.sec with image := c.sec.image.write off bs } } := by
  unfold Chip.recoveryLoad
  rw [if_neg (by simp [boot, thawed, here, full]; omega)]

/-- The header and the body of the loaded image. -/
abbrev Sec.loadHead (x : Sec) : List Byte := x.image.read 0 0x2000
abbrev Sec.loadBody (x : Sec) : List Byte := x.image.read 0x2000 (bodyLen x.loadHead)

theorem recoveryGo_runs (sound : c.sec.fwCheck c.sec.loadHead c.sec.loadBody = 0) (room : c.sec.log.length + 2 ≤ 16) :
    c.recoveryGo =
      { dev := c.dev.enableLinks, pow := { c.pow with stage := 2, faultN := c.pow.unitFailed }
        sec := c.sec.running c.sec.loadHead c.sec.loadBody false true } := by
  unfold Chip.recoveryGo
  rw [if_neg (by simp [boot, thawed, here])]
  refine (if_pos sound).trans ?_
  rw [runImage_eq _ _ _ _ room (by omega)]

theorem recoveryGo_fails (bad : c.sec.fwCheck c.sec.loadHead c.sec.loadBody ≠ 0) :
    ∃ info, c.recoveryGo = { c with dev := c.dev.secError 0x0E05 info } := by
  unfold Chip.recoveryGo
  rw [if_neg (by simp [boot, thawed, here])]
  exact ⟨_, if_neg bad⟩
end

theorem bootTimeout_eq (late : c.pow.stage ≠ 3) :
    c.bootTimeout = { c with dev := c.dev.secError 0x0E0B c.pow.stage
                             pow := { c.pow with faultN := true, stuck := c.pow.stage != 4 } } := by
  unfold Chip.bootTimeout
  rw [if_neg (by simp [boot, thawed, late])]
  rfl
end

end Sys2Proof.Machine
end

section
/-!
PROOF. Memory training and READY (R257, R426, R427, R431): what each stack's and each channel's training leaves, and what follows it.
-/
namespace Sys2Proof.Machine

variable {d e : Dev} {c : Chip}

/-! ### HBM (R427) -/

/-- The training of stack st. -/
def Dev.stackTrained (failing : Nat) (d : Dev) (st : Nat) : Dev :=
  if bit failing st then (d.setError (pgHbmc st) 0x0808 st 0).spoil [st / 2] else d.setReg (pgHbmc st) 0x104 (2 ^ 31)

theorem trainHbm_eq (failing : Nat) : d.trainHbm failing = (List.range 8).foldl (Dev.stackTrained failing) d := rfl

theorem spoil_one (n : Nat) : d.spoil [n] = d.modDie n fun x => { x with unusable := true } := rfl

theorem pgHbmc_ne_pgDbg (st : Nat) : pgHbmc st ≠ pgDbg := by simp only [pgHbmc, pgDie, pgDbg]; omega

/-- The page of another unit keeps its header as an error is set. -/
theorem hdr_setError_ne {pg g : Nat} (code i0 i1 : Nat) (hg : g ≠ pg) (hd : g ≠ pgDbg) : (d.setError pg code i0 i1).hdr g = d.hdr g :=
  kept_setError pg code i0 i1 (.hdr g) (by simp [hg, hd])

theorem errCode_stackTrained {failing st : Nat} (failed : bit failing st = true) (i : Nat) :
    ((d.stackTrained failing i).hdr (pgHbmc st)).errCode = if i == st then 0x0808 else (d.hdr (pgHbmc st)).errCode := by
  unfold Dev.stackTrained
  by_cases h : i = st
  · subst h
    rw [if_pos failed, spoil_one, Dev.hdr_modDie, errCode_setError _ _ _ (pgHbmc_ne_pgDbg i)]; simp
  · have other : pgHbmc st ≠ pgHbmc i := by simp only [pgHbmc, pgDie]; omega
    rw [if_neg (c := (i == st) = true) (by simpa using h)]
    split
    · rw [spoil_one, Dev.hdr_modDie, hdr_setError_ne _ _ _ other (pgHbmc_ne_pgDbg st)]
    · rfl

theorem unusable_stackTrained (failing n i : Nat) :
    ((d.stackTrained failing i).die n).unusable = if bit failing i && i / 2 == n then true else (d.die n).unusable := by
  unfold Dev.stackTrained
  by_cases h : bit failing i = true
  · rw [if_pos h, spoil_one, die_modDie, Dev.die_setError, h]
    cases i / 2 == n <;> rfl
  · rw [if_neg h, eq_false_of_ne_true h]; rfl

/-- A failed stack shows its error, and its die is unusable. -/
theorem trainHbm_failed {failing st : Nat} (hst : st < 8) (failed : bit failing st = true) :
    ((d.trainHbm failing).die (st / 2)).unusable = true ∧ ((d.trainHbm failing).hdr (pgHbmc st)).errCode = 0x0808 := by
  rw [trainHbm_eq]
  constructor
  · rw [foldl_sets (view := fun e : Dev => (e.die (st / 2)).unusable) fun e i _ => unusable_stackTrained failing _ i, if_pos]
    exact List.any_eq_true.2 ⟨st, List.mem_range.2 hst, by simp [failed]⟩
  · rw [foldl_sets (view := fun e : Dev => (e.hdr (pgHbmc st)).errCode) fun e i _ => errCode_stackTrained failed i,
      if_pos (any_range_eq hst)]

/-- A die with no failed stack stays as usable as it was. -/
theorem trainHbm_spared {failing n : Nat} (h : ∀ st < 8, st / 2 = n → bit failing st = false) :
    ((d.trainHbm failing).die n).unusable = (d.die n).unusable := by
  rw [trainHbm_eq, foldl_sets (view := fun e : Dev => (e.die n).unusable) fun e i _ => unusable_stackTrained failing _ i, if_neg]
  intro hn
  obtain ⟨st, hst, hit⟩ := List.any_eq_true.1 hn
  simp only [Bool.and_eq_true, beq_iff_eq] at hit
  exact absurd hit.1 (by simp [h st (List.mem_range.1 hst) hit.2])

/-- What the stacks' training may touch. -/
def Place.hbmTrained : Place → Bool
  | .hdr _ | .reg _ _ | .die _ | .log => true
  | _ => false

theorem hbmTrained_trainHbm (failing : Nat) : d.KeptOutside (d.trainHbm failing) Place.hbmTrained := by
  rw [trainHbm_eq]
  refine keptOutside_foldl _ (fun e i => ?_) _ d
  unfold Dev.stackTrained
  split
  · rw [spoil_one]
    exact ((kept_setError _ _ _ _).outside (by simp [Place.hbmTrained])).trans
      ((kept_modDie _ _).outside (by simp [Place.hbmTrained]))
  · exact (kept_setReg _ _ _ (by decide)).outside (by simp [Place.hbmTrained])

/-! ### DDR5 (R257) -/

/-- A channel is populated: its DIMM is supported, and trains. -/
def ddrTakes (dimms : List Nat) (bad n : Nat) : Bool := supportedDimm (dimms.getD n 0) && !bit bad n

/-- What is found on channel n. -/
def Dev.channelFound (dimms : List Nat) (bad : Nat) (d : Dev) (n : Nat) : Dev :=
  let g := dimms.getD n 0
  let e := d.setReg (pgDdr n) 0x100 (if ddrTakes dimms bad n then 3 * 2 ^ 30 + g else g % 2 ^ 16)
  if !ddrTakes dimms bad n ∧ (g ≠ 0 ∨ bit bad n) then e.setError (pgDdr n) 0x0901 (g % 2 ^ 16) 0 else e

/-- The channels as they are found. -/
def Dev.channelsFound (d : Dev) (dimms : List Nat) (bad : Nat) : Dev := (List.range 12).foldl (Dev.channelFound dimms bad) d

/-- How much of its DIMM channel n takes, with the least of its die's. -/
def Dev.channelSized (d : Dev) (n : Nat) : Dev :=
  let home := (d.homeChannels (n / 3)).map d.dimm
  let least := home.foldl min (home.headD 0)
  if d.dimm n = 0 then d
  else
    let d := d.setReg (pgDdr n) 0x104 least
    if least < d.dimm n then d.setError (pgDdr n) 0x0902 ((d.dimm n - least) * 2 ^ 16 + least) 0 else d

/-- The channels as they are taken. -/
def Dev.channelsSized (d : Dev) : Dev := (List.range 12).foldl Dev.channelSized d

theorem trainDdr_eq (dimms : List Nat) (bad : Nat) : d.trainDdr dimms bad = (d.channelsFound dimms bad).relayDdr.channelsSized := rfl

theorem pgDdr_ne {n i : Nat} (h : i ≠ n) : pgDdr n ≠ pgDdr i := by simp only [pgDdr]; omega
theorem pgDdr_ne_pgDbg {n : Nat} (h : n < 12) : pgDdr n ≠ pgDbg := by simp only [pgDdr, pgDbg]; omega
theorem pgDdr_ne_pgRailjor {n : Nat} (h : n < 12) : pgDdr n ≠ pgRailjor := by simp only [pgDdr, pgRailjor]; omega

theorem reg_setError {pg code i0 i1 n o : Nat} (hn : n < 12) (ho : o < 4096) :
    (d.setError pg code i0 i1).reg (pgDdr n) o = d.reg (pgDdr n) o :=
  kept_setError pg code i0 i1 (.reg _ _) (by simp) ho fun h => pgDdr_ne_pgRailjor hn h.1

/-- What a channel's register reads as its DIMM is found: populated, or not. -/
theorem reg_channelFound {dimms : List Nat} {bad n : Nat} (hn : n < 12) (i : Nat) :
    (d.channelFound dimms bad i).reg (pgDdr n) 0x100 = if i == n then
      (if ddrTakes dimms bad n then 3 * 2 ^ 30 + dimms.getD n 0 else dimms.getD n 0 % 2 ^ 16) % 2 ^ 32 else d.reg (pgDdr n) 0x100 := by
  unfold Dev.channelFound
  dsimp only
  rw [apply_ite (Dev.reg · (pgDdr n) 0x100), reg_setError hn (by decide), ite_self]
  by_cases h : i = n
  · subst h; rw [Dev.reg_setReg_self]; simp
  · rw [Dev.reg_setReg_ne _ _ (regKey_ne (by decide) (by decide) (.inl (pgDdr_ne h)))]; simp [h]

theorem supportedDimm_le {g : Nat} (h : supportedDimm g = true) : 0 < g ∧ g ≤ 256 := by
  simp only [supportedDimm, List.contains_eq_mem, decide_eq_true_eq, List.mem_cons, List.not_mem_nil, or_false] at h
  omega

/-- The capacity of a channel that is populated is its DIMM's; any other has none. -/
theorem dimm_channelsFound {dimms : List Nat} {bad n : Nat} (hn : n < 12) :
    (d.channelsFound dimms bad).dimm n = if ddrTakes dimms bad n then dimms.getD n 0 else 0 := by
  rw [Dev.dimm, Dev.channelsFound, foldl_sets (view := fun e : Dev => e.reg (pgDdr n) 0x100) fun e i _ => reg_channelFound hn i,
    if_pos (any_range_eq hn)]
  by_cases h : ddrTakes dimms bad n = true
  · have le : dimms.getD n 0 ≤ 256 := (supportedDimm_le (Bool.and_eq_true_iff.1 h).1).2
    generalize dimms.getD n 0 = g at *
    have on : bit ((3 * 2 ^ 30 + g) % 2 ^ 32) 31 = true := by
      rw [bit, Nat.shiftRight_eq_div_pow, beq_iff_eq]; omega
    rw [if_pos h, if_pos h, if_pos on]; omega
  · generalize dimms.getD n 0 = g at *
    have off : ¬bit (g % 2 ^ 16 % 2 ^ 32) 31 = true := by
      rw [bit, Nat.shiftRight_eq_div_pow, beq_iff_eq]; omega
    rw [if_neg h, if_neg h, if_neg off]

theorem errCode_channelFound {dimms : List Nat} {bad n : Nat} (hn : n < 12) (refused : ddrTakes dimms bad n = false)
    (held : dimms.getD n 0 ≠ 0 ∨ bit bad n = true) (i : Nat) :
    ((d.channelFound dimms bad i).hdr (pgDdr n)).errCode = if i == n then 0x0901 else (d.hdr (pgDdr n)).errCode := by
  unfold Dev.channelFound
  dsimp only
  by_cases h : i = n
  · subst h
    rw [if_pos ⟨by simp [refused], held⟩, errCode_setError _ _ _ (pgDdr_ne_pgDbg hn)]; simp
  · rw [if_neg (c := (i == n) = true) (by simpa using h), apply_ite (fun e : Dev => (e.hdr (pgDdr n)).errCode),
      hdr_setError_ne _ _ _ (pgDdr_ne h) (pgDdr_ne_pgDbg hn), ite_self]
    rfl

/-- A channel that holds a DIMM and is not populated shows its error. -/
theorem errCode_channelsFound {dimms : List Nat} {bad n : Nat} (hn : n < 12) (refused : ddrTakes dimms bad n = false)
    (held : dimms.getD n 0 ≠ 0 ∨ bit bad n = true) : ((d.channelsFound dimms bad).hdr (pgDdr n)).errCode = 0x0901 := by
  rw [Dev.channelsFound, foldl_sets (view := fun e : Dev => (e.hdr (pgDdr n)).errCode)
    fun e i _ => errCode_channelFound hn refused held i, if_pos (any_range_eq hn)]

/-- The capacity of each channel stays as the channels are sized. -/
theorem dimm_channelSized {n : Nat} (hn : n < 12) (i : Nat) : (d.channelSized i).dimm n = d.dimm n := by
  have same : (d.channelSized i).reg (pgDdr n) 0x100 = d.reg (pgDdr n) 0x100 := by
    unfold Dev.channelSized
    dsimp only
    have sized (w : Nat) : (d.setReg (pgDdr i) 0x104 w).reg (pgDdr n) 0x100 = d.reg (pgDdr n) 0x100 :=
      Dev.reg_setReg_ne _ _ (regKey_ne (by decide) (by decide) (.inr (by decide)))
    split
    · rfl
    · rw [apply_ite (Dev.reg · (pgDdr n) 0x100), reg_setError hn (by decide), ite_self, sized]
  rw [Dev.dimm, Dev.dimm, same]

theorem dimm_channelsSized {n : Nat} (hn : n < 12) : d.channelsSized.dimm n = d.dimm n :=
  foldl_unseen (fun e : Dev => e.dimm n) (fun _ i => dimm_channelSized hn i) _ d

/-- A channel that is not populated keeps its header as the others are sized. -/
theorem hdr_channelSized {n : Nat} (hn : n < 12) (none : d.dimm n = 0) (i : Nat) : (d.channelSized i).hdr (pgDdr n) = d.hdr (pgDdr n) := by
  unfold Dev.channelSized
  dsimp only
  split
  · rfl
  · next some =>
    have other : i ≠ n := fun h => some (h ▸ none)
    rw [apply_ite (Dev.hdr · (pgDdr n)), hdr_setError_ne _ _ _ (pgDdr_ne other) (pgDdr_ne_pgDbg hn), ite_self]
    rfl

theorem hdr_channelsSized {n : Nat} (hn : n < 12) (none : d.dimm n = 0) : d.channelsSized.hdr (pgDdr n) = d.hdr (pgDdr n) :=
  (foldl_view (I := fun e : Dev => e.dimm n = 0) (·.hdr (pgDdr n)) id (fun _ => false)
    (fun e i h => (dimm_channelSized hn i).trans h) (fun e i h => hdr_channelSized hn h i) (fun _ => rfl) _ none).trans (by simp)

/-! ### The contents of DDR5 (R259) -/

theorem kept_relayDdr : d.Kept d.relayDdr [.mem, .ddrLaid] := by
  unfold Dev.relayDdr
  dsimp only
  split <;> intro x hx <;> cases x
  case isTrue.mem | isFalse.mem | isTrue.ddrLaid | isFalse.ddrLaid => exact absurd (by simp) hx
  all_goals first | exact rfl | exact ⟨rfl, rfl⟩ | exact ⟨rfl, rfl, rfl⟩ | exact fun _ _ => rfl

/-- Contents stay where they lie while the same channels are populated. -/
theorem mem_relayDdr (h : d.ddrLaid = [] ∨ d.ddrLaid = (List.range 12).filter fun n => d.dimm n != 0) : d.relayDdr.mem = d.mem := by
  unfold Dev.relayDdr
  dsimp only
  rw [if_pos h]

/-- What the channels' training may touch beside memory. -/
def Place.ddrTrained : Place → Bool
  | .hdr g => decide (g < 0x40)
  | .reg _ _ | .log => true
  | _ => false

theorem ddrTrained_setError {n : Nat} (hn : n < 12) (code i0 i1 : Nat) :
    d.KeptOutside (d.setError (pgDdr n) code i0 i1) Place.ddrTrained :=
  (kept_setError _ _ _ _).outside (by simp [Place.ddrTrained, pgDdr, pgDbg]; omega)

theorem ddrTrained_setReg (n w : Nat) {o : Nat} (ho : o < 4096) : d.KeptOutside (d.setReg (pgDdr n) o w) Place.ddrTrained :=
  (kept_setReg _ _ _ ho).outside (by simp [Place.ddrTrained])

theorem ddrTrained_channelsFound (dimms : List Nat) (bad : Nat) : d.KeptOutside (d.channelsFound dimms bad) Place.ddrTrained := by
  refine outside_foldl (fun e n hn => ?_) d
  unfold Dev.channelFound
  dsimp only
  split
  · exact (ddrTrained_setReg _ _ (by decide)).trans (ddrTrained_setError (List.mem_range.1 hn) _ _ _)
  · exact ddrTrained_setReg _ _ (by decide)

theorem ddrTrained_channelsSized : d.KeptOutside d.channelsSized Place.ddrTrained := by
  refine outside_foldl (fun e n hn => ?_) d
  unfold Dev.channelSized
  dsimp only
  split
  · exact .refl e
  · split
    · exact (ddrTrained_setReg _ _ (by decide)).trans (ddrTrained_setError (List.mem_range.1 hn) _ _ _)
    · exact ddrTrained_setReg _ _ (by decide)

/-- A place that neither the channels' training nor the contents of their windows touch. -/
theorem trainDdr_same (dimms : List Nat) (bad : Nat) {x : Place} (hx : x.ddrTrained = false) (hw : x ∉ [.mem, .ddrLaid]) :
    x.Same d (d.trainDdr dimms bad) := by
  rw [trainDdr_eq]
  exact ((ddrTrained_channelsFound dimms bad x hx).trans (kept_relayDdr x hw)).trans (ddrTrained_channelsSized x hx)

theorem dimm_relayDdr (n : Nat) : d.relayDdr.dimm n = d.dimm n := by
  unfold Dev.relayDdr
  dsimp only
  split <;> rfl

theorem dimm_trainDdr {dimms : List Nat} {bad n : Nat} (hn : n < 12) :
    (d.trainDdr dimms bad).dimm n = if ddrTakes dimms bad n then dimms.getD n 0 else 0 := by
  rw [trainDdr_eq, dimm_channelsSized hn, dimm_relayDdr, dimm_channelsFound hn]

theorem errCode_trainDdr {dimms : List Nat} {bad n : Nat} (hn : n < 12) (refused : ddrTakes dimms bad n = false)
    (held : dimms.getD n 0 ≠ 0 ∨ bit bad n = true) : ((d.trainDdr dimms bad).hdr (pgDdr n)).errCode = 0x0901 := by
  have none : (d.channelsFound dimms bad).relayDdr.dimm n = 0 := by
    rw [dimm_relayDdr, dimm_channelsFound hn, refused]; rfl
  have relaid : (d.channelsFound dimms bad).relayDdr.hdr (pgDdr n) = (d.channelsFound dimms bad).hdr (pgDdr n) :=
    kept_relayDdr (.hdr _) (by simp)
  rw [trainDdr_eq, hdr_channelsSized hn none, relaid, errCode_channelsFound hn refused held]

/-- The channels that hold a capacity are those that are populated. -/
theorem laid_channelsFound (dimms : List Nat) (bad : Nat) :
    ((List.range 12).filter fun n => (d.channelsFound dimms bad).dimm n != 0) = (List.range 12).filter (ddrTakes dimms bad) := by
  refine List.filter_congr fun n hn => ?_
  rw [dimm_channelsFound (List.mem_range.1 hn)]
  by_cases h : ddrTakes dimms bad n = true
  · have pos := (supportedDimm_le (Bool.and_eq_true_iff.1 h).1).1
    rw [if_pos h, h, bne_iff_ne]; omega
  · rw [if_neg h, eq_false_of_ne_true h]; rfl

theorem mem_trainDdr {dimms : List Nat} {bad : Nat}
    (h : d.ddrLaid = [] ∨ d.ddrLaid = (List.range 12).filter (ddrTakes dimms bad)) : (d.trainDdr dimms bad).mem = d.mem := by
  have found : (d.channelsFound dimms bad).mem = d.mem := (ddrTrained_channelsFound dimms bad .mem rfl).1
  have laid : (d.channelsFound dimms bad).ddrLaid = d.ddrLaid := ddrTrained_channelsFound dimms bad .ddrLaid rfl
  have sized {e : Dev} : e.channelsSized.mem = e.mem := (ddrTrained_channelsSized .mem rfl).1
  rw [trainDdr_eq, sized, mem_relayDdr (by rwa [laid, laid_channelsFound]), found]

/-! ### READY (R358, R426) -/

/-- The device as training leaves it, READY not yet raised; `next` is the generation to come. -/
def Dev.memoryTrained (d : Dev) (failing : Nat) (dimms : List Nat) (bad next : Nat) : Dev :=
  { ((d.trainHbm failing).trainDdr dimms bad).rebuildGens with genNext := next }

theorem kept_genNext (n : Nat) : d.Kept { d with genNext := n } [.genNext] := by
  intro x hx; cases x
  case genNext => exact absurd List.mem_cons_self hx
  all_goals first | exact rfl | exact ⟨rfl, rfl⟩ | exact ⟨rfl, rfl, rfl⟩ | exact fun _ _ => rfl

/-- The table of generations. -/
def Place.genTable : Place → Bool
  | .gen _ | .genNext => true
  | _ => false

theorem genTable_rebuilt (next : Nat) : d.KeptOutside { d.rebuildGens with genNext := next } Place.genTable := by
  refine (keptOutside_foldl _ (fun e i => ?_) _ d).trans ((kept_genNext _).outside (by simp [Place.genTable]))
  dsimp only
  split
  · exact (kept_modGen _ _).outside (by simp [Place.genTable])
  · exact .refl e

/-- The measurement of the module at READY. -/
def Dev.readyMeas (d : Dev) : Meas :=
  ⟨4, d.unusable, digest64 ((List.range 9).flatMap fun i => natLe 4 (d.hubIdWord (0x100 + 4 * i)))⟩

/-- READY of a device that is trained: its measurement, and the event. -/
def Chip.readied (c : Chip) (failing : Nat) (d : Dev) : Chip :=
  let failed := c.pow.unitFailed || failing % 256 != 0
  let p := { c.pow with mode := .ready, stage := 2, faultN := failed, unitFailed := failed }
  let c := (({ c with dev := d, pow := p } : Chip).extend d.readyMeas).1
  { c with pow := { c.pow with stage := 3 }, dev := c.dev.raise pgSec 1 }

theorem trained_eq {failing bad : Nat} {dimms : List Nat} (boot : c.pow.mode = .boot) (thawed : c.pow.frozen = false)
    (here : c.pow.stage = 2) (free : c.pow.stuck = false) :
    ∃ next, c.trained failing dimms bad = c.readied failing (c.dev.memoryTrained failing dimms bad next) := by
  unfold Chip.trained
  rw [if_neg (by simp [boot, thawed, here, free])]
  exact ⟨_, rfl⟩

theorem readied_eq (failing : Nat) (room : c.sec.log.length < 16) :
    let failed := c.pow.unitFailed || failing % 256 != 0
    c.readied failing d =
      { dev := d.raise pgSec 1, pow := { c.pow with mode := .ready, stage := 3, faultN := failed, unitFailed := failed }
        sec := c.sec.extended d.readyMeas } := by
  intro failed
  have measured := extend_eq
    (c := { c with dev := d, pow := { c.pow with mode := .ready, stage := 2, faultN := failed, unitFailed := failed } }) d.readyMeas room (by simp)
  exact congrArg (fun c : Chip => ({ c with pow := { c.pow with stage := 3 }, dev := c.dev.raise pgSec 1 } : Chip)) measured

end Sys2Proof.Machine
end

section
/-!
PROOF. The start-up sequence as a whole (R257, R306, R426–R431, R433, R435): each of its steps, and what it leaves.
-/
namespace Sys2Proof.Machine

variable {s : State} {d : Dev} {i : Instr}

/-! ### Steps of the sequence -/

/-- What a step leaves, where the module's next state is known. -/
theorem next_withAll {e : Dev} {p : Pow} {x : Sec} (f : Chip → Chip) (arm : exec i s = s.run f)
    (h : f s.chip = { dev := e, pow := p, sec := x }) :
    exec i s = .next (s.withAll e p x) := by
  rw [arm, State.run, h]; rfl

/-- An image runs: the links train, and the two measurements stand in the log. -/
theorem running_shows (x : Sec) (h body : List Byte) (slotB recovery : Bool) :
    let y := x.running h body slotB recovery
    y.log = x.log ++ [imageMeas h body, x.fuseMeas] ∧ y.chain = [imageMeas h body, x.fuseMeas].foldl extendChain x.chain :=
  ⟨List.append_assoc x.log [_] [_], rfl⟩

/-- What the table's rebuilding and the report of READY may touch. -/
def Place.atReady (x : Place) : Bool := x.genTable || x == .hdr pgSec

theorem atReady_memoryTrained (failing : Nat) (dimms : List Nat) (bad next : Nat) :
    ((d.trainHbm failing).trainDdr dimms bad).KeptOutside ((d.memoryTrained failing dimms bad next).raise pgSec 1) Place.atReady :=
  ((genTable_rebuilt next).mono fun _ h => by simp [Place.atReady, h]).trans
    ((kept_raise _ _).outside (by simp [Place.atReady]))

theorem atReady_hdr {g : Nat} (h : g ≠ pgSec) : (Place.hdr g).atReady = false := by simp [Place.atReady, Place.genTable, h]

/-- What memory training leaves of a stack, a die, a channel, the cores and memory. -/
theorem memoryTrained_shows (failing : Nat) (dimms : List Nat) (bad next : Nat) :
    let e := (d.memoryTrained failing dimms bad next).raise pgSec 1
    bit (e.hdr pgSec).raw.toNat 1 = true ∧
    (∀ st, st < 8 ∧ bit failing st = true → (e.die (st / 2)).unusable = true ∧ (e.hdr (pgHbmc st)).errCode = 0x0808) ∧
    (∀ c, ¬(2 * c < 8 ∧ bit failing (2 * c) = true) → ¬(2 * c + 1 < 8 ∧ bit failing (2 * c + 1) = true) →
      (e.die c).unusable = (d.die c).unusable) ∧
    (∀ n < 12, e.dimm n = if ddrTakes dimms bad n then dimms.getD n 0 else 0) ∧
    (∀ n < 12, ddrTakes dimms bad n = false → dimms.getD n 0 ≠ 0 ∨ bit bad n = true → (e.hdr (pgDdr n)).errCode = 0x0901) ∧
    (∀ i, e.core i = d.core i) ∧
    (d.ddrLaid = [] ∨ d.ddrLaid = (List.range 12).filter (ddrTakes dimms bad) → e.mem = d.mem) := by
  intro e
  have rebuilt : ((d.trainHbm failing).trainDdr dimms bad).KeptOutside e Place.atReady := atReady_memoryTrained failing dimms bad next
  have hbm := hbmTrained_trainHbm (d := d) failing
  have die (n : Nat) : e.die n = (d.trainHbm failing).die n :=
    Eq.trans (rebuilt (.die n) rfl) (trainDdr_same dimms bad (x := .die n) rfl (by simp))
  have stack (st : Nat) : e.hdr (pgHbmc st) = (d.trainHbm failing).hdr (pgHbmc st) :=
    Eq.trans (rebuilt (.hdr _) (atReady_hdr (by simp only [pgHbmc, pgDie, pgSec]; omega)))
      (trainDdr_same dimms bad (x := .hdr (pgHbmc st)) (decide_eq_false (by simp only [pgHbmc, pgDie]; omega)) (by simp))
  refine ⟨?_, fun st ⟨hst, failed⟩ => ?_, fun c even odd => ?_, fun n hn => ?_,
    fun n hn refused held => ?_, fun k => ?_, fun laid => ?_⟩
  · rw [hdr_raise_self]
    exact bit_raised_raw _ (by decide)
  · rw [die, stack]
    exact trainHbm_failed hst failed
  · rw [die]
    refine trainHbm_spared fun st hst hc => eq_false_of_ne_true fun failed => ?_
    obtain rfl | rfl : st = 2 * c ∨ st = 2 * c + 1 := by omega
    · exact even ⟨hst, failed⟩
    · exact odd ⟨hst, failed⟩
  · have found : e.reg (pgDdr n) 0x100 = ((d.trainHbm failing).trainDdr dimms bad).reg (pgDdr n) 0x100 :=
      rebuilt (.reg _ _) rfl (by decide) fun h => pgDdr_ne_pgRailjor hn h.1
    rw [Dev.dimm, found]
    exact dimm_trainDdr hn
  · have channel : e.hdr (pgDdr n) = ((d.trainHbm failing).trainDdr dimms bad).hdr (pgDdr n) :=
      rebuilt (.hdr _) (atReady_hdr (by simp only [pgDdr, pgSec]; omega))
    rw [channel]
    exact errCode_trainDdr hn refused held
  · exact Eq.trans (rebuilt (.core k) rfl) (Eq.trans (trainDdr_same dimms bad (x := .core k) rfl (by simp)) (hbm (.core k) rfl))
  · have before : (d.trainHbm failing).ddrLaid = d.ddrLaid := hbm .ddrLaid rfl
    exact (rebuilt .mem rfl).1.trans ((mem_trainDdr (by rwa [before])).trans (hbm .mem rfl).1)

/-- The next state of an accepted image, whichever way it came. -/
theorem running_links : let e := d.enableLinks
    (∀ n < 36, e.reg (pgLink n) 0x104 = d.reg (pgLink n) 0x104 ||| 2 ^ 31 ∧
      e.link n = if (d.link n).state = .disabled then { d.link n with state := .training } else d.link n) ∧
    d.KeptOutside e Place.linkEn := ⟨fun _ hn => enableLinks_link hn, linkEn_enableLinks⟩

section
variable (boot : s.pow.mode = .boot) (thawed : s.pow.frozen = false)
include boot

theorem hubRails_step (room : s.sec.log.length + 2 ≤ 16) (down : s.pow.hubRails = false) :
    ∃ e y, exec .hubRailsInRegulation s = .next (s.withAll e { s.pow with hubRails := true, stage := 0 } y) ∧ e.time = 0 ∧
      y.log = s.sec.log ++ [romMeas] ∧ y.chain = [romMeas].foldl extendChain s.sec.chain ∧
      (certSound = false → (e.hdr pgSec).errCode = 0x0E06 ∧ y.signingOff = true) ∧
      (certSound = true → y.signingOff = s.sec.signingOff) ∧ s.dev.Kept e [.time, .hdr pgSec, .hdr pgDbg, .log] := by
  have step := hubRails_eq boot down (Nat.lt_of_lt_of_le (Nat.lt_add_of_pos_right (by decide)) room)
  cases sound : certSound with
  | true =>
    rw [sound] at step
    exact ⟨_, _, next_withAll (·.hubRails) rfl step, rfl, rfl, rfl, nofun, fun _ => rfl, kept_timeZero.mono (by simp)⟩
  | false =>
    rw [sound] at step
    exact ⟨_, _, next_withAll (·.hubRails) rfl step, Dev.secError_time _ _ _, rfl, rfl, fun _ => ⟨secFailed_timeZero.1, rfl⟩, nofun,
      kept_timeZero_secError⟩

include thawed

theorem dieRails_step (hub : s.pow.hubRails = true) (down : s.pow.dieRails = false) :
    ∃ e q, exec .dieRailsInRegulation s = .next (s.withAll e q s.sec) ∧
      q = { s.pow with dieRails := true, stage := if s.pow.stage = 0 then 1 else s.pow.stage } ∧ q.pwrGood = .released ∧
      (∀ c < 4, ∀ i < 3, e.d2d c i = 1) ∧ s.dev.KeptOutside e Place.d2dState :=
  ⟨_, _, next_withAll (·.dieRails) rfl (dieRails_eq boot thawed hub down), rfl, by simp [Pow.pwrGood, boot],
    fun _ hc _ hi => d2d_meshBegun hc hi, d2dState_meshBegun⟩

theorem recoveryLoad_step {off : Nat} {bytes : List Byte} (here : s.pow.stage = 4) (full : bytes.length = 256)
    (fits : off + 256 ≤ 2 ^ 25) :
    ∃ y, exec (.recoveryLoad off bytes) s = .next (s.withAll s.dev s.pow y) ∧ y = { s.sec with image := y.image } ∧
      y.image.read off 256 = bytes ∧ (s.sec.image.wf = true → y.image.wf = true) ∧
      ∀ a, a < off ∨ off + 256 ≤ a → y.image.readByte a = s.sec.image.readByte a := by
  have run := next_withAll (s := s) (i := .recoveryLoad off bytes) (·.recoveryLoad off bytes) rfl (recoveryLoad_eq boot thawed here full fits)
  have read := read_write s.sec.image off bytes
  rw [full] at read
  exact ⟨_, run, rfl, read, fun h => wf_write h _ _, fun _ ha => readByte_write_outside (by rwa [full])⟩

theorem memoryTraining_step {failing bad : Nat} {dimms : List Nat} (room : s.sec.log.length + 2 ≤ 16) (here : s.pow.stage = 2)
    (free : s.pow.stuck = false) : ∃ (next : Nat) (q : Pow) (y : Sec),
    exec (.memoryTrainingDone failing dimms bad) s =
      .next (s.withAll ((s.dev.memoryTrained failing dimms bad next).raise pgSec 1) q y) ∧ q.mode = .ready ∧ q.stage = 3 ∧
    q.faultN = (s.pow.unitFailed || failing % 256 != 0) ∧ y.log.length = s.sec.log.length + 1 ∧ y.log.getLast?.map (·.typ) = some 4 := by
  obtain ⟨next, step⟩ := trained_eq (failing := failing) (dimms := dimms) (bad := bad) boot thawed here free
  have run := next_withAll (s := s) (i := .memoryTrainingDone failing dimms bad) (·.trained failing dimms bad) rfl
    (step.trans (readied_eq failing (Nat.lt_of_lt_of_le (Nat.lt_add_of_pos_right (by decide)) room)))
  refine ⟨next, _, _, run, rfl, rfl, rfl, ?_, ?_⟩
  · simp [Sec.extended]
  · simp [Sec.extended, Dev.readyMeas]
end

/-- Settles O41: each step's effect as its own lemma states it; an image that runs leaves the links training, and each error is the
last that its step sets. -/
theorem startUp : Obligations.StartUp := by
  intro s slot off failing bad dimms bytes boot thawed room d p x extended ran err key sound h body h' body' failed takes
  have runs {c : Instr} {h body : List Byte} {b rec fault : Bool}
      (step : exec c s = .next (s.withAll d.enableLinks { p with stage := 2, faultN := fault } (x.running h body b rec))) :
      ran c h body b rec fault := by
    obtain ⟨links, kept⟩ := running_links (d := d)
    exact ⟨_, _, step, rfl, rfl, links, kept.mono fun y hy => by cases y <;> exact hy, running_shows x h body b rec,
      rfl, rfl, rfl, rfl, rfl⟩
  have errs {c : Instr} {code : Nat} {e : Dev} {q : Pow} {y : Sec} (step : exec c s = .next (s.withAll e q y))
      (shows : d.secFailed e code) : err c code q y := ⟨e, step, shows⟩
  refine ⟨fun down => ?_, fun hub down => ?_, fun here tried => ⟨fun clean quiet => ?_, fun wrong fresh => ?_, fun wrong again => ?_⟩,
    fun here full fits => recoveryLoad_step boot thawed here full fits, fun here => ⟨fun clean => ?_, fun wrong => ?_⟩,
    fun here free _ => ?_, fun late => ?_⟩
  · obtain ⟨e, y, run, time, log, chain, unsigned, signed, kept⟩ := hubRails_step boot room down
    exact ⟨e, y, run, time, ⟨log, chain⟩, unsigned, signed, kept⟩
  · obtain ⟨e, q, run, pow, good, ports, kept⟩ := dieRails_step boot thawed hub down
    exact ⟨e, q, run, pow, good, ports, kept.mono fun y hy => by cases y <;> exact hy⟩
  · refine runs (next_withAll (·.firmwareVerified slot) rfl ((firmwareVerified_runs boot thawed here tried clean).trans
      ((runImage_eq _ _ _ _ room (by rw [here]; decide)).trans ?_)))
    rw [← quiet]
  · obtain ⟨info, step⟩ := firmwareVerified_first boot thawed here tried wrong fresh
    exact errs (next_withAll (·.firmwareVerified slot) rfl step) (secFailed_secError _ _)
  · obtain ⟨info, step⟩ := firmwareVerified_second boot thawed here tried wrong again
    exact errs (next_withAll (·.firmwareVerified slot) rfl step) (secFailed_again (secFailed_secError _ _) _ _)
  · exact runs (next_withAll (·.recoveryGo) rfl (recoveryGo_runs boot thawed here clean room))
  · obtain ⟨info, step⟩ := recoveryGo_fails boot thawed here wrong
    exact errs (next_withAll (·.recoveryGo) rfl step) (secFailed_secError _ _)
  · obtain ⟨next, q, y, run, mode, stage, fault, count, last⟩ :=
      memoryTraining_step (failing := failing) (bad := bad) (dimms := dimms) boot thawed room here free
    obtain ⟨event, perStack, rest⟩ := memoryTrained_shows (d := d) failing dimms bad next
    exact ⟨_, q, y, run, mode, stage, fault, event, count, last, perStack, rest⟩
  · exact errs (next_withAll (·.bootTimeout) rfl (bootTimeout_eq boot thawed late)) (secFailed_secError _ _)

end Sys2Proof.Machine
end

section
/-!
PROOF. Shared by the statements of Chapter 11: pages and configuration of links, and what sending on a link leaves alone.
-/
namespace Sys2Proof.Machine

variable {d e f : Dev} {n i : Nat}

/-! ### Pages of links -/

theorem pgLink_inj {a b : Nat} : pgLink a = pgLink b ↔ a = b := by unfold pgLink pgDie; omega

theorem pgLink_ne_pgColl (n c : Nat) : pgLink n ≠ pgColl c := by unfold pgLink pgColl pgDie; omega

theorem pgLink_ne_pgDbg (n : Nat) : pgLink n ≠ pgDbg := by unfold pgLink pgDie pgDbg; omega

theorem pgColl_ne_pgDbg (c : Nat) : pgColl c ≠ pgDbg := by unfold pgColl pgDie pgDbg; omega

theorem pgLink_ne_pgRailjor (n : Nat) : pgLink n ≠ pgRailjor := by unfold pgLink pgDie pgRailjor; omega

/-! ### CFG, and the trunk that follows from it (R307) -/

theorem lnWidth_congr (h : ∀ i, e.lnCfg i = d.lnCfg i) (n : Nat) : e.lnWidth n = d.lnWidth n := by
  unfold Dev.lnWidth; rw [h]

theorem retrainLimit_congr (h : ∀ i, e.lnCfg i = d.lnCfg i) (n : Nat) : e.retrainLimit n = d.retrainLimit n := by
  unfold Dev.retrainLimit; rw [h]

theorem lnCfg_setReg {pg off : Nat} (w : Nat) (ho : off < 4096) (hne : off ≠ 0x104) (i : Nat) :
    (d.setReg pg off w).lnCfg i = d.lnCfg i :=
  Dev.reg_setReg_ne _ _ (regKey_ne (by decide) ho (.inr hne.symm))

theorem lnCfg_of_keptOutside {area : Place → Bool} (h : d.KeptOutside e area) (ha : ∀ i, area (.reg (pgLink i) 0x104) = false) (i : Nat) :
    e.lnCfg i = d.lnCfg i :=
  h (.reg (pgLink i) 0x104) (ha i) (by decide) fun hn => by simp [evMergedKey] at hn

theorem lnMembers_single (h : d.lnWidth n < 2) : d.lnMembers n = [n] := if_pos h

/-- A link that is no member of a trunk keeps its own state (R308). -/
theorem lnHome_single (h : d.lnWidth n < 2) : d.lnHome n = n := by rw [Dev.lnHome, lnMembers_single h]; rfl

theorem lnWidth_lt_two (h : bits (d.lnCfg n) 26 24 < 2) : d.lnWidth n < 2 := by rw [Dev.lnWidth, if_pos h]; decide

/-- A trunk's members are different links: each has a member number of its own. -/
theorem nodup_lnMembers (d : Dev) (n : Nat) : (d.lnMembers n).Nodup := by
  unfold Dev.lnMembers
  split
  · exact List.nodup_singleton n
  · refine List.Nodup.filterMap (fun a b x ha hb => ?_) List.nodup_range
    have fst := List.find?_some ha
    have snd := List.find?_some hb
    exact (beq_iff_eq.1 fst).symm.trans (beq_iff_eq.1 snd)

/-! ### What sending leaves alone (R296, R302) -/

/-- A link's state without what sending on it changes: its flits, their numbers and credits, and the turns. -/
def LinkSt.rest (x : LinkSt) : LinkSt :=
  { x with txSeq := 0, retry := [], waiting := [], lcSent := 0, lcSent2 := 0, lastLc := 0, turn1 := 0, turn2 := 0 }

/-- Something was sent on links: only their flits, registers and what has left the module differ. -/
structure Dev.Sends (d e : Dev) : Prop where
  only : ∃ links regs out, e = { d with links, regs, out }
  rest : ∀ i, (e.link i).rest = (d.link i).rest

theorem Dev.Sends.refl (d : Dev) : d.Sends d := ⟨⟨_, _, _, rfl⟩, fun _ => rfl⟩

theorem Dev.Sends.trans (h : d.Sends e) (h' : e.Sends f) : d.Sends f := by
  obtain ⟨⟨_, _, _, rfl⟩, hr⟩ := h
  obtain ⟨⟨_, _, _, rfl⟩, hr'⟩ := h'
  exact ⟨⟨_, _, _, rfl⟩, fun i => (hr' i).trans (hr i)⟩

section
variable (h : d.Sends e)
include h

theorem Dev.Sends.hdr (g : Nat) : e.hdr g = d.hdr g := by obtain ⟨⟨_, _, _, rfl⟩, -⟩ := h; rfl
theorem Dev.Sends.core (k : Nat) : e.core k = d.core k := by obtain ⟨⟨_, _, _, rfl⟩, -⟩ := h; rfl
theorem Dev.Sends.coll (c : Nat) : e.coll c = d.coll c := by obtain ⟨⟨_, _, _, rfl⟩, -⟩ := h; rfl
theorem Dev.Sends.time : e.time = d.time := by obtain ⟨⟨_, _, _, rfl⟩, -⟩ := h; rfl

/-- Sending leaves each part of a link's state that it does not use. -/
theorem Dev.Sends.link {γ : Type} (part : LinkSt → γ) (hp : ∀ x, part x.rest = part x) (i : Nat) : part (e.link i) = part (d.link i) := by
  rw [← hp, h.rest, hp]

end

theorem sends_modLn (n : Nat) {g : LinkSt → LinkSt} (hg : ∀ x, (g x).rest = x.rest) : d.Sends (d.modLn n g) := by
  refine ⟨⟨_, _, _, rfl⟩, fun i => ?_⟩
  by_cases hi : i = d.lnHome n
  · rw [hi, Dev.modLn, Dev.link_modLink_self, hg]
  · rw [Dev.modLn, Dev.link_modLink_ne _ _ _ hi]

theorem sends_firstSend (n : Nat) (x : LnFlit) : d.Sends (d.firstSend n x) := by
  have counted (e : Dev) (pg off v : Nat) : e.Sends (e.bump64 pg off v) := by
    unfold Dev.bump64
    split
    · exact .refl e
    · exact ⟨⟨_, _, _, rfl⟩, fun _ => rfl⟩
  unfold Dev.firstSend
  dsimp only
  refine ((sends_modLn n ?_).trans (counted _ _ _ _)).trans ⟨⟨_, _, _, rfl⟩, fun _ => rfl⟩
  exact fun _ => rfl

theorem sends_drainLink (n fuel : Nat) : d.Sends (d.drainLink n fuel) := by
  induction fuel generalizing d with
  | zero => exact .refl d
  | succ fuel ih =>
    unfold Dev.drainLink
    dsimp only
    split
    · refine ((sends_modLn n ?_).trans (sends_firstSend n _)).trans ih
      exact fun _ => rfl
    · split
      · exact .refl d
      · refine ((sends_modLn n ?_).trans (sends_firstSend n _)).trans ih
        exact fun _ => rfl

theorem sends_drainAll (n : Nat) : d.Sends (d.drainAll n) := sends_drainLink n _

theorem sends_sendRecord (n ty : Nat) (body : List Byte) : d.Sends (d.sendRecord n ty body) := by
  unfold Dev.sendRecord Dev.pushFlit
  refine (sends_modLn n ?_).trans (sends_drainLink n _)
  exact fun _ => rfl

/-! ### Folds over different members -/

/-- A fold over different elements, whose step at `a` changes a view of the state by `t`, and whose other steps leave it alone. -/
theorem foldl_once {σ α γ : Type} {g : σ → α → σ} (view : σ → γ) (t : γ → γ) {a : α} (hit : ∀ e, view (g e a) = t (view e))
    (miss : ∀ e c, c ≠ a → view (g e c) = view e) {cs : List α} (hn : cs.Nodup) (ha : a ∈ cs) (e : σ) :
    view (cs.foldl g e) = t (view e) := by
  induction cs generalizing e with
  | nil => cases ha
  | cons c cs ih =>
    obtain ⟨fresh, rest⟩ := List.nodup_cons.1 hn
    rw [List.foldl_cons]
    by_cases hc : c = a
    · subst hc
      rw [← hit]
      exact List.foldlRecOn (motive := fun x => view x = view (g e c)) cs g rfl fun x hx y hy =>
        (miss x y fun h => fresh (h ▸ hy)).trans hx
    · rw [ih rest ((List.mem_cons.1 ha).resolve_left (Ne.symm hc)), miss e c hc]

/-- A fold whose steps each make `P` hold of their element, and spoil it of none, makes it hold of all. -/
theorem foldl_settles {σ α : Type} {g : σ → α → σ} {P : α → σ → Prop} (hit : ∀ e c, P c (g e c))
    (keeps : ∀ e c a, P a e → P a (g e c)) (cs : List α) (e : σ) : ∀ a ∈ cs, P a (cs.foldl g e) := by
  induction cs generalizing e with
  | nil => intro a ha; cases ha
  | cons c cs ih =>
    intro a ha
    obtain rfl | ha := List.mem_cons.1 ha
    · exact List.foldlRecOn (motive := P a) cs g (hit e a) fun x hx y _ => keeps x y a hx
    · exact ih _ a ha

theorem keptOutside_foldl_mem {α : Type} {area : Place → Bool} (g : Dev → α → Dev) {cs : List α}
    (h : ∀ e, ∀ c ∈ cs, Dev.KeptOutside e (g e c) area) (d : Dev) : d.KeptOutside (cs.foldl g d) area := by
  induction cs generalizing d with
  | nil => exact .refl d
  | cons c cs ih => exact (h d c (by simp)).trans (ih (fun e a ha => h e a (by simp [ha])) _)

/-- Each member of a trunk reports an event (R309). -/
theorem hdr_raiseMembers {b m : Nat} (hm : m ∈ d.lnMembers n) (e : Dev) :
    ((d.lnMembers n).foldl (fun e m => e.raise (pgLink m) b) e).hdr (pgLink m) = (e.hdr (pgLink m)).raised b :=
  foldl_once (a := m) (g := fun e m => e.raise (pgLink m) b) (fun e : Dev => e.hdr (pgLink m)) (·.raised b) (fun _ => hdr_raise_self _ _)
    (fun _ _ hc => hdr_raise_ne fun h => hc (pgLink_inj.1 h).symm) (nodup_lnMembers d n) hm e

/-- A place that is the header of a member's page. -/
def Dev.memberHdr (d : Dev) (n : Nat) : Place → Bool
  | .hdr g => (d.lnMembers n).any fun m => g == pgLink m
  | _ => false

theorem keptOutside_raiseMembers (b : Nat) (e : Dev) :
    e.KeptOutside ((d.lnMembers n).foldl (fun e m => e.raise (pgLink m) b) e) (d.memberHdr n) :=
  keptOutside_foldl_mem _ (fun _ m hm => (kept_raise (pgLink m) b).outside (by simpa [Dev.memberHdr] using ⟨m, hm, rfl⟩)) e

end Sys2Proof.Machine
end

section
/-!
PROOF. Writes of LINK.CFG (R305, R307, R332): refused, or a link that is enabled or disabled.
-/
namespace Sys2Proof.Machine

variable {s : State} {d : Dev} {n : Nat} {w : Word}

/-! ### The register -/

theorem pageType_pgLink : ∀ {n : Nat}, n < 36 → pageType (pgLink n) = 0x15 := by decide

theorem pageInstance_pgLink : ∀ {n : Nat}, n < 36 → pageInstance (pgLink n) = n := by decide

theorem pgLink_plain : ∀ {n : Nat}, n < 36 → pgLink n < 0x20000 ∧ pgLink n ∉ [pgDbg, pgPwr, pgSec, pgPart] := by decide

theorem exec_linkCfgWrite (h : s.Up) (hn : n < 36) :
    exec (.linkCfgWrite n w) s = .next (s.written (s.dev.linkCfgWrite n w)) := by
  obtain ⟨low, plain⟩ := pgLink_plain hn
  have page : s.dev.writePage {} (pgLink n) 0x104 w = s.dev.linkCfgWrite n w := by
    unfold Dev.writePage; rw [pageType_pgLink hn, pageInstance_pgLink hn]; rfl
  have live : s.dev.pageLive (pgLink n) = true := by simp [Dev.pageLive, pageType_pgLink hn, low]
  rw [← page, ← run_busWrite_page h live plain (by decide) (by decide) (by decide)]
  change State.runIf _ (decide (n < 36)) _ = _
  rw [decide_eq_true hn]; rfl

/-! ### Refusals (R307) -/

/-- The word written, as far as its bits are not reserved. -/
def cfgWord (w : Word) : Nat := w.toNat &&& linkCfgMask

theorem cfgWord_lt (w : Word) : cfgWord w < 2 ^ 32 := Nat.and_lt_two_pow _ (by decide)

theorem linkCfgWrite_trunk (h : (cfgWord w ^^^ d.lnCfg n) &&& linkTrunkMask ≠ 0) (hs : d.lnState n ≠ .disabled) :
    d.linkCfgWrite n w = d.linkError n 0x0A04 := if_pos ⟨h, hs⟩

theorem linkCfgWrite_wide (h : 5 ≤ bits (cfgWord w) 26 24) : d.linkCfgWrite n w = d.linkError n 0x0A04 := by
  unfold Dev.linkCfgWrite
  exact (ite_eq_left_iff.2 fun _ => if_pos h)

theorem errCode_linkError (n code : Nat) : ((d.linkError n code).hdr (pgLink n)).errCode = code :=
  errCode_setError _ _ _ (pgLink_ne_pgDbg n)

/-! ### EN written 1 (R305) -/

/-- The device with the word in CFG. -/
def Dev.cfgSet (d : Dev) (n : Nat) (w : Word) : Dev := d.setReg (pgLink n) 0x104 (cfgWord w)

theorem reg_cfgSet (n : Nat) (w : Word) : (d.cfgSet n w).reg (pgLink n) 0x104 = cfgWord w :=
  (Dev.reg_setReg_self _ _ _ _).trans (Nat.mod_eq_of_lt (cfgWord_lt w))

theorem kept_cfgSet (n : Nat) (w : Word) : d.Kept (d.cfgSet n w) [.reg (pgLink n) 0x104] := kept_setReg _ _ _ (by decide)

theorem lnWidth_cfgSet (h : bits (cfgWord w) 26 24 < 2) : (d.cfgSet n w).lnWidth n < 2 :=
  lnWidth_lt_two (by rw [Dev.lnCfg, reg_cfgSet]; exact h)

/-- A single link that is DISABLED begins its training. -/
theorem linkCfgWrite_enables (hv : bit (cfgWord w) 31 = true) (ho : bit (d.lnCfg n) 31 = false) (hw : bits (cfgWord w) 26 24 < 2)
    (hd : (d.link n).state = .disabled) :
    d.linkCfgWrite n w = (d.cfgSet n w).modLink n fun x => { x.discard with state := .training } := by
  have off : d.lnState n = .disabled := if_neg (by simp [Dev.lnEn, ho])
  have single := lnWidth_cfgSet (d := d) (n := n) hw
  have home := lnHome_single single
  unfold Dev.linkCfgWrite
  refine (if_neg fun h => h.2 off).trans ((if_neg (Nat.not_le.2 (hw.trans (by decide)))).trans ((if_pos ?_).trans
    ((if_neg fun h => absurd h.1 (Nat.not_le.2 single)).trans ((if_pos ?_).trans ?_))))
  · change (bit (cfgWord w) 31 && !bit (d.lnCfg n) 31) = true
    rw [hv, ho]; rfl
  · change ((d.cfgSet n w).link ((d.cfgSet n w).lnHome n)).state = .disabled
    rw [home]; exact hd
  · change (d.cfgSet n w).modLink ((d.cfgSet n w).lnHome n) _ = _
    rw [home]

/-! ### EN written 0 (R305) -/

/-- The trunk fields of two words that agree under their mask are the same. -/
theorem trunkWidth_of_xor {a b : Nat} (h : (a ^^^ b) &&& linkTrunkMask = 0) : bits a 26 24 = bits b 26 24 := by
  refine Nat.eq_of_testBit_eq fun j => ?_
  have at_ : ∀ j < 3, a.testBit (24 + j) = b.testBit (24 + j) := fun j hj => by
    have mask : linkTrunkMask.testBit (24 + j) = true := (by decide : ∀ j < 3, linkTrunkMask.testBit (24 + j) = true) j hj
    have same := congrArg (Nat.testBit · (24 + j)) h
    simpa [Nat.testBit_and, Nat.testBit_xor, mask] using same
  unfold bits
  rw [Nat.testBit_mod_two_pow, Nat.testBit_mod_two_pow, Nat.testBit_shiftRight, Nat.testBit_shiftRight]
  by_cases hj : j < 3
  · rw [at_ j hj]
  · simp [hj]

/-- The device with link n's buffers discarded and its lanes no longer locked, once it has reported that it left ACTIVE. -/
def Dev.switchedOff (d : Dev) (n : Nat) : Dev :=
  ((d.modLink n LinkSt.discard).setReg (pgLink n) 0x160 (d.reg (pgLink n) 0x160 % 2 ^ 28)).raiseIf (d.lnActive n) (pgLink n) 2

theorem linkOff_single (h : d.lnWidth n < 2) : d.linkOff n = d.switchedOff n := by
  have after : ((d.modLink n LinkSt.discard).setReg (pgLink n) 0x160 (d.reg (pgLink n) 0x160 % 2 ^ 28)).lnMembers n = [n] :=
    lnMembers_single (by rw [lnWidth_congr (lnCfg_setReg _ (by decide) (by decide))]; exact h)
  unfold Dev.linkOff
  have alone : ((d.lnMembers n).any fun m => m != n && d.lnEn m) = false := by rw [lnMembers_single h]; simp
  dsimp only
  rw [alone, Dev.modLn, lnHome_single h]
  change List.foldl _ _ (((d.modLink n LinkSt.discard).setReg (pgLink n) 0x160 (d.reg (pgLink n) 0x160 % 2 ^ 28)).lnMembers n) = _
  rw [after]; rfl

theorem linkCfgWrite_disables (hv : bit (cfgWord w) 31 = false) (ho : bit (d.lnCfg n) 31 = true)
    (ht : (cfgWord w ^^^ d.lnCfg n) &&& linkTrunkMask = 0) (hw : bits (d.lnCfg n) 26 24 < 2) :
    d.linkCfgWrite n w = (d.switchedOff n).cfgSet n w := by
  rw [← linkOff_single (lnWidth_lt_two hw)]
  unfold Dev.linkCfgWrite
  refine (if_neg fun h => h.1 ht).trans ((if_neg ?_).trans ((if_neg ?_).trans (if_pos ?_)))
  · change ¬5 ≤ bits (cfgWord w) 26 24
    rw [trunkWidth_of_xor ht]; omega
  · change ¬(bit (cfgWord w) 31 && !bit (d.lnCfg n) 31) = true
    rw [hv]; exact Bool.false_ne_true
  · change (bit (d.lnCfg n) 31 && !bit (cfgWord w) 31) = true
    rw [hv, ho]; rfl

theorem link_switchedOff : (d.switchedOff n).link n = (d.link n).discard := by
  rw [Dev.switchedOff, (reports_raiseIf _ _ _).link]; exact Dev.link_modLink_self _ _ _

theorem hdr_switchedOff (h : d.lnActive n = true) : (d.switchedOff n).hdr (pgLink n) = (d.hdr (pgLink n)).raised 2 := by
  rw [Dev.switchedOff, hdr_raiseIf_self, h]; rfl

theorem kept_switchedOff : d.Kept (d.switchedOff n) [.link n, .reg (pgLink n) 0x160, .hdr (pgLink n)] :=
  ((kept_modLink n _).trans (kept_setReg _ _ _ (by decide))).trans (kept_raiseIf _ _ _)

/-- Settles O27: a refusal sets its error; EN sets the state of a single link, and CFG takes the word. -/
theorem linkConfig : Obligations.LinkConfig := by
  intro s n w h hn d v old refused
  have run : exec (.linkCfgWrite n w) s = .next (s.written (d.linkCfgWrite n w)) := exec_linkCfgWrite h hn
  have refuses (hr : d.linkCfgWrite n w = d.linkError n 0x0A04) : refused :=
    ⟨_, run.trans (by rw [hr]), errCode_linkError n _, kept_linkError n _⟩
  refine ⟨fun ht hs => refuses (linkCfgWrite_trunk ht hs), fun hw => refuses (linkCfgWrite_wide hw),
    fun hv ho hw _ hs => ?_, fun hv ho ht hw => ?_⟩
  · rw [linkCfgWrite_enables hv ho hw hs] at run
    exact ⟨_, run, Dev.link_modLink_self _ _ _, reg_cfgSet n w, ((kept_cfgSet n w).trans (kept_modLink n _)).mono (by simp)⟩
  · rw [linkCfgWrite_disables hv ho ht hw] at run
    refine ⟨_, run, link_switchedOff, reg_cfgSet n w, fun ha => ?_, (kept_switchedOff.trans (kept_cfgSet n w)).outside (by simp)⟩
    have shown : ((d.switchedOff n).cfgSet n w).hdr (pgLink n) = (d.hdr (pgLink n)).raised 2 := hdr_switchedOff ha
    rw [shown]; exact bit_raised_raw _ (by decide)

end Sys2Proof.Machine
end

section
/-!
PROOF. The training of a link (R289, R303, R306): lanes, HELLO, and the limit.
-/
namespace Sys2Proof.Machine

variable {s : State} {d : Dev} {n m lane : Nat}

/-! ### Lanes that lock (R306) -/

/-- The device with one more lane of link n shown locked. -/
def Dev.laneShown (d : Dev) (n lane : Nat) : Dev := d.setReg (pgLink n) 0x160 (d.reg (pgLink n) 0x160 ||| 2 ^ (28 + lane))

/-- The link with that lane locked; its limit starts with the first. -/
def LinkSt.laneLocked (x : LinkSt) (lane limit : Nat) : LinkSt :=
  { x with locked := x.locked ||| 2 ^ lane, deadline := if x.deadline.isSome then x.deadline else some limit }

theorem reg_laneShown (hl : lane < 4) :
    (d.laneShown n lane).reg (pgLink n) 0x160 = d.reg (pgLink n) 0x160 ||| 2 ^ (28 + lane) := by
  have lt : d.reg (pgLink n) 0x160 ||| 2 ^ (28 + lane) < 2 ^ 32 :=
    Nat.or_lt_two_pow (BitVec.isLt _) (Nat.pow_lt_pow_right (by decide) (by omega))
  exact (Dev.reg_setReg_self _ _ _ _).trans (Nat.mod_eq_of_lt lt)

theorem laneLock_eq (hs : d.lnState n = .training) (hl : lane < 4) : d.laneLock n lane =
    (d.laneShown n lane).modLink (d.lnHome n) fun x => x.laneLocked lane (d.time + d.retrainLimit n) := by
  have cfg := fun i => lnCfg_setReg (d := d) (pg := pgLink n) (d.reg (pgLink n) 0x160 ||| 2 ^ (28 + lane))
    (off := 0x160) (by decide) (by decide) i
  unfold Dev.laneLock
  rw [if_neg (by simp [hs, hl]), Dev.modLn, lnHome_congr cfg, retrainLimit_congr cfg]
  rfl

/-! ### Training done (R289, R303) -/

theorem laneOrder_lt (v : Nat) : laneOrder v < 2 ^ 24 := by
  have small : ∀ a < 4, ∀ b < 3, ∀ c < 2, laneOrder (a + 4 * b + 12 * c) < 2 ^ 24 := by decide
  have same : laneOrder v = laneOrder (v % 4 + 4 * (v / 4 % 3) + 12 * (v / 12 % 2)) := by
    unfold laneOrder
    rw [show (v % 4 + 4 * (v / 4 % 3) + 12 * (v / 12 % 2)) % 4 = v % 4 by omega,
      show (v % 4 + 4 * (v / 4 % 3) + 12 * (v / 12 % 2)) / 4 % 3 = v / 4 % 3 by omega,
      show (v % 4 + 4 * (v / 4 % 3) + 12 * (v / 12 % 2)) / 12 % 2 = v / 12 % 2 by omega]
  rw [same]
  exact small _ (Nat.mod_lt _ (by decide)) _ (Nat.mod_lt _ (by decide)) _ (Nat.mod_lt _ (by decide))

theorem lanesWord_lt (p v : Nat) : 0xF0000000 + p % 16 * 2 ^ 24 + laneOrder v < 2 ^ 32 := by
  have := laneOrder_lt v
  omega

/-- LANES of link m shows every lane locked, with some polarity and order. -/
def Dev.Trained (d : Dev) (m : Nat) : Prop :=
  ∃ polarity order, d.reg (pgLink m) 0x160 = 0xF0000000 + polarity % 16 * 2 ^ 24 + laneOrder order

theorem trained_lanesFound (d : Dev) (m : Nat) : (d.lanesFound m).Trained m := by
  refine ⟨d.free.1.toNat, d.free.1.toNat / 16, ?_⟩
  exact (Dev.reg_setReg_self _ _ _ _).trans (Nat.mod_eq_of_lt (lanesWord_lt _ _))

theorem trained_lanesFound_of_trained {a : Nat} (c : Nat) (h : d.Trained a) : (d.lanesFound c).Trained a := by
  by_cases hc : a = c
  · rw [hc]; exact trained_lanesFound d c
  · obtain ⟨p, o, h⟩ := h
    have other : pgLink a ≠ pgLink c := fun he => hc (pgLink_inj.1 he)
    exact ⟨p, o, (Dev.reg_setReg_ne _ _ (regKey_ne (by decide) (by decide) (.inl other))).trans h⟩

/-- The lanes of a trunk's members, as LANES shows them, and the count of free values. -/
def Dev.memberLanes (d : Dev) (n : Nat) : Place → Bool
  | .free => true
  | .reg g o => o == 0x160 && (d.lnMembers n).any fun m => g == pgLink m
  | _ => false

/-- The device once every member of link n's trunk has found its lanes. -/
def Dev.lanesSet (d : Dev) (n : Nat) : Dev := (d.lnMembers n).foldl Dev.lanesFound d

theorem trained_lanesSet (hm : m ∈ d.lnMembers n) : (d.lanesSet n).Trained m :=
  foldl_settles (P := fun a e => Dev.Trained e a) trained_lanesFound (fun _ c _ h => trained_lanesFound_of_trained c h) _ d m hm

theorem keptOutside_lanesSet (d : Dev) (n : Nat) : d.KeptOutside (d.lanesSet n) (d.memberLanes n) :=
  keptOutside_foldl_mem _ (fun _ c hc => (kept_free.outside (by simp [Dev.memberLanes])).trans
    ((kept_setReg _ _ _ (by decide)).outside (by simpa [Dev.memberLanes] using ⟨c, hc, rfl⟩))) d

theorem lnCfg_lanesSet (i : Nat) : (d.lanesSet n).lnCfg i = d.lnCfg i :=
  lnCfg_of_keptOutside (keptOutside_lanesSet d n) (fun i => by simp [Dev.memberLanes]) i

/-- A link that has trained, as it begins its HELLO exchange. -/
def LinkSt.greeting (x : LinkSt) : LinkSt :=
  { x with state := .hello, deadline := none, heard := false, confirmed := false, peers := [], memberOwd := [], owds := [], rtts := [] }

theorem linkTrainingDone_eq (hs : d.lnState n = .training) (he : (d.lnMembers n).all d.lnEn = true) :
    d.linkTrainingDone n = (d.lanesSet n).modLink (d.lnHome n) LinkSt.greeting := by
  unfold Dev.linkTrainingDone
  rw [if_neg (by simp [hs, he])]
  change (d.lanesSet n).modLink ((d.lanesSet n).lnHome n) _ = _
  rw [lnHome_congr lnCfg_lanesSet]; rfl

/-! ### HELLO (R303) -/

/-- The HELLO that link m sends for a receiver that awaits flit `next`. -/
def Dev.helloOut (d : Dev) (next m : Nat) : Out :=
  ⟨.link m, ({ kind := 3, wordA := 2 ^ 28, payload := lnRecord 1 (d.ln m).epoch (natLe 4 (d.nodeId (m / 9)) ++
    natLe 1 (m / 9 * 64 + m) ++ natLe 1 (d.lnTrunk m * 64 + bits (d.lnCfg m) 26 24 * 8 + d.lnMember m * 2) ++ natLe 2 next) } :
    LnFlit).bytes 0 false⟩

/-- Link m sends its HELLO. -/
def Dev.sayHello (next : Nat) (d : Dev) (m : Nat) : Dev := { d with out := d.helloOut next m :: d.out }

theorem sayHello_members (next : Nat) (ms : List Nat) (out : List Out) :
    ms.foldl (Dev.sayHello next) { d with out } = { d with out := (ms.map (d.helloOut next)).reverse ++ out } := by
  induction ms generalizing out with
  | nil => rfl
  | cons m ms ih =>
    rw [List.map_cons, List.reverse_cons, List.append_assoc]
    exact ih _

theorem kept_out (out : List Out) : d.Kept { d with out } [.out] := by
  intro x hx; cases x
  case out => exact absurd List.mem_cons_self hx
  all_goals first | exact rfl | exact ⟨rfl, rfl⟩ | exact ⟨rfl, rfl, rfl⟩ | exact fun _ _ => rfl

/-- The device with the HELLO of each member of link n's trunk sent. -/
def Dev.helloSent (d : Dev) (n : Nat) : Dev :=
  { d with out := ((d.lnMembers n).map (d.helloOut (d.ln n).rxNext)).reverse ++ d.out }

theorem helloTimer_sends
    (h : (d.ln n).state = .hello ∧ ¬((d.ln n).heard = true ∧ (d.ln n).confirmed = true) ∨ (d.ln n).state = .retrain) :
    d.helloTimer n = d.helloSent n := by
  unfold Dev.helloTimer
  refine (if_neg ?_).trans (sayHello_members (d.ln n).rxNext (d.lnMembers n) d.out)
  rintro ⟨rest, known⟩
  obtain ⟨hello, more⟩ | again := h
  · exact known.elim (fun other => other hello) more
  · exact rest again

theorem helloTimer_over (hs : (d.ln n).state = .hello) (hh : (d.ln n).heard = true) (hc : (d.ln n).confirmed = true) :
    d.helloTimer n = d := if_pos ⟨by rw [hs]; decide, .inr ⟨hh, hc⟩⟩

/-! ### The limit (R306, R323) -/

/-- A link that is DOWN. -/
def LinkSt.downed (x : LinkSt) : LinkSt := { x with state := .down, deadline := none }

/-- The device at the limit of link n, with the error of `code` and the link DOWN. -/
def Dev.goneDown (d : Dev) (n t code : Nat) : Dev := ((d.advanceTo t).linkError n code).modLn n LinkSt.downed

theorem lnCfg_linkError (code i : Nat) : (d.linkError n code).lnCfg i = d.lnCfg i :=
  lnCfg_of_kept (kept_linkError n code) (by simp) i

theorem link_linkError (code i : Nat) : (d.linkError n code).link i = d.link i := kept_linkError n code (.link i) (by simp)

theorem home_goneDown (t code : Nat) : ((d.advanceTo t).linkError n code).lnHome n = d.lnHome n :=
  (lnHome_congr (lnCfg_linkError code) n).trans rfl

theorem link_goneDown (t code : Nat) : (d.goneDown n t code).link (d.lnHome n) = (d.link (d.lnHome n)).downed := by
  rw [Dev.goneDown, Dev.modLn, home_goneDown, Dev.link_modLink_self, link_linkError]; rfl

theorem errCode_goneDown (t code : Nat) : ((d.goneDown n t code).hdr (pgLink n)).errCode = code := errCode_linkError _ _

theorem time_goneDown (t code : Nat) : (d.goneDown n t code).time = max d.time t :=
  (kept_linkError (d := d.advanceTo t) n code .time (by simp)).1

theorem kept_goneDown (t code : Nat) :
    d.Kept (d.goneDown n t code) [.link (d.lnHome n), .hdr (pgLink n), .hdr pgDbg, .log, .time] := by
  have down := kept_modLn (d := (d.advanceTo t).linkError n code) n LinkSt.downed
  rw [home_goneDown] at down
  exact (((kept_advanceTo t).trans (kept_linkError n code)).trans down).mono (by simp)

theorem kept_failRoute : d.Kept (d.failRoute n) [.coll (n / 9), .hdr (pgColl (n / 9)), .hdr pgDbg, .log] := by
  refine kept_foldl _ _ (fun e ch _ => ?_) d
  split
  · exact kept_ite (fun _ => kept_failRun _ _ _) fun _ => .refl e
  · exact .refl e

section
variable {t : Nat} (h : (d.ln n).deadline = some t)
include h

theorem retrainExpiry_training (hs : (d.ln n).state = .training) : d.retrainExpiry n = d.goneDown n t 0x0A01 := by
  unfold Dev.retrainExpiry
  simp only [h, hs, if_true]; rfl

theorem retrainExpiry_retrain (hs : (d.ln n).state = .retrain) : d.retrainExpiry n = (d.goneDown n t 0x0A02).failRoute n := by
  unfold Dev.retrainExpiry
  simp only [h, hs, if_true, reduceCtorEq, if_false]; rfl

end

/-- Settles O28: each event of a link's training, by the lemma that says what it leaves. -/
theorem linkTraining : Obligations.LinkTraining := by
  intro s n lane h hn d home x
  have ok : decide (n < 36) = true := decide_eq_true hn
  refine ⟨fun hs hl => ?_, fun hs he => ?_, fun hs hh hc => ?_, fun hs => ?_, fun t ht => ⟨fun hs => ?_, fun hs => ?_⟩⟩
  · have run : exec (.laneLock n lane) s = _ := runIf_live h ok (·.laneLock n lane)
    rw [laneLock_eq hs hl] at run
    exact ⟨_, run, Dev.link_modLink_self _ _ _, reg_laneShown hl,
      ((kept_setReg _ _ _ (by decide)).trans (kept_modLink _ _)).mono (by simp [home, d])⟩
  · have run : exec (.linkTrainingDone n) s = _ := runIf_live h ok (·.linkTrainingDone n)
    rw [linkTrainingDone_eq hs he] at run
    have kept := keptOutside_lanesSet d n
    refine ⟨_, run, ?_, fun m hm => ?_, (kept.mono fun p hp => ?_).trans ((kept_modLink _ _).outside ?_)⟩
    · rw [Dev.link_modLink_self, show (d.lanesSet n).link home = x from kept (.link home) rfl]; rfl
    · obtain ⟨polarity, order, shown⟩ := trained_lanesSet hm
      exact ⟨polarity, order, (Dev.reg_modLink _ _ _ _ _).trans shown⟩
    · cases p <;> first | exact hp | cases hp
    · simp [home, d]
  · exact (runIf_live h ok (·.helloTimer n)).trans (by rw [helloTimer_over hs hh hc]; rfl)
  · have run : exec (.helloTimer n) s = _ := runIf_live h ok (·.helloTimer n)
    rw [helloTimer_sends hs] at run
    exact ⟨_, run, rfl, kept_out _⟩
  · have run : exec (.retrainLimitExpiry n) s = _ := runIf_live h ok (·.retrainExpiry n)
    rw [retrainExpiry_training ht hs] at run
    exact ⟨_, run, time_goneDown _ _, link_goneDown _ _, errCode_goneDown _ _, kept_goneDown _ _⟩
  · have run : exec (.retrainLimitExpiry n) s = _ := runIf_live h ok (·.retrainExpiry n)
    rw [retrainExpiry_retrain ht hs] at run
    have fails := kept_failRoute (d := d.goneDown n t 0x0A02) (n := n)
    have link : ((d.goneDown n t 0x0A02).failRoute n).link home = (d.goneDown n t 0x0A02).link home := fails (.link home) (by simp)
    refine ⟨_, run, (fails .time (by simp)).1.trans (time_goneDown _ _), link.trans (link_goneDown _ _), ?_,
      ((kept_goneDown _ _).trans fails).mono (by simp [home, d])⟩
    have shown : ((d.goneDown n t 0x0A02).failRoute n).hdr (pgLink n) = _ :=
      fails (.hdr (pgLink n)) (by simp [pgLink_ne_pgColl, pgLink_ne_pgDbg])
    rw [shown]; exact errCode_goneDown _ _

end Sys2Proof.Machine
end

section
/-!
PROOF. A link that retrains (R295, R299, R305, R309): it leaves ACTIVE, and comes back with every flit not acknowledged sent again.
-/
namespace Sys2Proof.Machine

variable {s : State} {d e : Dev} {n m cause : Nat}

/-! ### Out of ACTIVE (R299, R309) -/

/-- A link that retrains until `limit`. -/
def LinkSt.retraining (x : LinkSt) (limit : Nat) : LinkSt :=
  { x with state := .retrain, deadline := some limit, heard := false, ahead := [] }

/-- Link m counts and reports that its trunk left ACTIVE. -/
def Dev.noteDown (d : Dev) (m : Nat) : Dev := (d.bump (pgLink m) 0x138 1).raise (pgLink m) 2

/-- The device with link n's trunk in RETRAIN. -/
def Dev.retrainSet (d : Dev) (n : Nat) : Dev := d.modLink (d.lnHome n) fun x => x.retraining (d.time + d.retrainLimit n)

theorem toRetrain_active (h : (d.ln n).state = .active) : d.toRetrain n = (d.lnMembers n).foldl Dev.noteDown (d.retrainSet n) :=
  if_neg (by simp [Dev.lnActive, h])

/-- A loss of lock shows in LANES, and otherwise the link only retrains. -/
theorem linkRetrain_active (h : (d.ln n).state = .active) (cause : Nat) :
    ∃ e, d.linkRetrain n cause = e.toRetrain n ∧ d.Kept e [.free, .reg (pgLink n) 0x160] := by
  unfold Dev.linkRetrain
  rw [if_neg (by simp [Dev.lnActive, h])]
  by_cases hc : cause = 2
  · rw [if_pos hc]; exact ⟨_, rfl, kept_free.trans (kept_setReg _ _ _ (by decide))⟩
  · rw [if_neg hc]; exact ⟨d, rfl, .refl d⟩

/-- Headers and retrain counts of the members of link n's trunk. -/
def Dev.memberDown (d : Dev) (n : Nat) : Place → Bool
  | .hdr g => (d.lnMembers n).any fun m => g == pgLink m
  | .reg g o => o == 0x138 && (d.lnMembers n).any fun m => g == pgLink m
  | _ => false

theorem keptOutside_noteDown (d e : Dev) (n : Nat) : e.KeptOutside ((d.lnMembers n).foldl Dev.noteDown e) (d.memberDown n) := by
  refine keptOutside_foldl_mem _ (fun e m hm => ?_) e
  have member : ((d.lnMembers n).any fun i => pgLink m == pgLink i) = true := List.any_eq_true.2 ⟨m, hm, by simp⟩
  exact ((kept_bump _ _ _ (by decide)).outside (by simpa [Dev.memberDown] using member)).trans
    ((kept_raise _ _).outside (by simpa [Dev.memberDown] using member))

section
variable (hm : m ∈ d.lnMembers n) (e : Dev)
include hm

theorem reg_noteDown : ((d.lnMembers n).foldl Dev.noteDown e).reg (pgLink m) 0x138 = sat 32 (e.reg (pgLink m) 0x138 + 1) := by
  refine foldl_once (a := m) (fun e : Dev => e.reg (pgLink m) 0x138) (fun v => sat 32 (v + 1)) (fun e => ?_) (fun e c hc => ?_)
    (nodup_lnMembers d n) hm e
  · exact (reg_raise (by decide) (pgLink_ne_pgRailjor m)).trans (reg_bump_self (by decide))
  · have other : pgLink m ≠ pgLink c := fun h => hc (pgLink_inj.1 h).symm
    exact (reg_raise (by decide) (pgLink_ne_pgRailjor m)).trans
      (kept_bump _ _ _ (by decide) (.reg (pgLink m) 0x138) (by simp [other]) (by decide) fun h => pgLink_ne_pgRailjor m h.1)

theorem hdr_noteDown : ((d.lnMembers n).foldl Dev.noteDown e).hdr (pgLink m) = (e.hdr (pgLink m)).raised 2 := by
  refine foldl_once (a := m) (fun e : Dev => e.hdr (pgLink m)) (·.raised 2) (fun e => ?_) (fun e c hc => ?_) (nodup_lnMembers d n) hm e
  · exact (hdr_raise_self _ _).trans (by rw [hdr_bump])
  · exact (hdr_raise_ne fun h => hc (pgLink_inj.1 h).symm).trans (hdr_bump _ _ _ _)

end

/-! ### Into ACTIVE (R295, R305) -/

/-- A link that enters ACTIVE. -/
def LinkSt.entered (x : LinkSt) : LinkSt :=
  { x with state := .active, epoch := (x.epoch + 1) % 2 ^ 16, deadline := none, nak := false, nakAt := none, hit := false
           retry := x.retry.map fun f => { f with resent := 0 } }

theorem linkUp_eq (d : Dev) (n : Nat) : d.linkUp n =
    (d.lnMembers n).foldl (fun e m => e.raise (pgLink m) 1) (d.modLink (d.lnHome n) LinkSt.entered) := rfl

theorem keptOutside_linkUp (d : Dev) (n : Nat) : d.KeptOutside (d.linkUp n) fun p => p == .link (d.lnHome n) || d.memberHdr n p := by
  rw [linkUp_eq]
  exact ((kept_modLink _ _).outside (by simp)).trans ((keptOutside_raiseMembers 1 _).mono fun p hp => by rw [hp, Bool.or_true])

theorem lnCfg_linkUp (i : Nat) : (d.linkUp n).lnCfg i = d.lnCfg i :=
  lnCfg_of_keptOutside (keptOutside_linkUp d n) (fun i => by simp [Dev.memberHdr]) i

theorem link_linkUp : (d.linkUp n).link (d.lnHome n) = (d.link (d.lnHome n)).entered := by
  rw [linkUp_eq, keptOutside_raiseMembers (d := d) (n := n) 1 _ (.link _) rfl, Dev.link_modLink_self]

theorem hdr_linkUp (hm : m ∈ d.lnMembers n) : (d.linkUp n).hdr (pgLink m) = (d.hdr (pgLink m)).raised 1 := by
  rw [linkUp_eq, hdr_raiseMembers hm]; rfl

/-! ### The replay (R297) -/

/-- A flit of link n as it goes on the wire. -/
def Dev.onWire (d : Dev) (n : Nat) (x : LnFlit) : Out :=
  ⟨.link ((d.lnMembers n).getD (x.seq % d.lnWidth n) n), x.bytes (((d.ln n).rxNext + 2 ^ 14 - 1) % 2 ^ 14) (d.ln n).nak⟩

theorem replay_eq (d : Dev) (n : Nat) :
    d.replay n = { d with out := ((d.ln n).retry.map (d.onWire n)).reverse ++ d.out } := by
  have each (fs : List LnFlit) (out : List Out) : fs.foldl (fun e x => e.wire n x) { d with out } =
      { d with out := (fs.map (d.onWire n)).reverse ++ out } := by
    induction fs generalizing out with
    | nil => rfl
    | cons x fs ih =>
      rw [List.map_cons, List.reverse_cons, List.append_assoc]
      exact ih _
  exact each _ d.out

theorem kept_replay (d : Dev) (n : Nat) : d.Kept (d.replay n) [.out] := by rw [replay_eq]; exact kept_out _

/-! ### Trained again -/

/-- The device once link n has trained again, before what waits goes. -/
def Dev.upAgain (d : Dev) (n : Nat) : Dev := ((d.lanesSet n).linkUp n).replay n

theorem linkRetrainDone_eq (h : (d.ln n).state = .retrain) : d.linkRetrainDone n = (d.upAgain n).drainAll n := if_neg (by simp [h])

theorem lnCfg_upAgain (i : Nat) : (d.upAgain n).lnCfg i = d.lnCfg i :=
  (lnCfg_of_kept (kept_replay _ n) (by simp) i).trans ((lnCfg_linkUp i).trans (lnCfg_lanesSet i))

/-- Its link has entered ACTIVE. -/
theorem link_upAgain : (d.upAgain n).link (d.lnHome n) = (d.link (d.lnHome n)).entered := by
  have up := link_linkUp (d := d.lanesSet n) (n := n)
  rw [lnHome_congr lnCfg_lanesSet] at up
  rw [Dev.upAgain, kept_replay _ n (.link _) (by simp), up, keptOutside_lanesSet d n (.link _) rfl]

theorem hdr_upAgain (hm : m ∈ d.lnMembers n) : (d.upAgain n).hdr (pgLink m) = (d.hdr (pgLink m)).raised 1 := by
  have lanes : (d.lanesSet n).hdr (pgLink m) = d.hdr (pgLink m) := keptOutside_lanesSet d n (.hdr _) rfl
  have up := hdr_linkUp (d := d.lanesSet n) (n := n) (m := m) (by rw [lnMembers_congr lnCfg_lanesSet]; exact hm)
  rw [Dev.upAgain, kept_replay _ n (.hdr _) (by simp), up, lanes]

/-- What it has sent: its buffer of flits not acknowledged, in order. -/
theorem out_upAgain : (d.upAgain n).out = ((d.link (d.lnHome n)).retry.map fun x =>
    (⟨.link ((d.lnMembers n).getD (x.seq % d.lnWidth n) n), x.bytes (((d.link (d.lnHome n)).rxNext + 2 ^ 14 - 1) % 2 ^ 14) false⟩ : Out)).reverse ++
      d.out := by
  have cfg (i : Nat) : ((d.lanesSet n).linkUp n).lnCfg i = d.lnCfg i := (lnCfg_linkUp i).trans (lnCfg_lanesSet i)
  have link : ((d.lanesSet n).linkUp n).ln n = (d.link (d.lnHome n)).entered := by
    have up := link_linkUp (d := d.lanesSet n) (n := n)
    rw [lnHome_congr lnCfg_lanesSet, keptOutside_lanesSet d n (.link _) rfl] at up
    rw [Dev.ln, lnHome_congr cfg]; exact up
  have lanes : (d.lanesSet n).out = d.out := keptOutside_lanesSet d n .out rfl
  have out : ((d.lanesSet n).linkUp n).out = (d.lanesSet n).out := keptOutside_linkUp _ n .out (by simp [Dev.memberHdr])
  rw [Dev.upAgain, replay_eq, link]
  unfold Dev.onWire
  simp only [link, lnMembers_congr cfg, lnWidth_congr cfg]
  rw [out, lanes, LinkSt.entered, List.map_map]
  rfl

theorem keptOutside_upAgain (d : Dev) (n : Nat) :
    d.KeptOutside (d.upAgain n) fun p => d.memberLanes n p || (p == .link (d.lnHome n) || d.memberHdr n p || p == .out) := by
  have up := keptOutside_linkUp (d.lanesSet n) n
  have home : (d.lanesSet n).lnHome n = d.lnHome n := lnHome_congr lnCfg_lanesSet n
  have hdrs : (d.lanesSet n).memberHdr n = d.memberHdr n := by
    funext p; cases p <;> simp [Dev.memberHdr, lnMembers_congr (lnCfg_lanesSet (d := d) (n := n))]
  rw [home, hdrs] at up
  exact ((keptOutside_lanesSet d n).mono fun p hp => by rw [hp, Bool.true_or]).trans
    ((up.mono fun p hp => by rw [hp, Bool.true_or, Bool.or_true]).trans ((kept_replay _ n).outside (by simp)))

/-- Settles O29: leaving ACTIVE, each member of the trunk counts and reports it once; entering ACTIVE, each reports it, and what is sent
after the replay leaves the link's state and the headers alone. -/
theorem linkRetrains : Obligations.LinkRetrains := by
  intro s n cause h hn d home x
  have ok : decide (n < 36) = true := decide_eq_true hn
  refine ⟨fun hs => ?_, fun hs => ?_⟩
  · have run : exec (.linkRetrain n cause) s = _ := runIf_live h ok (·.linkRetrain n cause)
    obtain ⟨e, retrains, kept⟩ := linkRetrain_active (d := d) (n := n) hs cause
    have cfg := lnCfg_of_kept kept (by simp)
    have link : e.link home = x := kept (.link home) (by simp)
    have hdr (g : Nat) : e.hdr g = d.hdr g := kept (.hdr g) (by simp)
    have count (m : Nat) : e.reg (pgLink m) 0x138 = d.reg (pgLink m) 0x138 :=
      kept (.reg (pgLink m) 0x138) (by simp) (by decide) fun hr => pgLink_ne_pgRailjor m hr.1
    have active : (e.ln n).state = .active := by rw [Dev.ln, lnHome_congr cfg, link]; exact hs
    rw [retrains, toRetrain_active active] at run
    have noted := keptOutside_noteDown e (e.retrainSet n) n
    rw [lnMembers_congr cfg] at noted run
    refine ⟨_, run, ?_, fun m hm => ⟨?_, ?_⟩, ((kept.outside ?_).trans ((kept_modLink _ _).outside ?_)).trans (noted.mono fun p hp => ?_)⟩
    · have same := noted (.link home) rfl
      refine Eq.trans same ?_
      rw [Dev.retrainSet, lnHome_congr cfg, Dev.link_modLink_self, link, (kept .time (by simp)).1, retrainLimit_congr cfg]
      rfl
    · rw [reg_noteDown hm]; exact congrArg (fun v => sat 32 (v + 1)) (count m)
    · rw [hdr_noteDown hm]; exact congrArg (Hdr.raised · 2) (hdr (pgLink m))
    · simp
    · simp [lnHome_congr cfg, home, d]
    · cases p <;> simp_all [Dev.memberDown, lnMembers_congr cfg]
  · intro up lanes again
    have run : exec (.linkRetrainDone n) s = _ := runIf_live h ok (·.linkRetrainDone n)
    rw [linkRetrainDone_eq hs] at run
    have link : (d.upAgain n).link home = up := link_upAgain
    have sends := sends_drainAll (d := d.upAgain n) n
    have outside := keptOutside_drainAll (d := d.upAgain n) n
    rw [lnHome_congr lnCfg_upAgain] at outside
    refine ⟨_, run, (sends.link LinkSt.state (fun _ => rfl) home).trans (by rw [link]), (sends.link LinkSt.epoch (fun _ => rfl) home).trans (by rw [link]), fun m hm => ?_, ?_, fun hw => ?_⟩
    · rw [sends.hdr, hdr_upAgain hm]; exact bit_raised_raw _ (by decide)
    · refine ((keptOutside_upAgain d n).mono fun p hp => ?_).trans (outside.mono fun p hp => by rw [hp, Bool.true_or, Bool.true_or])
      cases p <;> simp_all [Dev.memberLanes, Dev.memberHdr, Place.sendOf, lanes, home, d]
    · have idle : (d.upAgain n).drainAll n = d.upAgain n := by
        refine drainAll_none ?_
        rw [Dev.ln, lnHome_congr lnCfg_upAgain, link_upAgain]; exact hw
      rw [idle]
      have out := out_upAgain (d := d) (n := n)
      refine ⟨link, out, fun m hm => hdr_upAgain hm, (keptOutside_upAgain d n).mono fun p hp => ?_⟩
      cases p <;> simp_all [Dev.memberLanes, Dev.memberHdr, lanes, home, d]

end Sys2Proof.Machine
end

section
/-!
PROOF. HELLO and the time exchange of a link (R303, R304, R310, R311).
-/
namespace Sys2Proof.Machine

variable {s : State} {d e f : Dev} {n : Nat} {rec : List Byte}

theorem ln_modLn (n : Nat) (g : LinkSt → LinkSt) : (d.modLn n g).ln n = g (d.ln n) := Dev.link_modLink_self _ _ _

/-! ### HELLO (R303, R304) -/

theorem field_one_lt (bs : List Byte) (off : Nat) : field bs off 1 < 2 ^ 32 :=
  (leNat_lt _).trans_le ((Nat.pow_le_pow_right (by decide) (List.length_take_le 1 _)).trans (by decide))

/-- The device with the partner of link n as a HELLO names it: node, and die and link. -/
def Dev.partnerShown (d : Dev) (n : Nat) (rec : List Byte) : Dev :=
  (d.setReg (pgLink n) 0x10C (field rec 4 4)).setReg (pgLink n) 0x110 (field rec 8 1)

theorem kept_partnerShown : d.Kept (d.partnerShown n rec) [.reg (pgLink n) 0x10C, .reg (pgLink n) 0x110] :=
  (kept_setReg _ _ _ (by decide)).trans (kept_setReg _ _ _ (by decide))

theorem lnCfg_partnerShown (i : Nat) : (d.partnerShown n rec).lnCfg i = d.lnCfg i := lnCfg_of_kept kept_partnerShown (by simp) i

theorem reg_partnerShown : (d.partnerShown n rec).reg (pgLink n) 0x10C = field rec 4 4 ∧
    (d.partnerShown n rec).reg (pgLink n) 0x110 = field rec 8 1 := by
  have first := Dev.reg_setReg_ne (d.setReg (pgLink n) 0x10C (field rec 4 4)) (field rec 8 1)
    (regKey_ne (g := pgLink n) (pg := pgLink n) (o := 0x10C) (off := 0x110) (by decide) (by decide) (.inr (by decide)))
  exact ⟨first.trans ((Dev.reg_setReg_self _ _ _ _).trans (Nat.mod_eq_of_lt (field_four_lt _ _))),
    (Dev.reg_setReg_self _ _ _ _).trans (Nat.mod_eq_of_lt (field_one_lt _ _))⟩

/-- The link with the partner's epoch, as a HELLO gives it. -/
def LinkSt.partnerEpoch (rec : List Byte) (x : LinkSt) : LinkSt := { x with rxEpoch := field rec 2 2 }

/-- A single link that has heard its partner; with nothing to resend it goes on from the flit the partner awaits. -/
def LinkSt.heardBy (n : Nat) (rec : List Byte) (x : LinkSt) : LinkSt :=
  { x with peers := tset 0 x.peers n (helloEnd rec), heard := true
           txSeq := if x.retry.isEmpty then field rec 0x0A 2 % 2 ^ 14 else x.txSeq }

/-- A link that begins its HELLO exchange again. -/
def LinkSt.startsOver (x : LinkSt) : LinkSt :=
  { x with heard := false, confirmed := false, peers := [], memberOwd := [], owds := [], rtts := [] }

/-- The device with the partner shown, and its epoch kept. -/
def Dev.partnerMet (d : Dev) (n : Nat) (rec : List Byte) : Dev :=
  (d.partnerShown n rec).modLink (d.lnHome n) (LinkSt.partnerEpoch rec)

theorem home_partnerShown : (d.partnerShown n rec).lnHome n = d.lnHome n := lnHome_congr lnCfg_partnerShown n

theorem home_partnerMet : (d.partnerMet n rec).lnHome n = d.lnHome n := home_partnerShown

theorem link_partnerMet : (d.partnerMet n rec).link (d.lnHome n) = (d.link (d.lnHome n)).partnerEpoch rec :=
  Dev.link_modLink_self _ _ _

theorem kept_partnerMet :
    d.Kept (d.partnerMet n rec) [.link (d.lnHome n), .reg (pgLink n) 0x10C, .reg (pgLink n) 0x110] :=
  (kept_partnerShown.trans (kept_modLink _ _)).mono (by simp)

section
variable (hs : (d.ln n).state = .hello)
include hs

theorem hello_heard (hw : d.lnWidth n = 1) (ht : max 1 (bits (field rec 9 1) 5 3) = 1) :
    d.hello n rec = (d.partnerMet n rec).modLink (d.lnHome n) (LinkSt.heardBy n rec) := by
  have met : ((d.partnerShown n rec).modLn n (LinkSt.partnerEpoch rec)) = d.partnerMet n rec := by
    rw [Dev.modLn, home_partnerShown]; rfl
  have alone : (d.partnerMet n rec).lnMembers n = [n] :=
    lnMembers_single (by rw [← met]; exact (lnWidth_congr lnCfg_partnerShown n).trans_lt (by omega))
  have peer : ([n].all fun m => tget 0 (tset 0 (d.ln n).peers n (helloEnd rec)) m != 0) = true := by
    simp only [List.all_cons, List.all_nil, tget_tset_self, Bool.and_true, helloEnd]
    simp
  unfold Dev.hello
  refine (if_pos hs).trans ((if_neg ?_).trans ?_)
  · rw [hw, ht]; omega
  · change ((d.partnerShown n rec).modLn n (LinkSt.partnerEpoch rec)).modLn n _ = _
    rw [met, Dev.modLn, home_partnerMet]
    change (d.partnerMet n rec).modLink (d.lnHome n) (fun x => { x with
      peers := tset 0 (d.ln n).peers n (helloEnd rec)
      heard := ((d.partnerMet n rec).lnMembers n).all fun m => tget 0 (tset 0 (d.ln n).peers n (helloEnd rec)) m != 0
      txSeq := if x.retry.isEmpty then field rec 0x0A 2 % 2 ^ 14 else x.txSeq }) = _
    rw [alone, peer, Dev.modLink, Dev.modLink, link_partnerMet]
    rfl

theorem hello_refused (ht : d.lnWidth n ≠ max 1 (bits (field rec 9 1) 5 3)) :
    d.hello n rec = ((d.partnerMet n rec).modLink (d.lnHome n) LinkSt.startsOver).linkError n 0x0A03 := by
  have met : ((d.partnerShown n rec).modLn n (LinkSt.partnerEpoch rec)) = d.partnerMet n rec := by
    rw [Dev.modLn, home_partnerShown]; rfl
  unfold Dev.hello
  refine (if_pos hs).trans ((if_pos (.inl ht)).trans ?_)
  change (((d.partnerShown n rec).modLn n (LinkSt.partnerEpoch rec)).modLn n LinkSt.startsOver).linkError n 0x0A03 = _
  rw [met, Dev.modLn, home_partnerMet]

end

/-! ### Records of an exchange (R303, R310) -/

theorem anyRecord_hello (h : (d.ln n).state = .hello) (ty : Nat) (body : List Byte) : d.anyRecord n ty body = d.rawRecord n ty body :=
  if_neg (by simp [Dev.lnActive, h])

theorem anyRecord_active (h : (d.ln n).state = .active) (ty : Nat) (body : List Byte) : d.anyRecord n ty body = d.sendRecord n ty body :=
  if_pos (by simp [Dev.lnActive, h])

/-- A change of the link's state that leaves its epoch alone does not show in a record sent as HELLO has it. -/
theorem out_modLn_rawRecord {g : LinkSt → LinkSt} (hg : ∀ x, (g x).epoch = x.epoch) (ty : Nat) (body : List Byte) :
    ((d.modLn n g).rawRecord n ty body).out =
      ⟨.link n, ({ kind := 3, wordA := 2 ^ 28, payload := lnRecord ty (d.ln n).epoch body } : LnFlit).bytes 0 false⟩ :: d.out := by
  unfold Dev.rawRecord
  rw [ln_modLn, hg]
  rfl

/-- The link with a time exchange of its partner seen, so that its own HELLO is known to have come. -/
def LinkSt.confirms (x : LinkSt) : LinkSt := { x with confirmed := true }

/-- Body of the TSYNC_RESP that answers a request at time `t`. -/
def respBody (t : Nat) (rec : List Byte) : List Byte := natLe 8 t ++ natLe 1 (field rec 0x0C 1) ++ natLe 3 0

theorem tsyncReq_eq (h : (d.ln n).state = .hello ∨ (d.ln n).state = .active) (hr : d.recordStale n rec = false) :
    d.tsyncReq n rec = (d.modLn n LinkSt.confirms).anyRecord n 8 (respBody d.time rec) :=
  (if_neg (hears h)).trans (onRecord_fresh hr _)

/-- The link with one more time exchange asked for, at time `t`. -/
def LinkSt.asks (t : Nat) (x : LinkSt) : LinkSt := { x with tsId := (x.tsId + 1) % 256, asked := (x.tsId, t) :: x.asked.take 255 }

theorem timeExchange_eq (h : (d.ln n).state = .active ∨ (d.ln n).state = .hello ∧ (d.ln n).heard = true) :
    d.timeExchange n = (d.modLn n (LinkSt.asks d.time)).anyRecord n 7 (natLe 8 d.time ++ natLe 1 (d.ln n).tsId) := by
  refine if_neg fun hn => ?_
  obtain ha | ⟨hs, hh⟩ := h
  · exact hn.1 ha
  · exact hn.2.elim (fun other => other hs) fun deaf => absurd (hh.symm.trans deaf) (by decide)

theorem kept_modLn_send (n : Nat) (g : LinkSt → LinkSt) (p : Port) (bs : List Byte) :
    d.Kept ((d.modLn n g).send p bs) [.link (d.lnHome n), .out] := (kept_modLn n g).trans (kept_send p bs)

/-- A record sent after a change of the link's own state stays within the link. -/
theorem keptOutside_modLn_sendRecord (n : Nat) (g : LinkSt → LinkSt) (ty : Nat) (body : List Byte) :
    d.KeptOutside ((d.modLn n g).sendRecord n ty body) (Place.sendOf (d.lnHome n)) :=
  ((kept_modLn n g).outside (by simp [Place.sendOf])).trans (keptOutside_sendRecord (d := d.modLn n g) n ty body)

/-- What a link's state keeps of a change as a record is sent. -/
theorem link_modLn_sendRecord {γ : Type} (part : LinkSt → γ) (hp : ∀ x, part x.rest = part x) (n : Nat) (g : LinkSt → LinkSt) (ty : Nat)
    (body : List Byte) : part (((d.modLn n g).sendRecord n ty body).link (d.lnHome n)) = part (g (d.link (d.lnHome n))) :=
  ((sends_sendRecord n ty body).link part hp _).trans (congrArg part (ln_modLn n g))

/-! ### An exchange completes (R310, R311) -/

/-- What a time exchange leaves of a link's state: the exchanges asked for, whether one was answered, and the delays. -/
def LinkSt.exchange (x : LinkSt) : List (Nat × Nat) × Bool × List Int := (x.asked, x.confirmed, x.owds)

/-- What an exchange of the link or trunk with home h may touch. -/
def Place.exchangeOf (h : Nat) (p : Place) : Bool := p.sendOf h || p == .time || p == .reg pgTime 0x114 || p == .reg pgTime 0x11C

/-- A part of the work on an exchange, beside the link's record of it: configuration, time and that record are as they were. -/
structure Dev.Measures (d e : Dev) (h : Nat) : Prop where
  cfg : ∀ i, e.lnCfg i = d.lnCfg i
  time : e.time = d.time
  exchange : (e.link h).exchange = (d.link h).exchange
  outside : d.KeptOutside e (Place.exchangeOf h)

variable {h : Nat}

theorem Dev.Measures.refl (d : Dev) : d.Measures d h := ⟨fun _ => rfl, rfl, rfl, .refl d⟩

theorem Dev.Measures.trans (a : d.Measures e h) (b : e.Measures f h) : d.Measures f h :=
  ⟨fun i => (b.cfg i).trans (a.cfg i), b.time.trans a.time, b.exchange.trans a.exchange, a.outside.trans b.outside⟩

theorem measures_setReg {pg off w : Nat} (ho : off < 4096) (hne : off ≠ 0x104) (hp : Place.exchangeOf h (.reg pg off) = true) :
    d.Measures (d.setReg pg off w) h :=
  ⟨lnCfg_setReg w ho hne, rfl, rfl, (kept_setReg pg off w ho).outside (by simpa using hp)⟩

theorem measures_drainAll : d.Measures (d.drainAll n) (d.lnHome n) := by
  have sends := sends_drainAll (d := d) n
  exact ⟨(keptOutside_drainLink n _).2, sends.time, sends.link LinkSt.exchange (fun _ => rfl) _,
    (keptOutside_drainAll n).mono fun p hp => by simp [Place.exchangeOf, hp]⟩

/-- A single link that enters ACTIVE. -/
theorem measures_linkUp (hw : d.lnWidth n < 2) : d.Measures (d.linkUp n) (d.lnHome n) := by
  have kept := keptOutside_linkUp d n
  refine ⟨lnCfg_linkUp, (kept .time rfl).1, by rw [link_linkUp]; rfl, kept.mono fun p hp => ?_⟩
  cases p <;> simp_all [Dev.memberHdr, Place.exchangeOf, Place.sendOf, lnMembers_single hw, lnHome_single hw]

/-- A link in HELLO without a trunk, or one that is ACTIVE. -/
def Dev.Exchanging (d : Dev) (n : Nat) : Prop := (d.ln n).state = .active ∨ (d.ln n).state = .hello ∧ d.lnWidth n < 2

theorem lnSkew_single (hw : d.lnWidth n < 2) : d.lnSkew n = 0 := by simp only [Dev.lnSkew, if_pos hw]

theorem measures_helloOver (hs : d.Exchanging n) : d.Measures (d.helloOver n) (d.lnHome n) := by
  unfold Dev.helloOver
  dsimp only
  by_cases done : (d.ln n).state = .hello ∧ (d.ln n).heard ∧ (d.ln n).confirmed ∧ 16 ≤ (d.ln n).owds.length ∧
      (d.lnWidth n < 2 ∨ (d.ln n).memberOwd.length = d.lnWidth n)
  · have hw : d.lnWidth n < 2 := hs.elim (fun ha => absurd (done.1.symm.trans ha) (by decide)) And.right
    have sent := measures_drainAll (d := d.linkUp n) (n := n)
    rw [lnHome_congr lnCfg_linkUp] at sent
    rw [if_pos done, if_neg (by rw [lnSkew_single hw]; decide)]
    exact (measures_linkUp hw).trans sent
  · rw [if_neg done]
    exact .refl d

theorem kept_servo (i : Int) : d.Kept { d with servo := i } [.time] := by
  intro x hx; cases x
  case time => exact absurd List.mem_cons_self hx
  all_goals first | exact rfl | exact ⟨rfl, rfl⟩ | exact ⟨rfl, rfl, rfl⟩ | exact fun _ _ => rfl

theorem measures_servoStep (v : Int) : d.Measures (d.servoStep v) h := by
  unfold Dev.servoStep
  have servo (i : Int) : d.Measures { d with servo := i } h :=
    ⟨fun _ => rfl, rfl, rfl, (kept_servo i).outside (by simp [Place.exchangeOf])⟩
  exact ((servo _).trans (measures_setReg (by decide) (by decide) (by simp [Place.exchangeOf]))).trans
    (measures_setReg (by decide) (by decide) (by simp [Place.exchangeOf]))

/-- The delays of link n, as its registers show them. -/
def Dev.delaysShown (d : Dev) (n : Nat) : Dev :=
  let pg := pgLink (d.lnHome n)
  let owd := (median ((d.ln n).owds.map half)).toNat
  let rtt := (median (d.ln n).rtts).toNat
  ((d.setReg pg 0x114 (rtt % 2 ^ 16)).setReg pg 0x118 (owd % 2 ^ 16)).setReg pg 0x11C ((owd + rtt + 250) % 2 ^ 16)

theorem measures_delaysShown : d.Measures (d.delaysShown n) (d.lnHome n) :=
  ((measures_setReg (by decide) (by decide) (by simp [Place.exchangeOf, Place.sendOf])).trans
    (measures_setReg (by decide) (by decide) (by simp [Place.exchangeOf, Place.sendOf]))).trans
    (measures_setReg (by decide) (by decide) (by simp [Place.exchangeOf, Place.sendOf]))

/-- The time base follows twice the offset `v`, where link n is its source. -/
def Dev.disciplined (d : Dev) (n : Nat) (v : Int) : Dev :=
  let src := d.reg pgTime 0x118
  if bit src 7 ∧ d.lnHome (src % 64) = d.lnHome n then d.servoStep v else d

theorem measures_disciplined (v : Int) : d.Measures (d.disciplined n v) h := by
  unfold Dev.disciplined
  dsimp only
  split
  · exact measures_servoStep v
  · exact .refl d

/-- The link once the exchange `id` has its answer. -/
def LinkSt.answered (id : Nat) (x : LinkSt) : LinkSt := { x with asked := x.asked.filter fun q => q.1 != id, confirmed := true }

/-- The link with an exchange accepted: twice its delay, and its round trip. -/
def LinkSt.accepts (n : Nat) (d2 rtt : Int) (x : LinkSt) : LinkSt :=
  { x with owds := (d2 :: x.owds).take 16, rtts := (rtt :: x.rtts).take 16
           memberOwd := if x.state = .hello then (n, d2) :: x.memberOwd.filter (fun x => x.1 != n) else x.memberOwd }

/-- The delay differs too much from those it is compared with (R310). -/
def tooFar (before : List Int) (d2 : Int) : Bool :=
  !before.isEmpty && decide (16 < (d2 - 2 * median (before.map half)).natAbs)

/-- Twice the delay of an exchange sent at `t1` and answered by `rec` at `t4`, and twice its offset. -/
def delay2 (rec : List Byte) (t1 t4 : Nat) : Int :=
  let t3 : Int := field rec 4 8
  ((t4 : Int) - t1) - (t3 - (t3 - field rec 0x0D 3))
def offset2 (rec : List Byte) (t1 t4 : Nat) : Int :=
  let t3 : Int := field rec 4 8
  ((t3 - field rec 0x0D 3) - t1) + (t3 - t4)

theorem tsyncResp_eq {q : Nat × Nat} (hq : (d.ln n).asked.find? (fun q => q.1 == field rec 0x0C 1) = some q)
    (hr : d.recordStale n rec = false) (hs : (d.ln n).state = .hello ∨ (d.ln n).state = .active) :
    d.tsyncResp n rec =
      let e := d.modLn n (LinkSt.answered (field rec 0x0C 1))
      if tooFar (e.delaysOf n) (delay2 rec q.2 d.time) then e
      else (((e.modLn n (LinkSt.accepts n (delay2 rec q.2 d.time) ((d.time : Int) - q.2))).delaysShown n).disciplined n
        (offset2 rec q.2 d.time)).helloOver n := by
  refine (if_neg (hears hs)).trans ((onRecord_fresh hr _).trans ?_)
  dsimp only
  rw [hq]
  rfl

theorem delaysOf_answered (id : Nat) (hs : d.Exchanging n) : (d.modLn n (LinkSt.answered id)).delaysOf n = (d.ln n).owds := by
  have now : (d.modLn n (LinkSt.answered id)).ln n = (d.ln n).answered id := ln_modLn n _
  have alone : ¬(((d.modLn n (LinkSt.answered id)).ln n).state = .hello ∧ 2 ≤ (d.modLn n (LinkSt.answered id)).lnWidth n) := by
    rw [now]
    rintro ⟨hello, wide⟩
    obtain ha | ⟨-, hw⟩ := hs
    · exact absurd (hello.symm.trans ha) (by decide)
    · exact absurd hw (Nat.not_lt.2 wide)
  unfold Dev.delaysOf
  exact (if_neg alone).trans ((congrArg LinkSt.owds now).trans rfl)

theorem exchanging_disciplined (v : Int) (hs : d.Exchanging n) : ((d.delaysShown n).disciplined n v).Exchanging n := by
  have cfg : ∀ i, ((d.delaysShown n).disciplined n v).lnCfg i = d.lnCfg i :=
    (measures_delaysShown.trans (measures_disciplined v)).cfg
  have links : ∀ i, ((d.delaysShown n).disciplined n v).link i = d.link i := by
    intro i
    unfold Dev.disciplined
    dsimp only
    split <;> rfl
  unfold Dev.Exchanging Dev.ln
  rw [lnHome_congr cfg, lnWidth_congr cfg, links]
  exact hs

/-- The rest of an accepted exchange: its delays shown, the time base following it, and a link in HELLO perhaps up. -/
theorem measures_exchanged (v : Int) (hs : d.Exchanging n) :
    d.Measures (((d.delaysShown n).disciplined n v).helloOver n) (d.lnHome n) := by
  have shown : d.Measures ((d.delaysShown n).disciplined n v) (d.lnHome n) := measures_delaysShown.trans (measures_disciplined v)
  have last := measures_helloOver (exchanging_disciplined v hs)
  rw [lnHome_congr shown.cfg] at last
  exact shown.trans last

/-- Work on an exchange after a change of the link's state shows that change in the link's record. -/
theorem exchange_after {g : LinkSt → LinkSt} (hm : (d.modLn n g).Measures e (d.lnHome n)) :
    (e.link (d.lnHome n)).exchange = (g (d.link (d.lnHome n))).exchange ∧ e.time = d.time ∧
      d.KeptOutside e (Place.exchangeOf (d.lnHome n)) :=
  ⟨hm.exchange.trans (congrArg LinkSt.exchange (ln_modLn n g)), hm.time,
    ((kept_modLn n g).outside (by simp [Place.exchangeOf, Place.sendOf])).trans hm.outside⟩

/-- An answered exchange shows in the link's record, accepted or not. -/
theorem tsyncResp_shows {q : Nat × Nat} (hq : (d.ln n).asked.find? (fun q => q.1 == field rec 0x0C 1) = some q)
    (hr : d.recordStale n rec = false) (hs : d.Exchanging n) :
    let x := d.link (d.lnHome n)
    ((d.tsyncResp n rec).link (d.lnHome n)).exchange = (x.asked.filter (fun q => q.1 != field rec 0x0C 1), true,
      if tooFar x.owds (delay2 rec q.2 d.time) then x.owds else (delay2 rec q.2 d.time :: x.owds).take 16) ∧
    (d.tsyncResp n rec).time = d.time ∧ d.KeptOutside (d.tsyncResp n rec) (Place.exchangeOf (d.lnHome n)) := by
  intro x
  rw [tsyncResp_eq hq hr (hs.symm.imp And.left id)]
  dsimp only
  rw [delaysOf_answered _ hs, show (d.ln n).owds = x.owds from rfl]
  split
  · exact exchange_after (.refl _)
  · have now : (d.modLn n (LinkSt.answered (field rec 0x0C 1))).ln n = x.answered (field rec 0x0C 1) := ln_modLn n _
    obtain ⟨shows, time, outside⟩ := exchange_after (g := LinkSt.accepts n (delay2 rec q.2 d.time) ((d.time : Int) - q.2))
      (measures_exchanged (d := (d.modLn n (LinkSt.answered (field rec 0x0C 1))).modLn n
        (LinkSt.accepts n (delay2 rec q.2 d.time) ((d.time : Int) - q.2))) (n := n) (offset2 rec q.2 d.time) (by
          rw [Dev.Exchanging, ln_modLn, now]
          exact hs))
    refine ⟨shows.trans (congrArg (fun x => (LinkSt.accepts n _ _ x).exchange) now), time, ?_⟩
    exact ((kept_modLn n _).outside (by simp [Place.exchangeOf, Place.sendOf])).trans outside

/-! ### The instructions -/

theorem exec_hello (hu : s.Up) (hn : n < 36) : exec (.hello n rec) s = .next (s.withDev (s.dev.hello n rec)) := runIf_live hu (decide_eq_true hn) _

theorem exec_tsyncReq (hu : s.Up) (hn : n < 36) : exec (.tsyncReq n rec) s = .next (s.withDev (s.dev.tsyncReq n rec)) := runIf_live hu (decide_eq_true hn) _

theorem exec_tsyncResp (hu : s.Up) (hn : n < 36) : exec (.tsyncResp n rec) s = .next (s.withDev (s.dev.tsyncResp n rec)) :=
  runIf_live hu (decide_eq_true hn) _

theorem exec_timeExchangeTimer (hu : s.Up) (hn : n < 36) : exec (.timeExchangeTimer n) s = .next (s.withDev (s.dev.timeExchange n)) :=
  runIf_live hu (decide_eq_true hn) _

/-- A HELLO of a partner that disagrees on trunking is refused on the link it came by. -/
theorem hello_refused_shows (hs : (d.ln n).state = .hello) (ht : d.lnWidth n ≠ max 1 (bits (field rec 9 1) 5 3)) :
    (d.hello n rec).reg (pgLink n) 0x10C = field rec 4 4 ∧ (d.hello n rec).reg (pgLink n) 0x110 = field rec 8 1 ∧
    (d.hello n rec).link (d.lnHome n) = ((d.link (d.lnHome n)).partnerEpoch rec).startsOver ∧
    ((d.hello n rec).hdr (pgLink n)).errCode = 0x0A03 ∧
    d.Kept (d.hello n rec)
      [.link (d.lnHome n), .reg (pgLink n) 0x10C, .reg (pgLink n) 0x110, .hdr (pgLink n), .hdr pgDbg, .log] := by
  rw [hello_refused hs ht]
  have failed := kept_linkError (d := (d.partnerMet n rec).modLink (d.lnHome n) LinkSt.startsOver) n 0x0A03
  have register {off : Nat} (ho : off < 4096) :
      (((d.partnerMet n rec).modLink (d.lnHome n) LinkSt.startsOver).linkError n 0x0A03).reg (pgLink n) off =
        (d.partnerShown n rec).reg (pgLink n) off :=
    failed (.reg (pgLink n) off) (by simp) ho fun h => pgLink_ne_pgRailjor n h.1
  refine ⟨(register (by decide)).trans reg_partnerShown.1, (register (by decide)).trans reg_partnerShown.2, ?_,
    errCode_linkError _ _, ((kept_partnerMet.trans (kept_modLink _ _)).trans failed).mono (by simp)⟩
  rw [link_linkError, Dev.link_modLink_self, link_partnerMet]

/-- Settles O30: each record is one change of the link's own state and what that state makes it send; an exchange that completes
may besides bring the link up, and what that sends is the link's own. -/
theorem linkExchanges : Obligations.LinkExchanges := by
  unfold Obligations.LinkExchanges
  intro s n rec hup hn d h x stale raw theirs shown
  refine ⟨fun hs hw ht => ⟨_, exec_hello hup hn, ?_⟩, fun hs hw => ⟨_, exec_hello hup hn, ?_⟩, fun hs hr => ⟨_, exec_tsyncReq hup hn, ?_⟩,
    fun hs hr => ⟨_, exec_tsyncReq hup hn, ?_⟩, fun hs hh => ⟨_, exec_timeExchangeTimer hup hn, ?_⟩,
    fun hs => ⟨_, exec_timeExchangeTimer hup hn, ?_⟩, fun q hq hr hs => ⟨_, exec_tsyncResp hup hn, ?_⟩⟩
  · rw [hello_heard hs hw ht]
    refine ⟨reg_partnerShown, ?_, (kept_partnerMet.trans (kept_modLink h _)).mono (by simp [h])⟩
    exact (Dev.link_modLink_self _ _ _).trans (congrArg (LinkSt.heardBy n rec) link_partnerMet)
  · obtain ⟨node, die, link, code, kept⟩ := hello_refused_shows hs hw
    exact ⟨⟨node, die⟩, link, code, kept⟩
  · have sent := out_modLn_rawRecord (d := d) (n := n) (g := LinkSt.confirms) (fun _ => rfl) 8 (respBody d.time rec)
    rw [tsyncReq_eq (.inl hs) hr, anyRecord_hello (by rw [ln_modLn]; exact hs)]
    exact ⟨Dev.link_modLink_self _ _ _, sent, kept_modLn_send n _ _ _⟩
  · rw [tsyncReq_eq (.inr hs) hr, anyRecord_active (by rw [ln_modLn]; exact hs)]
    exact ⟨link_modLn_sendRecord LinkSt.confirmed (fun _ => rfl) n _ _ _, keptOutside_modLn_sendRecord n _ _ _⟩
  · have sent := out_modLn_rawRecord (d := d) (n := n) (g := LinkSt.asks d.time) (fun _ => rfl) 7 (natLe 8 d.time ++ natLe 1 x.tsId)
    rw [timeExchange_eq (.inr ⟨hs, hh⟩), anyRecord_hello (by rw [ln_modLn]; exact hs)]
    exact ⟨Dev.link_modLink_self _ _ _, sent, kept_modLn_send n _ _ _⟩
  · rw [timeExchange_eq (.inl hs), anyRecord_active (by rw [ln_modLn]; exact hs)]
    exact ⟨link_modLn_sendRecord LinkSt.tsId (fun _ => rfl) n _ _ _, link_modLn_sendRecord LinkSt.asked (fun _ => rfl) n _ _ _,
      keptOutside_modLn_sendRecord n _ _ _⟩
  · obtain ⟨shows, time, outside⟩ := tsyncResp_shows hq hr hs
    obtain ⟨asked, confirmed, owds⟩ := Prod.ext_iff.1 shows |>.imp id Prod.ext_iff.1
    exact ⟨asked, confirmed, owds, time, outside⟩

end Sys2Proof.Machine
end

section
/-!
PROOF. The flits that a link receives: CRC, order and turn, and data flits that the boundary holds (R290, R296, R297, R308, R343).
-/
namespace Sys2Proof.Machine

variable {s : State} {d e m : Dev} {n : Nat} {b : List Byte} {f : LnFlit} {y : LinkSt} {more : List Place}

/-! ### The same links, written another way -/

/-- The device is as it was, though its table of links may be written otherwise. -/
structure Dev.LinksAs (d e : Dev) : Prop where
  only : ∃ links, e = { d with links }
  link : ∀ i, e.link i = d.link i

theorem Dev.LinksAs.refl (d : Dev) : d.LinksAs d := ⟨⟨_, rfl⟩, fun _ => rfl⟩

theorem Dev.LinksAs.trans (h : d.LinksAs e) (h' : e.LinksAs m) : d.LinksAs m := by
  obtain ⟨⟨_, rfl⟩, hl⟩ := h
  obtain ⟨⟨_, rfl⟩, hl'⟩ := h'
  exact ⟨⟨_, rfl⟩, fun i => (hl' i).trans (hl i)⟩

theorem linksAs_modLink {g : LinkSt → LinkSt} (hg : g (d.link n) = d.link n) : d.LinksAs (d.modLink n g) := by
  refine ⟨⟨_, rfl⟩, fun i => ?_⟩
  by_cases hi : i = n
  · rw [hi, Dev.link_modLink_self, hg]
  · exact Dev.link_modLink_ne _ _ _ hi

section
variable (h : d.LinksAs e)
include h

theorem Dev.LinksAs.home : e.lnHome n = d.lnHome n := by obtain ⟨⟨_, rfl⟩, -⟩ := h; rfl

theorem Dev.LinksAs.ln : e.ln n = d.ln n := by rw [Dev.ln, h.home, h.link]; rfl

theorem Dev.LinksAs.out : e.out = d.out := by obtain ⟨⟨_, rfl⟩, -⟩ := h; rfl

theorem Dev.LinksAs.seqDue : e.seqDue n = d.seqDue n := by
  unfold Dev.seqDue
  rw [h.ln]
  obtain ⟨⟨_, rfl⟩, -⟩ := h
  rfl

theorem Dev.LinksAs.lnHolds : e.lnHolds n = d.lnHolds n := by
  unfold Dev.lnHolds
  rw [h.ln]
  obtain ⟨⟨_, rfl⟩, -⟩ := h
  rfl

theorem Dev.LinksAs.kept : d.Kept e [] := by
  obtain ⟨⟨links, rfl⟩, hl⟩ := h
  intro x _; cases x
  case link => exact hl _
  all_goals first | exact rfl | exact ⟨rfl, rfl⟩ | exact ⟨rfl, rfl, rfl⟩ | exact fun _ _ => rfl

end

/-! ### A receiver that changes, and the IDLE flit that says so (R296) -/

/-- Link n's state becomes `y`; nothing is sent, and else only `more` differs. -/
structure Dev.Becomes (d : Dev) (n : Nat) (y : LinkSt) (more : List Place) (m : Dev) : Prop where
  home : m.lnHome n = d.lnHome n
  link : m.link (d.lnHome n) = y
  out : m.out = d.out
  kept : d.Kept m (more ++ [.link (d.lnHome n)])

theorem becomes_modLn (h : d.LinksAs e) (g : LinkSt → LinkSt) : d.Becomes n (g (d.ln n)) [] (e.modLn n g) := by
  refine ⟨h.home, ?_, h.out, ?_⟩
  · rw [← h.home, ← h.ln]; exact ln_modLn n g
  · rw [← h.home]; exact h.kept.trans (kept_modLn n g)

theorem Dev.Becomes.ln (h : d.Becomes n y more m) : m.ln n = y := by rw [Dev.ln, h.home, h.link]

/-- The IDLE flit that tells the partner what is expected, and whether it is asked for again. -/
def idleFlit (n : Nat) (y : LinkSt) : Out := ⟨.link n, ({ kind := 0 } : LnFlit).bytes ((y.rxNext + 2 ^ 14 - 1) % 2 ^ 14) y.nak⟩

theorem idleOut_eq (d : Dev) (n : Nat) :
    d.idleOut n = if (d.ln n).state = .active then { d with out := idleFlit n (d.ln n) :: d.out } else d := by
  unfold Dev.idleOut
  by_cases ha : (d.ln n).state = .active
  · rw [if_pos ha]
    exact if_pos (by simp [Dev.lnActive, ha])
  · rw [if_neg ha]
    exact if_neg (by simp [Dev.lnActive, ha])

theorem link_idleOut (i : Nat) : (d.idleOut n).link i = d.link i := by rw [idleOut_eq]; split <;> rfl

theorem reg_idleOut (pg off : Nat) : (d.idleOut n).reg pg off = d.reg pg off := by rw [idleOut_eq]; split <;> rfl

theorem reg64_idleOut (pg off : Nat) : (d.idleOut n).reg64 pg off = d.reg64 pg off := by rw [idleOut_eq]; split <;> rfl

theorem out_idleOut : (d.idleOut n).out = if (d.ln n).state = .active then idleFlit n (d.ln n) :: d.out else d.out := by
  rw [idleOut_eq]; split <;> rfl

theorem kept_idleOut : d.Kept (d.idleOut n) [.out] := by
  rw [idleOut_eq]
  exact kept_ite (fun _ => kept_out _) fun _ => .refl d

theorem Dev.Becomes.idle (h : d.Becomes n y more m) :
    (m.idleOut n).link (d.lnHome n) = y ∧ (m.idleOut n).out = (if y.state = .active then idleFlit n y :: d.out else d.out) ∧
      d.Kept (m.idleOut n) (more ++ [.link (d.lnHome n), .out]) := by
  refine ⟨(link_idleOut _).trans h.link, ?_, ?_⟩
  · rw [out_idleOut, h.ln, h.out]
  · exact (h.kept.trans kept_idleOut).mono (by simp)

/-! ### A flit that is discarded (R290, R297) -/

/-- A link that discards what comes until the flit it expects. -/
def LinkSt.discards (x : LinkSt) : LinkSt := { x with nak := true, ahead := [] }

/-- The link with what its codewords told set aside. -/
def LinkSt.unhit (x : LinkSt) : LinkSt := { x with hit := false }

theorem linksAs_unhit (hh : (d.link n).hit = false) : d.LinksAs (d.modLink n LinkSt.unhit) :=
  linksAs_modLink (by rw [LinkSt.unhit, ← hh])

theorem flitReceive_bad (ho : flitOk b = false) : d.flitReceive n b =
    (((d.modLink n LinkSt.unhit).bump (pgLink (d.lnHome n)) 0x130 1).discardFlit n).idleOut n := by
  unfold Dev.flitReceive
  simp only [ho, Bool.not_false, Bool.true_or, if_true]
  rfl

theorem flitReceive_hit (ho : flitOk b = true) (hh : (d.link n).hit = true) :
    d.flitReceive n b = ((d.modLink n LinkSt.unhit).discardFlit n).idleOut n := by
  unfold Dev.flitReceive
  simp only [ho, hh, Bool.or_true, if_true]
  rfl

/-- A flit whose CRC fails: counted, and asked for again. -/
theorem becomes_bad (hh : (d.link n).hit = false) :
    d.Becomes n (d.ln n).discards [.reg (pgLink (d.lnHome n)) 0x130]
      (((d.modLink n LinkSt.unhit).bump (pgLink (d.lnHome n)) 0x130 1).discardFlit n) := by
  have same := linksAs_unhit hh
  have counted := kept_bump (d := d.modLink n LinkSt.unhit) (pgLink (d.lnHome n)) 0x130 1 (by decide)
  have home : ((d.modLink n LinkSt.unhit).bump (pgLink (d.lnHome n)) 0x130 1).lnHome n = d.lnHome n :=
    (lnHome_congr (lnCfg_of_kept counted (by simp)) n).trans same.home
  have link : ((d.modLink n LinkSt.unhit).bump (pgLink (d.lnHome n)) 0x130 1).link (d.lnHome n) = d.ln n :=
    (Dev.link_bump _ _ _ _ _).trans (same.link _)
  refine ⟨home, ?_, ?_, ?_⟩
  · rw [Dev.discardFlit, Dev.modLn, home, Dev.link_modLink_self, link]; rfl
  · exact (Dev.bump_out _ _ _ _).trans same.out
  · rw [Dev.discardFlit, Dev.modLn, home]
    exact (same.kept.trans counted).trans (kept_modLink _ _)

theorem reg_bad : ((((d.modLink n LinkSt.unhit).bump (pgLink (d.lnHome n)) 0x130 1).discardFlit n).idleOut n).reg
    (pgLink (d.lnHome n)) 0x130 = sat 32 (d.reg (pgLink (d.lnHome n)) 0x130 + 1) :=
  (reg_idleOut _ _).trans (reg_bump_self (d := d.modLink n LinkSt.unhit) (by decide))

/-- A part of a link's state that a change leaves alone is as it was on every link. -/
theorem link_modLink_view {γ : Type} (part : LinkSt → γ) {g : LinkSt → LinkSt} (hg : ∀ x, part (g x) = part x) (i : Nat) :
    part ((d.modLink n g).link i) = part (d.link i) := by
  by_cases hi : i = n
  · rw [hi, Dev.link_modLink_self, hg]
  · rw [Dev.link_modLink_ne _ _ _ hi]

/-- A flit touched by an uncorrectable codeword: asked for again, and the next one is judged for itself. -/
theorem hit_hit : ((((d.modLink n LinkSt.unhit).discardFlit n).idleOut n).link n).hit = false := by
  have asked := link_modLink_view (d := d.modLink n LinkSt.unhit) (n := d.lnHome n) LinkSt.hit (g := LinkSt.discards) (fun _ => rfl) n
  rw [Dev.link_modLink_self] at asked
  exact (congrArg LinkSt.hit (link_idleOut n)).trans asked

theorem link_hit : (((d.modLink n LinkSt.unhit).discardFlit n).idleOut n).link (d.lnHome n) =
    ((d.modLink n LinkSt.unhit).link (d.lnHome n)).discards := (link_idleOut _).trans (Dev.link_modLink_self _ _ _)

theorem rxNext_hit : ((((d.modLink n LinkSt.unhit).discardFlit n).idleOut n).link (d.lnHome n)).rxNext = (d.ln n).rxNext :=
  (congrArg LinkSt.rxNext link_hit).trans (link_modLink_view LinkSt.rxNext (g := LinkSt.unhit) (fun _ => rfl) _)

theorem kept_hit : d.Kept (((d.modLink n LinkSt.unhit).discardFlit n).idleOut n) [.link (d.lnHome n), .link n, .out] :=
  (((kept_modLink n _).trans (kept_modLn n _)).trans kept_idleOut).mono fun x hx => by
    simp only [List.mem_append, List.mem_cons, List.not_mem_nil, or_false] at hx ⊢
    tauto

/-! ### A flit in order (R297, R308) -/

theorem acked_empty {x : LinkSt} (h : x.retry = []) (a : Nat) : x.acked a = x := by
  unfold LinkSt.acked
  rw [h]
  rfl

theorem ackIn_empty (hr : (d.ln n).retry = []) (hw : (d.ln n).waiting = []) (w : Nat) :
    d.LinksAs (d.ackIn n w) := by
  have same : d.LinksAs (d.modLn n fun x => x.acked (w % 2 ^ 14)) := linksAs_modLink (acked_empty hr _)
  have eq : d.ackIn n w = (d.modLn n fun x => x.acked (w % 2 ^ 14)).drainAll n := by
    unfold Dev.ackIn
    dsimp only
    rw [if_neg]
    rintro ⟨-, -, h⟩
    exact h (by rw [same.ln]; exact hr)
  rw [eq, drainAll_none (by rw [same.ln]; exact hw)]
  exact same

/-- A good flit of an ACTIVE link that has nothing to resend or send: IDLE says no more, another is taken as its order has it. -/
theorem flitReceive_active (ho : flitOk b = true) (hh : (d.link n).hit = false) (hs : (d.ln n).state = .active)
    (hr : (d.ln n).retry = []) (hw : (d.ln n).waiting = []) :
    ∃ e, d.LinksAs e ∧ d.flitReceive n b =
      if (LnFlit.parse b).kind = 0 then e else (e.flitIn n (LnFlit.parse b)).idleOut n := by
  have same := linksAs_unhit hh
  refine ⟨(d.modLink n LinkSt.unhit).ackIn n (field b 2 2),
    same.trans (ackIn_empty (by rw [same.ln]; exact hr) (by rw [same.ln]; exact hw) _), ?_⟩
  unfold Dev.flitReceive
  simp only [ho, hh, hs, Bool.not_true, Bool.or_false, Bool.false_eq_true, reduceCtorEq, or_self, ne_eq, not_true_eq_false, if_false]
  rfl

theorem flitIn_stray (hq : f.seq ≠ d.seqDue n) : d.flitIn n f = d.discardFlit n := by
  unfold Dev.flitIn
  exact (if_neg fun h => hq h.2).trans (if_pos (.inr hq))

/-- The link with a flit that waits for its turn. -/
def LinkSt.awaits (f : LnFlit) (x : LinkSt) : LinkSt := { x with ahead := x.ahead ++ [f] }

/-- A flit of a trunk ahead of its turn waits for it, unless one is asked for again. -/
theorem flitIn_ahead (hq : f.seq = d.seqDue n) (hd : d.seqDue n ≠ (d.ln n).rxNext) :
    d.flitIn n f = if (d.ln n).nak then d.discardFlit n else d.modLn n (LinkSt.awaits f) := by
  unfold Dev.flitIn
  refine (if_neg fun h => hd (hq.symm.trans h.1)).trans (ite_congr ?_ (fun _ => rfl) fun _ => rfl)
  simp [hq]

theorem flitIn_due (hq : f.seq = d.seqDue n) (hd : d.seqDue n = (d.ln n).rxNext) (ha : (d.ln n).ahead = []) :
    d.flitIn n f = d.takeFlit n f := by
  unfold Dev.flitIn
  refine (if_pos ⟨hq.trans hd, hq⟩).trans ?_
  rw [ha]
  rfl

/-! ### The flit expected (R297) -/

/-- The link once the flit it expected has come. -/
def LinkSt.next (x : LinkSt) : LinkSt := { x with rxNext := (x.rxNext + 1) % 2 ^ 14, nak := false }

/-- The device once the flit that link n expected has come: the next is expected, and it is counted. -/
def Dev.cameNext (d : Dev) (n : Nat) : Dev := (d.modLn n LinkSt.next).bump64 (pgLink (d.lnHome n)) 0x148 1

theorem takeFlit_eq (d : Dev) (n : Nat) (f : LnFlit) : d.takeFlit n f =
    if f.kind = 3 then f.records.foldl (fun d r => d.recordIn n r) (d.cameNext n) else (d.cameNext n).dataIn n f := rfl

theorem becomes_cameNext (h : d.LinksAs e) :
    d.Becomes n (d.ln n).next [.reg (pgLink (d.lnHome n)) 0x148, .reg (pgLink (d.lnHome n)) 0x14C] (e.cameNext n) := by
  obtain ⟨home, link, out, kept⟩ := becomes_modLn h LinkSt.next
  have counted := kept_bump64 (d := e.modLn n LinkSt.next) (pgLink (e.lnHome n)) 0x148 1 (by decide)
  refine ⟨?_, (Dev.link_bump64 _ _ _ _ _).trans link, (Dev.bump64_out _ _ _ _).trans out, ?_⟩
  · exact (lnHome_congr (lnCfg_of_kept counted (by simp)) n).trans home
  · refine (kept.trans counted).mono fun x hx => ?_
    simp [h.home] at hx ⊢
    tauto

theorem reg64_cameNext (h : d.LinksAs e) :
    (e.cameNext n).reg64 (pgLink (d.lnHome n)) 0x148 = (d.reg64 (pgLink (d.lnHome n)) 0x148 + 1) % 2 ^ 64 := by
  rw [← h.home (n := n)]
  refine (reg64_bump64_self (by decide) 1).trans ?_
  obtain ⟨⟨_, rfl⟩, -⟩ := h
  rfl

/-- No word that says whether data flits are held is that counter. -/
theorem reg_cameNext {pg off : Nat} (h : regKey pg off ≠ regKey (pgLink (d.lnHome n)) 0x148 ∧
    regKey pg off ≠ regKey (pgLink (d.lnHome n)) 0x14C) : (d.cameNext n).reg pg off = d.reg pg off :=
  (Dev.reg_setReg_ne _ _ h.2).trans (Dev.reg_setReg_ne _ _ h.1)

theorem impr_cameNext (p : Nat) {o : Nat} (ho : o = 0 ∨ o = 0x14 ∨ o = 0x18) : (d.cameNext n).impr p o = d.impr p o :=
  reg_cameNext (by unfold regKey pgLink pgDie pgImpr; omega)

theorem groupLink_cameNext (p : Nat) : (d.cameNext n).groupLink p n = d.groupLink p n := by
  unfold Dev.groupLink
  rw [impr_cameNext p (.inl rfl), impr_cameNext p (.inr (.inl rfl)), impr_cameNext p (.inr (.inr rfl))]

theorem lnHolds_cameNext : (d.cameNext n).lnHolds n = d.lnHolds n := by
  have home : (d.cameNext n).lnHome n = d.lnHome n := (becomes_cameNext (.refl d)).home
  have holding : ((d.cameNext n).ln n).holding = (d.ln n).holding := by rw [(becomes_cameNext (.refl d)).ln]; rfl
  have word : (d.cameNext n).reg (pgLink (d.lnHome n)) 0x15C = d.reg (pgLink (d.lnHome n)) 0x15C :=
    reg_cameNext ⟨regKey_ne (by decide) (by decide) (.inr (by decide)), regKey_ne (by decide) (by decide) (.inr (by decide))⟩
  unfold Dev.lnHolds
  simp only [home, holding, word, groupLink_cameNext]
  rfl

/-- The link with one more data flit held. -/
def LinkSt.holds (f : LnFlit) (x : LinkSt) : LinkSt := { x with held := x.held ++ [f] }

theorem dataIn_held (h : d.lnHolds n = true ∨ (d.ln n).held ≠ []) (f : LnFlit) : d.dataIn n f = d.modLn n (LinkSt.holds f) := by
  refine if_pos ?_
  obtain h | h := h <;> simp [h]

theorem becomes_held (h : d.LinksAs e) (hh : d.lnHolds n = true) (f : LnFlit) :
    d.Becomes n ((d.ln n).next.holds f) [.reg (pgLink (d.lnHome n)) 0x148, .reg (pgLink (d.lnHome n)) 0x14C]
      ((e.cameNext n).dataIn n f) := by
  obtain ⟨home, link, out, kept⟩ := becomes_cameNext (n := n) h
  rw [dataIn_held (.inl (lnHolds_cameNext.trans (h.lnHolds.trans hh))), Dev.modLn, home]
  exact ⟨home, (Dev.link_modLink_self _ _ _).trans (congrArg (LinkSt.holds f) link), out, (kept.trans (kept_modLink _ _)).mono (by simp)⟩

end Sys2Proof.Machine
end

section
/-!
PROOF. Data flits that reach their galley, the ABORT of a slug, and what a link does with each (R293, R300, R306, R343).
-/
namespace Sys2Proof.Machine

variable {s : State} {d e : Dev} {n k g : Nat} {b rec : List Byte} {f : LnFlit}

/-! ### The link credit of a flit goes back (R300) -/

/-- The link with the credit of one more flit of its first link channel gone back. -/
def LinkSt.gives (x : LinkSt) : LinkSt := { x with lcGone := (x.lcGone + 1) % 2 ^ 32 }

theorem lcGone_freeLc : ((d.freeLc n 1).link (d.lnHome n)).lcGone = ((d.ln n).lcGone + 1) % 2 ^ 32 :=
  link_modLn_sendRecord LinkSt.lcGone (fun _ => rfl) n LinkSt.gives _ _

theorem keptOutside_freeLc : d.KeptOutside (d.freeLc n 1) (Place.sendOf (d.lnHome n)) := keptOutside_modLn_sendRecord n _ _ _

theorem hdr_freeLc (pg : Nat) : (d.freeLc n 1).hdr pg = d.hdr pg := (sends_sendRecord n _ _).hdr pg

theorem core_freeLc (k : Nat) : (d.freeLc n 1).core k = d.core k := (sends_sendRecord n _ _).core k

/-! ### A GALLEY flit is delivered (R293, R306) -/

theorem dataIn_free (hl : d.lnHolds n = false) (hh : (d.ln n).held = []) (f : LnFlit) : d.dataIn n f = d.deliverFlit n f :=
  if_neg (by simp [hl, hh])

theorem deliver_galley (hk : f.kind = 1) : d.deliverFlit n f = (d.galleyData n f).freeLc n 1 := by
  unfold Dev.deliverFlit
  rw [hk]
  rfl

/-- On a die of no partition a GALLEY flit is an error. -/
theorem galleyData_unowned (hp : d.lnPart n = none) :
    d.galleyData n f = d.setError (pgLink n) 0x0A06 (f.wordA / 2 ^ 21) (d.ln n).epoch :=
  if_pos (by simp [hp])

/-- The galley with more bytes of the slot that a link's flits rebuild, the first with SOS `sos`. -/
def Galley.joined (data : List Byte) (sos poison : Bool) (y : Galley) : Galley :=
  { y with part := y.part ++ data, partSos := y.partSos || (y.part.isEmpty && sos), partPoison := y.partPoison || poison }

/-- Bytes that go on from those of the slot being rebuilt, and do not complete it, join them. -/
theorem galleyPieces_joins {wa fuel : Nat} {bs : List Byte} (hne : bs ≠ [])
    (hlen : ((d.core k).galley g).part.length + bs.length < 64) :
    d.galleyPieces k g wa (fuel + 1) 0 ((d.core k).galley g).part.length bs =
      d.modGalley k g (Galley.joined bs (bit wa 6) (bit wa 1)) := by
  have starts : ¬(((d.core k).galley g).part.length = 0 ∧ ((d.core k).galley g).part ≠ []) := fun h => h.2 (List.length_eq_zero_iff.1 h.1)
  have whole : bs.take (64 - ((d.core k).galley g).part.length) = bs := List.take_of_length_le (by omega)
  unfold Dev.galleyPieces
  dsimp only
  rw [if_neg starts, whole, if_neg (by simpa using hne), if_neg (by simp), if_pos (by simpa using hlen)]
  rfl

/-- A galley that is enabled and fed by link n. -/
def Dev.fedBy (d : Dev) (n k g : Nat) : Prop :=
  k < numCores ∧ ((d.core k).galley g).en = true ∧ ((d.core k).galley g).src = 2 ∧
    d.lnHome ((d.core k).galley g).srcLink = d.lnHome n

theorem Dev.fedBy.guard (h : d.fedBy n k g) : ¬((!((d.core k).galley g).en || ((d.core k).galley g).src != 2 ||
    d.lnHome ((d.core k).galley g).srcLink != d.lnHome n) = true) := by
  obtain ⟨-, en, src, home⟩ := h
  simp [en, src, home]

/-- The bytes that a GALLEY flit carries. -/
def LnFlit.data (f : LnFlit) : List Byte := f.payload.take (min 240 (f.wordB / 2 ^ 24))

/-- A GALLEY flit whose bytes go on from those its galley has. -/
theorem galleyData_joins (hp : d.lnPart n ≠ none) (hk : f.wordA / 2 ^ 21 = k) (hg : f.wordA / 2 ^ 17 % 16 = g) (fed : d.fedBy n k g)
    (hne : f.data ≠ []) (hoff : f.wordA / 2 ^ 11 % 64 = ((d.core k).galley g).part.length)
    (hlen : ((d.core k).galley g).part.length + f.data.length < 64) :
    d.galleyData n f = d.modGalley k g (Galley.joined f.data (bit f.wordA 6) (bit f.wordA 1)) := by
  unfold Dev.galleyData
  rw [hk, hg, hoff]
  refine (if_neg ?_).trans ((if_neg fed.guard).trans (galleyPieces_joins hne hlen))
  rintro (none | big)
  · exact hp (Option.isNone_iff_eq_none.1 none)
  · exact absurd fed.1 (Nat.not_lt.2 big)

/-! ### The ABORT of a slug (R244, R293) -/

/-- Credit that goes back changes of a core no more than what its galley has freed. -/
theorem core_creditBack (d : Dev) (k g m : Nat) : (d.creditBack k g m).core k = d.core k ∨
    ∃ v, (d.creditBack k g m).core k = (d.core k).modGalley g fun x => { x with freed := v } := by
  unfold Dev.creditBack
  dsimp only
  split
  · exact .inl rfl
  · split
    · exact .inl rfl
    · split
      · exact .inr ⟨_, ((sends_sendRecord _ _ _).core k).trans (core_modGalley _)⟩
      · exact .inl rfl

theorem galley_creditBack (d : Dev) (k g m : Nat) :
    ∃ v, ((d.creditBack k g m).core k).galley g = { (d.core k).galley g with freed := v } := by
  obtain same | ⟨v, freed⟩ := core_creditBack d k g m
  · exact ⟨_, congrArg (CoreSt.galley · g) same⟩
  · exact ⟨v, (congrArg (CoreSt.galley · g) freed).trans (galley_modGalley_self _ _ _)⟩

theorem quiet_creditBack (h : (d.core k).GalleysQuiet) (g m : Nat) : ((d.creditBack k g m).core k).GalleysQuiet := by
  obtain same | ⟨v, freed⟩ := core_creditBack d k g m
  · rwa [same]
  · rw [freed]; exact quiet_modGalley h (h.2 g)

theorem hdr_creditBack (m pg : Nat) : (d.creditBack k g m).hdr pg = d.hdr pg := by
  unfold Dev.creditBack
  dsimp only
  split
  · rfl
  · split
    · rfl
    · split
      · exact (sends_sendRecord _ _ _).hdr pg
      · rfl

/-- The galley with the slug at its back cut short, which nothing takes. -/
def Galley.cutShort (x : Galley) : Galley :=
  { x.dropBack.1 with partialCnt := sat 16 (x.partialCnt + 1), taking := false,
                          dropping := if !x.marks.any (·.2) then false else x.dropping }

/-- The device with that slug cut short and its credit back. -/
def Dev.slugCut (d : Dev) (k g : Nat) : Dev :=
  ((d.galleySet k g ((d.core k).galley g).cutShort).raise (pgGalley k) 4).creditBack k g ((d.core k).galley g).dropBack.2

theorem abortSlug_idle (hr : ((d.core k).galley g).receiving = false) (hh : ((d.core k).galley g).halfSlug = false) :
    d.abortSlug k g = d := if_pos (by simp [hr, hh])

theorem abortSlug_cuts (hr : ((d.core k).galley g).receiving = true ∨ ((d.core k).galley g).halfSlug = true)
    (ht : ((d.core k).galley g).taking = false) : d.abortSlug k g = d.slugCut k g := by
  have begun : ¬((!((d.core k).galley g).receiving && !((d.core k).galley g).halfSlug) = true) := by
    obtain h | h := hr <;> simp [h]
  unfold Dev.abortSlug
  dsimp only
  rw [if_neg begun, ht]
  simp only [Bool.and_false, Bool.false_eq_true, if_false, Bool.false_and, Bool.or_false]
  rfl

theorem galley_slugCut : ∃ v, ((d.slugCut k g).core k).galley g = { ((d.core k).galley g).cutShort with freed := v } := by
  obtain ⟨v, freed⟩ := galley_creditBack ((d.galleySet k g ((d.core k).galley g).cutShort).raise (pgGalley k) 4) k g
    ((d.core k).galley g).dropBack.2
  rw [Dev.core_raise, galley_galleySet] at freed
  exact ⟨v, freed⟩

theorem shows_slugCut (d : Dev) (k g : Nat) :
    (((d.slugCut k g).core k).galley g).receiving = false ∧
    (((d.slugCut k g).core k).galley g).partialCnt = sat 16 (((d.core k).galley g).partialCnt + 1) ∧
    (((d.slugCut k g).core k).galley g).occ = ((d.core k).galley g).dropBack.1.occ := by
  obtain ⟨v, now⟩ := galley_slugCut (d := d) (k := k) (g := g)
  rw [now]
  exact ⟨rfl, rfl, by simp only [Galley.occ, Galley.cutShort]⟩

theorem quiet_slugCut (h : (d.core k).GalleysQuiet) : ((d.slugCut k g).core k).GalleysQuiet := by
  refine quiet_creditBack ?_ g _
  rw [Dev.core_raise, Dev.galleySet, core_modGalley]
  refine quiet_modGalley h ?_
  simp [Galley.cutShort, h.2 g]

theorem keptOutside_slugCut : d.KeptOutside (d.slugCut k g) (Place.fabricOf k) :=
  (((kept_galleySet _).outside (by simp [Place.fabricOf])).trans ((kept_raise _ _).outside (by simp [Place.fabricOf]))).trans
    (serves_creditBack _).outside

theorem raw_slugCut : bit ((d.slugCut k g).hdr (pgGalley k)).raw.toNat 4 = true := by
  rw [Dev.slugCut, hdr_creditBack, hdr_raise_self]
  exact bit_raised_raw _ (by decide)

/-- A GALLEY_ABORT whose galley may take it cuts short the slug that comes. -/
theorem abortIn_eq (hk : field rec 4 2 % 2048 = k) (hg : field rec 6 1 % 16 = g) (fed : d.fedBy n k g)
    (hs : ((d.core k).galley g).resync = false) : d.abortIn n rec = (d.abortSlug k g).pumpGalleys k := by
  unfold Dev.abortIn
  rw [hk, hg]
  refine (if_neg (Nat.not_le.2 fed.1)).trans ((if_neg fed.guard).trans ?_)
  unfold Dev.acceptFlit
  dsimp only
  rw [hs]
  rfl

/-! ### The instructions -/

theorem exec_linkFlitReceive (hu : s.Up) (hn : n < 36) :
    exec (.linkFlitReceive n b) s = .next (s.withDev (s.dev.flitReceive n b)) := runIf_live hu (decide_eq_true hn) _

theorem exec_galleyLinkFlit (hu : s.Up) (hn : n < 36) :
    exec (.galleyLinkFlit n b) s = .next (s.withDev (s.dev.dataIn n { LnFlit.parse b with kind := 1 })) :=
  (runIf_live hu (decide_eq_true hn) (·.galleyLinkFlit n b)).trans (congrArg (fun e => Host.Outcome.next (s.withDev e)) (if_pos hn))

theorem exec_galleyAbort (hu : s.Up) (hn : n < 36) (hr : s.dev.recordStale n rec = false) :
    exec (.galleyAbort n rec) s = .next (s.withDev (s.dev.dataIn n { kind := 3, payload := rec })) :=
  (runIf_live hu (decide_eq_true hn) (·.galleyAbort n rec)).trans
    (congrArg (fun e => Host.Outcome.next (s.withDev e)) (onRecord_fresh hr _))

/-- A GALLEY flit of a die of no partition: refused, and its credit goes back. -/
theorem deliver_unowned (hk : f.kind = 1) (hp : d.lnPart n = none) :
    ((d.deliverFlit n f).hdr (pgLink n)).errCode = 0x0A06 ∧
    ((d.deliverFlit n f).link (d.lnHome n)).lcGone = ((d.ln n).lcGone + 1) % 2 ^ 32 ∧
    d.KeptOutside (d.deliverFlit n f) fun p =>
      p.sendOf (d.lnHome n) || p == .hdr (pgLink n) || p == .hdr pgDbg || p == .log := by
  rw [deliver_galley hk, galleyData_unowned hp]
  have failed := kept_setError (d := d) (pgLink n) 0x0A06 (f.wordA / 2 ^ 21) (d.ln n).epoch
  have home := lnHome_congr (lnCfg_of_kept failed (by simp)) n
  have link : (d.setError (pgLink n) 0x0A06 (f.wordA / 2 ^ 21) (d.ln n).epoch).ln n = d.ln n :=
    (congrArg (Dev.link _) home).trans (failed (.link (d.lnHome n)) (by simp))
  refine ⟨?_, ?_, ?_⟩
  · rw [hdr_freeLc]
    exact errCode_setError _ _ _ (pgLink_ne_pgDbg n)
  · rw [← home, lcGone_freeLc, link]
  · rw [← home]
    exact (failed.outside (by simp)).trans (keptOutside_freeLc.mono fun p hp => by simp only [hp, Bool.true_or])

/-- A GALLEY flit whose bytes go on from those its galley has: they join them, and its credit goes back. -/
theorem deliver_joins (hk : f.kind = 1) {y : Galley → Galley} (hd : d.galleyData n f = d.modGalley k g y) :
    ((d.deliverFlit n f).core k).galley g = y ((d.core k).galley g) ∧
    ((d.deliverFlit n f).link (d.lnHome n)).lcGone = ((d.ln n).lcGone + 1) % 2 ^ 32 ∧
    d.KeptOutside (d.deliverFlit n f) fun p => p.sendOf (d.lnHome n) || p == .core k := by
  rw [deliver_galley hk, hd]
  refine ⟨?_, lcGone_freeLc (d := d.modGalley k g y), ?_⟩
  · rw [core_freeLc, core_modGalley, galley_modGalley_self]
  · exact ((kept_modGalley y).outside (by simp)).trans
      (keptOutside_freeLc.mono fun p hp => Bool.or_eq_true_iff.2 (.inl hp))

/-- A galley with no slug on its way is left alone by an ABORT. -/
theorem deliver_abort_idle (fed : d.fedBy n (field rec 4 2 % 2048) (field rec 6 1 % 16))
    (hq : (d.core (field rec 4 2 % 2048)).GalleysQuiet)
    (hs : ((d.core (field rec 4 2 % 2048)).galley (field rec 6 1 % 16)).resync = false)
    (hr : ((d.core (field rec 4 2 % 2048)).galley (field rec 6 1 % 16)).receiving = false)
    (hh : ((d.core (field rec 4 2 % 2048)).galley (field rec 6 1 % 16)).halfSlug = false) :
    d.deliverFlit n { kind := 3, payload := rec } = d :=
  (abortIn_eq rfl rfl fed hs).trans ((congrArg (Dev.pumpGalleys · _) (abortSlug_idle hr hh)).trans (pumpGalleys_quiet hq))

/-- An ABORT cuts short the slug on its way. -/
theorem deliver_abort_cuts (fed : d.fedBy n (field rec 4 2 % 2048) (field rec 6 1 % 16))
    (hq : (d.core (field rec 4 2 % 2048)).GalleysQuiet)
    (hs : ((d.core (field rec 4 2 % 2048)).galley (field rec 6 1 % 16)).resync = false)
    (hr : ((d.core (field rec 4 2 % 2048)).galley (field rec 6 1 % 16)).receiving = true ∨
      ((d.core (field rec 4 2 % 2048)).galley (field rec 6 1 % 16)).halfSlug = true)
    (ht : ((d.core (field rec 4 2 % 2048)).galley (field rec 6 1 % 16)).taking = false) :
    d.deliverFlit n { kind := 3, payload := rec } = d.slugCut (field rec 4 2 % 2048) (field rec 6 1 % 16) :=
  (abortIn_eq rfl rfl fed hs).trans
    ((congrArg (Dev.pumpGalleys · _) (abortSlug_cuts hr ht)).trans (pumpGalleys_quiet (quiet_slugCut hq)))

/-- A flit was received by link n, which is in state `y` then and says so; else only `more` differs. -/
def State.Receives (s : State) (n : Nat) (b : List Byte) (y : LinkSt) (more : List Place) : Prop :=
  ∃ e, exec (.linkFlitReceive n b) s = .next (s.withDev e) ∧ e.link (s.dev.lnHome n) = y ∧
    e.out = idleFlit n y :: s.dev.out ∧ s.dev.Kept e (more ++ [.link (s.dev.lnHome n), .out])

/-- The flit expected is taken. -/
theorem run_due (same : d.LinksAs e) (hk : f.kind ≠ 0) (ha : (d.ln n).ahead = []) (hq : f.seq = d.seqDue n)
    (hd : d.seqDue n = (d.ln n).rxNext) (run : d.flitReceive n b = if f.kind = 0 then e else (e.flitIn n f).idleOut n) :
    d.flitReceive n b = (e.takeFlit n f).idleOut n := by
  rwa [if_neg hk, flitIn_due (by rwa [same.seqDue]) (by rwa [same.seqDue, same.ln]) (by rwa [same.ln])] at run

section
variable (hup : s.Up) (hn : n < 36)
include hup hn

theorem received {m : Dev} {y : LinkSt} {more : List Place} (run : s.dev.flitReceive n b = m.idleOut n)
    (hb : s.dev.Becomes n y more m) (hy : y.state = .active) : s.Receives n b y more := by
  obtain ⟨link, out, kept⟩ := hb.idle
  rw [if_pos hy] at out
  exact ⟨_, (exec_linkFlitReceive hup hn).trans (congrArg (fun e => Host.Outcome.next (s.withDev e)) run), link, out, kept⟩

variable (hs : (s.dev.ln n).state = .active) (same : s.dev.LinksAs e)
  (run : s.dev.flitReceive n b = if (LnFlit.parse b).kind = 0 then e else (e.flitIn n (LnFlit.parse b)).idleOut n)
  (ha : (s.dev.ln n).ahead = []) (hk : (LnFlit.parse b).kind ≠ 0)
include hs same run ha hk

theorem receives_stray (hq : (LnFlit.parse b).seq ≠ s.dev.seqDue n) : s.Receives n b { s.dev.ln n with nak := true } [] := by
  rw [if_neg hk, flitIn_stray (by rwa [same.seqDue])] at run
  have now : (s.dev.ln n).discards = { s.dev.ln n with nak := true } := by rw [LinkSt.discards, ← ha]
  rw [← now]
  exact received hup hn run (becomes_modLn same LinkSt.discards) hs

theorem receives_ahead (hq : (LnFlit.parse b).seq = s.dev.seqDue n) (hd : s.dev.seqDue n ≠ (s.dev.ln n).rxNext) :
    s.Receives n b (if (s.dev.ln n).nak then s.dev.ln n else { s.dev.ln n with ahead := [LnFlit.parse b] }) [] := by
  rw [if_neg hk, flitIn_ahead (by rwa [same.seqDue]) (by rwa [same.seqDue, same.ln]), same.ln] at run
  by_cases asked : (s.dev.ln n).nak = true
  · rw [if_pos asked] at run ⊢
    have now : (s.dev.ln n).discards = s.dev.ln n := by rw [LinkSt.discards, ← ha, ← asked]
    have becomes := becomes_modLn (n := n) same LinkSt.discards
    rw [now] at becomes
    exact received hup hn run becomes hs
  · rw [if_neg asked] at run ⊢
    have now : (s.dev.ln n).awaits (LnFlit.parse b) = { s.dev.ln n with ahead := [LnFlit.parse b] } := by rw [LinkSt.awaits, ha]; rfl
    rw [← now]
    exact received hup hn run (becomes_modLn same (LinkSt.awaits (LnFlit.parse b))) hs

variable (hq : (LnFlit.parse b).seq = s.dev.seqDue n) (hd : s.dev.seqDue n = (s.dev.ln n).rxNext)
include hq hd

theorem receives_empty (h3 : (LnFlit.parse b).kind = 3) (hr : (LnFlit.parse b).records = []) :
    s.Receives n b (s.dev.ln n).next [.reg (pgLink (s.dev.lnHome n)) 0x148, .reg (pgLink (s.dev.lnHome n)) 0x14C] ∧
    ∃ e, exec (.linkFlitReceive n b) s = .next (s.withDev e) ∧
      e.reg64 (pgLink (s.dev.lnHome n)) 0x148 = (s.dev.reg64 (pgLink (s.dev.lnHome n)) 0x148 + 1) % 2 ^ 64 := by
  have taken := run_due same hk ha hq hd run
  rw [takeFlit_eq, if_pos h3, hr, List.foldl_nil] at taken
  exact ⟨received hup hn taken (becomes_cameNext same) hs, _, exec_linkFlitReceive hup hn, by
    rw [taken, reg64_idleOut]; exact reg64_cameNext same⟩

theorem receives_held (h3 : (LnFlit.parse b).kind ≠ 3) (hl : s.dev.lnHolds n = true) :
    s.Receives n b ((s.dev.ln n).next.holds (LnFlit.parse b))
      [.reg (pgLink (s.dev.lnHome n)) 0x148, .reg (pgLink (s.dev.lnHome n)) 0x14C] := by
  have taken := run_due same hk ha hq hd run
  rw [takeFlit_eq, if_neg h3] at taken
  exact received hup hn taken (becomes_held same hl _) hs

end

/-- Settles O32: each clause is one branch of the receiver, which then says how it stands, or of the delivery of a flit. -/
theorem linkFlits : Obligations.LinkFlits := by
  unfold Obligations.LinkFlits
  intro s n b rec hup hn d h x f hit idle
  refine ⟨fun ho hh => ⟨_, exec_linkFlitReceive hup hn, ?_⟩, fun ho hh => ⟨_, exec_linkFlitReceive hup hn, ?_⟩,
    fun ho hh hs hr hw ha => ?_, fun hl => ⟨_, exec_galleyLinkFlit hup hn, ?_⟩, fun hr hl => ⟨_, exec_galleyAbort hup hn hr, ?_⟩,
    fun hl hh => ⟨fun hp => ⟨_, exec_galleyLinkFlit hup hn, ?_⟩, fun hp hk hen hsrc home hne hoff hlen =>
      ⟨_, exec_galleyLinkFlit hup hn, ?_⟩⟩,
    fun hr hl hh hk hen hsrc home hq hsync => ⟨fun hrec hhalf => ⟨_, exec_galleyAbort hup hn hr, ?_⟩, fun hrec ht =>
      ⟨_, exec_galleyAbort hup hn hr, ?_⟩⟩⟩
  · rw [flitReceive_bad ho]
    obtain ⟨link, out, kept⟩ := (becomes_bad (d := d) hh).idle
    exact ⟨link, out, reg_bad, kept.mono (by simp [h])⟩
  · rw [flitReceive_hit ho hh]
    exact ⟨hit_hit, congrArg LinkSt.nak link_hit, congrArg LinkSt.ahead link_hit, rxNext_hit, kept_hit⟩
  · obtain ⟨e, same, run⟩ := flitReceive_active (d := d) ho hh hs hr hw
    intro got counts due
    refine ⟨fun hk => ⟨e, ?_, same.kept⟩, fun hk hq => receives_stray hup hn hs same run ha hk hq,
      fun hk hq hd => receives_ahead hup hn hs same run ha hk hq hd,
      fun hq hd h3 hrec => receives_empty hup hn hs same run ha (ne_of_eq_of_ne h3 (by decide)) hq hd h3 hrec,
      fun hq hd hk hl => receives_held hup hn hs same run ha
        (hk.elim (ne_of_eq_of_ne · (by decide)) (ne_of_eq_of_ne · (by decide))) hq hd
        (hk.elim (ne_of_eq_of_ne · (by decide)) (ne_of_eq_of_ne · (by decide))) hl⟩
    rw [exec_linkFlitReceive hup hn, run, if_pos hk]
  · rw [dataIn_held hl]
    exact ⟨ln_modLn n _, kept_modLn n _⟩
  · rw [dataIn_held hl]
    exact ⟨ln_modLn n _, kept_modLn n _⟩
  · rw [dataIn_free hl hh]
    exact deliver_unowned rfl hp
  · rw [dataIn_free hl hh]
    exact deliver_joins (f := { LnFlit.parse b with kind := 1 }) rfl (galleyData_joins hp rfl rfl ⟨hk, hen, hsrc, home⟩ hne hoff hlen)
  · rw [dataIn_free hl hh, deliver_abort_idle ⟨hk, hen, hsrc, home⟩ hq hsync hrec hhalf]
    exact .refl d
  · rw [dataIn_free hl hh, deliver_abort_cuts ⟨hk, hen, hsrc, home⟩ hq hsync hrec ht]
    obtain ⟨receiving, partialCnt, occ⟩ := shows_slugCut d (field rec 4 2 % 2048) (field rec 6 1 % 16)
    exact ⟨receiving, partialCnt, occ, raw_slugCut, keptOutside_slugCut⟩

end Sys2Proof.Machine
end

section
/-!
PROOF. Kicks of a collective entry (R317).
-/
namespace Sys2Proof.Machine

variable {s : State} {d : Dev} {c src tag : Nat} {payload : List Byte}

/-- Kicks that the entry needs, as its table says. -/
def Dev.kicksOf (d : Dev) (c tag : Nat) : Nat := field (d.read (d.collTable c + 128 * tag) 128) 0x3C 2

/-- A kick of an entry that carries its next ARM. -/
def Dev.goodKick (d : Dev) (c tag : Nat) (payload : List Byte) : Prop :=
  tag < 64 ∧ payload.length = 8 ∧ field payload 0 1 = tget 0 (d.coll c).arms tag

/-- The engine with an entry kicked once more, of the `need` kicks it takes. -/
def CollSt.kicked (tag need : Nat) (x : CollSt) : CollSt :=
  { x with kicks := tset 0 x.kicks tag (tget 0 x.kicks tag + 1)
           ready := if tget 0 x.kicks tag + 1 = max 1 need ∧ tag ∉ x.ready then x.ready ++ [tag] else x.ready }

theorem kick_good (h : d.goodKick c tag payload) :
    d.kick c src tag payload = d.modColl c (CollSt.kicked tag (d.kicksOf c tag)) := by
  unfold Dev.kick
  refine (if_pos h).trans ?_
  simp only [List.contains_eq_mem, Bool.not_eq_true', decide_eq_false_iff_not]
  rfl

theorem kick_other (h : ¬d.goodKick c tag payload) : d.kick c src tag payload = d.setError (pgColl c) 0x0A47 (src % 2048) 0 :=
  if_neg h

theorem exec_collKick (hu : s.Up) (hc : c < 4) :
    exec (.collKick c src tag payload) s = .next (s.withDev (s.dev.kick c src tag payload)) :=
  (runIf_live hu (decide_eq_true hc) (·.collKick c src tag payload)).trans
    (congrArg (fun e => Host.Outcome.next (s.withDev e)) (if_pos hc))

/-- Settles O33: a kick is counted, or it is an error of the engine. -/
theorem collKicks : Obligations.CollKicks := by
  unfold Obligations.CollKicks
  intro s c src tag payload hup hc d x n need good
  refine ⟨fun hg => ⟨_, exec_collKick hup hc, ?_⟩, fun hg => ⟨_, exec_collKick hup hc, ?_⟩⟩
  · rw [kick_good hg, Dev.coll_modColl_self]
    exact ⟨fun i => tget_tset, rfl, rfl, rfl, kept_modColl _ _⟩
  · rw [kick_other hg]
    exact ⟨errCode_setError _ _ _ (pgColl_ne_pgDbg c), kept_setError _ _ _ _⟩

end Sys2Proof.Machine
end

section
/-!
PROOF. The copy of a permute (R326), refuted: a write may drop what a table lists twice, and with it a held write that made the map
readable.
-/
namespace Sys2Proof.Machine

/-- A map of one outgoing tile of one byte, at address 0x80, of rank 1. -/
def oneTileMap : List Byte :=
  List.replicate 12 0#8 ++ [1#8, 0#8, 0#8, 0#8, 0x80#8, 0#8, 0#8, 0#8, 0#8, 0#8, 1#8] ++ List.replicate 9 0#8

/-- A permute of rank 1 whose map lies at address 0, of one entry, and whose scratch lies at 0x40. -/
def oneTileRun : CollRun where
  ent := [7#8, 0#8, 0#8, 0#8, 1#8] ++ List.replicate 27 0#8 ++ 0x40#8 :: List.replicate 23 0#8 ++ 1#8 :: List.replicate 71 0#8

/-- A device that runs it on channel 0 of engine 0. The map reads, though its unit is uncorrectable, for a held write covers it;
the table of stacks lists stack 0 twice, out of its canonical form, and that write in the second place. -/
def oneTileRuns : Dev where
  dies := [(0, { part := some 0 })]
  colls := [(0, { chans := [(0, some oneTileRun)] })]
  cows := [(0, {}), (0, { held := [(0, oneTileMap)] })]
  ecc := [0]

/-- The module in READY with that device. -/
def oneTileState : State where
  chip := { dev := oneTileRuns, pow := { mode := .ready, stage := 3, hubRails := true, dieRails := true } }

theorem outgoing_oneTile : outgoing oneTileRun.e (oneTileRuns.collMap oneTileRun.e) =
    [(0, { size := 1, srcRank := 1, src := 0x80 }, 0)] := by decide

/-- Nothing is unreadable before the copy. -/
theorem readable_oneTile : oneTileRuns.bad oneTileRun.e.map (32 * oneTileRun.e.mapCount) = false ∧
    oneTileRuns.bad 0x80 1 = false := by decide

/-- The tile's place in scratch may be written. -/
theorem reach_oneTile : oneTileRuns.collReach 0 (oneTileRun.e.scratch + 0) 1 = true ∧
    oneTileRuns.inHold (oneTileRun.e.scratch + 0) 1 = false := by decide

/-- The copy's write drops the held write, and the map, unreadable then, fails the run. -/
theorem copy_oneTile : ((oneTileRuns.permuteCopyDone 0 0).collRun 0 0).map CollRun.fail = some 0x0A46 := by decide

/-- Refutes O34: the statement's run has not failed once its tile is copied, and this one has. -/
theorem not_collRuns : ¬ Obligations.CollRuns := by
  intro h
  obtain ⟨-, copy, -⟩ := h oneTileState 0 0 0 rfl (by decide) (by decide) (by decide)
  obtain ⟨-, copies⟩ := copy oneTileRun rfl (by decide) rfl rfl rfl (by decide) rfl (by decide)
  have unread : (oneTileRuns.bad oneTileRun.e.map (32 * oneTileRun.e.mapCount) ||
      (outgoing oneTileRun.e (oneTileRuns.collMap oneTileRun.e)).any fun q => oneTileRuns.bad q.2.1.src q.2.1.size) = false := by
    simp [outgoing_oneTile, readable_oneTile]
  have writes : ∀ q ∈ outgoing oneTileRun.e (oneTileRuns.collMap oneTileRun.e),
      oneTileRuns.collReach 0 (oneTileRun.e.scratch + q.2.2) q.2.1.size = true ∧
        oneTileRuns.inHold (oneTileRun.e.scratch + q.2.2) q.2.1.size = false := by
    rw [outgoing_oneTile]
    exact List.forall_mem_singleton.2 reach_oneTile
  obtain ⟨e, run, shows, -⟩ := copies unread rfl rfl rfl rfl writes
  have ends : exec (.permuteCopyDone 0 0) oneTileState = .next (oneTileState.withDev (oneTileRuns.permuteCopyDone 0 0)) :=
    runIf_live (s := oneTileState) rfl (by decide) (·.permuteCopyDone 0 0)
  have dev : e = oneTileRuns.permuteCopyDone 0 0 := congrArg State.dev (Host.Outcome.next.inj (run.symm.trans ends))
  have failed := copy_oneTile
  rw [← dev, shows] at failed
  exact absurd failed (by decide)

end Sys2Proof.Machine
end

section
/-!
PROOF. What reaches a collective run by a link (R318, R321, R323, R326).
-/
namespace Sys2Proof.Machine

section
variable {α : Type} {z v : α} {t : Table α} {k : Nat}

/-! ### A table set twice alike -/

theorem tdrop_absent (h : ∀ x ∈ t, x.1 ≠ k) : tdrop t k = t := List.filter_eq_self.2 fun x hx => by simpa using h x hx

theorem tdrop_tdrop : tdrop (tdrop t k) k = tdrop t k := tdrop_absent fun x hx => by simpa using (List.mem_filter.1 hx).2

variable [DecidableEq α]

theorem tset_absent (h : ∀ x ∈ t, x.1 ≠ k) : tset z t k z = t := by
  induction t with
  | nil => simp [tset, tcell]
  | cons x t ih =>
    obtain ⟨hx, ht⟩ := List.forall_mem_cons.1 h
    simp [tset, tcell, hx, tdrop_absent ht, ih ht]

theorem tset_tset_same : tset z (tset z t k v) k v = tset z t k v := by
  induction t with
  | nil => by_cases hv : v = z <;> simp [tset, tcell, hv, tdrop]
  | cons x t ih =>
    obtain ⟨j, w⟩ := x
    by_cases hj : j = k
    · by_cases hv : v = z
      · subst hv
        simp only [tset, tcell, hj, beq_self_eq_true, if_true, List.nil_append]
        exact tset_absent fun x hx => by simpa using (List.mem_filter.1 hx).2
      · simp [tset, tcell, hj, hv, tdrop_tdrop]
    · by_cases hk : k < j
      · by_cases hv : v = z
        · simp [tset, tcell, hj, hk, hv, tdrop_tdrop]
        · have rest : tdrop ((j, w) :: tdrop t k) k = (j, w) :: tdrop t k := by
            rw [tdrop, List.filter_cons_of_pos (by simpa using hj)]
            exact congrArg _ tdrop_tdrop
          simp [tset, tcell, hj, hk, hv, rest]
      · simp [tset, hj, hk, ih]

end

variable {s : State} {d : Dev} {n c ch code port : Nat} {rec b : List Byte} {r : CollRun} {f : LnFlit}

/-! ### A run on its channel -/

theorem collRun_setRun (x : Option CollRun) : (d.setRun c ch x).collRun c ch = x := by
  unfold Dev.collRun Dev.setRun
  rw [Dev.coll_modColl_self]
  exact tget_tset_self

theorem setRun_setRun (x : Option CollRun) : (d.setRun c ch x).setRun c ch x = d.setRun c ch x := by
  have engine : tset none ((d.setRun c ch x).coll c).chans ch x = ((d.setRun c ch x).coll c).chans := by
    unfold Dev.setRun
    rw [Dev.coll_modColl_self]
    exact tset_tset_same
  change (d.setRun c ch x).modColl c (fun y => { y with chans := tset none y.chans ch x }) = _
  rw [Dev.modColl, engine]
  unfold Dev.setRun
  rw [Dev.coll_modColl_self]
  exact congrArg (fun colls => { d with colls }) tset_tset_same

theorem kept_setRun (x : Option CollRun) : d.Kept (d.setRun c ch x) [.coll c] := kept_modColl _ _

/-- A change that leaves the run just set as it is leaves the device. -/
theorem modRun_setRun {g : CollRun → CollRun} (hg : g r = r) :
    (d.setRun c ch (some r)).modRun c ch g = d.setRun c ch (some r) := by
  rw [Dev.modRun, collRun_setRun, Option.map_some, hg, setRun_setRun]

theorem modRun_eq (h : d.collRun c ch = some r) (g : CollRun → CollRun) : d.modRun c ch g = d.setRun c ch (some (g r)) := by
  rw [Dev.modRun, h]; rfl

/-- A run that goes on fails, with the engine's error. -/
theorem failRun_eq (h : d.collRun c ch = some r) (hf : r.fail = 0) (hd : r.done = false) (code : Nat) :
    d.failRun c ch code = (d.setRun c ch (some { r with fail := code })).setError (pgColl c) code
      (r.entry * 2 ^ 26 + r.arm * 2 ^ 18) r.e.rank := by
  unfold Dev.failRun
  rw [h]
  refine (if_neg ?_).trans (by rw [modRun_eq h])
  simp [hf, hd]

theorem failRun_shows (h : d.collRun c ch = some r) (hf : r.fail = 0) (hd : r.done = false) (code : Nat) :
    (d.failRun c ch code).collRun c ch = some { r with fail := code } ∧ ((d.failRun c ch code).hdr (pgColl c)).errCode = code := by
  rw [failRun_eq h hf hd]
  refine ⟨?_, errCode_setError _ _ _ (pgColl_ne_pgDbg c)⟩
  unfold Dev.collRun
  rw [Dev.coll_setError]
  exact collRun_setRun _

/-! ### A run that an event leaves where it is -/

theorem routeSend_nil (route : Nat) : d.routeSend c route [] = d := by unfold Dev.routeSend; split <;> rfl

/-- With no flit that waits for a neighbour none leaves. -/
theorem flushWait_idle (hu : r.upWait = []) (hd : r.downWait = []) :
    (d.setRun c ch (some r)).flushWait c ch = d.setRun c ch (some r) := by
  have up := modRun_setRun (d := d) (c := c) (ch := ch) (r := r) (g := fun r => { r with upWait := [] }) (by rw [← hu])
  have down := modRun_setRun (d := d) (c := c) (ch := ch) (r := r) (g := fun r => { r with downWait := [] }) (by rw [← hd])
  unfold Dev.flushWait
  rw [collRun_setRun]
  dsimp only
  rw [hu, hd, up]
  simp only [routeSend_nil, ite_self, down]

/-- A permute that has not copied its tiles only notes what has come. -/
theorem pumpPermute_idle (hc : r.copied = false) (hg : r.go = false) (hf : r.inFlits = [])
    (hm : d.bad r.e.map (32 * r.e.mapCount) = false) :
    (d.setRun c ch (some r)).pumpPermute c ch = d.setRun c ch (some r) := by
  have waves : (d.setRun c ch (some r)).waves c ch = d.setRun c ch (some r) := by
    unfold Dev.waves
    rw [collRun_setRun]
    simp [hc, hg]
  have taken := modRun_setRun (d := d) (c := c) (ch := ch) (r := r) (g := fun r => { r with inFlits := [] }) (by rw [← hf])
  have map : (d.setRun c ch (some r)).bad r.e.map (32 * r.e.mapCount) = false := hm
  unfold Dev.pumpPermute
  rw [collRun_setRun]
  dsimp only
  rw [map, taken, hf, List.foldl_nil, waves]
  simp

theorem pumpChan_idle (h : d.collStep c ch = none) (fuel : Nat) : d.pumpChan c ch fuel = d := by
  cases fuel with
  | zero => rfl
  | succ fuel => unfold Dev.pumpChan; rw [h]

/-- A run that an event has moved no further, and that is not over, stands as the event left it. -/
theorem pumpRun_idle (hu : r.upWait = []) (hd : r.downWait = [])
    (work : (if r.e.op = 7 then (d.setRun c ch (some r)).pumpPermute c ch
      else (d.setRun c ch (some r)).pumpChan c ch r.e.work) = d.setRun c ch (some r))
    (ended : d.runOver c r r.e = false) : (d.setRun c ch (some r)).pumpRun c ch = d.setRun c ch (some r) := by
  have same : (d.setRun c ch (some r)).runOver c r r.e = false := ended
  unfold Dev.pumpRun
  rw [collRun_setRun]
  dsimp only
  rw [flushWait_idle hu hd, work, collRun_setRun]
  dsimp only
  rw [same]
  simp

/-! ### COLL_START and COLL_WAVE (R318, R326) -/

/-- The engine with a record that waits for its run. -/
def CollSt.waits (p : Nat) (rec : List Byte) (x : CollSt) : CollSt := { x with early := x.early ++ [(p, rec)] }

theorem collStartIn_early (h : d.findRun c (field rec 4 1 / 4) (field rec 5 1) = none) :
    d.collStartIn c port rec = d.modColl c (CollSt.waits port rec) := by
  unfold Dev.collStartIn
  rw [h]
  rfl

/-- A start of another operation fails the run it meets. -/
theorem collStartIn_other (h : d.findRun c (field rec 4 1 / 4) (field rec 5 1) = some ch) (hr : d.collRun c ch = some r)
    (hne : (rec.drop 6).take 6 ≠ ((startBody r).drop 2).take 6) : d.collStartIn c port rec = d.failRun c ch 0x0A41 := by
  unfold Dev.collStartIn Dev.meetStart
  rw [h]
  dsimp only
  rw [hr]
  dsimp only
  split
  · rfl
  · exact if_pos (by simp [hne])

theorem collWaveIn_early (h : d.findRun c (field rec 4 1 / 4) (field rec 5 1) = none)
    (ha : field rec 5 1 = tget 0 (d.coll c).arms (field rec 4 1 / 4)) : d.collWaveIn c rec = d.modColl c (CollSt.waits 36 rec) := by
  unfold Dev.collWaveIn
  rw [h]
  exact if_pos ha

theorem collWaveIn_late (h : d.findRun c (field rec 4 1 / 4) (field rec 5 1) = none)
    (ha : field rec 5 1 ≠ tget 0 (d.coll c).arms (field rec 4 1 / 4)) : d.collWaveIn c rec = d := by
  unfold Dev.collWaveIn
  rw [h]
  exact if_neg ha

/-- The run with a READY from below. -/
def CollRun.readied (r : CollRun) : CollRun := { r with ready := true }

/-- A READY that a permute without its copy has is noted. -/
theorem collWaveIn_ready (h : d.findRun c (field rec 4 1 / 4) (field rec 5 1) = some ch) (hr : d.collRun c ch = some r)
    (hop : r.e.op = 7) (hc : r.copied = false) (hg : r.go = false) (hs : r.sent = false) (hu : r.upWait = [])
    (hd : r.downWait = []) (hf : r.inFlits = []) (hm : d.bad r.e.map (32 * r.e.mapCount) = false) (hk : field rec 6 1 = 0) :
    d.collWaveIn c rec = d.setRun c ch (some r.readied) := by
  have ended : d.runOver c r.readied r.readied.e = false := by
    have op : r.readied.e.op = 7 := hop
    have sent : r.readied.sent = false := hs
    unfold Dev.runOver Dev.permuteDone
    rw [if_pos op, sent]
    simp
  unfold Dev.collWaveIn
  rw [h]
  dsimp only
  rw [modRun_eq hr, if_pos hk]
  exact pumpRun_idle hu hd ((if_pos hop).trans (pumpPermute_idle hc hg hf hm)) ended

theorem exec_collStart (hu : s.Up) (hn : n < 36) (hr : s.dev.recordStale n rec = false) :
    exec (.collStart n rec) s = .next (s.withDev (s.dev.collStartIn (n / 9) (s.dev.lnHome n) rec)) :=
  (runIf_live hu (decide_eq_true (by omega)) (·.collStartRec n rec)).trans
    (congrArg (fun e => Host.Outcome.next (s.withDev e)) ((if_neg (by omega)).trans (onRecord_fresh hr _)))

theorem exec_collWave (hu : s.Up) (hn : n < 36) (hr : s.dev.recordStale n rec = false) :
    exec (.collWave n rec) s = .next (s.withDev (s.dev.collWaveIn (n / 9) rec)) :=
  (runIf_live hu (decide_eq_true (by omega)) (·.collWaveRec n rec)).trans
    (congrArg (fun e => Host.Outcome.next (s.withDev e)) ((if_neg (by omega)).trans (onRecord_fresh hr _)))

/-! ### COLL_FLIT (R321, R323) -/

/-- The link with the credit of one more flit of its second link channel gone back. -/
def LinkSt.givesSecond (x : LinkSt) : LinkSt := { x with lcGone2 := (x.lcGone2 + 1) % 2 ^ 32 }

theorem keptOutside_freeLc_two : d.KeptOutside (d.freeLc n 2) (Place.sendOf (d.lnHome n)) := keptOutside_modLn_sendRecord n _ _ _

theorem hdr_freeLc_two (pg : Nat) : (d.freeLc n 2).hdr pg = d.hdr pg := (sends_sendRecord n _ _).hdr pg

theorem collRun_freeLc_two : (d.freeLc n 2).collRun c ch = d.collRun c ch :=
  congrArg (fun x : CollSt => tget none x.chans ch) ((sends_sendRecord n _ _).coll c)

theorem deliver_coll (hk : f.kind = 2) (hp : d.lnPart n ≠ none) :
    d.deliverFlit n f = (d.collFlitIn (n / 9) (d.lnHome n) f).freeLc n 2 := by
  unfold Dev.deliverFlit
  rw [hk]
  exact congrArg (Dev.freeLc · n 2) (if_neg fun h => hp (Option.isNone_iff_eq_none.1 h))

/-- Bytes received of a run's stream in a direction. -/
def CollRun.got (r : CollRun) (up : Bool) : Nat := if up then r.rUp else r.rDown

/-- Bytes of a flit that belong to the stream. -/
def CollRun.part (r : CollRun) (up : Bool) (f : LnFlit) : List Byte :=
  f.payload.take (match r.e.streamBytes up with | some t => min 240 (t - r.got up) | none => 240)

/-- The run with those bytes received. -/
def CollRun.joined (r : CollRun) (up : Bool) (f : LnFlit) : CollRun :=
  if up then { r with inUp := r.inUp ++ r.part up f, rUp := r.got up + (r.part up f).length }
  else { r with inDown := r.inDown ++ r.part up f, rDown := r.got up + (r.part up f).length }

section
variable (h : d.findRun c (f.wordA / 2 ^ 26) (f.wordA / 2 ^ 16 % 256) = some ch) (hr : d.collRun c ch = some r) (hf : r.fail = 0)
  (hop : r.e.op ≠ 7)
include h hr hf hop

theorem collFlitIn_fails (hx : f.wordA / 2 ^ 24 % 4 ≠ r.e.phase (d.collPort c r.e.down == some port) ∨
      f.wordB ≠ r.got (d.collPort c r.e.down == some port) ∨ r.streamOver r.e (d.collPort c r.e.down == some port) = true) :
    d.collFlitIn c port f = d.failRun c ch 0x0A43 := by
  unfold Dev.collFlitIn
  rw [h]
  dsimp only
  rw [hr]
  dsimp only
  refine (if_neg (not_not.2 hf)).trans ?_
  by_cases hp : f.wordA / 2 ^ 24 % 4 = r.e.phase (d.collPort c r.e.down == some port)
  · exact (if_neg (not_not.2 hp)).trans ((if_neg hop).trans (if_pos (hx.resolve_left (not_not.2 hp))))
  · exact if_pos hp

theorem collFlitIn_joins (hp : f.wordA / 2 ^ 24 % 4 = r.e.phase (d.collPort c r.e.down == some port))
    (hw : f.wordB = r.got (d.collPort c r.e.down == some port))
    (ho : r.streamOver r.e (d.collPort c r.e.down == some port) = false) :
    d.collFlitIn c port f = (d.setRun c ch (some (r.joined (d.collPort c r.e.down == some port) f))).pumpRun c ch := by
  unfold Dev.collFlitIn
  rw [h]
  dsimp only
  rw [hr]
  dsimp only
  refine (if_neg (not_not.2 hf)).trans ((if_neg (not_not.2 hp)).trans ((if_neg hop).trans ((if_neg ?_).trans ?_)))
  · rintro (other | ended)
    · exact other hw
    · exact absurd (ended.symm.trans ho) (by decide)
  · rw [modRun_eq hr]
    rfl

end

theorem joined_keeps (r : CollRun) (up : Bool) (f : LnFlit) :
    (r.joined up f).e = r.e ∧ (r.joined up f).upWait = r.upWait ∧ (r.joined up f).downWait = r.downWait := by
  cases up <;> exact ⟨rfl, rfl, rfl⟩

/-- Stream bytes with which the run can form nothing yet only join it. -/
theorem pumpRun_joined (hop : r.e.op ≠ 7) (hu : r.upWait = []) (hw : r.downWait = []) {up : Bool}
    (hstep : (d.setRun c ch (some (r.joined up f))).collStep c ch = none) (hrun : d.runOver c (r.joined up f) r.e = false) :
    (d.setRun c ch (some (r.joined up f))).pumpRun c ch = d.setRun c ch (some (r.joined up f)) := by
  obtain ⟨ent, upWait, downWait⟩ := joined_keeps r up f
  refine pumpRun_idle (upWait.trans hu) (downWait.trans hw) ?_ (by rw [ent]; exact hrun)
  rw [ent, if_neg hop]
  exact pumpChan_idle hstep _

section
variable (hk : f.kind = 2) (hp : d.lnPart n ≠ none)
include hk hp

theorem deliver_coll_joins {up : Bool}
    (h : d.collFlitIn (n / 9) (d.lnHome n) f = d.setRun (n / 9) ch (some (r.joined up f))) :
    (d.deliverFlit n f).collRun (n / 9) ch = some (r.joined up f) ∧
      d.KeptOutside (d.deliverFlit n f) fun p => p.sendOf (d.lnHome n) || p == .coll (n / 9) := by
  rw [deliver_coll hk hp, h]
  have set := kept_setRun (d := d) (c := n / 9) (ch := ch) (some (r.joined up f))
  have freed := keptOutside_freeLc_two (d := d.setRun (n / 9) ch (some (r.joined up f))) (n := n)
  exact ⟨collRun_freeLc_two.trans (collRun_setRun _),
    (set.outside (by simp)).trans (freed.mono fun p hp => Bool.or_eq_true_iff.2 (.inl hp))⟩

theorem deliver_coll_fails (hr : d.collRun (n / 9) ch = some r) (hf : r.fail = 0) (hd : r.done = false)
    (h : d.collFlitIn (n / 9) (d.lnHome n) f = d.failRun (n / 9) ch code) :
    (d.deliverFlit n f).collRun (n / 9) ch = some { r with fail := code } ∧
      ((d.deliverFlit n f).hdr (pgColl (n / 9))).errCode = code ∧
      d.KeptOutside (d.deliverFlit n f) fun p =>
        p.sendOf (d.lnHome n) || p == .coll (n / 9) || p == .hdr (pgColl (n / 9)) || p == .hdr pgDbg || p == .log := by
  rw [deliver_coll hk hp, h]
  obtain ⟨run, err⟩ := failRun_shows hr hf hd code
  have failed := kept_failRun (d := d) (n / 9) ch code
  have freed := keptOutside_freeLc_two (d := d.failRun (n / 9) ch code) (n := n)
  rw [lnHome_congr (lnCfg_of_kept failed (by simp))] at freed
  refine ⟨collRun_freeLc_two.trans run, ?_, (failed.outside (by simp)).trans (freed.mono fun p hp => by simp only [hp, Bool.true_or])⟩
  rw [hdr_freeLc_two]
  exact err

end

theorem exec_collFlit (hu : s.Up) (hn : n < 36) :
    exec (.collFlit n b) s = .next (s.withDev (s.dev.dataIn n { LnFlit.parse b with kind := 2 })) :=
  (runIf_live hu (decide_eq_true (by omega)) (·.collFlitRow n b)).trans (congrArg (fun e => Host.Outcome.next (s.withDev e)) (if_pos hn))

/-- Settles O35: a record or flit meets its run and changes or fails it, and what it leaves moves the run no further. -/
theorem collMessages : Obligations.CollMessages := by
  unfold Obligations.CollMessages
  intro s n ch rec b hup hn d h c find
  refine ⟨fun hr => ⟨fun hf => ⟨_, exec_collStart hup hn hr, ?_⟩, fun r hf hc h0 hd hne => ⟨_, exec_collStart hup hn hr, ?_⟩,
    fun hf ha => ⟨_, exec_collWave hup hn hr, ?_⟩, fun hf ha => ?_,
    fun r hf hc hop h0 hcopy hgo hs hu hd hi hm hk => ⟨_, exec_collWave hup hn hr, ?_⟩⟩,
    fun hl hh hp r hf hc h0 hd hop hu hw => ⟨fun hphase hgot hover hstep hrun => ⟨_, exec_collFlit hup hn, ?_⟩,
      fun hx => ⟨_, exec_collFlit hup hn, ?_⟩⟩⟩
  · rw [collStartIn_early hf]
    exact ⟨Dev.coll_modColl_self _ _ _, kept_modColl _ _⟩
  · rw [collStartIn_other hf hc hne]
    obtain ⟨run, err⟩ := failRun_shows hc h0 hd 0x0A41
    exact ⟨run, err, kept_failRun _ _ _⟩
  · rw [collWaveIn_early hf ha]
    exact ⟨Dev.coll_modColl_self _ _ _, kept_modColl _ _⟩
  · rw [exec_collWave hup hn hr, collWaveIn_late hf ha]
    rfl
  · rw [collWaveIn_ready hf hc hop hcopy hgo hs hu hd hi hm hk]
    exact ⟨collRun_setRun _, kept_setRun _⟩
  · rw [dataIn_free hl hh]
    exact deliver_coll_joins rfl hp ((collFlitIn_joins hf hc h0 hop hphase hgot hover).trans (pumpRun_joined hop hu hw hstep hrun))
  · rw [dataIn_free hl hh]
    exact deliver_coll_fails rfl hp hc h0 hd (collFlitIn_fails hf hc h0 hop hx)

end Sys2Proof.Machine
end

section
/-!
PROOF. Shared by the statements of Chapter 12: commands after which the sessions settle, registers of the PROOF page, and its errors.
-/
namespace Sys2Proof.Machine

variable {s : State} {d e : Dev} {p : Nat} {w : Word}

/-! ### Commands after which the sessions settle -/

/-- With no writes of a session on their way, there is nothing to answer (R379). -/
theorem rjSettle_idle {c : Chip} (h : c.dev.NoTransfers) : c.rjSettle = c := by
  unfold Chip.rjSettle
  split
  · rfl
  · exact List.foldl_fixed' (fun slot => if_neg fun hn => hn.2 (h slot)) _

/-- A command of the device after which no session has writes on their way leaves what it made of the device. -/
theorem run_settled (h : s.Up) {f : Chip → Dev → Dev} (hn : (f s.chip s.dev).NoTransfers) :
    (s.run fun c => (c.live (f c)).rjSettle) = .next (s.withDev (f s.chip s.dev)) := by
  rw [State.run, live_up h, rjSettle_idle hn]; rfl

theorem runIf_settled (h : s.Up) {ok : Bool} (hok : ok = true) {f : Chip → Dev → Dev} (hn : (f s.chip s.dev).NoTransfers) :
    (s.runIf ok fun c => (c.live (f c)).rjSettle) = .next (s.withDev (f s.chip s.dev)) := by
  subst hok; exact run_settled h hn

/-- Sessions that differ in their event records alone have the same writes on their way. -/
theorem noTransfers_of_same (h : d.NoTransfers) (hs : ∀ i, Place.Same d e (.sess i)) : e.NoTransfers := fun i => by
  rw [show e.sess i = _ from hs i]; exact h i

theorem noTransfers_of_kept {xs : List Place} (h : d.NoTransfers) (hk : d.Kept e xs) (hx : ∀ i, .sess i ∉ xs) : e.NoTransfers :=
  noTransfers_of_same h fun i => hk _ (hx i)

theorem noTransfers_of_keptOutside {area : Place → Bool} (h : d.NoTransfers) (hk : d.KeptOutside e area)
    (ha : ∀ i, area (.sess i) = false) : e.NoTransfers := noTransfers_of_same h fun i => hk _ (ha i)

/-! ### The PROOF page -/

theorem run_busWrite_proof (h : s.Up) {off : Nat} (ha : off % 4 = 0) (hlo : 0x100 ≤ off) (hhi : off < 0x1000) :
    (s.run fun c => c.busWrite pgProof off w) = .next (s.written (s.dev.writeProof off w)) :=
  run_busWrite_page h rfl (by decide) ha hlo hhi

theorem pgProof_ne_pgDbg : pgProof ≠ pgDbg := by decide

/-- A refusal is an error of the PROOF page and nothing else (R374). -/
theorem refused_of_proofError {c : Instr} {code i0 i1 : Nat} (h : exec c s = .next (s.written (s.dev.setError pgProof code i0 i1))) :
    ∃ e, exec c s = .next (s.written e) ∧ (e.hdr pgProof).errCode = code ∧ s.dev.Kept e [.hdr pgProof, .hdr pgDbg, .log] :=
  ⟨_, h, errCode_setError _ _ _ pgProof_ne_pgDbg, kept_setError _ _ _ _⟩

/-! ### Generation slots -/

/-- A generation's slot follows from the states and the numbers of the slots. -/
theorem genSlot_congr (h : ∀ i, (e.gen i).state = (d.gen i).state ∧ (e.gen i).id = (d.gen i).id) (id : Nat) :
    e.genSlot id = d.genSlot id := by
  simp only [Dev.genSlot, (h _).1, (h _).2]

theorem genSlot_modGen {f : GenSt → GenSt} (i id : Nat) (h : ∀ g, (f g).state = g.state ∧ (f g).id = g.id) :
    (d.modGen i f).genSlot id = d.genSlot id := by
  refine genSlot_congr (fun j => ?_) id
  by_cases hj : j = i
  · rw [hj, Dev.gen_modGen_self]; exact h _
  · rw [Dev.gen_modGen_ne _ _ _ hj]; exact ⟨rfl, rfl⟩

end Sys2Proof.Machine
end

section
/-!
PROOF. Drains (R361, R362, R388): how one starts, sends on its session, and ends.
-/
namespace Sys2Proof.Machine

variable {s : State} {d e f : Dev} {slot : Nat}

/-! ### What sending leaves of a session (R389) -/

theorem sess_txFrame (i : Nat) : d.txFrame.sess i = d.sess i := by
  have counted (e : Dev) (pg off n : Nat) : (e.bump64 pg off n).sess i = e.sess i := by
    unfold Dev.bump64; split <;> rfl
  unfold Dev.txFrame
  dsimp only
  split
  · rw [counted, counted]
  · rw [counted]

/-- A message on the wire answers what was to be acknowledged, and leaves the rest of its session. -/
theorem sess_rjWire (typ flags seq stream : Nat) (payload : List Byte) :
    (d.rjWire slot typ flags seq stream payload).sess slot = { d.sess slot with ce := false, pendAcks := 0 } := by
  unfold Dev.rjWire
  dsimp only
  rw [Dev.sess_modSess_self, sess_txFrame]
  rfl

/-- A session that goes on sending: what it has sent stays unacknowledged, and its transfers stay. -/
def Session.SendsOn (x y : Session) : Prop := y.trans = x.trans ∧ x.unacked ⊆ y.unacked

theorem Session.SendsOn.trans' {x y z : Session} (h : x.SendsOn y) (h' : y.SendsOn z) : x.SendsOn z :=
  ⟨h'.1.trans h.1, List.Subset.trans h.2 h'.2⟩

theorem sendsOn_rjFlush (n : Nat) : (d.sess slot).SendsOn ((d.rjFlush slot n).sess slot) := by
  induction n generalizing d with
  | zero => exact ⟨rfl, List.Subset.refl _⟩
  | succ n ih =>
    unfold Dev.rjFlush
    dsimp only
    repeat' split
    · exact ⟨rfl, List.Subset.refl _⟩
    · exact ⟨rfl, List.Subset.refl _⟩
    · refine Session.SendsOn.trans' ?_ ih
      rw [sess_rjWire, Dev.sess_modSess_self]
      exact ⟨rfl, List.subset_append_left _ _⟩

theorem sendsOn_rjSend (typ flags stream : Nat) (payload : List Byte) :
    (d.sess slot).SendsOn ((d.rjSend slot typ flags stream payload).sess slot) := by
  unfold Dev.rjSend
  dsimp only
  refine Session.SendsOn.trans' ?_ (sendsOn_rjFlush _)
  rw [Dev.sess_modSess_self]
  exact ⟨rfl, List.Subset.refl _⟩

/-- While its window is open a session sends a message at once, and keeps it until it is acknowledged. -/
theorem unacked_rjSend (h : (d.sess slot).windowOpen = true) (typ flags stream : Nat) (payload : List Byte) :
    ({ seq := (d.sess slot).txNext, typ, flags, stream, payload } : RjMsg) ∈
      ((d.rjSend slot typ flags stream payload).sess slot).unacked := by
  obtain ⟨hw, hu⟩ : (d.sess slot).waiting = [] ∧ (d.sess slot).unacked.length < min (d.sess slot).window (d.sess slot).cwnd := by
    simpa [Session.windowOpen] using h
  unfold Dev.rjSend
  dsimp only
  rw [Dev.sess_modSess_self, hw]
  change _ ∈ ((Dev.rjFlush _ slot 1).sess slot).unacked
  unfold Dev.rjFlush
  dsimp only
  simp only [Dev.sess_modSess_self, hw, List.nil_append]
  rw [if_neg (by omega)]
  refine (sendsOn_rjFlush 0).2 ?_
  rw [sess_rjWire, Dev.sess_modSess_self, Dev.sess_modSess_self]
  simp

/-! ### The drain sends -/

/-- What a drain that sends touches: its session, the counters of ETH, what has left the module, and how far it has come. -/
def Place.drainOf (slot : Nat) : Place → Bool
  | .drain => true
  | q => q.saying slot

/-- The device after a drain has sent on its session. -/
structure Dev.Pumped (d e : Dev) (slot : Nat) : Prop where
  kept : d.KeptOutside e (Place.drainOf slot)
  far : ∀ x, d.drain = some x → ∃ off, e.drain = some { x with off }
  queue : e.drainQ = d.drainQ ∧ e.sinceDrain = d.sinceDrain
  sends : (d.sess slot).SendsOn (e.sess slot)

theorem Dev.Pumped.refl (d : Dev) : d.Pumped d slot := ⟨.refl d, fun _ h => ⟨_, h⟩, ⟨rfl, rfl⟩, rfl, List.Subset.refl _⟩

theorem Dev.Pumped.trans (h : d.Pumped e slot) (h' : e.Pumped f slot) : d.Pumped f slot := by
  refine ⟨h.kept.trans h'.kept, fun x hx => ?_, ⟨h'.queue.1.trans h.queue.1, h'.queue.2.trans h.queue.2⟩, h.sends.trans' h'.sends⟩
  obtain ⟨off, he⟩ := h.far x hx
  obtain ⟨off', hf⟩ := h'.far _ he
  exact ⟨off', hf⟩

/-- The device whose drain is `x`. -/
def Dev.setDrain (d : Dev) (x : Option DrainSt) : Dev := { d with drain := x }

theorem kept_setDrain (x : Option DrainSt) : d.Kept (d.setDrain x) [.drain] := by
  intro y hy; cases y
  case drain => exact absurd List.mem_cons_self hy
  all_goals first | exact rfl | exact ⟨rfl, rfl⟩ | exact ⟨rfl, rfl, rfl⟩ | exact fun _ _ => rfl

/-- A message of the drain `x`, which has come to `off`. -/
theorem pumped_rjSend {x : DrainSt} (hx : d.drain = some x) (off typ flags stream : Nat) (payload : List Byte) :
    d.Pumped ((d.setDrain (some { x with off })).rjSend slot typ flags stream payload) slot := by
  have sent := keptOutside_rjSend (d := d.setDrain (some { x with off })) slot typ flags stream payload
  obtain ⟨hd, hq, hs⟩ := sent .drain rfl
  refine ⟨((kept_setDrain _).outside (by simp [Place.drainOf])).trans (sent.mono fun q hq => ?_), fun y hy => ⟨off, ?_⟩, ⟨hq, hs⟩,
    sendsOn_rjSend (d := d.setDrain (some { x with off })) _ _ _ _⟩
  · cases q <;> simp_all [Place.drainOf, Place.saying]
  · rw [Option.some.inj (hy.symm.trans hx)]; exact hd

/-- The drain `x` sends the next of its stream, and goes on. -/
theorem drainPump_some {x : DrainSt} {i : Nat} (n : Nat) (hx : d.drain = some x) (hi : d.genSlot x.gen = some i)
    (h : ¬(x.total ≤ x.off ∨ (!(d.sess x.session).windowOpen) = true)) :
    let bs := d.streamBytes (d.gen i) x.off (d.rjRoom x.session - 16)
    d.drainPump (n + 1) = ((d.setDrain (some { x with off := x.off + bs.length })).rjSend x.session 7 0 0 (natLe 4 x.gen ++
      natLe 4 (b2n (decide (x.total ≤ x.off + bs.length))) ++ natLe 8 x.off ++ bs)).drainPump n := by
  rw [Dev.drainPump]
  split
  · next hn => cases hn.symm.trans hx
  · next y hy =>
    cases Option.some.inj (hy.symm.trans hx)
    dsimp only
    split
    · next hn => cases hn.symm.trans hi
    · next j hj =>
      cases Option.some.inj (hj.symm.trans hi)
      rw [if_neg h]
      rfl

theorem pumped_drainPump (n : Nat) {x : DrainSt} (hx : d.drain = some x) : d.Pumped (d.drainPump n) x.session := by
  induction n generalizing d x with
  | zero => exact .refl d
  | succ n ih =>
    by_cases h : ∃ i, d.genSlot x.gen = some i ∧ ¬(x.total ≤ x.off ∨ (!(d.sess x.session).windowOpen) = true)
    · obtain ⟨i, hi, hw⟩ := h
      rw [drainPump_some n hx hi hw]
      have sent := pumped_rjSend (slot := x.session) hx (x.off + (d.streamBytes (d.gen i) x.off (d.rjRoom x.session - 16)).length) 7 0 0
      obtain ⟨off, he⟩ := (sent _).far x hx
      exact (sent _).trans (ih (x := { x with off }) he)
    · have rests : d.drainPump (n + 1) = d := by
        rw [Dev.drainPump]
        simp only [hx]
        split
        · rfl
        · next i hi => exact if_pos (not_not.1 fun hw => h ⟨i, hi, hw⟩)
      rw [rests]
      exact .refl d

/-- While the window is open the first of the stream goes at once. -/
theorem unacked_drainPump (n : Nat) {x : DrainSt} {i : Nat} (hx : d.drain = some x) (hi : d.genSlot x.gen = some i)
    (hl : x.off < x.total) (hw : (d.sess x.session).windowOpen = true) :
    let bs := d.streamBytes (d.gen i) x.off (d.rjRoom x.session - 16)
    ({ seq := (d.sess x.session).txNext, typ := 7, flags := 0, stream := 0
       payload := natLe 4 x.gen ++ natLe 4 (b2n (decide (x.total ≤ x.off + bs.length))) ++ natLe 8 x.off ++ bs } : RjMsg) ∈
      ((d.drainPump (n + 1)).sess x.session).unacked := by
  intro bs
  have sent := pumped_rjSend (slot := x.session) hx (x.off + bs.length) 7 0 0
  obtain ⟨off, he⟩ := (sent _).far x hx
  rw [drainPump_some n hx hi (by simp [hw]; omega)]
  exact (pumped_drainPump n he).sends.2 (unacked_rjSend (d := d.setDrain (some { x with off := x.off + bs.length })) hw 7 0 0 _)

/-! ### A drain starts and ends -/

variable {i : Nat}

/-- A generation that is being drained, and one whose drain is over. -/
def GenSt.inDrain (g : GenSt) : GenSt := { g with use := 1, pinned := true }
def GenSt.afterDrain (drained : Bool) (g : GenSt) : GenSt := { g with use := 0, pinned := false, drained }

/-- The device that has begun to drain generation slot i on session `slot`, the generations `rest` waiting. -/
def Dev.drainBegun (d : Dev) (i slot : Nat) (rest : List Nat) : Dev :=
  ({ d with drainQ := rest }.modGen i GenSt.inDrain).setDrain (some ⟨(d.gen i).id, slot, 0, (d.gen i).streamLen⟩)

/-- The session slot of a generation's partition (R361). -/
def Dev.drainSlot (d : Dev) (i : Nat) : Nat := d.prf (d.gen i).part 0x20 % 8

theorem drainStart_eq {rest : List Nat} (hd : d.drain = none) (hq : d.drainQ = (d.gen i).id :: rest)
    (hi : d.genSlot (d.gen i).id = some i) : d.drainStart =
      if (d.sess (d.drainSlot i)).state ≠ 2 then (d.drainBegun i (d.drainSlot i) rest).drainOver false
      else (d.drainBegun i (d.drainSlot i) rest).drainPump drainFuel := by
  unfold Dev.drainStart
  split
  · next id rest' hd' hq' =>
    cases hq'.symm.trans hq
    dsimp only
    split
    · next hn => cases hn.symm.trans hi
    · next j hj =>
      cases Option.some.inj (hj.symm.trans hi)
      rfl
  · next hn => exact absurd hq (hn _ _ hd)

theorem gen_drainBegun (slot : Nat) (rest : List Nat) : (d.drainBegun i slot rest).gen i = (d.gen i).inDrain :=
  Dev.gen_modGen_self { d with drainQ := rest } i GenSt.inDrain

theorem genSlot_drainBegun (slot id : Nat) (rest : List Nat) : (d.drainBegun i slot rest).genSlot id = d.genSlot id :=
  genSlot_modGen (d := { d with drainQ := rest }) (f := GenSt.inDrain) i id fun _ => ⟨rfl, rfl⟩

theorem kept_drainQ (rest : List Nat) : d.Kept { d with drainQ := rest } [.drain] := by
  intro y hy; cases y
  case drain => exact absurd List.mem_cons_self hy
  all_goals first | exact rfl | exact ⟨rfl, rfl⟩ | exact ⟨rfl, rfl, rfl⟩ | exact fun _ _ => rfl

theorem kept_drainBegun (slot : Nat) (rest : List Nat) : d.Kept (d.drainBegun i slot rest) [.gen i, .drain] :=
  (((kept_drainQ rest).trans (kept_modGen i _)).trans (kept_setDrain _)).mono (by simp)

/-- The device that drains nothing, its generation slot i released. -/
def Dev.drainEnded (d : Dev) (i : Nat) (drained : Bool) : Dev := (d.setDrain none).modGen i (GenSt.afterDrain drained)

theorem gen_drainEnded (drained : Bool) : (d.drainEnded i drained).gen i = (d.gen i).afterDrain drained :=
  Dev.gen_modGen_self (d.setDrain none) i _

theorem kept_drainEnded (drained : Bool) : d.Kept (d.drainEnded i drained) [.gen i, .drain] :=
  ((kept_setDrain none).trans (kept_modGen i _)).mono (by simp)

theorem drainOver_eq {x : DrainSt} (hx : d.drain = some x) (hi : d.genSlot x.gen = some i) (done : Bool) : d.drainOver done =
    if done then (d.drainEnded i done).raise pgProof (8 * (d.gen i).part + 2)
    else (d.drainEnded i done).setError pgProof 0x0B0D
      ((d.gen i).part * 2 ^ 30 + (d.proof (d.gen i).part).phase.code * 2 ^ 26) x.gen := by
  unfold Dev.drainOver
  split
  · next hn => cases hn.symm.trans hx
  · next y hy =>
    cases Option.some.inj (hy.symm.trans hx)
    dsimp only
    split
    · next hn => cases hn.symm.trans hi
    · next j hj =>
      cases Option.some.inj (hj.symm.trans hi)
      rfl

/-- A drain fails: its generation is released, and the error stands on the PROOF page (R362). -/
theorem drainOver_fails {x : DrainSt} (hx : d.drain = some x) (hi : d.genSlot x.gen = some i) :
    (d.drainOver false).drain = none ∧ (d.drainOver false).gen i = (d.gen i).afterDrain false ∧
      ((d.drainOver false).hdr pgProof).errCode = 0x0B0D ∧ (d.drainOver false).sinceDrain = d.sinceDrain ∧
      (d.drainOver false).drainQ = d.drainQ ∧ d.Kept (d.drainOver false) [.gen i, .drain, .hdr pgProof, .hdr pgDbg, .log] := by
  rw [drainOver_eq hx hi, if_neg (by decide)]
  refine ⟨?_, ?_, errCode_setError _ _ _ pgProof_ne_pgDbg, ?_, ?_, ((kept_drainEnded _).trans (kept_setError _ _ _ _)).mono (by simp)⟩
  · rw [Dev.setError_drain]; rfl
  · rw [Dev.gen_setError, gen_drainEnded]
  · rw [Dev.setError_sinceDrain]; rfl
  · rw [Dev.setError_drainQ]; rfl

/-- A drain is done: its generation is released, with event DRAIN (R361). -/
theorem drainOver_done {x : DrainSt} (hx : d.drain = some x) (hi : d.genSlot x.gen = some i) :
    (d.drainOver true).drain = none ∧ (d.drainOver true).gen i = (d.gen i).afterDrain true ∧
      (d.drainOver true).hdr pgProof = (d.hdr pgProof).raised (8 * (d.gen i).part + 2) ∧ (d.drainOver true).drainQ = d.drainQ ∧
      d.Kept (d.drainOver true) [.gen i, .drain, .hdr pgProof] := by
  rw [drainOver_eq hx hi, if_pos rfl]
  refine ⟨?_, ?_, hdr_raise_self _ _, ?_, ((kept_drainEnded _).trans (kept_raise _ _)).mono (by simp)⟩
  · rw [Dev.raise_drain]; rfl
  · rw [Dev.gen_raise, gen_drainEnded]
  · rw [Dev.raise_drainQ]; rfl

/-! ### The statement -/

variable {ids : List Nat}

/-- Without an open session a drain fails as it starts. -/
theorem drainStart_refused (hd : d.drain = none) (hq : d.drainQ = (d.gen i).id :: ids) (hi : d.genSlot (d.gen i).id = some i)
    (ho : (d.sess (d.drainSlot i)).state ≠ 2) :
    d.drainStart.drain = none ∧ d.drainStart.gen i = (d.gen i).afterDrain false ∧
      (d.drainStart.hdr pgProof).errCode = 0x0B0D ∧ d.drainStart.sinceDrain = d.sinceDrain ∧ d.drainStart.drainQ = ids ∧
      d.Kept d.drainStart [.gen i, .drain, .hdr pgProof, .hdr pgDbg, .log] := by
  obtain ⟨drain, gen, err, since, queue, kept⟩ := drainOver_fails (d := d.drainBegun i (d.drainSlot i) ids) rfl
    ((genSlot_drainBegun _ _ _).trans hi)
  rw [drainStart_eq hd hq hi, if_pos ho]
  refine ⟨drain, ?_, err, since, queue, ((kept_drainBegun _ _).trans kept).mono (by simp)⟩
  rw [gen, gen_drainBegun]; rfl

theorem drainStart_sends (hd : d.drain = none) (hq : d.drainQ = (d.gen i).id :: ids) (hi : d.genSlot (d.gen i).id = some i)
    (ho : (d.sess (d.drainSlot i)).state = 2) :
    d.drainStart = (d.drainBegun i (d.drainSlot i) ids).drainPump drainFuel ∧
      (d.drainBegun i (d.drainSlot i) ids).Pumped d.drainStart (d.drainSlot i) := by
  have eq : d.drainStart = (d.drainBegun i (d.drainSlot i) ids).drainPump drainFuel := by
    rw [drainStart_eq hd hq hi, if_neg (not_not.2 ho)]
  exact ⟨eq, eq ▸ pumped_drainPump (d := d.drainBegun i (d.drainSlot i) ids) drainFuel rfl⟩

/-- What a drain that starts touches: its generation, its session, and what has left the module. -/
def Place.drainStarts (i slot : Nat) : Place → Bool
  | .gen j => j == i
  | .sess j => j == slot
  | .drain | .out => true
  | .reg h _ => h == pgEth
  | _ => false

theorem keptOutside_drainStarts (h : (d.drainBegun i slot ids).Pumped e slot) : d.KeptOutside e (Place.drainStarts i slot) := by
  refine ((kept_drainBegun _ _).outside (by simp [Place.drainStarts])).trans (h.kept.mono fun q hq => ?_)
  cases q <;> simp_all [Place.drainOf, Place.saying, Place.drainStarts]

/-- Sessions of a drain that starts keep their transfers. -/
theorem noTransfers_drainStarts (hn : d.NoTransfers) (h : (d.drainBegun i slot ids).Pumped e slot) : e.NoTransfers := fun j => by
  by_cases hj : j = slot
  · subst hj; exact h.sends.1.trans (hn j)
  · rw [show e.sess j = _ from keptOutside_drainStarts h (.sess j) (by simpa [Place.drainStarts] using hj)]; exact hn j

/-- Settles O46: a drain's start, its end and its failure each release or take one generation slot; between them the drain sends a
message at a time, each of which moves it on and leaves its session's transfers alone. -/
theorem drains : Obligations.Drains := by
  intro s i ids hup hn d g slot beyond failed
  refine ⟨fun hd hq hi => ⟨fun ho => ?_, fun ho => ?_⟩, fun x hx hi => ⟨fun hl hw => ?_, fun hw => ?_⟩⟩
  · obtain ⟨drain, gen, err, since, queue, kept⟩ := drainStart_refused hd hq hi ho
    exact ⟨_, run_settled (f := fun _ d => d.drainStart) hup (noTransfers_of_kept hn kept (by simp)), ⟨⟨drain, gen⟩, err, since, kept⟩, queue⟩
  · obtain ⟨eq, pumped⟩ := drainStart_sends hd hq hi ho
    obtain ⟨off, drain⟩ := pumped.far _ rfl
    refine ⟨_, off, run_settled (f := fun _ d => d.drainStart) hup (noTransfers_drainStarts hn pumped), drain, pumped.queue.1,
      pumped.queue.2, ?_, fun hw hl => ?_, keptOutside_drainStarts pumped⟩
    · exact Eq.trans (pumped.kept (.gen i) rfl) (gen_drainBegun _ _)
    · have first := unacked_drainPump (d := d.drainBegun i slot ids) 4095 rfl ((genSlot_drainBegun _ _ _).trans hi) hl hw
      rw [gen_drainBegun] at first
      change _ ∈ (d.drainStart.sess slot).unacked
      rw [eq]
      simp only [Nat.zero_add] at first
      exact first
  · obtain ⟨drain, gen, raised, queue, kept⟩ := drainOver_done hx hi
    have ends : d.drainDone = d.drainOver true := by rw [Dev.drainDone, hx]; exact if_pos ⟨hl, by rw [hw]; rfl⟩
    rw [← ends] at drain gen raised queue kept
    exact ⟨_, run_settled (f := fun _ d => d.drainDone) hup (noTransfers_of_kept hn kept (by simp)), ⟨drain, gen⟩, raised, queue, kept⟩
  · obtain ⟨drain, gen, err, since, queue, kept⟩ := drainOver_fails hx hi
    have ends : d.drainTimeout = d.drainOver false := by rw [Dev.drainTimeout, hx]; exact if_pos hw
    rw [← ends] at drain gen err since queue kept
    exact ⟨_, run_settled (f := fun _ d => d.drainTimeout) hup (noTransfers_of_kept hn kept (by simp)), ⟨⟨drain, gen⟩, err, since, kept⟩, queue⟩

end Sys2Proof.Machine
end

section
/-!
PROOF. Shared by the statements of Chapter 12: memory copied, what a partition owns, and sets of pages.
-/
namespace Sys2Proof.Machine

variable {α : Type} {d e : Dev}

theorem tget_append_of_absent {z : α} {s t : Table α} {k : Nat} (h : ∀ c ∈ t, c.1 ≠ k) : tget z (s ++ t) k = tget z s k := by
  induction s with
  | nil => exact tget_of_absent h
  | cons c s ih =>
    obtain ⟨j, v⟩ := c
    simp only [List.cons_append, tget, ih]

/-- A table whose keys all move alike reads at the key moved what it read. -/
theorem tget_shift {z : α} {a t k : Nat} {m : Table α} (h : ∀ c ∈ m, a ≤ c.1) (hk : a ≤ k) :
    tget z (m.map fun c => (c.1 - a + t, c.2)) (k - a + t) = tget z m k := by
  induction m with
  | nil => rfl
  | cons c m ih =>
    obtain ⟨j, v⟩ := c
    have hj : a ≤ j := h (j, v) List.mem_cons_self
    have same : (j - a + t == k - a + t) = (j == k) := by rw [Bool.eq_iff_iff]; simp only [beq_iff_eq]; omega
    simp only [List.map_cons, tget, same, ih fun c hc => h c (List.mem_cons_of_mem _ hc)]

/-- Copied bytes read as their source did, and every other byte as before. -/
theorem readByte_copy (m : Memory) (a t n x : Nat) :
    (m.copy a t n).readByte x = if t ≤ x ∧ x < t + n then m.readByte (a + (x - t)) else m.readByte x := by
  have below : ∀ c ∈ m.filter (fun c => decide (c.1 < t)), c.1 < t := fun c hc => by simpa using (List.mem_filter.1 hc).2
  have above : ∀ c ∈ m.filter (fun c => decide (t + n ≤ c.1)), t + n ≤ c.1 := fun c hc => by simpa using (List.mem_filter.1 hc).2
  have source : ∀ c ∈ m.filter (fun c => decide (a ≤ c.1 ∧ c.1 < a + n)), a ≤ c.1 ∧ c.1 < a + n := fun c hc => by
    simpa using (List.mem_filter.1 hc).2
  have moved : ∀ c ∈ (m.filter fun c => decide (a ≤ c.1 ∧ c.1 < a + n)).map (fun c => (c.1 - a + t, c.2)), t ≤ c.1 ∧ c.1 < t + n := by
    intro c hc
    obtain ⟨y, hy, rfl⟩ := List.mem_map.1 hc
    have := source y hy
    exact ⟨by simp, by simp only; omega⟩
  unfold Memory.readByte Memory.copy
  rw [List.append_assoc]
  split
  · next hx =>
    rw [tget_append_of_ne fun c hc => (by have := below c hc; omega), tget_append_of_absent fun c hc => (by have := above c hc; omega),
      show x = a + (x - t) - a + t by omega, tget_shift (fun c hc => (source c hc).1) (Nat.le_add_right _ _),
      tget_filter (fun j => decide (a ≤ j ∧ j < a + n)) (by simp; omega)]
    congr 1; omega
  · next hx =>
    by_cases hlt : x < t
    · rw [tget_append_of_absent, tget_filter (fun j => decide (j < t)) (by simpa using hlt)]
      intro c hc
      rcases List.mem_append.1 hc with hc | hc
      · have := moved c hc; omega
      · have := above c hc; omega
    · rw [tget_append_of_ne fun c hc => (by have := below c hc; omega), tget_append_of_ne fun c hc => (by have := moved c hc; omega),
        tget_filter (fun j => decide (t + n ≤ j)) (by simp; omega)]

theorem kept_moveBytes (src dst n : Nat) : d.Kept (d.moveBytes src dst n) [.mem] := by
  intro x hx; cases x
  case mem => exact absurd List.mem_cons_self hx
  all_goals first | exact rfl | exact ⟨rfl, rfl⟩ | exact ⟨rfl, rfl, rfl⟩ | exact fun _ _ => rfl

/-- Bytes moved are at their place as they were at their source. -/
theorem copied_moveBytes (src dst n : Nat) : d.Copied (d.moveBytes src dst n) src dst n := fun j hj => by
  change (d.mem.copy src dst n).readByte _ = _
  rw [readByte_copy, if_pos (by omega), Nat.add_sub_cancel_left]

theorem sameOutside_moveBytes (src dst n : Nat) : d.SameOutside (d.moveBytes src dst n) dst n := fun b hb => by
  change (d.mem.copy src dst n).readByte _ = _
  rw [readByte_copy, if_neg (by omega)]

/-! ### What a partition owns -/

section
variable {p : Nat} (h : ∀ c, Place.Same d e (.die c))
include h

theorem owns_of_dies (c : Nat) : e.owns p c = d.owns p c := by rw [Dev.owns, show e.die c = d.die c from h c]; rfl

theorem ownsCore_of_dies (k : Nat) : e.ownsCore p k = d.ownsCore p k := by rw [Dev.ownsCore, owns_of_dies h]; rfl

theorem diesOf_of_dies : e.diesOf p = d.diesOf p := List.filter_congr fun c _ => owns_of_dies h c

theorem stacksOf_of_dies : e.stacksOf p = d.stacksOf p := by rw [Dev.stacksOf, diesOf_of_dies h]; rfl

end

/-! ### Sets of pages -/

theorem mem_insertNat {x y : Nat} {l : List Nat} : y ∈ insertNat x l ↔ y = x ∨ y ∈ l := by
  induction l with
  | nil => simp [insertNat]
  | cons z l ih =>
    unfold insertNat
    split
    · simp
    · split
      · next h => subst h; simp
      · simp only [List.mem_cons, ih]; tauto

/-- A page added is in the set, and the others are as they were. -/
theorem has_add (x : PageSet) (q r : Nat) : (x.add q).has r = (r == q || x.has r) := by
  unfold PageSet.add PageSet.has
  by_cases hr : r = q
  · split <;> simp_all [mem_insertNat]
  · split <;> simp_all [mem_insertNat, List.contains_eq_mem]

end Sys2Proof.Machine
end

section
/-!
PROOF. A restore begins (R363), and how one ends.
-/
namespace Sys2Proof.Machine

variable {s : State} {d e : Dev} {p mode i code : Nat} {w : Word}

/-! ### A write of RESTORE -/

theorem writeProof_restore (hp : p < 4) : d.writeProof (0x244 + 0x100 * p) w = d.restoreWrite p w := by
  have hq : (0x244 + 0x100 * p - 0x200) / 0x100 = p := by omega
  have ho : (0x244 + 0x100 * p) % 0x100 = 0x44 := by omega
  unfold Dev.writeProof
  dsimp only
  rw [if_pos (by omega), hq, ho]
  rfl

/-- The partition a restore may begin on: claimed, stopped, and not being cut (R363). -/
def Dev.restoreReady (d : Dev) (p : Nat) : Prop :=
  (d.part p).claim = 2 ∧ (d.part p).state = .stopped ∧ (d.part p).run = false ∧
    ((d.proof p).phase = .idle ∨ (d.proof p).phase = .ordered)

/-- A restore of a mode begun for a generation slot. -/
def Dev.restoreBegun (d : Dev) (p mode slot : Nat) : Dev := d.modProof p fun y =>
  { y with phase := .restore, mode, slot, sess := 8, got := 0, buf := [], keep := (d.proof p).phase == .ordered }

theorem not_refused_of_ready (hr : d.restoreReady p) (hm : mode < 3) :
    ¬((d.part p).claim ≠ 2 ∨ (d.part p).state ≠ .stopped ∨ (d.part p).run ∨
      !((d.proof p).phase == .idle || (d.proof p).phase == .ordered) ∨ mode = 3) := by
  obtain ⟨hclaim, hstate, hrun, hphase⟩ := hr
  have phases : ((d.proof p).phase == .idle || (d.proof p).phase == .ordered) = true := by simpa using hphase
  simp [hclaim, hstate, hrun, phases]
  omega

theorem refused_of_not_ready (hr : ¬d.restoreReady p) :
    (d.part p).claim ≠ 2 ∨ (d.part p).state ≠ .stopped ∨ (d.part p).run ∨
      !((d.proof p).phase == .idle || (d.proof p).phase == .ordered) ∨ mode = 3 := by
  by_contra hn
  obtain ⟨hclaim, hstate, hrun, hphase, -⟩ := by simpa only [not_or, not_not] using hn
  exact hr ⟨hclaim, hstate, by simpa using hrun, or_iff_not_imp_left.2 (by simpa using hphase)⟩

section
variable (go : bit w.toNat 0 = true) (hmode : bits w.toNat 2 1 = mode)
include go hmode

theorem restoreWrite_unready (hr : ¬d.restoreReady p) : d.restoreWrite p w = d.restoreRefused p 0x0B08 := by
  unfold Dev.restoreWrite
  dsimp only
  rw [go, hmode, if_neg (by decide), if_pos (refused_of_not_ready hr)]

theorem restoreWrite_import (hr : d.restoreReady p) (hm : mode = 2) :
    d.restoreWrite p w = if (d.genSlot (d.prf p 0x40)).isSome then d.restoreRefused p 0x0B08 else d.restoreBegun p mode 16 := by
  unfold Dev.restoreWrite
  dsimp only
  rw [go, hmode, if_neg (by decide), if_neg (not_refused_of_ready hr (by omega)), if_pos hm]
  rfl

theorem restoreWrite_checked (hr : d.restoreReady p) (hlt : mode < 3) (hm : mode ≠ 2) (hc : d.restoreCheck p mode = some code) :
    d.restoreWrite p w = d.restoreRefused p code := by
  unfold Dev.restoreWrite
  dsimp only
  rw [go, hmode, if_neg (by decide), if_neg (not_refused_of_ready hr hlt), if_neg hm, hc]

theorem restoreWrite_begun (hr : d.restoreReady p) (hlt : mode < 3) (hm : mode ≠ 2) (hc : d.restoreCheck p mode = none)
    (hi : d.genSlot (d.prf p 0x40) = some i) :
    d.restoreWrite p w = (d.restoreBegun p mode i).modGen i fun g => { g with use := 2 } := by
  unfold Dev.restoreWrite
  dsimp only
  rw [go, hmode, if_neg (by decide), if_neg (not_refused_of_ready hr hlt), if_neg hm, hc, hi]
  rfl

/-- Each of the three commands is a write of its register. -/
theorem exec_restore (h : s.Up) (hp : p < 4) (hlt : mode < 3) :
    exec (if mode = 0 then .restoreLoad p w else if mode = 1 then .restoreRelocate p w else .restoreImport p w) s =
      .next (s.written (s.dev.restoreWrite p w)) := by
  have runs (m : Nat) (hm : mode = m) : (s.runIf (bit w.toNat 0 && bits w.toNat 2 1 == m) fun c =>
      c.busWrite pgProof (0x244 + 0x100 * p) w) = .next (s.written (s.dev.restoreWrite p w)) := by
    rw [go, hmode, hm, beq_self_eq_true, ← writeProof_restore hp]
    exact run_busWrite_proof h (by omega) (by omega) (by omega)
  obtain rfl | rfl | rfl : mode = 0 ∨ mode = 1 ∨ mode = 2 := by omega
  · exact runs 0 rfl
  · exact runs 1 rfl
  · exact runs 2 rfl

end

/-! ### A restore is over -/

theorem proof_restoreOver : (d.restoreOver p).proof p =
    { d.proof p with phase := if (d.proof p).keep then .ordered else .idle, keep := false, buf := [] } := by
  unfold Dev.restoreOver
  dsimp only
  rw [Dev.proof_modProof_self]
  split
  · rfl
  · rw [Dev.proof_modGen]

theorem gen_restoreOver (hm : (d.proof p).mode ≠ 2) :
    (d.restoreOver p).gen (d.proof p).slot = { d.gen (d.proof p).slot with use := 0 } := by
  unfold Dev.restoreOver
  dsimp only
  rw [if_neg hm, Dev.gen_modProof, Dev.gen_modGen_self]

theorem kept_restoreOver : d.Kept (d.restoreOver p) [.proof p, .gen (d.proof p).slot] := by
  unfold Dev.restoreOver
  dsimp only
  split
  · exact (kept_modProof _ _).mono (by simp)
  · exact ((kept_modGen _ _).mono (by simp)).seq ((kept_modProof _ _).mono (by simp))

theorem kept_restoreOver_import (hm : (d.proof p).mode = 2) : d.Kept (d.restoreOver p) [.proof p] := by
  unfold Dev.restoreOver
  dsimp only
  rw [if_pos hm]
  exact kept_modProof _ _

theorem errCode_proofError (code unit : Nat) : ((d.proofError p code unit).hdr pgProof).errCode = code :=
  errCode_setError _ _ _ pgProof_ne_pgDbg

theorem kept_proofError (code unit : Nat) : d.Kept (d.proofError p code unit) [.hdr pgProof, .hdr pgDbg, .log] := kept_setError _ _ _ _

/-- What ending a restore leaves of another place is as it was. -/
theorem hdr_restoreOver (g : Nat) : (d.restoreOver p).hdr g = d.hdr g := kept_restoreOver (.hdr g) (by simp)

/-- A restore that fails: its code is told, and it is over (R365). -/
theorem restoreFails (unit : Nat) (hm : (d.proof p).mode ≠ 2) :
    let e := (d.proofError p code unit).restoreOver p
    e.proof p = { d.proof p with phase := if (d.proof p).keep then .ordered else .idle, keep := false, buf := [] } ∧
      e.gen (d.proof p).slot = { d.gen (d.proof p).slot with use := 0 } ∧ (e.hdr pgProof).errCode = code ∧
      d.Kept e [.proof p, .gen (d.proof p).slot, .hdr pgProof, .hdr pgDbg, .log] := by
  have hx : (d.proofError p code unit).proof p = d.proof p := Dev.proof_proofError ..
  refine ⟨by rw [proof_restoreOver, hx], ?_, by rw [hdr_restoreOver, errCode_proofError], ?_⟩
  · have := gen_restoreOver (d := d.proofError p code unit) (p := p) (by rwa [hx])
    rwa [hx, Dev.gen_proofError] at this
  · have over_ := kept_restoreOver (d := d.proofError p code unit) (p := p)
    rw [hx] at over_
    exact ((kept_proofError _ _).mono (by simp)).seq (over_.mono (by simp))

/-- A restore that succeeds: it raises RESTORED, and it is over. -/
def Dev.restoreEnds (d : Dev) (p : Nat) : Dev := (d.raise pgProof (8 * p + 4)).restoreOver p

theorem proof_restoreEnds : (d.restoreEnds p).proof p =
    { d.proof p with phase := if (d.proof p).keep then .ordered else .idle, keep := false, buf := [] } := by
  rw [Dev.restoreEnds, proof_restoreOver, Dev.proof_raise]

theorem gen_restoreEnds (hm : (d.proof p).mode ≠ 2) :
    (d.restoreEnds p).gen (d.proof p).slot = { d.gen (d.proof p).slot with use := 0 } := by
  have := gen_restoreOver (d := d.raise pgProof (8 * p + 4)) (p := p) (by rwa [Dev.proof_raise])
  rwa [Dev.proof_raise, Dev.gen_raise] at this

theorem kept_restoreEnds : d.Kept (d.restoreEnds p) [.proof p, .gen (d.proof p).slot, .hdr pgProof] := by
  have over_ := kept_restoreOver (d := d.raise pgProof (8 * p + 4)) (p := p)
  rw [Dev.proof_raise] at over_
  exact ((kept_raise _ _).mono (by simp)).seq (over_.mono (by simp))

theorem kept_restoreEnds_import (hm : (d.proof p).mode = 2) : d.Kept (d.restoreEnds p) [.proof p, .hdr pgProof] :=
  ((kept_raise _ _).mono (by simp)).seq ((kept_restoreOver_import (by rwa [Dev.proof_raise])).mono (by simp))

theorem restored_restoreEnds (hp : p < 4) : bit ((d.restoreEnds p).hdr pgProof).raw.toNat (8 * p + 4) = true := by
  rw [Dev.restoreEnds, hdr_restoreOver, hdr_raise_self]
  exact bit_raised_raw _ (by omega)

/-! ### An import -/

theorem restoreDone_import (hph : (d.proof p).phase = .restore) (hm : (d.proof p).mode = 2) : d.restoreDone p =
    if !d.importWhole p then d else (d.modGen (d.proof p).slot fun g => { g with state := 3 }).restoreEnds p := by
  unfold Dev.restoreDone
  dsimp only
  rw [if_neg (by simp [hph]), if_pos hm]
  rfl

/-- An import whose stream has come whole: the generation is COMPLETE. -/
theorem restoreDone_whole (hp : p < 4) (hph : (d.proof p).phase = .restore) (hm : (d.proof p).mode = 2)
    (hw : d.importWhole p = true) :
    (d.restoreDone p).proof p =
      { d.proof p with phase := if (d.proof p).keep then .ordered else .idle, keep := false, buf := [] } ∧
    (d.restoreDone p).gen (d.proof p).slot = { d.gen (d.proof p).slot with state := 3 } ∧
    bit ((d.restoreDone p).hdr pgProof).raw.toNat (8 * p + 4) = true ∧
    d.Kept (d.restoreDone p) [.proof p, .gen (d.proof p).slot, .hdr pgProof] := by
  rw [restoreDone_import hph hm, hw, if_neg (by decide)]
  have ends := kept_restoreEnds_import (d := d.modGen (d.proof p).slot fun g => { g with state := 3 }) (p := p)
    (by rwa [Dev.proof_modGen])
  exact ⟨by rw [proof_restoreEnds, Dev.proof_modGen], Eq.trans (ends (.gen _) (by simp)) (by rw [Dev.gen_modGen_self]),
    restored_restoreEnds hp, ((kept_modGen _ _).mono (by simp)).seq (ends.mono (by simp))⟩

end Sys2Proof.Machine
end

section
/-!
PROOF. A finished LOAD (R366): the frames put back, the cores, and the registers of the impression.
-/
namespace Sys2Proof.Machine

variable {d e : Dev} {p k : Nat} {sn : Snap} {g : GenSt}

/-! ### Frames written back -/

theorem kept_loadFrames (place : FrameEnt → Option Nat) (fs : List FrameEnt) (d : Dev) : d.Kept (d.loadFrames place fs).1 [.mem] := by
  induction fs generalizing d with
  | nil => exact .refl _
  | cons f fs ih =>
    unfold Dev.loadFrames
    split
    · split
      · exact ih d
      · exact .refl _
    · next a _ =>
      split
      · exact .refl _
      · next e he =>
        unfold Dev.loadFrame at he
        dsimp only at he
        split at he
        · cases he
        · cases he; exact (kept_moveBytes _ _ _).seq (ih _)

/-! ### Cores put back -/

theorem kept_putCore (x : CoreSt) : d.Kept (d.putCore k x) [.core k, .hdr (pgGauge k)] :=
  ((kept_modCore _ fun _ => x).mono (by simp)).seq ((kept_raiseIf _ _ _).mono (by simp))

@[simp] theorem core_putCore_self (x : CoreSt) : (d.putCore k x).core k = x := by
  rw [Dev.putCore, Dev.core_raiseIf, Dev.core_setCore_self]

theorem core_putCore_ne (x : CoreSt) {j : Nat} (h : j ≠ k) : (d.putCore k x).core j = d.core j := by
  rw [Dev.putCore, Dev.core_raiseIf]; exact Dev.core_setCore_ne _ _ _ h

/-- Of a core's headers, an event that stands stays. -/
theorem bit_raiseIf {pg b g n : Nat} {c : Bool} (h : bit (d.hdr g).raw.toNat n = true) :
    bit ((d.raiseIf c pg b).hdr g).raw.toNat n = true := by
  by_cases hg : g = pg
  · subst hg
    rw [hdr_raiseIf_self]
    split
    · simp only [bit_eq_testBit, Hdr.raised, BitVec.toNat_or, Nat.testBit_or] at h ⊢
      rw [h]; rfl
    · exact h
  · rwa [hdr_raiseIf_ne hg]

/-- A core is not in calibration anew where its state is the old one. -/
theorem entersCalib_self (x : CoreSt) : x.entersCalib x = false := by
  refine List.any_eq_false.2 fun i _ => ?_
  cases hc : (x.slot i).calib <;> cases hu : (x.slot i).used <;> simp [hc, hu]

/-- The cores of a list put back. -/
def Dev.putCores (d : Dev) (t : Table CoreSt) (ks : List Nat) : Dev := ks.foldl (fun e k => e.putCore k (tget {} t k)) d

theorem core_putCores (t : Table CoreSt) (ks : List Nat) :
    (d.putCores t ks).core k = if k ∈ ks then tget {} t k else d.core k := by
  induction ks generalizing d with
  | nil => rfl
  | cons j ks ih =>
    rw [Dev.putCores, List.foldl_cons, ← Dev.putCores, ih]
    by_cases hj : k = j
    · subst hj; simp
    · rw [core_putCore_ne _ hj]; simp [hj]

/-- A core that enters calibration as it is put back shows CALIB (R127). -/
theorem calib_putCores (t : Table CoreSt) (ks : List Nat)
    (hc : (d.core k).entersCalib ((d.putCores t ks).core k) = true) :
    bit ((d.putCores t ks).hdr (pgGauge k)).raw.toNat 7 = true := by
  have still : (d.core k).entersCalib (tget {} t k) = true →
      (d.putCores t ks).core k = d.core k ∨ bit ((d.putCores t ks).hdr (pgGauge k)).raw.toNat 7 = true := by
    intro enters
    refine List.foldlRecOn (motive := fun e : Dev => e.core k = d.core k ∨ bit (e.hdr (pgGauge k)).raw.toNat 7 = true) ks _
      (.inl rfl) fun e he j _ => ?_
    by_cases hj : k = j
    · subst hj
      right
      rcases he with he | he
      · rw [Dev.putCore, he, enters]
        exact (congrArg (fun h : Hdr => bit h.raw.toNat 7) (hdr_raise_self _ _)).trans (bit_raised_raw _ (by decide))
      · exact bit_raiseIf (by rwa [Dev.hdr_setCore])
    · rcases he with he | he
      · exact .inl ((core_putCore_ne _ hj).trans he)
      · exact .inr (bit_raiseIf (by rwa [Dev.hdr_setCore]))
  by_cases hk : k ∈ ks
  · have put : (d.putCores t ks).core k = tget {} t k := (core_putCores t ks).trans (if_pos hk)
    refine (still (put ▸ hc)).resolve_left fun same => ?_
    rw [same, entersCalib_self] at hc; cases hc
  · rw [core_putCores, if_neg hk, entersCalib_self] at hc; cases hc

theorem kept_putCores (t : Table CoreSt) (ks : List Nat) :
    d.KeptOutside (d.putCores t ks) fun | .core k => ks.contains k | .hdr g => ks.any (pgGauge · == g) | _ => false := by
  refine keptOutside_foldl_mem _ (fun e k hk => (kept_putCore _).outside ?_) _
  simp only [List.mem_cons, List.not_mem_nil, or_false, forall_eq_or_imp, forall_eq]
  exact ⟨by simpa using hk, List.any_eq_true.2 ⟨k, hk, by simp⟩⟩

/-! ### The rest of what a generation holds -/

/-- What putting back a generation touches beside the cores. -/
def Place.putBack : Place → Bool
  | .reg _ _ | .dma _ | .platen _ | .coll _ => true
  | _ => false

/-- The registers of core k that its image holds, back at reset. -/
def Dev.clearKept (d : Dev) (k : Nat) : Dev := { d with regs := (keptRegs k).foldl (fun t r => tclear t r 1) d.regs }

theorem kept_clearKept : d.KeptOutside (d.clearKept k) Place.putBack := by
  intro x hx; cases x
  case reg => cases hx
  all_goals first | exact rfl | exact ⟨rfl, rfl⟩ | exact ⟨rfl, rfl, rfl⟩

/-- The engines of die c as a generation holds them. -/
def Snap.putDie (sn : Snap) (d : Dev) (c : Nat) : Dev :=
  let d := (List.range 16).foldl (fun d e => d.modDma (dmaIdx c e) fun _ => tget {} sn.dmas (dmaIdx c e)) d
  let d := [2 * c, 2 * c + 1].foldl (fun d st => d.modPlaten st fun _ => tget {} sn.platens st) d
  d.modColl c fun x =>
    let y := tget {} sn.colls c
    { y with ready := d.kickedEntries c y.kicks, msgs := x.msgs }

theorem kept_putDie (c : Nat) : d.KeptOutside (sn.putDie d c) Place.putBack :=
  ((keptOutside_foldl _ (fun _ _ => (kept_modDma _ _).outside (by simp [Place.putBack])) _ _).trans
    (keptOutside_foldl _ (fun _ _ => (kept_modPlaten _ _).outside (by simp [Place.putBack])) _ _)).trans
    ((kept_modColl _ _).outside (by simp [Place.putBack]))

theorem kept_putSnap : (d.putCores sn.cores (d.coresOf p ++ sn.cores.map (·.1))).KeptOutside (d.putSnap p sn) Place.putBack :=
  ((keptOutside_foldl Dev.clearKept (fun _ _ => kept_clearKept) _ _).trans
    (keptOutside_foldl sn.putDie (fun _ c => kept_putDie c) _ _)).trans
    (keptOutside_foldl _ (fun _ x => (kept_setReg _ _ _ (Nat.mod_lt _ (by decide))).outside (by simp [Place.putBack])) _ _)

/-! ### The rest of a LOAD -/

/-- A generation's state as it is put back: galleys and lists as its capture kept them, where it is of this module. -/
def Dev.snapPut (d : Dev) (g : GenSt) : Snap :=
  { d.snapOf g with cores := (d.snapOf g).cores.map fun x =>
      match g.snap.find? fun y => y.1 == x.1 with | some y => (x.1, x.2.withKept y.2) | none => x }

def Dev.grantAll (d : Dev) (p : Nat) : Dev :=
  (d.coresOf p).foldl (fun d k => (List.range 16).foldl (fun d i => d.grantRestored k i) d) d

/-- No galley of the core takes its slots from a link. -/
def CoreSt.NoLinkSlots (c : CoreSt) : Prop := ∀ i, (c.galley i).en = true → (c.galley i).src ≠ 2

theorem noLinkSlots_fresh : ({} : CoreSt).NoLinkSlots := fun _ hi => absurd hi (show ¬({} : Galley).en = true by decide)

/-- With no galley that takes its slots from a link, there is no room to grant. -/
theorem grantAll_idle (h : ∀ k ∈ d.coresOf p, (d.core k).NoLinkSlots) :
    d.grantAll p = d := by
  refine List.foldlRecOn (motive := (· = d)) _ _ rfl fun e he k hk => ?_
  subst he
  exact List.foldl_fixed' (fun i => if_neg fun hg => h k hk i hg.1 hg.2) _

def Dev.cleanDirty (d : Dev) (p : Nat) : Dev := (d.stacksOf p).foldl (fun d st => d.modCow st fun x => { x with dirty := {} }) d

theorem dirty_cleanDirty : ∀ st ∈ d.stacksOf p, ((d.cleanDirty p).cow st).dirty = {} :=
  foldl_settles (P := fun st (e : Dev) => (e.cow st).dirty = {}) (fun _ _ => by rw [Dev.cow_modCow_self])
    (fun e c a ha => by
      by_cases hc : a = c
      · subst hc; rw [Dev.cow_modCow_self]
      · rwa [Dev.cow_modCow_ne _ _ _ hc]) _ _

theorem kept_cleanDirty : d.KeptOutside (d.cleanDirty p) fun | .cow _ => true | _ => false :=
  keptOutside_foldl _ (fun _ _ => (kept_modCow _ _).outside (by simp)) _ _

/-- A register of partition p's IMPR set written. -/
def Dev.setImpr (d : Dev) (p off v : Nat) : Dev := d.setReg pgImpr (0x100 + 0x80 * p + off) v

@[simp] theorem impr_setImpr_self (off v : Nat) : (d.setImpr p off v).impr p off = v % 2 ^ 32 := Dev.reg_setReg_self ..

theorem impr_setImpr_ne {off o : Nat} (v : Nat) (h : o ≠ off) : (d.setImpr p off v).impr p o = d.impr p o :=
  Dev.reg_setReg_ne _ _ (by simp only [regKey]; omega)

/-- The impression registers and the parent as they stand after a LOAD of generation g. -/
def Dev.goesOnAfter (d : Dev) (p : Nat) (g : GenSt) : Dev :=
  let d := { d with parents := tset 0 d.parents g.mask g.id }
  ((((d.setImpr p 0x28 (if bit g.hdr.flags 6 then g.hdr.impr else (g.hdr.impr + 1) % 2 ^ 32)).setImpr p 0x2C g.hdr.step).setImpr
    p 0x30 g.hdr.pos).setImpr p 0x10 g.hdr.stepLen).setImpr p 0x04 g.hdr.period

theorem impr_goesOnAfter :
    (d.goesOnAfter p g).impr p 0x28 = (if bit g.hdr.flags 6 then g.hdr.impr else (g.hdr.impr + 1) % 2 ^ 32) % 2 ^ 32 ∧
    (d.goesOnAfter p g).impr p 0x2C = g.hdr.step % 2 ^ 32 ∧ (d.goesOnAfter p g).impr p 0x30 = g.hdr.pos % 2 ^ 32 ∧
    (d.goesOnAfter p g).impr p 0x04 = g.hdr.period % 2 ^ 32 ∧ (d.goesOnAfter p g).impr p 0x10 = g.hdr.stepLen % 2 ^ 32 := by
  simp [Dev.goesOnAfter, impr_setImpr_ne]

theorem parents_goesOnAfter : tget 0 (d.goesOnAfter p g).parents g.mask = g.id := tget_tset_self

theorem kept_goesOnAfter (hp : p < 4) : d.KeptOutside (d.goesOnAfter p g) fun | .genNext => true | .reg h _ => h == pgImpr | _ => false := by
  have sets (e : Dev) (off v : Nat) (ho : off < 0x80) :
      e.KeptOutside (e.setImpr p off v) fun | .genNext => true | .reg h _ => h == pgImpr | _ => false :=
    (kept_setReg _ _ _ (by omega)).outside (by simp)
  have parent : d.KeptOutside { d with parents := tset 0 d.parents g.mask g.id } fun
      | .genNext => true | .reg h _ => h == pgImpr | _ => false := by
    intro x hx; cases x
    case genNext => cases hx
    all_goals first | exact rfl | exact ⟨rfl, rfl⟩ | exact ⟨rfl, rfl, rfl⟩ | exact fun _ _ => rfl
  exact ((((parent.trans (sets _ _ _ (by decide))).trans (sets _ _ _ (by decide))).trans (sets _ _ _ (by decide))).trans
    (sets _ _ _ (by decide))).trans (sets _ _ _ (by decide))

def Dev.checkPartners (d : Dev) (p : Nat) (xs : List (Nat × Nat)) : Dev := xs.foldl (fun d x =>
  let live := d.reg (pgLink x.1) 0x10C * 256 + d.reg (pgLink x.1) 0x110 % 256
  if live = x.2 then d else d.proofError p 0x0B0C x.1) d

theorem kept_checkPartners (xs : List (Nat × Nat)) : d.Kept (d.checkPartners p xs) [.hdr pgProof, .hdr pgDbg, .log] :=
  kept_foldl _ _ (fun _ _ _ => kept_ite (fun _ => .refl _) fun _ => kept_proofError _ _) _

/-- A LOAD's end, once the state is put back. -/
def Dev.loadEnds (d : Dev) (p : Nat) (g : GenSt) (sn : Snap) : Dev :=
  ((((d.cleanDirty p).goesOnAfter p g).checkPartners p sn.partners).modPart p fun x => { x with restored := true }).restoreEnds p

theorem loadDone_sound (h : (d.loadFrames (d.loadPlace p) g.frames).2 = none) : d.loadDone p g =
    let e := (d.loadFrames (d.loadPlace p) g.frames).1
    ((e.putSnap p (e.snapPut g)).grantAll p).loadEnds p g (e.snapPut g) := by
  unfold Dev.loadDone
  dsimp only
  split
  · next hf => cases h.symm.trans hf
  · rfl

theorem loadDone_bad {f : FrameEnt} (h : (d.loadFrames (d.loadPlace p) g.frames).2 = some f) :
    d.loadDone p g = ((d.loadFrames (d.loadPlace p) g.frames).1.proofError p 0x0B0B f.unit).restoreOver p := by
  unfold Dev.loadDone
  dsimp only
  split
  · next hf => cases h.symm.trans hf; rfl
  · next hf => cases h.symm.trans hf

theorem restoreDone_load (hph : (d.proof p).phase = .restore) (hm : (d.proof p).mode = 0) :
    d.restoreDone p = d.loadDone p (d.gen (d.proof p).slot) := by
  unfold Dev.restoreDone
  dsimp only
  rw [if_neg (by simp [hph]), if_neg (by omega), if_neg (by omega)]

/-! ### The cores after a LOAD -/

theorem core_putSnap : (d.putSnap p sn).core k = if k ∈ d.coresOf p ++ sn.cores.map (·.1) then tget {} sn.cores k else d.core k :=
  Eq.trans (kept_putSnap (.core k) rfl) (core_putCores _ _)

section
variable (own : ∀ z ∈ sn.cores, d.ownsCore p z.1 = true)
include own

theorem owned_of_put (hk : k ∈ d.coresOf p ++ sn.cores.map (·.1)) : d.ownsCore p k = true := by
  rcases List.mem_append.1 hk with hk | hk
  · exact (List.mem_filter.1 hk).2
  · obtain ⟨z, hz, rfl⟩ := List.mem_map.1 hk; exact own z hz

omit own in
/-- Every core of the partition is as the generation holds it. -/
theorem core_putSnap_own (hk : d.ownsCore p k = true) : (d.putSnap p sn).core k = tget {} sn.cores k := by
  rw [core_putSnap]
  split
  · rfl
  · next hn =>
    obtain ⟨hcur, hheld⟩ := not_or.1 (fun h => hn (List.mem_append.2 h))
    have fresh : d.core k = {} := by_contra fun h => hcur (mem_coresOf hk h)
    exact fresh.trans (tget_of_absent fun z hz hzk => hheld (List.mem_map.2 ⟨z, hz, hzk⟩)).symm

theorem core_putSnap_other (hk : d.ownsCore p k = false) : (d.putSnap p sn).core k = d.core k :=
  core_putSnap.trans (if_neg fun h => by rw [owned_of_put own h] at hk; cases hk)

theorem owned_of_hdr {h : Nat} (hh : (d.coresOf p ++ sn.cores.map (·.1)).any (pgGauge · == h) = true) :
    ∃ k, d.ownsCore p k = true ∧ h = pgGauge k := by
  obtain ⟨k, hk, hkh⟩ := List.any_eq_true.1 hh
  exact ⟨k, owned_of_put own hk, (beq_iff_eq.1 hkh).symm⟩

end

theorem calib_putSnap (hc : (d.core k).entersCalib ((d.putSnap p sn).core k) = true) :
    bit ((d.putSnap p sn).hdr (pgGauge k)).raw.toNat 7 = true := by
  rw [show (d.putSnap p sn).hdr (pgGauge k) = _ from kept_putSnap (.hdr _) rfl]
  exact calib_putCores _ _ (by rwa [← show (d.putSnap p sn).core k = _ from kept_putSnap (.core k) rfl])

/-- What putting back a generation touches beside memory, and with it. -/
def Place.loadPut : Place → Bool
  | .core _ | .hdr _ | .reg _ _ | .dma _ | .platen _ | .coll _ => true
  | _ => false

def Place.loaded : Place → Bool
  | .mem => true
  | x => x.loadPut

theorem keptOutside_putSnap : d.KeptOutside (d.putSnap p sn) Place.loadPut :=
  ((kept_putCores _ _).mono fun x hx => by cases x <;> simp_all [Place.loadPut]).trans
    (kept_putSnap.mono fun x hx => by cases x <;> simp_all [Place.loadPut, Place.putBack])

/-- A LOAD before it ends: the impression registers are set, and the partners checked. -/
def Dev.loadChecked (d : Dev) (p : Nat) (g : GenSt) (sn : Snap) : Dev :=
  (((d.cleanDirty p).goesOnAfter p g).checkPartners p sn.partners).modPart p fun x => { x with restored := true }

/-- What these steps of a LOAD touch. -/
def Place.loadChecks : Place → Bool
  | .hdr h => h == pgProof || h == pgDbg
  | .reg g _ => g == pgImpr
  | .part _ | .cow _ | .log | .genNext => true
  | _ => false

theorem kept_loadChecked (hp : p < 4) : d.KeptOutside (d.loadChecked p g sn) Place.loadChecks :=
  (((kept_cleanDirty.mono fun x hx => by cases x <;> simp_all [Place.loadChecks]).trans
    ((kept_goesOnAfter hp).mono fun x hx => by cases x <;> simp_all [Place.loadChecks])).trans
    ((kept_checkPartners _).outside (by simp [Place.loadChecks]))).trans ((kept_modPart _ _).outside (by simp [Place.loadChecks]))

/-! ### A LOAD that succeeds -/

/-- The device once a generation's cores, engines and registers are put back. -/
def Dev.loaded (d : Dev) (p : Nat) (g : GenSt) : Dev :=
  let e := (d.loadFrames (d.loadPlace p) g.frames).1
  e.putSnap p (e.snapPut g)

/-- The parts a LOAD puts back, as it finds them once the frames are written. -/
def Dev.loadSnap (d : Dev) (p : Nat) (g : GenSt) : Snap := (d.loadFrames (d.loadPlace p) g.frames).1.snapPut g

section
variable (own : ∀ z ∈ (d.loadSnap p g).cores, d.ownsCore p z.1 = true ∧ z.2.NoLinkSlots)
include own

theorem own_frames : ∀ z ∈ (d.loadSnap p g).cores, (d.loadFrames (d.loadPlace p) g.frames).1.ownsCore p z.1 = true := fun z hz =>
  (ownsCore_of_dies (fun c => kept_loadFrames _ _ _ (.die c) (by simp)) _).trans (own z hz).1

omit own in
theorem core_loaded_own (hk : d.ownsCore p k = true) : (d.loaded p g).core k = tget {} (d.loadSnap p g).cores k :=
  core_putSnap_own ((ownsCore_of_dies (fun c => kept_loadFrames _ _ _ (.die c) (by simp)) _).trans hk)

theorem core_loaded_other (hk : d.ownsCore p k = false) : (d.loaded p g).core k = d.core k :=
  (core_putSnap_other (own_frames own) ((ownsCore_of_dies (fun c => kept_loadFrames _ _ _ (.die c) (by simp)) _).trans hk)).trans
    (kept_loadFrames _ _ _ (.core k) (by simp))

omit own in
theorem keptOutside_loaded : d.KeptOutside (d.loaded p g) Place.loaded :=
  ((kept_loadFrames _ _ _).outside (by simp [Place.loaded])).trans
    (keptOutside_putSnap.mono fun x hx => by cases x <;> simp_all [Place.loaded, Place.loadPut])

omit own in
theorem calib_loaded (hc : (d.core k).entersCalib ((d.loaded p g).core k) = true) :
    bit ((d.loaded p g).hdr (pgGauge k)).raw.toNat 7 = true :=
  calib_putSnap (by rwa [show (Dev.loadFrames _ _ _).1.core k = d.core k from kept_loadFrames _ _ _ (.core k) (by simp)])

theorem noLinkSlots_loaded (hk : k ∈ (d.loaded p g).coresOf p) : ((d.loaded p g).core k).NoLinkSlots := by
  have hown : d.ownsCore p k = true :=
    (ownsCore_of_dies (fun c => keptOutside_loaded (.die c) rfl) k).symm.trans (List.mem_filter.1 hk).2
  rw [core_loaded_own hown]
  exact forall_tget (fun z hz => (own z hz).2) noLinkSlots_fresh k

theorem loadDone_ends (h : (d.loadFrames (d.loadPlace p) g.frames).2 = none) :
    d.loadDone p g = ((d.loaded p g).loadChecked p g (d.loadSnap p g)).restoreEnds p := by
  rw [loadDone_sound h]
  change ((d.loaded p g).grantAll p).loadEnds p g (d.loadSnap p g) = _
  rw [grantAll_idle fun k hk => noLinkSlots_loaded own hk]
  rfl

end

/-- What a LOAD leaves once its state is put back, whatever the state was. -/
theorem loadChecked_facts (hp : p < 4) :
    let e := (d.loadChecked p g sn).restoreEnds p
    e.impr p 0x28 = (if bit g.hdr.flags 6 then g.hdr.impr else (g.hdr.impr + 1) % 2 ^ 32) % 2 ^ 32 ∧
    e.impr p 0x2C = g.hdr.step % 2 ^ 32 ∧ e.impr p 0x30 = g.hdr.pos % 2 ^ 32 ∧ e.impr p 0x04 = g.hdr.period % 2 ^ 32 ∧
    e.impr p 0x10 = g.hdr.stepLen % 2 ^ 32 ∧ tget 0 e.parents g.mask = g.id ∧
    (∀ st ∈ d.stacksOf p, ∀ q, (e.cow st).dirty.has q = false) ∧ (e.part p).restored = true := by
  have later : ((d.cleanDirty p).goesOnAfter p g).KeptOutside ((d.loadChecked p g sn).restoreEnds p) fun
      | .part _ | .proof _ | .gen _ | .hdr _ | .log => true | _ => false :=
    (((kept_checkPartners _).outside (by simp)).trans ((kept_modPart _ _).outside (by simp))).trans
      (kept_restoreEnds.outside (by simp))
  have regs (o : Nat) (ho : o < 0x80) : ((d.loadChecked p g sn).restoreEnds p).impr p o = ((d.cleanDirty p).goesOnAfter p g).impr p o :=
    later (.reg pgImpr (0x100 + 0x80 * p + o)) rfl (by omega) (by simp [pgImpr, pgRailjor])
  obtain ⟨start, step, pos, period, len⟩ := impr_goesOnAfter (d := d.cleanDirty p) (p := p) (g := g)
  refine ⟨(regs _ (by decide)).trans start, (regs _ (by decide)).trans step, (regs _ (by decide)).trans pos,
    (regs _ (by decide)).trans period, (regs _ (by decide)).trans len, ?_, fun st hst q => ?_, ?_⟩
  · rw [show ((d.loadChecked p g sn).restoreEnds p).parents = _ from (later .genNext rfl).2]; exact parents_goesOnAfter
  · rw [show ((d.loadChecked p g sn).restoreEnds p).cow st = _ from later (.cow st) rfl,
      show ((d.cleanDirty p).goesOnAfter p g).cow st = _ from kept_goesOnAfter hp (.cow st) rfl, dirty_cleanDirty st hst]
    rfl
  · have ends := part_of_same (kept_restoreEnds (d := d.loadChecked p g sn) (p := p) (.part p) (by simp))
    rw [ends, Dev.loadChecked, Dev.part_modPart_self]

end Sys2Proof.Machine
end

section
/-!
PROOF. A finished RELOCATE (R367), and every clause of the statement on restores.
-/
namespace Sys2Proof.Machine

variable {s : State} {d e : Dev} {p k : Nat} {g : GenSt}

/-! ### Slots back in calibration (R127) -/

theorem clearHistory_idem (x : GSlot) : x.clearHistory.clearHistory = x.clearHistory := rfl

/-- A core with the history of every slot cleared. -/
def CoreSt.calibrated (c : CoreSt) : CoreSt :=
  { c with slots := (c.slots.map fun s => (s.1, s.2.clearHistory)).filter fun s => s.2 ≠ {} }

theorem keys_calibrated {c : CoreSt} (h : (c.slots.map (·.1)).Nodup) : (c.calibrated.slots.map (·.1)).Nodup := by
  refine (List.filter_sublist.map _).nodup ?_
  rw [List.map_map]; exact h

/-- A table whose values are all changed alike reads the change of what it read, blanks left out. -/
theorem tget_map_filter {α : Type} [DecidableEq α] {z : α} {f : α → α} (hz : f z = z) {t : Table α} (h : (t.map (·.1)).Nodup)
    (i : Nat) : tget z ((t.map fun s => (s.1, f s.2)).filter fun s => s.2 ≠ z) i = f (tget z t i) := by
  induction t with
  | nil => exact hz.symm
  | cons x t ih =>
    obtain ⟨j, v⟩ := x
    obtain ⟨fresh, rest⟩ := List.nodup_cons.1 h
    by_cases hj : j = i
    · subst hj
      by_cases hv : f v = z
      · have absent : ∀ c ∈ (t.map fun s => (s.1, f s.2)).filter fun s => s.2 ≠ z, c.1 ≠ j := fun c hc hcj => by
          obtain ⟨y, hy, rfl⟩ := List.mem_map.1 (List.mem_filter.1 hc).1
          exact fresh (List.mem_map.2 ⟨y, hy, hcj⟩)
        have := tget_of_absent (d := z) absent
        simpa [tget, hv] using this
      · simp [tget, hv]
    · have := ih rest
      by_cases hv : f v = z <;> simpa [tget, hv, hj] using this

theorem slot_calibrated {c : CoreSt} (h : (c.slots.map (·.1)).Nodup) (i : Nat) : c.calibrated.slot i = (c.slot i).clearHistory :=
  tget_map_filter rfl h i

theorem kept_slotsCalibrate : d.KeptOutside (d.slotsCalibrate p) fun
    | .core k => d.ownsCore p k | .hdr h => pageType h == 0x24 | _ => false := by
  refine keptOutside_foldl_mem _ (fun e k hk => (kept_putCore _).outside ?_) _
  have own : d.ownsCore p k = true := (List.mem_filter.1 hk).2
  simp only [List.mem_cons, List.not_mem_nil, or_false, forall_eq_or_imp, forall_eq]
  exact ⟨own, beq_iff_eq.2 (pageType_pgOfCore (by simpa using (Bool.and_eq_true_iff.1 own).1) (by decide))⟩

/-- Every slot of the partition's cores begins in calibration. -/
theorem slot_slotsCalibrate (hk : d.ownsCore p k = true) (h : ((d.core k).slots.map (·.1)).Nodup) (i : Nat) :
    ((d.slotsCalibrate p).core k).slot i = ((d.core k).slot i).clearHistory := by
  have steps (e : Dev) (c : Nat) (he : ((e.core k).slots.map (·.1)).Nodup) : (fun i => ((e.putCore c (e.core c).calibrated).core k).slot i) =
      if c == k then fun i => ((e.core k).slot i).clearHistory else fun i => (e.core k).slot i := by
    by_cases hc : c = k
    · subst hc; simp [slot_calibrated he]
    · simp [hc, core_putCore_ne _ (Ne.symm hc)]
  have keys (e : Dev) (c : Nat) (he : ((e.core k).slots.map (·.1)).Nodup) :
      (((e.putCore c (e.core c).calibrated).core k).slots.map (·.1)).Nodup := by
    by_cases hc : c = k
    · subst hc; rw [core_putCore_self]; exact keys_calibrated he
    · rwa [core_putCore_ne _ (Ne.symm hc)]
  have all := foldl_view (I := fun e : Dev => ((e.core k).slots.map (·.1)).Nodup) (fun e : Dev => fun i => (e.core k).slot i)
    (fun f i => (f i).clearHistory) (· == k) keys steps (fun _ => rfl) (d.coresOf p) h
  refine (congrFun all i).trans ?_
  by_cases hc : (d.coresOf p).any (· == k) = true
  · rw [if_pos hc]
  · have fresh : d.core k = {} := by_contra fun hn => hc (List.any_eq_true.2 ⟨k, mem_coresOf hk hn, beq_self_eq_true k⟩)
    rw [if_neg hc, fresh]; rfl

/-! ### A page put where the load map says -/

section
variable {st q a : Nat} {f : FrameEnt} (one : d.loadMap p = [(st, q, a)])
  (held : (g.frames.find? fun f => f.kind == 0 && f.unit == st && f.index == q) = some f)
include one held

theorem relocateDone_bad (h : d.loadFrame f a = none) : d.relocateDone p g = (d.proofError p 0x0B0B 0).restoreOver p := by
  unfold Dev.relocateDone
  simp only [one, List.foldl_cons, List.foldl_nil, held, h, if_true, Bool.false_eq_true, if_false]

theorem relocateDone_sound (h : d.loadFrame f a = some e) : d.relocateDone p g =
    ((e.modCow (stackOf a) fun y => { y with dirty := y.dirty.add (a % stackBytes / pageBytes) }).slotsCalibrate p).restoreEnds p := by
  unfold Dev.relocateDone
  simp only [one, List.foldl_cons, List.foldl_nil, held, h, Bool.false_eq_true, if_false]
  rfl

end

theorem restoreDone_relocate (hph : (d.proof p).phase = .restore) (hm : (d.proof p).mode = 1) :
    d.restoreDone p = d.relocateDone p (d.gen (d.proof p).slot) := by
  unfold Dev.restoreDone
  dsimp only
  rw [if_neg (by simp [hph]), if_neg (by omega), if_pos hm]

/-! ### How a restore ends -/

/-- The device after a restore that failed (R365). -/
structure Dev.RestoreFails (d e : Dev) (p : Nat) (more : List Place) : Prop where
  proof : e.proof p = { d.proof p with phase := if (d.proof p).keep then .ordered else .idle, keep := false, buf := [] }
  gen : e.gen (d.proof p).slot = { d.gen (d.proof p).slot with use := 0 }
  code : (e.hdr pgProof).errCode = 0x0B0B
  kept : d.Kept e (.proof p :: .gen (d.proof p).slot :: more)

theorem loadDone_fails {f : FrameEnt} (hm : (d.proof p).mode = 0)
    (h : (d.loadFrames (d.loadPlace p) (d.gen (d.proof p).slot).frames).2 = some f) :
    d.RestoreFails (d.loadDone p (d.gen (d.proof p).slot)) p [.mem, .hdr pgProof, .hdr pgDbg, .log] := by
  have frames := kept_loadFrames (d.loadPlace p) (d.gen (d.proof p).slot).frames d
  have hproof := frames (.proof p) (by simp)
  have hgen := frames (.gen (d.proof p).slot) (by simp)
  generalize hx : (d.loadFrames (d.loadPlace p) (d.gen (d.proof p).slot).frames).1 = x at frames hproof hgen
  have hproof : x.proof p = d.proof p := hproof
  have hgen : x.gen (d.proof p).slot = d.gen (d.proof p).slot := hgen
  obtain ⟨proof, gen, code, kept⟩ := restoreFails (d := x) (p := p) (code := 0x0B0B) f.unit (by rw [hproof, hm]; decide)
  rw [hproof] at proof gen kept
  rw [hgen] at gen
  rw [loadDone_bad h, hx]
  exact ⟨proof, gen, code, (frames.mono (by simp)).seq (kept.mono (by simp))⟩

/-- The device after a restore that succeeded (R366, R367). -/
structure Dev.RestoreEnds (d e : Dev) (p : Nat) : Prop where
  proof : e.proof p = { d.proof p with phase := if (d.proof p).keep then .ordered else .idle, keep := false, buf := [] }
  gen : e.gen (d.proof p).slot = { d.gen (d.proof p).slot with use := 0 }
  raised : bit (e.hdr pgProof).raw.toNat (8 * p + 4) = true

/-- A restore whose work leaves its partition's proof and its generation ends as it should. -/
theorem restoreEnds_of_same {x : Dev} (hp : p < 4) (hm : (d.proof p).mode ≠ 2) (hproof : x.proof p = d.proof p)
    (hgen : x.gen (d.proof p).slot = d.gen (d.proof p).slot) : d.RestoreEnds (x.restoreEnds p) p := by
  refine ⟨by rw [proof_restoreEnds, hproof], ?_, restored_restoreEnds hp⟩
  have := gen_restoreEnds (d := x) (p := p) (by rwa [hproof])
  rwa [hproof, hgen] at this

/-! ### What each mode's end leaves -/

/-- What a LOAD that succeeds leaves of its partition (R366). -/
theorem loadDone_restores (hp : p < 4) (hm : (d.proof p).mode = 0)
    (h : (d.loadFrames (d.loadPlace p) (d.gen (d.proof p).slot).frames).2 = none)
    (own : ∀ z ∈ (d.loadSnap p (d.gen (d.proof p).slot)).cores, d.ownsCore p z.1 = true ∧ z.2.NoLinkSlots) :
    d.RestoreEnds (d.loadDone p (d.gen (d.proof p).slot)) p := by
  rw [loadDone_ends own h]
  exact restoreEnds_of_same hp (by omega) (Eq.trans (kept_loadChecked hp (.proof p) rfl) (keptOutside_loaded (.proof p) rfl))
    (Eq.trans (kept_loadChecked hp (.gen _) rfl) (keptOutside_loaded (.gen _) rfl))

/-- What a LOAD that succeeds leaves beside the cores. -/
def Place.loadOver (p slot : Nat) : Place → Bool
  | .proof q => q == p
  | .gen i => i == slot
  | x => x.loadChecks

theorem kept_loadOver (hp : p < 4) (sn : Snap) :
    d.KeptOutside ((d.loadChecked p g sn).restoreEnds p) (Place.loadOver p (d.proof p).slot) := by
  have ends := kept_restoreEnds (d := d.loadChecked p g sn) (p := p)
  rw [show (d.loadChecked p g sn).proof p = d.proof p from kept_loadChecked hp (.proof p) rfl] at ends
  exact ((kept_loadChecked hp).mono fun x hx => by cases x <;> simp_all [Place.loadOver, Place.loadChecks]).trans
    (ends.outside (by simp [Place.loadOver, Place.loadChecks]))

theorem noTransfers_loadOver (hp : p < 4) (sn : Snap) (hn : d.NoTransfers) :
    (((d.loaded p g).loadChecked p g sn).restoreEnds p).NoTransfers :=
  noTransfers_of_keptOutside (noTransfers_of_keptOutside hn keptOutside_loaded fun _ => rfl) (kept_loadOver hp sn) fun _ => rfl

section
variable {a : Nat} {f : FrameEnt}

/-- A frame that is sound is moved to its place. -/
theorem loadFrame_sound (h : d.storedBad (d.frameAddr f.win f.frame) pageBytes = none ∧ d.frameDigest f = padTo 64 f.digest) :
    d.loadFrame f a = some (d.moveBytes (d.frameAddr f.win f.frame) a pageBytes) := by
  unfold Dev.loadFrame
  exact if_neg (by simp [h.1, h.2])

theorem loadFrame_unsound (h : ¬(d.storedBad (d.frameAddr f.win f.frame) pageBytes = none ∧ d.frameDigest f = padTo 64 f.digest)) :
    d.loadFrame f a = none := by
  unfold Dev.loadFrame
  refine if_pos (or_iff_not_imp_left.2 fun hn hd => h ⟨by simpa using hn, hd⟩)

/-- The device with a page moved to its place and its DIRTY bit set. -/
def Dev.pagePut (d : Dev) (f : FrameEnt) (a : Nat) : Dev :=
  (d.moveBytes (d.frameAddr f.win f.frame) a pageBytes).modCow (stackOf a) fun y =>
    { y with dirty := y.dirty.add (a % stackBytes / pageBytes) }

theorem kept_pagePut : d.Kept (d.pagePut f a) [.mem, .cow (stackOf a)] :=
  ((kept_moveBytes _ _ _).mono (by simp)).seq ((kept_modCow _ _).mono (by simp))

/-- What a RELOCATE of one page touches. -/
def Place.relocateOf (d : Dev) (p a : Nat) : Place → Bool
  | .mem => true
  | .cow t => t == stackOf a
  | .core k => d.ownsCore p k
  | .hdr h => h == pgProof || pageType h == 0x24
  | .proof q => q == p
  | .gen i => i == (d.proof p).slot
  | _ => false

theorem kept_relocated : d.KeptOutside (((d.pagePut f a).slotsCalibrate p).restoreEnds p) (Place.relocateOf d p a) := by
  have put := kept_pagePut (d := d) (f := f) (a := a)
  have own (k : Nat) : (d.pagePut f a).ownsCore p k = d.ownsCore p k := ownsCore_of_dies (fun c => put (.die c) (by simp)) k
  have calibrates : (d.pagePut f a).KeptOutside ((d.pagePut f a).slotsCalibrate p) fun
      | .core k => d.ownsCore p k | .hdr h => pageType h == 0x24 | _ => false :=
    kept_slotsCalibrate.mono fun x hx => by cases x <;> simp_all
  have proof : ((d.pagePut f a).slotsCalibrate p).proof p = d.proof p :=
    Eq.trans (calibrates (.proof p) rfl) (put (.proof p) (by simp))
  have ends := kept_restoreEnds (d := (d.pagePut f a).slotsCalibrate p) (p := p)
  rw [proof] at ends
  exact ((put.outside (by simp [Place.relocateOf])).trans
    (calibrates.mono fun x hx => by cases x <;> simp_all [Place.relocateOf])).trans (ends.outside (by simp [Place.relocateOf]))

/-- What a RELOCATE of one sound page leaves (R367). -/
theorem relocated (hp : p < 4) (hm : (d.proof p).mode = 1) :
    let e := ((d.pagePut f a).slotsCalibrate p).restoreEnds p
    d.RestoreEnds e p ∧ d.Copied e (d.frameAddr f.win f.frame) a pageBytes ∧ d.SameOutside e a pageBytes ∧
    (e.cow (stackOf a)).dirty.has (a % stackBytes / pageBytes) = true ∧
    ∀ k, d.ownsCore p k = true → ((d.core k).slots.map (·.1)).Nodup →
      ∀ i, (e.core k).slot i = ((d.core k).slot i).clearHistory := by
  intro e
  have put := kept_pagePut (d := d) (f := f) (a := a)
  have later : (d.pagePut f a).KeptOutside e fun | .core _ | .hdr _ | .proof _ | .gen _ => true | _ => false :=
    (kept_slotsCalibrate.mono fun x hx => by cases x <;> simp_all).trans (kept_restoreEnds.outside (by simp))
  have mem : e.mem = (d.moveBytes (d.frameAddr f.win f.frame) a pageBytes).mem := (later .mem rfl).1
  refine ⟨restoreEnds_of_same hp (by omega) (Eq.trans (kept_slotsCalibrate (.proof p) rfl) (put (.proof p) (by simp)))
    (Eq.trans (kept_slotsCalibrate (.gen _) rfl) (put (.gen _) (by simp))), ?_, ?_, ?_, fun k hk hkeys i => ?_⟩
  · intro j hj; rw [mem]; exact copied_moveBytes _ _ _ j hj
  · intro b hb; rw [mem]; exact sameOutside_moveBytes _ _ _ b hb
  · rw [show e.cow (stackOf a) = _ from later (.cow _) rfl, Dev.pagePut, Dev.cow_modCow_self, has_add, beq_self_eq_true]; rfl
  · have core : (d.pagePut f a).core k = d.core k := put (.core k) (by simp)
    have own : (d.pagePut f a).ownsCore p k = true := (ownsCore_of_dies (fun c => put (.die c) (by simp)) k).trans hk
    rw [show e.core k = _ from kept_restoreEnds (.core k) (by simp), slot_slotsCalibrate own (by rwa [core]), core]

end

theorem proof_restoreBegun (mode slot : Nat) : (d.restoreBegun p mode slot).proof p = { d.proof p with
    phase := .restore, mode, slot, sess := 8, got := 0, buf := [], keep := (d.proof p).phase == .ordered } := by
  rw [Dev.restoreBegun, Dev.proof_modProof_self]


theorem pgGauge_beside (k : Nat) : Place.loadOver p (d.proof p).slot (.hdr (pgGauge k)) = false := by
  simp [Place.loadOver, Place.loadChecks, pgGauge, pgOfCore, pgProof, pgDbg]; omega

/-- Settles O47: a restore begins where its checks let it, a finished one puts back what the generation holds, and each end is told. -/
theorem restores : Obligations.Restores := by
  unfold Obligations.Restores
  intro s p mode w hup hp hmode go hbits d x y c ready begun beyond refused g got held cores restored
  have begins := exec_restore go hbits hup hp hmode (p := p)
  have ends (hn : (d.restoreDone p).NoTransfers) : exec (.restoreDone p) s = .next (s.withDev (d.restoreDone p)) :=
    runIf_settled hup (decide_eq_true hp) (f := fun _ d => d.restoreDone p) hn
  refine ⟨fun hr => ?_, fun hr hm hs => ?_, fun hr hm hs => ?_, fun code hr hm hc => ?_, fun i hr hm hc hi => ?_,
    fun hph hn => ⟨fun hm hgot _ own => ?_, fun hm f hf => ?_, fun hm st q a f one hf => ⟨fun sound => ?_, fun unsound => ?_⟩,
      fun hm hwhole => ?_, fun hm hwhole => ?_⟩⟩
  · rw [restoreWrite_unready go hbits hr] at begins; exact refused_of_proofError begins
  · rw [restoreWrite_import go hbits hr hm, if_pos hs] at begins; exact refused_of_proofError begins
  · rw [restoreWrite_import go hbits hr hm, hs, if_neg (show ¬(none : Option Nat).isSome = true by simp)] at begins
    exact ⟨_, begins, proof_restoreBegun _ _, kept_modProof _ _⟩
  · rw [restoreWrite_checked go hbits hr hmode hm hc] at begins; exact refused_of_proofError begins
  · rw [restoreWrite_begun go hbits hr hmode hm hc hi] at begins
    refine ⟨_, begins, ?_, ?_, ?_⟩
    · rw [Dev.proof_modGen, proof_restoreBegun]
    · rw [Dev.gen_modGen_self]; rfl
    · exact ((kept_modProof _ _).mono (by simp)).seq ((kept_modGen _ _).mono (by simp))
  · have hdone : d.restoreDone p = d.loadDone p g := restoreDone_load hph hm
    have hafter := loadDone_ends (g := g) own hgot
    have later := kept_loadOver (d := d.loaded p g) (g := g) hp (d.loadSnap p g)
    obtain ⟨proof, gen, raised⟩ := loadDone_restores hp hm hgot own
    obtain ⟨start, step, pos, period, len, parent, clean, rest⟩ := loadChecked_facts (d := d.loaded p g) (sn := d.loadSnap p g) (g := g) hp
    have run := ends (by rw [hdone, hafter]; exact noTransfers_loadOver hp _ hn)
    rw [hdone] at run
    refine ⟨_, run, proof, gen, fun k hk => ?_, fun k hk => ?_, ?_⟩
    · have core : (d.loadDone p g).core k = (d.loaded p g).core k := by rw [hafter]; exact later (.core k) rfl
      have hdr : (d.loadDone p g).hdr (pgGauge k) = (d.loaded p g).hdr (pgGauge k) := by
        rw [hafter]; exact later (.hdr _) (pgGauge_beside k)
      rw [core, hdr]
      exact ⟨core_loaded_own hk, calib_loaded⟩
    · rw [show (d.loadDone p g).core k = (d.loaded p g).core k by rw [hafter]; exact later (.core k) rfl]
      exact core_loaded_other own hk
    · have clean : ∀ st ∈ d.stacksOf p, ∀ q, (((d.loadDone p g).cow st).dirty.has q) = false := by
        rw [hafter, ← stacksOf_of_dies fun c => keptOutside_loaded (p := p) (g := g) (.die c) rfl]; exact clean
      have mem : (d.loadDone p g).mem = got.1.mem := by
        rw [hafter]; exact Eq.trans (later .mem rfl).1 (keptOutside_putSnap .mem rfl).1
      rw [mem]
      rw [← hafter] at start step pos period len parent rest
      exact ⟨start, step, pos, period, len, parent, rfl, clean, rest, raised⟩
  · have fails := loadDone_fails hm hf
    rw [← restoreDone_load hph hm] at fails
    exact ⟨_, ends (noTransfers_of_kept hn fails.kept (by simp)), fails.proof, fails.gen, fails.code, fails.kept⟩
  · have hdone : d.restoreDone p = ((d.pagePut f a).slotsCalibrate p).restoreEnds p :=
      (restoreDone_relocate hph hm).trans (relocateDone_sound one hf (loadFrame_sound sound))
    have kept := kept_relocated (d := d) (p := p) (f := f) (a := a)
    obtain ⟨⟨proof, gen, raised⟩, copied, outside, dirty, slots⟩ := relocated (d := d) (f := f) (a := a) hp hm
    have run := ends (by rw [hdone]; exact noTransfers_of_keptOutside hn kept fun _ => rfl)
    rw [hdone] at run
    exact ⟨_, run, proof, gen, copied, outside, dirty, raised, slots, kept.mono fun x hx => by cases x <;> exact hx⟩
  · have hdone : d.restoreDone p = (d.proofError p 0x0B0B 0).restoreOver p :=
      (restoreDone_relocate hph hm).trans (relocateDone_bad one hf (loadFrame_unsound unsound))
    obtain ⟨proof, gen, code, kept⟩ := restoreFails (d := d) (p := p) (code := 0x0B0B) 0
      (by rw [show (d.proof p).mode = 1 from hm]; decide)
    have run := ends (by rw [hdone]; exact noTransfers_of_kept hn kept (by simp))
    rw [hdone] at run
    exact ⟨_, run, proof, gen, code, kept⟩
  · obtain ⟨proof, gen, raised, kept⟩ := restoreDone_whole hp hph hm hwhole
    exact ⟨_, ends (noTransfers_of_kept hn kept (by simp)), proof, gen, raised, kept⟩
  · have hdone : d.restoreDone p = d := by rw [restoreDone_import hph hm, hwhole]; rfl
    have run := ends (by rwa [hdone])
    rw [hdone] at run; exact run

end Sys2Proof.Machine
end

section
/-!
PROOF. Transfers as a cut holds them (R342, R346): what the engines touch on the way to the unit they stand at.
-/
namespace Sys2Proof.Machine

variable {d e : Dev} {p c i u v : Nat} {j : DmaJob} {b : DmaB}

/-- What the DMA engines may touch as they move data. -/
def Place.moving : Place → Bool
  | .dma _ | .mem | .cow _ | .free | .reg _ _ | .hdr _ | .log | .core _ => true
  | _ => false

/-! ### What the data path touches -/

theorem moving_write (a : Nat) (bs : List Byte) : d.KeptOutside (d.write a bs) Place.moving :=
  (kept_write a bs).outside (by simp [Place.moving])

theorem moving_noteUncorr (u : Nat) : d.KeptOutside (d.noteUncorr u) Place.moving := by
  unfold Dev.noteUncorr
  dsimp only
  split
  · exact (kept_bumpHi _ _ _ (by decide)).outside (by simp [Place.moving])
  · split
    · exact (((kept_bump _ _ _ (by decide)).outside (by simp [Place.moving])).trans
        ((kept_setReg64 _ _ _ (by decide)).outside (by simp [Place.moving]))).trans
        ((kept_raise _ _).outside (by simp [Place.moving]))
    · exact .refl _

theorem moving_noteDdr (u core seq : Nat) : d.KeptOutside (d.noteDdr u core seq) Place.moving := by
  unfold Dev.noteDdr
  split
  · exact .refl _
  · exact ((((kept_bump _ _ _ (by decide)).outside (by simp [Place.moving])).trans
      ((kept_setReg64 _ _ _ (by decide)).outside (by simp [Place.moving]))).trans
      ((kept_raise _ _).outside (by simp [Place.moving]))).trans ((kept_setError _ _ _ _).outside (by simp [Place.moving]))

theorem moving_noteAny (u core seq : Nat) : d.KeptOutside (d.noteAny u core seq) Place.moving := by
  unfold Dev.noteAny
  split
  · exact moving_noteDdr _ _ _
  · exact moving_noteUncorr _

theorem moving_countInvalid (k : Nat) (t : Tile) (n : Nat) : d.KeptOutside (d.countInvalid k t n) Place.moving := by
  unfold Dev.countInvalid
  split
  · exact (kept_modCore _ _).outside (by simp [Place.moving])
  · exact .refl _

/-! ### Rows and tiles -/

theorem moving_copyRows (e stop n r w : Nat) : d.KeptOutside (d.copyRows c e j b stop n r w).1 Place.moving := by
  induction n generalizing d r w with
  | zero => exact .refl _
  | succ n ih =>
    unfold Dev.copyRows
    dsimp only
    split
    · exact .refl _
    · split
      · exact .refl _
      · split
        · refine Dev.KeptOutside.trans ?_ (moving_noteAny _ _ _)
          split
          · exact .refl _
          · exact moving_write _ _
        · exact (moving_write _ _).trans (ih _ _)

theorem moving_tcopyTiles (e : Nat) (rs : List Region) (n u w : Nat) :
    d.KeptOutside (d.tcopyTiles c e j b rs n u w).1 Place.moving := by
  have failed (d : Dev) (x : Option Nat) (i w : Nat) : d.KeptOutside (match x with
      | some bad => (d.noteAny bad j.core j.seq, w, some (j.err c e 0x0701 j.core))
      | none => (d, w, some (j.err c e 0x0706 (i % 2 ^ 30)))).1 Place.moving := by
    cases x with
    | some bad => exact moving_noteAny _ _ _
    | none => exact .refl _
  have counted (d : Dev) (q : Nat) (t : Tile) :
      d.KeptOutside (if q % 2 = 0 then d.countInvalid j.core t (invalidElems t []) else d) Place.moving := by
    split
    · exact moving_countInvalid _ _ _
    · exact .refl _
  induction n generalizing d u w with
  | zero => exact .refl _
  | succ n ih =>
    unfold Dev.tcopyTiles
    dsimp only
    split
    · exact .refl _
    · split
      · exact failed _ _ _ _
      · split
        · exact failed _ _ _ _
        · exact (((counted _ _ _).trans (counted _ _ _)).trans (moving_write _ _)).trans (ih _ _)

theorem moving_dmaMove (e u v : Nat) : d.KeptOutside (d.dmaMove c e j b u v).1 Place.moving := by
  unfold Dev.dmaMove
  dsimp only
  split
  · exact .refl _
  · split
    · exact moving_tcopyTiles _ _ _ _ _
    · exact moving_copyRows _ _ _ _ _

/-! ### A cut begins -/

theorem moving_dmaProgress (e : Nat) : d.KeptOutside (d.dmaProgress c e) Place.moving := by
  have counted : d.KeptOutside { d with freeCount := d.freeCount + 1 } Place.moving :=
    (kept_free (d := d)).outside (by simp [Place.moving])
  unfold Dev.dmaProgress
  dsimp only
  split
  · exact .refl _
  · split
    · exact counted
    · exact ((counted.trans (moving_dmaMove _ _ _)).trans ((kept_modDma _ _).outside (by simp [Place.moving]))).trans
        ((kept_bump64 _ _ _ (by decide)).outside (by simp [Place.moving]))

/-- An engine with no transfer stands as it is. -/
theorem dmaProgress_idle {e : Nat} (h : (d.dma (dmaIdx c e)).running = none) : d.dmaProgress c e = d := by
  unfold Dev.dmaProgress
  dsimp only
  rw [h]

/-- The engines of the partition's dies, each at the unit it has come to. -/
def Dev.dmasHeld (d : Dev) (p : Nat) : Dev :=
  (d.diesOf p).foldl (fun d c => (List.range 16).foldl (fun d e => d.dmaProgress c e) d) d

theorem moving_dmasHeld : d.KeptOutside (d.dmasHeld p) Place.moving :=
  keptOutside_foldl _ (fun _ _ => keptOutside_foldl _ (fun _ _ => moving_dmaProgress _) _ _) _ _

theorem dmasHeld_idle (h : ∀ c ∈ d.diesOf p, ∀ i < 16, (d.dma (dmaIdx c i)).running = none) : d.dmasHeld p = d := by
  refine List.foldlRecOn (motive := (· = d)) _ _ rfl fun e he c hc => ?_
  refine List.foldlRecOn (motive := (· = d)) _ _ he fun e he i hi => ?_
  subst he
  exact dmaProgress_idle (h c hc i (List.mem_range.1 hi))

theorem beginCut_eq : d.beginCut p = ((d.dmasHeld p).modProof p fun x =>
    { x with phase := .quiesce, cutTime := (d.dmasHeld p).time, prior := ((d.dmasHeld p).part p).state.code }).modPart p fun x =>
    { x with moversHeld := true, released := false } := rfl

theorem proof_beginCut : (d.beginCut p).proof p =
    { d.proof p with phase := .quiesce, cutTime := d.time, prior := (d.part p).state.code } := by
  have held := moving_dmasHeld (d := d) (p := p)
  have proof : (d.dmasHeld p).proof p = d.proof p := held (.proof p) rfl
  have time : (d.dmasHeld p).time = d.time := (held .time rfl).1
  have state : ((d.dmasHeld p).part p).state = (d.part p).state := by rw [part_of_same (held (.part p) rfl)]
  rw [beginCut_eq, Dev.proof_modPart, Dev.proof_modProof_self, proof, time, state]

theorem part_beginCut : (d.beginCut p).part p =
    { d.part p with moversHeld := true, released := false, orders := ((d.beginCut p).part p).orders } := by
  have part := part_of_same (moving_dmasHeld (d := d) (p := p) (.part p) rfl)
  have cut : (d.beginCut p).part p = { (d.dmasHeld p).part p with moversHeld := true, released := false } := Dev.part_modPart_self ..
  rw [cut, part]

theorem kept_beginCut_idle (h : ∀ c ∈ d.diesOf p, ∀ i < 16, (d.dma (dmaIdx c i)).running = none) :
    d.Kept (d.beginCut p) [.proof p, .part p] := by
  rw [beginCut_eq, dmasHeld_idle h]
  exact ((kept_modProof _ _).mono (by simp)).seq ((kept_modPart _ _).mono (by simp))

/-- What a cut that begins touches. -/
def Place.cutOf (p : Nat) : Place → Bool
  | .proof q | .part q => q == p
  | x => x.moving

theorem keptOutside_beginCut : d.KeptOutside (d.beginCut p) (Place.cutOf p) :=
  (moving_dmasHeld.mono fun x hx => by cases x <;> first | exact hx | rfl | cases hx).trans
    (((kept_modProof _ _).outside (by simp [Place.cutOf])).trans ((kept_modPart _ _).outside (by simp [Place.cutOf])))

end Sys2Proof.Machine
end

section
/-!
PROOF. The controllers leave copy-on-write (R351, R370), and a generation that fails (R340, R358).
-/
namespace Sys2Proof.Machine

variable {d e : Dev} {p st reason code unit : Nat} {again : Bool}

/-! ### Held writes performed -/

/-- With its controller out of copy-on-write and nothing held, no write waits. -/
theorem mustHold_unarmed {c : CowSt} (ha : c.armed = false) (hh : c.held = []) (ps : List Nat) : c.mustHold ps = false :=
  List.any_eq_false.2 fun q _ => by simp [CowSt.pending, ha, hh]

theorem kept_releaseHeld : d.Kept (d.releaseHeld st) [.mem, .cow st] := by
  unfold Dev.releaseHeld
  dsimp only
  refine ((kept_modCow _ _).mono (by simp)).seq (kept_foldl _ _ (fun e h _ => ?_) _)
  split
  · exact (kept_modCow _ _).mono (by simp)
  · exact (kept_poke _ _).mono (by simp)

theorem cow_releaseHeld_unarmed (ha : (d.cow st).armed = false) : (d.releaseHeld st).cow st = { d.cow st with held := [] } := by
  unfold Dev.releaseHeld
  dsimp only
  refine List.foldlRecOn (motive := fun e : Dev => e.cow st = { d.cow st with held := [] }) _ _ (Dev.cow_modCow_self ..) fun e he h _ => ?_
  rw [if_neg (by rw [mustHold_unarmed (by rw [he]; exact ha) (by rw [he])]; decide)]
  exact Eq.trans (kept_poke _ _ (.cow st) (by simp)) he

/-! ### Copy-on-write left -/

/-- A controller's state as it leaves copy-on-write; `again` marks what it was copying DIRTY once more. -/
def CowSt.disarmed (x : CowSt) (again : Bool) : CowSt :=
  { x with armed := false, shadow := [], held := []
           dirty := if !again then x.dirty else if x.copySet.all then { all := true } else x.copySet.but.foldl PageSet.add x.dirty }

/-- One controller leaves copy-on-write. -/
def Dev.disarmStack (again : Bool) (d : Dev) (st : Nat) : Dev :=
  (d.modCow st fun x =>
    { x with armed := false, shadow := []
             dirty := if !again then x.dirty else if x.copySet.all then { all := true }
                      else x.copySet.but.foldl PageSet.add x.dirty }).releaseHeld st

theorem cow_disarmStack_self : (d.disarmStack again st).cow st = (d.cow st).disarmed again := by
  rw [Dev.disarmStack, cow_releaseHeld_unarmed (by rw [Dev.cow_modCow_self]), Dev.cow_modCow_self]
  rfl

theorem kept_disarmStack : d.Kept (d.disarmStack again st) [.mem, .cow st] :=
  ((kept_modCow _ _).mono (by simp)).seq kept_releaseHeld

theorem nodup_stacksOf : (d.stacksOf p).Nodup := by
  refine List.nodup_flatMap.2 ⟨fun c _ => by simp, ?_⟩
  refine (List.nodup_range.filter _ : (d.diesOf p).Nodup).imp fun {a b} hab x hx hx' => ?_
  simp only [List.mem_cons, List.not_mem_nil, or_false] at hx hx'
  omega

theorem cow_disarm (h : st ∈ d.stacksOf p) : (d.disarm p again).cow st = (d.cow st).disarmed again :=
  foldl_once (g := Dev.disarmStack again) (fun e : Dev => e.cow st) (CowSt.disarmed · again) (fun _ => cow_disarmStack_self)
    (fun _ c hc => kept_disarmStack (.cow st) (by simpa using Ne.symm hc)) nodup_stacksOf h _

/-- What leaving copy-on-write touches. -/
def Place.disarmOf (d : Dev) (p : Nat) : Place → Bool
  | .cow st => (d.stacksOf p).contains st
  | .mem | .saveHold => true
  | _ => false

theorem kept_saveHold (hs : List (Nat × Nat)) : d.Kept { d with saveHold := hs } [.saveHold] := by
  intro y hy; cases y
  case saveHold => exact absurd List.mem_cons_self hy
  all_goals first | exact rfl | exact ⟨rfl, rfl⟩ | exact ⟨rfl, rfl, rfl⟩ | exact fun _ _ => rfl

theorem keptOutside_disarm : d.KeptOutside (d.disarm p again) (Place.disarmOf d p) :=
  ((kept_saveHold _).outside (by simp [Place.disarmOf])).trans
    (keptOutside_foldl_mem (Dev.disarmStack again) (fun e st hst => kept_disarmStack.outside (by
      have hst : st ∈ d.stacksOf p := hst
      simp [Place.disarmOf, hst])) _)

theorem has_foldl_add (l : List Nat) (x : PageSet) (q : Nat) : (l.foldl PageSet.add x).has q = (l.contains q || x.has q) := by
  induction l generalizing x with
  | nil => simp
  | cons r l ih => rw [List.foldl_cons, ih, has_add, List.contains_cons]; ac_rfl

/-- What was DIRTY or being copied is DIRTY as the controller leaves copy-on-write to copy again (R370). -/
theorem has_disarmed_again {x : CowSt} {q : Nat} (h : x.dirty.has q = true ∨ x.copySet.has q = true) :
    (x.disarmed true).dirty.has q = true := by
  unfold CowSt.disarmed
  cases ha : x.copySet.all with
  | true => simp [PageSet.has]
  | false =>
    have hc : x.copySet.has q = x.copySet.but.contains q := by simp [PageSet.has, ha]
    simp only [Bool.not_true, Bool.false_eq_true, if_false, has_foldl_add, ← hc, Bool.or_eq_true]
    exact h.symm

/-! ### A generation that fails -/

theorem kept_signQ (q : List (Nat × Nat)) : d.Kept { d with signQ := q } [.signQ] := by
  intro y hy; cases y
  case signQ => exact absurd List.mem_cons_self hy
  all_goals first | exact rfl | exact ⟨rfl, rfl⟩ | exact ⟨rfl, rfl, rfl⟩ | exact fun _ _ => rfl

/-- A generation as it fails: its frames are free, and nothing holds it. -/
def GenSt.failed (g : GenSt) (reason code : Nat) : GenSt :=
  { g with state := 4, reason, code := code % 2 ^ 16, frames := [], man := [], pinned := false, snap := [], use := 0 }

/-- The failing generation dropped and counted, before the controllers leave copy-on-write. -/
def Dev.genDropped (d : Dev) (p slot reason code : Nat) : Dev :=
  ((({ d with signQ := d.signQ.filter (· != (0, p)) }.modGen slot (GenSt.failed · reason code)).bump pgProof (proofReg p 0x5C) 1).raise
    pgProof (8 * p + 3)).modProof p fun x => { x with phase := .idle }

/-- The error of a failing generation, where it has one. -/
def Dev.genTold (d : Dev) (p code unit : Nat) : Dev := if code = 0 then d else d.proofError p code unit

theorem genFails_eq (h : (d.proof p).phase ≠ .capture) :
    d.genFails p reason code unit = ((d.genTold p code unit).genDropped p (d.proof p).slot reason code).disarm p true := by
  unfold Dev.genFails
  dsimp only
  rw [if_neg (by simpa using h)]
  rfl

section
variable {slot : Nat}

theorem gen_genDropped : (d.genDropped p slot reason code).gen slot = (d.gen slot).failed reason code := by
  rw [Dev.genDropped, Dev.gen_modProof, Dev.gen_raise, Dev.gen_bump, Dev.gen_modGen_self]; rfl

theorem proof_genDropped : (d.genDropped p slot reason code).proof p = { d.proof p with phase := .idle } := by
  rw [Dev.genDropped, Dev.proof_modProof_self, Dev.proof_raise, Dev.proof_bump, Dev.proof_modGen]; rfl

theorem hdr_genDropped : (d.genDropped p slot reason code).hdr pgProof = (d.hdr pgProof).raised (8 * p + 3) := by
  rw [Dev.genDropped, Dev.hdr_modProof, hdr_raise_self, hdr_bump, Dev.hdr_modGen]; rfl

theorem signQ_genDropped : (d.genDropped p slot reason code).signQ = d.signQ.filter (· != (0, p)) := by
  rw [Dev.genDropped, Dev.modProof_signQ, Dev.raise_signQ, Dev.bump_signQ, Dev.modGen_signQ]

theorem reg_genDropped (hp : p < 4) : (d.genDropped p slot reason code).reg pgProof (proofReg p 0x5C) =
    sat 32 (d.reg pgProof (proofReg p 0x5C) + 1) := by
  rw [Dev.genDropped, Dev.reg_modProof, reg_raise (by simp only [proofReg]; omega) (by decide), reg_bump_self (by decide)]; rfl

theorem kept_genDropped (hp : p < 4) : d.Kept (d.genDropped p slot reason code)
    [.signQ, .gen slot, .reg pgProof (proofReg p 0x5C), .hdr pgProof, .proof p] :=
  (((((kept_signQ _).mono (by simp)).seq ((kept_modGen _ _).mono (by simp))).seq
    ((kept_bump _ _ _ (by simp only [proofReg]; omega)).mono (by simp))).seq ((kept_raise _ _).mono (by simp))).seq
    ((kept_modProof _ _).mono (by simp))

end

theorem kept_genTold : d.Kept (d.genTold p code unit) [.hdr pgProof, .hdr pgDbg, .log] :=
  kept_ite (fun _ => .refl _) fun _ => kept_proofError _ _

theorem errCode_genTold (h : code ≠ 0) : ((d.genTold p code unit).hdr pgProof).errCode = code := by
  rw [Dev.genTold, if_neg h, errCode_proofError]

/-- A generation that fails once it is captured leaves copy-on-write and what it held. -/
structure Dev.GenFails (d e : Dev) (p reason code : Nat) : Prop where
  gen : e.gen (d.proof p).slot = (d.gen (d.proof p).slot).failed reason code
  proof : e.proof p = { d.proof p with phase := .idle }
  counted : e.reg pgProof (proofReg p 0x5C) = sat 32 (d.reg pgProof (proofReg p 0x5C) + 1)
  raised : bit (e.hdr pgProof).raw.toNat (8 * p + 3) = true
  signQ : e.signQ = d.signQ.filter (· != (0, p))
  cows : ∀ st ∈ d.stacksOf p, e.cow st = (d.cow st).disarmed true

/-- What a generation that fails touches; its error on the PROOF page, where it has one. -/
def Place.genFailOf (d : Dev) (p : Nat) : Place → Bool
  | .gen i => i == (d.proof p).slot
  | .proof q => q == p
  | .reg g o => g == pgProof && o == proofReg p 0x5C
  | .hdr g => g == pgProof
  | .signQ => true
  | x => x.disarmOf d p

theorem genDropped_fails (hp : p < 4) : d.GenFails ((d.genDropped p (d.proof p).slot reason code).disarm p true) p reason code ∧
    d.KeptOutside ((d.genDropped p (d.proof p).slot reason code).disarm p true) (Place.genFailOf d p) ∧
    ((d.genDropped p (d.proof p).slot reason code).disarm p true).hdr pgProof = (d.hdr pgProof).raised (8 * p + 3) := by
  have dropped := kept_genDropped (d := d) (slot := (d.proof p).slot) (reason := reason) (code := code) hp
  have same : (d.genDropped p (d.proof p).slot reason code).stacksOf p = d.stacksOf p :=
    stacksOf_of_dies fun c => dropped (.die c) (by simp)
  have left := keptOutside_disarm (d := d.genDropped p (d.proof p).slot reason code) (p := p) (again := true)
  have hdr := Eq.trans (left (.hdr pgProof) rfl) hdr_genDropped
  refine ⟨⟨Eq.trans (left (.gen _) rfl) gen_genDropped, Eq.trans (left (.proof _) rfl) proof_genDropped, ?_, ?_,
    Eq.trans (left .signQ rfl) signQ_genDropped, fun st hst => ?_⟩, ?_, hdr⟩
  · exact Eq.trans (left (.reg pgProof (proofReg p 0x5C)) rfl (by simp only [proofReg]; omega) (by simp [pgProof, pgRailjor]))
      (reg_genDropped hp)
  · rw [show Dev.hdr _ pgProof = _ from hdr]; exact bit_raised_raw _ (by omega)
  · rw [cow_disarm (by rwa [same]), show Dev.cow _ st = _ from dropped (.cow st) (by simp)]
  · refine (dropped.outside (by simp [Place.genFailOf])).trans (left.mono fun x hx => ?_)
    cases x <;> simp_all [Place.genFailOf, Place.disarmOf]

/-- A generation fails with an error of the PROOF page (R358). -/
theorem genFails_fails (hp : p < 4) (hph : (d.proof p).phase ≠ .capture) (hc : code ≠ 0) :
    d.GenFails (d.genFails p reason code unit) p reason code ∧ ((d.genFails p reason code unit).hdr pgProof).errCode = code := by
  have told := kept_genTold (d := d) (p := p) (code := code) (unit := unit)
  have proof : (d.genTold p code unit).proof p = d.proof p := told (.proof p) (by simp)
  have gen (i : Nat) : (d.genTold p code unit).gen i = d.gen i := told (.gen i) (by simp)
  obtain ⟨⟨hgen, hproof, counted, raised, signQ, cows⟩, -, hdr⟩ :=
    genDropped_fails (d := d.genTold p code unit) (reason := reason) (code := code) hp
  rw [proof] at hgen hproof counted raised signQ cows hdr
  rw [genFails_eq hph]
  refine ⟨⟨?_, hproof, ?_, raised, ?_, fun st hst => ?_⟩, ?_⟩
  · rw [hgen, gen]
  · rw [counted, show Dev.reg _ pgProof (proofReg p 0x5C) = _ from told (.reg _ _) (by simp) (by simp only [proofReg]; omega)
      (by simp [pgProof, pgRailjor])]
  · rw [signQ, show (d.genTold p code unit).signQ = _ from told .signQ (by simp)]
  · rw [cows st (by rwa [stacksOf_of_dies fun c => told (.die c) (by simp)]), show (d.genTold p code unit).cow st = _ from told (.cow st) (by simp)]
  · rw [hdr]; exact errCode_genTold hc

end Sys2Proof.Machine
end

section
/-!
PROOF. Orders for a proof, and their cancelling (R338–R340).
-/
namespace Sys2Proof.Machine

variable {s : State} {d e : Dev} {p st : Nat} {w : Word}

/-! ### The registers ORDER and CANCEL -/

theorem writeProof_order (hp : p < 4) : d.writeProof (0x204 + 0x100 * p) w = d.orderWrite p w := by
  have hq : (0x204 + 0x100 * p - 0x200) / 0x100 = p := by omega
  have ho : (0x204 + 0x100 * p) % 0x100 = 0x04 := by omega
  unfold Dev.writeProof
  dsimp only
  rw [if_pos (by omega), hq, ho]
  rfl

theorem writeProof_cancel (hp : p < 4) : d.writeProof (0x208 + 0x100 * p) w = d.proofCancel p w := by
  have hq : (0x208 + 0x100 * p - 0x200) / 0x100 = p := by omega
  have ho : (0x208 + 0x100 * p) % 0x100 = 0x08 := by omega
  unfold Dev.writeProof
  dsimp only
  rw [if_pos (by omega), hq, ho]
  rfl

/-- Both commands are a write of ORDER. -/
theorem exec_proofOrder (h : s.Up) (hp : p < 4) (go : bit w.toNat 0 = true) :
    exec (if bit w.toNat 1 then .proofOrderCold p w else .proofOrderWarm p w) s = .next (s.written (s.dev.orderWrite p w)) := by
  have runs {ok : Bool} (hok : ok = true) : (s.runIf ok fun c => c.busWrite pgProof (0x204 + 0x100 * p) w) =
      .next (s.written (s.dev.orderWrite p w)) := by
    subst hok
    rw [← writeProof_order hp]
    exact run_busWrite_proof h (by omega) (by omega) (by omega)
  cases hc : bit w.toNat 1 with
  | true => exact runs (by simp [go, hc])
  | false => exact runs (by simp [go, hc])

theorem exec_proofCancel (h : s.Up) (hp : p < 4) (go : bit w.toNat 0 = true) :
    exec (.proofCancel p w) s = .next (s.written (s.dev.proofCancel p w)) := by
  have run := run_busWrite_proof (w := w) h (off := 0x208 + 0x100 * p) (by omega) (by omega) (by omega)
  rw [writeProof_cancel hp] at run
  exact (show exec (.proofCancel p w) s = s.runIf (bit w.toNat 0) _ from rfl).trans (by rw [go]; exact run)

/-! ### What a write of ORDER does -/

/-- A generation of the partition is copying or signing. -/
abbrev Dev.proofBusy (d : Dev) (p : Nat) : Prop := (d.proof p).phase = .copy ∨ (d.proof p).phase = .sign

/-- An order is pending, or a cut or a restore runs. -/
abbrev Dev.proofTaken (d : Dev) (p : Nat) : Prop :=
  (d.proof p).phase = .ordered ∨ (d.proof p).phase = .quiesce ∨ (d.proof p).phase = .capture ∨ (d.proof p).phase = .restore

/-- The partition is stopped or halted, and no impressions run. -/
abbrev Dev.proofStill (d : Dev) (p : Nat) : Prop := ((d.part p).state = .stopped ∨ (d.part p).state = .halted) ∧ (d.part p).run = false

/-- The boundary an order names has passed, or its announcement has. -/
abbrev Dev.proofLate (d : Dev) (p : Nat) : Prop := serialLater 32 (d.part p).num (d.prf p 0) = false ∨
  (d.prf p 0 = ((d.part p).num + 1) % 2 ^ 32 ∧ (d.part p).nextTick ≤ d.time + d.guardNs p)

/-- An order as it stands. -/
def Dev.ordered (d : Dev) (p : Nat) (w : Word) (b : Nat) (immediate : Bool) : Dev := d.modProof p fun y =>
  { y with phase := .ordered, cold := bit w.toNat 1, drain := bit w.toNat 2, pin := bit w.toNat 3, immediate, b }

theorem proofBusy_iff : ((d.proof p).phase == .copy || (d.proof p).phase == .sign) = true ↔ d.proofBusy p := by
  simp only [Dev.proofBusy, Bool.or_eq_true, beq_iff_eq]

theorem proofTaken_iff : ((d.proof p).phase == .ordered || (d.proof p).phase == .quiesce || (d.proof p).phase == .capture ||
    (d.proof p).phase == .restore) = true ↔ d.proofTaken p := by
  simp only [Dev.proofTaken, Bool.or_eq_true, beq_iff_eq, or_assoc]

theorem proofLate_iff : (!serialLater 32 (d.part p).num (d.prf p 0) ||
    (d.prf p 0 == ((d.part p).num + 1) % 2 ^ 32 && decide ((d.part p).nextTick ≤ d.time + d.guardNs p))) = true ↔ d.proofLate p := by
  simp only [Dev.proofLate, Bool.or_eq_true, Bool.and_eq_true, Bool.not_eq_true', beq_iff_eq, decide_eq_true_eq]

theorem proofStill_iff : (((d.part p).state == .stopped || (d.part p).state == .halted) && !(d.part p).run &&
    !((d.proof p).phase == .copy || (d.proof p).phase == .sign)) = true ↔ d.proofStill p ∧ ¬d.proofBusy p := by
  rw [Bool.and_eq_true, Bool.not_eq_true', ← Bool.not_eq_true, proofBusy_iff]
  simp only [Dev.proofStill, Bool.or_eq_true, Bool.and_eq_true, Bool.not_eq_true', beq_iff_eq]

section
variable (go : bit w.toNat 0 = true)
include go

/-- An order for a partition at rest. -/
theorem orderWrite_still (h : d.proofStill p ∧ ¬d.proofBusy p) : d.orderWrite p w =
    if (d.part p).claim ≠ 2 ∨ d.proofTaken p then d.refuseOrder p 0x0B01 0
    else match d.badReserve p with
      | some st => d.refuseOrder p 0x0B05 st
      | none => if bit w.toNat 1 ∧ !(d.coldReady p && (d.part p).pos == 0) then d.refuseOrder p 0x0B03 0
          else (d.ordered p w (d.part p).num true).beginCut p := by
  unfold Dev.orderWrite
  dsimp only
  rw [go, if_neg (by decide), if_pos (proofStill_iff.2 h)]
  simp only [proofTaken_iff]
  rfl

/-- An order for a boundary to come. -/
theorem orderWrite_later (h : ¬(d.proofStill p ∧ ¬d.proofBusy p)) : d.orderWrite p w =
    if (d.part p).claim ≠ 2 ∨ !(d.part p).run ∨ d.proofTaken p ∨ d.proofLate p then d.refuseOrder p 0x0B01 0
    else if d.proofBusy p then d.refuseOrder p 0x0B02 0
    else match d.badReserve p with
      | some st => d.refuseOrder p 0x0B05 st
      | none => d.ordered p w (d.prf p 0) false := by
  unfold Dev.orderWrite
  dsimp only
  rw [go, if_neg (by decide), if_neg fun hs => h (proofStill_iff.1 hs)]
  simp only [proofTaken_iff, proofLate_iff, proofBusy_iff]
  rfl

end

theorem proof_ordered (b : Nat) (immediate : Bool) : (d.ordered p w b immediate).proof p = { d.proof p with
    phase := .ordered, cold := bit w.toNat 1, drain := bit w.toNat 2, pin := bit w.toNat 3, immediate, b } := by
  rw [Dev.ordered, Dev.proof_modProof_self]

/-- The cut that an order begins at once. -/
theorem orderedCut (b : Nat) (immediate : Bool) :
    let e := (d.ordered p w b immediate).beginCut p
    e.proof p = { d.proof p with phase := .quiesce, cold := bit w.toNat 1, drain := bit w.toNat 2, pin := bit w.toNat 3, immediate, b
                                 cutTime := d.time, prior := (d.part p).state.code } ∧
    e.part p = { d.part p with moversHeld := true, released := false, orders := (e.part p).orders } ∧
    ((∀ c ∈ d.diesOf p, ∀ i < 16, (d.dma (dmaIdx c i)).running = none) → d.Kept e [.proof p, .part p]) ∧
    d.KeptOutside e (Place.cutOf p) := by
  have order : d.Kept (d.ordered p w b immediate) [.proof p] := kept_modProof _ _
  refine ⟨?_, ?_, fun idle => ?_, (order.outside (by simp [Place.cutOf])).trans keptOutside_beginCut⟩
  · rw [proof_beginCut, proof_ordered]; rfl
  · exact part_beginCut
  · exact (order.mono (by simp)).seq (kept_beginCut_idle fun c hc => idle c hc)

/-! ### What a write of CANCEL does -/

theorem proofCancel_busy (go : bit w.toNat 0 = true) (h : d.proofBusy p) : d.proofCancel p w = d.genFails p 1 0 0 := by
  unfold Dev.proofCancel
  rw [go, if_neg (by decide)]
  rcases h with h | h <;> rw [h]

theorem proofCancel_ordered (go : bit w.toNat 0 = true) (h : (d.proof p).phase = .ordered) :
    d.proofCancel p w = d.modProof p fun x => { x with phase := .idle } := by
  unfold Dev.proofCancel
  rw [go, if_neg (by decide), h]

/-- An order that stands while a restore runs is withdrawn. -/
theorem proofCancel_restore (go : bit w.toNat 0 = true) (h : (d.proof p).phase = .restore) :
    d.proofCancel p w = d.modProof p fun x => { x with keep := false } := by
  unfold Dev.proofCancel
  rw [go, if_neg (by decide), h]

theorem proofCancel_idle (h1 : (d.proof p).phase ≠ .ordered) (h2 : (d.proof p).phase ≠ .restore) (h3 : ¬d.proofBusy p) :
    d.proofCancel p w = d := by
  unfold Dev.proofCancel
  split
  · rfl
  · split
    · exact absurd ‹_› h1
    · exact absurd ‹_› h2
    · exact absurd (.inl ‹_›) h3
    · exact absurd (.inr ‹_›) h3
    · rfl

/-- A generation cancelled fails, with no error told (R340). -/
theorem genFails_cancelled (hp : p < 4) (h : d.proofBusy p) :
    d.GenFails (d.genFails p 1 0 0) p 1 0 ∧ d.KeptOutside (d.genFails p 1 0 0) (Place.genFailOf d p) ∧
      (d.genFails p 1 0 0).hdr pgProof = (d.hdr pgProof).raised (8 * p + 3) := by
  rw [genFails_eq (by rcases h with h | h <;> rw [h] <;> decide)]
  exact genDropped_fails hp

/-- Settles O42: an order is refused where a check fails, stands for a later boundary, or cuts a partition at rest; CANCEL undoes it. -/
theorem proofOrders : Obligations.ProofOrders := by
  unfold Obligations.ProofOrders
  intro s p w hup hp go d x y cold c busy taken still b late order coldOk fail refused
  have orders := exec_proofOrder hup hp go
  have cancels := exec_proofCancel hup hp go
  have refusal {code unit : Nat} (h : d.orderWrite p w = d.refuseOrder p code unit) : refused code :=
    refused_of_proofError (by rw [h] at orders; exact orders)
  refine ⟨fun hlater => ?_, fun hstill hbusy => ?_, fun hph => ?_, fun hbusy => ?_, fun hph => ?_, fun h1 h2 h3 => ?_⟩
  · have write := orderWrite_later go hlater
    refine ⟨fun hbad => ?_, fun hclaim hrun htaken hlate => ?_⟩
    · rw [if_pos (by simpa using hbad)] at write; exact refusal write
    · rw [if_neg (not_or.2 ⟨not_not_intro hclaim, not_or.2 ⟨by simp [x, d, hrun], not_or.2 ⟨htaken, hlate⟩⟩⟩)] at write
      refine ⟨fun hb => ?_, fun hb hres => ?_, fun hb hres => ?_⟩
      · rw [if_pos hb] at write; exact refusal write
      · obtain ⟨st, hst⟩ := Option.isSome_iff_exists.1 hres
        rw [if_neg hb, hst] at write; exact refusal write
      · rw [if_neg hb, hres] at write
        rw [write] at orders
        exact ⟨_, orders, proof_ordered _ _, kept_modProof _ _⟩
  · have write := orderWrite_still go (p := p) ⟨hstill, hbusy⟩
    refine ⟨fun hbad => ?_, fun hclaim htaken hres => ?_, fun hclaim htaken hres => ?_⟩
    · rw [if_pos hbad] at write; exact refusal write
    · obtain ⟨st, hst⟩ := Option.isSome_iff_exists.1 hres
      rw [if_neg (not_or.2 ⟨not_not_intro hclaim, htaken⟩), hst] at write; exact refusal write
    · rw [if_neg (not_or.2 ⟨not_not_intro hclaim, htaken⟩), hres] at write
      refine ⟨fun hcold hno => ?_, fun hok => ?_⟩
      · rw [if_pos ⟨hcold, by simpa [coldOk, imp_iff_not_or] using hno⟩] at write; exact refusal write
      · have cut : ¬(bit w.toNat 1 ∧ !(d.coldReady p && (d.part p).pos == 0)) := by
          rintro ⟨hc, hn⟩
          rcases hok with hok | ⟨ready, pos⟩
          · exact Bool.false_ne_true (hok.symm.trans hc)
          · rw [ready, show (d.part p).pos = 0 from pos] at hn; cases hn
        rw [if_neg cut] at write
        rw [write] at orders
        obtain ⟨proof, part, idle, kept⟩ := orderedCut (d := d) (p := p) (w := w) (d.part p).num true
        exact ⟨_, orders, proof, part, idle, kept.mono fun x hx => by cases x <;> exact hx⟩
  · rw [proofCancel_ordered go hph] at cancels
    exact ⟨_, cancels, Dev.proof_modProof_self .., kept_modProof _ _⟩
  · obtain ⟨⟨gen, proof, counted, -, signQ, cows⟩, kept, hdr⟩ := genFails_cancelled hp hbusy
    rw [proofCancel_busy go hbusy] at cancels
    refine ⟨_, cancels, gen, proof, counted, hdr, signQ, fun st hst => ?_, kept.mono fun x hx => by cases x <;> exact hx⟩
    rw [cows st hst]
    exact ⟨rfl, rfl, fun q hq => has_disarmed_again hq⟩
  · rw [proofCancel_restore go hph] at cancels
    exact ⟨_, cancels, Dev.proof_modProof_self .., kept_modProof _ _⟩
  · rwa [proofCancel_idle h1 h2 h3] at cancels

end Sys2Proof.Machine
end

section
/-!
PROOF. Generations retired (R356, R357): which go, and what they leave.
-/
namespace Sys2Proof.Machine

variable {d e f : Dev} {i mask parent : Nat}

/-- No generation that may retire is the parent on record, so none that retires marks pages DIRTY. -/
def Dev.KeepsParent (d : Dev) (mask parent : Nat) : Prop :=
  ∀ i < 16, (d.gen i).retirable mask parent = true → ¬(tget 0 d.parents mask = (d.gen i).id ∧ (d.gen i).id ≠ 0)

/-- The device after some generations have retired. -/
structure Dev.Retires (mask parent : Nat) (d e : Dev) : Prop where
  kept : d.KeptOutside e fun | .gen _ | .drain => true | _ => false
  gens : ∀ i, e.gen i = d.gen i ∨ (d.gen i).retirable mask parent = true ∧ e.gen i = {}
  queue : parent ∈ d.drainQ → parent ∈ e.drainQ
  drain : e.drain = d.drain

theorem retirable_blank : GenSt.retirable {} mask parent = false := rfl

theorem Dev.Retires.refl (d : Dev) : d.Retires mask parent d := ⟨.refl d, fun _ => .inl rfl, id, rfl⟩

theorem Dev.Retires.trans (h : d.Retires mask parent e) (h' : e.Retires mask parent f) : d.Retires mask parent f := by
  refine ⟨h.kept.trans h'.kept, fun i => ?_, h'.queue ∘ h.queue, h'.drain.trans h.drain⟩
  rcases h.gens i with same | ⟨may, gone⟩
  · rcases h'.gens i with same' | ⟨may', gone'⟩
    · exact .inl (same'.trans same)
    · exact .inr ⟨by rwa [same] at may', gone'⟩
  · rcases h'.gens i with same' | ⟨may', -⟩
    · exact .inr ⟨may, same'.trans gone⟩
    · rw [gone, retirable_blank] at may'; cases may'

/-- A generation of the parent's number stays. -/
theorem Dev.Retires.gen (h : d.Retires mask parent e) (hid : (d.gen i).id = parent) : e.gen i = d.gen i :=
  (h.gens i).resolve_right fun hr => by simp [GenSt.retirable, hid] at hr

theorem Dev.Retires.parents (h : d.Retires mask parent e) : e.parents = d.parents := (h.kept .genNext rfl).2

theorem Dev.Retires.keeps (h : d.Retires mask parent e) (hk : d.KeepsParent mask parent) : e.KeepsParent mask parent := fun i hlt hi => by
  rcases h.gens i with same | ⟨-, gone⟩
  · rw [same] at hi ⊢; rw [h.parents]; exact hk i hlt hi
  · rw [gone, retirable_blank] at hi; cases hi

/-! ### The oldest of some slots -/

theorem oldestGen_isSome {is : List Nat} (h : is ≠ []) : (d.oldestGen is).isSome = true := by
  obtain ⟨j, is, rfl⟩ := List.exists_cons_of_ne_nil h
  refine List.foldlRecOn (motive := fun o : Option Nat => o.isSome = true) is _ rfl fun o ho k _ => ?_
  cases o with
  | none => cases ho
  | some m => dsimp only; split <;> rfl

theorem oldestGen_mem {is : List Nat} {j : Nat} (h : d.oldestGen is = some j) : j ∈ is := by
  have all : ∀ o, d.oldestGen is = o → ∀ j, o = some j → j ∈ is := fun o ho => by
    subst ho
    refine List.foldlRecOn (motive := fun o : Option Nat => ∀ j, o = some j → j ∈ is) is _ (by simp) fun o ho k hk j hj => ?_
    cases o with
    | none => cases hj; exact hk
    | some m =>
      dsimp only at hj
      split at hj
      · cases hj; exact hk
      · exact ho j hj
  exact all _ rfl j h

/-! ### One generation retires -/

/-- The slots that may retire. -/
def Dev.retirables (d : Dev) (mask parent : Nat) : List Nat := (List.range 16).filter fun i => (d.gen i).retirable mask parent

/-- A slot freed, and its generation off the list of drains. -/
def Dev.genGone (d : Dev) (i : Nat) : Dev := { d.modGen i fun _ => {} with drainQ := d.drainQ.filter (· != (d.gen i).id) }

theorem kept_genGone : d.Kept (d.genGone i) [.gen i, .drain] := by
  refine ((kept_modGen i fun _ => {}).mono (by simp)).seq ?_
  intro y hy; cases y
  case drain => exact absurd (by simp) hy
  all_goals first | exact rfl | exact ⟨rfl, rfl⟩ | exact ⟨rfl, rfl, rfl⟩ | exact fun _ _ => rfl

theorem gen_genGone_self : (d.genGone i).gen i = {} := Dev.gen_modGen_self d i fun _ => {}

/-- The slot of a generation that retires is free, and nothing but the slot and the list of drains is touched. -/
theorem dropGen_retires (hlt : i < 16) (hi : (d.gen i).retirable mask parent = true) (hk : d.KeepsParent mask parent) :
    d.Retires mask parent (d.dropGen i) ∧ (d.dropGen i).gen i = {} := by
  have hmask : (d.gen i).mask = mask := by simp only [GenSt.retirable, Bool.and_eq_true, beq_iff_eq] at hi; exact hi.1.2
  have hid : (d.gen i).id ≠ parent := by simp only [GenSt.retirable, Bool.and_eq_true, bne_iff_ne] at hi; exact hi.2
  have drop : d.dropGen i = d.genGone i := by
    unfold Dev.dropGen
    exact if_neg (by rw [hmask]; exact hk i hlt hi)
  rw [drop]
  refine ⟨⟨kept_genGone.outside (by simp), fun j => ?_, fun hq => List.mem_filter.2 ⟨hq, by simpa using Ne.symm hid⟩, rfl⟩,
    gen_genGone_self⟩
  by_cases hj : j = i
  · subst hj; exact .inr ⟨hi, gen_genGone_self⟩
  · exact .inl (kept_genGone (.gen j) (by simpa using hj))

theorem retireOne_none (h : d.retireOne mask parent = none) : d.retirables mask parent = [] := by
  by_contra hn
  have := oldestGen_isSome (d := d) hn
  rw [Dev.retireOne, Option.map_eq_none_iff] at h
  rw [Dev.retirables, h] at this; cases this

/-- A slot that retires leaves one fewer that may. -/
theorem retireOne_some (hk : d.KeepsParent mask parent) (h : d.retireOne mask parent = some e) :
    d.Retires mask parent e ∧ (e.retirables mask parent).length < (d.retirables mask parent).length := by
  obtain ⟨i, hi, rfl⟩ := Option.map_eq_some_iff.1 h
  obtain ⟨hlt, hmay⟩ := List.mem_filter.1 (oldestGen_mem hi)
  obtain ⟨retires, gone⟩ := dropGen_retires (List.mem_range.1 hlt) hmay hk
  refine ⟨retires, ?_⟩
  have fewer : ∀ j, ((d.dropGen i).gen j).retirable mask parent = true → (d.gen j).retirable mask parent = true := fun j hj => by
    rcases retires.gens j with same | ⟨-, blank⟩
    · rwa [same] at hj
    · rw [blank, retirable_blank] at hj; cases hj
  have still : (d.dropGen i).retirables mask parent =
      (d.retirables mask parent).filter fun j => ((d.dropGen i).gen j).retirable mask parent := by
    rw [Dev.retirables, Dev.retirables, List.filter_filter]
    exact List.filter_congr fun j _ => by cases h : ((d.dropGen i).gen j).retirable mask parent <;> simp [fewer, h]
  rw [still]
  exact List.length_filter_lt_length_iff_exists.2 ⟨i, List.mem_filter.2 ⟨hlt, hmay⟩, by rw [gone, retirable_blank]; decide⟩

theorem length_retirables : (d.retirables mask parent).length ≤ 16 := (List.length_filter_le _ _).trans (by simp)

/-! ### Retirement beyond RETAIN -/

/-- Complete generations of a mask. -/
def Dev.completeOf (d : Dev) (mask : Nat) : List Nat := (List.range 16).filter fun i => (d.gen i).state == 3 && (d.gen i).mask == mask

/-- With fuel for every slot that may retire, retirement ends with as many as are kept, or with none that may (R357). -/
theorem retain_ends (keep n : Nat) (hk : d.KeepsParent mask parent) (hn : (d.retirables mask parent).length ≤ n) :
    d.Retires mask parent (d.retain mask parent keep n) ∧
    (((d.retain mask parent keep n).completeOf mask).length ≤ keep ∨
      (d.retain mask parent keep n).retirables mask parent = []) := by
  induction n generalizing d with
  | zero => exact ⟨.refl d, .inr (List.length_eq_zero_iff.1 (Nat.le_zero.1 hn))⟩
  | succ n ih =>
    unfold Dev.retain
    split
    · next h => exact ⟨.refl d, .inl h⟩
    · split
      · next e he =>
        obtain ⟨retires, fewer⟩ := retireOne_some hk he
        obtain ⟨rest, ends⟩ := ih (retires.keeps hk) (by omega)
        exact ⟨retires.trans rest, ends⟩
      · next h => exact ⟨.refl d, .inr (retireOne_none h)⟩

end Sys2Proof.Machine
end

section
/-!
PROOF. Writes under copy-on-write (R350), and the copier (R351).
-/
namespace Sys2Proof.Machine

variable {d e : Dev} {p st q a i : Nat} {bs : List Byte}

/-! ### A range in one page -/

/-- A range that touches one page of its stack lies in it. -/
theorem within_page {n : Nat} (h : pagesOf a n = [q]) : q * pageBytes ≤ a % stackBytes ∧ a % stackBytes + n ≤ (q + 1) * pageBytes := by
  unfold pagesOf at h
  dsimp only at h
  split at h
  · cases h
  · next hn =>
    have one := congrArg List.length h
    simp only [List.length_map, List.length_range, List.length_singleton] at one
    rw [one] at h
    have first : a % stackBytes / pageBytes = q := by simpa using h
    generalize a % stackBytes = o at *
    simp only [pageBytes] at *
    omega

/-! ### Writes -/

theorem mustHold_one {c : CowSt} (hp : c.pending q = false) (hh : c.held = []) {ps : List Nat} (hs : ps ⊆ [q]) : c.mustHold ps = false :=
  List.any_eq_false.2 fun r hr => by
    have hrq : r = q := by simpa using hs hr
    simp [hrq, hp, hh]

/-- The stack's controller once a write to page q has set its DIRTY bit (R349). -/
def CowSt.dirtied (c : CowSt) (q : Nat) : CowSt := { c with dirty := c.dirty.add q }

section
variable (ha : a < ddrBase) (hst : stackOf a = st) (hp : pagesOf a bs.length = [q]) (hr : d.inReserve st q = false)
include ha hst hp hr

theorem write_page : d.write a bs = if ((d.cow st).dirtied q).mustHold [q] then
      (d.modCow st (CowSt.dirtied · q)).modCow st fun c => { c with held := c.held ++ [(a, bs)] }
    else (d.modCow st (CowSt.dirtied · q)).poke a bs := by
  have pages : [q].filter (fun p => !d.inReserve st p) = [q] := by simp [hr]
  unfold Dev.write Dev.writeHbm
  dsimp only
  rw [if_pos ha, hst, hp, pages]
  simp only [List.isEmpty_cons, Bool.false_eq_true, if_false, List.foldl_cons, List.foldl_nil]
  rw [Dev.cow_modCow_self]
  rfl

/-- A write to a PENDING page waits (R350). -/
theorem write_pending (hq : (d.cow st).pending q = true) :
    (d.write a bs).mem = d.mem ∧ ((d.write a bs).cow st).held = (d.cow st).held ++ [(a, bs)] := by
  have waits : ((d.cow st).dirtied q).mustHold [q] = true :=
    List.any_eq_true.2 ⟨q, List.mem_singleton.2 rfl, Bool.or_eq_true_iff.2 (.inl hq)⟩
  rw [write_page ha hst hp hr, if_pos waits]
  exact ⟨rfl, by rw [Dev.cow_modCow_self, Dev.cow_modCow_self]; rfl⟩

/-- A write to a page that is not PENDING lands, where none waits. -/
theorem write_lands (hq : (d.cow st).pending q = false) (hh : (d.cow st).held = []) :
    (d.write a bs).mem.read a bs.length = bs ∧ d.SameOutside (d.write a bs) a bs.length ∧
      ((d.write a bs).cow st).dirty.has q = true := by
  have lands : ((d.cow st).dirtied q).mustHold [q] = false := mustHold_one hq hh (List.Subset.refl _)
  rw [write_page ha hst hp hr, if_neg (by rw [lands]; decide)]
  refine ⟨read_write _ _ _, fun b hb => readByte_write_outside hb, ?_⟩
  rw [show ((d.modCow st (CowSt.dirtied · q)).poke a bs).cow st = _ from kept_poke _ _ (.cow st) (by simp), Dev.cow_modCow_self]
  exact (has_add _ _ _).trans (by simp)

end

/-! ### Held writes performed -/

theorem releaseHeld_none (h : (d.cow st).held = []) : d.releaseHeld st = d.modCow st fun x => { x with held := [] } := by
  unfold Dev.releaseHeld
  dsimp only
  rw [h]; rfl

/-- The one write that waits lands once its page is PENDING no longer. -/
theorem releaseHeld_one (h : (d.cow st).held = [(a, bs)]) (hp : pagesOf a bs.length = [q]) (hq : (d.cow st).pending q = false) :
    d.releaseHeld st = (d.modCow st fun x => { x with held := [] }).poke a bs := by
  unfold Dev.releaseHeld
  dsimp only
  rw [h, List.foldl_cons, List.foldl_nil]
  dsimp only
  rw [Dev.cow_modCow_self, mustHold_one (q := q) (by exact hq) rfl (by rw [hp]; exact List.filter_subset_self _), if_neg (by decide)]

/-! ### A page shadowed -/

/-- A slot noted for a page is found. -/
theorem any_key_tset {α : Type} [DecidableEq α] {z v : α} {t : Table α} {k : Nat} (h : v ≠ z) : (tset z t k v).any (·.1 == k) = true := by
  by_contra hn
  have absent : ∀ c ∈ tset z t k v, c.1 ≠ k := fun c hc hk => hn (List.any_eq_true.2 ⟨c, hc, beq_iff_eq.2 hk⟩)
  exact h (tget_tset_self.symm.trans (tget_of_absent absent))

/-- A free shadow slot's page is not the page of an image (R353). -/
theorem shadow_apart (hr : d.inReserve st q = false) (hi : i < d.shadowPages st - 162) : d.shadowBase st + 162 + i ≠ q := by
  rintro rfl
  have hr := of_decide_eq_false hr
  simp only [Dev.shadowPages, Dev.shadowBase] at hr hi
  omega

/-- The device with page q copied to shadow slot i and the copy noted, before what waits lands. -/
def Dev.pageShadowed (d : Dev) (st q i : Nat) : Dev :=
  ((d.moveBytes (st * stackBytes + q * pageBytes) (d.shadowAddr st i) pageBytes).modCow st fun x =>
    { x with shadow := tset (2 ^ 16) x.shadow q i }).bump (pgHbmc st) 0x198 1

theorem cow_pageShadowed : (d.pageShadowed st q i).cow st = { d.cow st with shadow := tset (2 ^ 16) (d.cow st).shadow q i } := by
  rw [Dev.pageShadowed, Dev.cow_bump, Dev.cow_modCow_self]; rfl

theorem kept_pageShadowed : d.Kept (d.pageShadowed st q i) [.mem, .cow st, .reg (pgHbmc st) 0x198] :=
  (((kept_moveBytes _ _ _).mono (by simp)).seq ((kept_modCow _ _).mono (by simp))).seq ((kept_bump _ _ _ (by decide)).mono (by simp))

section
variable (hpend : (d.cow st).pending q = true) (hheld : (d.cow st).held = [(a, bs)]) (hp : pagesOf a bs.length = [q])
include hpend hheld hp

theorem shadowCopy_asked : ¬((!(d.cow st).pending q || !((d.cow st).held.any fun h => (pagesOf h.1 h.2.length).contains q)) = true) := by
  simp [hpend, hheld, hp]

theorem shadowCopy_full (hi : (List.range (d.shadowPages st - 162)).find? (fun i => !(d.cow st).shadow.any fun y => y.2 == i) = none) :
    d.shadowCopy st q = (d.bump (pgHbmc st) 0x19C 1).raise (pgHbmc st) 3 := by
  unfold Dev.shadowCopy
  dsimp only
  rw [if_neg (shadowCopy_asked hpend hheld hp), hi]

theorem shadowCopy_slot (hi : (List.range (d.shadowPages st - 162)).find? (fun i => !(d.cow st).shadow.any fun y => y.2 == i) = some i)
    (good : d.storedBad (st * stackBytes + q * pageBytes) pageBytes = none) :
    d.shadowCopy st q = (d.pageShadowed st q i).releaseHeld st := by
  unfold Dev.shadowCopy
  dsimp only
  rw [if_neg (shadowCopy_asked hpend hheld hp), hi]
  dsimp only
  split
  · next u _ hu _ => cases good.symm.trans hu
  · rfl

end

/-- The page of an image lies apart from the slot it is copied to. -/
theorem page_apart {n : Nat} (hst : stackOf a = st) (hp : pagesOf a n = [q]) (hr : d.inReserve st q = false)
    (hi : i < d.shadowPages st - 162) : d.shadowAddr st i + pageBytes ≤ a ∨ a + n ≤ d.shadowAddr st i := by
  obtain ⟨lo, hi'⟩ := within_page hp
  have apart := shadow_apart hr hi
  have ha : a = st * stackBytes + a % stackBytes := by rw [← hst, stackOf]; exact (Nat.div_add_mod' _ _).symm
  simp only [Dev.shadowAddr, Dev.saveArea]
  generalize d.shadowBase st = b at *
  simp only [stackBytes, pageBytes] at *
  omega

/-- A page shadowed: the page is copied as it was, and the write that waited lands (R350). -/
theorem pageShadowed_released (hst : stackOf a = st) (hp : pagesOf a bs.length = [q]) (hr : d.inReserve st q = false)
    (hi : i < d.shadowPages st - 162) (hheld : (d.cow st).held = [(a, bs)]) :
    let e := (d.pageShadowed st q i).releaseHeld st
    d.Copied e (st * stackBytes + q * pageBytes) (d.shadowAddr st i) pageBytes ∧ e.mem.read a bs.length = bs ∧ (e.cow st).held = [] ∧
    (e.cow st).pending q = false ∧ e.reg (pgHbmc st) 0x198 = sat 32 (d.reg (pgHbmc st) 0x198 + 1) ∧
    d.Kept e [.mem, .cow st, .reg (pgHbmc st) 0x198] := by
  intro e
  have small : i ≠ 2 ^ 16 := by
    have := Nat.mod_lt (d.reg (pgHbmc st) 0x188) (show 0 < 2 ^ 16 by decide)
    simp only [Dev.shadowPages] at hi; omega
  have shadowed : ((d.pageShadowed st q i).cow st).pending q = false := by
    rw [cow_pageShadowed]
    simp only [CowSt.pending, any_key_tset small, Bool.not_true, Bool.and_false, Bool.false_and]
  have lands : e = ((d.pageShadowed st q i).modCow st fun x => { x with held := [] }).poke a bs :=
    releaseHeld_one (by rw [cow_pageShadowed]; exact hheld) hp shadowed
  have cow : e.cow st = { (d.pageShadowed st q i).cow st with held := [] } := by
    rw [lands]; exact Eq.trans (kept_poke _ _ (.cow st) (by simp)) (by rw [Dev.cow_modCow_self])
  have mem : e.mem = (d.pageShadowed st q i).mem.write a bs := by rw [lands]; rfl
  refine ⟨fun j hj => ?_, by rw [mem, read_write], by rw [cow], by rw [cow]; exact shadowed, ?_, ?_⟩
  · have outside := page_apart hst hp hr hi
    rw [mem, readByte_write_outside (by omega)]
    exact copied_moveBytes _ _ _ j hj
  · rw [lands]; exact reg_bump_self (by decide)
  · exact kept_pageShadowed.seq (kept_releaseHeld.mono (by simp))

/-! ### The copier -/

/-- Where the copier takes page q from: its shadow slot, or its place (R351). -/
def Dev.copySource (d : Dev) (st q : Nat) : Nat :=
  match (d.cow st).shadow.find? fun y => y.1 == q with
  | some y => d.shadowAddr st y.2
  | none => st * stackBytes + q * pageBytes

section
variable {f : FrameEnt} (hpart : d.copyingPart st = some p) (hnext : d.nextPage st = some q)
  (hf : (d.gen (d.proof p).slot).ownFrame st q = some f)
include hpart hnext hf

theorem copierPage_eq : d.copierPage st q = match d.storedBad (d.copySource st q) pageBytes with
    | some u => (d.noteUncorr u).genFails p 2 0x0B06 st
    | none => ((d.moveBytes (d.copySource st q) (d.frameAddr f.win f.frame) pageBytes).modCow st fun x =>
        { x with shadow := x.shadow.filter fun s => s.1 != q, done := insertNat q x.done }).releaseHeld st := by
  unfold Dev.copierPage
  rw [hpart]
  dsimp only
  rw [if_neg (not_not_intro hnext)]
  unfold GenSt.ownFrame at hf
  rw [hf]
  rfl

end

/-- A page written to its frame is DONE. -/
theorem pageCopied (src dst : Nat) (hh : (d.cow st).held = []) :
    let e := ((d.moveBytes src dst pageBytes).modCow st fun x =>
        { x with shadow := x.shadow.filter fun s => s.1 != q, done := insertNat q x.done }).releaseHeld st
    d.Copied e src dst pageBytes ∧ d.SameOutside e dst pageBytes ∧ (e.cow st).pending q = false ∧
    (∀ y ∈ (e.cow st).shadow, y.1 ≠ q) ∧ d.Kept e [.mem, .cow st] := by
  intro e
  have released : e = ((d.moveBytes src dst pageBytes).modCow st fun x =>
      { x with shadow := x.shadow.filter fun s => s.1 != q, done := insertNat q x.done }).modCow st fun x => { x with held := [] } :=
    releaseHeld_none (by rw [Dev.cow_modCow_self]; exact hh)
  have cow : e.cow st = { d.cow st with shadow := (d.cow st).shadow.filter fun s => s.1 != q, done := insertNat q (d.cow st).done, held := [] } := by
    rw [released, Dev.cow_modCow_self, Dev.cow_modCow_self]; rfl
  have mem : e.mem = (d.moveBytes src dst pageBytes).mem := by rw [released]; rfl
  refine ⟨fun j hj => ?_, fun b hb => ?_, ?_, fun y hy => ?_, ?_⟩
  · rw [mem]; exact copied_moveBytes _ _ _ j hj
  · rw [mem]; exact sameOutside_moveBytes _ _ _ b hb
  · rw [cow]; simp [CowSt.pending, mem_insertNat]
  · rw [cow] at hy; simpa using (List.mem_filter.1 hy).2
  · rw [released]
    exact (((kept_moveBytes _ _ _).mono (by simp)).seq ((kept_modCow _ _).mono (by simp))).seq ((kept_modCow _ _).mono (by simp))

end Sys2Proof.Machine
end

section
/-!
PROOF. The copy's end, and signing (R351, R358, R360).
-/
namespace Sys2Proof.Machine

variable {s : State} {d e : Dev} {p st q slot : Nat} {g : GenSt} {sig bs : List Byte} {off : Bool}

/-! ### The save images copied -/

theorem kept_pokeManifest (win : Nat) (frames : List Nat) (bs : List Byte) : d.Kept (d.pokeManifest win frames bs) [.mem] :=
  kept_foldl _ _ (fun _ _ _ => kept_poke _ _) _

theorem kept_copySave (f : FrameEnt) : d.Kept (d.copySave f) [.mem] := by
  unfold Dev.copySave
  dsimp only
  split
  · exact kept_moveBytes _ _ _
  · split
    · exact kept_moveBytes _ _ _
    · exact .refl _

/-- The save images in their frames, and the controllers out of copy-on-write. -/
def Dev.savesCopied (d : Dev) (p : Nat) (g : GenSt) : Dev := (g.frames.foldl Dev.copySave d).disarm p false

/-- The generation as it waits to be signed: each of its own frames with its digest, and the manifest written. -/
def Dev.readied (d : Dev) (g : GenSt) : GenSt :=
  let g := { g with frames := g.frames.map fun f : FrameEnt => if f.fgen = g.id then { f with digest := d.frameDigest f } else f }
  { g with state := 2, manifest := g.signed }

theorem manifest_readied : (d.readied g).manifest = (d.readied g).signed := rfl

/-- Digests change nothing else of the entries. -/
theorem frames_readied : (d.readied g).frames.map (fun f => (f.kind, f.unit, f.index, f.frame)) =
    g.frames.map fun f => (f.kind, f.unit, f.index, f.frame) := by
  rw [Dev.readied, List.map_map]
  refine List.map_congr_left fun f _ => ?_
  simp only [Function.comp]
  split <;> rfl

def Dev.withSignQ (d : Dev) (q : List (Nat × Nat)) : Dev := { d with signQ := q }

/-- The device with the manifest waiting to be signed. -/
def Dev.signWaits (d : Dev) (p slot : Nat) (g : GenSt) : Dev :=
  (((d.modGen slot fun _ => g).modProof p fun x => { x with phase := .sign }).withSignQ (d.signQ ++ [(0, p)])).pokeManifest
    g.manWin g.man g.manifest

theorem copyDone_good (hph : (d.proof p).phase = .copy) (hnext : ∀ t ∈ d.stacksOf p, d.nextPage t = none)
    (good : ∀ t ∈ d.stacksOf p, d.storedBad (d.saveArea t) (162 * pageBytes) = none) :
    let g := d.gen (d.proof p).slot
    d.copyDone p = (d.savesCopied p g).signWaits p (d.proof p).slot ((d.savesCopied p g).readied g) := by
  have ready : ¬((d.proof p).phase ≠ .copy ∨ ((d.stacksOf p).any fun st => (d.nextPage st).isSome) = true) := by
    rintro (h | h)
    · exact h hph
    · obtain ⟨t, ht, hs⟩ := List.any_eq_true.1 h
      rw [hnext t ht] at hs; cases hs
  have sound : (d.stacksOf p).find? (fun st => (d.storedBad (d.saveArea st) (162 * pageBytes)).isSome) = none :=
    List.find?_eq_none.2 fun t ht => by rw [good t ht]; decide
  unfold Dev.copyDone
  dsimp only
  rw [if_neg ready, sound]
  rfl

theorem copyDone_bad (hph : (d.proof p).phase = .copy) (hnext : ∀ t ∈ d.stacksOf p, d.nextPage t = none)
    (bad : ∃ t ∈ d.stacksOf p, (d.storedBad (d.saveArea t) (162 * pageBytes)).isSome = true) :
    ∃ t, d.copyDone p = d.genFails p 2 0x0B06 t := by
  have ready : ¬((d.proof p).phase ≠ .copy ∨ ((d.stacksOf p).any fun st => (d.nextPage st).isSome) = true) := by
    rintro (h | h)
    · exact h hph
    · obtain ⟨t, ht, hs⟩ := List.any_eq_true.1 h
      rw [hnext t ht] at hs; cases hs
  obtain ⟨t, ht⟩ := Option.isSome_iff_exists.1 (List.find?_isSome.2 bad)
  refine ⟨t, ?_⟩
  unfold Dev.copyDone
  dsimp only
  rw [if_neg ready, ht]

theorem kept_signWaits : d.Kept (d.signWaits p slot g) [.gen slot, .proof p, .signQ, .mem] :=
  ((((kept_modGen _ _).mono (by simp)).seq ((kept_modProof _ _).mono (by simp))).seq ((kept_signQ _).mono (by simp))).seq
    ((kept_pokeManifest _ _ _).mono (by simp))

theorem signWaits_facts : (d.signWaits p slot g).gen slot = g ∧ (d.signWaits p slot g).proof p = { d.proof p with phase := .sign } ∧
    (d.signWaits p slot g).signQ = d.signQ ++ [(0, p)] := by
  have poked {x : Dev} : x.Kept (x.pokeManifest g.manWin g.man g.manifest) [.mem] := kept_pokeManifest _ _ _
  refine ⟨Eq.trans (poked (.gen slot) (by simp)) ?_, Eq.trans (poked (.proof p) (by simp)) ?_, poked .signQ (by simp)⟩
  · exact Eq.trans (kept_signQ _ (.gen slot) (by simp)) (by rw [Dev.gen_modProof, Dev.gen_modGen_self])
  · exact Eq.trans (kept_signQ _ (.proof p) (by simp)) (by rw [Dev.proof_modProof_self, Dev.proof_modGen])

/-- What copying done touches. -/
def Place.copiedOf (d : Dev) (p : Nat) : Place → Bool
  | .gen i => i == (d.proof p).slot
  | .proof y => y == p
  | .signQ => true
  | x => x.disarmOf d p

theorem savesCopied_facts : d.KeptOutside (d.savesCopied p g) (Place.disarmOf d p) ∧
    ∀ t ∈ d.stacksOf p, (d.savesCopied p g).cow t = (d.cow t).disarmed false := by
  have saved : d.Kept (g.frames.foldl Dev.copySave d) [.mem] := kept_foldl _ _ (fun _ f _ => kept_copySave f) _
  have same : (g.frames.foldl Dev.copySave d).stacksOf p = d.stacksOf p := stacksOf_of_dies fun c => saved (.die c) (by simp)
  refine ⟨(saved.outside (by simp [Place.disarmOf])).trans (keptOutside_disarm.mono fun x hx => ?_), fun t ht => ?_⟩
  · cases x <;> simp_all [Place.disarmOf]
  · rw [Dev.savesCopied, cow_disarm (by rwa [same]), show Dev.cow _ t = d.cow t from saved (.cow t) (by simp)]

/-- What the copy's end leaves where every save area is sound (R351, R358). -/
theorem copyDone_facts (hph : (d.proof p).phase = .copy) (hnext : ∀ t ∈ d.stacksOf p, d.nextPage t = none)
    (good : ∀ t ∈ d.stacksOf p, d.storedBad (d.saveArea t) (162 * pageBytes) = none) :
    let g := d.gen (d.proof p).slot
    let e := d.copyDone p
    e.proof p = { d.proof p with phase := .sign } ∧ (e.gen (d.proof p).slot).state = 2 ∧ (e.gen (d.proof p).slot).id = g.id ∧
    (e.gen (d.proof p).slot).manifest = (e.gen (d.proof p).slot).signed ∧
    (e.gen (d.proof p).slot).frames.map (fun f => (f.kind, f.unit, f.index, f.frame)) =
      g.frames.map (fun f => (f.kind, f.unit, f.index, f.frame)) ∧
    e.signQ = d.signQ ++ [(0, p)] ∧ (∀ t ∈ d.stacksOf p, (e.cow t).armed = false ∧ (e.cow t).held = []) ∧
    d.KeptOutside e (Place.copiedOf d p) := by
  intro g e
  obtain ⟨saved, cows⟩ := savesCopied_facts (d := d) (p := p) (g := g)
  have done : e = (d.savesCopied p g).signWaits p (d.proof p).slot ((d.savesCopied p g).readied g) := copyDone_good hph hnext good
  have waits : (d.savesCopied p g).Kept e _ := done ▸ kept_signWaits
  obtain ⟨gen, proof, signQ⟩ := signWaits_facts (d := d.savesCopied p g) (p := p) (slot := (d.proof p).slot)
    (g := (d.savesCopied p g).readied g)
  rw [← done] at gen proof signQ
  refine ⟨?_, by rw [gen]; rfl, by rw [gen]; rfl, by rw [gen]; exact manifest_readied, by rw [gen]; exact frames_readied, ?_,
    fun t ht => ?_, ?_⟩
  · rw [proof, show (d.savesCopied p g).proof p = d.proof p from saved (.proof p) rfl]
  · rw [signQ, show (d.savesCopied p g).signQ = d.signQ from saved .signQ rfl]
  · rw [show e.cow t = _ from waits (.cow t) (by simp), cows t ht]
    exact ⟨rfl, rfl⟩
  · exact (saved.mono fun y hy => by cases y <;> simp_all [Place.copiedOf, Place.disarmOf]).trans
      (waits.outside (by simp [Place.copiedOf, Place.disarmOf]))

/-! ### A signed manifest -/

theorem manifestSigned_fails (hph : (d.proof p).phase = .sign) (hq : d.signQ.head? = some (0, p)) (h : off = true ∨ sig = []) :
    d.manifestSigned p sig off = d.genFails p 2 0x0B07 0 := by
  unfold Dev.manifestSigned
  dsimp only
  rw [if_neg (by simp [hph, hq]), if_pos (by simpa using h)]

/-- Generation `id` is the parent of its mask's next. -/
def Dev.withParent (d : Dev) (mask id : Nat) : Dev := { d with parents := tset 0 d.parents mask id }

/-- What the drains of a mask wait for. -/
def Dev.withDrains (d : Dev) (mask n : Nat) (drains : List Nat) : Dev :=
  { d with sinceDrain := tset 0 d.sinceDrain mask n, drainQ := drains }

theorem kept_withParent (mask id : Nat) : d.Kept (d.withParent mask id) [.genNext] := by
  intro y hy; cases y
  case genNext => exact absurd (by simp) hy
  all_goals first | exact rfl | exact ⟨rfl, rfl⟩ | exact ⟨rfl, rfl, rfl⟩ | exact fun _ _ => rfl

theorem kept_withDrains (mask n : Nat) (drains : List Nat) : d.Kept (d.withDrains mask n drains) [.drain] := by
  intro y hy; cases y
  case drain => exact absurd (by simp) hy
  all_goals first | exact rfl | exact ⟨rfl, rfl⟩ | exact ⟨rfl, rfl, rfl⟩ | exact fun _ _ => rfl

/-- A generation's manifest with its signature in its frames, and the generation COMPLETE. -/
def Dev.genComplete (d : Dev) (slot : Nat) (bs : List Byte) : Dev :=
  ((d.withSignQ d.signQ.tail).pokeManifest (d.gen slot).manWin (d.gen slot).man bs).modGen slot fun g =>
    { g with state := 3, manifest := bs }

theorem kept_genComplete : d.Kept (d.genComplete slot bs) [.signQ, .mem, .gen slot] :=
  (((kept_signQ _).mono (by simp)).seq ((kept_pokeManifest _ _ _).mono (by simp))).seq ((kept_modGen _ _).mono (by simp))

theorem genComplete_facts : (d.genComplete slot bs).gen slot = { d.gen slot with state := 3, manifest := bs } ∧
    (d.genComplete slot bs).signQ = d.signQ.tail := by
  have poked {x : Dev} {w : Nat} {fs : List Nat} : x.Kept (x.pokeManifest w fs bs) [.mem] := kept_pokeManifest _ _ _
  refine ⟨?_, Eq.trans (kept_modGen slot _ .signQ (by simp)) (poked .signQ (by simp))⟩
  rw [Dev.genComplete, Dev.gen_modGen_self, show Dev.gen (Dev.pokeManifest _ _ _ _) slot = _ from poked (.gen slot) (by simp)]
  rfl

/-- The registers and the event that tell of generation `id`. -/
def Dev.genTells (d : Dev) (p id : Nat) : Dev :=
  ((d.setReg pgProof (proofReg p 0x10) id).bump pgProof (proofReg p 0x58) 1).raise pgProof (8 * p + 1)

section
variable (hp : p < 4) (id : Nat)
include hp

theorem kept_genTells : d.Kept (d.genTells p id)
    [.reg pgProof (proofReg p 0x10), .reg pgProof (proofReg p 0x58), .hdr pgProof] :=
  (((kept_setReg _ _ _ (by simp only [proofReg]; omega)).mono (by simp)).seq
    ((kept_bump _ _ _ (by simp only [proofReg]; omega)).mono (by simp))).seq ((kept_raise _ _).mono (by simp))

theorem genTells_facts : (d.genTells p id).hdr pgProof = (d.hdr pgProof).raised (8 * p + 1) ∧
    (d.genTells p id).reg pgProof (proofReg p 0x10) = id % 2 ^ 32 ∧
    (d.genTells p id).reg pgProof (proofReg p 0x58) = sat 32 (d.reg pgProof (proofReg p 0x58) + 1) ∧
    (d.genTells p id).prf p 0x18 = d.prf p 0x18 := by
  have told (o : Nat) (ho : o < 4096) : (d.genTells p id).reg pgProof o =
      ((d.setReg pgProof (proofReg p 0x10) id).bump pgProof (proofReg p 0x58) 1).reg pgProof o :=
    reg_raise ho (by decide)
  have apart {o : Nat} (ho : o ≠ proofReg p 0x58) (hlt : o < 4096) :
      ((d.setReg pgProof (proofReg p 0x10) id).bump pgProof (proofReg p 0x58) 1).reg pgProof o =
        (d.setReg pgProof (proofReg p 0x10) id).reg pgProof o :=
    kept_bump _ _ _ (by simp only [proofReg]; omega) (.reg pgProof o) (by simpa using ho) hlt fun h => absurd h.1 (by decide)
  refine ⟨?_, ?_, ?_, ?_⟩
  · rw [Dev.genTells, hdr_raise_self, hdr_bump, Dev.hdr_setReg]
  · rw [told _ (by simp only [proofReg]; omega), apart (by simp only [proofReg]; omega) (by simp only [proofReg]; omega),
      Dev.reg_setReg_self]
  · rw [told _ (by simp only [proofReg]; omega), reg_bump_self (by decide), Dev.reg_setReg_ne _ _ (by simp only [regKey, proofReg]; omega)]
  · rw [Dev.prf, told _ (by simp only [proofReg]; omega), apart (by simp only [proofReg]; omega) (by simp only [proofReg]; omega),
      Dev.reg_setReg_ne _ _ (by simp only [regKey, proofReg]; omega)]
    rfl

end

/-- A generation drains as it completes: its order asked for it, or enough have completed since the last (R361). -/
def Dev.drainsDue (d : Dev) (p : Nat) (g : GenSt) : Bool :=
  g.drain || (d.prf p 0x1C % 2 ^ 16 != 0 && decide (d.prf p 0x1C % 2 ^ 16 ≤ tget 0 d.sinceDrain g.mask + 1))

/-- The list of drains, and the count since the last, once generation g is complete. -/
def Dev.drainsWait (d : Dev) (p : Nat) (g : GenSt) : Dev :=
  d.withDrains g.mask (if d.drainsDue p g then 0 else tget 0 d.sinceDrain g.mask + 1)
    (if d.drainsDue p g then d.drainQ ++ [g.id] else d.drainQ)

/-- A generation signed: COMPLETE, told of, and the parent of the next. -/
def Dev.signedUp (d : Dev) (p slot : Nat) (bs : List Byte) : Dev :=
  (((d.genComplete slot bs).withParent (d.gen slot).mask (d.gen slot).id).drainsWait p (d.gen slot)).genTells p (d.gen slot).id

/-- MANIFEST_SIGNED with a signature: the generation is signed, and the oldest beyond RETAIN retire (R357, R360). -/
theorem manifestSigned_eq (hph : (d.proof p).phase = .sign) (hq : d.signQ.head? = some (0, p)) (hoff : off = false) (hs : sig ≠ []) :
    let g := d.gen (d.proof p).slot
    let m := d.signedUp p (d.proof p).slot (g.manifest ++ signature sig)
    d.manifestSigned p sig off = (m.modProof p fun x => { x with phase := .idle }).retain g.mask g.id (m.prf p 0x18 % 8) 16 := by
  have asked : ¬(off ∨ sig.isEmpty) := by simpa [hoff] using hs
  have turn : ¬((d.proof p).phase ≠ .sign ∨ d.signQ.head? ≠ some (0, p)) := by simp [hph, hq]
  intro g m
  exact (if_neg turn).trans (if_neg asked)

/-- The generation complete and the parent of the next, and the drains that wait, before it is told of. -/
def Dev.genRecorded (d : Dev) (p slot : Nat) (bs : List Byte) : Dev :=
  ((d.genComplete slot bs).withParent (d.gen slot).mask (d.gen slot).id).drainsWait p (d.gen slot)

theorem kept_genRecorded : d.Kept (d.genRecorded p slot bs) [.signQ, .mem, .gen slot, .genNext, .drain] :=
  ((kept_genComplete.mono (by simp)).seq ((kept_withParent _ _).mono (by simp))).seq ((kept_withDrains _ _ _).mono (by simp))

theorem genRecorded_facts :
    (d.genRecorded p slot bs).gen slot = { d.gen slot with state := 3, manifest := bs } ∧
    (d.genRecorded p slot bs).signQ = d.signQ.tail ∧ tget 0 (d.genRecorded p slot bs).parents (d.gen slot).mask = (d.gen slot).id ∧
    ((d.gen slot).drain = true → (d.gen slot).id ∈ (d.genRecorded p slot bs).drainQ) ∧
    (d.genRecorded p slot bs).genNext = d.genNext ∧ (d.genRecorded p slot bs).drain = d.drain := by
  obtain ⟨gen, signQ⟩ := genComplete_facts (d := d) (slot := slot) (bs := bs)
  have complete := kept_genComplete (d := d) (slot := slot) (bs := bs)
  have parent : (d.genComplete slot bs).Kept ((d.genComplete slot bs).withParent (d.gen slot).mask (d.gen slot).id) [.genNext] :=
    kept_withParent _ _
  have later : ((d.genComplete slot bs).withParent (d.gen slot).mask (d.gen slot).id).Kept (d.genRecorded p slot bs) [.drain] :=
    kept_withDrains _ _ _
  refine ⟨?_, ?_, ?_, fun hd => ?_, ?_, ?_⟩
  · exact Eq.trans (later (.gen slot) (by simp)) (Eq.trans (parent (.gen slot) (by simp)) gen)
  · exact Eq.trans (later .signQ (by simp)) (Eq.trans (parent .signQ (by simp)) signQ)
  · rw [(later .genNext (by simp)).2]; exact tget_tset_self
  · have due (m : Dev) : m.drainsDue p (d.gen slot) = true := by simp only [Dev.drainsDue, hd, Bool.true_or]
    change _ ∈ if _ then _ else _
    rw [if_pos (due _)]
    exact List.mem_append_right _ (List.mem_singleton.2 rfl)
  · exact (later .genNext (by simp)).1.trans (complete .genNext (by simp)).1
  · exact (parent .drain (by simp)).1.trans (complete .drain (by simp)).1

/-- What a signed manifest touches. -/
def Place.signedOf (p : Nat) : Place → Bool
  | .gen _ | .drain | .genNext | .mem | .signQ => true
  | .proof y => y == p
  | .hdr h => h == pgProof
  | .reg h o => h == pgProof && (o == proofReg p 0x10 || o == proofReg p 0x58)
  | _ => false

/-- What a signed manifest leaves (R357, R360). -/
theorem manifestSigned_facts (hp : p < 4) (hph : (d.proof p).phase = .sign) (hq : d.signQ.head? = some (0, p)) (hoff : off = false)
    (hs : sig ≠ []) :
    let g := d.gen (d.proof p).slot
    let e := d.manifestSigned p sig off
    e.gen (d.proof p).slot = { g with state := 3, manifest := g.manifest ++ signature sig } ∧
    e.proof p = { d.proof p with phase := .idle } ∧ e.signQ = d.signQ.tail ∧ tget 0 e.parents g.mask = g.id ∧
    e.reg pgProof (proofReg p 0x10) = g.id % 2 ^ 32 ∧
    e.reg pgProof (proofReg p 0x58) = sat 32 (d.reg pgProof (proofReg p 0x58) + 1) ∧
    e.hdr pgProof = (d.hdr pgProof).raised (8 * p + 1) ∧ (g.drain = true → g.id ∈ e.drainQ) ∧ e.genNext = d.genNext ∧
    e.drain = d.drain ∧ ((e.completeOf g.mask).length ≤ d.prf p 0x18 % 8 ∨ e.retirables g.mask g.id = []) ∧
    d.KeptOutside e (Place.signedOf p) := by
  intro g e
  let r := d.genRecorded p (d.proof p).slot (g.manifest ++ signature sig)
  let m := (r.genTells p g.id).modProof p fun x => { x with phase := .idle }
  have recorded : d.Kept r _ := kept_genRecorded
  obtain ⟨gen, signQ, parents, drains, genNext, drain⟩ := genRecorded_facts (d := d) (p := p) (slot := (d.proof p).slot)
    (bs := g.manifest ++ signature sig)
  have tells : r.Kept (r.genTells p g.id) _ := kept_genTells hp g.id
  obtain ⟨hdr, last, count, keeps⟩ := genTells_facts (d := r) hp g.id
  have ends : (r.genTells p g.id).Kept m [.proof p] := kept_modProof _ _
  have told := tells.trans ends
  have regs (o : Nat) (ho : o < 4096) : r.reg pgProof o = d.reg pgProof o :=
    recorded (.reg pgProof o) (by simp) ho fun h => absurd h.1 (by decide)
  have parented : tget 0 m.parents g.mask = g.id := by rw [(told .genNext (by simp)).2]; exact parents
  have he : e = m.retain g.mask g.id ((r.genTells p g.id).prf p 0x18 % 8) 16 := manifestSigned_eq hph hq hoff hs
  have keep : (r.genTells p g.id).prf p 0x18 = d.prf p 0x18 := keeps.trans (regs _ (by simp only [proofReg]; omega))
  rw [keep] at he
  have parent : m.KeepsParent g.mask g.id := fun i _ hi h => by
    simp only [GenSt.retirable, Bool.and_eq_true, bne_iff_ne] at hi
    exact hi.2 (h.1.symm.trans parented)
  obtain ⟨retires, full⟩ := retain_ends (d.prf p 0x18 % 8) 16 parent length_retirables
  rw [← he] at retires full
  have mgen : m.gen (d.proof p).slot = { g with state := 3, manifest := g.manifest ++ signature sig } :=
    Eq.trans (told (.gen _) (by simp)) gen
  refine ⟨(retires.gen (by rw [mgen])).trans mgen, ?_, ?_, ?_, ?_, ?_, ?_, fun hd => ?_, ?_, ?_, full, ?_⟩
  · exact Eq.trans (retires.kept (.proof p) rfl) ((Dev.proof_modProof_self ..).trans (by
      rw [show (r.genTells p g.id).proof p = d.proof p from Eq.trans (tells (.proof p) (by simp)) (recorded (.proof p) (by simp))]))
  · exact Eq.trans (retires.kept .signQ rfl) (Eq.trans (told .signQ (by simp)) signQ)
  · rw [retires.parents]; exact parented
  · exact (retires.kept (.reg pgProof _) rfl (by simp only [proofReg]; omega) fun h => absurd h.1 (by decide)).trans last
  · exact (retires.kept (.reg pgProof _) rfl (by simp only [proofReg]; omega) fun h => absurd h.1 (by decide)).trans
      (count.trans (by rw [regs _ (by simp only [proofReg]; omega)]))
  · exact Eq.trans (retires.kept (.hdr _) rfl) (hdr.trans (by rw [show r.hdr pgProof = _ from recorded (.hdr _) (by simp)]))
  · refine retires.queue ?_
    rw [(told .drain (by simp)).2.1]; exact drains hd
  · exact (retires.kept .genNext rfl).1.trans ((told .genNext (by simp)).1.trans genNext)
  · exact retires.drain.trans ((told .drain (by simp)).1.trans drain)
  · exact ((recorded.outside (by simp [Place.signedOf])).trans (told.outside (by simp [Place.signedOf]))).trans
      (retires.kept.mono fun x hx => by cases x <;> simp_all [Place.signedOf])

end Sys2Proof.Machine
end

section
/-!
PROOF. Every clause of the statement on copying a cut and signing it.
-/
namespace Sys2Proof.Machine

variable {s : State} {d e : Dev} {p st q code unit : Nat}

/-- A unit counted leaves the registers of the PROOF page. -/
theorem reg_noteUncorr_proof (u : Nat) {o : Nat} (ho : o < 4096) : (d.noteUncorr u).reg pgProof o = d.reg pgProof o := by
  have hbm (n : Nat) : pgProof ≠ pgHbmc n := by simp only [pgHbmc, pgDie, pgProof]; omega
  have apart {xs : List Place} {f : Dev} (h : d.Kept f xs) (hx : Place.reg pgProof o ∉ xs) : f.reg pgProof o = d.reg pgProof o :=
    h (.reg pgProof o) hx ho fun h => absurd h.1 (by decide)
  unfold Dev.noteUncorr
  dsimp only
  split
  · exact apart (kept_bumpHi _ _ _ (by decide)) (by simp only [List.mem_singleton, Place.reg.injEq, pgProof, pgCore, pgOfCore]; omega)
  · split
    · exact apart ((((kept_bump _ _ _ (by decide)).trans (kept_setReg64 _ _ _ (by decide)))).trans (kept_raise _ _))
        (by simp [hbm])
    · rfl

/-- A generation that failed while it was copied or signed, told with an error (R358). -/
structure Dev.GenFailsTold (d e : Dev) (p code : Nat) : Prop where
  gen : (e.gen (d.proof p).slot).state = 4 ∧ (e.gen (d.proof p).slot).reason = 2 ∧ (e.gen (d.proof p).slot).code = code
  phase : (e.proof p).phase = .idle
  errCode : (e.hdr pgProof).errCode = code
  raised : bit (e.hdr pgProof).raw.toNat (8 * p + 3) = true
  counted : e.reg pgProof (proofReg p 0x5C) = sat 32 (d.reg pgProof (proofReg p 0x5C) + 1)
  disarmed : ∀ t ∈ d.stacksOf p, (e.cow t).armed = false

theorem genFails_told (hp : p < 4) (hph : (d.proof p).phase ≠ .capture) (hc : code ≠ 0) (hlt : code < 2 ^ 16) :
    d.GenFailsTold (d.genFails p 2 code unit) p code := by
  obtain ⟨⟨gen, proof, counted, raised, -, cows⟩, told⟩ := genFails_fails (unit := unit) (reason := 2) hp hph hc
  refine ⟨by rw [gen]; exact ⟨rfl, rfl, Nat.mod_eq_of_lt hlt⟩, by rw [proof], told, raised, counted, fun t ht => by rw [cows t ht]; rfl⟩

/-- The same where a bad unit is counted first. -/
theorem genFails_uncorr (hp : p < 4) (hph : (d.proof p).phase ≠ .capture) (hc : code ≠ 0) (hlt : code < 2 ^ 16) (u : Nat) :
    d.GenFailsTold ((d.noteUncorr u).genFails p 2 code unit) p code := by
  have noted := moving_noteUncorr (d := d) u
  have proof : (d.noteUncorr u).proof p = d.proof p := noted (.proof p) rfl
  obtain ⟨gen, phase, errCode, raised, counted, disarmed⟩ :=
    genFails_told (d := d.noteUncorr u) (unit := unit) hp (by rwa [proof]) hc hlt
  rw [proof] at gen
  rw [reg_noteUncorr_proof u (by simp only [proofReg]; omega)] at counted
  exact ⟨gen, phase, errCode, raised, counted, fun t ht => disarmed t (by rwa [stacksOf_of_dies fun c => noted (.die c) rfl])⟩

/-- A generation that fails leaves the sessions' transfers. -/
theorem noTransfers_genFails (hp : p < 4) (hph : (d.proof p).phase ≠ .capture) (hn : d.NoTransfers) (reason code unit : Nat) :
    (d.genFails p reason code unit).NoTransfers := by
  rw [genFails_eq hph]
  exact noTransfers_of_keptOutside (noTransfers_of_kept (noTransfers_of_kept hn kept_genTold (by simp)) (kept_genDropped hp) (by simp))
    keptOutside_disarm fun _ => rfl

/-- Settles O45: held writes, shadowed pages, the copier's pages, the copy's end and its signature, and each way a generation fails. -/
theorem proofCopies : Obligations.ProofCopies := by
  unfold Obligations.ProofCopies
  intro s p st q sig hup hp hst hn d x c g page reg failed
  have failing {e : Dev} {code : Nat} (h : d.GenFailsTold e p code) : failed e code := by
    obtain ⟨⟨state, reason, hcode⟩, phase, errCode, raised, counted, disarmed⟩ := h
    exact ⟨state, reason, hcode, phase, errCode, raised, counted, disarmed⟩
  refine ⟨fun a bs ha has hpages hr _ => ⟨write_pending ha has hpages hr, write_lands ha has hpages hr, fun hq hheld => ⟨fun i hi good => ?_, fun hi => ?_⟩⟩,
    fun f hpart hnext hf => ⟨fun good hheld => ?_, fun bad hph => ?_⟩, fun hph hnext => ⟨fun good => ?_, fun bad => ?_⟩,
    fun hph hq => ⟨fun hno => ?_, fun hoff hs => ?_⟩⟩
  · have hlt : i < d.shadowPages st - 162 := List.mem_range.1 (List.mem_of_find?_eq_some hi)
    obtain ⟨copied, lands, none_, shadowed, count, kept⟩ := pageShadowed_released has hpages hr hlt hheld
    have run := runIf_settled hup (decide_eq_true hst) (f := fun _ d => d.shadowCopy st q)
      (by rw [shadowCopy_slot hq hheld hpages hi good]; exact noTransfers_of_kept hn kept (by simp))
    rw [shadowCopy_slot hq hheld hpages hi good] at run
    exact ⟨_, run, copied, lands, none_, shadowed, count, kept⟩
  · have full := shadowCopy_full hq hheld hpages hi
    have kept : d.Kept ((d.bump (pgHbmc st) 0x19C 1).raise (pgHbmc st) 3) [.reg (pgHbmc st) 0x19C, .hdr (pgHbmc st)] :=
      (kept_bump _ _ _ (by decide)).trans (kept_raise _ _)
    have run := runIf_settled hup (decide_eq_true hst) (f := fun _ d => d.shadowCopy st q)
      (by rw [full]; exact noTransfers_of_kept hn kept (by simp))
    rw [full] at run
    refine ⟨_, run, ?_, by rw [hdr_raise_self, hdr_bump], kept⟩
    rw [reg_raise (by decide) (by simp only [pgHbmc, pgDie, pgRailjor]; omega), reg_bump_self (by decide)]
  · have copies := (copierPage_eq hpart hnext hf).trans (by rw [show d.storedBad (d.copySource st q) pageBytes = none from good])
    obtain ⟨copied, outside, done, gone, kept⟩ := pageCopied (q := q) (d.copySource st q) (d.frameAddr f.win f.frame) hheld
    have run := runIf_settled hup (decide_eq_true hst) (f := fun _ d => d.copierPage st q)
      (by rw [copies]; exact noTransfers_of_kept hn kept (by simp))
    rw [copies] at run
    exact ⟨_, run, copied, outside, done, gone, kept⟩
  · obtain ⟨u, hu⟩ := Option.isSome_iff_exists.1 bad
    have fails := (copierPage_eq hpart hnext hf).trans (by rw [show d.storedBad (d.copySource st q) pageBytes = some u from hu])
    have noted := moving_noteUncorr (d := d) u
    have proof : (d.noteUncorr u).proof p = d.proof p := noted (.proof p) rfl
    have run := runIf_settled hup (decide_eq_true hst) (f := fun _ d => d.copierPage st q) (by
      rw [fails]
      exact noTransfers_genFails hp (by rw [proof, hph]; decide) (noTransfers_of_keptOutside hn noted fun _ => rfl) _ _ _)
    rw [fails] at run
    exact ⟨_, run, failing (genFails_uncorr hp (by rw [hph]; decide) (by decide) (by decide) u)⟩
  · obtain ⟨proof, state, id, manifest, frames, signQ, cows, kept⟩ := copyDone_facts hph hnext good
    exact ⟨_, runIf_settled hup (decide_eq_true hp) (f := fun _ d => d.copyDone p) (noTransfers_of_keptOutside hn kept fun _ => rfl),
      proof, state, id, manifest, frames, signQ, cows, kept.mono fun y hy => by cases y <;> exact hy⟩
  · obtain ⟨t, fails⟩ := copyDone_bad hph hnext bad
    have capture : (d.proof p).phase ≠ .capture := by rw [hph]; decide
    have run := runIf_settled hup (decide_eq_true hp) (f := fun _ d => d.copyDone p)
      (by rw [fails]; exact noTransfers_genFails hp capture hn _ _ _)
    rw [fails] at run
    exact ⟨_, run, failing (genFails_told hp capture (by decide) (by decide))⟩
  · have fails := manifestSigned_fails hph hq hno
    have capture : (d.proof p).phase ≠ .capture := by rw [hph]; decide
    have run := runIf_settled hup (decide_eq_true hp) (f := fun c d => d.manifestSigned p sig c.sec.signingOff)
      (Eq.mp (congrArg Dev.NoTransfers fails.symm) (noTransfers_genFails hp capture hn _ _ _))
    exact ⟨_, run, failing (by
      rw [show s.dev.manifestSigned p sig s.chip.sec.signingOff = _ from fails]
      exact genFails_told hp capture (by decide) (by decide))⟩
  · obtain ⟨gen, proof, signQ, parents, last, count, hdr, drains, genNext, drain, full, kept⟩ := manifestSigned_facts hp hph hq hoff hs
    have run := runIf_settled hup (decide_eq_true hp) (f := fun c d => d.manifestSigned p sig c.sec.signingOff)
      (noTransfers_of_keptOutside hn kept fun _ => rfl)
    refine ⟨_, run, gen, proof, signQ, parents, last, count, hdr, drains, genNext, drain, full.imp id fun none_ i hi => ?_,
      kept.mono fun y hy => by cases y <;> exact hy⟩
    by_contra hr
    exact List.ne_nil_of_mem (List.mem_filter.2 ⟨List.mem_range.2 hi, by simpa using hr⟩) none_

end Sys2Proof.Machine
end

section
/-!
PROOF. The movers go on (R346): what the collective engines and the links they stream on may touch.
-/
namespace Sys2Proof.Machine

variable {d e f : Dev} {c ch : Nat} {r : CollRun} {n : CollEnt}

/-- Pages of the dies and what is on them. -/
def diePage (g : Nat) : Bool := decide (0x100 ≤ g)

/-- What streams may touch: the engines, the links, memory, and the pages of the dies. -/
def Place.streaming : Place → Bool
  | .coll _ | .link _ | .mem | .cow _ | .log | .out => true
  | .hdr g => diePage g || g == pgDbg
  | .reg g _ => diePage g
  | _ => false

/-- Streams have gone on: no controller of an HBM stack enters or leaves copy-on-write. -/
structure Dev.Streams (d e : Dev) : Prop where
  kept : d.KeptOutside e Place.streaming
  armed : ∀ st, (e.cow st).armed = (d.cow st).armed

theorem Dev.Streams.refl (d : Dev) : d.Streams d := ⟨.refl d, fun _ => rfl⟩

theorem Dev.Streams.trans (h : d.Streams e) (h' : e.Streams f) : d.Streams f :=
  ⟨h.kept.trans h'.kept, fun st => (h'.armed st).trans (h.armed st)⟩

theorem streams_of_kept {xs : List Place} (h : d.Kept e xs) (hx : ∀ x ∈ xs, x.streaming = true) (hc : ∀ st, .cow st ∉ xs) :
    d.Streams e := ⟨h.outside hx, fun st => congrArg CowSt.armed (h (.cow st) (hc st))⟩

theorem streams_ite {b : Prop} [Decidable b] (h : b → d.Streams e) (h' : ¬b → d.Streams f) : d.Streams (if b then e else f) := by
  split
  · exact h ‹_›
  · exact h' ‹_›

theorem streams_foldl {α : Type} {g : Dev → α → Dev} (h : ∀ e a, Dev.Streams e (g e a)) (as : List α) (d : Dev) : d.Streams (as.foldl g d) := by
  induction as generalizing d with
  | nil => exact .refl d
  | cons a as ih => exact (h d a).trans (ih _)

/-! ### Steps of the engines -/

theorem streams_modColl (g : CollSt → CollSt) : d.Streams (d.modColl c g) :=
  streams_of_kept (kept_modColl _ _) (by simp [Place.streaming]) (by simp)

theorem streams_modRun (g : CollRun → CollRun) : d.Streams (d.modRun c ch g) :=
  streams_modColl fun x => { x with chans := tset none x.chans ch ((d.collRun c ch).map g) }

theorem diePage_pgColl (c : Nat) : diePage (pgColl c) = true := decide_eq_true (by simp only [pgColl, pgDie]; omega)

theorem diePage_pgLink (n : Nat) : diePage (pgLink n) = true := decide_eq_true (by simp only [pgLink, pgDie]; omega)

theorem streams_failRun (code : Nat) : d.Streams (d.failRun c ch code) :=
  streams_of_kept (kept_failRun _ _ _) (by simp [Place.streaming, diePage_pgColl]) (by simp)

/-- What goes out of a link stays within it. -/
theorem streams_of_sent {h : Nat} (hk : d.KeptOutside e (Place.sendOf h)) : d.Streams e :=
  ⟨hk.mono fun x hx => by
    cases x <;> simp_all [Place.streaming, Place.sendOf, diePage_pgLink], fun st => congrArg CowSt.armed (hk (.cow st) rfl)⟩

theorem streams_portSend (port : Nat) (x : LnFlit) : d.Streams (d.portSend c port x) :=
  streams_ite (fun _ => streams_of_sent (keptOutside_pushFlit _ _)) fun _ => streams_modColl _

theorem streams_portRecord (port ty : Nat) (body : List Byte) : d.Streams (d.portRecord c port ty body) :=
  streams_ite (fun _ => streams_of_sent (keptOutside_sendRecord _ _ _)) fun _ => streams_portSend _ _

theorem streams_routeSend (route : Nat) (fs : List LnFlit) : d.Streams (d.routeSend c route fs) := by
  unfold Dev.routeSend
  split
  · exact streams_foldl (fun _ x => streams_portSend _ x) _ _
  · exact .refl d

theorem streams_runFlit (up : Bool) (x : LnFlit) : d.Streams (d.runFlit c ch up x) := by
  unfold Dev.runFlit
  split
  · exact .refl d
  · refine streams_ite (fun _ => ?_) fun _ => ?_
    · exact streams_ite (fun _ => streams_routeSend _ _) fun _ => streams_modRun _
    · exact streams_ite (fun _ => streams_routeSend _ _) fun _ => streams_modRun _

theorem streams_flushWait : d.Streams (d.flushWait c ch) := by
  unfold Dev.flushWait
  split
  · exact .refl d
  · have sent {x : Dev} {ready : Bool} {g : CollRun → CollRun} {route : Nat} {fs : List LnFlit} :
        x.Streams (if ready then (x.modRun c ch g).routeSend c route fs else x) :=
      streams_ite (fun _ => (streams_modRun _).trans (streams_routeSend _ _)) fun _ => .refl _
    exact streams_ite (fun _ => .refl d) fun _ => sent.trans sent

theorem streams_flushRun (up last : Bool) (fuel : Nat) : d.Streams (d.flushRun c ch up last fuel) := by
  induction fuel generalizing d with
  | zero => exact .refl d
  | succ fuel ih =>
    unfold Dev.flushRun
    split
    · exact .refl d
    · exact streams_ite (fun _ => .refl d) fun _ => ((streams_modRun _).trans (streams_runFlit _ _)).trans ih

theorem streams_emitUnit (up last : Bool) (u : List Byte) : d.Streams (d.emitUnit c ch up last u) :=
  (streams_modRun _).trans (streams_flushRun _ _ _)

theorem armed_writeHbm (a : Nat) (bs : List Byte) (st : Nat) : ((d.writeHbm a bs).cow st).armed = (d.cow st).armed := by
  have changed {x : Dev} {t : Nat} {g : CowSt → CowSt} (hg : ∀ y, (g y).armed = y.armed) :
      ((x.modCow t g).cow st).armed = (x.cow st).armed := by
    by_cases h : st = t
    · subst h; rw [Dev.cow_modCow_self, hg]
    · rw [Dev.cow_modCow_ne _ _ _ h]
  have lands {x : Dev} {b : Bool} : ((if b then x.modCow (stackOf a) fun c => { c with held := c.held ++ [(a, bs)] }
      else x.poke a bs).cow st).armed = (x.cow st).armed := by
    split
    · exact changed fun _ => rfl
    · exact congrArg CowSt.armed (kept_poke _ _ (.cow st) (by simp))
  unfold Dev.writeHbm
  dsimp only
  split
  · exact lands
  · exact lands.trans (changed fun _ => rfl)

theorem streams_write (a : Nat) (bs : List Byte) : d.Streams (d.write a bs) := by
  refine ⟨(kept_write a bs).outside (by simp [Place.streaming]), fun st => ?_⟩
  unfold Dev.write
  split
  · exact armed_writeHbm _ _ _
  · exact congrArg CowSt.armed (kept_poke _ _ (.cow st) (by simp))

theorem streams_collWrite (a : Nat) (bs : List Byte) : d.Streams (d.collWrite c ch a bs) :=
  streams_ite (fun _ => .refl d) fun _ => streams_ite (fun _ => streams_failRun _) fun _ =>
    ((streams_write _ _).trans (streams_of_kept (kept_bump64 _ _ _ (by decide)) (by simp [Place.streaming, diePage_pgColl]) (by simp))).trans
      (streams_modRun _)

/-! ### Units of work -/

theorem streams_finishUnit (i : Nat) (u own : List Byte) : d.Streams (d.finishUnit c ch n i u own) := by
  have down {x : Dev} {l : Bool} {v : List Byte} : x.Streams (if n.rank = 0 then x else x.emitUnit c ch false l v) :=
    streams_ite (fun _ => .refl _) fun _ => streams_emitUnit _ _ _
  unfold Dev.finishUnit
  dsimp only
  split
  · exact (streams_collWrite _ _).trans down
  · exact streams_ite (fun _ => streams_collWrite _ _) fun _ => down
  · exact streams_collWrite _ _

/-- What a step gives, where it gives something, has only streamed. -/
theorem streams_of_map {o : Option Nat} {g : Nat → Dev} (hg : ∀ i, d.Streams (g i)) (h : o.map g = some e) : d.Streams e := by
  obtain ⟨i, -, rfl⟩ := Option.map_eq_some_iff.1 h
  exact hg i

theorem streams_reduceStep (h : d.reduceStep c ch r n = some e) : d.Streams e := by
  unfold Dev.reduceStep at h
  dsimp only at h
  split at h
  · cases h
  · split at h
    · cases h
    · cases h; exact streams_failRun _
    · cases h
      exact (streams_modRun _).trans (streams_ite (fun _ => streams_emitUnit _ _ _) fun _ => streams_finishUnit _ _ _)

theorem streams_downStep (h : d.downStep c ch r n = some e) : d.Streams e := by
  unfold Dev.downStep at h
  dsimp only at h
  split at h
  · cases h
  · refine streams_of_map (fun k => ?_) h
    split
    · exact (streams_modRun _).trans (streams_failRun _)
    · have written {x : Dev} {b : Prop} [Decidable b] {a : Nat} {bs : List Byte} : x.Streams (if b then x.collWrite c ch a bs else x) :=
        streams_ite (fun _ => streams_collWrite _ _) fun _ => .refl _
      have sent {x : Dev} {b : Prop} [Decidable b] {l : Bool} {bs : List Byte} : x.Streams (if b then x.emitUnit c ch false l bs else x) :=
        streams_ite (fun _ => streams_emitUnit _ _ _) fun _ => .refl _
      exact ((streams_modRun _).trans written).trans sent

theorem streams_gatherStep (h : d.gatherStep c ch r n = some e) : d.Streams e := by
  have up {x : Dev} {l : Bool} {u : List Byte} : x.Streams (if n.rank + 1 < n.ranks then x.emitUnit c ch true l u else x) :=
    streams_ite (fun _ => streams_emitUnit _ _ _) fun _ => .refl _
  have down {x : Dev} {l : Bool} {u : List Byte} : x.Streams (if n.rank = 0 then x else x.emitUnit c ch false l u) :=
    streams_ite (fun _ => .refl _) fun _ => streams_emitUnit _ _ _
  unfold Dev.gatherStep at h
  dsimp only at h
  split at h
  · split at h
    · cases h; exact streams_failRun _
    · cases h; exact (((streams_modRun _).trans (streams_collWrite _ _)).trans up).trans down
  · split at h
    · exact streams_of_map (fun k => ((streams_modRun _).trans (streams_collWrite _ _)).trans up) h
    · cases h

theorem streams_gatherDown (h : d.gatherDown c ch r n = some e) : d.Streams e := by
  unfold Dev.gatherDown at h
  dsimp only at h
  split at h
  · cases h
  · exact streams_of_map (fun k => ((streams_modRun _).trans (streams_collWrite _ _)).trans
      (streams_ite (fun _ => .refl _) fun _ => streams_emitUnit _ _ _)) h

theorem streams_of_orElse {o o' : Option Dev} (ho : ∀ e, o = some e → d.Streams e) (ho' : ∀ e, o' = some e → d.Streams e)
    (h : (o.orElse fun _ => o') = some e) : d.Streams e := by
  cases o with
  | none => exact ho' e h
  | some x => exact ho e h

theorem streams_collStep (h : d.collStep c ch = some e) : d.Streams e := by
  unfold Dev.collStep at h
  split at h
  · cases h
  · dsimp only at h
    split at h
    · cases h
    · split at h
      · cases h
      · split at h
        · exact streams_of_orElse (fun _ => streams_gatherStep) (fun _ => streams_gatherDown) h
        · exact streams_of_orElse (fun _ => streams_reduceStep) (fun _ => streams_downStep) h

theorem streams_pumpChan (fuel : Nat) : d.Streams (d.pumpChan c ch fuel) := by
  induction fuel generalizing d with
  | zero => exact .refl d
  | succ fuel ih =>
    unfold Dev.pumpChan
    split
    · next e he => exact (streams_collStep he).trans ih
    · exact .refl d

/-! ### The permute -/

theorem streams_placeTile (i : Nat) (x : MapEnt) (bs : List Byte) : d.Streams (d.placeTile c ch i x bs) :=
  streams_ite (fun _ => streams_failRun _) fun _ => (streams_collWrite _ _).trans (streams_modRun _)

theorem streams_permuteSend : d.Streams (d.permuteSend c ch) := by
  unfold Dev.permuteSend
  split
  · exact .refl d
  · dsimp only
    refine (streams_modRun _).trans (streams_foldl (fun e x => ?_) _ _)
    obtain ⟨i, x, off⟩ := x
    refine streams_ite (fun _ => .refl e) fun _ => streams_ite (fun _ => streams_failRun _) fun _ => ?_
    exact streams_ite (fun _ => streams_placeTile _ _ _) fun _ => streams_foldl (fun _ f => streams_runFlit _ f) _ _

theorem streams_permuteFlit (up : Bool) (x : LnFlit) : d.Streams (d.permuteFlit c ch up x) := by
  unfold Dev.permuteFlit
  split
  · exact .refl d
  · dsimp only
    refine streams_ite (fun _ => .refl d) fun _ => streams_ite (fun _ => streams_runFlit _ _) fun _ => ?_
    split
    · exact streams_failRun _
    · exact streams_ite (fun _ => streams_modRun _) fun _ => (streams_modRun _).trans (streams_placeTile _ _ _)

theorem streams_sendWave (up : Bool) (kind : Nat) : d.Streams (d.sendWave c ch up kind) := by
  unfold Dev.sendWave
  split
  · exact .refl d
  · split
    · exact streams_portRecord _ _ _
    · exact .refl d

theorem streams_waves : d.Streams (d.waves c ch) := by
  have go {x : Dev} {b : Prop} [Decidable b] : x.Streams ((if b then x else x.sendWave c ch false 1).permuteSend c ch) :=
    (streams_ite (fun _ => .refl x) fun _ => streams_sendWave _ _).trans streams_permuteSend
  unfold Dev.waves
  split
  · exact .refl d
  · dsimp only
    refine streams_ite (fun _ => .refl d) fun _ => streams_ite (fun _ => go) fun _ => streams_ite (fun _ => .refl d) fun _ => ?_
    exact (streams_modRun _).trans (streams_ite (fun _ => streams_sendWave _ _) fun _ => (streams_modRun _).trans go)

theorem streams_pumpPermute : d.Streams (d.pumpPermute c ch) := by
  unfold Dev.pumpPermute
  split
  · exact .refl d
  · refine streams_ite (fun _ => .refl d) fun _ => streams_ite (fun _ => streams_failRun _) fun _ => ?_
    exact ((streams_modRun _).trans (streams_foldl (fun _ q => streams_permuteFlit _ _) _ _)).trans streams_waves

/-- A channel that works on has only streamed. -/
theorem streams_pumpRun : d.Streams (d.pumpRun c ch) := by
  have ends {x : Dev} : x.Streams (match x.collRun c ch with
      | none => x
      | some r => if r.fail = 0 ∧ x.chanHeld c = false ∧ x.runOver c r r.e = true then x.modRun c ch fun r => { r with done := true } else x) := by
    split
    · exact .refl x
    · exact streams_ite (fun _ => streams_modRun _) fun _ => .refl x
  unfold Dev.pumpRun
  split
  · exact .refl d
  · dsimp only
    exact (streams_flushWait.trans (streams_ite (fun _ => streams_pumpPermute) fun _ => streams_pumpChan _)).trans ends

end Sys2Proof.Machine
end

section
/-!
PROOF. The movers of a partition let go on (R346, R348), and a proof that fails before its generation exists (R344, R357).
-/
namespace Sys2Proof.Machine

variable {d e : Dev} {p code unit : Nat}

theorem noLinkHolds_of_same (h : d.NoLinkHolds) (hs : ∀ n, Place.Same d e (.link n)) : e.NoLinkHolds := fun n => by
  rw [show e.link n = d.link n from hs n]; exact h n

theorem noLinkHolds_of_kept {xs : List Place} (h : d.NoLinkHolds) (hk : d.Kept e xs) (hx : ∀ n, .link n ∉ xs) : e.NoLinkHolds :=
  noLinkHolds_of_same h fun n => hk _ (hx n)

/-! ### The movers go on -/

/-- A partition whose movers go on; a halted one shows its state. -/
def PartSt.onward (x : PartSt) : PartSt :=
  { x with moversHeld := false, released := true, state := if x.state = .pause then x.afterCut else x.state }

/-- With no link that holds flits, letting the movers go on only streams. -/
theorem streams_releaseMovers (h : d.NoLinkHolds) : (d.modPart p PartSt.onward).Streams (d.releaseMovers p) := by
  have part : (d.modPart p PartSt.onward).NoLinkHolds := noLinkHolds_of_kept h (kept_modPart _ _) (by simp)
  have idle : (d.modPart p PartSt.onward).releaseLinks p = d.modPart p PartSt.onward := releaseLinks_idle part
  have links : (d.modPart p PartSt.onward).Streams
      ((((d.modPart p PartSt.onward).partLinks p).filter fun l => (d.modPart p PartSt.onward).lnHome l == l).foldl Dev.drainAll
        (d.modPart p PartSt.onward)) := streams_foldl (fun _ l => streams_of_sent (keptOutside_drainAll l)) _ _
  refine links.trans ?_
  have release : d.releaseMovers p = (fun x : Dev => (x.diesOf p).foldl (fun d c => (List.range 4).foldl (fun d ch => d.pumpRun c ch) d) x)
      ((fun x : Dev => ((x.partLinks p).filter fun l => x.lnHome l == l).foldl Dev.drainAll x)
        ((d.modPart p PartSt.onward).releaseLinks p)) := rfl
  rw [release, idle]
  exact streams_foldl (fun _ _ => streams_foldl (fun _ _ => streams_pumpRun) _ _) _ _

/-- What letting the movers go on touches. -/
theorem kept_releaseMovers (h : d.NoLinkHolds) : d.KeptOutside (d.releaseMovers p) fun
    | .part q => q == p | x => x.streaming :=
  ((kept_modPart _ _).outside (by simp)).trans ((streams_releaseMovers h).kept.mono fun x hx => by
    cases x <;> simp_all [Place.streaming])

theorem onward_releaseMovers (h : d.NoLinkHolds) : ((d.releaseMovers p).part p).moversHeld = false ∧
    ((d.releaseMovers p).part p).released = true := by
  rw [part_of_same ((streams_releaseMovers h).kept (.part p) rfl), Dev.part_modPart_self]
  exact ⟨rfl, rfl⟩

theorem armed_releaseMovers (h : d.NoLinkHolds) (st : Nat) : ((d.releaseMovers p).cow st).armed = (d.cow st).armed :=
  ((streams_releaseMovers h).armed st).trans (congrArg CowSt.armed (kept_modPart p _ (.cow st) (by simp)))

/-! ### A proof fails -/

/-- A proof that fails, told and counted, before the movers go on. -/
def Dev.proofTold (d : Dev) (p code unit : Nat) : Dev :=
  (((d.proofError p code unit).bump pgProof (proofReg p 0x5C) 1).raise pgProof (8 * p + 3)).modProof p fun x => { x with phase := .idle }

theorem kept_proofTold (hp : p < 4) : d.Kept (d.proofTold p code unit)
    [.hdr pgProof, .hdr pgDbg, .log, .reg pgProof (proofReg p 0x5C), .proof p] :=
  ((((kept_proofError _ _).mono (by simp)).seq ((kept_bump _ _ _ (by simp only [proofReg]; omega)).mono (by simp))).seq
    ((kept_raise _ _).mono (by simp))).seq ((kept_modProof _ _).mono (by simp))

/-- The device after a proof has failed. -/
structure Dev.ProofFails (d e : Dev) (p code : Nat) : Prop where
  phase : (e.proof p).phase = .idle
  errCode : (e.hdr pgProof).errCode = code
  raised : bit (e.hdr pgProof).raw.toNat (8 * p + 3) = true
  counted : e.reg pgProof (proofReg p 0x5C) = sat 32 (d.reg pgProof (proofReg p 0x5C) + 1)
  onward : (e.part p).moversHeld = false ∧ (e.part p).released = true

/-- What a proof that fails touches. -/
def Place.failOf (p : Nat) (q : Place) : Bool := q.goingOn p || q == .proof p

theorem proofFails_fails (hp : p < 4) (h : d.NoLinkHolds) : d.ProofFails (d.proofFails p code unit) p code ∧
    d.KeptOutside (d.proofFails p code unit) (Place.failOf p) ∧ (∀ st, ((d.proofFails p code unit).cow st).armed = (d.cow st).armed) := by
  have told := kept_proofTold (d := d) (code := code) (unit := unit) hp
  have holds : (d.proofTold p code unit).NoLinkHolds := noLinkHolds_of_kept h told (by simp)
  have later := kept_releaseMovers (p := p) holds
  have hdr : (d.proofTold p code unit).hdr pgProof = ((d.proofError p code unit).hdr pgProof).raised (8 * p + 3) := by
    rw [Dev.proofTold, Dev.hdr_modProof, hdr_raise_self, hdr_bump]
  have ends : (d.proofFails p code unit).hdr pgProof = _ := Eq.trans (later (.hdr pgProof) rfl) hdr
  refine ⟨⟨?_, ?_, ?_, ?_, onward_releaseMovers holds⟩, ?_, fun st => ?_⟩
  · rw [show (d.proofFails p code unit).proof p = (d.proofTold p code unit).proof p from later (.proof p) rfl, Dev.proofTold,
      Dev.proof_modProof_self]
  · rw [ends, errCode_raised, errCode_proofError]
  · rw [ends]; exact bit_raised_raw _ (by omega)
  · refine (later (.reg pgProof _) rfl (by simp only [proofReg]; omega) fun h => absurd h.1 (by decide)).trans ?_
    rw [Dev.proofTold, Dev.reg_modProof, reg_raise (by simp only [proofReg]; omega) (by decide), reg_bump_self (by decide)]
    exact congrArg (fun n => sat 32 (n + 1)) (kept_proofError _ _ (.reg pgProof _) (by simp) (by simp only [proofReg]; omega)
      fun h => absurd h.1 (by decide))
  · refine (told.outside ?_).trans (later.mono fun x hx => ?_)
    · simp [Place.failOf, Place.goingOn, Place.collOf]
    · cases x <;> simp_all [Place.failOf, Place.goingOn, Place.collOf, Place.streaming]
  · exact (armed_releaseMovers holds st).trans (congrArg CowSt.armed (told (.cow st) (by simp)))

end Sys2Proof.Machine
end

section
/-!
PROOF. What a cut finds and takes (R344, R345, R355–R357): the Platens at a tile, the copy sets, and the frames of its generation.
-/
namespace Sys2Proof.Machine

variable {d e f : Dev} {p st i : Nat} {g g' parent : GenSt}

/-! ### The Platens at a tile (R352) -/

/-- What the Platens touch on the way to the tile they stand at. -/
def Place.stood : Place → Bool
  | .mem | .cow _ | .free | .platen _ => true
  | .hdr g => diePage g
  | .reg g o => diePage g && (o == 0x1A0 || g % 0x40 == 4 || g % 0x40 == 5)
  | _ => false

theorem pgPlaten_die (st : Nat) : diePage (pgPlaten st) = true ∧ (pgPlaten st % 0x40 = 4 ∨ pgPlaten st % 0x40 = 5) := by
  unfold pgPlaten pgDie
  exact ⟨decide_eq_true (by omega), by omega⟩

theorem diePage_pgHbmc (st : Nat) : diePage (pgHbmc st) = true := decide_eq_true (by simp only [pgHbmc, pgDie]; omega)

theorem stood_of_pair (x : Place) (h : x.pairOf st = true) : x.stood = true := by
  obtain ⟨die, page⟩ := pgPlaten_die st
  cases x
  case reg g o =>
    simp only [Place.pairOf, Bool.and_eq_true, beq_iff_eq] at h
    rcases page with page | page <;> simp [Place.stood, h.1, die, page]
  all_goals simp_all [Place.pairOf, Place.stood]

theorem stood_platenSome {b : PltB} {c : PltK} (fuel n : Nat) (s : PltSums) :
    d.KeptOutside (d.platenSome st b c fuel n s).1 Place.stood := by
  induction fuel generalizing d n s with
  | zero => exact .refl _
  | succ fuel ih =>
    unfold Dev.platenSome
    split
    · exact .refl _
    · next x t hx =>
      split at hx
      · cases hx
      · exact ((platenTile_paired hx).outside.mono stood_of_pair).trans (ih _ _)

theorem stood_platenProgress : d.KeptOutside (d.platenProgress st) Place.stood := by
  have counted : d.KeptOutside { d with freeCount := d.freeCount + 2 } Place.stood := by
    intro x hx; cases x
    case free => cases hx
    all_goals first | exact rfl | exact ⟨rfl, rfl⟩ | exact ⟨rfl, rfl, rfl⟩ | exact fun _ _ => rfl
  unfold Dev.platenProgress
  dsimp only
  split
  · exact .refl _
  · exact ((counted.trans (stood_platenSome _ _ _)).trans
      ((kept_bump _ _ _ (by decide)).outside (by simp [Place.stood, diePage_pgHbmc]))).trans
      ((kept_modPlaten _ _).outside (by simp [Place.stood]))

/-- The device with the partition's Platens at a tile. -/
def Dev.platensStood (d : Dev) (p : Nat) : Dev := (d.stacksOf p).foldl Dev.platenProgress d

theorem stood_platensStood : d.KeptOutside (d.platensStood p) Place.stood :=
  keptOutside_foldl _ (fun _ _ => stood_platenProgress) _ _

/-! ### The copy sets (R345, R356) -/

/-- A controller's state as a cut freezes its copy set: what is DIRTY, and the pages that lack a frame of the parent. -/
def CowSt.frozen (x : CowSt) (parent : GenSt) (st : Nat) (pages : List Nat) : CowSt :=
  let have_ := (parent.frames.filter fun f => f.kind == 0 && f.unit == st).map (·.index)
  let lacking := if parent.id = 0 then [] else pages.filter fun q => !have_.contains q
  { x with armed := true, copySet := if parent.id = 0 then { all := true } else lacking.foldl PageSet.add x.dirty
           dirty := {}, shadow := [], done := [] }

def Dev.freezeStack (parent : GenSt) (d : Dev) (st : Nat) : Dev := d.modCow st fun x => x.frozen parent st (d.imagePages st)

theorem freezeSets_eq : d.freezeSets p parent = (d.stacksOf p).foldl (Dev.freezeStack parent) d := rfl

theorem imagePages_of_regs (h : ∀ o, e.reg (pgHbmc st) o = d.reg (pgHbmc st) o) : e.imagePages st = d.imagePages st :=
  List.filter_congr fun q _ => by rw [Dev.inReserve, Dev.inReserve, h, h]

theorem cow_freezeStacks {l : List Nat} (hl : l.Nodup) : (l.foldl (Dev.freezeStack parent) d).cow st =
    if st ∈ l then (d.cow st).frozen parent st (d.imagePages st) else d.cow st := by
  induction l generalizing d with
  | nil => rfl
  | cons c l ih =>
    obtain ⟨fresh, rest⟩ := List.nodup_cons.1 hl
    rw [List.foldl_cons, ih rest]
    by_cases hc : st = c
    · subst hc
      rw [if_neg fresh, if_pos List.mem_cons_self, Dev.freezeStack, Dev.cow_modCow_self]
    · have cow : (Dev.freezeStack parent d c).cow st = d.cow st := Dev.cow_modCow_ne _ _ _ hc
      have pages : (Dev.freezeStack parent d c).imagePages st = d.imagePages st := imagePages_of_regs fun _ => Dev.reg_modCow ..
      simp only [cow, pages, List.mem_cons, hc, false_or]

theorem cow_freezeSets (h : st ∈ d.stacksOf p) : (d.freezeSets p parent).cow st = (d.cow st).frozen parent st (d.imagePages st) := by
  rw [freezeSets_eq, cow_freezeStacks nodup_stacksOf, if_pos h]

theorem kept_freezeSets : d.KeptOutside (d.freezeSets p parent) fun | .cow st => (d.stacksOf p).contains st | _ => false :=
  keptOutside_foldl_mem (Dev.freezeStack parent) (fun _ st hst => (kept_modCow _ _).outside (by simpa using hst)) _

def Dev.withCows (d : Dev) (cows : Table CowSt) : Dev := { d with cows }

theorem withCows_modCow (g : CowSt → CowSt) (cows : Table CowSt) : (d.modCow st g).withCows cows = d.withCows cows := rfl

/-- Freezing changes the controllers' states alone. -/
theorem withCows_freezeSets : (d.freezeSets p parent).withCows d.cows = d := by
  rw [freezeSets_eq]
  refine List.foldlRecOn (motive := fun e : Dev => e.withCows d.cows = d) _ _ rfl fun e he st _ => ?_
  rw [Dev.freezeStack, withCows_modCow, he]

/-- What a frozen copy set is (R345). -/
theorem frozen_facts (x : CowSt) (pages : List Nat) : (x.frozen parent st pages).armed = true ∧ (x.frozen parent st pages).shadow = [] ∧
    (x.frozen parent st pages).done = [] ∧ (∀ q, (x.frozen parent st pages).dirty.has q = false) ∧
    ∀ q, x.dirty.has q = true → (x.frozen parent st pages).copySet.has q = true := by
  refine ⟨rfl, rfl, rfl, fun _ => rfl, fun q hq => ?_⟩
  unfold CowSt.frozen
  dsimp only
  split
  · simp [PageSet.has]
  · rw [has_foldl_add, hq, Bool.or_true]

/-! ### The parent, and the frames of a generation -/

/-- The generation of a number, or none. -/
def Dev.genOf (d : Dev) (id : Nat) : GenSt := match d.genSlot id with | some i => d.gen i | none => {}

theorem genOf_of_same (h : ∀ i, e.gen i = d.gen i) (id : Nat) : e.genOf id = d.genOf id := by
  unfold Dev.genOf
  rw [genSlot_congr (d := d) (e := e) (fun i => by rw [h i]; exact ⟨rfl, rfl⟩)]
  split
  · exact h _
  · rfl

/-- A generation that may retire beside the parent on record does not have its number. -/
theorem keepsParent_of_genOf (mask : Nat) (h : parent = d.genOf (tget 0 d.parents mask)) : d.KeepsParent mask parent.id := by
  rintro i hlt hi ⟨hid, h0⟩
  have complete : (d.gen i).state = 3 ∧ (d.gen i).id ≠ parent.id := by
    simp only [GenSt.retirable, Bool.and_eq_true, beq_iff_eq, bne_iff_ne] at hi
    exact ⟨hi.1.1.1.1, hi.2⟩
  have found : (d.genSlot (d.gen i).id).isSome = true :=
    List.find?_isSome.2 ⟨i, List.mem_range.2 hlt, by simp [complete.1, h0]⟩
  obtain ⟨j, hj⟩ := Option.isSome_iff_exists.1 found
  have hjid : (d.gen j).id = (d.gen i).id := by
    have := List.find?_some hj
    simp only [Bool.and_eq_true, beq_iff_eq] at this
    exact this.1.2
  refine complete.2 ?_
  rw [h, hid, Dev.genOf, hj]
  exact hjid.symm

theorem layFrames_some (h : d.layFrames p g parent = some g') :
    g' = { g with frames := g'.frames, manWin := g'.manWin, man := g'.man } := by
  unfold Dev.layFrames at h
  dsimp only at h
  obtain ⟨-, fits⟩ := Option.ite_none_right_eq_some.1 h
  cases fits; rfl

/-- Until the generation fits, others retire (R357). -/
theorem fitGen_retires (n : Nat) {r : Dev × Option GenSt} (hk : d.KeepsParent g.mask parent.id) (h : d.fitGen p g parent n = r) :
    d.Retires g.mask parent.id r.1 ∧ ∀ g', r.2 = some g' → g' = { g with frames := g'.frames, manWin := g'.manWin, man := g'.man } := by
  induction n generalizing d with
  | zero => subst h; exact ⟨.refl d, fun _ h => by cases h⟩
  | succ n ih =>
    unfold Dev.fitGen at h
    split at h
    · next x hx => subst h; exact ⟨.refl d, fun y hy => by cases hy; exact layFrames_some hx⟩
    · split at h
      · next x hx =>
        obtain ⟨retires, -⟩ := retireOne_some hk hx
        obtain ⟨rest, laid⟩ := ih (retires.keeps hk) h
        exact ⟨retires.trans rest, laid⟩
      · subst h; exact ⟨.refl d, fun _ h => by cases h⟩

end Sys2Proof.Machine
end

section
/-!
PROOF. Quiesce is complete (R344, R345, R355–R358): the arm, or the ways it fails.
-/
namespace Sys2Proof.Machine

variable {s : State} {d e : Dev} {p st i : Nat} {g : GenSt} {debug : Bool} {fw : List Byte}

/-! ### The arm -/

def Dev.withGenNext (d : Dev) (n : Nat) : Dev := { d with genNext := n }

theorem kept_withGenNext (n : Nat) : d.Kept (d.withGenNext n) [.genNext] := by
  intro y hy; cases y
  case genNext => exact absurd List.mem_cons_self hy
  all_goals first | exact rfl | exact ⟨rfl, rfl⟩ | exact ⟨rfl, rfl, rfl⟩ | exact fun _ _ => rfl

/-- The generation in its slot under the next number, and the counts of shadowed pages from 0. -/
def Dev.genTaken (d : Dev) (p i : Nat) (g : GenSt) : Dev :=
  (d.stacksOf p).foldl (fun d st => d.setReg (pgHbmc st) 0x198 0) ((d.withGenNext (nextGen d.genNext)).modGen i fun _ => g)

/-- The save areas of the partition's stacks held (R353). -/
def Dev.savesHeld (d : Dev) (p : Nat) : Dev :=
  { d with saveHold := d.saveHold ++ (d.stacksOf p).map fun st => (d.saveArea st, 162 * pageBytes) }

/-- A stash page of a generation in its frame (R354). -/
def Dev.copyStash (p : Nat) (d : Dev) (f : FrameEnt) : Dev :=
  if f.kind = 3 then
    let a := (d.stash p (f.index / 2 ^ 16)).1 + f.index % 2 ^ 16 * pageBytes
    d.moveBytes a (d.frameAddr f.win f.frame) pageBytes
  else d

/-- The stash extents and the manifest's header in their frames. -/
def Dev.stashesCopied (d : Dev) (p : Nat) (g : GenSt) : Dev :=
  (g.frames.foldl (Dev.copyStash p) d).pokeManifest g.manWin (g.man.take 1) (g.header 0 0)

/-- A cut armed for generation g in slot i. -/
def Dev.cutArmed (d : Dev) (p i : Nat) (g : GenSt) : Dev :=
  (((d.genTaken p i g).savesHeld p).stashesCopied p g).modProof p fun x => { x with phase := .capture, slot := i }

/-- What taking the generation touches. -/
def Place.takenOf (d : Dev) (p i : Nat) : Place → Bool
  | .gen j => j == i
  | .genNext => true
  | .reg g o => o == 0x198 && (d.stacksOf p).any fun st => g == pgHbmc st
  | _ => false

theorem kept_genTaken : d.KeptOutside (d.genTaken p i g) (Place.takenOf d p i) := by
  refine (((kept_withGenNext _).outside (by simp [Place.takenOf])).trans ((kept_modGen _ _).outside (by simp [Place.takenOf]))).trans
    (keptOutside_foldl_mem _ (fun e st hst => (kept_setReg _ _ _ (by decide)).outside ?_) _)
  simp only [List.mem_singleton, forall_eq, Place.takenOf, beq_self_eq_true, Bool.true_and]
  exact List.any_eq_true.2 ⟨st, hst, beq_self_eq_true _⟩

theorem genTaken_facts : (d.genTaken p i g).gen i = g ∧ (d.genTaken p i g).genNext = nextGen d.genNext := by
  have sets : ((d.withGenNext (nextGen d.genNext)).modGen i fun _ => g).KeptOutside (d.genTaken p i g) fun
      | .reg _ _ => true | _ => false :=
    keptOutside_foldl _ (fun _ _ => (kept_setReg _ _ _ (by decide)).outside (by simp)) _ _
  exact ⟨Eq.trans (sets (.gen i) rfl) (Dev.gen_modGen_self _ i fun _ => g), (sets .genNext rfl).1⟩

theorem kept_savesHeld : d.Kept (d.savesHeld p) [.saveHold] := kept_saveHold _

theorem kept_stashesCopied : d.Kept (d.stashesCopied p g) [.mem] :=
  (kept_foldl _ _ (fun _ _ _ => kept_ite (fun _ => kept_moveBytes _ _ _) fun _ => .refl _) _).seq (kept_pokeManifest _ _ _)

/-- Taking the generation leaves where the save areas lie. -/
theorem saveArea_genTaken (st : Nat) : (d.genTaken p i g).saveArea st = d.saveArea st := by
  have base : (d.genTaken p i g).reg (pgHbmc st) 0x184 = d.reg (pgHbmc st) 0x184 :=
    kept_genTaken (.reg (pgHbmc st) 0x184) rfl (by decide) fun h => absurd h.1 (by simp only [pgHbmc, pgDie, pgRailjor]; omega)
  rw [Dev.saveArea, Dev.shadowBase, base]
  rfl

/-- What an arm touches. -/
def Place.armOf (d : Dev) (p i : Nat) : Place → Bool
  | .mem | .saveHold => true
  | .proof q => q == p
  | x => x.takenOf d p i

/-- What an arm leaves. -/
theorem cutArmed_facts : (d.cutArmed p i g).gen i = g ∧ (d.cutArmed p i g).genNext = nextGen d.genNext ∧
    (d.cutArmed p i g).proof p = { d.proof p with phase := .capture, slot := i } ∧
    (∀ st ∈ d.stacksOf p, (d.saveArea st, 162 * pageBytes) ∈ (d.cutArmed p i g).saveHold) ∧
    d.KeptOutside (d.cutArmed p i g) (Place.armOf d p i) := by
  have taken := kept_genTaken (d := d) (p := p) (i := i) (g := g)
  obtain ⟨gen, genNext⟩ := genTaken_facts (d := d) (p := p) (i := i) (g := g)
  have held : (d.genTaken p i g).Kept ((d.genTaken p i g).savesHeld p) [.saveHold] := kept_savesHeld
  have copied : ((d.genTaken p i g).savesHeld p).Kept (((d.genTaken p i g).savesHeld p).stashesCopied p g) [.mem] := kept_stashesCopied
  have ends : (((d.genTaken p i g).savesHeld p).stashesCopied p g).Kept (d.cutArmed p i g) [.proof p] := kept_modProof _ _
  have later := (held.trans copied).trans ends
  have proof : (((d.genTaken p i g).savesHeld p).stashesCopied p g).proof p = d.proof p :=
    Eq.trans ((held.trans copied) (.proof p) (by simp)) (taken (.proof p) rfl)
  refine ⟨Eq.trans (later (.gen i) (by simp)) gen, (later .genNext (by simp)).1.trans genNext, ?_, fun st hst => ?_, ?_⟩
  · rw [Dev.cutArmed, Dev.proof_modProof_self, proof]
  · have same : (d.genTaken p i g).stacksOf p = d.stacksOf p := stacksOf_of_dies fun c => taken (.die c) rfl
    rw [show (d.cutArmed p i g).saveHold = ((d.genTaken p i g).savesHeld p).saveHold from (copied.trans ends) .saveHold (by simp)]
    refine List.mem_append_right _ (List.mem_map.2 ⟨st, by rwa [same], ?_⟩)
    rw [saveArea_genTaken]
  · exact (taken.mono fun x hx => by cases x <;> simp_all [Place.armOf, Place.takenOf]).trans (later.outside (by simp [Place.armOf]))

/-! ### QUIESCE_DONE -/

/-- The generation a cut begins, its parent the one that stands on record. -/
def Dev.cutGen (d : Dev) (x : ProofSt) (p : Nat) (debug : Bool) (fw : List Byte) : GenSt :=
  { d.newGen x p debug fw with
    hdr := { (d.newGen x p debug fw).hdr with parent := (d.genOf (d.newGen x p debug fw).hdr.parent).id } }

/-- The parent of the generation a cut begins. -/
def Dev.cutParent (d : Dev) (x : ProofSt) (p : Nat) (debug : Bool) (fw : List Byte) : GenSt :=
  d.genOf (d.newGen x p debug fw).hdr.parent

theorem keepsParent_cut (x : ProofSt) :
    d.KeepsParent (d.cutGen x p debug fw).mask (d.cutParent x p debug fw).id := keepsParent_of_genOf _ rfl

/-- QUIESCE_DONE once the Platens stand at a tile. -/
def Dev.cutTakes (d : Dev) (x : ProofSt) (p : Nat) (debug : Bool) (fw : List Byte) : Dev :=
  let d1 := d.freezeSets p (d.cutParent x p debug fw)
  match d1.freeSlot with
  | none => (d1.withCows d.cows).proofFails p 0x0B05 0
  | some i =>
    match d1.fitGen p (d.cutGen x p debug fw) (d.cutParent x p debug fw) 17 with
    | (d2, none) => (d2.withCows d.cows).proofFails p 0x0B05 0
    | (d2, some g) => d2.cutArmed p i g

theorem quiesceDone_eq (hph : (d.proof p).phase = .quiesce) (hq : d.quiesced p = true) :
    d.quiesceDone p debug fw = (d.platensStood p).cutTakes (d.proof p) p debug fw := by
  have ready : ¬((d.proof p).phase ≠ .quiesce ∨ !d.quiesced p) := by simp [hph, hq]
  exact if_neg ready

end Sys2Proof.Machine
end

section
/-!
PROOF. What QUIESCE_DONE leaves (R344, R345, R355–R358): the failed proof, or the generation taken.
-/
namespace Sys2Proof.Machine

variable {d e d2 : Dev} {p st i : Nat} {g : GenSt} {r : Option GenSt} {x : ProofSt} {debug : Bool} {fw : List Byte}

theorem freeSlot_of_same (h : ∀ i, e.gen i = d.gen i) : e.freeSlot = d.freeSlot := by
  simp only [Dev.freeSlot, h]

theorem saveArea_of_same (h : e.reg (pgHbmc st) 0x184 = d.reg (pgHbmc st) 0x184) : e.saveArea st = d.saveArea st := by
  rw [Dev.saveArea, Dev.saveArea, Dev.shadowBase, Dev.shadowBase, h]

theorem freeSlot_freezeSets (parent : GenSt) : (d.freezeSets p parent).freeSlot = d.freeSlot :=
  freeSlot_of_same fun j => kept_freezeSets (.gen j) rfl

/-! ### The ways of a cut once the Platens stand -/

/-- The frames of the cut's generation are sought from here. -/
def Dev.cutFrozen (d : Dev) (x : ProofSt) (p : Nat) (debug : Bool) (fw : List Byte) : Dev :=
  d.freezeSets p (d.cutParent x p debug fw)

/-- The search for the frames of the cut's generation ends so. -/
def Dev.CutFits (d : Dev) (x : ProofSt) (p : Nat) (debug : Bool) (fw : List Byte) (d2 : Dev) (r : Option GenSt) : Prop :=
  (d.cutFrozen x p debug fw).fitGen p (d.cutGen x p debug fw) (d.cutParent x p debug fw) 17 = (d2, r)

theorem cutTakes_noSlot (h : d.freeSlot = none) : d.cutTakes x p debug fw = d.proofFails p 0x0B05 0 := by
  rw [Dev.cutTakes]
  simp only [freeSlot_freezeSets, h, withCows_freezeSets]

theorem cutTakes_noFrames (h : d.freeSlot = some i) (hf : d.CutFits x p debug fw d2 none) :
    d.cutTakes x p debug fw = (d2.withCows d.cows).proofFails p 0x0B05 0 := by
  rw [Dev.CutFits, Dev.cutFrozen] at hf
  rw [Dev.cutTakes]
  simp only [freeSlot_freezeSets, h, hf]

theorem cutTakes_taken (h : d.freeSlot = some i) (hf : d.CutFits x p debug fw d2 (some g)) :
    d.cutTakes x p debug fw = d2.cutArmed p i g := by
  rw [Dev.CutFits, Dev.cutFrozen] at hf
  rw [Dev.cutTakes]
  simp only [freeSlot_freezeSets, h, hf]

/-! ### Without frames -/

/-- What generations that retire touch. -/
def Place.retired : Place → Bool
  | .gen _ | .drain => true
  | _ => false

theorem cutFits_retires (hf : d.CutFits x p debug fw d2 r) :
    (d.cutFrozen x p debug fw).KeptOutside d2 Place.retired ∧
    ∀ g, r = some g → g = { d.cutGen x p debug fw with frames := g.frames, manWin := g.manWin, man := g.man } := by
  have keeps : (d.cutFrozen x p debug fw).KeepsParent (d.cutGen x p debug fw).mask (d.cutParent x p debug fw).id := by
    have gens (j : Nat) : (d.cutFrozen x p debug fw).gen j = d.gen j := kept_freezeSets (.gen j) rfl
    have parents : (d.cutFrozen x p debug fw).parents = d.parents := (kept_freezeSets .genNext rfl).2
    intro j hj
    rw [gens j, parents]
    exact keepsParent_cut x j hj
  obtain ⟨retires, laid⟩ := fitGen_retires 17 keeps hf
  exact ⟨retires.kept.mono fun y hy => by cases y <;> simp_all [Place.retired], laid⟩

theorem kept_withCows {area : Place → Bool} (cows : Table CowSt) (h : d.KeptOutside e area) :
    (d.withCows cows).KeptOutside (e.withCows cows) area := fun y hy => by
  have same := h y hy
  cases y
  case cow st => rfl
  all_goals exact same

/-- With the copy sets as they were, only generations have retired. -/
theorem kept_unfrozen (hf : d.CutFits x p debug fw d2 r) : d.KeptOutside (d2.withCows d.cows) Place.retired := by
  have frozen : (d.cutFrozen x p debug fw).withCows d.cows = d := withCows_freezeSets
  have kept := kept_withCows d.cows (cutFits_retires hf).1
  rwa [frozen] at kept

theorem Dev.ProofFails.counts {code : Nat} (h : e.ProofFails d2 p code)
    (hr : e.reg pgProof (proofReg p 0x5C) = d.reg pgProof (proofReg p 0x5C)) : d.ProofFails d2 p code :=
  { h with counted := by rw [h.counted, hr] }

/-- A place that the cut has left since it began. -/
def Place.beforeTaking (y : Place) : Bool := y.stood || y.retired

/-- A proof that fails as its generation is sought (R357). -/
theorem cut_fails {code unit : Nat} (hp : p < 4) (hl : d.NoLinkHolds) (hk : d.KeptOutside e Place.beforeTaking) :
    d.ProofFails (e.proofFails p code unit) p code ∧ (e.proofFails p code unit).genNext = d.genNext ∧
    e.KeptOutside (e.proofFails p code unit) (Place.failOf p) := by
  have page : diePage pgProof = false := by decide
  obtain ⟨fails, kept, -⟩ := proofFails_fails (code := code) (unit := unit) hp (noLinkHolds_of_same hl fun n => hk (.link n) rfl)
  refine ⟨fails.counts (hk (.reg pgProof _) ?_ (by simp only [proofReg]; omega) fun h => absurd h.1 (by decide)), ?_, kept⟩
  · simp [Place.beforeTaking, Place.stood, Place.retired, page]
  · exact (kept .genNext rfl).1.trans (hk .genNext rfl).1

/-! ### The generation taken -/

/-- What a cut that takes a generation touches. -/
def Place.cutTaken (d : Dev) (p : Nat) : Place → Bool
  | .gen _ | .drain | .genNext | .mem | .saveHold => true
  | .proof q => q == p
  | .cow st => (d.stacksOf p).contains st
  | .reg g o => o == 0x198 && (d.stacksOf p).any fun st => g == pgHbmc st
  | _ => false

theorem retired_cutTaken (y : Place) (h : y.retired = true) : y.cutTaken d p = true := by
  cases y <;> simp_all [Place.cutTaken, Place.retired]

theorem armOf_cutTaken (hs : e.stacksOf p = d.stacksOf p) (y : Place) (h : y.armOf e p i = true) : y.cutTaken d p = true := by
  cases y <;> simp_all [Place.cutTaken, Place.armOf, Place.takenOf]

/-- A stack's controller after a cut: its copy set frozen (R345). -/
structure Dev.Frozen (d e : Dev) (st : Nat) : Prop where
  armed : (e.cow st).armed = true
  shadow : (e.cow st).shadow = []
  done : (e.cow st).done = []
  clean : ∀ q, (e.cow st).dirty.has q = false
  copies : ∀ q, (d.cow st).dirty.has q = true → (e.cow st).copySet.has q = true

theorem cutArmed_takes (hf : d.CutFits x p debug fw d2 (some g)) :
    (d2.cutArmed p i g).gen i = g ∧ g = { d.cutGen x p debug fw with frames := g.frames, manWin := g.manWin, man := g.man } ∧
    (d2.cutArmed p i g).genNext = nextGen d.genNext ∧
    (d2.cutArmed p i g).proof p = { d.proof p with phase := .capture, slot := i } ∧
    (∀ st ∈ d.stacksOf p, d.Frozen (d2.cutArmed p i g) st ∧ (d.saveArea st, 162 * pageBytes) ∈ (d2.cutArmed p i g).saveHold) ∧
    d.KeptOutside (d2.cutArmed p i g) (Place.cutTaken d p) := by
  obtain ⟨retires, laid⟩ := cutFits_retires hf
  have frozen : d.KeptOutside (d.cutFrozen x p debug fw) fun | .cow st => (d.stacksOf p).contains st | _ => false := kept_freezeSets
  obtain ⟨gen, genNext, proof, holds, kept⟩ := cutArmed_facts (d := d2) (p := p) (i := i) (g := g)
  have stacks2 : d2.stacksOf p = d.stacksOf p := stacksOf_of_dies fun c => Eq.trans (retires (.die c) rfl) (frozen (.die c) rfl)
  have number : d2.genNext = d.genNext := (retires .genNext rfl).1.trans (frozen .genNext rfl).1
  have order : d2.proof p = d.proof p := Eq.trans (retires (.proof p) rfl) (frozen (.proof p) rfl)
  refine ⟨gen, laid g rfl, by rw [genNext, number], by rw [proof, order], fun st hst => ⟨?_, ?_⟩, ?_⟩
  · have cow : (d2.cutArmed p i g).cow st = (d.cow st).frozen (d.cutParent x p debug fw) st (d.imagePages st) :=
      Eq.trans (kept (.cow st) rfl) (Eq.trans (retires (.cow st) rfl) (cow_freezeSets hst))
    obtain ⟨armed, shadow, done, clean, copies⟩ := frozen_facts (d.cow st) (d.imagePages st) (parent := d.cutParent x p debug fw) (st := st)
    rw [← cow] at armed shadow done clean copies
    exact ⟨armed, shadow, done, clean, copies⟩
  · have base : d2.saveArea st = d.saveArea st := saveArea_of_same (Eq.trans
      (retires (.reg (pgHbmc st) 0x184) rfl (by decide) fun h => absurd h.1 (by simp only [pgHbmc, pgDie, pgRailjor]; omega))
      (frozen (.reg (pgHbmc st) 0x184) rfl (by decide) fun h => absurd h.1 (by simp only [pgHbmc, pgDie, pgRailjor]; omega)))
    rw [← base]
    exact holds st (by rwa [stacks2])
  · refine (((frozen.mono fun y hy => ?_).trans (retires.mono retired_cutTaken)).trans (kept.mono (armOf_cutTaken stacks2)))
    cases y
    case cow t => exact hy
    all_goals cases hy

end Sys2Proof.Machine
end

section
/-!
PROOF. The capture of a cut (R346, R353): every core's case and control image in its slot of the save area.
-/
namespace Sys2Proof.Machine

variable {d e : Dev} {p k j a : Nat} {m : Memory} {ks : List Nat}

/-! ### Slots of the save areas (R353) -/

/-- The save area of a stack lies within it. -/
def Dev.SaveFits (d : Dev) (st : Nat) : Prop := st < 8 ∧ d.shadowBase st + 162 ≤ stackPages

/-- Byte a lies in core k's case slot. -/
def Dev.InCaseSlot (d : Dev) (k a : Nat) : Prop := d.caseSlot k ≤ a ∧ a < d.caseSlot k + caseBytes

/-- Byte a lies in core k's control slot. -/
def Dev.InControlSlot (d : Dev) (k a : Nat) : Prop := d.controlSlot k ≤ a ∧ a < d.controlSlot k + 0x40000

theorem saveSlot_lt (k : Nat) : saveSlot k < 144 := by unfold saveSlot; omega

theorem saveStack_mem (h : d.owns p (coreDie k) = true) : saveStack k ∈ d.stacksOf p := by
  refine List.mem_flatMap.2 ⟨coreDie k, mem_diesOf.2 h, ?_⟩
  have half : k / 48 % 12 / 6 = 0 ∨ k / 48 % 12 / 6 = 1 := by omega
  simp only [saveStack, List.mem_cons, List.not_mem_nil, or_false]
  omega

/-- With no bad reserve, the save areas of the partition's stacks lie within them. -/
theorem saveFits_of_owned (hb : d.badReserve p = none) (h : d.owns p (coreDie k) = true) : d.SaveFits (saveStack k) := by
  have hst := saveStack_mem h
  have fits := List.find?_eq_none.1 hb _ hst
  have die : coreDie k < 4 := by simp only [Dev.owns, Bool.and_eq_true, decide_eq_true_eq] at h; exact h.1
  simp only [decide_eq_true_eq, not_or, Nat.not_lt] at fits
  refine ⟨by unfold saveStack; omega, by omega⟩

/-- Two cores of one stack have different slots. -/
theorem saveSlot_ne (hk : k < numCores) (hj : j < numCores) (h : k ≠ j) (hs : saveStack k = saveStack j) : saveSlot k ≠ saveSlot j := by
  unfold numCores at hk hj
  have rows : k / 48 / 12 = j / 48 / 12 ∧ k % 48 / 24 = j % 48 / 24 ∧ k / 48 % 12 / 6 = j / 48 % 12 / 6 := by
    have halves : k % 48 / 24 < 2 ∧ j % 48 / 24 < 2 := by omega
    have thirds : k / 48 % 12 / 6 < 2 ∧ j / 48 % 12 / 6 < 2 := by omega
    unfold saveStack coreDie at hs
    generalize k / 48 / 12 = row, k % 48 / 24 = half, k / 48 % 12 / 6 = third at *
    generalize j / 48 / 12 = row', j % 48 / 24 = half', j / 48 % 12 / 6 = third' at *
    omega
  obtain ⟨row, half, third⟩ := rows
  intro slot
  have column : k / 48 % 12 % 6 = j / 48 % 12 % 6 ∧ k % 48 % 24 = j % 48 % 24 := by unfold saveSlot at slot; omega
  omega

/-- Where a byte of core k's slots lies in the save area of its stack. -/
theorem slot_offset : (d.InCaseSlot k a ↔ ∃ o < 0x200000, a = d.saveArea (saveStack k) + saveSlot k * 0x200000 + o) ∧
    (d.InControlSlot k a ↔ ∃ o < 0x40000, a = d.saveArea (saveStack k) + 0x12000000 + saveSlot k * 0x40000 + o) := by
  have control : d.controlSlot k = d.saveArea (saveStack k) + 0x12000000 + saveSlot k * 0x40000 := by
    unfold Dev.controlSlot pageBytes; omega
  refine ⟨⟨fun h => ⟨a - d.caseSlot k, ?_, ?_⟩, ?_⟩, ⟨fun h => ⟨a - d.controlSlot k, ?_, ?_⟩, ?_⟩⟩
  · unfold Dev.InCaseSlot caseBytes at h; omega
  · unfold Dev.InCaseSlot Dev.caseSlot pageBytes at h; unfold Dev.caseSlot pageBytes; omega
  · rintro ⟨o, ho, rfl⟩; unfold Dev.InCaseSlot Dev.caseSlot pageBytes caseBytes; omega
  · unfold Dev.InControlSlot at h; omega
  · unfold Dev.InControlSlot at h; omega
  · rintro ⟨o, ho, rfl⟩; unfold Dev.InControlSlot; omega

/-- A byte of a core's slots. -/
def Dev.InSlots (d : Dev) (k a : Nat) : Prop := d.InCaseSlot k a ∨ d.InControlSlot k a

theorem slots_in_stack (hf : d.SaveFits (saveStack k)) (h : d.InSlots k a) :
    saveStack k * stackBytes ≤ a ∧ a < (saveStack k + 1) * stackBytes := by
  obtain ⟨-, fits⟩ := hf
  have slot := saveSlot_lt k
  have offset : ∃ o < 162 * 0x200000, a = d.saveArea (saveStack k) + o := by
    rcases h with h | h
    · obtain ⟨o, ho, rfl⟩ := slot_offset.1.1 h; exact ⟨saveSlot k * 0x200000 + o, by omega, by omega⟩
    · obtain ⟨o, ho, rfl⟩ := slot_offset.2.1 h; exact ⟨0x12000000 + saveSlot k * 0x40000 + o, by omega, by omega⟩
  obtain ⟨o, ho, rfl⟩ := offset
  unfold Dev.saveArea pageBytes stackBytes
  unfold stackPages at fits
  omega

/-- The slots of two cores do not overlap. -/
theorem slots_disjoint (hk : k < numCores) (hj : j < numCores) (hkf : d.SaveFits (saveStack k)) (hjf : d.SaveFits (saveStack j))
    (hne : k ≠ j) (h : d.InSlots k a) : ¬d.InSlots j a := by
  intro h'
  obtain ⟨klo, khi⟩ := slots_in_stack hkf h
  obtain ⟨jlo, jhi⟩ := slots_in_stack hjf h'
  have stack : saveStack k = saveStack j := by unfold stackBytes at *; omega
  have slot := saveSlot_ne hk hj hne stack
  have kslot := saveSlot_lt k
  have jslot := saveSlot_lt j
  rcases h with h | h <;> rcases h' with h' | h'
  · obtain ⟨o, ho, rfl⟩ := slot_offset.1.1 h; obtain ⟨o', ho', same⟩ := slot_offset.1.1 h'; rw [stack] at same; omega
  · obtain ⟨o, ho, rfl⟩ := slot_offset.1.1 h; obtain ⟨o', ho', same⟩ := slot_offset.2.1 h'; rw [stack] at same; omega
  · obtain ⟨o, ho, rfl⟩ := slot_offset.2.1 h; obtain ⟨o', ho', same⟩ := slot_offset.1.1 h'; rw [stack] at same; omega
  · obtain ⟨o, ho, rfl⟩ := slot_offset.2.1 h; obtain ⟨o', ho', same⟩ := slot_offset.2.1 h'; rw [stack] at same; omega

theorem case_not_control (h : d.InCaseSlot k a) : ¬d.InControlSlot k a := by
  intro h'
  have slot := saveSlot_lt k
  obtain ⟨o, ho, rfl⟩ := slot_offset.1.1 h
  obtain ⟨o', ho', same⟩ := slot_offset.2.1 h'
  omega

/-- A core's window lies above every slot. -/
theorem case_not_slots (hf : d.SaveFits (saveStack j)) (i : Nat) : ¬d.InSlots j (caseBase k + i) := by
  intro h
  obtain ⟨-, hi⟩ := slots_in_stack hf h
  obtain ⟨stack, -⟩ := hf
  unfold caseBase sramBase at hi
  unfold stackBytes at hi
  omega

/-! ### One core, and every core -/

theorem length_padTo (n : Nat) (bs : List Byte) : (padTo n bs).length = n := by
  simp only [padTo, List.length_take, List.length_append, List.length_replicate]; omega

theorem length_controlImage (k : Nat) : (d.controlImage k).length = 0x40000 := length_padTo _ _

/-- Memory once core k stands in its slots. -/
def Dev.capturedMem (d : Dev) (m : Memory) (k : Nat) : Memory :=
  (m.copy (caseBase k) (d.caseSlot k) caseBytes).write (d.controlSlot k) (d.controlImage k)

/-- Core k stands in its slots of memory m as the device has it. -/
structure Dev.Saved (d : Dev) (m : Memory) (k : Nat) : Prop where
  case_ : ∀ i < caseBytes, m.readByte (d.caseSlot k + i) = d.mem.readByte (caseBase k + i)
  control : m.read (d.controlSlot k) 0x40000 = d.controlImage k

theorem readByte_capturedMem (h : ¬d.InControlSlot k a) :
    (d.capturedMem m k).readByte a = (m.copy (caseBase k) (d.caseSlot k) caseBytes).readByte a := by
  refine readByte_write_outside ?_
  rw [length_controlImage]
  unfold Dev.InControlSlot at h
  omega

theorem readByte_capturedMem_outside (h : ¬d.InSlots k a) : (d.capturedMem m k).readByte a = m.readByte a := by
  obtain ⟨case_, control⟩ := not_or.1 h
  exact (readByte_capturedMem control).trans ((readByte_copy ..).trans (if_neg case_))

theorem saved_capturedMem (hm : ∀ i, m.readByte (caseBase k + i) = d.mem.readByte (caseBase k + i)) : d.Saved (d.capturedMem m k) k := by
  refine ⟨fun i hi => ?_, ?_⟩
  · have case_ : d.InCaseSlot k (d.caseSlot k + i) := ⟨by omega, by omega⟩
    refine (readByte_capturedMem (case_not_control case_)).trans ((readByte_copy ..).trans ((if_pos case_).trans ?_))
    rw [Nat.add_sub_cancel_left, hm]
  · rw [Dev.capturedMem, ← length_controlImage (d := d) k, read_write]

theorem readByte_captures_outside (h : ∀ j ∈ ks, ¬d.InSlots j a) : (ks.foldl d.capturedMem m).readByte a = m.readByte a := by
  induction ks generalizing m with
  | nil => rfl
  | cons c ks ih =>
    rw [List.foldl_cons, ih fun j hj => h j (List.mem_cons_of_mem _ hj),
      readByte_capturedMem_outside (h c List.mem_cons_self)]

/-- A core that stands in its slots stays there as others take theirs. -/
theorem saved_captures_others (hs : d.Saved m k) (h : ∀ j ∈ ks, ∀ a, d.InSlots k a → ¬d.InSlots j a) :
    d.Saved (ks.foldl d.capturedMem m) k := by
  refine ⟨fun i hi => ?_, ?_⟩
  · rw [readByte_captures_outside fun j hj => h j hj _ (.inl ⟨by omega, by omega⟩), hs.case_ i hi]
  · rw [← hs.control, read_eq_map, read_eq_map]
    refine List.map_congr_left fun i hi => readByte_captures_outside fun j hj => h j hj _ (.inr ?_)
    have := List.mem_range.1 hi
    exact ⟨by omega, by omega⟩

/-- Every core of a list of the partition's ends in its slots. -/
theorem saved_captures (hks : ∀ j ∈ ks, j < numCores ∧ d.SaveFits (saveStack j)) (hk : k ∈ ks)
    (hm : ∀ j i, m.readByte (caseBase j + i) = d.mem.readByte (caseBase j + i)) : d.Saved (ks.foldl d.capturedMem m) k := by
  induction ks generalizing m with
  | nil => cases hk
  | cons c ks ih =>
    have later : ∀ j ∈ ks, j < numCores ∧ d.SaveFits (saveStack j) := fun j hj => hks j (List.mem_cons_of_mem _ hj)
    obtain ⟨clt, cfits⟩ := hks c List.mem_cons_self
    rw [List.foldl_cons]
    by_cases hin : k ∈ ks
    · exact ih later hin fun j i => (readByte_capturedMem_outside (case_not_slots cfits i)).trans (hm j i)
    · have hkc : k = c := (List.mem_cons.1 hk).resolve_right hin
      subst hkc
      refine saved_captures_others (saved_capturedMem (hm k)) fun j hj a => ?_
      obtain ⟨jlt, jfits⟩ := later j hj
      exact slots_disjoint clt jlt cfits jfits fun h => hin (h ▸ hj)

/-! ### The device captured -/

def Dev.withMem (d : Dev) (mem : Memory) (ecc : List Nat) : Dev := { d with mem, ecc }

/-- One core into its slots. -/
def Dev.captureCore (d : Dev) (k : Nat) : Dev :=
  (d.moveBytes (caseBase k) (d.caseSlot k) caseBytes).poke (d.controlSlot k) (d.controlImage k)

/-- The cores of a partition. -/
def Dev.partCores (d : Dev) (p : Nat) : List Nat := (d.diesOf p).flatMap dieCores

/-- Every core of the partition into its slots. -/
def Dev.coresCaptured (d : Dev) (p : Nat) : Dev := (d.partCores p).foldl Dev.captureCore d

theorem captureCore_withMem (m : Memory) (ecc : List Nat) (k : Nat) :
    ∃ ecc', (d.withMem m ecc).captureCore k = d.withMem (d.capturedMem m k) ecc' := by
  have image : (d.withMem m ecc).controlImage k = d.controlImage k := rfl
  unfold Dev.captureCore
  rw [image]
  exact ⟨_, rfl⟩

theorem mem_captureCores (ecc : List Nat) : (ks.foldl Dev.captureCore (d.withMem m ecc)).mem = ks.foldl d.capturedMem m := by
  induction ks generalizing m ecc with
  | nil => rfl
  | cons c ks ih =>
    obtain ⟨ecc', one⟩ := captureCore_withMem (d := d) m ecc c
    rw [List.foldl_cons, one, ih, List.foldl_cons]

theorem kept_coresCaptured : d.Kept (d.coresCaptured p) [.mem] :=
  kept_foldl _ Dev.captureCore (fun _ _ _ => (kept_moveBytes _ _ _).seq (kept_poke _ _)) _

theorem coreDie_coreAt {c i : Nat} (hc : c < 4) (hi : i < 288) : coreDie (coreAt c i) = c ∧ coreAt c i < numCores := by
  unfold coreDie coreAt numCores; omega

theorem partCores_facts (h : k ∈ d.partCores p) : k < numCores ∧ d.owns p (coreDie k) = true := by
  obtain ⟨c, hc, hk⟩ := List.mem_flatMap.1 h
  obtain ⟨i, hi, rfl⟩ := List.mem_map.1 hk
  have owned := mem_diesOf.1 hc
  have die : c < 4 := by simp only [Dev.owns, Bool.and_eq_true, decide_eq_true_eq] at owned; exact owned.1
  obtain ⟨same, lt⟩ := coreDie_coreAt die (List.mem_range.1 hi)
  exact ⟨lt, by rw [same]; exact owned⟩

/-- With no bad reserve, every core of the partition ends in its slots (R346). -/
theorem saved_coresCaptured (hb : d.badReserve p = none) (hk : k < numCores) (ho : d.owns p (coreDie k) = true) :
    d.Saved (d.coresCaptured p).mem k := by
  rw [show (d.coresCaptured p).mem = _ from mem_captureCores (m := d.mem) d.ecc]
  refine saved_captures (fun j hj => ?_) (List.mem_flatMap.2 ⟨_, mem_diesOf.2 ho, mem_dieCores hk⟩) fun _ _ => rfl
  obtain ⟨lt, owned⟩ := partCores_facts hj
  exact ⟨lt, saveFits_of_owned hb owned⟩

end Sys2Proof.Machine
end

section
/-!
PROOF. Capture done (R346, R347, R359), and the statement of cuts.
-/
namespace Sys2Proof.Machine

variable {d e : Dev} {p : Nat}

/-! ### Movers with no run write nothing -/

theorem tget_none_of_all {α : Type} {t : Table (Option α)} (h : ∀ y ∈ t, y.2 = none) (k : Nat) : tget none t k = none := by
  induction t with
  | nil => rfl
  | cons y t ih =>
    obtain ⟨j, v⟩ := y
    have hv : v = none := h (j, v) List.mem_cons_self
    simp only [tget, ih fun y hy => h y (List.mem_cons_of_mem _ hy), hv, ite_self]

theorem pumpRun_none {c ch : Nat} (h : d.collRun c ch = none) : d.pumpRun c ch = d := by
  rw [Dev.pumpRun, h]

/-- Where no channel runs, letting the movers go on only sends what waits at the links. -/
theorem mem_releaseMovers (h : d.NoLinkHolds) (hc : ∀ c, ∀ y ∈ (d.coll c).chans, y.2 = none) : (d.releaseMovers p).mem = d.mem := by
  have idle : (d.modPart p PartSt.onward).releaseLinks p = d.modPart p PartSt.onward :=
    releaseLinks_idle (noLinkHolds_of_kept h (kept_modPart _ _) (by simp))
  let links := ((d.modPart p PartSt.onward).partLinks p).filter fun l => (d.modPart p PartSt.onward).lnHome l == l
  have sent : d.KeptOutside (links.foldl Dev.drainAll (d.modPart p PartSt.onward)) fun
      | .part _ | .link _ | .hdr _ | .reg _ _ | .out => true | _ => false :=
    ((kept_modPart _ _).outside (by simp)).trans
      (keptOutside_foldl _ (fun _ l => (keptOutside_drainAll l).mono fun x hx => by cases x <;> simp_all [Place.sendOf]) _ _)
  have runs (c ch : Nat) : (links.foldl Dev.drainAll (d.modPart p PartSt.onward)).collRun c ch = none := by
    rw [Dev.collRun, show Dev.coll _ c = d.coll c from sent (.coll c) rfl]
    exact tget_none_of_all (hc c) ch
  have release : d.releaseMovers p = (fun x : Dev => (x.diesOf p).foldl (fun d c => (List.range 4).foldl (fun d ch => d.pumpRun c ch) d) x)
      ((fun x : Dev => ((x.partLinks p).filter fun l => x.lnHome l == l).foldl Dev.drainAll x)
        ((d.modPart p PartSt.onward).releaseLinks p)) := rfl
  have still (cs : List Nat) : cs.foldl (fun d c => (List.range 4).foldl (fun d ch => d.pumpRun c ch) d)
      (links.foldl Dev.drainAll (d.modPart p PartSt.onward)) = links.foldl Dev.drainAll (d.modPart p PartSt.onward) := by
    refine List.foldlRecOn (motive := (· = _)) cs _ rfl fun x hx c _ => ?_
    refine List.foldlRecOn (motive := (· = _)) _ _ hx fun x hx ch _ => ?_
    rw [hx, pumpRun_none (runs c ch)]
  rw [release, idle]
  exact (congrArg Dev.mem (still _)).trans (sent .mem rfl).1

/-! ### A cold cut with a bad directory -/

/-- The directory a cold cut captures (R359). -/
def Dev.captureDir (d : Dev) (p : Nat) : List Byte :=
  if (d.proof p).cold then d.read (d.reg64 pgProof (proofReg p 0x28) % 2 ^ 48) (32 * d.prf p 0x24) else []

/-- An entry of a cold cut's directory leaves the image. -/
def Dev.captureBad (d : Dev) (p : Nat) : Bool :=
  (d.proof p).cold && (List.range (d.prf p 0x24)).any fun i => d.tdirBad p (((d.captureDir p).drop (32 * i)).take 32)

/-- The generation gone, its number back where it was the last given. -/
def Dev.captureUndone (d : Dev) (p : Nat) : Dev :=
  (d.withGenNext (if d.genNext = nextGen (d.gen (d.proof p).slot).id then (d.gen (d.proof p).slot).id else d.genNext)).modGen
    (d.proof p).slot fun _ => {}

theorem captureDone_bad (hph : (d.proof p).phase = .capture) (hb : d.captureBad p = true) :
    d.captureDone p = ((d.captureUndone p).disarm p true).proofFails p 0x0B05 0 := by
  unfold Dev.captureDone
  exact (if_neg (by simp [hph])).trans (if_pos hb)

theorem captureUndone_facts : d.Kept (d.captureUndone p) [.genNext, .gen (d.proof p).slot] ∧
    (d.captureUndone p).gen (d.proof p).slot = {} ∧
    (d.genNext = nextGen (d.gen (d.proof p).slot).id → (d.captureUndone p).genNext = (d.gen (d.proof p).slot).id) := by
  refine ⟨(kept_withGenNext _).trans (kept_modGen _ _), Dev.gen_modGen_self _ _ _, fun h => ?_⟩
  refine ((kept_modGen _ _) .genNext (by simp)).1.trans ?_
  exact if_pos h

/-- A capture that fails leaves no generation, and gives the number back. -/
theorem capture_fails {code unit : Nat} (hp : p < 4) (hl : d.NoLinkHolds) (e : Dev)
    (he : e = ((d.captureUndone p).disarm p true).proofFails p code unit) :
    d.ProofFails e p code ∧ e.gen (d.proof p).slot = {} ∧
    (d.genNext = nextGen (d.gen (d.proof p).slot).id → e.genNext = (d.gen (d.proof p).slot).id) ∧
    (∀ st ∈ d.stacksOf p, (e.cow st).armed = false) ∧ ∀ i, Place.Same d e (.sess i) := by
  subst he
  obtain ⟨undone, gen, genNext⟩ := captureUndone_facts (d := d) (p := p)
  have disarmed := keptOutside_disarm (d := d.captureUndone p) (p := p) (again := true)
  have links : ((d.captureUndone p).disarm p true).NoLinkHolds :=
    noLinkHolds_of_same (noLinkHolds_of_kept hl undone (by simp)) fun n => disarmed (.link n) rfl
  obtain ⟨fails, kept, armed⟩ := proofFails_fails (code := code) (unit := unit) hp links
  refine ⟨fails.counts ?_, ?_, fun h => ?_, fun st hst => ?_, fun i => ?_⟩
  · exact Eq.trans (disarmed (.reg pgProof _) rfl (by simp only [proofReg]; omega) fun h => absurd h.1 (by decide))
      (undone (.reg pgProof _) (by simp) (by simp only [proofReg]; omega) fun h => absurd h.1 (by decide))
  · exact Eq.trans (kept (.gen _) rfl) (Eq.trans (disarmed (.gen _) rfl) gen)
  · exact (kept .genNext rfl).1.trans ((disarmed .genNext rfl).1.trans (genNext h))
  · have same : (d.captureUndone p).stacksOf p = d.stacksOf p := stacksOf_of_dies fun c => undone (.die c) (by simp)
    rw [armed st, cow_disarm (by rwa [same])]
    rfl
  · exact ((undone (.sess i) (by simp)).trans (disarmed (.sess i) rfl)).trans (kept (.sess i) rfl)

/-! ### A cut captured -/

def GenSt.withTdir (g : GenSt) (tdir : List Byte) : GenSt := { g with tdir }

def ProofSt.copying (x : ProofSt) : ProofSt := { x with phase := .copy }

/-- A cut captured, before the movers go on. -/
def Dev.captureTold (d : Dev) (p : Nat) (tdir : List Byte) : Dev :=
  (((d.coresCaptured p).modGen (d.proof p).slot fun g => g.withTdir tdir).modProof p ProofSt.copying).raise pgProof (8 * p)

theorem captureDone_good (hph : (d.proof p).phase = .capture) (hb : d.captureBad p = false) :
    d.captureDone p = (d.captureTold p (d.captureDir p)).releaseMovers p := by
  unfold Dev.captureDone
  exact (if_neg (by simp [hph])).trans (if_neg (by rw [← Bool.not_eq_true] at hb; exact hb))

theorem kept_captureTold (tdir : List Byte) :
    d.Kept (d.captureTold p tdir) [.mem, .gen (d.proof p).slot, .proof p, .hdr pgProof] :=
  (((kept_coresCaptured.mono (by simp)).seq ((kept_modGen _ _).mono (by simp))).seq ((kept_modProof _ _).mono (by simp))).seq
    ((kept_raise _ _).mono (by simp))

theorem captureTold_facts (tdir : List Byte) : (d.captureTold p tdir).proof p = (d.proof p).copying ∧
    (d.captureTold p tdir).gen (d.proof p).slot = (d.gen (d.proof p).slot).withTdir tdir ∧
    (d.captureTold p tdir).hdr pgProof = (d.hdr pgProof).raised (8 * p) ∧
    (d.captureTold p tdir).mem = (d.coresCaptured p).mem := by
  have cores := kept_coresCaptured (d := d) (p := p)
  refine ⟨?_, ?_, ?_, (((kept_modGen _ _).trans (kept_modProof _ _)).trans (kept_raise _ _) .mem (by simp)).1⟩
  · refine Eq.trans (kept_raise _ _ (.proof p) (by simp)) ?_
    rw [Dev.proof_modProof_self, Dev.proof_modGen, show (d.coresCaptured p).proof p = d.proof p from cores (.proof p) (by simp)]
  · refine Eq.trans (((kept_modProof _ _).trans (kept_raise _ _)) (.gen _) (by simp)) ?_
    rw [Dev.gen_modGen_self, show (d.coresCaptured p).gen (d.proof p).slot = d.gen _ from cores (.gen _) (by simp)]
  · rw [Dev.captureTold, hdr_raise_self, Dev.hdr_modProof, Dev.hdr_modGen,
      show (d.coresCaptured p).hdr pgProof = d.hdr pgProof from cores (.hdr pgProof) (by simp)]

/-- A cut captured: the cores in their slots, and the movers on their way (R346). -/
theorem capture_takes (hl : d.NoLinkHolds) (hb : d.badReserve p = none) (tdir : List Byte) (e : Dev)
    (he : e = (d.captureTold p tdir).releaseMovers p) :
    e.proof p = (d.proof p).copying ∧ e.gen (d.proof p).slot = (d.gen (d.proof p).slot).withTdir tdir ∧
    e.hdr pgProof = (d.hdr pgProof).raised (8 * p) ∧ ((e.part p).moversHeld = false ∧ (e.part p).released = true) ∧
    ((∀ c, ∀ y ∈ (d.coll c).chans, y.2 = none) → ∀ k < numCores, d.owns p (coreDie k) = true → d.Saved e.mem k) ∧
    d.KeptOutside e fun q => q.goingOn p || q == .proof p || q == .gen (d.proof p).slot := by
  subst he
  have told := kept_captureTold (d := d) (p := p) tdir
  obtain ⟨proof, gen, hdr, mem⟩ := captureTold_facts (d := d) (p := p) tdir
  have links : (d.captureTold p tdir).NoLinkHolds := noLinkHolds_of_kept hl told (by simp)
  have later := kept_releaseMovers (p := p) links
  refine ⟨Eq.trans (later (.proof p) rfl) proof, Eq.trans (later (.gen _) rfl) gen, Eq.trans (later (.hdr pgProof) rfl) hdr,
    onward_releaseMovers links, fun hc k hk ho => ?_, (told.outside ?_).trans (later.mono fun x hx => ?_)⟩
  · have idle : ∀ c, ∀ y ∈ ((d.captureTold p tdir).coll c).chans, y.2 = none := fun c => by
      rw [show (d.captureTold p tdir).coll c = d.coll c from told (.coll c) (by simp)]; exact hc c
    rw [mem_releaseMovers links idle, mem]
    exact saved_coresCaptured hb hk ho
  · simp [Place.goingOn, Place.collOf]
  · cases x <;> simp_all [Place.goingOn, Place.collOf, Place.streaming]

end Sys2Proof.Machine
end

section
/-!
PROOF. The statement of cuts (R344–R347, R352, R355–R359), from quiesce to capture.
-/
namespace Sys2Proof.Machine

variable {s : State} {d : Dev} {p : Nat} {x : ProofSt} {debug : Bool} {fw : List Byte}

/-! ### The generation of a cut, with the Platens at a tile -/

/-- The Platens reach their tile without a change of the generations. -/
theorem cutParent_stood : (d.platensStood p).cutParent x p debug fw = d.genOf ((d.platensStood p).newGen x p debug fw).hdr.parent :=
  genOf_of_same (fun i => stood_platensStood (.gen i) rfl) _

theorem stacksOf_stood : (d.platensStood p).stacksOf p = d.stacksOf p :=
  stacksOf_of_dies fun c => stood_platensStood (.die c) rfl

theorem saveArea_stood (st : Nat) : (d.platensStood p).saveArea st = d.saveArea st := by
  have page : pgHbmc st % 0x40 = 2 ∨ pgHbmc st % 0x40 = 3 := by unfold pgHbmc pgDie; omega
  refine saveArea_of_same (stood_platensStood (.reg (pgHbmc st) 0x184) ?_ (by decide)
    fun h => absurd h.1 (by simp only [pgHbmc, pgDie, pgRailjor]; omega))
  rcases page with page | page <;> simp [Place.stood, page]

/-! ### Quiesce takes too long -/

theorem quiesceTimeout_eq (hph : (d.proof p).phase = .quiesce) : d.quiesceTimeout p =
    (d.advanceTo ((d.proof p).cutTime + 1000 * d.prf p 0x14)).proofFails p 0x0B04
      (((d.usedLinks p).find? fun n => !d.lnActive n).getD 0) := if_neg (by simp [hph])

/-- The device at a later time, its proof failed (R344). -/
theorem late_fails {t code unit : Nat} (hp : p < 4) (hl : d.NoLinkHolds) (e : Dev) (he : e = (d.advanceTo t).proofFails p code unit) :
    d.ProofFails e p code ∧ e.time = max d.time t ∧ e.genNext = d.genNext ∧
    d.KeptOutside e fun q => q.goingOn p || q == .proof p || q == .time := by
  subst he
  have later : d.Kept (d.advanceTo t) [.time] := kept_advanceTo t
  obtain ⟨fails, kept, -⟩ := proofFails_fails (code := code) (unit := unit) hp (noLinkHolds_of_kept hl later (by simp))
  refine ⟨fails.counts rfl, (kept .time rfl).1, (kept .genNext rfl).1, (later.outside (by simp)).trans (kept.mono fun x hx => ?_)⟩
  rw [Bool.or_eq_true]
  exact .inl hx

/-- Settles O44: quiesce, arm and capture, and each way a cut fails. -/
theorem proofCuts : Obligations.ProofCuts := by
  unfold Obligations.ProofCuts
  intro s p hup hp hn hl d x fail dd cut parent start onward fails failsIn
  have stood : d.KeptOutside dd Place.stood := stood_platensStood
  have parentStood : parent = dd.cutParent x p s.sec.debugOpen s.sec.fwDigest := cutParent_stood.symm
  have startStood : start = dd.cutGen x p s.sec.debugOpen s.sec.fwDigest :=
    congrArg (fun y : GenSt => { cut with hdr := { cut.hdr with parent := y.id } }) parentStood
  have slot : dd.freeSlot = d.freeSlot := freeSlot_of_same fun i => stood (.gen i) rfl
  have number : dd.genNext = d.genNext := (stood .genNext rfl).1
  have failing {e : Dev} {code : Nat} (h : d.ProofFails e p code) : fails e code := by
    obtain ⟨phase, errCode, raised, counted, onward⟩ := h
    exact ⟨phase, errCode, raised, counted, onward⟩
  have fits {d2 : Dev} {r : Option GenSt} (h : (dd.freezeSets p parent).fitGen p start parent 17 = (d2, r)) :
      dd.CutFits x p s.sec.debugOpen s.sec.fwDigest d2 r := by
    rw [Dev.CutFits, Dev.cutFrozen, ← startStood, ← parentStood]; exact h
  have failsFrom (f : Dev) (area more : Place → Bool) (hf : dd.KeptOutside f area) (hr : ∀ q, area q = true → q.retired = true)
      (hm : ∀ q, area q = true → more q = true)
      (run : d.quiesceDone p s.sec.debugOpen s.sec.fwDigest = f.proofFails p 0x0B05 0) : failsIn (.quiesceDone p) 0x0B05 more := by
    have before : d.KeptOutside f Place.beforeTaking :=
      (stood.mono fun q hq => by simp [Place.beforeTaking, hq]).trans (hf.mono fun q hq => by simp [Place.beforeTaking, hr q hq])
    obtain ⟨told, genNext, kept⟩ := cut_fails (code := 0x0B05) (unit := 0) hp hl before
    have settled := noTransfers_of_keptOutside (noTransfers_of_keptOutside hn before fun _ => rfl) kept fun _ => rfl
    refine ⟨_, runIf_settled hup (decide_eq_true hp) (f := fun c d => d.quiesceDone p c.sec.debugOpen c.sec.fwDigest)
      (Eq.mp (congrArg Dev.NoTransfers run.symm) settled), ?_⟩
    rw [show s.dev.quiesceDone p s.chip.sec.debugOpen s.chip.sec.fwDigest = _ from run]
    refine ⟨failing told, genNext, (hf.mono fun q hq => ?_).trans (kept.mono fun q hq => ?_)⟩
    · rw [Bool.or_eq_true]; exact .inr (hm q hq)
    · rw [Bool.or_eq_true]; exact .inl hq
  refine ⟨fun hph hq => ⟨fun full => ?_, fun i d2 free hfit => ?_, fun i d2 g free hfit => ?_⟩, fun hph => ?_,
    fun hph hb => ⟨fun hbad => ?_, fun hgood => ?_⟩⟩
  · exact failsFrom dd (fun _ => false) _ (.refl dd) (fun _ h => by cases h) (fun _ h => by cases h)
      ((quiesceDone_eq hph hq).trans (cutTakes_noSlot (slot.trans full)))
  · exact failsFrom _ Place.retired _ (kept_unfrozen (fits hfit)) (fun _ h => h)
      (fun | .gen _, _ | .drain, _ => rfl)
      ((quiesceDone_eq hph hq).trans (cutTakes_noFrames (slot.trans free) (fits hfit)))
  · have run := (quiesceDone_eq hph hq).trans (cutTakes_taken (slot.trans free) (fits hfit))
    obtain ⟨gen, laid, genNext, proof, frozen, kept⟩ := cutArmed_takes (i := i) (fits hfit)
    have settled := noTransfers_of_keptOutside (noTransfers_of_keptOutside hn stood fun _ => rfl) kept fun _ => rfl
    refine ⟨_, runIf_settled hup (decide_eq_true hp) (f := fun c d => d.quiesceDone p c.sec.debugOpen c.sec.fwDigest)
      (Eq.mp (congrArg Dev.NoTransfers run.symm) settled), ?_⟩
    rw [show s.dev.quiesceDone p s.chip.sec.debugOpen s.chip.sec.fwDigest = _ from run]
    refine ⟨gen, by rw [startStood]; exact laid, by rw [genNext, number], ?_, fun st hst => ?_, kept.mono fun q hq => ?_⟩
    · rw [proof, show dd.proof p = d.proof p from stood (.proof p) rfl]
    · obtain ⟨⟨armed, shadow, done, clean, copies⟩, held⟩ := frozen st (by rwa [show dd.stacksOf p = _ from stacksOf_stood])
      rw [show dd.saveArea st = _ from saveArea_stood st] at held
      exact ⟨armed, shadow, done, clean, copies, held⟩
    · have stacks_ : dd.stacksOf p = d.stacksOf p := stacksOf_stood
      rw [← stacks_]
      cases q <;> exact hq
  · obtain ⟨told, time, genNext, kept⟩ := late_fails (code := 0x0B04) (unit := ((d.usedLinks p).find? fun n => !d.lnActive n).getD 0)
      hp hl _ (quiesceTimeout_eq hph)
    exact ⟨_, runIf_settled hup (decide_eq_true hp) (f := fun _ d => d.quiesceTimeout p)
      (noTransfers_of_keptOutside hn kept fun _ => rfl), failing told, time, genNext, kept⟩
  · obtain ⟨told, gen, genNext, disarmed, sess⟩ := capture_fails hp hl _ (captureDone_bad hph hbad)
    exact ⟨_, runIf_settled hup (decide_eq_true hp) (f := fun _ d => d.captureDone p) (noTransfers_of_same hn sess),
      failing told, gen, genNext, disarmed⟩
  · obtain ⟨proof, gen, hdr, moving, saved, kept⟩ := capture_takes hl hb (d.captureDir p) _ (captureDone_good hph hgood)
    refine ⟨_, runIf_settled hup (decide_eq_true hp) (f := fun _ d => d.captureDone p)
      (noTransfers_of_keptOutside hn kept fun _ => rfl), proof, gen, hdr, moving, fun hc k hk ho => ?_, kept⟩
    obtain ⟨case_, control⟩ := saved hc k hk ho
    exact ⟨case_, control⟩

end Sys2Proof.Machine
end
